-- ==== Sys2Proof/Word.lean ====
section
/-!
DEFINITION. The word types of the Halora 9 (R9, R12, R13) and their plainest arithmetic.
-/
namespace Sys2Proof

/-- A byte of memory. -/
abbrev Byte := BitVec 8
/-- A 64-bit register value (R161). -/
abbrev W64 := BitVec 64

/-- Scalar registers s0 … s63 (R6, R48). -/
abbrev SReg := Fin 64
/-- Vector registers v0 … v127. -/
abbrev VReg := Fin 128
/-- Mask registers k0 … k7. -/
abbrev KReg := Fin 8
/-- Tile registers t0 … t15. -/
abbrev TReg := Fin 16
/-- Buffer records b0 … b15. -/
abbrev BReg := Fin 16
/-- Record registers under R97: 0 … 15 are b0 … b15, 16 … 23 are L0 … L7. -/
abbrev RecReg := Fin 24
/-- Matrix-parameter registers m0 … m7. -/
abbrev MReg := Fin 8
/-- Manger offset registers o0 … o7. -/
abbrev OReg := Fin 8
/-- Cores 0 … 127 (R1). -/
abbrev CoreId := Fin 128

/-- `n` bits of the number `w` from bit `lo` upward. -/
def bits (w lo n : Nat) : Nat := w / 2 ^ lo % 2 ^ n

/-- Bits `[lo + n - 1 : lo]` of a 64-bit value, as a number. -/
def W64.fld (w : W64) (lo n : Nat) : Nat := bits w.toNat lo n

/-- The 64-bit value of a number (assignment keeps the low-order bits, R10). -/
def w64 (n : Nat) : W64 := BitVec.ofNat 64 n

/-- The 64-bit two's complement value of an integer (R13). -/
def w64i (i : Int) : W64 := BitVec.ofInt 64 i

/-- A truth value as a 64-bit 0 or 1. -/
def w64b (b : Bool) : W64 := if b then 1 else 0

/-- A truth value as a bit. -/
def bit (b : Bool) : Nat := if b then 1 else 0

end Sys2Proof
end

