-- ==== Sys2Proof/Syntax.lean ====
section
/-!
DEFINITION. The instruction set of the Halora 9 as syntax: one constructor per row of the opcode table (slot
instructions of R49, the control-register writes with a behaviour of their own, the micro-operations of R266, and the
steps the device takes by itself). Fields carry the numbers the encoding tables give them; a header extends register
numbers and immediates (R45).
-/
namespace Sys2Proof

/-- One constructor per row of the opcode table. A row to which the table gives no slot word has no operand fields here
either: a micro-operation acts on the operands of the micro-word the matrix unit runs (`MicroOp`), a step of the device
and a control-register write on the `Subject` held in the state. The constructors with fields stand first. -/
inductive Instr where
  /-- `add` (R164): sd := sa + sb, wrapping. -/
  | add (d : SReg) (a : SReg) (b : SReg)
  /-- `sub` (R164): sd := sa - sb, wrapping. -/
  | sub (d : SReg) (a : SReg) (b : SReg)
  /-- `mul` (R164): sd := low 64 bits of sa × sb. -/
  | mul (d : SReg) (a : SReg) (b : SReg)
  /-- `mulh` (R164): sd := high 64 bits of the 128-bit product, signed or unsigned (.n64). -/
  | mulh (d : SReg) (a : SReg) (b : SReg) (u : Bool)
  /-- `div` (R165): Quotient rounded toward zero; division by zero gives all ones. -/
  | div (d : SReg) (a : SReg) (b : SReg) (u : Bool)
  /-- `rem` (R165): Remainder with the sign of sa; division by zero gives sa. -/
  | rem (d : SReg) (a : SReg) (b : SReg) (u : Bool)
  /-- `and` (R164): sd := sa AND sb. -/
  | and (d : SReg) (a : SReg) (b : SReg)
  /-- `or` (R164): sd := sa OR sb. -/
  | or (d : SReg) (a : SReg) (b : SReg)
  /-- `xor` (R164): sd := sa XOR sb. -/
  | xor (d : SReg) (a : SReg) (b : SReg)
  /-- `andn` (R164): sd := sa AND NOT sb. -/
  | andn (d : SReg) (a : SReg) (b : SReg)
  /-- `sll` (R165): Shifts left; an amount of 64 or more gives 0. -/
  | sll (d : SReg) (a : SReg) (b : SReg)
  /-- `srl` (R165): Logical shift right; an amount of 64 or more gives 0. -/
  | srl (d : SReg) (a : SReg) (b : SReg)
  /-- `sra` (R165): Arithmetic shift right, with the amount clamped to 63. -/
  | sra (d : SReg) (a : SReg) (b : SReg)
  /-- `slt` (R164): sd := 1 if sa < sb, signed or unsigned (.n64). -/
  | slt (d : SReg) (a : SReg) (b : SReg) (u : Bool)
  /-- `min` (R164): sd := the smaller of sa and sb. -/
  | min (d : SReg) (a : SReg) (b : SReg) (u : Bool)
  /-- `max` (R164): sd := the larger of sa and sb. -/
  | max (d : SReg) (a : SReg) (b : SReg) (u : Bool)
  /-- `adds` (R164): Saturating add. -/
  | adds (d : SReg) (a : SReg) (b : SReg) (u : Bool)
  /-- `subs` (R164): Saturating subtract. -/
  | subs (d : SReg) (a : SReg) (b : SReg) (u : Bool)
  /-- `clz` (R164): Counts the leading zeros of sa; 0 gives 64. -/
  | clz (d : SReg) (a : SReg)
  /-- `ctz` (R164): Counts the trailing zeros of sa; 0 gives 64. -/
  | ctz (d : SReg) (a : SReg)
  /-- `popc` (R164): Counts the set bits of sa. -/
  | popc (d : SReg) (a : SReg)
  /-- `shadd` (R164): sd := (sa << s) + sb, for s from 0 to 4. -/
  | shadd (d : SReg) (a : SReg) (b : SReg) (k : Fin 16)
  /-- `addi` (R166): sd := sa + immediate. -/
  | addi (d : SReg) (a : SReg) (i : BitVec 17)
  /-- `andi` (R166): sd := sa AND immediate. -/
  | andi (d : SReg) (a : SReg) (i : BitVec 17)
  /-- `ori` (R166): sd := sa OR immediate. -/
  | ori (d : SReg) (a : SReg) (i : BitVec 17)
  /-- `xori` (R166): sd := sa XOR immediate. -/
  | xori (d : SReg) (a : SReg) (i : BitVec 17)
  /-- `slti` (R166): Signed set-less-than against the immediate. -/
  | slti (d : SReg) (a : SReg) (i : BitVec 17)
  /-- `sltiu` (R166): Unsigned set-less-than against the immediate. -/
  | sltiu (d : SReg) (a : SReg) (i : BitVec 17)
  /-- `muli` (R166): sd := low 64 bits of sa × immediate. -/
  | muli (d : SReg) (a : SReg) (i : BitVec 17)
  /-- `seqi` (R166): sd := 1 if sa equals the immediate. -/
  | seqi (d : SReg) (a : SReg) (i : BitVec 17)
  /-- `lui` (R167): sd := sign-extended immediate × 4096. -/
  | lui (d : SReg) (i : BitVec 27)
  /-- `adrb` (R167): sd := bundle address + immediate × 16. -/
  | adrb (d : SReg) (i : BitVec 27)
  /-- `slli` (R168): Shifts left by an immediate. -/
  | slli (d : SReg) (a : SReg) (n : Fin 64)
  /-- `srli` (R168): Logical shift right by an immediate. -/
  | srli (d : SReg) (a : SReg) (n : Fin 64)
  /-- `srai` (R168): Arithmetic shift right by an immediate. -/
  | srai (d : SReg) (a : SReg) (n : Fin 64)
  /-- `bfx` (R168): Extracts an unsigned bit field. -/
  | bfx (d : SReg) (a : SReg) (l : Fin 64) (n : Fin 64)
  /-- `beq` (R170): Branches if sa = sb. -/
  | beq (a : SReg) (b : SReg) (i : BitVec 17)
  /-- `bne` (R170): Branches if sa ≠ sb. -/
  | bne (a : SReg) (b : SReg) (i : BitVec 17)
  /-- `blt` (R170): Branches if sa < sb, signed. -/
  | blt (a : SReg) (b : SReg) (i : BitVec 17)
  /-- `bge` (R170): Branches if sa ≥ sb, signed. -/
  | bge (a : SReg) (b : SReg) (i : BitVec 17)
  /-- `bltu` (R170): Branches if sa < sb, unsigned. -/
  | bltu (a : SReg) (b : SReg) (i : BitVec 17)
  /-- `bgeu` (R170): Branches if sa ≥ sb, unsigned. -/
  | bgeu (a : SReg) (b : SReg) (i : BitVec 17)
  /-- `br` (R171): Unconditional branch by a bundle displacement. -/
  | br (i : BitVec 33)
  /-- `call` (R171): Writes the link s1 and branches. -/
  | call (i : BitVec 33)
  /-- `jr` (R172): Jumps to the bundle held in sa. -/
  | jr (a : SReg)
  /-- `callr` (R173): Checks the signature class, then writes the link and jumps indirectly. -/
  | callr (d : SReg) (a : SReg) (c : Fin 16)
  /-- `loop` (R172): Decrements the counter and branches backward while it is nonzero. -/
  | loop (d : SReg) (i : Fin 1024)
  /-- `ret` (R172): Returns to the bundle held in sa; a class other than 0 traps. -/
  | ret (a : SReg)
  /-- `kand` (R176): Mask AND. -/
  | kand (d : KReg) (a : KReg) (b : KReg)
  /-- `kor` (R176): Mask OR. -/
  | kor (d : KReg) (a : KReg) (b : KReg)
  /-- `kxor` (R176): Mask XOR. -/
  | kxor (d : KReg) (a : KReg) (b : KReg)
  /-- `kandn` (R176): Mask AND NOT. -/
  | kandn (d : KReg) (a : KReg) (b : KReg)
  /-- `kset` (R176): Sets the mask bits below sa and clears the rest. -/
  | kset (d : KReg) (a : SReg)
  /-- `kcnt` (R176): Counts the set mask bits below c.vl. -/
  | kcnt (d : SReg) (a : KReg)
  /-- `kfind` (R176): Gives the index of the lowest set mask bit below c.vl. -/
  | kfind (d : SReg) (a : KReg)
  /-- `rdc` (R183): Reads a control register named by number. -/
  | rdc (d : SReg) (n : BitVec 12)
  /-- `wrc` (R183): Writes a control register; covers every register with no behaviour of its own. -/
  | wrc (a : SReg) (n : BitVec 12)
  /-- `setc` (R184): Reads a control register and ORs sa into it, indivisibly. -/
  | setc (d : SReg) (a : SReg) (n : BitVec 12)
  /-- `clrc` (R184): Reads a control register and clears the bits of sa, indivisibly. -/
  | clrc (d : SReg) (a : SReg) (n : BitVec 12)
  /-- `xchc` (R184): Exchanges sa with a control register. -/
  | xchc (d : SReg) (a : SReg) (n : BitVec 12)
  /-- `addc` (R184): Reads a control register and adds sa to it. -/
  | addc (d : SReg) (a : SReg) (n : BitVec 12)
  /-- `rdcz` (R184): Reads a control register and zeroes it. -/
  | rdcz (d : SReg) (n : BitVec 12)
  /-- `rdcr` (R183): Reads the control register whose number is held in sa. -/
  | rdcr (d : SReg) (a : SReg)
  /-- `wrc` (R179): A write of c.vl sets VL := min(value, 16384). -/
  | writeCVl (a : SReg)
  /-- `wrc` (R180): A write of c.pri sets BASE, clamped to the context's ceiling. -/
  | writeCPri (a : SReg)
  /-- `tlbinv.page` (R89): Removes one context's translations of one page and waits for the users of them to finish. -/
  | tlbinvPage (a : SReg) (b : SReg) (z : Fin 4)
  /-- `tlbinv.ctx` (R89): Removes every translation of one context's ASN. -/
  | tlbinvCtx (b : SReg)
  /-- `rgsync.wb` (R90): Writes back every dirty granule of a region. -/
  | rgsyncWb (a : SReg) (b : SReg)
  /-- `rgsync.fill` (R90): Fills every non-resident granule of a region. -/
  | rgsyncFill (a : SReg) (b : SReg)
  /-- `rgsync.evict` (R90): Writes back a region's granules, then makes them non-resident. -/
  | rgsyncEvict (a : SReg) (b : SReg)
  /-- `rgsync.discard` (R90): Makes a region's granules non-resident and clean without write-back. -/
  | rgsyncDiscard (a : SReg) (b : SReg)
  /-- `phase` (R319): Arrives with the target of the next phase. -/
  | phase (d : SReg)
  /-- `phase.c` (R319): Arrives with the target of the next compute phase. -/
  | phaseC (d : SReg)
  /-- `phleft` (R320): Gives the budget left in the current phase. -/
  | phleft (d : SReg)
  /-- `phuntil` (R319): Arrives with the target phase sa, unless that phase is already reached. -/
  | phuntil (d : SReg) (a : SReg)
  /-- `spawn` (R360): Pushes a continuation record from the loft into the own queue. -/
  | spawn (a : SReg)
  /-- `spawnt` (R360): Pushes a continuation record into another core's queue. -/
  | spawnt (a : SReg) (b : SReg)
  /-- `join` (R361): Decrements a join count, pushing the record when the count reaches 0. -/
  | join (d : SReg) (a : SReg)
  /-- `grow` (R362): Raises the group count of the task's grid. -/
  | grow (d : SReg) (a : SReg)
  /-- `tendj` (R361): Ends the task like tend, performing a join on sa before the bank is freed. -/
  | tendj (a : SReg)
  /-- `launch` (R365): Makes a job from a packet image for the queue of a core. -/
  | launch (d : SReg) (a : SReg) (b : SReg)
  /-- `trap` (R441): Raises the breakpoint trap with n. -/
  | trap (n : Fin 16)
  /-- `ckpt` (R444): Records a checkpoint address and the current phase. -/
  | ckpt (a : SReg)
  /-- `fqwait` (R445): Waits for a fault record of the die and returns its context. -/
  | fqwait (d : SReg)
  /-- `fqpop` (R445): Moves a context's oldest fault record into the loft. -/
  | fqpop (d : SReg) (a : SReg) (b : SReg)
  /-- `ctxkill` (R446): Destroys a context. -/
  | ctxkill (a : SReg)
  /-- `ctxrel` (R446): Reloads a context's trap settings and lets its unhandled-frozen tasks continue. -/
  | ctxrel (a : SReg)
  /-- `vadd` (R199): Vector integer add, wrapping. -/
  | vadd (d : VReg) (a : VReg) (b : VReg) (t : Fin 16)
  /-- `vadds` (R199): Vector saturating add. -/
  | vadds (d : VReg) (a : VReg) (b : VReg) (t : Fin 16)
  /-- `vsub` (R199): Vector integer subtract, wrapping. -/
  | vsub (d : VReg) (a : VReg) (b : VReg) (t : Fin 16)
  /-- `vsubs` (R199): Vector saturating subtract. -/
  | vsubs (d : VReg) (a : VReg) (b : VReg) (t : Fin 16)
  /-- `vmul` (R199): Vector multiply, low bits. -/
  | vmul (d : VReg) (a : VReg) (b : VReg) (t : Fin 16)
  /-- `vmulh` (R199): Vector multiply, high bits. -/
  | vmulh (d : VReg) (a : VReg) (b : VReg) (t : Fin 16)
  /-- `vmin` (R199): Vector integer minimum. -/
  | vmin (d : VReg) (a : VReg) (b : VReg) (t : Fin 16)
  /-- `vmax` (R199): Vector integer maximum. -/
  | vmax (d : VReg) (a : VReg) (b : VReg) (t : Fin 16)
  /-- `vand` (R199): Vector AND. -/
  | vand (d : VReg) (a : VReg) (b : VReg) (t : Fin 16)
  /-- `vor` (R199): Vector OR. -/
  | vor (d : VReg) (a : VReg) (b : VReg) (t : Fin 16)
  /-- `vxor` (R199): Vector XOR. -/
  | vxor (d : VReg) (a : VReg) (b : VReg) (t : Fin 16)
  /-- `vsll` (R199): Vector shift left. -/
  | vsll (d : VReg) (a : VReg) (b : VReg) (t : Fin 16)
  /-- `vsr` (R199): Vector shift right, arithmetic or logical by type. -/
  | vsr (d : VReg) (a : VReg) (b : VReg) (t : Fin 16)
  /-- `vcmp` (R200): Vector integer compare into a mask. -/
  | vcmp (c : Fin 4) (k : KReg) (a : VReg) (b : VReg) (t : Fin 16)
  /-- `vsplat` (R199): Broadcasts a scalar into a vector. -/
  | vsplat (d : VReg) (a : SReg) (t : Fin 16)
  /-- `vmvs` (R201): Moves one vector element to a scalar. -/
  | vmvs (d : SReg) (a : VReg) (b : SReg) (t : Fin 16)
  /-- `vfadd` (R202): Floating-point add. -/
  | vfadd (d : VReg) (a : VReg) (b : VReg) (t : Fin 4) (r : Fin 4)
  /-- `vfsub` (R202): Floating-point subtract. -/
  | vfsub (d : VReg) (a : VReg) (b : VReg) (t : Fin 4) (r : Fin 4)
  /-- `vfmul` (R202): Floating-point multiply. -/
  | vfmul (d : VReg) (a : VReg) (b : VReg) (t : Fin 4) (r : Fin 4)
  /-- `vfdiv` (R202): Floating-point divide. -/
  | vfdiv (d : VReg) (a : VReg) (b : VReg) (t : Fin 4) (r : Fin 4)
  /-- `vfsqrt` (R202): Masked floating-point square root. -/
  | vfsqrt (d : VReg) (a : VReg) (k : KReg) (t : Fin 4) (r : Fin 4)
  /-- `vfrsqrt` (R202): Masked reciprocal square root. -/
  | vfrsqrt (d : VReg) (a : VReg) (k : KReg) (t : Fin 4) (r : Fin 4)
  /-- `vfmin` (R202): Floating-point minimum. -/
  | vfmin (d : VReg) (a : VReg) (b : VReg) (t : Fin 4)
  /-- `vfmax` (R202): Floating-point maximum. -/
  | vfmax (d : VReg) (a : VReg) (b : VReg) (t : Fin 4)
  /-- `vfabs` (R202): Masked absolute value. -/
  | vfabs (d : VReg) (a : VReg) (k : KReg) (t : Fin 4)
  /-- `vfneg` (R202): Masked negation. -/
  | vfneg (d : VReg) (a : VReg) (k : KReg) (t : Fin 4)
  /-- `vfcmp` (R203): Floating-point compare into a mask. -/
  | vfcmp (c : Fin 4) (k : KReg) (a : VReg) (b : VReg) (t : Fin 4)
  /-- `vfsplat` (R202): Broadcasts a rounded FP32 scalar. -/
  | vfsplat (d : VReg) (a : SReg) (t : Fin 4) (r : Fin 4)
  /-- `vfscl` (R202): Scales by a power of two. -/
  | vfscl (d : VReg) (a : VReg) (b : VReg) (t : Fin 4) (r : Fin 4)
  /-- `vfsgnj` (R202): Takes the magnitude of a with the sign of b. -/
  | vfsgnj (d : VReg) (a : VReg) (b : VReg) (t : Fin 4)
  /-- `vfma.f32` (R204): Fused a × b + c in FP32. -/
  | vfmaF32 (d : VReg) (a : VReg) (b : VReg) (c : VReg)
  /-- `vfnma.f32` (R204): Fused c − a × b in FP32. -/
  | vfnmaF32 (d : VReg) (a : VReg) (b : VReg) (c : VReg)
  /-- `vfma.bf16` (R204): Fused multiply-add in BF16. -/
  | vfmaBf16 (d : VReg) (a : VReg) (b : VReg) (c : VReg)
  /-- `vfma.f16` (R204): Fused multiply-add in FP16. -/
  | vfmaF16 (d : VReg) (a : VReg) (b : VReg) (c : VReg)
  /-- `vfmaw.bf16` (R204): Widening fused multiply-add, BF16 into FP32. -/
  | vfmawBf16 (d : VReg) (a : VReg) (b : VReg) (c : VReg)
  /-- `vsel` (R205): Selects elements by mask. -/
  | vsel (d : VReg) (a : VReg) (b : VReg) (w : Fin 4) (k : KReg)
  /-- `vcvt` (R207): Converts between element types. -/
  | vcvt (d : VReg) (a : VReg) (q : Fin 16) (t : Fin 16)
  /-- `vbmax` (R208): Gives the largest finite magnitude of each block group. -/
  | vbmax (d : VReg) (a : VReg) (f : Fin 16) (t : Fin 4)
  /-- `vqnt` (R209): Quantises elements into self-describing blocks, optionally rotated. -/
  | vqnt (d : VReg) (a : VReg) (f : Fin 16) (t : Fin 4) (o : Fin 4)
  /-- `vdqnt` (R210): Decodes blocks into elements. -/
  | vdqnt (d : VReg) (a : VReg) (t : Fin 16)
  /-- `vhad` (R211): Applies the block Hadamard rotation. -/
  | vhad (d : VReg) (a : VReg) (t : Fin 4) (g : Fin 4)
  /-- `vfrnd` (R212): Rounds to an integral value. -/
  | vfrnd (d : VReg) (a : VReg) (k : KReg) (t : Fin 4) (r : Fin 4)
  /-- `vbhdr` (R213): Extracts the block headers. -/
  | vbhdr (d : VReg) (a : VReg)
  /-- `vfexp2` (R212): Computes 2^a, correctly rounded. -/
  | vfexp2 (d : VReg) (a : VReg) (k : KReg) (t : Fin 4) (r : Fin 4)
  /-- `vperm` (R215): Permutes elements by indices. -/
  | vperm (d : VReg) (a : VReg) (b : VReg) (t : Fin 16)
  /-- `vslideup` (R215): Slides elements up. -/
  | vslideup (d : VReg) (a : VReg) (b : SReg) (t : Fin 16)
  /-- `vslidedn` (R215): Slides elements down. -/
  | vslidedn (d : VReg) (a : VReg) (b : SReg) (t : Fin 16)
  /-- `vred` (R216): Reduces the active lanes in a fixed tree into a scalar. -/
  | vred (d : SReg) (a : VReg) (o : Fin 4) (k : KReg) (t : Fin 16)
  /-- `vscan` (R216): Inclusive scan of the active lanes. -/
  | vscan (d : VReg) (a : VReg) (o : Fin 4) (k : KReg) (t : Fin 16)
  /-- `vidx` (R215): Writes the lane indices. -/
  | vidx (d : VReg) (t : Fin 16)
  /-- `tdef` (R222): Defines and validates a tile shape. -/
  | tdef (d : TReg) (a : SReg)
  /-- `tzero` (R222): Zeroes a tile. -/
  | tzero (d : TReg)
  /-- `ttrn` (R222): Transposes a tile. -/
  | ttrn (d : TReg) (a : TReg)
  /-- `tcvt` (R222): Converts a tile's element type. -/
  | tcvt (d : TReg) (a : TReg)
  /-- `tgetr` (R222): Copies a tile row into a vector. -/
  | tgetr (d : VReg) (a : TReg) (b : SReg)
  /-- `tputr` (R222): Copies a vector into a tile row. -/
  | tputr (d : TReg) (a : VReg) (b : SReg)
  /-- `mgset` (R231): Writes the manger nest. -/
  | mgset (a : SReg)
  /-- `mgoff` (R231): Writes a manger offset register. -/
  | mgoff (d : OReg) (a : SReg)
  /-- `mgget` (R231): Reads a manger offset register. -/
  | mgget (d : SReg) (a : OReg)
  /-- `mgget.n` (R231): Reads the manger nest. -/
  | mggetN (d : SReg)
  /-- `mcall` (R273): Checks the footprint, snapshots the parameters, takes entries and queues a matrix call. -/
  | mcall (i : Fin 256) (p : Fin 16) (w : Fin 4) (d : SReg)
  /-- `mcall.rty` (R273): Queues a matrix call with automatic retry enabled. -/
  | mcallRty (i : Fin 256) (p : Fin 16) (w : Fin 4) (d : SReg)
  /-- `mmode.s` (R254): Switches macros to storage mode once no call uses them. -/
  | mmodeS (a : SReg)
  /-- `mmode.c` (R253): Switches macros to compute mode once their weight loads complete. -/
  | mmodeC (a : SReg)
  /-- `mmode.rd` (R258): Reads the macro mode map. -/
  | mmodeRd (d : SReg)
  /-- `mcal` (R259): Requests calibration of the named macros. -/
  | mcal (a : SReg)
  /-- `mcal.rd` (R259): Reads a macro's calibration state or a column offset. -/
  | mcalRd (d : SReg) (a : SReg)
  /-- `mdesc.rd` (R260): Reads a macro descriptor word. -/
  | mdescRd (d : SReg) (a : SReg)
  /-- `mdesc.wr` (R260): Writes a macro descriptor word in storage mode. -/
  | mdescWr (a : SReg) (b : SReg)
  /-- `mpw` (R285): Writes an m-register. -/
  | mpw (d : MReg) (a : SReg)
  /-- `mpr` (R285): Reads an m-register. -/
  | mpr (d : SReg) (a : MReg)
  /-- `mucw` (R285): A supervisor write of a microprogram store word once no call is outstanding. -/
  | mucw (a : SReg) (b : SReg)
  /-- `mucr` (R285): Reads a microprogram store word. -/
  | mucr (d : SReg) (a : SReg)
  /-- `mstat` (R286): Reads a call's status word. -/
  | mstat (d : SReg) (a : SReg)
  /-- `mstat.clip` (R286): Reads a word of a call's clip map. -/
  | mstatClip (d : SReg) (a : SReg) (b : SReg)
  /-- `mcwait` (R286): Waits until a call is done. -/
  | mcwait (a : SReg)
  /-- `mdrain.a` (R287): Copies accumulator rows into a vector register. -/
  | mdrainA (d : VReg) (a : SReg)
  /-- `mdrain.b` (R287): Copies bound rows into a vector register. -/
  | mdrainB (d : VReg) (a : SReg)
  /-- `mdrain.u` (R287): Captures the matrix micro-state image. -/
  | mdrainU (d : VReg)
  /-- `mrest.a` (R287): Restores accumulator rows from a vector register. -/
  | mrestA (d : VReg) (a : SReg)
  /-- `mrest.b` (R287): Restores bound rows from a vector register. -/
  | mrestB (d : VReg) (a : SReg)
  /-- `mrest.u` (R287): Restores the micro-state image into a frozen unit. -/
  | mrestU (d : VReg)
  /-- `mzero` (R288): Zeroes accumulator and bound rows. -/
  | mzero (a : SReg)
  /-- `mtacc` (R289): Starts pulling and adding team members' accumulator rows during exchange. -/
  | mtacc (d : SReg) (a : SReg) (b : SReg)
  /-- `ld` (R151): Loads a scalar unit through a buffer record, immediate offset. -/
  | ldScalar (d : SReg) (a : BReg) (i : BitVec 17)
  /-- `st` (R151): Stores a scalar unit through a buffer record, immediate offset. -/
  | stScalar (d : SReg) (a : BReg) (i : BitVec 17)
  /-- `ld` (R151): Loads contiguous units into a vector. -/
  | ldVector (d : VReg) (a : BReg) (i : BitVec 17)
  /-- `st` (R151): Stores a vector as contiguous units. -/
  | stVector (d : VReg) (a : BReg) (i : BitVec 17)
  /-- `ldw` (R153): Window load walking the record's rows. -/
  | ldw (d : VReg) (a : BReg) (i : BitVec 17)
  /-- `stw` (R153): Window store walking the record's rows. -/
  | stw (d : VReg) (a : BReg) (i : BitVec 17)
  /-- `ldrec` (R155): Loads a whole record from the loft. -/
  | ldrec (d : RecReg) (a : SReg) (i : BitVec 17)
  /-- `strec` (R155): Stores a whole record to the loft. -/
  | strec (d : RecReg) (a : SReg) (i : BitVec 17)
  /-- `ld` (R152): Scalar load with a register index. -/
  | ldScalarX (d : SReg) (a : BReg) (x : SReg) (f : Fin 16)
  /-- `st` (R152): Scalar store with a register index. -/
  | stScalarX (d : SReg) (a : BReg) (x : SReg) (f : Fin 16)
  /-- `ld` (R152): Vector load with a register index. -/
  | ldVectorX (d : VReg) (a : BReg) (x : SReg) (f : Fin 16)
  /-- `st` (R152): Vector store with a register index. -/
  | stVectorX (d : VReg) (a : BReg) (x : SReg) (f : Fin 16)
  /-- `ldw` (R152): Window load with a register index. -/
  | ldwX (d : VReg) (a : BReg) (x : SReg) (f : Fin 16)
  /-- `stw` (R152): Window store with a register index. -/
  | stwX (d : VReg) (a : BReg) (x : SReg) (f : Fin 16)
  /-- `ldg` (R154): Masked gather. -/
  | ldg (d : VReg) (a : BReg) (x : VReg) (k : KReg)
  /-- `stg` (R154): Masked scatter. -/
  | stg (d : VReg) (a : BReg) (x : VReg) (k : KReg)
  /-- `ldf` (R157): Waits for a full word, reads it and sets it empty. -/
  | ldf (d : SReg) (a : SReg) (i : BitVec 17)
  /-- `ldfp` (R157): Waits for a full word and reads it, leaving it full. -/
  | ldfp (d : SReg) (a : SReg) (i : BitVec 17)
  /-- `stf` (R157): Waits for an empty word, writes it and sets it full. -/
  | stf (d : SReg) (a : SReg) (i : BitVec 17)
  /-- `tagrd` (R158): Reads 64 tags. -/
  | tagrd (d : SReg) (a : SReg) (i : BitVec 17)
  /-- `tagw.f` (R158): Sets a run of tags full. -/
  | tagwF (d : SReg) (a : SReg)
  /-- `tagw.e` (R158): Sets a run of tags empty. -/
  | tagwE (d : SReg) (a : SReg)
  /-- `racq.w` (R159): Makes a write claim on a ring. -/
  | racqW (d : SReg) (n : Fin 16)
  /-- `racq.r` (R159): Makes a read claim on a ring. -/
  | racqR (d : SReg) (n : Fin 16)
  /-- `rrel.w` (R159): Releases the oldest write claim; done slots are published in claim order. -/
  | rrelW (n : Fin 16)
  /-- `rrel.r` (R159): Releases the oldest read claim; done slots are freed in claim order. -/
  | rrelR (n : Fin 16)
  /-- `stfx` (R157): Writes a word and sets it full without waiting. -/
  | stfx (d : SReg) (a : SReg) (i : BitVec 17)
  /-- `cpy` (R125): Stages a copy command in an engine. -/
  | cpy (d : RecReg) (a : RecReg) (b : SReg) (e : Bool)
  /-- `cpyg` (R126): Commits the staged command, captures the code-table bank and returns its handle. -/
  | cpyg (d : SReg) (e : Bool)
  /-- `cpyc` (R127): Chains the staged command to the other engine's staged command. -/
  | cpyc (e : Bool)
  /-- `cpyr` (R128): Marks the staged command as reducing. -/
  | cpyr (e : Bool) (o : Fin 4)
  /-- `cpys` (R129): Sets the staged command's scope and stamp. -/
  | cpys (a : SReg) (b : SReg) (e : Bool) (z : Fin 8)
  /-- `ctabw` (R130): Writes a row of the idle code-table bank. -/
  | ctabw (a : SReg) (b : SReg)
  /-- `recw` (R131): Writes a record word. -/
  | recw (d : RecReg) (a : SReg) (w : Fin 16)
  /-- `recr` (R131): Reads a record word. -/
  | recr (d : SReg) (a : RecReg) (w : Fin 16)
  /-- `cpyx.stat` (R132): Reads an engine's status and clears its flags. -/
  | cpyxStat (d : SReg) (e : Bool)
  /-- `cpyx.resume` (R132): A supervisor resume of a faulted command, optionally with a replacement image. -/
  | cpyxResume (a : SReg) (b : SReg)
  /-- `cpyx.abort` (R121): A supervisor abort of an outstanding command. -/
  | cpyxAbort (a : SReg)
  /-- `xfer` (R305): Queues a register command sending a vector to an address. -/
  | xfer (d : VReg) (a : SReg) (b : SReg) (e : Bool) (z : Fin 8)
  /-- `xred.add` (R306): Queues a reducing add of a vector into memory. -/
  | xredAdd (d : VReg) (a : SReg) (b : SReg) (t : Fin 16)
  /-- `xred.max` (R306): Queues a reducing maximum of a vector into memory. -/
  | xredMax (d : VReg) (a : SReg) (b : SReg) (t : Fin 16)
  /-- `xred.min` (R306): Queues a reducing minimum of a vector into memory. -/
  | xredMin (d : VReg) (a : SReg) (b : SReg) (t : Fin 16)
  /-- `xsig` (R307): Queues a signal command that stores a value after the bank's earlier commands complete. -/
  | xsig (a : SReg) (b : SReg) (e : Bool) (z : Fin 8)
  /-- `aadd` (R386): Atomic add. -/
  | aadd (d : SReg) (a : SReg) (b : SReg) (w : Bool) (z : Fin 8)
  /-- `aand` (R386): Atomic AND. -/
  | aand (d : SReg) (a : SReg) (b : SReg) (w : Bool) (z : Fin 8)
  /-- `aor` (R386): Atomic OR. -/
  | aor (d : SReg) (a : SReg) (b : SReg) (w : Bool) (z : Fin 8)
  /-- `axch` (R386): Atomic exchange. -/
  | axch (d : SReg) (a : SReg) (b : SReg) (w : Bool) (z : Fin 8)
  /-- `amax` (R386): Atomic signed maximum. -/
  | amax (d : SReg) (a : SReg) (b : SReg) (w : Bool) (z : Fin 8)
  /-- `amin` (R386): Atomic signed minimum. -/
  | amin (d : SReg) (a : SReg) (b : SReg) (w : Bool) (z : Fin 8)
  /-- `acas` (R386): Atomic compare-and-swap. -/
  | acas (d : SReg) (a : SReg) (b : SReg) (w : Bool) (z : Fin 8)
  /-- `ald` (R386): Atomic load with acquire. -/
  | ald (d : SReg) (a : SReg) (w : Bool) (z : Fin 8)
  /-- `binit` (R388): Zeroes a barrier object. -/
  | binit (a : SReg)
  /-- `bexp` (R381): Adds an expectation to a barrier, consuming credit. -/
  | bexp (a : SReg) (b : SReg)
  /-- `barv` (R388): Arrives at a barrier with a byte count, as a release. -/
  | barv (d : SReg) (a : SReg) (b : SReg) (z : Fin 8)
  /-- `bwait` (R388): Waits until the barrier is not armed, acquiring the counted bytes. -/
  | bwait (a : SReg)
  /-- `bwait.ph` (R388): Waits until the barrier's phase bit differs from sb. -/
  | bwaitPh (a : SReg) (b : SReg)
  /-- `mwait.ge` (R389): Waits until a word is at least sb. -/
  | mwaitGe (d : SReg) (a : SReg) (b : SReg) (z : Fin 8)
  /-- `mwait.ne` (R389): Waits until a word differs from sb. -/
  | mwaitNe (d : SReg) (a : SReg) (b : SReg) (z : Fin 8)
  /-- `drain` (R390): Orders accesses and waits for earlier stores to perform at the scope. -/
  | drain (z : Fin 8)
  /-- `drain.e` (R390): Like drain, also waiting for the bank's commands and rgsync to complete. -/
  | drainE (z : Fin 8)
  /-- `fence` (R390): Orders earlier accesses ahead of later ones at the scope. -/
  | fence (z : Fin 8)
  /-- `ast` (R390): Single-copy-atomic release store. -/
  | ast (a : SReg) (b : SReg) (w : Bool) (z : Fin 8)
  /-- `teth` (R392): Inserts an explicit wait edge. -/
  | teth (d : SReg) (a : SReg)
  /-- `tethown` (R392): Inserts an explicit ownership record. -/
  | tethown (d : SReg) (a : SReg)
  /-- `unteth` (R392): Releases the task's explicit wait edges on an object. -/
  | unteth (a : SReg)
  /-- `unteth.o` (R392): Releases the task's explicit ownership records on an object. -/
  | untethO (a : SReg)
  /-- `lkacq` (R393): Acquires a lock word, waiting while it is held. -/
  | lkacq (d : SReg) (a : SReg) (z : Fin 8)
  /-- `lkacq.try` (R393): Tries to acquire a lock without waiting. -/
  | lkacqTry (d : SReg) (a : SReg) (z : Fin 8)
  /-- `lkrel` (R393): Releases a lock and hands it to the highest-EFF tethered waiter. -/
  | lkrel (a : SReg) (z : Fin 8)
  /-- `nop` (R49): Does nothing; it fills a slot of any class. -/
  | nop
  /-- (R219): A write of c.tdimN validates the tile shape. -/
  | writeCTdim
  /-- (R82): A region base write waits for the region's fills and write-backs, then validates the region. -/
  | writeCRgva
  /-- (R82): A region locator write waits for the region's fills and write-backs, then invalidates the region and writes it. -/
  | writeCRgloc
  /-- (R141): A ring descriptor write waits for the commands naming the ring, discards claims and validates the ring. -/
  | writeCRngd
  /-- (R75): A supervisor write of the page-table base, checked for alignment. -/
  | writeCPtbase
  /-- (R75): A supervisor write of the bucket count k, checked to lie in 20 … 27. -/
  | writeCPtlog
  /-- (R68): A supervisor write of the save-region count; refused when it would reach the retired range. -/
  | writeCNsave
  /-- (R358): A supervisor write of the queue region; discarded when the queue is not empty or the region is invalid. -/
  | writeCQueue
  /-- (R379): Sets the deadlock area; it stays invalid when the area does not lie within P. -/
  | writeCWfdl
  /-- (R316): A write of 0 to STRG clears the sticky straggler bit. -/
  | writeCPstat
  /-- `tlbinv.all` (R89): Removes every translation of the device. -/
  | tlbinvAll
  /-- `phreq` (R332): A supervisor request for a truncation. -/
  | phreq
  /-- `park` (R363): Yields the core to another ready task of equal or higher EFF. -/
  | park
  /-- `tend` (R364): Waits for the task's outstanding work, then ends the task and frees its bank. -/
  | tend
  /-- `rett` (R442): Returns from a trap handler to c.tpc, or enters a pending freeze trap. -/
  | rett
  /-- `ctxsw` (R443): Switches the frozen task out by flip or spill. -/
  | ctxsw
  /-- `ctxsw.rel` (R443): Switches the task out and releases the matrix unit. -/
  | ctxswRel
  /-- `mgarm` (R226): Checks and snapshots the nest into the replay queue, takes a read entry and advances the offsets. -/
  | mgarm
  /-- `mgdrop` (R230): Waits for the task's running call, then discards the armed replays. -/
  | mgdrop
  /-- `mcwait.all` (R286): Waits until the bank has no outstanding call. -/
  | mcwaitAll
  /-- `ctabc` (R123): Swaps the code-table banks once no holder of the active bank remains. -/
  | ctabc
  /-- `unteth.a` (R392): Releases every explicit entry of the task. -/
  | untethA
  /-- `unop` (R266): Micro-word that does nothing. -/
  | unop
  /-- `uldi` (R266): Loads an immediate into an a-register. -/
  | uldi
  /-- `uldm` (R266): Loads a half or a field of an m-register snapshot into an a-register. -/
  | uldm
  /-- `uadd` (R266): Adds an immediate to an a-register. -/
  | uadd
  /-- `ulc` (R266): Loads a loop counter. -/
  | ulc
  /-- `ubr` (R266): Micro-branch: always, loop, zero or nonzero. -/
  | ubr
  /-- `ufeed` (R267): Fills an input slot from a tile, the manger or the loft. -/
  | ufeed
  /-- `upass` (R268): Drives one pass over a group of macros into accumulator rows. -/
  | upass
  /-- `uzero` (R266): Zeroes accumulator and bound rows. -/
  | uzero
  /-- `uout` (R266): Writes accumulator or bound values into a tile row. -/
  | uout
  /-- `uwin` (R266): Sets the window for later passes. -/
  | uwin
  /-- `uspl` (R266): Sets the split for later passes. -/
  | uspl
  /-- `ucal` (R266): Reads the calibration and mode summary of a macro range. -/
  | ucal
  /-- `ustat` (R266): Sets user status bits and reads the status. -/
  | ustat
  /-- (R169): The map unit fetches and translates a code granule. -/
  | instructionFetch
  /-- (R52): A bundle is decoded whole and checked slot by slot before any group performs. -/
  | bundleDecode
  /-- (R374): Effective priorities are recomputed from the wait-for table. -/
  | effRecompute
  /-- (R377): An untethered monitor or lock wait retests every 64 core cycles. -/
  | untetheredRetest
  /-- (R389): The home notifies a waiting core of a write to a monitored granule, and the core retests. -/
  | monitorNotify
  /-- (R111): A committed command becomes active and its records and completion addresses are checked. -/
  | commandActivate
  /-- (R99): An engine delivers one conversion unit of a command, converting, reducing and counting it. -/
  | granuleDeliver
  /-- (R77): A die walker probes the hashed page table and fills both TLB levels. -/
  | pageWalk
  /-- (R83): A fill delivers a granule and makes it resident. -/
  | regionFill
  /-- (R84): A dirty granule is read and written to its virtual address. -/
  | writeBack
  /-- (R70): A granule access arrives at a core window controller and performs against its context's state. -/
  | windowAccess
  /-- (R60): A granule from the network performs at a slice port as the sixth requester. -/
  | sliceAccess
  /-- (R309): A router merges two waiting reducing packets. -/
  | routerMerge
  /-- (R311): The home applies a reducing packet once, filtering repeats. -/
  | reductionApply
  /-- (R312): An atomic or lock step performs at its home and returns a kept result. -/
  | remoteAtomic
  /-- (R353): A completed job's stamp is written in an exchange phase. -/
  | jobCompletionStamp
  /-- (R274): The idle matrix unit starts the oldest call of the highest-priority bank. -/
  | callStart
  /-- (R279): One team member's rows are pulled and added, or SRCH is set. -/
  | mtaccMember
  /-- (R259): A held calibration starts once the macro is in compute mode and no running call uses it. -/
  | calibrationStart
  /-- (R245): Calibration ends, setting offsets or failing. -/
  | calibrationEnd
  /-- (R246): TNOW is sampled every 10 µs and calibration validity is re-evaluated. -/
  | temperatureSample
  /-- (R246): AGE advances every millisecond and may make calibration stale or uncalibrated. -/
  | ageStep
  /-- (R493): Module power above 1,000 W throttles passes. -/
  | powerLimitExceeded
  /-- (R323): A compute phase closes and the counter advances to an exchange. -/
  | computeClose
  /-- (R322): An exchange phase closes once no task participates and no transfer is live; the counter advances. -/
  | exchangeClose
  /-- (R329): Participating tasks of a context become stragglers and are frozen. -/
  | computeBudgetExpiry
  /-- (R331): Every live transfer of the context is cancelled. -/
  | exchangeBudgetExpiry
  /-- (R332): Every core freezes its running tasks, and the superstep closes early. -/
  | truncation
  /-- (R345): A core with a free bank fills it with the first candidate it can place. -/
  | dispatch
  /-- (R350): The scheduler requests a truncation for a lane head that has waited beyond PWAIT. -/
  | preemptionRequest
  /-- (R351): A completed team reservation starts all members. -/
  | teamStart
  /-- (R354): An idle core sends a steal request to a random victim. -/
  | stealRequest
  /-- (R354): The victim's queue engine hands over a task record or answers empty. -/
  | stealAnswer
  /-- (R460): A launch packet is checked and creates a job, or is refused. -/
  | launchPacket
  /-- (R430): The device performs the switch itself when no handler switches. -/
  | deviceCtxsw
  /-- (R434): A switched-out task is restored at a compute phase start. -/
  | contextRestore
  /-- (R494): An uncorrectable error destroys the affected context. -/
  | uncorrectableError
  /-- (R459): A remote RDMA WRITE reaches the queue pair's window. -/
  | rdmaWrite
  /-- (R459): A remote RDMA READ reads the window. -/
  | rdmaRead
  /-- (R463): A received SEND is written to the next free receive slot. -/
  | send
  /-- (R457): An unsupported request is NAKed and its queue pair enters error. -/
  | invalidRequest
  /-- (R456): A CE-marked packet is answered with a CNP. -/
  | ceMarkedPacket
  /-- (R456): A received CNP halves the queue pair's sending rate. -/
  | cnp
  /-- (R456): The halved rate ends after 50 µs. -/
  | rateRecovery
  /-- (R463): A doorbell write gives the producer count, or puts the pair in error. -/
  | doorbell
  /-- (R461): The port performs a WRITE work request to the host. -/
  | workRequestWrite
  /-- (R461): The port performs a READ work request. -/
  | workRequestRead
  /-- (R461): The port performs a SEND work request. -/
  | workRequestSend
  /-- (R461): The port performs a WRITE work request to a peer. -/
  | peerWrite
  /-- (R461): The port performs a REDUCE work request to a peer. -/
  | peerReduce
  /-- (R465): The port carries a launch packet to a peer core. -/
  | peerLaunch
  /-- (R462): After acknowledgement, the port writes STATUS, the stamp and the consumer count. -/
  | workRequestEnd
  /-- (R465): An Errus data frame is accepted in order, or dropped with a replay request. -/
  | dataFrame
  /-- (R464): An acknowledgement frame releases frames kept for replay. -/
  | acknowledgementFrame
  /-- (R465): The sender replays go-back-N; after 8 failures the link goes down. -/
  | replayRequest
  /-- (R464): An idle frame carries acknowledgement state only. -/
  | idleFrame
  /-- (R467): Management hello returns the start count and refusal count. -/
  | hello
  /-- (R467): Returns part of the start-up report. -/
  | readStartUpReport
  /-- (R467): Retries start. -/
  | retryStart
  /-- (R467): Replies, then resets and starts the device. -/
  | resetRequest
  /-- (R467): Sets the module number. -/
  | setModuleNumber
  /-- (R467): Sets the queue-pair table base. -/
  | setQueuePairTableBase
  /-- (R63): Sets a bank's PEND bit for retirement at the next start. -/
  | requestBankRetirement
  /-- (R484): Returns a context's meter page as of the last fold. -/
  | readMeterPage
  /-- (R488): Returns a monitor record, optionally clearing it. -/
  | readMonitor
  /-- (R467): Writes flash image data. -/
  | writeFlashImage
  /-- (R467): Commits the flash image for the next start. -/
  | commitFlashImage
  /-- (R489): Start-up checks flash, tests, calibrates, sets registers, writes the report and opens the ports. -/
  | powerOn
  /-- (R493): Module power falls back to 1,000 W or below, and the pass throttle that applied while it exceeded the limit ends. -/
  | modulePowerWithinLimit
  /-- (R467): An authenticated management datagram with an OP the table does not list is answered with status 1, OP not known. -/
  | opNotKnown
  /-- (R464): An Errus frame with a bad CRC or a reserved TYPE is dropped as corrupt, and the receiver asks for a replay. -/
  | corruptFrame
deriving DecidableEq, Repr, Inhabited

/-- A micro-operation with its operands (R265, R266). -/
inductive MicroOp where
  /-- `unop` -/
  | unop
  /-- `uldi` -/
  | uldi (x : Fin 8) (i : BitVec 32)
  /-- `uldm` -/
  | uldm (x : Fin 8) (m : Fin 8) (h : Bool) (p : Fin 64) (g : Fin 64)
  /-- `uadd` -/
  | uadd (x : Fin 8) (y : Fin 8) (i : BitVec 24)
  /-- `ulc` -/
  | ulc (k : Fin 4) (y : Fin 8)
  /-- `ubr` -/
  | ubr (c : Fin 4) (k : Fin 4) (y : Fin 8) (t : Fin 8192)
  /-- `ufeed` -/
  | ufeed (sl : Fin 8) (y : Fin 8) (z : Fin 8) (q : Fin 4) (t : Fin 16) (ind : Bool) (w : Fin 8)
  /-- `upass` -/
  | upass (x : Fin 8) (y : Fin 8) (z : Fin 8) (nm : Fin 64) (fan : Fin 4) (set : Bool) (nort : Bool) (ind : Bool) (w : Fin 8)
  /-- `uzero` -/
  | uzero (x : Fin 8) (y : Fin 8)
  /-- `uout` -/
  | uout (x : Fin 8) (y : Fin 8) (z : Fin 8) (t : Fin 16) (bnd : Bool) (ind : Bool) (w : Fin 8)
  /-- `uwin` -/
  | uwin (y : Fin 8)
  /-- `uspl` -/
  | uspl (y : Fin 8)
  /-- `ucal` -/
  | ucal (x : Fin 8) (y : Fin 8) (z : Fin 8)
  /-- `ustat` -/
  | ustat (x : Fin 8) (i : BitVec 8)
deriving DecidableEq, Repr, Inhabited

/-- The opcode-table row of a micro-operation. -/
def MicroOp.instr : MicroOp → Instr
  | .unop => .unop
  | .uldi _ _ => .uldi
  | .uldm _ _ _ _ _ => .uldm
  | .uadd _ _ _ => .uadd
  | .ulc _ _ => .ulc
  | .ubr _ _ _ _ => .ubr
  | .ufeed _ _ _ _ _ _ _ => .ufeed
  | .upass _ _ _ _ _ _ _ _ _ => .upass
  | .uzero _ _ => .uzero
  | .uout _ _ _ _ _ _ _ => .uout
  | .uwin _ => .uwin
  | .uspl _ => .uspl
  | .ucal _ _ _ => .ucal
  | .ustat _ _ => .ustat

/-- What a step of the device concerns: which core, bank, engine, command, context, packet or queue pair, and what
arrives from outside. Each step reads the fields its rule names. -/
structure Subject where
  core : CoreId := 0
  bank : Fin 4 := 0
  engine : Bool := false
  flag : Bool := false
  handle : BitVec 32 := 0
  index : Nat := 0
  index2 : Nat := 0
  ctx : BitVec 16 := 0
  addr : W64 := 0
  value : W64 := 0
  key : BitVec 32 := 0
  queue : Nat := 0
  data : List Byte := []
deriving DecidableEq, Repr, Inhabited

/-- Who moves next: core `n` issues its next group, the matrix unit of core `n` runs its next micro-word, or the device
takes the step `e` on the subject `on`. -/
inductive Turn where
  | core (n : CoreId)
  | unit (n : CoreId)
  | event (e : Instr) (on : Subject)
deriving DecidableEq, Repr, Inhabited

/-- The steps the device takes by itself: the rows without a word that are neither micro-operations nor writes of a
control register. -/
def Instr.isEvent : Instr → Bool
  | .instructionFetch
  | .bundleDecode
  | .effRecompute
  | .untetheredRetest
  | .monitorNotify
  | .commandActivate
  | .granuleDeliver
  | .pageWalk
  | .regionFill
  | .writeBack
  | .windowAccess
  | .sliceAccess
  | .routerMerge
  | .reductionApply
  | .remoteAtomic
  | .jobCompletionStamp
  | .callStart
  | .mtaccMember
  | .calibrationStart
  | .calibrationEnd
  | .temperatureSample
  | .ageStep
  | .powerLimitExceeded
  | .computeClose
  | .exchangeClose
  | .computeBudgetExpiry
  | .exchangeBudgetExpiry
  | .truncation
  | .dispatch
  | .preemptionRequest
  | .teamStart
  | .stealRequest
  | .stealAnswer
  | .launchPacket
  | .deviceCtxsw
  | .contextRestore
  | .uncorrectableError
  | .rdmaWrite
  | .rdmaRead
  | .send
  | .invalidRequest
  | .ceMarkedPacket
  | .cnp
  | .rateRecovery
  | .doorbell
  | .workRequestWrite
  | .workRequestRead
  | .workRequestSend
  | .peerWrite
  | .peerReduce
  | .peerLaunch
  | .workRequestEnd
  | .dataFrame
  | .acknowledgementFrame
  | .replayRequest
  | .idleFrame
  | .hello
  | .readStartUpReport
  | .retryStart
  | .resetRequest
  | .setModuleNumber
  | .setQueuePairTableBase
  | .requestBankRetirement
  | .readMeterPage
  | .readMonitor
  | .writeFlashImage
  | .commitFlashImage
  | .powerOn
  | .modulePowerWithinLimit
  | .opNotKnown
  | .corruptFrame => true
  | _ => false

end Sys2Proof
end

