-- ==== Sys2Proof/Config.lean ====
section
/-!
DEFINITION. What the spec leaves to the implementation, or leaves open: opaque constants without a body, so that nothing can
be proved of their values. Each is applied to the counter of free values, or to what it depends on.
-/
namespace Sys2Proof.Config

/-- Which agent moves next when no turn is listed (log entry 1). -/
opaque arbiter : Nat → Turn

/-- Core cycles that pass in a step (R42, R66: no latency is fixed; log entry 4). -/
opaque cycles : Nat → Nat

/-- A choice among several that qualify (R373: the oldest of several engines; a free table entry; log entry 4). -/
opaque pick : Nat → Nat

/-- A value the spec leaves open (log entry 4). -/
opaque value : Nat → Nat

/-- The error of one analog conversion before it is held to the stated limit (R237, R249). -/
opaque analogError : Nat → Int

/-- The thermometer's reading of an analog conversion's over-range comparison, where the rules do not decide it (R238). -/
opaque overRange : Nat → Bool

/-- The calibration offset a column takes (R245), before it is held to −16 … 15. -/
opaque calibration : Nat → Int

/-- Whether a calibration fails (R245). -/
opaque calibrationFails : Nat → Bool

/-- Whether a macro has passed its calibration at start-up, a bank its test, a core its test (R489, R63). -/
opaque bankGood : Nat → Bool
/-- Whether the stratum passes its test (R491). -/
opaque stratumGood : Nat → Bool
/-- What stops a start under way, if anything: a management reset (true) or a thermal trip, and after which of its steps (R491). -/
opaque startStop : Nat → Option (Bool × Fin 3)
/-- Whether the flash image passes its check (R491). -/
opaque flashGood : List (Nat × BitVec 8) → Nat → Bool

/-- The 4-byte CRC of an Errus frame (R464 names CRC-32 without its polynomial). -/
opaque crc32 : List Byte → BitVec 32

/-- Where the flash image keeps its parts (R466, R489, R490 name them without a layout): the module key, the boot record and
the image version. -/
opaque keyOffset : Nat → Nat
/-- Where the boot record begins in the flash image. -/
opaque bootOffset : Nat → Nat
/-- Where the version of the flash image stands in it. -/
opaque versionOffset : Nat → Nat

end Sys2Proof.Config
end

