-- ==== Sys2Proof/Machine/RegMap.lean ====
section
/-!
DEFINITION. The control-register map (R178, R194, R283, R316, R358, R379, R420, R485) and its access classes (R177),
the element types (R92, R193), and which instruction words `wrc` splits into by register number.
-/
namespace Sys2Proof.Machine

/-- The access class of a control register (R177). -/
inductive Access where
  | r | rw | rs
deriving DecidableEq, Repr

/-- The access class of control register number `n`; `none` names no register (R178). -/
def ctrlAccess (n : Nat) : Option Access :=
  if n ≤ 0x011 then some .rw
  else if n ≤ 0x016 then some .r
  else if n = 0x020 then some .r
  else if 0x021 ≤ n ∧ n ≤ 0x023 then some .rs
  else if 0x030 ≤ n ∧ n ≤ 0x05F then some .rw
  else if 0x060 ≤ n ∧ n ≤ 0x06F then some .r
  else if n = 0x080 ∨ n = 0x081 ∨ n = 0x0A0 then some .rw
  else if n = 0x0A1 ∨ n = 0x0A2 ∨ n = 0x0C0 then some .r
  else if n = 0x0C1 then some .rs
  else if n = 0x0C2 then some .rw
  else if n = 0x0C3 ∨ n = 0x0E0 ∨ n = 0x0E1 ∨ n = 0x0E2 then some .r
  else if n = 0x0E3 ∨ n = 0x0E4 then some .rs
  else if n = 0x0E5 then some .r
  else if n = 0x0E6 then some .rs
  else if n = 0x0E7 then some .r
  else if n = 0x100 then some .rs
  else if n = 0x101 ∨ n = 0x102 then some .rw
  else if n = 0x103 ∨ n = 0x104 then some .r
  else if n = 0x105 then some .rs
  else if n = 0x106 ∨ n = 0x107 ∨ n = 0x120 then some .r
  else if n = 0x121 then some .rw
  else if 0x122 ≤ n ∧ n ≤ 0x124 then some .r
  else if n = 0x125 ∨ n = 0x126 then some .rs
  else if 0x127 ≤ n ∧ n ≤ 0x129 then some .r
  else if n = 0x12A then some .rw
  else if 0x140 ≤ n ∧ n ≤ 0x147 then some .r
  else none

/-- The number names a control register. -/
def ctrlNamed (n : Nat) : Bool := (ctrlAccess n).isSome

/-- The register may be named by a write form (R177: a write form on an R register is illegal). -/
def ctrlWritable (n : Nat) : Bool := ctrlAccess n == some .rw || ctrlAccess n == some .rs

/-- The registers whose `wrc` word is a row of its own in the opcode table: `c.vl` and `c.pri`. -/
def ctrlOwnRow (n : Nat) : Bool := n == 0x010 || n == 0x011

/-- The element type code is an integer type i8 … n64 (R92). -/
def tyInt (t : Nat) : Bool := 1 ≤ t && t ≤ 8
/-- The element type code is a register element type (R193). -/
def tyReg (t : Nat) : Bool := 1 ≤ t && t ≤ 13
/-- The types `vred`, `vscan` and `xred` accept, 0x01 … 0x0B (R214, R304). -/
def tyRed (t : Nat) : Bool := 1 ≤ t && t ≤ 11
/-- The byte width of an element type (R92, R191). -/
def tyWidth (t : Nat) : Nat :=
  match t with
  | 1 | 5 | 12 | 13 => 1
  | 2 | 6 | 10 | 11 => 2
  | 3 | 7 | 9 => 4
  | 4 | 8 => 8
  | 0 | 14 | 15 => 64
  | _ => 1
/-- The integer type is signed. -/
def tySigned (t : Nat) : Bool := 1 ≤ t && t ≤ 4

end Sys2Proof.Machine
end

