-- ==== Sys2Proof/WellFormed.lean ====
section
/-!
DEFINITION. Which field values an instruction may carry: the modifiers each family's chapter permits (R49, R193, R206,
R214, R222, R47) and the control registers a form may name (R177, R183).
-/
namespace Sys2Proof
open Machine

/-- Every field holds a value its family's chapter permits; register numbers are bounded by their types (R48). -/
def Instr.wellFormed : Instr → Bool
  | .shadd _ _ _ k => k.val ≤ 4
  | .bfx _ _ l n => l.val + 1 + n.val ≤ 64
  | .rdc _ n => ctrlNamed n.toNat
  | .rdcz _ n => ctrlWritable n.toNat
  | .wrc _ n => ctrlWritable n.toNat && !ctrlOwnRow n.toNat
  | .setc _ _ n | .clrc _ _ n | .xchc _ _ n | .addc _ _ n => ctrlWritable n.toNat
  | .vadd _ _ _ t | .vadds _ _ _ t | .vsub _ _ _ t | .vsubs _ _ _ t | .vmul _ _ _ t | .vmulh _ _ _ t
  | .vmin _ _ _ t | .vmax _ _ _ t | .vand _ _ _ t | .vor _ _ _ t | .vxor _ _ _ t | .vsll _ _ _ t
  | .vsr _ _ _ t | .vcmp _ _ _ _ t | .vsplat _ _ t | .vmvs _ _ _ t | .vidx _ t => tyInt t.val
  | .vfadd _ _ _ f _ | .vfsub _ _ _ f _ | .vfmul _ _ _ f _ | .vfdiv _ _ _ f _ | .vfsqrt _ _ _ f _
  | .vfrsqrt _ _ _ f _ | .vfmin _ _ _ f | .vfmax _ _ _ f | .vfabs _ _ _ f | .vfneg _ _ _ f
  | .vfcmp _ _ _ _ f | .vfsplat _ _ f _ | .vfscl _ _ _ f _ | .vfsgnj _ _ _ f | .vfrnd _ _ _ f _
  | .vfexp2 _ _ _ f _ => f.val ≠ 3
  | .vcvt _ _ s d => tyReg s.val && tyReg d.val
  | .vbmax _ _ m f => f.val ≠ 3 && (1 ≤ m.val && m.val ≤ 8)
  | .vqnt _ _ m f _ => f.val ≠ 3 && (1 ≤ m.val && m.val ≤ 8)
  | .vdqnt _ _ t => tyReg t.val
  | .vhad _ _ f g => f.val ≠ 3 && g.val ≠ 0
  | .vperm _ _ _ t => tyReg t.val && 2 ≤ tyWidth t.val
  | .vslideup _ _ _ t | .vslidedn _ _ _ t => tyReg t.val
  | .vred _ _ o _ t | .vscan _ _ o _ t => o.val ≠ 3 && tyRed t.val
  | .mcall _ p _ _ | .mcallRty _ p _ _ => p.val ≤ 8
  | .cpyr _ o => o.val ≠ 3
  | .cpys _ _ _ z | .xsig _ _ _ z => z.val ≤ 4
  | .recw d _ w => if d.val < 16 then w.val < 4 else w.val < 12
  | .recr _ a w => if a.val < 16 then w.val < 4 else w.val < 12
  | .xfer _ _ _ _ z => z.val ≤ 4
  | .xredAdd _ _ _ t | .xredMax _ _ _ t | .xredMin _ _ _ t => tyRed t.val
  | .aadd _ _ _ _ z | .aand _ _ _ _ z | .aor _ _ _ _ z | .axch _ _ _ _ z | .amax _ _ _ _ z | .amin _ _ _ _ z
  | .acas _ _ _ _ z => z.val ≤ 4
  | .ald _ _ _ z | .ast _ _ _ z => z.val ≤ 4
  | .barv _ _ _ z | .mwaitGe _ _ _ z | .mwaitNe _ _ _ z => z.val ≤ 4
  | .drain z | .drainE z | .fence z => z.val ≤ 4
  | .lkacq _ _ z | .lkacqTry _ _ z => z.val ≤ 4
  | .lkrel _ z => z.val ≤ 4
  | _ => true

/-- The operand values R266 permits a micro-operation. -/
def MicroOp.wellFormed : MicroOp → Bool
  | .uldm _ _ h p g =>
      if g.val = 0 then p.val == 0 else g.val ≤ 32 && !h && p.val + g.val ≤ 64
  | .ufeed s _ z q t ind w =>
      q.val ≠ 3 && (!ind || (s.val == 0 && t.val == 0)) && (ind || w.val == 0)
        && (q.val ≠ 1 || (z.val == 0 && t.val == 0))
  | .upass _ _ _ nm fan set nort ind w =>
      if ind then nm.val == 0 && fan.val == 0 && !set && !nort else w.val == 0
  | .uout _ _ _ t b ind w => if ind then t.val == 0 && !b else w.val == 0
  | _ => true

end Sys2Proof
end

