-- ==== Sys2Proof/Decode.lean ====
section
/-!
DEFINITION. Decoding (R35 to R52): slot words and headers to instructions, bundles to groups; micro-words (R265, R266);
then the encoder, written from the same tables, and the 32-bit table word the host asks about.
-/
namespace Sys2Proof
open Machine

/-- Why a slot is refused: the numbered checks of R52. -/
inductive DecodeError where
  /-- check 1: the major is 0x00, 0x3F, unassigned, or a header outside slot 0 -/
  | illegalMajor
  /-- check 2: the slot is not of the instruction's class (R36) -/
  | wrongClass
  /-- check 3: a minor value, reserved field, extension bit or register number is invalid -/
  | badField
  /-- check 4: the major is reserved for a later generation (R51) -/
  | reservedMajor
deriving DecidableEq, Repr

/-- The slot classes of R36. -/
inductive SlotClass where
  | s | v | m | any
deriving DecidableEq, Repr

/-- The class of a major, for the assigned majors (R49). -/
def majorClass (maj : Nat) : Option SlotClass :=
  if maj = 1 then some .any
  else if 2 ≤ maj ∧ maj ≤ 0x0F then some .s
  else if 0x10 ≤ maj ∧ maj ≤ 0x18 then some .v
  else if 0x19 ≤ maj ∧ maj ≤ 0x20 then some .m
  else none

/-- The slots of a class (R36). -/
def SlotClass.allows (c : SlotClass) (slot : Nat) : Bool :=
  match c with
  | .s => slot ≤ 1
  | .v => slot == 2
  | .m => slot == 3
  | .any => true

/-- A register number in its file (R48). -/
def fin? (n k : Nat) : Option (Fin n) := if h : k < n then some ⟨k, h⟩ else none

/-- The fields of formats R and R4 (R47), register numbers widened by the extension (R45). -/
structure RFields where
  d : Nat
  a : Nat
  b : Nat
  op : Nat
  md : Nat
deriving DecidableEq, Repr

/-- Format R: fn[9:4] is the operation, fn[3:0] the modifier; X[2:0] must be zero (R45, R46). -/
def rFields (w x : Nat) : Option RFields :=
  if x % 8 = 0 then
    some { d := bits w 20 5 + 32 * bits x 7 2, a := bits w 15 5 + 32 * bits x 5 2, b := bits w 10 5 + 32 * bits x 3 2,
           op := bits w 4 6, md := bits w 0 4 }
  else none

/-- The fields of format I, U, B: two register numbers, a minor value and an immediate. -/
structure IFields where
  d : Nat
  a : Nat
  f3 : Nat
  imm : BitVec 17
deriving DecidableEq, Repr

/-- Formats I and B: the same places; without a header the 12-bit field is sign-extended (R47). -/
def iFields (w : Nat) (x : Option Nat) : IFields :=
  { d := bits w 20 5 + 32 * bits (x.getD 0) 7 2, a := bits w 15 5 + 32 * bits (x.getD 0) 5 2, f3 := bits w 12 3,
    imm := match x with
      | none => BitVec.ofNat 17 (bits w 0 12 + (if bits w 11 1 = 1 then 0x1F000 else 0))
      | some y => BitVec.ofNat 17 (bits w 0 12 + 4096 * bits y 0 5) }

/-- The immediate of format U (R45, R47). -/
def uImm (w : Nat) (x : Option Nat) : BitVec 27 :=
  match x with
  | none => BitVec.ofNat 27 (bits w 0 20 + (if bits w 19 1 = 1 then 0x7F00000 else 0))
  | some y => BitVec.ofNat 27 (bits w 0 20 + 2 ^ 20 * bits y 0 7)

/-- The displacement of format J (R45, R47). -/
def jImm (w : Nat) (x : Option Nat) : BitVec 33 :=
  match x with
  | none => BitVec.ofNat 33 (bits w 0 24 + (if bits w 23 1 = 1 then 0x1FF000000 else 0))
  | some y => BitVec.ofNat 33 (bits w 0 24 + 2 ^ 24 * bits y 0 9)

/-- Three scalar registers. -/
def mk3 (f : SReg → SReg → SReg → Instr) (r : RFields) : Option Instr := do
  f (← fin? 64 r.d) (← fin? 64 r.a) (← fin? 64 r.b)
/-- Three scalar registers and the unsigned modifier (fn[3:0] = 0 or 1). -/
def mk3u (f : SReg → SReg → SReg → Bool → Instr) (r : RFields) : Option Instr := do
  if r.md ≤ 1 then f (← fin? 64 r.d) (← fin? 64 r.a) (← fin? 64 r.b) (r.md == 1) else none
/-- Fields that must be zero. -/
def zero? (n : Nat) : Option Unit := if n = 0 then some () else none
/-- Destination and one source, rb zero. -/
def mk2 (f : SReg → SReg → Instr) (r : RFields) : Option Instr := do
  zero? r.b; f (← fin? 64 r.d) (← fin? 64 r.a)
/-- Destination only. -/
def mkD (f : SReg → Instr) (r : RFields) : Option Instr := do
  zero? r.a; zero? r.b; f (← fin? 64 r.d)
/-- One source in ra. -/
def mkA (f : SReg → Instr) (r : RFields) : Option Instr := do
  zero? r.d; zero? r.b; f (← fin? 64 r.a)
/-- Sources in ra and rb. -/
def mkAB (f : SReg → SReg → Instr) (r : RFields) : Option Instr := do
  zero? r.d; f (← fin? 64 r.a) (← fin? 64 r.b)
/-- No operand. -/
def mk0 (i : Instr) (r : RFields) : Option Instr := do
  zero? r.d; zero? r.a; zero? r.b; i
/-- A modifier that must be zero. -/
def md0 (r : RFields) (o : Option Instr) : Option Instr := if r.md = 0 then o else none

/-- Major 0x02: scalar register–register forms (R164). -/
def dec02 (r : RFields) : Option Instr :=
  match r.op with
  | 0 => md0 r (mk3 .add r)
  | 1 => md0 r (mk3 .sub r)
  | 2 => md0 r (mk3 .mul r)
  | 3 => mk3u .mulh r
  | 4 => mk3u .div r
  | 5 => mk3u .rem r
  | 6 => md0 r (mk3 .and r)
  | 7 => md0 r (mk3 .or r)
  | 8 => md0 r (mk3 .xor r)
  | 9 => md0 r (mk3 .andn r)
  | 10 => md0 r (mk3 .sll r)
  | 11 => md0 r (mk3 .srl r)
  | 12 => md0 r (mk3 .sra r)
  | 13 => mk3u .slt r
  | 14 => mk3u .min r
  | 15 => mk3u .max r
  | 16 => mk3u .adds r
  | 17 => mk3u .subs r
  | 18 => match r.md with
    | 0 => mk2 .clz r
    | 1 => mk2 .ctz r
    | 2 => mk2 .popc r
    | _ => none
  | 19 => do
    let k ← fin? 16 r.md
    if r.md ≤ 4 then return .shadd (← fin? 64 r.d) (← fin? 64 r.a) (← fin? 64 r.b) k else none
  | _ => none

/-- Major 0x03: scalar immediate forms (R166). -/
def dec03 (f : IFields) : Option Instr := do
  let d ← fin? 64 f.d
  let a ← fin? 64 f.a
  match f.f3 with
  | 0 => some (.addi d a f.imm)
  | 1 => some (.andi d a f.imm)
  | 2 => some (.ori d a f.imm)
  | 3 => some (.xori d a f.imm)
  | 4 => some (.slti d a f.imm)
  | 5 => some (.sltiu d a f.imm)
  | 6 => some (.muli d a f.imm)
  | 7 => some (.seqi d a f.imm)
  | _ => none

/-- The raw 12-bit field of a form whose extension's immediate bits must be zero. -/
def imm12? (w : Nat) (x : Option Nat) : Option Nat := if bits (x.getD 0) 0 5 = 0 then some (bits w 0 12) else none

/-- Major 0x06: shift and field immediate forms (R168). -/
def dec06 (w : Nat) (x : Option Nat) (f : IFields) : Option Instr := do
  let d ← fin? 64 f.d
  let a ← fin? 64 f.a
  let i ← imm12? w x
  let l ← fin? 64 (bits i 6 6)
  let n ← fin? 64 (bits i 0 6)
  match f.f3 with
  | 0 => if l.val = 0 then some (.slli d a n) else none
  | 1 => if l.val = 0 then some (.srli d a n) else none
  | 2 => if l.val = 0 then some (.srai d a n) else none
  | 3 => if l.val + 1 + n.val ≤ 64 then some (.bfx d a l n) else none
  | _ => none

/-- Major 0x07: conditional branches (R170); ra stands in the first register field. -/
def dec07 (f : IFields) : Option Instr := do
  let a ← fin? 64 f.d
  let b ← fin? 64 f.a
  match f.f3 with
  | 0 => some (.beq a b f.imm)
  | 1 => some (.bne a b f.imm)
  | 2 => some (.blt a b f.imm)
  | 3 => some (.bge a b f.imm)
  | 4 => some (.bltu a b f.imm)
  | 5 => some (.bgeu a b f.imm)
  | _ => none

/-- Major 0x09: indirect transfers, the counted loop and the return (R172). -/
def dec09 (w : Nat) (r : RFields) : Option Instr :=
  match r.op with
  | 0 => md0 r (mkA .jr r)
  | 1 => do
    zero? r.b
    return .callr (← fin? 64 r.d) (← fin? 64 r.a) (← fin? 16 r.md)
  | 2 => md0 r (do
    if r.a < 32 ∧ r.b < 32 then return .loop (← fin? 64 r.d) (← fin? 1024 (bits w 10 10)) else none)
  | 3 => md0 r (mkA .ret r)
  | _ => none

/-- Major 0x0A: mask forms (R176). -/
def dec0A (r : RFields) : Option Instr :=
  let mk (f : KReg → KReg → KReg → Instr) : Option Instr := do
    f (← fin? 8 r.d) (← fin? 8 r.a) (← fin? 8 r.b)
  match r.op with
  | 0 => md0 r (mk .kand)
  | 1 => md0 r (mk .kor)
  | 2 => md0 r (mk .kxor)
  | 3 => md0 r (mk .kandn)
  | 4 => md0 r (do zero? r.b; return .kset (← fin? 8 r.d) (← fin? 64 r.a))
  | 5 => do
    zero? r.b
    let d ← fin? 64 r.d
    let a ← fin? 8 r.a
    match r.md with
    | 0 => some (.kcnt d a)
    | 1 => some (.kfind d a)
    | _ => none
  | _ => none

/-- `wrc` by register number: the two registers whose words are rows of their own, then the plain form, which covers every
other register a write form may name (R177, R183). -/
def decWrc (a : SReg) (n : Nat) : Option Instr :=
  if n = 0x010 then some (.writeCVl a)
  else if n = 0x011 then some (.writeCPri a)
  else if ctrlWritable n then some (.wrc a (BitVec.ofNat 12 n))
  else none

/-- Major 0x0B: control-register access (R183). -/
def dec0B (w : Nat) (x : Option Nat) (f : IFields) : Option Instr := do
  let d ← fin? 64 f.d
  let a ← fin? 64 f.a
  let n ← imm12? w x
  let c := BitVec.ofNat 12 n
  match f.f3 with
  | 0 => do zero? f.a; if ctrlNamed n then some (.rdc d c) else none
  | 1 => do zero? f.d; decWrc a n
  | 2 => if ctrlWritable n then some (.setc d a c) else none
  | 3 => if ctrlWritable n then some (.clrc d a c) else none
  | 4 => if ctrlWritable n then some (.xchc d a c) else none
  | 5 => if ctrlWritable n then some (.addc d a c) else none
  | 6 => do zero? f.a; if ctrlWritable n then some (.rdcz d c) else none
  | 7 => if n = 0 then some (.rdcr d a) else none
  | _ => none

/-- Major 0x0C: `tlbinv` (R89) and `rgsync` (R90). -/
def dec0C (r : RFields) : Option Instr :=
  match r.op with
  | 0 => match r.md with
    | 1 => do zero? r.d; zero? r.a; return .tlbinvCtx (← fin? 64 r.b)
    | 2 => mk0 .tlbinvAll r
    | _ => do
      zero? (r.md % 4); zero? r.d
      return .tlbinvPage (← fin? 64 r.a) (← fin? 64 r.b) (← fin? 4 (r.md / 4))
  | 1 => match r.md with
    | 0 => mkAB .rgsyncWb r
    | 1 => mkAB .rgsyncFill r
    | 2 => mkAB .rgsyncEvict r
    | 3 => mkAB .rgsyncDiscard r
    | _ => none
  | _ => none

/-- Major 0x0D: the phase family (R318). -/
def dec0D (r : RFields) : Option Instr :=
  match r.op, r.md with
  | 0, 0 => mkD .phase r
  | 0, 1 => mkD .phaseC r
  | 1, 0 => mk0 .phreq r
  | 2, 0 => mkD .phleft r
  | 3, 0 => mk2 .phuntil r
  | _, _ => none

/-- Major 0x0E: scheduling (R359). -/
def dec0E (r : RFields) : Option Instr :=
  md0 r (match r.op with
  | 0 => mkA .spawn r
  | 1 => mkAB .spawnt r
  | 2 => mk2 .join r
  | 3 => mk2 .grow r
  | 4 => mk0 .park r
  | 5 => mk0 .tend r
  | 6 => mkA .tendj r
  | 7 => mk3 .launch r
  | _ => none)

/-- Major 0x0F: trap and context (R440). -/
def dec0F (r : RFields) : Option Instr :=
  match r.op, r.md with
  | 0, n => do zero? r.d; zero? r.a; zero? r.b; return .trap (← fin? 16 n)
  | 1, 0 => mk0 .rett r
  | 2, 0 => mk0 .ctxsw r
  | 2, 1 => mk0 .ctxswRel r
  | 3, 0 => mkA .ckpt r
  | 4, 0 => mkD .fqwait r
  | 5, 0 => mk3 .fqpop r
  | 6, 0 => mkA .ctxkill r
  | 7, 0 => mkA .ctxrel r
  | _, _ => none

/-- Three vector registers and a type code that the family permits. -/
def mkV (ok : Nat → Bool) (f : VReg → VReg → VReg → Fin 16 → Instr) (r : RFields) : Option Instr := do
  if ok r.md then f (← fin? 128 r.d) (← fin? 128 r.a) (← fin? 128 r.b) (← fin? 16 r.md) else none

/-- Major 0x10: vector integer (R199 to R201). -/
def dec10 (r : RFields) : Option Instr :=
  match r.op with
  | 0 => mkV tyInt .vadd r
  | 1 => mkV tyInt .vadds r
  | 2 => mkV tyInt .vsub r
  | 3 => mkV tyInt .vsubs r
  | 4 => mkV tyInt .vmul r
  | 5 => mkV tyInt .vmulh r
  | 6 => mkV tyInt .vmin r
  | 7 => mkV tyInt .vmax r
  | 8 => mkV tyInt .vand r
  | 9 => mkV tyInt .vor r
  | 10 => mkV tyInt .vxor r
  | 11 => mkV tyInt .vsll r
  | 12 => mkV tyInt .vsr r
  | 13 => do
    let t ← fin? 16 r.md
    if tyInt r.md then return .vcmp (← fin? 4 (r.d / 8)) (← fin? 8 (r.d % 8)) (← fin? 128 r.a) (← fin? 128 r.b) t else none
  | 14 => do
    zero? r.b
    if tyInt r.md then return .vsplat (← fin? 128 r.d) (← fin? 64 r.a) (← fin? 16 r.md) else none
  | 15 => if tyInt r.md then do
      return .vmvs (← fin? 64 r.d) (← fin? 128 r.a) (← fin? 64 r.b) (← fin? 16 r.md) else none
  | _ => none

/-- Three vector registers, a 2-bit type and a rounding mode (R193, R202). -/
def mkF (f : VReg → VReg → VReg → Fin 4 → Fin 4 → Instr) (r : RFields) : Option Instr := do
  if r.md / 4 ≠ 3 then
    f (← fin? 128 r.d) (← fin? 128 r.a) (← fin? 128 r.b) (← fin? 4 (r.md / 4)) (← fin? 4 (r.md % 4))
  else none
/-- The same without a rounding mode, whose field is 0b00. -/
def mkFn (f : VReg → VReg → VReg → Fin 4 → Instr) (r : RFields) : Option Instr := do
  zero? (r.md % 4)
  if r.md / 4 ≠ 3 then f (← fin? 128 r.d) (← fin? 128 r.a) (← fin? 128 r.b) (← fin? 4 (r.md / 4)) else none
/-- A masked unary form with a rounding mode: rb[2:0] names the mask (R192). -/
def mkU (f : VReg → VReg → KReg → Fin 4 → Fin 4 → Instr) (r : RFields) : Option Instr := do
  if r.md / 4 ≠ 3 then
    f (← fin? 128 r.d) (← fin? 128 r.a) (← fin? 8 r.b) (← fin? 4 (r.md / 4)) (← fin? 4 (r.md % 4))
  else none
/-- A masked unary form that does not round. -/
def mkUn (f : VReg → VReg → KReg → Fin 4 → Instr) (r : RFields) : Option Instr := do
  zero? (r.md % 4)
  if r.md / 4 ≠ 3 then f (← fin? 128 r.d) (← fin? 128 r.a) (← fin? 8 r.b) (← fin? 4 (r.md / 4)) else none

/-- Major 0x11: vector floating point (R202, R203). -/
def dec11 (r : RFields) : Option Instr :=
  match r.op with
  | 0 => mkF .vfadd r
  | 1 => mkF .vfsub r
  | 2 => mkF .vfmul r
  | 3 => mkF .vfdiv r
  | 4 => mkU .vfsqrt r
  | 5 => mkU .vfrsqrt r
  | 6 => mkFn .vfmin r
  | 7 => mkFn .vfmax r
  | 8 => mkUn .vfabs r
  | 9 => mkUn .vfneg r
  | 10 => do
    zero? (r.md % 4)
    if r.md / 4 ≠ 3 then
      return .vfcmp (← fin? 4 (r.d / 8)) (← fin? 8 (r.d % 8)) (← fin? 128 r.a) (← fin? 128 r.b) (← fin? 4 (r.md / 4))
    else none
  | 11 => do
    zero? r.b
    if r.md / 4 ≠ 3 then return .vfsplat (← fin? 128 r.d) (← fin? 64 r.a) (← fin? 4 (r.md / 4)) (← fin? 4 (r.md % 4)) else none
  | 12 => mkF .vfscl r
  | 13 => mkFn .vfsgnj r
  | _ => none

/-- Major 0x12: fused multiply-add and select, format R4 (R204, R205). -/
def dec12 (w x : Nat) : Option Instr := do
  zero? (x % 2)
  let d ← fin? 128 (bits w 20 5 + 32 * bits x 7 2)
  let a ← fin? 128 (bits w 15 5 + 32 * bits x 5 2)
  let b ← fin? 128 (bits w 10 5 + 32 * bits x 3 2)
  let c ← fin? 128 (bits w 5 5 + 32 * bits x 1 2)
  match bits w 0 5 with
  | 0 => some (.vfmaF32 d a b c)
  | 1 => some (.vfnmaF32 d a b c)
  | 2 => some (.vfmaBf16 d a b c)
  | 3 => some (.vfmaF16 d a b c)
  | 4 => some (.vfmawBf16 d a b c)
  | 5 => do return .vsel d a b (← fin? 4 (c.val / 8)) (← fin? 8 (c.val % 8))
  | _ => none

/-- Major 0x13: conversions, blocks and rotation (R206). -/
def dec13 (r : RFields) : Option Instr := do
  let d ← fin? 128 r.d
  let a ← fin? 128 r.a
  let f ← fin? 4 (r.md / 4)
  let lo ← fin? 4 (r.md % 4)
  let t ← fin? 16 r.md
  match r.op with
  | 0 => do
    let s ← fin? 16 r.b
    if tyReg r.md && tyReg r.b then some (.vcvt d a s t) else none
  | 1 => do
    let m ← fin? 16 r.b
    if r.md / 4 ≠ 3 ∧ r.md % 4 = 0 ∧ 1 ≤ r.b ∧ r.b ≤ 8 then some (.vbmax d a m f) else none
  | 2 => do
    let m ← fin? 16 r.b
    if r.md / 4 ≠ 3 ∧ 1 ≤ r.b ∧ r.b ≤ 8 then some (.vqnt d a m f lo) else none
  | 3 => do zero? r.b; if tyReg r.md then some (.vdqnt d a t) else none
  | 4 => do zero? r.b; if r.md / 4 ≠ 3 ∧ r.md % 4 ≠ 0 then some (.vhad d a f lo) else none
  | 5 => mkU .vfrnd r
  | 6 => do zero? r.b; if r.md = 0 then some (.vbhdr d a) else none
  | 7 => mkU .vfexp2 r
  | _ => none

/-- Major 0x14: permute, slide, reduce, scan (R214). -/
def dec14 (r : RFields) : Option Instr :=
  match r.op with
  | 0 => mkV (fun t => tyReg t && 2 ≤ tyWidth t) .vperm r
  | 1 => if tyReg r.md then do
      return .vslideup (← fin? 128 r.d) (← fin? 128 r.a) (← fin? 64 r.b) (← fin? 16 r.md) else none
  | 2 => if tyReg r.md then do
      return .vslidedn (← fin? 128 r.d) (← fin? 128 r.a) (← fin? 64 r.b) (← fin? 16 r.md) else none
  | 3 => if tyRed r.md && r.b / 8 < 3 then do
      return .vred (← fin? 64 r.d) (← fin? 128 r.a) (← fin? 4 (r.b / 8)) (← fin? 8 (r.b % 8)) (← fin? 16 r.md) else none
  | 4 => if tyRed r.md && r.b / 8 < 3 then do
      return .vscan (← fin? 128 r.d) (← fin? 128 r.a) (← fin? 4 (r.b / 8)) (← fin? 8 (r.b % 8)) (← fin? 16 r.md) else none
  | 5 => do
    zero? r.a; zero? r.b
    if tyInt r.md then return .vidx (← fin? 128 r.d) (← fin? 16 r.md) else none
  | _ => none

/-- Major 0x15: tiles (R222). -/
def dec15 (r : RFields) : Option Instr :=
  md0 r (match r.op with
  | 0 => do zero? r.b; return .tdef (← fin? 16 r.d) (← fin? 64 r.a)
  | 1 => do zero? r.a; zero? r.b; return .tzero (← fin? 16 r.d)
  | 2 => do zero? r.b; return .ttrn (← fin? 16 r.d) (← fin? 16 r.a)
  | 3 => do zero? r.b; return .tcvt (← fin? 16 r.d) (← fin? 16 r.a)
  | 4 => do return .tgetr (← fin? 128 r.d) (← fin? 16 r.a) (← fin? 64 r.b)
  | 5 => do return .tputr (← fin? 16 r.d) (← fin? 128 r.a) (← fin? 64 r.b)
  | _ => none)

/-- Major 0x16: manger (R231). -/
def dec16 (r : RFields) : Option Instr :=
  match r.op, r.md with
  | 0, 0 => mkA .mgset r
  | 1, 0 => do zero? r.b; return .mgoff (← fin? 8 r.d) (← fin? 64 r.a)
  | 2, 0 => do zero? r.b; return .mgget (← fin? 64 r.d) (← fin? 8 r.a)
  | 2, 1 => mkD .mggetN r
  | 3, 0 => mk0 .mgarm r
  | 3, 1 => mk0 .mgdrop r
  | _, _ => none

/-- Major 0x17: the matrix call, format C (R47, R271). -/
def dec17 (w x : Nat) : Option Instr := do
  zero? (x % 256)
  zero? (bits w 0 5)
  let i ← fin? 256 (bits w 17 8)
  let p ← fin? 16 (bits w 13 4)
  let n ← fin? 4 (bits w 11 2)
  let d ← fin? 64 (bits w 5 5 + 32 * bits x 8 1)
  if p.val ≤ 8 then some (if bits w 10 1 = 1 then .mcallRty i p n d else .mcall i p n d) else none

/-- Major 0x18: matrix control (R258, R284). -/
def dec18 (r : RFields) : Option Instr :=
  match r.op, r.md with
  | 0, 0 => mkA .mmodeS r
  | 0, 1 => mkA .mmodeC r
  | 0, 2 => mkD .mmodeRd r
  | 1, 0 => mkA .mcal r
  | 1, 1 => mk2 .mcalRd r
  | 2, 0 => mk2 .mdescRd r
  | 2, 1 => mkAB .mdescWr r
  | 3, 0 => do zero? r.b; return .mpw (← fin? 8 r.d) (← fin? 64 r.a)
  | 3, 1 => do zero? r.b; return .mpr (← fin? 64 r.d) (← fin? 8 r.a)
  | 4, 0 => mkAB .mucw r
  | 4, 1 => mk2 .mucr r
  | 5, 0 => mk2 .mstat r
  | 5, 1 => mk3 .mstatClip r
  | 6, 0 => mkA .mcwait r
  | 6, 1 => mk0 .mcwaitAll r
  | 7, 0 => do zero? r.b; return .mdrainA (← fin? 128 r.d) (← fin? 64 r.a)
  | 7, 1 => do zero? r.b; return .mdrainB (← fin? 128 r.d) (← fin? 64 r.a)
  | 7, 2 => do zero? r.a; zero? r.b; return .mdrainU (← fin? 128 r.d)
  | 8, 0 => do zero? r.b; return .mrestA (← fin? 128 r.d) (← fin? 64 r.a)
  | 8, 1 => do zero? r.b; return .mrestB (← fin? 128 r.d) (← fin? 64 r.a)
  | 8, 2 => do zero? r.a; zero? r.b; return .mrestU (← fin? 128 r.d)
  | 9, 0 => mkA .mzero r
  | 10, 0 => mk3 .mtacc r
  | _, _ => none

/-- Major 0x19: record loads and stores, immediate offset (R151). -/
def dec19 (f : IFields) : Option Instr :=
  match f.f3 with
  | 0 => do return .ldScalar (← fin? 64 f.d) (← fin? 16 f.a) f.imm
  | 1 => do return .stScalar (← fin? 64 f.d) (← fin? 16 f.a) f.imm
  | 2 => do return .ldVector (← fin? 128 f.d) (← fin? 16 f.a) f.imm
  | 3 => do return .stVector (← fin? 128 f.d) (← fin? 16 f.a) f.imm
  | 4 => do return .ldw (← fin? 128 f.d) (← fin? 16 f.a) f.imm
  | 5 => do return .stw (← fin? 128 f.d) (← fin? 16 f.a) f.imm
  | 6 => do return .ldrec (← fin? 24 f.d) (← fin? 64 f.a) f.imm
  | 7 => do return .strec (← fin? 24 f.d) (← fin? 64 f.a) f.imm
  | _ => none

/-- Major 0x1A: indexed record accesses, gather and scatter (R152). -/
def dec1A (r : RFields) : Option Instr :=
  match r.op with
  | 0 => do return .ldScalarX (← fin? 64 r.d) (← fin? 16 r.a) (← fin? 64 r.b) (← fin? 16 r.md)
  | 1 => do return .stScalarX (← fin? 64 r.d) (← fin? 16 r.a) (← fin? 64 r.b) (← fin? 16 r.md)
  | 2 => do return .ldVectorX (← fin? 128 r.d) (← fin? 16 r.a) (← fin? 64 r.b) (← fin? 16 r.md)
  | 3 => do return .stVectorX (← fin? 128 r.d) (← fin? 16 r.a) (← fin? 64 r.b) (← fin? 16 r.md)
  | 4 => do return .ldwX (← fin? 128 r.d) (← fin? 16 r.a) (← fin? 64 r.b) (← fin? 16 r.md)
  | 5 => do return .stwX (← fin? 128 r.d) (← fin? 16 r.a) (← fin? 64 r.b) (← fin? 16 r.md)
  | 6 => do return .ldg (← fin? 128 r.d) (← fin? 16 r.a) (← fin? 128 r.b) (← fin? 8 r.md)
  | 7 => do return .stg (← fin? 128 r.d) (← fin? 16 r.a) (← fin? 128 r.b) (← fin? 8 r.md)
  | _ => none

/-- Major 0x1B: tags and rings (R156). -/
def dec1B (w : Nat) (x : Option Nat) (f : IFields) : Option Instr :=
  match f.f3 with
  | 0 => do return .ldf (← fin? 64 f.d) (← fin? 64 f.a) f.imm
  | 1 => do return .ldfp (← fin? 64 f.d) (← fin? 64 f.a) f.imm
  | 2 => do return .stf (← fin? 64 f.d) (← fin? 64 f.a) f.imm
  | 3 => do return .tagrd (← fin? 64 f.d) (← fin? 64 f.a) f.imm
  | 4 => do
    let i ← imm12? w x
    let d ← fin? 64 f.d
    let a ← fin? 64 f.a
    match i with
    | 0 => some (.tagwE d a)
    | 1 => some (.tagwF d a)
    | _ => none
  | 5 => do
    let i ← imm12? w x
    zero? f.a; zero? (i / 32)
    let d ← fin? 64 f.d
    let n ← fin? 16 (i % 16)
    some (if i / 16 = 1 then .racqR d n else .racqW d n)
  | 6 => do
    let i ← imm12? w x
    zero? f.a; zero? f.d; zero? (i / 32)
    let n ← fin? 16 (i % 16)
    some (if i / 16 = 1 then .rrelR n else .rrelW n)
  | 7 => do return .stfx (← fin? 64 f.d) (← fin? 64 f.a) f.imm
  | _ => none

/-- Major 0x1C: the copy engine (R124). -/
def dec1C (r : RFields) : Option Instr :=
  let e := r.md / 8 == 1
  let lo := r.md % 8
  match r.op with
  | 0 => do zero? lo; return .cpy (← fin? 24 r.d) (← fin? 24 r.a) (← fin? 64 r.b) e
  | 1 => do zero? lo; zero? r.a; zero? r.b; return .cpyg (← fin? 64 r.d) e
  | 2 => do zero? lo; zero? r.d; zero? r.a; zero? r.b; some (.cpyc e)
  | 3 => if lo < 3 then do zero? r.d; zero? r.a; zero? r.b; return .cpyr e (← fin? 4 lo) else none
  | 4 => if lo ≤ 4 then do zero? r.d; return .cpys (← fin? 64 r.a) (← fin? 64 r.b) e (← fin? 8 lo) else none
  | 5 => md0 r (mkAB .ctabw r)
  | 6 => md0 r (mk0 .ctabc r)
  | 7 => do
    zero? r.b
    let w ← fin? 16 r.md
    let d ← fin? 24 r.d
    let a ← fin? 64 r.a
    if (if d.val < 16 then r.md < 4 else r.md < 12) then some (.recw d a w) else none
  | 8 => do
    zero? r.b
    let w ← fin? 16 r.md
    let d ← fin? 64 r.d
    let a ← fin? 24 r.a
    if (if a.val < 16 then r.md < 4 else r.md < 12) then some (.recr d a w) else none
  | 9 => match r.md with
    | 0 => do zero? r.a; zero? r.b; return .cpyxStat (← fin? 64 r.d) false
    | 2 => do zero? r.a; zero? r.b; return .cpyxStat (← fin? 64 r.d) true
    | 4 => mkAB .cpyxResume r
    | 8 => mkA .cpyxAbort r
    | _ => none
  | _ => none

/-- Major 0x1D: exchange and reduction (R304). -/
def dec1D (r : RFields) : Option Instr :=
  let red (f : VReg → SReg → SReg → Fin 16 → Instr) : Option Instr := do
    if tyRed r.md then f (← fin? 128 r.d) (← fin? 64 r.a) (← fin? 64 r.b) (← fin? 16 r.md) else none
  match r.op with
  | 0 => if r.md % 8 ≤ 4 then do
      return .xfer (← fin? 128 r.d) (← fin? 64 r.a) (← fin? 64 r.b) (r.md / 8 == 1) (← fin? 8 (r.md % 8)) else none
  | 1 => red .xredAdd
  | 2 => red .xredMax
  | 3 => red .xredMin
  | 4 => if r.md % 8 ≤ 4 then do
      zero? r.d
      return .xsig (← fin? 64 r.a) (← fin? 64 r.b) (r.md / 8 == 1) (← fin? 8 (r.md % 8)) else none
  | _ => none

/-- Major 0x1E: atomics (R385). -/
def dec1E (r : RFields) : Option Instr :=
  let mk (f : SReg → SReg → SReg → Bool → Fin 8 → Instr) : Option Instr := do
    f (← fin? 64 r.d) (← fin? 64 r.a) (← fin? 64 r.b) (r.md / 8 == 1) (← fin? 8 (r.md % 8))
  if r.md % 8 ≤ 4 then
    match r.op with
    | 0 => mk .aadd
    | 1 => mk .aand
    | 2 => mk .aor
    | 3 => mk .axch
    | 4 => mk .amax
    | 5 => mk .amin
    | 6 => mk .acas
    | 7 => do zero? r.b; return .ald (← fin? 64 r.d) (← fin? 64 r.a) (r.md / 8 == 1) (← fin? 8 (r.md % 8))
    | _ => none
  else none

/-- Major 0x1F: barriers and drains (R387). -/
def dec1F (r : RFields) : Option Instr :=
  let sc := fin? 8 (r.md % 8)
  match r.op with
  | 0 => md0 r (mkA .binit r)
  | 1 => md0 r (mkAB .bexp r)
  | 2 => if r.md ≤ 4 then do return .barv (← fin? 64 r.d) (← fin? 64 r.a) (← fin? 64 r.b) (← sc) else none
  | 3 => match r.md with
    | 0 => mkA .bwait r
    | 1 => mkAB .bwaitPh r
    | _ => none
  | 4 => if r.md % 8 ≤ 4 then do
      let d ← fin? 64 r.d
      let a ← fin? 64 r.a
      let b ← fin? 64 r.b
      let z ← sc
      some (if r.md / 8 = 1 then .mwaitNe d a b z else .mwaitGe d a b z)
    else none
  | 5 => if r.md % 8 ≤ 4 then do
      zero? r.d; zero? r.a; zero? r.b
      let z ← sc
      some (if r.md / 8 = 1 then .drainE z else .drain z)
    else none
  | 6 => if r.md ≤ 4 then do zero? r.d; zero? r.a; zero? r.b; return .fence (← sc) else none
  | 7 => if r.md % 8 ≤ 4 then do zero? r.d; return .ast (← fin? 64 r.a) (← fin? 64 r.b) (r.md / 8 == 1) (← sc) else none
  | _ => none

/-- Major 0x20: tethers and locks (R391). -/
def dec20 (r : RFields) : Option Instr :=
  match r.op with
  | 0 => md0 r (mk2 .teth r)
  | 1 => md0 r (mk2 .tethown r)
  | 2 => match r.md with
    | 0 => mkA .unteth r
    | 1 => mkA .untethO r
    | 2 => mk0 .untethA r
    | _ => none
  | 3 => if r.md % 8 ≤ 4 then do
      zero? r.b
      let d ← fin? 64 r.d
      let a ← fin? 64 r.a
      let z ← fin? 8 (r.md % 8)
      some (if r.md / 8 = 1 then .lkacqTry d a z else .lkacq d a z)
    else none
  | 4 => if r.md ≤ 4 then do zero? r.d; zero? r.b; return .lkrel (← fin? 64 r.a) (← fin? 8 r.md) else none
  | _ => none

/-- The fields of an assigned major (check 3 of R52); `x` is the slot's extension, `none` in a bundle with no header. -/
def decFields (maj w : Nat) (x : Option Nat) : Option Instr :=
  let e := x.getD 0
  let f := iFields w x
  match maj with
  | 0x01 => if bits w 0 25 = 0 ∧ e = 0 then some .nop else none
  | 0x02 => (rFields w e).bind dec02
  | 0x03 => dec03 f
  | 0x04 => (fin? 64 f.d).map fun d => .lui d (uImm w x)
  | 0x05 => (fin? 64 f.d).map fun d => .adrb d (uImm w x)
  | 0x06 => dec06 w x f
  | 0x07 => dec07 f
  | 0x08 => some (if bits w 24 1 = 1 then .call (jImm w x) else .br (jImm w x))
  | 0x09 => (rFields w e).bind (dec09 w)
  | 0x0A => (rFields w e).bind dec0A
  | 0x0B => dec0B w x f
  | 0x0C => (rFields w e).bind dec0C
  | 0x0D => (rFields w e).bind dec0D
  | 0x0E => (rFields w e).bind dec0E
  | 0x0F => (rFields w e).bind dec0F
  | 0x10 => (rFields w e).bind dec10
  | 0x11 => (rFields w e).bind dec11
  | 0x12 => dec12 w e
  | 0x13 => (rFields w e).bind dec13
  | 0x14 => (rFields w e).bind dec14
  | 0x15 => (rFields w e).bind dec15
  | 0x16 => (rFields w e).bind dec16
  | 0x17 => dec17 w e
  | 0x18 => (rFields w e).bind dec18
  | 0x19 => dec19 f
  | 0x1A => (rFields w e).bind dec1A
  | 0x1B => dec1B w x f
  | 0x1C => (rFields w e).bind dec1C
  | 0x1D => (rFields w e).bind dec1D
  | 0x1E => (rFields w e).bind dec1E
  | 0x1F => (rFields w e).bind dec1F
  | 0x20 => (rFields w e).bind dec20
  | _ => none

/-- One slot, by the checks of R52 in their order. Bit 31 (the stop bit) takes no part. -/
def decodeSlot (slot : Nat) (x : Option Nat) (w : Nat) : Except DecodeError Instr :=
  let maj := bits w 25 6
  match majorClass maj with
  | some c =>
    if c.allows slot then
      match decFields maj w x with
      | some i => .ok i
      | none => .error .badField
    else .error .wrongClass
  | none => if 0x34 ≤ maj ∧ maj ≤ 0x3D then .error .reservedMajor else .error .illegalMajor

/-- The control transfers of R41, of which a group holds at most one. -/
def Instr.isTransfer : Instr → Bool
  | .beq .. | .bne .. | .blt .. | .bge .. | .bltu .. | .bgeu .. | .br .. | .call .. | .jr .. | .callr .. | .loop ..
  | .ret .. | .rett => true
  | _ => false

/-- One decoded slot of a bundle. -/
structure Slot where
  slot : Nat
  stop : Bool
  instr : Instr
deriving DecidableEq, Repr

/-- Slot `k`'s 32-bit word of a bundle (R35). -/
def slotWord (bun : BitVec 128) (k : Nat) : Nat := bits bun.toNat (32 * k) 32

/-- Slot 0 is a header (R44). -/
def hasHeader (bun : BitVec 128) : Bool := bits (slotWord bun 0) 25 6 == 0x3E

/-- The extension of slot `k` in a bundle with a header; bit 8 of X3 is bit 31 of slot 3 (R44). -/
def headerExt (bun : BitVec 128) (k : Nat) : Nat :=
  let h := slotWord bun 0
  match k with
  | 1 => bits h 0 9
  | 2 => bits h 9 9
  | 3 => bits h 18 7 + 128 * bits h 31 1 + 256 * bits (slotWord bun 3) 31 1
  | _ => 0

/-- The slots of a bundle from slot `k` on, each checked in slot order (R52); `seen` says that the group in progress
already holds a control transfer (R41). The error names the offending slot. -/
def decodeFrom (bun : BitVec 128) (hdr : Bool) : Nat → Nat → Bool → Except (DecodeError × Nat) (List Slot)
  | 0, _, _ => .ok []
  | n + 1, k, seen =>
    let w := slotWord bun k
    let stop := k == 3 || bits w 31 1 == 1
    match decodeSlot k (if hdr then some (headerExt bun k) else none) w with
    | .error e => .error (e, k)
    | .ok i =>
      if i.isTransfer && seen then .error (.badField, k)
      else
        match decodeFrom bun hdr n (k + 1) (!stop && (seen || i.isTransfer)) with
        | .error e => .error e
        | .ok r => .ok ({ slot := k, stop := stop, instr := i } :: r)

/-- A bundle decoded whole (R52). -/
def decodeBundle (bun : BitVec 128) : Except (DecodeError × Nat) (List Slot) :=
  if hasHeader bun then decodeFrom bun true 3 1 false else decodeFrom bun false 4 0 false

/-- The group that begins at slot `k`: the run of slots up to the next stop (R39). -/
def groupAt (l : List Slot) (k : Nat) : List Slot :=
  let rest := l.filter (fun s => k ≤ s.slot)
  rest.takeWhile (fun s => !s.stop) ++ (rest.dropWhile (fun s => !s.stop)).take 1

/-! ## Micro-words (R265, R266) -/

/-- Why a micro-word is refused: the codes 0x01 and 0x02 of R269. -/
inductive MicroError where
  | reservedOp
  | badField
deriving DecidableEq, Repr

/-- One decoded micro-word: its operation, LAST and CONS. -/
structure MicroWord where
  op : MicroOp
  last : Bool
  cons : Bool
deriving DecidableEq, Repr

/-- `f` bits of a micro-word as a register number. -/
def mf (n w lo len : Nat) (h : 2 ^ len ≤ n) : Fin n := ⟨bits w lo len, Nat.lt_of_lt_of_le (Nat.mod_lt _ (Nat.two_pow_pos _)) h⟩

/-- The bits of `w` below 58 that lie outside the listed fields are zero; each field is (lowest bit, width). -/
def onlyFields (w : Nat) (fs : List (Nat × Nat)) : Bool :=
  bits w 0 58 == (fs.map fun p => bits w p.1 p.2 * 2 ^ p.1).sum

/-- A micro-word decoded under R265, R266 and R496; a field that must be zero and is not is refused (R269 code 0x02). -/
def decodeMicro (wv : W64) : Except MicroError MicroWord :=
  let w := wv.toNat
  let x : Fin 8 := mf 8 w 55 3 (by decide)
  let y : Fin 8 := mf 8 w 52 3 (by decide)
  let z : Fin 8 := mf 8 w 49 3 (by decide)
  let fin (fs : List (Nat × Nat)) (i : MicroOp) : Except MicroError MicroWord :=
    if onlyFields w fs && i.wellFormed then .ok { op := i, last := bits w 59 1 == 1, cons := bits w 58 1 == 1 }
    else .error .badField
  match bits w 60 4 with
  | 0x0 => fin [] .unop
  | 0x1 => fin [(55, 3), (0, 32)] (.uldi x (BitVec.ofNat 32 (bits w 0 32)))
  | 0x2 => fin [(55, 3), (52, 3), (51, 1), (45, 6), (39, 6)]
      (.uldm x y (bits w 51 1 == 1) (mf 64 w 45 6 (by decide)) (mf 64 w 39 6 (by decide)))
  | 0x3 => fin [(55, 3), (52, 3), (0, 24)] (.uadd x y (BitVec.ofNat 24 (bits w 0 24)))
  | 0x4 => fin [(56, 2), (52, 3)] (.ulc (mf 4 w 56 2 (by decide)) y)
  | 0x5 => fin [(56, 2), (54, 2), (51, 3), (0, 13)]
      (.ubr (mf 4 w 56 2 (by decide)) (mf 4 w 54 2 (by decide)) (mf 8 w 51 3 (by decide)) (mf 8192 w 0 13 (by decide)))
  | 0x6 =>
    if bits w 47 2 = 3 then .error .reservedOp
    else fin [(55, 3), (52, 3), (49, 3), (47, 2), (43, 4), (42, 1), (39, 3)]
      (.ufeed x y z (mf 4 w 47 2 (by decide)) (mf 16 w 43 4 (by decide)) (bits w 42 1 == 1) (mf 8 w 39 3 (by decide)))
  | 0x7 => fin [(55, 3), (52, 3), (49, 3), (43, 6), (41, 2), (40, 1), (39, 1), (38, 1), (35, 3)]
      (.upass x y z (mf 64 w 43 6 (by decide)) (mf 4 w 41 2 (by decide)) (bits w 40 1 == 1) (bits w 39 1 == 1)
        (bits w 38 1 == 1) (mf 8 w 35 3 (by decide)))
  | 0x8 => fin [(55, 3), (52, 3)] (.uzero x y)
  | 0x9 => fin [(55, 3), (52, 3), (49, 3), (45, 4), (44, 1), (43, 1), (40, 3)]
      (.uout x y z (mf 16 w 45 4 (by decide)) (bits w 44 1 == 1) (bits w 43 1 == 1) (mf 8 w 40 3 (by decide)))
  | 0xA => fin [(52, 3)] (.uwin y)
  | 0xB => fin [(52, 3)] (.uspl y)
  | 0xC => fin [(55, 3), (52, 3), (49, 3)] (.ucal x y z)
  | 0xD => fin [(55, 3), (0, 8)] (.ustat x (BitVec.ofNat 8 (bits w 0 8)))
  | _ => .error .reservedOp

/-- The word of a micro-operation with its LAST and CONS bits (R265, R266, R496). -/
def encodeMicro (o : MicroOp) (last cons : Bool) : W64 :=
  let b (v : Bool) (n : Nat) : Nat := if v then 2 ^ n else 0
  let xyz (x y z : Nat) : Nat := x * 2 ^ 55 + y * 2 ^ 52 + z * 2 ^ 49
  let (op, v) : Nat × Nat :=
    match o with
    | .unop => (0x0, 0)
    | .uldi x i => (0x1, x.val * 2 ^ 55 + i.toNat)
    | .uldm x m h p g => (0x2, xyz x.val m.val 0 + b h 51 + p.val * 2 ^ 45 + g.val * 2 ^ 39)
    | .uadd x y i => (0x3, xyz x.val y.val 0 + i.toNat)
    | .ulc k y => (0x4, k.val * 2 ^ 56 + y.val * 2 ^ 52)
    | .ubr c k y t => (0x5, c.val * 2 ^ 56 + k.val * 2 ^ 54 + y.val * 2 ^ 51 + t.val)
    | .ufeed sl y z q t ind w => (0x6, xyz sl.val y.val z.val + q.val * 2 ^ 47 + t.val * 2 ^ 43 + b ind 42 + w.val * 2 ^ 39)
    | .upass x y z nm fan set nort ind w =>
      (0x7, xyz x.val y.val z.val + nm.val * 2 ^ 43 + fan.val * 2 ^ 41 + b set 40 + b nort 39 + b ind 38 + w.val * 2 ^ 35)
    | .uzero x y => (0x8, xyz x.val y.val 0)
    | .uout x y z t bnd ind w => (0x9, xyz x.val y.val z.val + t.val * 2 ^ 45 + b bnd 44 + b ind 43 + w.val * 2 ^ 40)
    | .uwin y => (0xA, xyz 0 y.val 0)
    | .uspl y => (0xB, xyz 0 y.val 0)
    | .ucal x y z => (0xC, xyz x.val y.val z.val)
    | .ustat x i => (0xD, x.val * 2 ^ 55 + i.toNat)
  BitVec.ofNat 64 (op * 2 ^ 60 + b last 59 + b cons 58 + v)

/-! ## The encoder -/

/-- An encoded slot: the word without its stop bit, and the 9-bit extension a header lends it. -/
structure EncWord where
  word : Nat
  ext : Nat
deriving DecidableEq, Repr

/-- Format R. -/
def encR (maj d a b op md : Nat) : EncWord :=
  { word := maj * 2 ^ 25 + d % 32 * 2 ^ 20 + a % 32 * 2 ^ 15 + b % 32 * 2 ^ 10 + op * 16 + md,
    ext := d / 32 * 128 + a / 32 * 32 + b / 32 * 8 }
/-- Format R4. -/
def encR4 (d a b c op : Nat) : EncWord :=
  { word := 0x12 * 2 ^ 25 + d % 32 * 2 ^ 20 + a % 32 * 2 ^ 15 + b % 32 * 2 ^ 10 + c % 32 * 32 + op,
    ext := d / 32 * 128 + a / 32 * 32 + b / 32 * 8 + c / 32 * 2 }
/-- Formats I and B. -/
def encI (maj d a f3 : Nat) (imm : BitVec 17) : EncWord :=
  { word := maj * 2 ^ 25 + d % 32 * 2 ^ 20 + a % 32 * 2 ^ 15 + f3 * 4096 + imm.toNat % 4096,
    ext := d / 32 * 128 + a / 32 * 32 + imm.toNat / 4096 }
/-- Format I with a raw 12-bit field. -/
def encI12 (maj d a f3 imm : Nat) : EncWord :=
  { word := maj * 2 ^ 25 + d % 32 * 2 ^ 20 + a % 32 * 2 ^ 15 + f3 * 4096 + imm, ext := d / 32 * 128 + a / 32 * 32 }
/-- Format U. -/
def encU (maj d : Nat) (imm : BitVec 27) : EncWord :=
  { word := maj * 2 ^ 25 + d % 32 * 2 ^ 20 + imm.toNat % 2 ^ 20, ext := d / 32 * 128 + imm.toNat / 2 ^ 20 }
/-- Format J. -/
def encJ (l : Nat) (imm : BitVec 33) : EncWord :=
  { word := 0x08 * 2 ^ 25 + l * 2 ^ 24 + imm.toNat % 2 ^ 24, ext := imm.toNat / 2 ^ 24 }
/-- Format C. -/
def encC (i p n r d : Nat) : EncWord :=
  { word := 0x17 * 2 ^ 25 + i * 2 ^ 17 + p * 2 ^ 13 + n * 2 ^ 11 + r * 2 ^ 10 + d % 32 * 32, ext := d / 32 * 256 }
/-- Format R of a `loop`. -/
def encLoop (d k : Nat) : EncWord :=
  { word := 0x09 * 2 ^ 25 + d % 32 * 2 ^ 20 + k * 2 ^ 10 + 2 * 16, ext := d / 32 * 128 }

/-- The slot word and extension of an instruction that stands in a slot; the device's own steps and the micro-operations
have none. -/
def encode : Instr → Option EncWord
  | .add d a b => some (encR 2 d a b 0 0)
  | .sub d a b => some (encR 2 d a b 1 0)
  | .mul d a b => some (encR 2 d a b 2 0)
  | .mulh d a b u => some (encR 2 d a b 3 (bit u))
  | .div d a b u => some (encR 2 d a b 4 (bit u))
  | .rem d a b u => some (encR 2 d a b 5 (bit u))
  | .slt d a b u => some (encR 2 d a b 13 (bit u))
  | .min d a b u => some (encR 2 d a b 14 (bit u))
  | .max d a b u => some (encR 2 d a b 15 (bit u))
  | .adds d a b u => some (encR 2 d a b 16 (bit u))
  | .subs d a b u => some (encR 2 d a b 17 (bit u))
  | .and d a b => some (encR 2 d a b 6 0)
  | .or d a b => some (encR 2 d a b 7 0)
  | .xor d a b => some (encR 2 d a b 8 0)
  | .andn d a b => some (encR 2 d a b 9 0)
  | .sll d a b => some (encR 2 d a b 10 0)
  | .srl d a b => some (encR 2 d a b 11 0)
  | .sra d a b => some (encR 2 d a b 12 0)
  | .clz d a => some (encR 2 d a 0 18 0)
  | .ctz d a => some (encR 2 d a 0 18 1)
  | .popc d a => some (encR 2 d a 0 18 2)
  | .shadd d a b k => some (encR 2 d a b 19 k)
  | .addi d a i => some (encI 3 d a 0 i)
  | .andi d a i => some (encI 3 d a 1 i)
  | .ori d a i => some (encI 3 d a 2 i)
  | .xori d a i => some (encI 3 d a 3 i)
  | .slti d a i => some (encI 3 d a 4 i)
  | .sltiu d a i => some (encI 3 d a 5 i)
  | .muli d a i => some (encI 3 d a 6 i)
  | .seqi d a i => some (encI 3 d a 7 i)
  | .lui d i => some (encU 4 d i)
  | .adrb d i => some (encU 5 d i)
  | .slli d a n => some (encI12 6 d a 0 n)
  | .srli d a n => some (encI12 6 d a 1 n)
  | .srai d a n => some (encI12 6 d a 2 n)
  | .bfx d a l n => some (encI12 6 d a 3 (l * 64 + n))
  | .beq a b i => some (encI 7 a b 0 i)
  | .bne a b i => some (encI 7 a b 1 i)
  | .blt a b i => some (encI 7 a b 2 i)
  | .bge a b i => some (encI 7 a b 3 i)
  | .bltu a b i => some (encI 7 a b 4 i)
  | .bgeu a b i => some (encI 7 a b 5 i)
  | .br i => some (encJ 0 i)
  | .call i => some (encJ 1 i)
  | .jr a => some (encR 9 0 a 0 0 0)
  | .callr d a c => some (encR 9 d a 0 1 c)
  | .loop d i => some (encLoop d i)
  | .ret a => some (encR 9 0 a 0 3 0)
  | .kand d a b => some (encR 10 d a b 0 0)
  | .kor d a b => some (encR 10 d a b 1 0)
  | .kxor d a b => some (encR 10 d a b 2 0)
  | .kandn d a b => some (encR 10 d a b 3 0)
  | .kset d a => some (encR 10 d a 0 4 0)
  | .kcnt d a => some (encR 10 d a 0 5 0)
  | .kfind d a => some (encR 10 d a 0 5 1)
  | .rdc d n => some (encI12 11 d 0 0 n.toNat)
  | .wrc a n => some (encI12 11 0 a 1 n.toNat)
  | .setc d a n => some (encI12 11 d a 2 n.toNat)
  | .clrc d a n => some (encI12 11 d a 3 n.toNat)
  | .xchc d a n => some (encI12 11 d a 4 n.toNat)
  | .addc d a n => some (encI12 11 d a 5 n.toNat)
  | .rdcz d n => some (encI12 11 d 0 6 n.toNat)
  | .rdcr d a => some (encI12 11 d a 7 0)
  | .writeCVl a => some (encI12 11 0 a 1 0x10)
  | .writeCPri a => some (encI12 11 0 a 1 0x11)
  | .tlbinvPage a b z => some (encR 12 0 a b 0 (4 * z))
  | .tlbinvCtx b => some (encR 12 0 0 b 0 1)
  | .tlbinvAll => some (encR 12 0 0 0 0 2)
  | .rgsyncWb a b => some (encR 12 0 a b 1 0)
  | .rgsyncFill a b => some (encR 12 0 a b 1 1)
  | .rgsyncEvict a b => some (encR 12 0 a b 1 2)
  | .rgsyncDiscard a b => some (encR 12 0 a b 1 3)
  | .phase d => some (encR 13 d 0 0 0 0)
  | .phaseC d => some (encR 13 d 0 0 0 1)
  | .phreq => some (encR 13 0 0 0 1 0)
  | .phleft d => some (encR 13 d 0 0 2 0)
  | .phuntil d a => some (encR 13 d a 0 3 0)
  | .spawn a => some (encR 14 0 a 0 0 0)
  | .spawnt a b => some (encR 14 0 a b 1 0)
  | .join d a => some (encR 14 d a 0 2 0)
  | .grow d a => some (encR 14 d a 0 3 0)
  | .park => some (encR 14 0 0 0 4 0)
  | .tend => some (encR 14 0 0 0 5 0)
  | .tendj a => some (encR 14 0 a 0 6 0)
  | .launch d a b => some (encR 14 d a b 7 0)
  | .trap n => some (encR 15 0 0 0 0 n)
  | .rett => some (encR 15 0 0 0 1 0)
  | .ctxsw => some (encR 15 0 0 0 2 0)
  | .ctxswRel => some (encR 15 0 0 0 2 1)
  | .ckpt a => some (encR 15 0 a 0 3 0)
  | .fqwait d => some (encR 15 d 0 0 4 0)
  | .fqpop d a b => some (encR 15 d a b 5 0)
  | .ctxkill a => some (encR 15 0 a 0 6 0)
  | .ctxrel a => some (encR 15 0 a 0 7 0)
  | .vadd d a b t => some (encR 16 d a b 0 t)
  | .vadds d a b t => some (encR 16 d a b 1 t)
  | .vsub d a b t => some (encR 16 d a b 2 t)
  | .vsubs d a b t => some (encR 16 d a b 3 t)
  | .vmul d a b t => some (encR 16 d a b 4 t)
  | .vmulh d a b t => some (encR 16 d a b 5 t)
  | .vmin d a b t => some (encR 16 d a b 6 t)
  | .vmax d a b t => some (encR 16 d a b 7 t)
  | .vand d a b t => some (encR 16 d a b 8 t)
  | .vor d a b t => some (encR 16 d a b 9 t)
  | .vxor d a b t => some (encR 16 d a b 10 t)
  | .vsll d a b t => some (encR 16 d a b 11 t)
  | .vsr d a b t => some (encR 16 d a b 12 t)
  | .vcmp c k a b t => some (encR 16 (c * 8 + k) a b 13 t)
  | .vsplat d a t => some (encR 16 d a 0 14 t)
  | .vmvs d a b t => some (encR 16 d a b 15 t)
  | .vfadd d a b t r => some (encR 17 d a b 0 (t * 4 + r))
  | .vfsub d a b t r => some (encR 17 d a b 1 (t * 4 + r))
  | .vfmul d a b t r => some (encR 17 d a b 2 (t * 4 + r))
  | .vfdiv d a b t r => some (encR 17 d a b 3 (t * 4 + r))
  | .vfscl d a b t r => some (encR 17 d a b 12 (t * 4 + r))
  | .vfsqrt d a k t r => some (encR 17 d a k 4 (t * 4 + r))
  | .vfrsqrt d a k t r => some (encR 17 d a k 5 (t * 4 + r))
  | .vfmin d a b t => some (encR 17 d a b 6 (t * 4))
  | .vfmax d a b t => some (encR 17 d a b 7 (t * 4))
  | .vfsgnj d a b t => some (encR 17 d a b 13 (t * 4))
  | .vfabs d a k t => some (encR 17 d a k 8 (t * 4))
  | .vfneg d a k t => some (encR 17 d a k 9 (t * 4))
  | .vfcmp c k a b t => some (encR 17 (c * 8 + k) a b 10 (t * 4))
  | .vfsplat d a t r => some (encR 17 d a 0 11 (t * 4 + r))
  | .vfmaF32 d a b c => some (encR4 d a b c 0)
  | .vfnmaF32 d a b c => some (encR4 d a b c 1)
  | .vfmaBf16 d a b c => some (encR4 d a b c 2)
  | .vfmaF16 d a b c => some (encR4 d a b c 3)
  | .vfmawBf16 d a b c => some (encR4 d a b c 4)
  | .vsel d a b w k => some (encR4 d a b (w * 8 + k) 5)
  | .vcvt d a s t => some (encR 19 d a s 0 t)
  | .vbmax d a f t => some (encR 19 d a f 1 (t * 4))
  | .vqnt d a f t o => some (encR 19 d a f 2 (t * 4 + o))
  | .vdqnt d a t => some (encR 19 d a 0 3 t)
  | .vhad d a t g => some (encR 19 d a 0 4 (t * 4 + g))
  | .vfrnd d a k t r => some (encR 19 d a k 5 (t * 4 + r))
  | .vbhdr d a => some (encR 19 d a 0 6 0)
  | .vfexp2 d a k t r => some (encR 19 d a k 7 (t * 4 + r))
  | .vperm d a b t => some (encR 20 d a b 0 t)
  | .vslideup d a b t => some (encR 20 d a b 1 t)
  | .vslidedn d a b t => some (encR 20 d a b 2 t)
  | .vred d a o k t => some (encR 20 d a (o * 8 + k) 3 t)
  | .vscan d a o k t => some (encR 20 d a (o * 8 + k) 4 t)
  | .vidx d t => some (encR 20 d 0 0 5 t)
  | .tdef d a => some (encR 21 d a 0 0 0)
  | .tzero d => some (encR 21 d 0 0 1 0)
  | .ttrn d a => some (encR 21 d a 0 2 0)
  | .tcvt d a => some (encR 21 d a 0 3 0)
  | .tgetr d a b => some (encR 21 d a b 4 0)
  | .tputr d a b => some (encR 21 d a b 5 0)
  | .mgset a => some (encR 22 0 a 0 0 0)
  | .mgoff d a => some (encR 22 d a 0 1 0)
  | .mgget d a => some (encR 22 d a 0 2 0)
  | .mggetN d => some (encR 22 d 0 0 2 1)
  | .mgarm => some (encR 22 0 0 0 3 0)
  | .mgdrop => some (encR 22 0 0 0 3 1)
  | .mcall i p w d => some (encC i p w 0 d)
  | .mcallRty i p w d => some (encC i p w 1 d)
  | .mmodeS a => some (encR 24 0 a 0 0 0)
  | .mmodeC a => some (encR 24 0 a 0 0 1)
  | .mmodeRd d => some (encR 24 d 0 0 0 2)
  | .mcal a => some (encR 24 0 a 0 1 0)
  | .mcalRd d a => some (encR 24 d a 0 1 1)
  | .mdescRd d a => some (encR 24 d a 0 2 0)
  | .mdescWr a b => some (encR 24 0 a b 2 1)
  | .mpw d a => some (encR 24 d a 0 3 0)
  | .mpr d a => some (encR 24 d a 0 3 1)
  | .mucw a b => some (encR 24 0 a b 4 0)
  | .mucr d a => some (encR 24 d a 0 4 1)
  | .mstat d a => some (encR 24 d a 0 5 0)
  | .mstatClip d a b => some (encR 24 d a b 5 1)
  | .mcwait a => some (encR 24 0 a 0 6 0)
  | .mcwaitAll => some (encR 24 0 0 0 6 1)
  | .mdrainA d a => some (encR 24 d a 0 7 0)
  | .mdrainB d a => some (encR 24 d a 0 7 1)
  | .mdrainU d => some (encR 24 d 0 0 7 2)
  | .mrestA d a => some (encR 24 d a 0 8 0)
  | .mrestB d a => some (encR 24 d a 0 8 1)
  | .mrestU d => some (encR 24 d 0 0 8 2)
  | .mzero a => some (encR 24 0 a 0 9 0)
  | .mtacc d a b => some (encR 24 d a b 10 0)
  | .ldScalar d a i => some (encI 25 d a 0 i)
  | .stScalar d a i => some (encI 25 d a 1 i)
  | .ldVector d a i => some (encI 25 d a 2 i)
  | .stVector d a i => some (encI 25 d a 3 i)
  | .ldw d a i => some (encI 25 d a 4 i)
  | .stw d a i => some (encI 25 d a 5 i)
  | .ldrec d a i => some (encI 25 d a 6 i)
  | .strec d a i => some (encI 25 d a 7 i)
  | .ldScalarX d a x f => some (encR 26 d a x 0 f)
  | .stScalarX d a x f => some (encR 26 d a x 1 f)
  | .ldVectorX d a x f => some (encR 26 d a x 2 f)
  | .stVectorX d a x f => some (encR 26 d a x 3 f)
  | .ldwX d a x f => some (encR 26 d a x 4 f)
  | .stwX d a x f => some (encR 26 d a x 5 f)
  | .ldg d a x k => some (encR 26 d a x 6 k)
  | .stg d a x k => some (encR 26 d a x 7 k)
  | .ldf d a i => some (encI 27 d a 0 i)
  | .ldfp d a i => some (encI 27 d a 1 i)
  | .stf d a i => some (encI 27 d a 2 i)
  | .tagrd d a i => some (encI 27 d a 3 i)
  | .stfx d a i => some (encI 27 d a 7 i)
  | .tagwF d a => some (encI12 27 d a 4 1)
  | .tagwE d a => some (encI12 27 d a 4 0)
  | .racqW d n => some (encI12 27 d 0 5 n)
  | .racqR d n => some (encI12 27 d 0 5 (16 + n))
  | .rrelW n => some (encI12 27 0 0 6 n)
  | .rrelR n => some (encI12 27 0 0 6 (16 + n))
  | .cpy d a b e => some (encR 28 d a b 0 (8 * bit e))
  | .cpyg d e => some (encR 28 d 0 0 1 (8 * bit e))
  | .cpyc e => some (encR 28 0 0 0 2 (8 * bit e))
  | .cpyr e o => some (encR 28 0 0 0 3 (8 * bit e + o))
  | .cpys a b e z => some (encR 28 0 a b 4 (8 * bit e + z))
  | .ctabw a b => some (encR 28 0 a b 5 0)
  | .ctabc => some (encR 28 0 0 0 6 0)
  | .recw d a w => some (encR 28 d a 0 7 w)
  | .recr d a w => some (encR 28 d a 0 8 w)
  | .cpyxStat d e => some (encR 28 d 0 0 9 (2 * bit e))
  | .cpyxResume a b => some (encR 28 0 a b 9 4)
  | .cpyxAbort a => some (encR 28 0 a 0 9 8)
  | .xfer d a b e z => some (encR 29 d a b 0 (8 * bit e + z))
  | .xredAdd d a b t => some (encR 29 d a b 1 t)
  | .xredMax d a b t => some (encR 29 d a b 2 t)
  | .xredMin d a b t => some (encR 29 d a b 3 t)
  | .xsig a b e z => some (encR 29 0 a b 4 (8 * bit e + z))
  | .aadd d a b w z => some (encR 30 d a b 0 (8 * bit w + z))
  | .aand d a b w z => some (encR 30 d a b 1 (8 * bit w + z))
  | .aor d a b w z => some (encR 30 d a b 2 (8 * bit w + z))
  | .axch d a b w z => some (encR 30 d a b 3 (8 * bit w + z))
  | .amax d a b w z => some (encR 30 d a b 4 (8 * bit w + z))
  | .amin d a b w z => some (encR 30 d a b 5 (8 * bit w + z))
  | .acas d a b w z => some (encR 30 d a b 6 (8 * bit w + z))
  | .ald d a w z => some (encR 30 d a 0 7 (8 * bit w + z))
  | .binit a => some (encR 31 0 a 0 0 0)
  | .bexp a b => some (encR 31 0 a b 1 0)
  | .barv d a b z => some (encR 31 d a b 2 z)
  | .bwait a => some (encR 31 0 a 0 3 0)
  | .bwaitPh a b => some (encR 31 0 a b 3 1)
  | .mwaitGe d a b z => some (encR 31 d a b 4 z)
  | .mwaitNe d a b z => some (encR 31 d a b 4 (8 + z))
  | .drain z => some (encR 31 0 0 0 5 z)
  | .drainE z => some (encR 31 0 0 0 5 (8 + z))
  | .fence z => some (encR 31 0 0 0 6 z)
  | .ast a b w z => some (encR 31 0 a b 7 (8 * bit w + z))
  | .teth d a => some (encR 32 d a 0 0 0)
  | .tethown d a => some (encR 32 d a 0 1 0)
  | .unteth a => some (encR 32 0 a 0 2 0)
  | .untethO a => some (encR 32 0 a 0 2 1)
  | .untethA => some (encR 32 0 0 0 2 2)
  | .lkacq d a z => some (encR 32 d a 0 3 z)
  | .lkacqTry d a z => some (encR 32 d a 0 3 (8 + z))
  | .lkrel a z => some (encR 32 0 a 0 4 z)
  | .nop => some ({ word := 0x02000000, ext := 0 })
  | _ => none

/-- The slot class of an instruction word (R36). -/
def EncWord.cls (e : EncWord) : Option SlotClass := majorClass (bits e.word 25 6)

/-- The lowest slot an instruction of the word's class may stand in under a header (R36, R44). -/
def EncWord.home (e : EncWord) : Nat :=
  match e.cls with
  | some .v => 2
  | some .m => 3
  | _ => 1

/-! ## The table word -/

/-- The slot in which the one-instruction bundle of the opcode table's word places it. -/
def tableSlot (w : Nat) : Nat :=
  match majorClass (bits w 25 6) with
  | some .v => 2
  | some .m => 3
  | _ => 0

/-- A bundle without a header that holds one slot word in its class's slot and NOPs elsewhere. -/
def tableBundle (w : Nat) : BitVec 128 :=
  let nop := 0x02000000
  let at_ (k : Nat) : Nat := if tableSlot w = k then bits w 0 32 else nop
  BitVec.ofNat 128 (at_ 0 + 2 ^ 32 * at_ 1 + 2 ^ 64 * at_ 2 + 2 ^ 96 * at_ 3)

/-- The instruction the decoder reads from the opcode-table word `w`: the word stands in its class's slot of a bundle
without a header, in the little-endian order of R35, and the bundle is decoded. -/
def decodeTableWord (nbits w : Nat) : Option Instr :=
  if nbits ≤ 32 then
    match decodeBundle (tableBundle w) with
    | .ok l => (l.find? (fun s => s.slot == tableSlot w)).map (·.instr)
    | .error _ => none
  else none

end Sys2Proof
end

