-- ==== Sys2Proof/Machine/State.lean ====
section
/-!
DEFINITION. The state of the device as plain data: tasks in their banks, cores with their engines, loft, scoreboard and
matrix unit, and the parts of the device that belong to no core. Also the reasons a step can stop, and the state at reset.
-/
namespace Sys2Proof.Machine

/-- Bytes held sparsely: addresses strictly rising, no entry equal to what an unlisted address reads as. -/
abbrev Mem := List Host.Cell

/-! ## Commands, packets and asynchronous operations -/

/-- What a command is (R120, R303, R307): the copy commands of `cpyg`, the register and signal commands, and the map unit's
own one-granule commands and loft-image copies. -/
inductive CmdKind where
  | copy | xfer | signal | fill | writeBack | fetch | remote | stamp | image
deriving DecidableEq, Repr, Inhabited

/-- How far a command has come (R107, R121). -/
inductive CmdStatus where
  | building | committed | active | faulted
deriving DecidableEq, Repr, Inhabited

/-- A weight on its way to a macro (R105): of a block or i8 element with its exponent, an element of a ZERO block or an i8 fill, or FILL
read as FP32. -/
inductive Weight where
  | coded (v e : Int)
  | plain (v : Int)
  | fill
deriving DecidableEq, Repr, Inhabited

/-- Where a conversion unit begins, with what decodes and weight loads carry into it, and the tagged words, by core, that the unit emptied. -/
structure UnitPos where
  pos : Nat
  skip : Nat
  rowElems : Nat
  prevCount : Nat
  weights : List Weight
  hand : Option (List Byte) := none
  tags : List (CoreId × Nat) := []
deriving DecidableEq, Repr, Inhabited

/-- A command with its records, settings and progress (R119). `uid` is the model's own name for it, `age` its place in commit order; `pos` is the next
conversion unit, in a decode from element `skip` of its block on; `srcSlot` and `dstSlot` are ring slots it holds (R113); `rowElems`, `prevCount` and `weights` carry a decode or a
weight load from one unit to the next (R101, R104); `inflight` counts packets of its last unit that have not performed, and
`owed` is the bytes of granules that are to be counted (R108), once that unit's packets have performed and the barrier may be reached (R398), `undo` the position it began at; `page` and `xfail` are the page it waits for
and how the walk failed (R80); `users` are other tasks whose accesses share a fill (R364). `hand` is the block that a decode has read and not
delivered whole; `farBytes` are those of the packets on their way (R480); `early` are the granules of a plain copy that performed before their turn,
each with its first unit, the next, and its bytes, and `ahead` one whose packets are on their way (R100); `imaged`: a command of the map unit that goes on as
its image says (R132), and `home` the granule for which a fetch, or the carrier of a remote access, was made. -/
structure Cmd where
  uid : Nat := 0
  age : Nat := 0
  kind : CmdKind := .copy
  status : CmdStatus := .building
  handle : BitVec 32 := 0
  ctx : BitVec 16 := 0
  tid : BitVec 16 := 0
  eng : Bool := false
  dst : BitVec 768 := 0
  src : BitVec 768 := 0
  dl : Bool := false
  sl : Bool := false
  red : Bool := false
  op : Fin 4 := 0
  scope : Fin 8 := 3
  link : Bool := false
  heldBy : List Nat := []
  codeBank : Bool := false
  barrier : W64 := 0
  stampAddr : W64 := 0
  stampVal : W64 := 0
  pos : Nat := 0
  skip : Nat := 0
  inflight : Nat := 0
  counted : Nat := 0
  cause : BitVec 8 := 0
  faultAddr : BitVec 56 := 0
  stampSent : Bool := false
  stamped : Bool := false
  srcSlot : Option Nat := none
  dstSlot : Option Nat := none
  rowElems : Nat := 0
  prevCount : Nat := 62
  weights : List Weight := []
  owed : List Nat := []
  undo : Option UnitPos := none
  page : Option Nat := none
  xfail : BitVec 8 := 0
  gran : Nat := 0
  job : Nat := 0
  users : List (BitVec 16) := []
  hand : Option (List Byte) := none
  farBytes : Nat := 0
  early : List (Nat × Nat × List Nat) := []
  ahead : Option (Nat × Nat × List Nat) := none
  home : Nat := 0
  imaged : Bool := false
deriving DecidableEq, Repr, Inhabited

/-- The operation a remote access of R383 performs at its home. -/
inductive SyncOp where
  | add | and | or | xch | max | min | cas | load | store | waitGe | waitNe | lock | lockTry | unlock | arrive | join
deriving DecidableEq, Repr, Inhabited

/-- A remote access in flight: the instruction's place, what it asks of the home, and its identifier, which a reissue keeps (R384); whether
it found room in the wait-for table (R393). `joint`: its group has another access to memory, with which it performs as one (R399); `posted`: a
store, for whose answer its task does not wait (R401); `early`: the request of a load whose group has yet to issue (R401). -/
structure Remote where
  uid : Nat
  pc : BitVec 56
  slot : Fin 4
  op : SyncOp
  addr : Nat
  wide : Bool
  arg : W64
  cmp : W64
  room : Bool := true
  joint : Bool := false
  posted : Bool := false
  early : Bool := false
deriving DecidableEq, Repr, Inhabited

/-- What a home answers (R312, R384): the result (with the record that a join read), a condition that does not hold with the word as it was
seen, a refusal of the step itself, or that a joint access is there and performs with its group. -/
inductive SyncReply where
  | done (v : W64) (bytes : List Byte)
  | retry (v : W64)
  | illegal
  | here
deriving DecidableEq, Repr, Inhabited

/-- One packet of the network, at most one granule (R299): the covered bytes, the contributions of a reduction by offset
(R310), or an access of R312. A row of a weight group carries the group's width and exponent, and its home performs the rows of the group
together (R105); `soils`: it sets its macro's DIRTY bit (R432). `eng`: the engine of the core that sent it; the map unit sends on engine 0's
path (R120). `beyond`: where the granule after it lies, for a contribution that reaches into it (R116). `riders`: merged adds, with core, identifier and what the adds before them add (R312). `resent`: a link's retransmission (R309). -/
structure Packet where
  uid : Nat
  seq : Nat
  core : CoreId
  eng : Bool := false
  ctx : BitVec 16
  tid : BitVec 16 := 0
  addr : Nat
  cells : Mem := []
  ids : List (CoreId × Nat × Nat) := []
  red : Bool := false
  op : Fin 4 := 0
  ty : Fin 16 := 0
  parts : List (Nat × Nat) := []
  beyond : Option Nat := none
  tags : Bool := false
  group : Option (Bool × Int) := none
  soils : Bool := false
  sync : Option Remote := none
  riders : List (CoreId × Nat × W64) := []
  resent : Bool := false
deriving DecidableEq, Repr, Inhabited

/-- A space of the range scoreboard (R143); `sums` are the accumulators and bounds, by their offsets in the core window. -/
inductive SbSpace where
  | loft | array | sums
deriving DecidableEq, Repr, Inhabited

/-- The operation that owns a scoreboard entry, or holds or awaits a ring slot or a tag; a task owns its ring claims alone. -/
inductive SbOwner where
  | cmd (uid : Nat)
  | call (tid : BitVec 16) (handle : BitVec 32)
  | replay (tid : BitVec 16) (serial : Nat)
  | sync (uid : Nat)
  | task (tid : BitVec 16)
deriving DecidableEq, Repr, Inhabited

/-- A scoreboard entry (R143, R144): granules `lo … hi`; list order is age order. -/
structure SbEntry where
  space : SbSpace
  lo : Nat
  hi : Nat
  write : Bool
  soft : Bool
  ctx : BitVec 16
  owner : SbOwner
deriving DecidableEq, Repr, Inhabited

/-- An `rgsync` in progress (R90), or, as a `sweep`, the write-backs that the start of an exchange asks for and that have yet to start
(R84): the granules still to do, how many granules' arrivals its barrier has yet to receive, and the command that does the first granule. -/
structure RgSync where
  uid : Nat
  ctx : BitVec 16
  tid : BitVec 16
  region : Fin 16
  form : Fin 4
  barrier : W64
  todo : List Nat
  owed : Nat := 0
  inflight : Option Nat := none
  sweep : Bool := false
deriving DecidableEq, Repr, Inhabited

/-! ## The matrix unit -/

/-- An input slot: activations, how many leading rows are driven, and group exponents (R266, R267). -/
structure USlot where
  acts : List Byte := []
  driven : Nat := 0
  exps : List Byte := []
deriving DecidableEq, Repr, Inhabited

/-- What a macro's output gives an element in a pass (R240 to R242): its value, and of its bound, per unit, the factor of the error e
and the exponent; `wild`: the bound is +∞ whatever happens later. -/
structure BoundFeed where
  mac : Nat
  out : Nat
  value : Nat
  units : List (Nat × Int)
  wild : Bool
deriving DecidableEq, Repr, Inhabited

/-- What a call has done to bounds: rows zeroed, or a pass into a row, with what feeds each element and whether its value makes the bound
+∞. -/
inductive BoundStep where
  | zero (row rows : Nat)
  | pass (set : Bool) (row col : Nat) (els : List (List (Option BoundFeed) × Bool))
deriving DecidableEq, Repr, Inhabited

/-- A matrix call: its snapshot at issue (R273) and, once started, its sequencer (R266): `pc` is 0 until it starts, and
`curSplit` and `curWin` are the split and window that later passes use; `word` is the
micro-word in progress, which leaves a micro-fault or a branch target behind. `clipped` are the outputs of macros that have
clipped (macro × 128 + output), the bit maps name the macros met unharmonised, stale and uncalibrated (R238, R239, R248); `serial` is its place
among the work of its core (R364). `trace` is what it has done to bounds and `bnd0` the bounds before, for a clip, a mismatch of exponents or a
lost calibration concerns the whole call. -/
structure Call where
  handle : BitVec 32 := 0
  ctx : BitVec 16 := 0
  tid : BitVec 16 := 0
  m : Vector W64 8 := Vector.replicate 8 0
  idx : Fin 256 := 0
  split : Nat := 0
  win : Nat := 0
  curSplit : Nat := 0
  curWin : Nat := 0
  rty : Bool := false
  modes : BitVec 64 := 0
  tdim : Vector W64 16 := Vector.replicate 16 0
  consumed : Bool := false
  pc : Nat := 0
  count : Nat := 0
  a : Vector (BitVec 32) 8 := Vector.replicate 8 0
  lc : Vector (BitVec 32) 4 := Vector.replicate 4 0
  x : Vector USlot 8 := Vector.replicate 8 {}
  word : Option MicroOp := none
  fault : Option (Fin 64) := none
  nextPc : Option Nat := none
  clipped : List Nat := []
  unharm : BitVec 64 := 0
  stale : BitVec 64 := 0
  uncal : BitVec 64 := 0
  serial : Nat := 0
  bnd0 : Option Mem := none
  trace : List BoundStep := []
deriving DecidableEq, Repr, Inhabited

/-- The status word and clip map of a handle (R275). -/
structure CallStatus where
  handle : BitVec 32 := 0
  status : W64 := 0
  clip : BitVec 512 := 0
deriving DecidableEq, Repr, Inhabited

/-- An `mtacc` in progress (R279): the members still to apply, as (member index, core), and whether it has written a bound of +∞. -/
structure MtAcc where
  serial : Nat := 0
  handle : BitVec 32
  ctx : BitVec 16
  tid : BitVec 16
  first : Nat
  last : Nat
  todo : List (Nat × CoreId)
  inf : Bool := false
deriving DecidableEq, Repr, Inhabited

/-- One macro: mode, dirty bit, descriptor and calibration state (R233, R244, R251, R432); `parity` marks the rows whose parity
mismatch persists (R494). -/
structure MacroSt where
  compute : Bool := false
  dirty : Bool := false
  desc : BitVec 128 := 0
  uncal : Bool := true
  stale : Bool := false
  busy : Bool := false
  fail : Bool := false
  age : Nat := 0
  tcal : BitVec 16 := 0
  pend : Bool := false
  parity : BitVec 256 := 0
deriving DecidableEq, Repr, Inhabited

/-- The matrix unit of a core (R262 to R264). -/
structure MatUnit where
  owner : Option (BitVec 16) := none
  acc : Mem := []
  bnd : Mem := []
  array : Mem := []
  offs : Mem := []
  ucode : Mem := []
  macros : Vector MacroSt 64 := Vector.replicate 64 {}
  running : Option Call := none
  lastBank : Fin 4 := 3
  frozen : Bool := false
  mtaccs : List MtAcc := []
deriving DecidableEq, Repr, Inhabited

/-! ## Tasks -/

/-- The owner of a wait edge (R368, R373): unknown, a task, or a command or call with the task that issued it; the map unit's
own commands have no issuer. -/
inductive WfOwner where
  | unknown
  | task (tid : BitVec 16)
  | cmd (handle : BitVec 32) (issuer : Option (BitVec 16))
deriving DecidableEq, Repr, Inhabited

/-- The register files of a bank (R6, R97, R218, R223, R285). -/
structure Regs where
  s : Vector W64 64 := Vector.replicate 64 0
  v : Mem := []
  k : Vector (BitVec 16384) 8 := Vector.replicate 8 0
  b : Vector (BitVec 256) 16 := Vector.replicate 16 0
  l : Vector (BitVec 768) 8 := Vector.replicate 8 0
  m : Vector W64 8 := Vector.replicate 8 0
  o : Vector W64 8 := Vector.replicate 8 0
  nest : W64 := 0
  tdim : Vector W64 16 := Vector.replicate 16 0
deriving DecidableEq, Repr, Inhabited

/-- Task control registers (R178, R194, R283, R316, R420). -/
structure Ctl where
  vl : BitVec 15 := 4096
  base : Fin 8 := 0
  eff : Fin 8 := 0
  vflags : BitVec 4 := 0
  vcsr : BitVec 2 := 0
  mflags : W64 := 0
  lasth : BitVec 32 := 0
  arr : Bool := false
  strg : Bool := false
  trn : Bool := false
  tgt : W64 := 0
  cause : W64 := 0
  tpc : W64 := 0
  tinfo : W64 := 0
  tbun0 : W64 := 0
  tbun1 : W64 := 0
  bkpt : W64 := 0
deriving DecidableEq, Repr, Inhabited

/-- A wait that an instruction meets: the object and the owner that its rule names (R370, R373); one without an edge is a
hold for which the spec names no edge (R82); `slot` is the instruction that waits. -/
structure Wait where
  okind : BitVec 5
  obj : BitVec 48
  owner : WfOwner := .unknown
  edge : Bool := true
  slot : Fin 4 := 0
deriving DecidableEq, Repr, Inhabited

/-- A trap as it is to be entered (R417, R421, R422): class, detail, offending slot, information, return point. -/
structure Trap where
  cls : BitVec 8
  detail : BitVec 8 := 0
  slot : Fin 4 := 0
  info : W64 := 0
  retPc : BitVec 56 := 0
  retSlot : Fin 4 := 0
deriving DecidableEq, Repr, Inhabited

/-- An armed replay (R226, R228): snapshot, next unread row, and its name on the scoreboard. -/
structure Replay where
  nest : W64
  o : Vector W64 8
  row : Nat
  serial : Nat
deriving DecidableEq, Repr, Inhabited

/-- What one engine holds for one bank (R106, R107, R303). -/
structure EngSlot where
  active : Option Cmd := none
  staged : Option Cmd := none
  regs : List Cmd := []
  flags : BitVec 6 := 0
deriving DecidableEq, Repr, Inhabited

/-- Why and how a task does not issue (R317, R329, R332, R424, R429). -/
inductive Hold where
  | none | heldOver | handler | switched | unhandled
deriving DecidableEq, Repr, Inhabited

/-- A task with everything its bank holds. `remote` are the remote accesses of its group, `inner` those of its trap handler's (R384),
`granted` the lock word handed over to its waiting `lkacq` (R393), `cut` says that its
transfers are cancelled because it was held over (R330, R332), `wrapped` that its handles have begun anew, `late` are the statuses of calls that have yet to complete and are no longer among
the 16 most recent handles (R275, R276), and `ahead` that it runs before the core's other tasks in this compute phase
(R333). `startPhase` is the phase with which it starts, or from which the device may switch it (R430), none once that has begun; `stuck`: it left unhandled
(R424) and comes back so; `thaws`: its unit leaves the frozen state when it next issues (R434). -/
structure Task where
  tid : BitVec 16
  ctx : BitVec 16
  job : Nat := 0
  ceil : Fin 8 := 7
  regs : Regs := {}
  ctl : Ctl := {}
  gcount : BitVec 24 := 0
  gidx : BitVec 24 := 0
  grid : Option (Fin 64) := none
  team : Nat := 0
  tsz : Fin 16 := 0
  member : Fin 16 := 0
  paddock : List CoreId := []
  mx : Bool := false
  pc : BitVec 56
  slot : Fin 4 := 0
  bundle : Option (BitVec 128) := none
  hold : Hold := .none
  cut : Bool := false
  ahead : Bool := false
  startPhase : Option W64 := none
  stuck : Bool := false
  thaws : Bool := false
  waiting : Option Wait := none
  untethered : Bool := false
  pendFreeze : Option Trap := none
  pendStrag : Option Trap := none
  pendDeadlock : Option (Bool × Trap) := none
  skipBkpt : Bool := false
  drainedU : Bool := false
  invalidating : List Nat := []
  image : Nat := 0
  replays : List Replay := []
  calls : List Call := []
  wrapped : Bool := false
  stats : List CallStatus := []
  late : List CallStatus := []
  engines : Vector EngSlot 2 := Vector.replicate 2 {}
  claims : List (Fin 16 × Bool × Nat) := []
  remote : List Remote := []
  inner : List Remote := []
  granted : Option Nat := none
deriving DecidableEq, Repr

/-! ## Cores -/

/-- A claim on a ring, in claim order (R142): who holds slot `slot`, and whether it is done. -/
structure Claim where
  write : Bool
  slot : Nat
  owner : SbOwner
  done : Bool
deriving DecidableEq, Repr, Inhabited

/-- A ring (R140, R142). -/
structure Ring where
  desc : W64 := 0
  rdnxt : Nat := 0
  wrnxt : Nat := 0
  filled : Nat := 0
  free : Nat := 0
  claims : List Claim := []
deriving DecidableEq, Repr, Inhabited

/-- What a core holds for one context (R134, R178, R346, R480). `absent` marks the non-resident granules and `dirty` the dirty
ones, by granule index. -/
structure CoreCtx where
  ctx : BitVec 16
  sup : Bool := false
  asn : BitVec 8 := 0
  ceil : Fin 8 := 0
  lbaseu : Nat := 0
  lsize : Nat := 0
  rgva : Vector W64 16 := Vector.replicate 16 0
  rgloc : Vector W64 16 := Vector.replicate 16 0
  absent : Mem := []
  dirty : Mem := []
  rings : Vector Ring 16 := Vector.replicate 16 {}
  code : Mem := []
  codeBank : Bool := false
  sbudget : W64 := 0
  wfcfg : W64 := 0
  wfdl : W64 := 0
  unteth : BitVec 32 := 0
  deep : BitVec 32 := 0
  tvec : W64 := 0
  fqcfg : W64 := 0
  ckpt : W64 := 0
  ckph : W64 := 0
  vtime : Nat := 0
  meters : Vector Nat 8 := Vector.replicate 8 0
  residue : Nat := 0
  folded : Vector Nat 8 := Vector.replicate 8 0
deriving DecidableEq, Repr

/-- A step that waits on a ring or on a tagged word; list order is the order in which the waits began (R138, R142). `dir` is the
direction of the claim, or the tag value awaited; `inner`: a trap handler's group waits. -/
structure Waiter where
  ctx : BitVec 16
  ring : Bool
  obj : Nat
  dir : Bool
  owner : SbOwner
  inner : Bool := false
deriving DecidableEq, Repr, Inhabited

/-- A record in a lane (R340, R343): its four words, task pointer, when it entered, and whether a steal brought it, to be placed
here when the next compute phase starts (R354). -/
structure QRec where
  code : W64
  frame : W64
  join : W64
  flags : W64
  tp : W64
  entered : Nat := 0
  stolen : Bool := false
deriving DecidableEq, Repr, Inhabited

/-- What a save slot holds (R433) beside its bytes, which begin at `base` in DRAM: a spilled task but for the registers that the bytes
hold, the context's state when the partition was freed, whether the device saved the unit's accumulators and bounds, and what a release
saved of the macros. A slot of a flip with release holds the macro part alone. -/
structure Saved where
  base : Nat
  ctx : BitVec 16
  tid : BitVec 16
  bank : Fin 4
  task : Option Task
  cctx : Option CoreCtx
  entries : List SbEntry
  unitState : Bool
  released : Bool
  macros : Vector MacroSt 64
deriving DecidableEq, Repr

/-- A translation held by a TLB (R80). -/
structure TlbEntry where
  asn : BitVec 8
  sz : Fin 4
  vpn : Nat
  frame : Nat
  w : Bool
deriving DecidableEq, Repr, Inhabited

/-- One core. `running`: it runs the task of its live bank, which it leaves for no other (R348); `yield`: that task has parked (R363); `opening`: it has had no turn yet in a compute phase that has begun (R434); `ended`: what tasks that ended have left in their banks, which a new task finds zero (R342). -/
structure Core where
  avail : Bool := false
  live : BitVec 32 := 0
  pend : BitVec 32 := 0
  corrected : Vector Nat 32 := Vector.replicate 32 0
  nsave : Fin 64 := 0
  cbank : Fin 4 := 0
  running : Bool := false
  yield : Bool := false
  banks : Vector (Option Task) 4 := Vector.replicate 4 none
  ctxs : List CoreCtx := []
  loft : Mem := []
  tags : Mem := []
  sb : List SbEntry := []
  syncs : List RgSync := []
  waitq : List Waiter := []
  seq : Vector (BitVec 23) 2 := Vector.replicate 2 1
  mapSeq : BitVec 23 := 1
  mapCmds : List Cmd := []
  mx : MatUnit := {}
  tnow : BitVec 16 := 0
  tlb : List TlbEntry := []
  lanes : Vector (List QRec) 8 := Vector.replicate 8 []
  qlog : Fin 16 := 0
  qbase : BitVec 34 := 0
  stealX : BitVec 16 := 0
  steals : Nat := 0
  stealing : Option CoreId := none
  saved : List Saved := []
  ended : Vector (Option Task) 4 := Vector.replicate 4 none
  opening : Bool := false
deriving DecidableEq, Repr

/-! ## The device -/

/-- An entry of the wait-for table (R368); list order is insertion order. `inner`: a trap handler's group registered it. -/
structure WfEntry where
  idx : Fin 4096
  record : Bool
  expl : Bool
  okind : BitVec 5
  obj : BitVec 48
  tid : BitVec 16
  ctx : BitVec 16
  core : CoreId
  owner : WfOwner
  since : Nat := 0
  inner : Bool := false
deriving DecidableEq, Repr, Inhabited

/-- A job (R353). -/
structure Job where
  addr : W64
  stamp : W64
  scope : Fin 8
  core : CoreId
  ctx : BitVec 16
  done : Bool := false
deriving DecidableEq, Repr, Inhabited

/-- A grid (R352): its record, counts, and the core whose dispatcher took it; list order is age order. -/
structure Grid where
  rcd : QRec
  ctx : BitVec 16
  job : Nat
  count : BitVec 24
  next : Nat
  running : Nat
  core : CoreId
deriving DecidableEq, Repr, Inhabited

/-- A team record that waits for cores on a die (R351). -/
structure Reserve where
  rcd : QRec
  core : CoreId
  cores : List CoreId
  grid : Option (Fin 64)
  gidx : BitVec 24
deriving DecidableEq, Repr, Inhabited

/-- The fault queue of a context (R427): ring head and count, records lost, how many `fqwait` returned, origin dies. -/
structure FaultQ where
  ctx : BitVec 16
  head : Nat := 0
  lost : BitVec 32 := 0
  dies : List (Bool × Bool × Nat) := []
deriving DecidableEq, Repr, Inhabited

/-- A `tlbinv` that has been issued and is not complete (R89): its name, and its address space, none when it names all. -/
structure Invalidation where
  uid : Nat
  asn : Option (BitVec 8)
deriving DecidableEq, Repr, Inhabited

/-- A walk in progress (R80): the die, the request, and the commands that wait for it. -/
structure Walk where
  die : Bool
  asn : BitVec 8
  vpage : Nat
  core : CoreId
  ctx : BitVec 16
deriving DecidableEq, Repr, Inhabited

/-- What a port keeps for a queue pair beside its entry in DRAM (R456, R461 to R463): the producer count that a doorbell last gave, if one has, the
next receive slot, how many congestion notices halve its rate, and of the request it has taken whether a READ has gone out (`asked`), the bytes done (`pos`),
how it ends (`taken`: 0 once it waits for the remote side alone), and the sequence number of its last frame. -/
structure Qp where
  producer : Option (BitVec 32) := none
  recv : Nat := 0
  halved : Nat := 0
  asked : Bool := false
  pos : Nat := 0
  taken : Option (BitVec 8) := none
  last : Option (BitVec 16) := none
deriving DecidableEq, Repr, Inhabited

/-- What a remote side asks of a port (R459, R460, R463, R465); `reduce` carries op and type. -/
inductive HostOp where
  | write | read | send | launch
  | reduce (opa : Fin 256)
deriving DecidableEq, Repr, Inhabited

/-- The identifier of a reducing granule of a peer (R465): source module, pair, ring index of the request, granule. -/
structure PeerId where
  smod : BitVec 16
  q : Fin 4096
  ring : Nat
  granule : Nat
deriving DecidableEq, Repr, Inhabited

/-- A request that a port holds (R459, R460): port 0 or 1, or 2 + the number of a scale-up port; `ring` is a peer's place of the
request in its own ring. -/
structure HostReq where
  port : Nat
  q : Fin 4096
  op : HostOp
  addr : W64
  len : Nat
  data : List Byte := []
  psn : BitVec 24 := 0
  smod : BitVec 16 := 0
  ring : Nat := 0
deriving DecidableEq, Repr, Inhabited

/-- A scale-up link (R464, R465). -/
structure Link where
  sendSeq : BitVec 16 := 0
  expect : BitVec 16 := 0
  replay : List (BitVec 16 × List Byte) := []
  fails : Nat := 0
  down : Bool := false
deriving DecidableEq, Repr, Inhabited

/-- A monitor record (R487). -/
structure Monitor where
  least : W64 := BitVec.allOnes 64
  most : W64 := 0
  count : W64 := 0
  bins : Vector (BitVec 32) 32 := Vector.replicate 32 0
deriving DecidableEq, Repr, Inhabited

/-- The on-package flash (R489 to R492). -/
structure Flash where
  image : Mem := []
  length : Nat := 0
  staged : Mem := []
  retired : List (CoreId × Fin 32) := []
  fails : Nat := 0
  starts : Nat := 0
deriving DecidableEq, Repr, Inhabited

/-- The management port (R466, R467). -/
structure Mgmt where
  key : List Byte := []
  lastSeq : BitVec 32 := 0
  lastTag : List Byte := []
  lastReply : List Byte := []
  accepted : Bool := false
  refused : BitVec 32 := 0
  modno : BitVec 16 := 0
  qpbase : BitVec 40 := 0
  report : Mem := []
deriving DecidableEq, Repr, Inhabited

/-- Whether the device runs (R489, R491): not started, running, stopped by a failed start, or in minimal mode. -/
inductive Power where
  | off | running | failed | minimal
deriving DecidableEq, Repr, Inhabited

/-- A part of a request that the device originates (R461, R465): OP, OPA, remote address and R_Key, its ring index, the packet's PSN of a host pair, and
the bytes: of a READ the length asked for. -/
structure SentReq where
  op : Nat
  opa : Nat := 0
  addr : W64
  key : BitVec 32 := 0
  ring : Nat := 0
  psn : BitVec 24 := 0
  bytes : List Byte
deriving DecidableEq, Repr, Inhabited

/-- What the ports have sent: a management datagram, an answer to a remote side, a request to it, or a frame. -/
inductive Sent where
  | datagram (bytes : List Byte)
  | ack (q : Nat)
  | nak (q : Nat) (code : Nat)
  | readData (q : Nat) (bytes : List Byte)
  | cnp (q : Nat)
  | request (q : Nat) (r : SentReq)
  | frame (port : Nat) (bytes : List Byte)
  | log (ctx : BitVec 16)
deriving DecidableEq, Repr, Inhabited

/-- The parts of the device that belong to no core. `truncated`: the current compute phase has been truncated (R332, R367). `cancelled` are the contexts whose exchange budget has expired in the current
exchange (R331). `victims` are the records for which a truncation was requested, `promised` those for which tasks then leave (R350). -/
structure Device where
  power : Power := .off
  phase : W64 := 0
  now : Nat := 0
  phaseStart : Nat := 0
  trunc : Bool := false
  truncated : Bool := false
  cancelled : List (BitVec 16) := []
  ptbase : BitVec 40 := 0
  ptlog : BitVec 5 := 0
  usedPtbase : BitVec 40 := 0
  usedPtlog : BitVec 5 := 0
  ctxtab : BitVec 40 := 0
  acl : BitVec 40 := 0
  lrejCause : BitVec 8 := 0
  lrejCount : BitVec 32 := 0
  wfsel : BitVec 12 := 0
  dram : Mem := []
  wf : List WfEntry := []
  jobs : List (Nat × Job) := []
  grids : List (Fin 64 × Grid) := []
  reserving : List (Bool × Reserve) := []
  victims : List (CoreId × QRec) := []
  promised : List (CoreId × QRec) := []
  faultqs : List FaultQ := []
  fqSerial : Nat := 0
  tlb2 : List (Bool × TlbEntry) := []
  walks : List Walk := []
  invs : List Invalidation := []
  wfHeld : List (BitVec 16 × BitVec 16) := []
  net : List Packet := []
  applied : List (Bool × Nat × Nat) := []
  peerApplied : List (Bool × PeerId) := []
  kept : List (Nat × SyncReply) := []
  qps : List (Fin 4096 × Qp) := []
  held : List HostReq := []
  links : Vector Link 12 := Vector.replicate 12 {}
  mgmt : Mgmt := {}
  flash : Flash := {}
  overPower : Bool := false
  monitors : Vector Monitor 8 := Vector.replicate 8 {}
  log : List (BitVec 16) := []
deriving DecidableEq, Repr

/-- What the instruction just performed asks of the issue unit: go on, transfer, resume at a slot, wait, or stop because a
trap was entered or the task has left the issue unit. -/
inductive Flow where
  | next
  | jump (target : BitVec 56)
  | resume (pc : BitVec 56) (slot : Fin 4)
  | trapped (c : Trap)
  | waiting (w : Wait)
  | ended
deriving DecidableEq, Repr, Inhabited

/-- The machine. `cores` and `dev` are the spec's state; the other fields are the model's own: whose turn it is, the core
and the slot that the instruction being performed belongs to, whether its group has several accesses to memory, what it asked of the issue unit, what a device step concerns,
the counter of free values, the core cycles that the present turn takes, the counter that names commands, and what the ports have sent. -/
structure State where
  cores : Vector Core 128
  dev : Device
  turns : List Turn
  cur : CoreId
  slot : Fin 4
  joint : Bool := false
  flow : Flow
  on : Subject
  free : Nat
  cyc : Nat := 0
  serial : Nat
  outbox : List Sent
deriving DecidableEq, Repr

/-- Why the machine stops. Both reasons are the model's own guard, raised by a meaning that is asked to act where the
machine never acts; both are safe. -/
inductive Fault where
  /-- An instruction of a slot was given to a core whose live bank holds no task; the issue unit never does so. Raised by
  `issue`. Safe. -/
  | noTask
  /-- A micro-operation was given to a matrix unit that runs no call, or another micro-operation; the sequencer never does
  so. Raised by `micro`. Safe. -/
  | noMicroWord
deriving DecidableEq, Repr

/-- Why an instruction has no meaning. -/
inductive Refusal where
  /-- The dispatcher has no meaning for the instruction yet. Raised by `exec` alone. Safe. -/
  | notModelled (mnemonic : String)
deriving DecidableEq, Repr

/-- The machine right after reset: unpowered registers at the values the spec states, or that the assumption log names, memory
with nothing listed, and start-up (R489) next. -/
def State.reset : State :=
  { cores := Vector.replicate 128 {}, dev := {}, turns := [.event .powerOn {}], cur := 0, slot := 0, flow := .next,
    on := {}, free := 0, serial := 1, outbox := [] }

end Sys2Proof.Machine
end

