-- ==== Sys2Proof/Machine/Mem.lean ====
section
/-!
DEFINITION. Sparse byte memory in canonical form, and little-endian numbers in it (R12). An unlisted byte reads zero: the
loft and the register files by the spec (R342, R346), DRAM by log entry 2.
-/
namespace Sys2Proof.Machine

/-- The little-endian number of a list of bytes (R12). -/
def leNat : List Byte → Nat
  | [] => 0
  | b :: bs => b.toNat + 256 * leNat bs

/-- The `n` low bytes of a number, least significant first. -/
def leBytes : Nat → Nat → List Byte
  | 0, _ => []
  | n + 1, v => BitVec.ofNat 8 v :: leBytes n (v / 256)

/-- The byte at an address. -/
def Mem.get (m : Mem) (a : Nat) : Byte := (m.lookup a).getD 0

/-- The entries of a run of bytes from `a`: those that differ from an unlisted byte. -/
def Mem.cells : Nat → List Byte → Mem
  | _, [] => []
  | a, b :: bs => if b = 0 then Mem.cells (a + 1) bs else (a, b) :: Mem.cells (a + 1) bs

/-- `n` bytes from `a`. -/
def Mem.read (m : Mem) (a n : Nat) : List Byte := (List.range n).map fun i => m.get (a + i)

/-- Store a run of bytes at `a`. -/
def Mem.write (m : Mem) (a : Nat) (bs : List Byte) : Mem :=
  m.filter (fun c => c.1 < a) ++ Mem.cells a bs ++ m.filter (fun c => a + bs.length ≤ c.1)

/-- Zero `n` bytes from `a`. -/
def Mem.zero (m : Mem) (a n : Nat) : Mem := m.filter fun c => c.1 < a || a + n ≤ c.1

/-- The little-endian number of `n` bytes at `a`. -/
def Mem.num (m : Mem) (a n : Nat) : Nat := leNat (m.read a n)

/-- Store the low `n` bytes of a number at `a`. -/
def Mem.setNum (m : Mem) (a n v : Nat) : Mem := m.write a (leBytes n v)

/-- Store each of a list of single bytes. -/
def Mem.put (m : Mem) : List (Nat × Byte) → Mem
  | [] => m
  | (a, b) :: cs => Mem.put (m.write a [b]) cs

/-- The bytes in which a memory differs from an earlier one. -/
def Mem.changes (old new : Mem) : List (Nat × Byte) :=
  (new.filter fun c => old.get c.1 != c.2) ++ ((old.filter fun c => new.get c.1 == 0).map fun c => (c.1, 0))

/-- The part of a memory in `a … a + n − 1`, moved to begin at 0. -/
def Mem.slice (m : Mem) (a n : Nat) : Mem :=
  (m.filter fun c => a ≤ c.1 && c.1 < a + n).map fun c => (c.1 - a, c.2)

/-- Replace `a … a + n − 1` by a slice that begins at 0. -/
def Mem.splice (m : Mem) (a n : Nat) (p : Mem) : Mem :=
  m.filter (fun c => c.1 < a) ++ ((p.filter fun c => c.1 < n).map fun c => (c.1 + a, c.2)) ++
    m.filter (fun c => a + n ≤ c.1)

/-- Every address of the memory exceeds `lo`, strictly rising, and no entry is zero. -/
def Mem.wfFrom : Option Nat → Mem → Bool
  | _, [] => true
  | lo, (a, b) :: m => (match lo with | none => true | some l => decide (l < a)) && b != 0 && Mem.wfFrom (some a) m

/-- The canonical form: addresses strictly rising, no entry equal to what an unlisted address reads as. -/
def Mem.wf (m : Mem) : Bool := Mem.wfFrom none m

end Sys2Proof.Machine
end

