-- ==== Sys2Proof/Machine/Ops.lean ====
section
/-!
DEFINITION. The named operations over registers, tasks, contexts and physical addresses; fault records; registering a wait;
taking a trap and returning from one; and `issue`, through which every instruction of a slot acts on its task.
-/
namespace Sys2Proof.Machine

/-! ## Cores, contexts and tasks -/

/-- Core `n`. -/
def State.core (s : State) (n : CoreId) : Core := s.cores[n]

/-- Core `n` replaced. -/
def State.setCore (s : State) (n : CoreId) (c : Core) : State := { s with cores := s.cores.set n c }

/-- Core `n` changed by `f`. -/
def State.modCore (s : State) (n : CoreId) (f : Core → Core) : State := s.setCore n (f (s.core n))

/-- The device changed by `f`. -/
def State.modDev (s : State) (f : Device → Device) : State := { s with dev := f s.dev }

/-- The task in bank `b` of core `n`. -/
def State.bank (s : State) (n : CoreId) (b : Fin 4) : Option Task := (s.core n).banks[b]

/-- Bank `b` of core `n` replaced. -/
def State.setBank (s : State) (n : CoreId) (b : Fin 4) (t : Option Task) : State :=
  s.modCore n fun c => { c with banks := c.banks.set b t }

/-- Bank `b` of core `n` changed, when it holds a task. -/
def State.modBank (s : State) (n : CoreId) (b : Fin 4) (f : Task → Task) : State :=
  s.modCore n fun c => { c with banks := c.banks.set b (c.banks[b].map f) }

/-- The task of the live bank of the current core (R67). -/
def State.live (s : State) : Option Task := s.bank s.cur (s.core s.cur).cbank

/-- The live task replaced. -/
def State.setLive (s : State) (t : Task) : State := s.setBank s.cur (s.core s.cur).cbank (some t)

/-- The live task changed. -/
def State.modLive (s : State) (f : Task → Task) : State := s.modBank s.cur (s.core s.cur).cbank f

/-- The four banks. -/
def allBanks : List (Fin 4) := [0, 1, 2, 3]

/-- Every core number. -/
def allCores : List CoreId := List.finRange 128

/-- The die of a core (R1). -/
def dieOf (n : CoreId) : Bool := 64 ≤ n.val

/-- The resident tasks of a core, with their banks. -/
def Core.tasks (c : Core) : List (Fin 4 × Task) :=
  allBanks.filterMap fun b => (c.banks[b]).map fun t => (b, t)

/-- Every resident task with its core and bank. -/
def State.tasks (s : State) : List (CoreId × Fin 4 × Task) :=
  allCores.flatMap fun n => (s.core n).tasks.map fun p => (n, p.1, p.2)

/-- Where the resident task of a TID stands. -/
def State.findTask (s : State) (tid : BitVec 16) : Option (CoreId × Fin 4 × Task) :=
  s.tasks.find? fun p => p.2.2.tid == tid

/-- What core `c` holds for a context. -/
def Core.cctx (c : Core) (x : BitVec 16) : Option CoreCtx := c.ctxs.find? (·.ctx == x)

/-- A context's part of a core changed. -/
def Core.modCtx (c : Core) (x : BitVec 16) (f : CoreCtx → CoreCtx) : Core :=
  { c with ctxs := c.ctxs.map fun k => if k.ctx == x then f k else k }

/-- A context that a core does not hold: nothing is mapped, no attribute is set. -/
def CoreCtx.missing (x : BitVec 16) : CoreCtx := { ctx := x }

/-- What the current core holds for the task's context. -/
def State.cctx (s : State) (t : Task) : CoreCtx := ((s.core s.cur).cctx t.ctx).getD (.missing t.ctx)

/-- The current core's part of the task's context changed. -/
def State.modCctx (s : State) (t : Task) (f : CoreCtx → CoreCtx) : State :=
  s.modCore s.cur fun c => c.modCtx t.ctx f

/-- The context has a task resident on the core. -/
def Core.hosts (c : Core) (x : BitVec 16) : Bool := c.tasks.any fun p => p.2.ctx == x

/-- A fresh name for a command. -/
def State.fresh (s : State) : Nat × State := (s.serial, { s with serial := s.serial + 1 })

/-- A choice below `n` that the spec does not fix (log entry 4). -/
def State.choose (s : State) (n : Nat) : Nat × State :=
  (Config.pick s.free % (Max.max n 1), { s with free := s.free + 1 })

/-! ## Registers (R6, R161, R175, R191) -/

/-- A scalar register; s0 reads zero. -/
def Task.getS (t : Task) (r : SReg) : W64 := if r = 0 then 0 else t.regs.s[r]

/-- A scalar register written; writes to s0 are discarded. -/
def Task.setS (t : Task) (r : SReg) (v : W64) : Task :=
  if r = 0 then t else { t with regs := { t.regs with s := t.regs.s.set r v } }

/-- A mask register; k0 reads all ones. -/
def Task.getK (t : Task) (r : KReg) : BitVec 16384 := if r = 0 then BitVec.allOnes 16384 else t.regs.k[r]

/-- A mask register written; writes to k0 are discarded. -/
def Task.setK (t : Task) (r : KReg) (v : BitVec 16384) : Task :=
  if r = 0 then t else { t with regs := { t.regs with k := t.regs.k.set r v } }

/-- Element `j` of width `w` bytes of a vector register (R69, R191). -/
def Task.getV (t : Task) (r : VReg) (w j : Nat) : Nat := t.regs.v.num (r.val * 0x4000 + j * w) w

/-- The bytes of a vector register from its first byte on, replaced. -/
def Task.setVBytes (t : Task) (r : VReg) (bs : List Byte) : Task :=
  { t with regs := { t.regs with v := t.regs.v.write (r.val * 0x4000) bs } }

/-- The first `n` bytes of a vector register. -/
def Task.getVBytes (t : Task) (r : VReg) (n : Nat) : List Byte := t.regs.v.read (r.val * 0x4000) n

/-- One element of a vector register written. -/
def Task.setV (t : Task) (r : VReg) (w j v : Nat) : Task :=
  { t with regs := { t.regs with v := t.regs.v.setNum (r.val * 0x4000 + j * w) w v } }

/-- A record register (R97): a buffer record widened with zeros, or a layout record. -/
def Task.getRec (t : Task) (r : RecReg) : BitVec 768 :=
  if h : r.val < 16 then (t.regs.b[r.val]'h).setWidth 768
  else t.regs.l[r.val - 16]'(by have := r.isLt; omega)

/-- A record register written. -/
def Task.setRec (t : Task) (r : RecReg) (v : BitVec 768) : Task :=
  if h : r.val < 16 then { t with regs := { t.regs with b := t.regs.b.set r.val (v.setWidth 256) h } }
  else { t with regs := { t.regs with l := t.regs.l.set (r.val - 16) v (by have := r.isLt; omega) } }

/-! ## The physical map (R8, R59, R69) -/

/-- What a physical address names. -/
inductive Place where
  | dram (core : CoreId) (off : Nat)
  | window (core : CoreId) (off : Nat)
  | reserved
deriving DecidableEq, Repr, Inhabited

/-- The base of core `n`'s window. -/
def windowBase (n : CoreId) : Nat := 0x00F000000000 + n.val * 0x04000000

/-- The base of core `n`'s slice. -/
def sliceBase (n : CoreId) : Nat := n.val * 0x60000000

/-- The place of a physical address. -/
def placeOf (pa : Nat) : Place :=
  if pa < 0x003000000000 then .dram (Fin.ofNat 128 (pa / 0x60000000)) (pa % 0x60000000)
  else if 0x00F000000000 ≤ pa ∧ pa < 0x00F200000000 then
    .window (Fin.ofNat 128 ((pa - 0x00F000000000) / 0x04000000)) ((pa - 0x00F000000000) % 0x04000000)
  else .reserved

/-- The set bits of a 32-bit map. -/
def popcount32 (b : BitVec 32) : Nat := ((List.range 32).filter fun i => b.getLsbD i).length

/-- The live capacity of a slice (R64). -/
def Core.capacity (c : Core) : Nat := popcount32 c.live * 0x03000000

/-- Where a DRAM byte lies (R64): its bank, its row there, and its byte offset within the bank. -/
structure BankPlace where
  bank : Nat
  row : Nat
  within : Nat
deriving DecidableEq, Repr, Inhabited

/-- The live banks of a slice, in ascending order. -/
def Core.liveBanks (c : Core) : List Nat := (List.range 32).filter fun i => c.live.getLsbD i

/-- The place of a slice offset (R64): addresses interleave by 256 bytes over the live banks; none in the retired range. -/
def Core.bankPlace (c : Core) (o : Nat) : Option BankPlace :=
  let l := c.liveBanks.length
  if l * 0x03000000 ≤ o then none
  else some { bank := c.liveBanks.getD (o / 256 % l) 0, row := o / 256 / l, within := o / 256 / l * 256 + o % 256 }

/-- Base address of save slot `i` of a core (R68). -/
def Core.slotBase (c : Core) (n : CoreId) (i : Nat) : Nat := sliceBase n + c.capacity - (c.nsave.val - i) * 0x800000

/-- The save slots of a core that hold nothing, by number. -/
def Core.slotsFree (c : Core) (n : CoreId) : List Nat :=
  (List.range c.nsave.val).filter fun i => !c.saved.any (·.base == c.slotBase n i)

/-- A save slot is free beside those that tasks about to leave the core will take (R68, R350). -/
def Core.slotSpare (c : Core) (n : CoreId) : Bool :=
  (c.tasks.filter fun p => p.2.hold == .handler || p.2.pendFreeze.isSome).length < (c.slotsFree n).length

/-- A DRAM address lies in a retired range (R64). -/
def State.retired (s : State) (pa : Nat) : Bool :=
  match placeOf pa with
  | .dram n off => (s.core n).capacity ≤ off
  | _ => false

/-- The core that holds an address in its slice or window. -/
def homeOf (pa : Nat) : Option CoreId :=
  match placeOf pa with
  | .dram n _ => some n
  | .window n _ => some n
  | .reserved => none

/-- Eight bytes of DRAM as a word. -/
def State.dramW (s : State) (pa : Nat) : W64 := w64 (s.dev.dram.num pa 8)

/-- DRAM bytes written. -/
def State.writeDram (s : State) (pa : Nat) (bs : List Byte) : State :=
  s.modDev fun d => { d with dram := d.dram.write pa bs }

/-- `a` before the first element that it comes before. -/
def insertBy {α : Type} (le : α → α → Bool) (a : α) : List α → List α
  | [] => [a]
  | b :: l => if le a b then a :: b :: l else b :: insertBy le a l

/-- A list in order; elements that `le` does not part keep the order they have. -/
def sortBy {α : Type} (le : α → α → Bool) (l : List α) : List α := l.foldr (insertBy le) []

/-! ## The context table (R338, R339) -/

/-- Word `w` of entry `i`. -/
def State.ctxWord (s : State) (i w : Nat) : W64 := s.dramW (s.dev.ctxtab.toNat + i * 64 + w * 8)

/-- Word 0 of an entry is well formed on its own. -/
def ctxWord0Ok (w : W64) : Bool :=
  w.fld 56 3 == 0 && w.fld 24 15 == 0 && 1 ≤ w.fld 40 8 && w.fld 40 8 ≤ 32

/-- The bits the chapters define of words 2 to 7 of an entry hold nothing else. -/
def State.ctxRestOk (s : State) (i : Nat) : Bool :=
  (s.ctxWord i 3).fld 13 50 == 0 && (s.ctxWord i 4).fld 0 4 == 0 && (s.ctxWord i 4).fld 56 7 == 0
    && (s.ctxWord i 5).fld 4 8 == 0 && (s.ctxWord i 5).fld 56 8 == 0 && (s.ctxWord i 6).fld 0 8 == 0
    && (s.ctxWord i 6).fld 40 24 == 0 && s.ctxWord i 7 == 0

/-- The entry of an active context: V = 1, well formed, and no other such entry shares its CTX or ASN. -/
def State.ctxEntry (s : State) (x : BitVec 16) : Option Nat :=
  let act := (List.range 256).filter fun i => (s.ctxWord i 0).getLsbD 63
  (act.find? fun i => (s.ctxWord i 0).fld 0 16 == x.toNat).bind fun i =>
    let w := s.ctxWord i 0
    if ctxWord0Ok w && s.ctxRestOk i && act.all (fun j => j == i ||
        ((s.ctxWord j 0).fld 0 16 != w.fld 0 16 && (s.ctxWord j 0).fld 16 8 != w.fld 16 8)) then some i else none

/-- Word `w` of a context's entry; zero without one. -/
def State.ctxField (s : State) (x : BitVec 16) (w : Nat) : W64 :=
  match s.ctxEntry x with
  | some i => s.ctxWord i w
  | none => 0

/-- What core `n` holds for a context; of one without a partition there, the attributes that its entry gives. -/
def State.ctxOn (s : State) (n : CoreId) (x : BitVec 16) : CoreCtx :=
  match (s.core n).cctx x with
  | some k => k
  | none =>
    { CoreCtx.missing x with sup := (s.ctxField x 0).getLsbD 62, asn := BitVec.ofNat 8 ((s.ctxField x 0).fld 16 8) }

/-! ## Address translation (R73 to R80) -/

/-- Shift of a page size code (R74). -/
def pageShift (sz : Fin 4) : Nat :=
  match sz with
  | 0 => 12 | 1 => 16 | 2 => 21 | 3 => 30

/-- The home bucket of R77. -/
def homeBucket (k asn sz vpn : Nat) : Nat :=
  let m := (vpn / 2 ^ 20 * 0x9E3779B1 + asn * 0x00053A1D + sz * 0x27D4EB2F) % 2 ^ 32
  (m ^^^ (vpn % 2 ^ 20)) % 2 ^ k

/-- What a lookup finds: an entry, nothing, or a bucket that lies in a retired range (R65, R75). -/
inductive Found where
  | entry (e : W64) (sz : Fin 4)
  | miss
  | retired
deriving DecidableEq, Repr, Inhabited

/-- The buckets of one page size, probe by probe (R77). A bucket beyond DRAM fails like one in a retired range, for which alone R75
names a cause (log entry 99). -/
def State.probe (s : State) (asn : BitVec 8) (sz : Fin 4) (vpn : Nat) : List Nat → Found
  | [] => .miss
  | p :: ps =>
    let k := s.dev.usedPtlog.toNat
    let line := s.dev.usedPtbase.toNat + (homeBucket k asn.toNat sz.val vpn + p) % 2 ^ k * 64
    if s.retired line || 0x003000000000 ≤ line then .retired
    else
      match ((List.range 8).map fun i => s.dramW (line + i * 8)).find? fun e =>
          e.getLsbD 63 && e.fld 61 2 == sz.val && e.fld 53 8 == asn.toNat && e.fld 29 24 == vpn / 2 ^ 20 && e.fld 1 2 == p with
      | some e => .entry e sz
      | none => s.probe asn sz vpn ps

/-- The page sizes from the largest (R77). -/
def State.lookupFrom (s : State) (asn : BitVec 8) (va : Nat) : List (Fin 4) → Found
  | [] => .miss
  | sz :: szs =>
    match s.probe asn sz (va / 2 ^ pageShift sz) [0, 1, 2, 3] with
    | .miss => s.lookupFrom asn va szs
    | f => f

/-- Lookup of R77. -/
def State.lookup (s : State) (asn : BitVec 8) (va : Nat) : Found := s.lookupFrom asn va [3, 2, 1, 0]

/-- The TLB entry of a page-table entry. -/
def tlbOf (e : W64) (sz : Fin 4) (asn : BitVec 8) (va : Nat) : TlbEntry :=
  { asn := asn, sz := sz, vpn := va / 2 ^ pageShift sz, frame := e.fld 3 26, w := e.getLsbD 0 }

/-- The entry covers the address. -/
def TlbEntry.covers (e : TlbEntry) (asn : BitVec 8) (va : Nat) : Bool :=
  e.asn == asn && e.vpn == va / 2 ^ pageShift e.sz

/-- Fault causes of R118. -/
abbrev Cause := BitVec 8

/-- The address a TLB entry gives, or the first failure of R78. -/
def State.pageAddr (s : State) (e : TlbEntry) (va : Nat) (write : Bool) : Except Cause Nat :=
  let size := 2 ^ pageShift e.sz
  let pa := e.frame * 4096 + va % size
  if e.frame * 4096 % size ≠ 0 then .error 0x08
  else if 0x003000000000 ≤ e.frame * 4096 then .error 0x09
  else if write && !e.w then .error 0x0A
  else if s.retired pa then .error 0x0B
  else .ok pa

/-- The core holds the translation of a code granule in its own TLB: its physical address. -/
def State.codeAt (s : State) (n : CoreId) (asn : BitVec 8) (va : Nat) : Option Nat :=
  if 0x00F000000000 ≤ va ∧ va < 0x00F200000000 then none
  else
    match (s.core n).tlb.find? (·.covers asn va) with
    | some e => (s.pageAddr e va false).toOption
    | none => none

/-- How a translation request ends: an address, a failure, or the need of a walk. -/
inductive Xlate where
  | pa (a : Nat)
  | fail (c : Cause)
  | walk
deriving DecidableEq, Repr, Inhabited

/-- A translation for core `n` in address space `asn`: windows untranslated, then the first-level and the second-level TLB
(R73, R80). -/
def State.translate (s : State) (n : CoreId) (asn : BitVec 8) (va : Nat) (write : Bool) : Xlate :=
  let va := va % 2 ^ 56
  if 0x00F000000000 ≤ va ∧ va < 0x00F200000000 then .pa va
  else
    match (s.core n).tlb.find? (·.covers asn va) with
    | some e => match s.pageAddr e va write with | .ok a => .pa a | .error c => .fail c
    | none =>
      match s.dev.tlb2.find? (fun p => p.1 == dieOf n && p.2.covers asn va) with
      | some e => match s.pageAddr e.2 va write with | .ok a => .pa a | .error c => .fail c
      | none => .walk

/-- A translation through the page table alone, for the agents that have no TLB of their own (ports, fault queues). -/
def State.translateDirect (s : State) (asn : BitVec 8) (va : Nat) (write : Bool) : Except Cause Nat :=
  let va := va % 2 ^ 56
  if 0x00F000000000 ≤ va ∧ va < 0x00F200000000 then .ok va
  else
    match s.lookup asn va with
    | .entry e sz => s.pageAddr (tlbOf e sz asn va) va write
    | .miss => .error 0x07
    | .retired => .error 0x0B

/-! ## Fault records (R426, R427) -/

/-- The fault queue of a context. -/
def Device.faultq (d : Device) (x : BitVec 16) : FaultQ := (d.faultqs.find? (·.ctx == x)).getD { ctx := x }

/-- The fault queue of a context replaced. -/
def Device.setFaultq (d : Device) (q : FaultQ) : Device :=
  { d with faultqs := q :: d.faultqs.filter (·.ctx != q.ctx) }

/-- Saturating increment of a 32-bit count. -/
def sat32 (n : BitVec 32) : BitVec 32 := if n = BitVec.allOnes 32 then n else n + 1

/-- The words of a fault record, as bytes. -/
def wordsBytes (ws : List W64) : List Byte := ws.flatMap fun w => leBytes 8 w.toNat

/-- `n` zero bytes. -/
def zeroBytes (n : Nat) : List Byte := List.replicate n 0

/-- Append a fault record of a context, from core `n`: written to the ring when it has room, else counted as lost. `fqcfg` is
that of the context on the core, or of its entry where the core holds none. -/
def State.report (s : State) (n : CoreId) (x : BitVec 16) (kind : Nat) (tid : BitVec 16) (tr : List W64)
    (image : List Byte) : State :=
  let cfg := match (s.core n).cctx x with | some c => c.fqcfg | none => s.ctxField x 5
  let asn := BitVec.ofNat 8 ((s.ctxField x 0).fld 16 8)
  let q := s.dev.faultq x
  let qlog := cfg.fld 0 4
  let lost := s.modDev fun d => d.setFaultq { q with lost := sat32 q.lost }
  if qlog < 3 ∨ 12 < qlog ∨ 2 ^ qlog ≤ q.dies.length then lost
  else
    let va := cfg.fld 12 44 * 4096 + (q.head + q.dies.length) % 2 ^ qlog * 512
    match s.translateDirect asn va true with
    | .ok pa =>
      let w0 := w64 (0x0001 * 2 ^ 48 + kind * 2 ^ 40 + n.val * 2 ^ 16 + tid.toNat)
      let w1 := w64 (x.toNat * 2 ^ 48 + s.dev.phase.toNat % 2 ^ 48)
      let bytes := wordsBytes [w0, w1] ++ (wordsBytes tr ++ zeroBytes 40).take 40 ++ zeroBytes 8
        ++ (image ++ zeroBytes 256).take 256 ++ zeroBytes 192
      (s.writeDram pa bytes).modDev fun d =>
        { d.setFaultq { q with dies := q.dies ++ [(dieOf n, false, d.fqSerial)] } with fqSerial := d.fqSerial + 1 }
    | .error _ => lost

/-! ## The wait-for table (R368 to R378) -/

/-- The handle's command belongs to this core (R120). -/
def handleCore (h : BitVec 32) : CoreId := Fin.ofNat 128 (h.toNat / 2 ^ 24 % 128)

/-- Every command a task holds. -/
def Task.cmds (t : Task) : List Cmd :=
  ([t.engines[0], t.engines[1]]).flatMap fun e => e.active.toList ++ e.staged.toList ++ e.regs

/-- The task an edge's owner resolves to: none for an unknown owner, a map-unit command, or the waiter's own work (R373). -/
def WfEntry.ownerTask (e : WfEntry) : Option (BitVec 16) :=
  match e.owner with
  | .unknown => none
  | .task t => some t
  | .cmd _ i => if i = some e.tid then none else i

/-- An engine's command is owned through its issuer; the map unit's commands have none (R373). -/
def Cmd.wfOwner (k : Cmd) : WfOwner :=
  match k.kind with
  | .copy | .xfer | .signal => .cmd k.handle (some k.tid)
  | _ => .cmd k.handle none

/-- Wait edges of a task, oldest first. -/
def Device.edgesOf (d : Device) (tid : BitVec 16) : List WfEntry := d.wf.filter fun e => !e.record && e.tid == tid

/-- The outcome of a search for a cycle (R375). -/
inductive Search where
  | none
  | cycle (path : List WfEntry)
  | deep
deriving DecidableEq, Repr, Inhabited

/-- The walk of R375 with its stack of pending edges made explicit; each step of `fuel` visits an edge or leaves a task. -/
def State.walkFrom (s : State) (w : BitVec 16) : Nat → Nat → List (List WfEntry × List WfEntry) → Search
  | 0, _, _ => .none
  | _ + 1, _, [] => .none
  | n + 1, v, (_, []) :: rest => s.walkFrom w n v rest
  | n + 1, v, (path, f :: fs) :: rest =>
    if 64 ≤ v then .deep
    else
      match f.ownerTask with
      | none => s.walkFrom w n (v + 1) ((path, fs) :: rest)
      | some u =>
        if u = w then .cycle (path ++ [f])
        else if (path.map (·.tid)).contains u then s.walkFrom w n (v + 1) ((path, fs) :: rest)
        else s.walkFrom w n (v + 1) ((path ++ [f], s.dev.edgesOf u) :: (path, fs) :: rest)

/-- Search(e) of R375, over the table without `e`. -/
def State.search (s : State) (e : WfEntry) : Search :=
  match e.ownerTask with
  | none => .none
  | some t => if t = e.tid then .cycle [e] else s.walkFrom e.tid 200 0 [([e], s.dev.edgesOf t)]

/-- Word 0 of an entry (R368); FRZ is the state of the task it names. -/
def State.wfWord0 (s : State) (e : WfEntry) : W64 :=
  let frz := match s.findTask e.tid with | some (_, _, t) => t.hold != .none | none => true
  let (ownk, owner) : Nat × Nat :=
    if e.record then (0, 0)
    else match e.owner with
      | .unknown => (0, 0)
      | .task t => (1, t.toNat)
      | .cmd h i =>
        match i.bind s.findTask with
        | some (_, _, t) => if t.cut && t.tid != e.tid then (1, t.tid.toNat) else (2, h.toNat)
        | none => (2, h.toNat)
  w64 (2 ^ 63 + bit e.record * 2 ^ 62 + bit e.expl * 2 ^ 61 + bit frz * 2 ^ 60 + e.okind.toNat * 2 ^ 55 + ownk * 2 ^ 53
    + e.tid.toNat * 2 ^ 32 + owner)

/-- Word 1 of an entry (R368). -/
def WfEntry.word1 (e : WfEntry) : W64 := w64 (e.ctx.toNat * 2 ^ 48 + e.obj.toNat)

/-- The table entries not in use. -/
def Device.wfFree (d : Device) : List (Fin 4096) :=
  (List.finRange 4096).filter fun i => !(d.wf.any fun e => e.idx == i)

/-- Entries that a context holds. -/
def Device.wfCount (d : Device) (x : BitVec 16) : Nat := (d.wf.filter (·.ctx == x)).length

/-- Free entries of the table that a task may take: those that no other task has reserved (R393). -/
def Device.wfOpen (d : Device) (tid : BitVec 16) : List (Fin 4096) := d.wfFree.drop (d.wfHeld.filter (·.1 != tid)).length

/-- Entries that a context holds or that its other tasks have reserved. -/
def Device.wfTaken (d : Device) (tid : BitVec 16) (x : BitVec 16) : Nat :=
  d.wfCount x + (d.wfHeld.filter fun h => h.1 != tid && h.2 == x).length

/-- A task's reservation is used or released. -/
def Device.unreserve (d : Device) (tid : BitVec 16) : Device := { d with wfHeld := d.wfHeld.filter (·.1 != tid) }

/-- WFMAX of a context (R379): 0 acts as 4096. -/
def CoreCtx.wfmax (c : CoreCtx) : Nat := if c.wfcfg.fld 0 13 = 0 then 4096 else c.wfcfg.fld 0 13

/-- `c.wfuse` for a context (R379). -/
def Device.wfuse (d : Device) (x : BitVec 16) : W64 := w64 (d.wf.length * 2 ^ 16 + d.wfCount x)

/-- Physical byte offset of the partition of a context in its core's loft (R134). -/
def CoreCtx.base (c : CoreCtx) : Nat := c.lbaseu * 0x18000

/-- P of R135. -/
def CoreCtx.psize (c : CoreCtx) : Nat := c.lsize * 0x18000

/-- The deadlock record of R376. -/
def State.deadlockRecord (s : State) (t : Task) (path : List WfEntry) : List Byte :=
  let n := path.length
  let w0 := w64 (0x0001 * 2 ^ 48 + n * 2 ^ 40 + s.dev.phase.toNat % 2 ^ 32)
  let w1 := w64 (t.ctx.toNat * 2 ^ 48 + t.tid.toNat * 2 ^ 32)
  let edge (p : WfEntry × Option (BitVec 16)) : List W64 :=
    let own := match p.2 with | some o => .task o | none => p.1.owner
    let f := s.wfWord0 { p.1 with owner := own }
    if p.1.ctx == t.ctx then [f, p.1.word1]
    else [w64 ((f.toNat / 2 ^ 53) * 2 ^ 53 + 2 ^ 52), 0]
  let owners := (path.drop 1).map (fun e => some e.tid) ++ [some t.tid]
  (wordsBytes ([w0, w1] ++ (path.zip owners).flatMap edge) ++ zeroBytes 1088).take 1088

/-- What a core holds of a context whose partition it has freed: the save slot that keeps it, and the context's state (R433). -/
def Core.spilledCtx (c : Core) (x : BitVec 16) : Option (Saved × CoreCtx) :=
  c.saved.findSome? fun v => if v.ctx == x then v.cctx.map fun k => (v, k) else none

/-- A context's part of a core changed, resident or saved. -/
def Core.modCtxAny (c : Core) (x : BitVec 16) (f : CoreCtx → CoreCtx) : Core :=
  { c.modCtx x f with saved := c.saved.map fun v => if v.ctx == x then { v with cctx := v.cctx.map f } else v }

/-- The deadlock record is written into the context's deadlock area, when it names one (R376, R379): in its partition, or in the loft part of
the slot that keeps it. -/
def State.writeDeadlock (s : State) (t : Task) (path : List WfEntry) : State × Bool :=
  let area (k : CoreCtx) : Nat := k.wfdl.fld 0 16 * 64
  let bs := s.deadlockRecord t path
  match (s.core s.cur).cctx t.ctx, (s.core s.cur).spilledCtx t.ctx with
  | some k, _ =>
    if k.wfdl.getLsbD 63 then (s.modCore s.cur fun c => { c with loft := c.loft.write (k.base + area k) bs }, true) else (s, false)
  | none, some (v, k) => if k.wfdl.getLsbD 63 then (s.writeDram (v.base + 0x380000 + area k) bs, true) else (s, false)
  | none, none => (s, false)

/-! ## Traps (R417 to R424) -/

/-- `c.cause` of a trap (R421). -/
def Trap.causeWord (c : Trap) (h : Bool) : W64 :=
  w64 (bit h * 2 ^ 63 + c.cls.toNat * 2 ^ 48 + c.detail.toNat * 2 ^ 40 + c.slot.val * 2 ^ 32)

/-- `c.tpc` of a return point (R420). -/
def Trap.tpcWord (c : Trap) : W64 := w64 (c.retPc.toNat / 16 * 16 + c.retSlot.val)

/-- The task is in its handler (H of `c.cause`). -/
def Task.inHandler (t : Task) : Bool := t.ctl.cause.getLsbD 63

/-- The bundle of a trap (R423): the one in hand; of a task that has none, as at a bundle boundary, the one at its program counter,
read where the core can translate it, and otherwise a free value (log entry 4). -/
def State.trapBundle (s : State) (t : Task) : BitVec 128 :=
  match t.bundle with
  | some b => b
  | none =>
    match s.codeAt s.cur (s.cctx t).asn t.pc.toNat with
    | some pa => BitVec.ofNat 128 (s.dev.dram.num pa 16)
    | none => BitVec.ofNat 128 (Config.value s.free)

/-- The two words of a bundle. -/
def bundleWords (b : BitVec 128) : W64 × W64 := (w64 b.toNat, w64 (b.toNat / 2 ^ 64))

/-- The task as trap entry leaves it (R423): trap registers, s60 to s62, and slot 0 of the handler's bundle. -/
def Task.enter (t : Task) (c : Trap) (vec : W64) (bun : BitVec 128) : Task :=
  let (b0, b1) := bundleWords bun
  let ctl := { t.ctl with cause := c.causeWord true, tpc := c.tpcWord, tinfo := c.info, tbun0 := b0, tbun1 := b1 }
  let t1 : Task :=
    { t with
      ctl := ctl, pc := BitVec.ofNat 56 (vec.fld 4 52 * 16), slot := 0, bundle := none, waiting := none, drainedU := false,
      skipBkpt := false }
  ((t1.setS 60 (c.causeWord true)).setS 61 c.tpcWord).setS 62 c.info

/-- Unhandled (R424): the task is frozen and a fault record of KIND 0x03 carries the trap not taken. -/
def State.unhandled (s : State) (t : Task) (c : Trap) : State :=
  let (b0, b1) := bundleWords (s.trapBundle t)
  (s.report s.cur t.ctx 0x03 t.tid [c.causeWord t.inHandler, c.tpcWord, c.info, b0, b1] []).modLive
    fun t => { t with hold := .unhandled }

/-- Remote accesses of tasks of core `n` are given up: their commands, their packets, and what their homes keep. -/
def State.forgetRequests (s : State) (n : CoreId) (rs : List Remote) : State :=
  let gone (u : Nat) : Bool := rs.any (·.uid == u)
  (s.modCore n fun c => { c with mapCmds := c.mapCmds.filter fun k => !(k.kind == .remote && gone k.uid) }).modDev fun d =>
    { d with net := d.net.filter (fun p => !(p.sync.isSome && gone p.uid)), kept := d.kept.filter fun q => !gone q.1 }

/-- The task without the requests of loads that it has asked for early. -/
def Task.straight (t : Task) : Task := { t with remote := t.remote.filter (!·.early), inner := t.inner.filter (!·.early) }

/-- The task gives up the loads that it has asked for early: it does not go on in a straight line (R401). -/
def State.dropEarly (s : State) (t : Task) : State × Task :=
  match (t.remote ++ t.inner).filter (·.early) with
  | [] => (s, t)
  | rs => ((s.forgetRequests s.cur rs).modLive fun t => t.straight, t.straight)

/-- Taking a trap (R423): the one operation through which every trap of the live task is entered. -/
def State.takeTrap (s : State) (t : Task) (c : Trap) : State :=
  let (s, t) := ({ s with flow := .trapped c } : State).dropEarly t
  let vec := (s.cctx t).tvec
  if t.inHandler && c.cls != 0x08 then s.unhandled t c
  else if !vec.getLsbD 63 then (if c.cls == 0x08 then s else s.unhandled t c)
  else if t.inHandler then s.setLive { t with pendFreeze := some c }
  else s.setLive (t.enter c vec (s.trapBundle t))

/-- The first slot of the issuing group that holds an instruction: the NOPs before it are none (R453; log entry 116). -/
def Task.groupSlot (t : Task) : Fin 4 :=
  match t.bundle.map decodeBundle with
  | some (.ok l) => ((groupAt l t.slot).find? fun p => p.instr != .nop).elim t.slot fun p => Fin.ofNat 4 p.slot
  | _ => t.slot

/-- A trap whose return point is the issuing group (R417), raised by the instruction in the current slot. -/
def State.trapHere (s : State) (t : Task) (cls detail : BitVec 8) (info : W64) : Trap :=
  { cls := cls, detail := detail, slot := s.slot, info := info, retPc := t.pc, retSlot := t.slot }

/-! ## Waiting -/

/-- A sample of a monitor (R487): minimum, maximum, count and bin, saturating. -/
def Monitor.sample (m : Monitor) (x : Nat) : Monitor :=
  let b := Nat.log2 x
  let i : Fin 32 := if h : b < 32 then ⟨b, h⟩ else 31
  { least := if x < m.least.toNat then w64 x else m.least, most := if m.most.toNat < x then w64 x else m.most,
    count := if m.count = BitVec.allOnes 64 then m.count else m.count + 1, bins := m.bins.set i (sat32 m.bins[i]) }

/-- The monitors of a die, in the order of R487. -/
def monitorIdx (die : Bool) (m : Fin 4) : Fin 8 := ⟨4 * bit die + m.val, by have := m.isLt; cases die <;> simp [bit] <;> omega⟩

/-- A sample lands in a monitor. -/
def Device.sample (d : Device) (die : Bool) (m : Fin 4) (x : Nat) : Device :=
  { d with monitors := d.monitors.set (monitorIdx die m) ((d.monitors[monitorIdx die m]).sample x) }

/-- Entries of the wait-for table are released: each wait edge among them gives its duration to the monitor of its core's die (R372,
R487). -/
def Device.release (d : Device) (p : WfEntry → Bool) : Device :=
  let edges := d.wf.filter fun e => p e && !e.record
  { edges.foldl (fun d e => d.sample (dieOf e.core) 1 (d.now - e.since)) d with wf := d.wf.filter fun e => !p e }

/-- The implicit wait edge of a task's group: a handler's groups have one of their own, beside that of the group that the trap
interrupted, which lasts while its wait does (R372, R423). -/
def WfEntry.implicitOf (e : WfEntry) (t : Task) : Bool := !e.record && !e.expl && e.tid == t.tid && e.inner == t.inHandler

/-- Deadlock: the edge is not in the table, the record is written, the waiter takes the trap (R376). -/
def State.deadlock (s : State) (t : Task) (path : List WfEntry) : State :=
  let s := s.modDev fun d => (d.unreserve t.tid).release (·.implicitOf t)
  let (s, wrote) := s.writeDeadlock t path
  s.takeTrap t { s.trapHere t 0x04 0 (w64b wrote) with retSlot := t.groupSlot }

/-- DEEP of the task's context counts an abandoned search (R375). -/
def State.countDeep (s : State) (t : Task) : State := s.modCctx t fun c => { c with deep := sat32 c.deep }

/-- An insertion that overflows, under POL (R377). -/
def State.overflow (s : State) (t : Task) (c : CoreCtx) (mark : Bool → State → State) : State :=
  if c.wfcfg.getLsbD 63 then
    mark true (if t.untethered then s else s.modCctx t fun c => { c with unteth := sat32 c.unteth })
  else s.takeTrap t (s.trapHere t 0x05 0 (s.dev.wfuse t.ctx))

/-- The implicit edge of the live task is released (R372). -/
def State.dropEdge (s : State) (t : Task) : State := s.modDev (·.release (·.implicitOf t))

/-- Register the wait of the live task (R371, R372, R375 to R377): rewrite its edge in place or insert one; a cycle raises the
deadlock trap, an overflow the tether-overflow trap or an untethered wait. The group stays unperformed. -/
def State.registerWait (s : State) (t : Task) (w : Wait) : State :=
  let s := { s with flow := .waiting w }
  let w := { w with slot := s.slot }
  let mark (u : Bool) (s : State) : State := s.modLive fun t => { t with waiting := some w, untethered := u }
  if !w.edge then mark false (s.dropEdge t)
  else
  match s.dev.wf.find? (·.implicitOf t) with
  | some old =>
    let e := { old with okind := w.okind, obj := w.obj, owner := w.owner }
    let s' := s.modDev fun d => { d with wf := d.wf.map fun x => if x.idx == old.idx then e else x }
    if old.owner = w.owner then mark false s'
    else
      match s'.search e with
      | .none => mark false s'
      | .deep => mark false (s'.countDeep t)
      | .cycle p => s.deadlock t p
  | none =>
    let c := s.cctx t
    match s.dev.wfOpen t.tid with
    | [] => s.overflow t c mark
    | i :: is =>
      if c.wfmax ≤ s.dev.wfTaken t.tid t.ctx then s.overflow t c mark
      else
        let (k, s) := s.choose (i :: is).length
        let e : WfEntry := { idx := (i :: is).getD k i, record := false, expl := false, okind := w.okind, obj := w.obj,
                             tid := t.tid, ctx := t.ctx, core := s.cur, owner := w.owner, since := s.dev.now, inner := t.inHandler }
        let s' := s.modDev fun d => { d.unreserve t.tid with wf := d.wf ++ [e] }
        match s.search e with
        | .none => mark false s'
        | .deep => mark false (s'.countDeep t)
        | .cycle p => s.deadlock t p

/-- When the wait ends the edge is released (R371); its duration is a sample of the wait monitor (R487) and counts for the
context's WAITC (R480). -/
def State.endWait (s : State) : State :=
  match s.live with
  | none => s
  | some t =>
    let s := s.modCore s.cur fun c => { c with waitq := c.waitq.filter fun w => !(w.owner == .task t.tid && w.inner == t.inHandler) }
    (s.dropEdge t).modLive fun t => { t with waiting := none, untethered := false }

/-! ## Issue -/

/-- What the instruction of a slot does: perform and go on, transfer, resume at a slot, leave the issue unit, perform and
enter a trap, raise a trap with its group unperformed, or wait with its group unperformed. -/
inductive Act where
  | ok (s : State)
  | jump (s : State) (target : BitVec 56)
  | resume (s : State) (pc : BitVec 56) (slot : Fin 4)
  | ended (s : State)
  | entered (s : State)
  | trap (c : Trap)
  | wait (s : State) (w : Wait)
deriving Repr

/-- The state an act leaves; `t` is the issuing task. -/
def State.settle (s : State) (t : Task) : Act → State
  | .ok s' => { s'.endWait with flow := .next }
  | .jump s' a => { s'.endWait with flow := .jump a }
  | .resume s' pc k => { s' with flow := .resume pc k }
  | .ended s' => { s' with flow := .ended }
  | .entered s' => s'
  | .trap c => s.takeTrap t c
  | .wait s' w => s'.registerWait t w

/-- Waiting without a wait-for edge (R82 names none). -/
def Act.hold (s : State) : Act := .wait s { okind := 0, obj := 0, edge := false }

/-- An instruction of a slot acts on the live task of the current core. -/
def issue (s : State) (f : Task → Act) : Host.Outcome State Fault Refusal :=
  match s.live with
  | none => .fault .noTask
  | some t => .next (s.settle t (f t))

/-- The instruction changes its task alone. -/
def onTask (s : State) (f : Task → Task) : Host.Outcome State Fault Refusal :=
  issue s fun t => .ok (s.setLive (f t))

/-- Bounds violation at the issuing group, with what failed the check (R422). -/
def State.bounds (s : State) (t : Task) (info : W64) : Act := .trap (s.trapHere t 0x09 0 info)

/-- Phase-illegal at the issuing group. -/
def State.phaseIllegal (s : State) (t : Task) : Act := .trap (s.trapHere t 0x03 0 s.dev.phase)

/-- The current phase is an exchange phase (R315). -/
def State.exchange (s : State) : Bool := s.dev.phase.getLsbD 0

/-- The return from a trap (R442). -/
def State.returnFromTrap (s : State) (t : Task) : Act :=
  if !t.inHandler || t.ctl.tpc.fld 2 2 != 0 then s.bounds t t.ctl.tpc
  else
    let pc := BitVec.ofNat 56 (t.ctl.tpc.fld 4 52 * 16)
    let slot : Fin 4 := Fin.ofNat 4 (t.ctl.tpc.fld 0 2)
    let t' := { t with ctl := { t.ctl with cause := t.ctl.cause &&& ~~~(1#64 <<< 63) }, skipBkpt := true }
    match t.pendFreeze with
    | some c =>
      -- the handler of a pre-emption has until the start of the next compute phase (R430)
      let due := s.dev.phase + if s.dev.phase.getLsbD 0 then 1 else 2
      let t' := { t' with pc := pc, slot := slot, bundle := none, pendFreeze := none, hold := if c.detail = 1 then .handler else t'.hold, startPhase := some due }
      .entered ((s.setLive t').takeTrap t' { c with retPc := pc, retSlot := slot })
    | none => .resume (s.setLive t') pc slot

end Sys2Proof.Machine
end

