-- ==== Sys2Proof/Machine/Board.lean ====
section
/-!
DEFINITION. The range scoreboard (R143 to R149), region residency and the fills an access starts (R83, R148), rings (R142),
barrier objects (R380, R381), and the map unit's commands.
-/
namespace Sys2Proof.Machine

/-! ## Entries -/

/-- Two intervals share a granule of one space (R145). -/
def SbEntry.meets (e : SbEntry) (space : SbSpace) (lo hi : Nat) : Bool :=
  e.space == space && e.lo ≤ hi && lo ≤ e.hi

/-- The entries that conflict with an interval, oldest first. -/
def Core.conflicts (c : Core) (space : SbSpace) (lo hi : Nat) (write : Bool) : List SbEntry :=
  c.sb.filter fun e => e.meets space lo hi && (write || e.write)

/-- The entries older than those of an owner. -/
def Core.olderThan (c : Core) (o : SbOwner) : List SbEntry := c.sb.takeWhile (·.owner != o)

/-- Release entries of an owner. -/
def Core.release (c : Core) (o : SbOwner) (p : SbEntry → Bool := fun _ => true) : Core :=
  { c with sb := c.sb.filter fun e => !(e.owner == o && p e) }

/-- How many contexts are resident on the core. -/
def Core.residents (c : Core) : Nat := ((c.tasks.map fun p => p.2.ctx).eraseDups).length

/-- `n` more entries are free, and within the share of the context (R147). -/
def Core.room (c : Core) (x : BitVec 16) (n : Nat) : Bool :=
  c.sb.length + n ≤ 64 && (c.sb.filter (·.ctx == x)).length + n ≤ 64 - 8 * (c.residents - 1)

/-- The owner of a wait of task `t` on an operation that holds entries. A manger replay and an `rgsync` have no handle: an edge names their task,
or an unknown owner where it is `t` itself, for which no other encoding is given (log entry 114). -/
def State.sbOwner (s : State) (n : CoreId) (t : BitVec 16) (o : SbOwner) : WfOwner :=
  match o with
  | .cmd uid =>
    let c := s.core n
    let all := c.mapCmds ++ ((c.tasks.map (·.2) ++ c.saved.filterMap (·.task)).flatMap Task.cmds)
    match all.find? (·.uid == uid) with
    | some k => k.wfOwner
    | none => .unknown
  | .call tid h => .cmd h (some tid)
  | .task tid => .task tid
  | .replay tid _ => if tid == t then .unknown else .task tid
  | .sync uid =>
    match (s.core n).syncs.find? (·.uid == uid) with
    | some r => if r.tid == t then .unknown else .task r.tid
    | none => .unknown

/-- The owner of a wait for scoreboard entries: that of the oldest entry of the context (R147). -/
def State.boardOwner (s : State) (n : CoreId) (x t : BitVec 16) : WfOwner :=
  match (s.core n).sb.find? (·.ctx == x) with
  | some e => s.sbOwner n t e.owner
  | none => .unknown

/-- The wait for scoreboard entries (R147). -/
def State.boardWait (s : State) (t : Task) : Wait :=
  { okind := 0x08, obj := BitVec.ofNat 48 s.cur.val, owner := s.boardOwner s.cur t.ctx t.tid }

/-! ## Map-unit commands (R120) -/

/-- The next value of a 23-bit sequence counter: it skips 0 and every value held. -/
def skipHeld (held : List Nat) : Nat → Nat → Nat
  | 0, v => v
  | n + 1, v =>
    let v' := v % 2 ^ 23
    if v' = 0 ∨ held.contains v' then skipHeld held n (v' + 1) else v'

/-- The sequence numbers that outstanding commands of an engine hold, saved commands included. -/
def Core.heldSeqs (c : Core) (eng : Bool) : List Nat :=
  ((c.tasks.map (·.2) ++ c.saved.filterMap (·.task)).flatMap Task.cmds).filterMap fun k =>
    if k.eng == eng && k.status != .building then some (k.handle.toNat % 2 ^ 23) else none

/-- Take a map-unit handle. -/
def Core.takeMapHandle (c : Core) (n : CoreId) : BitVec 32 × Core :=
  let v := skipHeld (c.mapCmds.map fun k => k.handle.toNat % 2 ^ 23) (c.mapCmds.length + 2) c.mapSeq.toNat
  (BitVec.ofNat 32 (2 ^ 31 + n.val * 2 ^ 24 + v), { c with mapSeq := BitVec.ofNat 23 (v + 1) })

/-- Take an engine's handle. -/
def Core.takeHandle (c : Core) (n : CoreId) (eng : Bool) : BitVec 32 × Core :=
  let held := c.heldSeqs eng
  let i : Fin 2 := if eng then 1 else 0
  let v := skipHeld held (held.length + 2) c.seq[i].toNat
  (BitVec.ofNat 32 (n.val * 2 ^ 24 + bit eng * 2 ^ 23 + v), { c with seq := c.seq.set i (BitVec.ofNat 23 (v + 1)) })

/-- The record of a map-unit command's side: `len` bytes at a base, as a buffer of one row (R120). -/
def byteRecord (space base len : Nat) : BitVec 768 :=
  BitVec.ofNat 768 (base % 2 ^ 56 + space * 2 ^ 62 + len * 2 ^ 64 + len * 2 ^ 96 + len * 2 ^ 128 + 2 ^ 144 + 5 * 2 ^ 192)

/-- The base address of a map-unit command's side. -/
def recordBase (r : BitVec 768) : Nat := r.toNat % 2 ^ 56

/-- A new command of core `n`'s map unit. -/
def State.mapCommand (s : State) (n : CoreId) (k : Cmd) : Cmd × State :=
  let (uid, s) := s.fresh
  let (h, c) := (s.core n).takeMapHandle n
  let k := { k with uid := uid, handle := h, status := .active }
  (k, s.setCore n { c with mapCmds := c.mapCmds ++ [k] })

/-! ## Regions (R81 to R84) -/

/-- The region is valid. -/
def CoreCtx.regionValid (c : CoreCtx) (i : Fin 16) : Bool := c.rgva[i].getLsbD 63
/-- First granule and length of a region. -/
def CoreCtx.regionLo (c : CoreCtx) (i : Fin 16) : Nat := c.rgloc[i].fld 0 16
/-- Length of a region in granules. -/
def CoreCtx.regionLen (c : CoreCtx) (i : Fin 16) : Nat := c.rgloc[i].fld 16 16
/-- FILL of a region. -/
def CoreCtx.regionFill (c : CoreCtx) (i : Fin 16) : Nat := c.rgloc[i].fld 32 2
/-- WB of a region. -/
def CoreCtx.regionWb (c : CoreCtx) (i : Fin 16) : Nat := c.rgloc[i].fld 34 2
/-- TAGF of a region. -/
def CoreCtx.regionTagf (c : CoreCtx) (i : Fin 16) : Bool := c.rgloc[i].getLsbD 36
/-- Virtual address of granule `g` of the loft under region `i`. -/
def CoreCtx.regionVa (c : CoreCtx) (i : Fin 16) (g : Nat) : Nat := c.rgva[i].fld 6 50 * 64 + (g - c.regionLo i) * 64

/-- The valid region that covers a granule. -/
def CoreCtx.regionOf (c : CoreCtx) (g : Nat) : Option (Fin 16) :=
  (List.finRange 16).find? fun i => c.regionValid i && c.regionLo i ≤ g && g < c.regionLo i + c.regionLen i

/-- The granule is resident (R83). -/
def CoreCtx.isResident (c : CoreCtx) (g : Nat) : Bool := c.absent.get g == 0

/-- The granule becomes resident. -/
def CoreCtx.arrive (c : CoreCtx) (g : Nat) : CoreCtx := { c with absent := c.absent.write g [0] }

/-- Mark a granule dirty. -/
def CoreCtx.soil (c : CoreCtx) (g : Nat) : CoreCtx := { c with dirty := c.dirty.write g [1] }

/-- Clear a granule's dirty bit. -/
def CoreCtx.clean (c : CoreCtx) (g : Nat) : CoreCtx := { c with dirty := c.dirty.write g [0] }

/-- The granules that byte spans touch, each once, ascending within a span. -/
def granules (spans : List (Nat × Nat)) : List Nat :=
  (spans.flatMap fun p => if p.2 = 0 then [] else (List.range ((p.1 + p.2 - 1) / 64 - p.1 / 64 + 1)).map (p.1 / 64 + ·)).eraseDups

/-- The bytes of a granule that spans cover all of it. -/
def coversGranule (spans : List (Nat × Nat)) (g : Nat) : Bool :=
  spans.any (fun p => p.1 ≤ g * 64 && g * 64 + 64 ≤ p.1 + p.2) ||
  (List.range 64).all fun i => spans.any fun p => p.1 ≤ g * 64 + i && g * 64 + i < p.1 + p.2

/-- The words of a granule set full (R137). -/
def fillTags (tags : Mem) (base g : Nat) : Mem := tags.write (base / 4 + g * 16) (List.replicate 16 1)

/-- First touch of a granule under FILL = 0b10: resident and zero, tags as TAGF states (R83). -/
def Core.touchZero (c : Core) (k : CoreCtx) (i : Fin 16) (g : Nat) : Core :=
  let c := { c with loft := c.loft.zero (k.base + g * 64) 64,
                    tags := if k.regionTagf i then fillTags c.tags k.base g else c.tags }
  c.modCtx k.ctx fun k => k.arrive g

/-- The state of the granules after the context's own access to them: first touches of FILL = 0b10 are made, and a write makes
what it covers whole resident and dirty, and sets dirty what a region with write-back covers (R83). DEDUCED (log entry 126): a
write of a whole granule as its first touch under FILL = 0b10 goes by the rule of whole writes alone and leaves the tags. -/
def Core.touch (c : Core) (x : BitVec 16) (spans : List (Nat × Nat)) (write : Bool) : Core :=
  (granules spans).foldl (fun c g =>
    match c.cctx x with
    | none => c
    | some k =>
      match k.regionOf g with
      | none => c
      | some i =>
        let whole := write && coversGranule spans g
        let c := if !k.isResident g && k.regionFill i == 2 && !whole then c.touchZero k i g else c
        if write then
          c.modCtx x fun k =>
            let k' := if !k.isResident g && whole then (k.arrive g).soil g else k
            if k.regionWb i != 0 then k'.soil g else k'
        else c) c

/-- The command that fills a granule, if one is outstanding. -/
def Core.fillOf (c : Core) (x : BitVec 16) (g : Nat) : Option Cmd :=
  c.mapCmds.find? fun k => k.kind == .fill && k.ctx == x && k.gran == g

/-- The object of a wait on a loft granule (R370): its core-window address at the context-relative offset. -/
def loftObj (n : CoreId) (g : Nat) : BitVec 48 := BitVec.ofNat 48 (windowBase n + g * 64)

/-- Start the fill of a granule: one command of the map unit, under a hard write entry (R83, R144). -/
def State.startFill (s : State) (n : CoreId) (k : CoreCtx) (g : Nat) (tid : BitVec 16) : Cmd × State :=
  let va := match k.regionOf g with | some i => k.regionVa i g | none => 0
  let (c, s) := s.mapCommand n { kind := .fill, ctx := k.ctx, tid := tid, gran := g, src := byteRecord 0 va 64,
                                 dst := byteRecord 1 (g * 64) 64 }
  let e : SbEntry := { space := .loft, lo := k.base / 64 + g, hi := k.base / 64 + g, write := true, soft := false,
                       ctx := k.ctx, owner := .cmd c.uid }
  (c, s.modCore n fun r => { r with sb := r.sb ++ [e] })

/-- An access of a task shares a fill of the current core that another task's access started (R364). -/
def State.shareFill (s : State) (tid : BitVec 16) (f : Cmd) : State :=
  if f.tid = tid ∨ f.users.contains tid then s
  else s.modCore s.cur fun c =>
    { c with mapCmds := c.mapCmds.map fun k => if k.uid = f.uid then { k with users := tid :: k.users } else k }

/-- The granule lies in a ring slot that the task has claimed (R145). -/
def Task.ownsSlot (t : Task) (k : CoreCtx) (g : Nat) : Bool :=
  t.claims.any fun p =>
    let d := (k.rings[p.1]).desc
    let lo := d.fld 0 16 + p.2.2 * d.fld 32 16
    lo ≤ g && g < lo + d.fld 32 16

/-- The oldest entry that conflicts with a core access to granules (R145), with the first granule it meets: soft entries do not hold
tagged instructions, and no entry holds a granule of a ring slot that the task has claimed. -/
def State.holdConflict (s : State) (t : Task) (k : CoreCtx) (write tagged : Bool) (gs : List Nat) : Option (SbEntry × Nat) :=
  (s.core s.cur).sb.findSome? fun e =>
    if (write || e.write) && !(tagged && e.soft) then
      (gs.find? fun g => e.meets .loft (k.base / 64 + g) (k.base / 64 + g) && !t.ownsSlot k g).map fun g => (e, g)
    else none

/-- What holds a core access to a granule that no entry holds (R148): it is not resident, and is filled on demand; the fill is started
unless an older operation writes the granule. -/
def State.holdGranule (s : State) (t : Task) (k : CoreCtx) (whole : Bool) (g : Nat) : Option (State × Wait) :=
  let c := s.core s.cur
  let p := k.base / 64 + g
  match k.regionOf g with
  | none => none
  | some i =>
    if k.isResident g || whole || k.regionFill i != 1 then none
    else
      match c.fillOf k.ctx g with
      | some f => some (s.shareFill t.tid f, { okind := 0x06, obj := loftObj s.cur g, owner := .cmd f.handle none })
      | none =>
        match (c.conflicts .loft p p false).find? (·.write) with
        | some e => some (s, { okind := 0x06, obj := loftObj s.cur g, owner := s.sbOwner s.cur t.tid e.owner })
        | none =>
          if c.room k.ctx 1 then
            let (f, s) := s.startFill s.cur k g t.tid
            some (s, { okind := 0x06, obj := loftObj s.cur g, owner := .cmd f.handle none })
          else some (s, s.boardWait t)

/-- What holds a core access to granules (R148): first a conflicting entry, then a granule that is not resident. -/
def State.holdFirst (s : State) (t : Task) (k : CoreCtx) (write tagged : Bool) (spans : List (Nat × Nat)) (gs : List Nat) :
    Option (State × Wait) :=
  match s.holdConflict t k write tagged gs with
  | some (e, g) => some (s, { okind := 0x06, obj := loftObj s.cur g, owner := s.sbOwner s.cur t.tid e.owner })
  | none => gs.findSome? fun g => s.holdGranule t k (write && coversGranule spans g) g

/-- A core access of the live task to byte spans of its partition: performed by `f` once nothing holds it (R145, R148). -/
def State.access (s : State) (t : Task) (spans : List (Nat × Nat)) (write tagged : Bool) (f : State → Act) : Act :=
  match s.holdFirst t (s.cctx t) write tagged spans (granules spans) with
  | some (s', w) => .wait s' w
  | none => f (s.modCore s.cur fun c => c.touch t.ctx spans write)

/-- Bytes of the context's partition on the current core. -/
def State.loftRead (s : State) (t : Task) (a n : Nat) : List Byte := (s.core s.cur).loft.read ((s.cctx t).base + a) n

/-- A little-endian number of the partition. -/
def State.loftNum (s : State) (t : Task) (a n : Nat) : Nat := leNat (s.loftRead t a n)

/-- Bytes of the partition written. -/
def State.loftWrite (s : State) (t : Task) (a : Nat) (bs : List Byte) : State :=
  s.modCore s.cur fun c => { c with loft := c.loft.write ((s.cctx t).base + a) bs }

/-- The tag of the word at a (R137). -/
def State.tag (s : State) (t : Task) (a : Nat) : Bool := (s.core s.cur).tags.get (((s.cctx t).base + a) / 4) == 1

/-- Set the tag of the word at a. -/
def State.setTag (s : State) (t : Task) (a : Nat) (v : Bool) : State :=
  s.modCore s.cur fun c => { c with tags := c.tags.write (((s.cctx t).base + a) / 4) [if v then 1 else 0] }

/-! ## Waiting in turn (R138, R142) -/

/-- Another step waits before this one for the same ring direction, or the same tag value of the same word. -/
def Core.queued (c : Core) (w : Waiter) : Bool :=
  (c.waitq.takeWhile (· != w)).any fun x =>
    x.ctx == w.ctx && x.ring == w.ring && x.obj == w.obj && x.dir == w.dir && x.owner != w.owner

/-- The step takes its place in the order of waits, unless it already has one. -/
def Core.enqueue (c : Core) (w : Waiter) : Core := if c.waitq.contains w then c else { c with waitq := c.waitq ++ [w] }

/-- The step no longer waits. -/
def Core.dequeue (c : Core) (w : Waiter) : Core := { c with waitq := c.waitq.erase w }

/-! ## Rings (R140 to R142) -/

/-- The ring is valid. -/
def Ring.valid (r : Ring) : Bool := r.desc.getLsbD 63
/-- NSLOT. -/
def Ring.nslot (r : Ring) : Nat := r.desc.fld 48 11
/-- Loft offset of a slot. -/
def Ring.slotAt (r : Ring) (k : Nat) : Nat := (r.desc.fld 0 16 + k * r.desc.fld 32 16) * 64

/-- The owner of a wait to claim (R142): the holder of the oldest claim in the opposite direction that is not done. -/
def State.ringOwner (s : State) (n : CoreId) (r : Ring) (write : Bool) (t : BitVec 16) : WfOwner :=
  match r.claims.find? (fun c => c.write != write && !c.done) with
  | some c => s.sbOwner n t c.owner
  | none => .unknown

/-- A claim, when its condition holds; the slot taken. -/
def Ring.claim (r : Ring) (write : Bool) (o : SbOwner) : Option (Nat × Ring) :=
  let n := Max.max r.nslot 1
  if write then
    if 0 < r.free then
      some (r.wrnxt, { r with free := r.free - 1, wrnxt := (r.wrnxt + 1) % n,
                              claims := r.claims ++ [{ write := true, slot := r.wrnxt, owner := o, done := false }] })
    else none
  else if 0 < r.filled then
    some (r.rdnxt, { r with filled := r.filled - 1, rdnxt := (r.rdnxt + 1) % n,
                            claims := r.claims ++ [{ write := false, slot := r.rdnxt, owner := o, done := false }] })
  else none

/-- Publish the done claims of a direction that stand first in claim order. -/
def Ring.publish (r : Ring) (write : Bool) : Nat → Ring
  | 0 => r
  | n + 1 =>
    match r.claims.find? (·.write == write) with
    | none => r
    | some c =>
      if c.done then
        let r := { r with claims := r.claims.erase c }
        Ring.publish (if write then { r with filled := r.filled + 1 } else { r with free := r.free + 1 }) write n
      else r

/-- A release: the claim is done, and done claims are published in claim order. -/
def Ring.releaseSlot (r : Ring) (write : Bool) (slot : Nat) : Ring :=
  let cs := r.claims.map fun c => if c.write == write && c.slot == slot then { c with done := true } else c
  ({ r with claims := cs } : Ring).publish write cs.length

/-- A ring of a context on a core, changed. -/
def Core.modRing (c : Core) (x : BitVec 16) (i : Fin 16) (f : Ring → Ring) : Core :=
  c.modCtx x fun k => { k with rings := k.rings.set i (f k.rings[i]) }

/-! ## Barrier objects (R380, R381) -/

/-- M of R381. -/
def barMax : Nat := 2 ^ 36 - 1

/-- Flip: PH inverted, ARMED cleared. -/
def barFlip (w0 : W64) : W64 := (w0 ^^^ (1#64 <<< 62)) &&& ~~~(1#64 <<< 63)

/-- The low 36 bits replaced. -/
def set36 (w : W64) (v : Nat) : W64 := w64 (w.toNat / 2 ^ 36 * 2 ^ 36 + v % 2 ^ 36)

/-- AddCredit. -/
def barCredit (w0 w1 : W64) (x : Nat) : W64 × W64 :=
  let sum := w1.fld 0 36 + x
  (if barMax < sum then w0 ||| (1#64 <<< 61) else w0, set36 w1 (Min.min sum barMax))

/-- Expect(n); `none` is the barrier-overflow trap. -/
def barExpect (w0 w1 : W64) (n : Nat) : Option (W64 × W64) :=
  let credit := w1.fld 0 36
  let pend := w0.fld 0 36
  if credit < n ∧ barMax - pend < n - credit then none
  else
    let (pend, credit) := if credit < n then (pend + (n - credit), 0) else (pend, credit - n)
    let w0 := set36 w0 pend ||| (1#64 <<< 63)
    some (if pend = 0 then barFlip w0 else w0, set36 w1 credit)

/-- Arrive(b). -/
def barArrive (w0 w1 : W64) (b : Nat) : W64 × W64 :=
  let pend := w0.fld 0 36
  if !w0.getLsbD 63 then barCredit w0 w1 b
  else if b < pend then (set36 w0 (pend - b), w1)
  else
    let (w0, w1) := barCredit w0 w1 (b - pend)
    (barFlip (set36 w0 0), w1)

/-- An arrival at a physical loft offset of core `n`. -/
def State.arriveAt (s : State) (n : CoreId) (a b : Nat) : State :=
  s.modCore n fun c =>
    let (w0, w1) := barArrive (w64 (c.loft.num a 8)) (w64 (c.loft.num (a + 8) 8)) b
    { c with loft := (c.loft.setNum a 8 w0.toNat).setNum (a + 8) 8 w1.toNat }

end Sys2Proof.Machine
end

