-- ==== Sys2Proof/Machine/Numbers.lean ====
section
/-!
DEFINITION. The numbers of R12 to R23: integers, the five floating-point formats, Round, Sat, Bound, and exact arithmetic
on finite values before rounding.
-/
namespace Sys2Proof.Machine

/-! ## Integers -/

/-- The integer a field of `n` bits holds, signed or unsigned (R13). -/
def intOf (signed : Bool) (n v : Nat) : Int :=
  let u := v % 2 ^ n
  if signed && 2 ^ (n - 1) ≤ u then (u : Int) - 2 ^ n else u

/-- The low `n` bits of an integer (R10: assignment keeps the low-order bits). -/
def bitsOfInt (n : Nat) (i : Int) : Nat := (i % (2 ^ n : Int)).toNat

/-- The least value of an integer format (R13). -/
def intMin (signed : Bool) (n : Nat) : Int := if signed then -(2 ^ (n - 1) : Int) else 0
/-- The greatest value of an integer format (R13). -/
def intMax (signed : Bool) (n : Nat) : Int := if signed then 2 ^ (n - 1) - 1 else 2 ^ n - 1

/-- Sat to an integer format (R21). -/
def satInt (signed : Bool) (n : Nat) (i : Int) : Int := max (intMin signed n) (Min.min (intMax signed n) i)

/-- SignExt of an `n`-bit field to a 64-bit value (R22). -/
def signExt (n v : Nat) : W64 := w64i (intOf true n v)

/-! ## Conditions and formats -/

/-- The four conditions of R19. -/
structure Cond where
  invalid : Bool := false
  overflow : Bool := false
  flush : Bool := false
  inexact : Bool := false
deriving DecidableEq, Repr, Inhabited

/-- No condition. -/
def Cond.none : Cond := {}
/-- Conditions accumulate (they are sticky, R19). -/
def Cond.or (a b : Cond) : Cond :=
  { invalid := a.invalid || b.invalid, overflow := a.overflow || b.overflow, flush := a.flush || b.flush,
    inexact := a.inexact || b.inexact }
/-- Invalid alone. -/
def Cond.inv : Cond := { invalid := true }
/-- Invalid when the flag holds. -/
def Cond.ofInvalid (b : Bool) : Cond := { invalid := b }

/-- The floating-point formats of R14. -/
inductive FFmt where
  | f32 | bf16 | f16 | e4m3 | e5m2
deriving DecidableEq, Repr, Inhabited

/-- Mantissa bits. -/
def FFmt.mb : FFmt → Nat
  | .f32 => 23 | .bf16 => 7 | .f16 => 10 | .e4m3 => 3 | .e5m2 => 2
/-- Exponent bits. -/
def FFmt.eb : FFmt → Nat
  | .f32 => 8 | .bf16 => 8 | .f16 => 5 | .e4m3 => 4 | .e5m2 => 5
/-- Exponent bias. -/
def FFmt.bias : FFmt → Nat
  | .f32 => 127 | .bf16 => 127 | .f16 => 15 | .e4m3 => 7 | .e5m2 => 15
/-- The format flushes subnormals (R15). -/
def FFmt.flushes : FFmt → Bool
  | .f32 => true | .bf16 => true | _ => false
/-- The format has infinities. -/
def FFmt.hasInf : FFmt → Bool
  | .e4m3 => false | _ => true
/-- Width in bits. -/
def FFmt.width (f : FFmt) : Nat := 1 + f.eb + f.mb
/-- Encoding of the largest finite value. -/
def FFmt.maxFin : FFmt → Nat
  | .f32 => 0x7F7FFFFF | .bf16 => 0x7F7F | .f16 => 0x7BFF | .e4m3 => 0x7E | .e5m2 => 0x7B
/-- Encoding of +∞ (of the largest finite value in E4M3, which has none). -/
def FFmt.infBits : FFmt → Nat
  | .f32 => 0x7F800000 | .bf16 => 0x7F80 | .f16 => 0x7C00 | .e4m3 => 0x7E | .e5m2 => 0x7C
/-- The canonical NaN (R14, R16). -/
def FFmt.nan : FFmt → Nat
  | .f32 => 0x7FC00000 | .bf16 => 0x7FC0 | .f16 => 0x7E00 | .e4m3 => 0x7F | .e5m2 => 0x7E
/-- The sign bit set or not. -/
def FFmt.sgn (f : FFmt) (neg : Bool) : Nat := if neg then 2 ^ (f.eb + f.mb) else 0
/-- The exponent of the unit of the subnormal grid. -/
def FFmt.qmin (f : FFmt) : Int := 1 - (f.bias : Int) - f.mb

/-- The rounding modes of R18. -/
inductive RM where
  | rne | rtz | rdn | rup
deriving DecidableEq, Repr, Inhabited

/-- The mode a 2-bit field names (R18). -/
def RM.ofCode (n : Nat) : RM :=
  match n % 4 with
  | 0 => .rne | 1 => .rtz | 2 => .rdn | _ => .rup

/-- An exact value before rounding. `fin neg num e more` is ±(num + t) × 2^e with t = 0, or 0 < t < 1 when `more` holds. -/
inductive Ex where
  | nan
  | inf (neg : Bool)
  | fin (neg : Bool) (num : Nat) (e : Int) (more : Bool)
deriving DecidableEq, Repr, Inhabited

/-- Exact zero of a sign. -/
def Ex.zero (neg : Bool) : Ex := .fin neg 0 0 false
/-- An exact integer. -/
def Ex.ofInt (i : Int) : Ex := .fin (i < 0) i.natAbs 0 false
/-- i × 2^e. -/
def Ex.scaled (i e : Int) : Ex := .fin (i < 0) i.natAbs e false

/-- The value of an encoding, before any flush on input (R14). -/
def FFmt.value (f : FFmt) (b : Nat) : Ex :=
  let m := bits b 0 f.mb
  let e := bits b f.mb f.eb
  let neg := bits b (f.mb + f.eb) 1 == 1
  let top := 2 ^ f.eb - 1
  if f.hasInf && e == top then (if m = 0 then .inf neg else .nan)
  else if !f.hasInf && e == top && m == 2 ^ f.mb - 1 then .nan
  else if e = 0 then .fin neg m f.qmin false
  else .fin neg (2 ^ f.mb + m) ((e : Int) - 1 + f.qmin) false

/-- The operand an encoding stands for under R15, and whether a subnormal was read as zero. -/
def FFmt.read (f : FFmt) (b : Nat) : Ex × Bool :=
  let m := bits b 0 f.mb
  let e := bits b f.mb f.eb
  if f.flushes && e == 0 && m != 0 then (.zero (bits b (f.mb + f.eb) 1 == 1), true) else (f.value b, false)

/-- Rounding of `(num + t) × 2^-d` to a natural, with `more` for t > 0: the kept part, and whether it was inexact. -/
def roundNat (neg : Bool) (num d : Nat) (more : Bool) (rm : RM) : Nat × Bool :=
  let kept := num / 2 ^ d
  let r := num % 2 ^ d
  let inexact := r != 0 || more
  let twice := 2 * r
  let up := match rm with
    | .rtz => false
    | .rdn => neg && inexact
    | .rup => !neg && inexact
    | .rne => d != 0 && (2 ^ d < twice || (twice == 2 ^ d && (more || kept % 2 == 1)))
  (if up then kept + 1 else kept, inexact)

/-- The overflow result (R20). -/
def overflowBits (f : FFmt) (neg : Bool) (rm : RM) : Nat :=
  let inf := match rm with
    | .rne => true
    | .rtz => false
    | .rdn => neg
    | .rup => !neg
  f.sgn neg + (if inf then f.infBits else f.maxFin)

/-- Round to a floating-point format (R20), with the conditions of R19. A NaN raises nothing here: the operation that
made it says whether it was invalid (R16). -/
def roundF (x : Ex) (f : FFmt) (rm : RM) : Nat × Cond :=
  match x with
  | .nan => (f.nan, .none)
  | .inf neg =>
    if f.hasInf then (f.sgn neg + f.infBits, .none)
    else (f.sgn neg + f.maxFin, { overflow := true, inexact := true })
  | .fin neg num e more =>
    if num = 0 ∧ more = false then (f.sgn neg, .none)
    else
      let top := e + (Nat.log2 num : Int)
      let q := max (top - f.mb) f.qmin
      let (k, inexact) :=
        if e ≤ q then roundNat neg num (q - e).toNat more rm
        else roundNat neg (num * 2 ^ (e - q).toNat) 0 more rm
      let code := (q - f.qmin).toNat * 2 ^ f.mb + k
      if f.maxFin < code then (overflowBits f neg rm, { overflow := true, inexact := true })
      else if f.flushes && code < 2 ^ f.mb then (f.sgn neg, { flush := true, inexact := true })
      else (f.sgn neg + code, { inexact := inexact })

/-- Round to an integer format (R20), with the conditions of R19. -/
def roundI (x : Ex) (signed : Bool) (n : Nat) (rm : RM) : Int × Cond :=
  match x with
  | .nan => (0, .inv)
  | .inf neg => (if neg then intMin signed n else intMax signed n, { overflow := true, inexact := true })
  | .fin neg num e more =>
    let (k, inexact) :=
      if e < 0 then roundNat neg num (-e).toNat more rm else roundNat neg (num * 2 ^ e.toNat) 0 more rm
    let i : Int := if neg then -(k : Int) else k
    let s := satInt signed n i
    if s = i then (i, { inexact := inexact }) else (s, { overflow := true, inexact := true })

/-- Round to the integer grid, staying exact (`vfrnd`); the sign of a zero is kept. -/
def roundExInt (x : Ex) (rm : RM) : Ex × Bool :=
  match x with
  | .fin neg num e more =>
    let (k, inexact) :=
      if e < 0 then roundNat neg num (-e).toNat more rm else roundNat neg (num * 2 ^ e.toNat) 0 more rm
    (.fin neg k 0 false, inexact)
  | y => (y, false)

/-- Bound (R23): the smallest value of FP32 or BF16 not below the magnitude. -/
def boundF (x : Ex) (f : FFmt) : Nat :=
  match x with
  | .nan => f.infBits
  | .inf _ => f.infBits
  | .fin _ num e more =>
    if num = 0 ∧ more = false then 0
    else
      let top := e + (Nat.log2 num : Int)
      let q := max (top - f.mb) f.qmin
      let k := if e ≤ q then (roundNat false num (q - e).toNat more .rup).1 else num * 2 ^ (e - q).toNat + bit more
      let code := (q - f.qmin).toNat * 2 ^ f.mb + k
      if code < 2 ^ f.mb then 2 ^ f.mb else if f.maxFin < code then f.infBits else code

/-! ## Exact arithmetic -/

/-- The negation. -/
def Ex.neg : Ex → Ex
  | .nan => .nan
  | .inf s => .inf (!s)
  | .fin s n e m => .fin (!s) n e m

/-- The magnitude. -/
def Ex.abs : Ex → Ex
  | .nan => .nan
  | .inf _ => .inf false
  | .fin _ n e m => .fin false n e m

/-- × 2^k. -/
def Ex.scale (x : Ex) (k : Int) : Ex :=
  match x with
  | .fin s n e m => .fin s n (e + k) m
  | y => y

/-- The value is zero. -/
def Ex.isZero : Ex → Bool
  | .fin _ n _ m => n == 0 && !m
  | _ => false
/-- The value is a NaN. -/
def Ex.isNan : Ex → Bool
  | .nan => true
  | _ => false
/-- The value is finite. -/
def Ex.isFin : Ex → Bool
  | .fin .. => true
  | _ => false

/-- The exact sum of two exact values, and whether it is undefined (R16); an exact zero takes the sign of R17. -/
def Ex.add (x y : Ex) (rm : RM) : Ex × Bool :=
  match x, y with
  | .nan, _ => (.nan, false)
  | _, .nan => (.nan, false)
  | .inf a, .inf b => if a = b then (.inf a, false) else (.nan, true)
  | .inf a, _ => (.inf a, false)
  | _, .inf b => (.inf b, false)
  | .fin s n e _, .fin t m f _ =>
    let g := min e f
    let a : Int := (n : Int) * 2 ^ (e - g).toNat
    let b : Int := (m : Int) * 2 ^ (f - g).toNat
    let c := (if s then -a else a) + (if t then -b else b)
    if c = 0 then (.zero (if s = t then s else rm == .rdn), false) else (.fin (c < 0) c.natAbs g false, false)

/-- The exact product, and whether it is undefined. -/
def Ex.mul (x y : Ex) : Ex × Bool :=
  match x, y with
  | .nan, _ => (.nan, false)
  | _, .nan => (.nan, false)
  | .inf a, .inf b => (.inf (a != b), false)
  | .inf a, .fin t m _ _ => if m = 0 then (.nan, true) else (.inf (a != t), false)
  | .fin s n _ _, .inf b => if n = 0 then (.nan, true) else (.inf (s != b), false)
  | .fin s n e _, .fin t m f _ => (.fin (s != t) (n * m) (e + f) false, false)

/-- The exact quotient, cut to at least 70 significant bits with the rest in `more`, and whether it is undefined. -/
def Ex.div (x y : Ex) : Ex × Bool :=
  match x, y with
  | .nan, _ => (.nan, false)
  | _, .nan => (.nan, false)
  | .inf _, .inf _ => (.nan, true)
  | .inf a, .fin t _ _ _ => (.inf (a != t), false)
  | .fin s _ _ _, .inf b => (.zero (s != b), false)
  | .fin s n e _, .fin t m f _ =>
    if m = 0 then (if n = 0 then (.nan, true) else (.inf (s != t), false))
    else if n = 0 then (.zero (s != t), false)
    else
      let k := 72 + Nat.log2 m
      let p := n * 2 ^ k
      (.fin (s != t) (p / m) (e - f - k) (p % m != 0), false)

/-- The integer square root, built bit by bit from bit `b - 1` down. -/
def isqrtFrom (n : Nat) : Nat → Nat → Nat
  | 0, r => r
  | b + 1, r => isqrtFrom n b (if (r + 2 ^ b) * (r + 2 ^ b) ≤ n then r + 2 ^ b else r)

/-- The integer square root of `n`. -/
def isqrt (n : Nat) : Nat := isqrtFrom n (Nat.log2 n / 2 + 1) 0

/-- The square root cut to at least 70 significant bits, and whether it is undefined; √−0 is −0 (R17). -/
def Ex.sqrt (x : Ex) : Ex × Bool :=
  match x with
  | .nan => (.nan, false)
  | .inf s => if s then (.nan, true) else (.inf false, false)
  | .fin s n e _ =>
    if n = 0 then (.zero s, false)
    else if s then (.nan, true)
    else
      let k := 160 + (e % 2).toNat
      let p := n * 2 ^ k
      let r := isqrt p
      (.fin false r ((e - k) / 2) (r * r != p), false)

/-- 1/√x cut to at least 70 significant bits, and whether it is undefined. -/
def Ex.rsqrt (x : Ex) : Ex × Bool :=
  match x with
  | .nan => (.nan, false)
  | .inf s => if s then (.nan, true) else (.zero false, false)
  | .fin s n e _ =>
    if n = 0 then (.inf s, false)
    else if s then (.nan, true)
    else
      let odd := (e % 2).toNat
      let m := n * 2 ^ odd
      let k := 2 * (Nat.log2 m + 80)
      let r := isqrt (2 ^ k / m)
      (.fin false r (-(e - odd) / 2 - k / 2) (r * r * m != 2 ^ k), false)

/-- Numeric order of two non-NaN values: less, equal, greater. -/
def Ex.cmp (x y : Ex) : Ordering :=
  match x, y with
  | .inf a, .inf b => if a = b then .eq else if a then .lt else .gt
  | .inf a, _ => if a then .lt else .gt
  | _, .inf b => if b then .gt else .lt
  | .fin s n e _, .fin t m f _ =>
    let g := min e f
    let a : Int := (n : Int) * 2 ^ (e - g).toNat
    let b : Int := (m : Int) * 2 ^ (f - g).toNat
    compare (if s then -a else a) (if t then -b else b)
  | _, _ => .eq

/-- ⌈log2 (x / p)⌉ of two positive finite values `n × 2^e` and `p`. -/
def ceilLog2Ratio (n : Nat) (e : Int) (p : Nat) : Int :=
  -- n × 2^e / p ≤ 2^k, for the least such k, found beside the difference of the leading bits
  let k0 : Int := e + (Nat.log2 n : Int) - (Nat.log2 p : Int) - 1
  let ok (k : Int) : Bool := if e ≤ k then n ≤ p * 2 ^ (k - e).toNat else n * 2 ^ (e - k).toNat ≤ p
  if ok k0 then k0 else if ok (k0 + 1) then k0 + 1 else k0 + 2

/-! ## Element types -/

/-- A register element type (R7, R193): integer or floating-point. -/
inductive ElemTy where
  | int (signed : Bool) (bytes : Nat)
  | flt (f : FFmt)
deriving DecidableEq, Repr, Inhabited

/-- The element type of a type code 0x01 … 0x0D (R92). -/
def elemTy (t : Nat) : ElemTy :=
  match t with
  | 1 => .int true 1 | 2 => .int true 2 | 3 => .int true 4 | 4 => .int true 8
  | 5 => .int false 1 | 6 => .int false 2 | 7 => .int false 4 | 8 => .int false 8
  | 9 => .flt .f32 | 10 => .flt .bf16 | 11 => .flt .f16 | 12 => .flt .e4m3 | _ => .flt .e5m2

/-- The format a 2-bit type field names: FP32, BF16, FP16 (R193). -/
def fmt2 (n : Nat) : FFmt := match n % 4 with | 0 => .f32 | 1 => .bf16 | _ => .f16

/-- An element converted to another type by Round or Sat (R19 to R21): its bits and the conditions raised. -/
def convElem (src dst : ElemTy) (rm : RM) (v : Nat) : Nat × Cond :=
  match src with
  | .int s b =>
    let i := intOf s (8 * b) v
    match dst with
    | .int s' b' =>
      let r := satInt s' (8 * b') i
      (bitsOfInt (8 * b') r, { overflow := r != i })
    | .flt f => roundF (.ofInt i) f rm
  | .flt f =>
    let (x, fl) := f.read v
    let c0 : Cond := { flush := fl }
    match dst with
    | .int s' b' =>
      let (i, c) := roundI x s' (8 * b') rm
      (bitsOfInt (8 * b') i, c0.or c)
    | .flt g =>
      let (r, c) := roundF x g rm
      (r, c0.or c)

end Sys2Proof.Machine
end

