-- ==== Sys2Proof/Machine/Operands.lean ====
section
/-!
DEFINITION. Operand forms: immediates widened with SignExt (R47), record operands of loads and stores with their checks
(R150 to R154), loft addresses of the tagged, barrier and record-move forms, and mask operands.
-/
namespace Sys2Proof.Machine

/-- The 17-bit immediate of formats I and B, widened (R47). -/
def immI (i : BitVec 17) : W64 := i.signExtend 64
/-- The 27-bit immediate of format U, widened. -/
def immU (i : BitVec 27) : W64 := i.signExtend 64
/-- The 33-bit displacement of format J, widened. -/
def immJ (i : BitVec 33) : W64 := i.signExtend 64

/-- The address of the bundle that holds the instruction, as a 64-bit value. -/
def Task.here (t : Task) : W64 := t.pc.setWidth 64

/-- A displacement in bundles from the current bundle (R47). -/
def Task.target (t : Task) (disp : W64) : BitVec 56 := (t.here + disp * 16).setWidth 56

/-- The bundle address of an indirect target: bits [55:4] (R169, R172). -/
def indirect (v : W64) : BitVec 56 := BitVec.ofNat 56 (v.fld 4 52 * 16)

/-! ## Buffer-record operands (R150) -/

/-- Fields of a buffer record that the record accesses use (R91). -/
structure BufOp where
  base : Int
  ext : Int
  rs : Int
  rowlen : Nat
  bcm : Nat
  ef : Nat
  unit : Nat
deriving DecidableEq, Repr

/-- `n` bits of a record from bit `lo`. -/
def rfld {w : Nat} (r : BitVec w) (lo n : Nat) : Nat := bits r.toNat lo n

/-- The unit size of an element format, BLK counting as bytes (R92, R150). -/
def unitOf (ef : Nat) : Nat := if ef = 0 then 1 else tyWidth ef

/-- The record passes the checks of R150. -/
def bufOp (r : BitVec 256) : Option BufOp :=
  let ef := rfld r 192 5
  if rfld r 208 48 = 0 ∧ rfld r 197 3 = 0 ∧ rfld r 56 6 = 0 ∧ rfld r 62 2 = 1 ∧ rfld r 207 1 = 0 ∧ ef ≤ 0x0D
      ∧ rfld r 200 2 ≠ 3 then
    some { base := rfld r 0 56, ext := rfld r 96 32, rs := intOf true 32 (rfld r 64 32), rowlen := rfld r 128 16,
           bcm := rfld r 200 2, ef := ef, unit := unitOf ef }
  else none

/-- A unit at `a` is in range: aligned and inside the partition. -/
def BufOp.inRange (b : BufOp) (p : Nat) (a : Int) : Bool := 0 ≤ a && a % b.unit == 0 && a + b.unit ≤ p
/-- A unit at `a` is in bounds. -/
def BufOp.inBounds (b : BufOp) (a : Int) : Bool := b.base ≤ a && a + b.unit ≤ b.base + b.ext

/-- The addresses of the units an access touches, checked before any unit performs: the first that fails, or for each unit
its address when it is accessed and `none` when a clamp drops it. -/
def BufOp.check (b : BufOp) (p : Nat) : List Int → Except Int (List (Option Nat))
  | [] => .ok []
  | a :: as =>
    if !b.inRange p a then .error a
    else if b.bcm = 1 ∧ !b.inBounds a then .error a
    else
      match b.check p as with
      | .error e => .error e
      | .ok r => .ok ((if b.bcm = 2 ∧ !b.inBounds a then none else some a.toNat) :: r)

/-- The byte spans of the units accessed. -/
def BufOp.spans (b : BufOp) (as : List (Option Nat)) : List (Nat × Nat) := as.filterMap fun a => a.map fun x => (x, b.unit)

/-- Units of a vector access under `c.vl` (R150): min(VL, 16384 div U). -/
def Task.vlUnits (t : Task) (u : Nat) : Nat := Min.min t.ctl.vl.toNat (16384 / u)

/-- Consecutive unit addresses. -/
def BufOp.run (b : BufOp) (a : Int) (n : Nat) : List Int := (List.range n).map fun (k : Nat) => a + (k : Int) * b.unit

/-- The addresses of a window access (R153). -/
def BufOp.window (b : BufOp) (a : Int) (n : Nat) : List Int :=
  (List.range n).map fun (k : Nat) => a + ((k / b.rowlen : Nat) : Int) * b.rs + ((k % b.rowlen : Nat) : Int) * b.unit

/-- The address of the immediate form (R151). -/
def BufOp.at (b : BufOp) (e : Int) : Int := b.base + e * b.unit

/-- The value a scalar load delivers (R150). -/
def BufOp.deliver (b : BufOp) (v : Nat) : W64 := if tySigned b.ef then signExt (8 * b.unit) v else w64 v

/-! ## Loft addresses -/

/-- A loft address `sa + SignExt(imm)` that holds `n` bytes aligned to `al` within P. -/
def loftAddr (p : Nat) (v : W64) (n al : Nat) : Option Nat :=
  if v.toNat % al = 0 ∧ v.toNat + n ≤ p then some v.toNat else none

/-! ## Masks -/

/-- Bit `j` of a mask. -/
def maskBit (m : BitVec 16384) (j : Nat) : Bool := m.getLsbD j

/-- The mask whose bit j is `f j`. -/
def maskOf (n : Nat) (f : Nat → Bool) : BitVec 16384 :=
  BitVec.ofNat 16384 ((List.range n).foldl (fun v j => if f j then v + 2 ^ j else v) 0)

end Sys2Proof.Machine
end

