-- ==== Sys2Proof/Machine/Scalar.lean ====
section
/-!
DEFINITION. Scalar instructions (R163 to R168) and mask instructions (R175, R176). None touches memory, and none traps.
-/
namespace Sys2Proof.Machine

/-- The result type of every meaning. -/
abbrev Out := Host.Outcome State Fault Refusal

/-- sd := f(sa, sb). -/
def scalar2 (f : W64 → W64 → W64) (d a b : SReg) (s : State) : Out :=
  onTask s fun t => t.setS d (f (t.getS a) (t.getS b))

/-- sd := f(sa). -/
def scalar1 (f : W64 → W64) (d a : SReg) (s : State) : Out := onTask s fun t => t.setS d (f (t.getS a))

/-- The signed or unsigned reading of a register (R163). -/
def readInt (u : Bool) (v : W64) : Int := if u then (v.toNat : Int) else v.toInt

/-- The quotient of R165. -/
def divOp (u : Bool) (a b : W64) : W64 :=
  if b = 0 then BitVec.allOnes 64 else w64i ((readInt u a).tdiv (readInt u b))
/-- The remainder of R165. -/
def remOp (u : Bool) (a b : W64) : W64 :=
  if b = 0 then a else w64i ((readInt u a).tmod (readInt u b))
/-- Shift left by an amount that is not reduced (R165). -/
def sllOp (a b : W64) : W64 := if 64 ≤ b.toNat then 0 else a <<< b.toNat
/-- Logical shift right. -/
def srlOp (a b : W64) : W64 := if 64 ≤ b.toNat then 0 else a >>> b.toNat
/-- Arithmetic shift right, the amount clamped to 63. -/
def sraOp (a b : W64) : W64 := a.sshiftRight (if 64 ≤ b.toNat then 63 else b.toNat)
/-- Bits [127:64] of the exact product. -/
def mulhOp (u : Bool) (a b : W64) : W64 := w64i ((readInt u a * readInt u b) / 2 ^ 64)
/-- Leading zeros; 0 gives 64. -/
def clzOp (a : W64) : W64 := if a = 0 then 64 else w64 (63 - Nat.log2 a.toNat)
/-- The lowest set bit at or after position `j`, among `n` positions. -/
def ctzFrom (a : W64) : Nat → Nat → Nat
  | 0, j => j
  | n + 1, j => if a.getLsbD j then j else ctzFrom a n (j + 1)
/-- Trailing zeros; 0 gives 64. -/
def ctzOp (a : W64) : W64 := w64 (ctzFrom a 64 0)
/-- Set bits. -/
def popcOp (a : W64) : W64 := w64 ((List.range 64).filter fun j => a.getLsbD j).length
/-- Saturation to INT64 or uint64 (R21). -/
def sat64 (u : Bool) (i : Int) : W64 := w64i (satInt (!u) 64 i)

/-- `add` (R164). -/
def execAdd (d a b : SReg) (s : State) : Out := scalar2 (· + ·) d a b s
/-- `sub` (R164). -/
def execSub (d a b : SReg) (s : State) : Out := scalar2 (· - ·) d a b s
/-- `mul` (R164). -/
def execMul (d a b : SReg) (s : State) : Out := scalar2 (· * ·) d a b s
/-- `mulh` (R164). -/
def execMulh (d a b : SReg) (u : Bool) (s : State) : Out := scalar2 (mulhOp u) d a b s
/-- `div` (R165). -/
def execDiv (d a b : SReg) (u : Bool) (s : State) : Out := scalar2 (divOp u) d a b s
/-- `rem` (R165). -/
def execRem (d a b : SReg) (u : Bool) (s : State) : Out := scalar2 (remOp u) d a b s
/-- `and` (R164). -/
def execAnd (d a b : SReg) (s : State) : Out := scalar2 (· &&& ·) d a b s
/-- `or` (R164). -/
def execOr (d a b : SReg) (s : State) : Out := scalar2 (· ||| ·) d a b s
/-- `xor` (R164). -/
def execXor (d a b : SReg) (s : State) : Out := scalar2 (· ^^^ ·) d a b s
/-- `andn` (R164). -/
def execAndn (d a b : SReg) (s : State) : Out := scalar2 (fun x y => x &&& ~~~y) d a b s
/-- `sll` (R165). -/
def execSll (d a b : SReg) (s : State) : Out := scalar2 sllOp d a b s
/-- `srl` (R165). -/
def execSrl (d a b : SReg) (s : State) : Out := scalar2 srlOp d a b s
/-- `sra` (R165). -/
def execSra (d a b : SReg) (s : State) : Out := scalar2 sraOp d a b s
/-- `slt` (R164). -/
def execSlt (d a b : SReg) (u : Bool) (s : State) : Out := scalar2 (fun x y => w64b (readInt u x < readInt u y)) d a b s
/-- `min` (R164). -/
def execMin (d a b : SReg) (u : Bool) (s : State) : Out :=
  scalar2 (fun x y => if readInt u x ≤ readInt u y then x else y) d a b s
/-- `max` (R164). -/
def execMax (d a b : SReg) (u : Bool) (s : State) : Out :=
  scalar2 (fun x y => if readInt u x ≤ readInt u y then y else x) d a b s
/-- `adds` (R164). -/
def execAdds (d a b : SReg) (u : Bool) (s : State) : Out := scalar2 (fun x y => sat64 u (readInt u x + readInt u y)) d a b s
/-- `subs` (R164). -/
def execSubs (d a b : SReg) (u : Bool) (s : State) : Out := scalar2 (fun x y => sat64 u (readInt u x - readInt u y)) d a b s
/-- `clz` (R164). -/
def execClz (d a : SReg) (s : State) : Out := scalar1 clzOp d a s
/-- `ctz` (R164). -/
def execCtz (d a : SReg) (s : State) : Out := scalar1 ctzOp d a s
/-- `popc` (R164). -/
def execPopc (d a : SReg) (s : State) : Out := scalar1 popcOp d a s
/-- `shadd` (R164). -/
def execShadd (d a b : SReg) (k : Fin 16) (s : State) : Out := scalar2 (fun x y => (x <<< k.val) + y) d a b s
/-- `addi` (R166). -/
def execAddi (d a : SReg) (i : BitVec 17) (s : State) : Out := scalar1 (· + immI i) d a s
/-- `andi` (R166). -/
def execAndi (d a : SReg) (i : BitVec 17) (s : State) : Out := scalar1 (· &&& immI i) d a s
/-- `ori` (R166). -/
def execOri (d a : SReg) (i : BitVec 17) (s : State) : Out := scalar1 (· ||| immI i) d a s
/-- `xori` (R166). -/
def execXori (d a : SReg) (i : BitVec 17) (s : State) : Out := scalar1 (· ^^^ immI i) d a s
/-- `slti` (R166). -/
def execSlti (d a : SReg) (i : BitVec 17) (s : State) : Out := scalar1 (fun x => w64b (x.toInt < (immI i).toInt)) d a s
/-- `sltiu` (R166). -/
def execSltiu (d a : SReg) (i : BitVec 17) (s : State) : Out := scalar1 (fun x => w64b (x.toNat < (immI i).toNat)) d a s
/-- `muli` (R166). -/
def execMuli (d a : SReg) (i : BitVec 17) (s : State) : Out := scalar1 (· * immI i) d a s
/-- `seqi` (R166). -/
def execSeqi (d a : SReg) (i : BitVec 17) (s : State) : Out := scalar1 (fun x => w64b (x == immI i)) d a s
/-- `lui` (R167). -/
def execLui (d : SReg) (i : BitVec 27) (s : State) : Out := onTask s fun t => t.setS d (immU i * 4096)
/-- `adrb` (R167). -/
def execAdrb (d : SReg) (i : BitVec 27) (s : State) : Out := onTask s fun t => t.setS d (t.here + immU i * 16)
/-- `slli` (R168). -/
def execSlli (d a : SReg) (n : Fin 64) (s : State) : Out := scalar1 (· <<< n.val) d a s
/-- `srli` (R168). -/
def execSrli (d a : SReg) (n : Fin 64) (s : State) : Out := scalar1 (· >>> n.val) d a s
/-- `srai` (R168). -/
def execSrai (d a : SReg) (n : Fin 64) (s : State) : Out := scalar1 (·.sshiftRight n.val) d a s
/-- `bfx` (R168): `l` is len − 1. -/
def execBfx (d a : SReg) (l n : Fin 64) (s : State) : Out := scalar1 (fun x => w64 (x.fld n.val (l.val + 1))) d a s

/-! ## Masks -/

/-- kd := f(ka, kb), every bit. -/
def mask2 (f : BitVec 16384 → BitVec 16384 → BitVec 16384) (d a b : KReg) (s : State) : Out :=
  onTask s fun t => t.setK d (f (t.getK a) (t.getK b))

/-- `kand` (R176). -/
def execKand (d a b : KReg) (s : State) : Out := mask2 (· &&& ·) d a b s
/-- `kor` (R176). -/
def execKor (d a b : KReg) (s : State) : Out := mask2 (· ||| ·) d a b s
/-- `kxor` (R176). -/
def execKxor (d a b : KReg) (s : State) : Out := mask2 (· ^^^ ·) d a b s
/-- `kandn` (R176). -/
def execKandn (d a b : KReg) (s : State) : Out := mask2 (fun x y => x &&& ~~~y) d a b s
/-- `kset` (R176): bits below sa. -/
def execKset (d : KReg) (a : SReg) (s : State) : Out :=
  onTask s fun t => t.setK d (BitVec.ofNat 16384 (2 ^ Min.min (t.getS a).toNat 16384 - 1))

/-- Set bits of a mask below `n`. -/
def maskCount (m : BitVec 16384) (n : Nat) : Nat := ((List.range n).filter fun j => m.getLsbD j).length
/-- The lowest set bit of a mask among `n` positions from `j`; where there is none, `j + n`. -/
def maskFind (m : BitVec 16384) : Nat → Nat → Nat
  | 0, j => j
  | n + 1, j => if m.getLsbD j then j else maskFind m n (j + 1)

/-- `kcnt` (R176). -/
def execKcnt (d : SReg) (a : KReg) (s : State) : Out :=
  onTask s fun t => t.setS d (w64 (maskCount (t.getK a) t.ctl.vl.toNat))
/-- `kfind` (R176). -/
def execKfind (d : SReg) (a : KReg) (s : State) : Out :=
  onTask s fun t => t.setS d (w64 (maskFind (t.getK a) t.ctl.vl.toNat 0))

/-- `nop` (R49): fills a slot. -/
def execNop (s : State) : Out := onTask s id

end Sys2Proof.Machine
end

