-- ==== Sys2Proof/Machine/Control.lean ====
section
/-!
DEFINITION. The control registers: what each reads as (R178 to R181, R194, R283, R316, R358, R379, R420, R485), what a write
does (R82, R141, R177, R219 and the registers' own rules), and the access instructions (R183).
-/
namespace Sys2Proof.Machine

/-! ## Reading -/

/-- ELAP of R316: core cycles since the phase began, saturating. -/
def State.elap (s : State) : Nat := Min.min (s.dev.now - s.dev.phaseStart) 0xFFFFFFFF

/-- `c.rngs` (R140). -/
def Ring.stateWord (r : Ring) : W64 := w64 (r.rdnxt * 2 ^ 48 + r.wrnxt * 2 ^ 32 + r.filled * 2 ^ 16 + r.free)

/-- `c.team` (R358). -/
def Task.teamWord (t : Task) : W64 :=
  w64 (bit t.grid.isSome * 2 ^ 22 + (t.grid.elim 0 (·.val)) * 2 ^ 16 + t.job % 256 * 2 ^ 8 + t.tsz.val * 16 + t.member.val)

/-- Records held in the lanes of a core. -/
def Core.qcount (c : Core) : Nat := (c.lanes.toList.map List.length).sum

/-- `c.qstat` (R358). -/
def Core.qstat (c : Core) : W64 :=
  w64 (((List.finRange 8).map fun p => bit (!(c.lanes[p]).isEmpty) * 2 ^ p.val).sum * 2 ^ 32 + c.qcount)

/-- Calls and `mtacc` operations of a task that are outstanding (R283). -/
def Core.callsOut (c : Core) (t : Task) : Nat :=
  t.calls.length + (match c.mx.running with | some r => bit (r.tid == t.tid) | none => 0)
    + (c.mx.mtaccs.filter (·.tid == t.tid)).length

/-- `c.mown` (R283). -/
def MatUnit.ownWord (m : MatUnit) : W64 := match m.owner with | some x => w64 (2 ^ 16 + x.toNat) | none => 0

/-- The selected entry of the wait-for table, visible to its own context and to the supervisor (R379). -/
def State.wfSelected (s : State) (k : CoreCtx) : Option WfEntry :=
  (s.dev.wf.find? fun e => e.idx.val == s.dev.wfsel.toNat).bind fun e => if k.sup || e.ctx == k.ctx then some e else none

/-- Grid count of a task (R358). -/
def State.gcountOf (s : State) (t : Task) : W64 :=
  match t.grid with
  | some g => match s.dev.grids.lookup g with | some r => r.count.setWidth 64 | none => t.gcount.setWidth 64
  | none => 0

/-- Control register `n` as a task of context `k` on core `c` reads it; `none` names no register. -/
def State.readCtrl (s : State) (c : CoreId) (k : CoreCtx) (t : Task) (n : Nat) : Option W64 :=
  let core := s.core c
  let i16 : Fin 16 := Fin.ofNat 16 n
  if n ≤ 0x00F then some t.regs.tdim[i16]
  else if 0x030 ≤ n ∧ n ≤ 0x03F then some k.rgva[i16]
  else if 0x040 ≤ n ∧ n ≤ 0x04F then some k.rgloc[i16]
  else if 0x050 ≤ n ∧ n ≤ 0x05F then some (k.rings[i16]).desc
  else if 0x060 ≤ n ∧ n ≤ 0x06F then some (k.rings[i16]).stateWord
  else if 0x140 ≤ n ∧ n ≤ 0x147 then some (w64 k.meters[(Fin.ofNat 8 n)])
  else
    match n with
    | 0x010 => some (t.ctl.vl.setWidth 64)
    | 0x011 => some (w64 (t.ctl.eff.val * 256 + t.ctl.base.val))
    | 0x012 => some (w64 (bit k.sup * 2 ^ 24 + k.asn.toNat * 2 ^ 16 + k.ctx.toNat))
    | 0x013 => some (w64 core.cbank.val)
    | 0x014 => some (w64 (k.lsize * 256 + k.lbaseu))
    | 0x015 => some (w64 c.val)
    | 0x016 => some (w64 s.dev.now)
    | 0x020 => some (w64 (core.pend.toNat * 2 ^ 32 + core.live.toNat))
    | 0x021 => some (w64 core.nsave.val)
    | 0x022 => some (s.dev.ptbase.setWidth 64)
    | 0x023 => some (s.dev.ptlog.setWidth 64)
    | 0x080 => some (t.ctl.vflags.setWidth 64)
    | 0x081 => some (t.ctl.vcsr.setWidth 64)
    | 0x0A0 => some t.ctl.mflags
    | 0x0A1 => some (w64 (t.ctl.lasth.toNat * 2 ^ 32 + core.callsOut t % 16))
    | 0x0A2 => some core.mx.ownWord
    | 0x0C0 => some s.dev.phase
    | 0x0C1 => some k.sbudget
    | 0x0C2 => some (w64 (bit t.ctl.arr * 2 ^ 63 + bit t.ctl.strg * 2 ^ 62 + bit t.ctl.trn * 2 ^ 61 + s.elap))
    | 0x0C3 => some (if t.ctl.arr then t.ctl.tgt else 0)
    | 0x0E0 => some (s.gcountOf t)
    | 0x0E1 => some (t.gidx.setWidth 64)
    | 0x0E2 => some t.teamWord
    | 0x0E3 => some (s.dev.ctxtab.setWidth 64)
    | 0x0E4 => some (w64 (core.qlog.val * 2 ^ 52 + core.qbase.toNat * 64))
    | 0x0E5 => some core.qstat
    | 0x0E6 => some (s.dev.acl.setWidth 64)
    | 0x0E7 => some (w64 (s.dev.lrejCause.toNat * 2 ^ 56 + s.dev.lrejCount.toNat))
    | 0x100 => some k.wfcfg
    | 0x101 => some k.wfdl
    | 0x102 => some (w64 (k.unteth.toNat * 2 ^ 32 + k.deep.toNat))
    | 0x103 => some (s.dev.wfuse k.ctx)
    | 0x104 => some (t.tid.setWidth 64)
    | 0x105 => some (s.dev.wfsel.setWidth 64)
    | 0x106 => some (match s.wfSelected k with | some e => s.wfWord0 e | none => 0)
    | 0x107 => some (match s.wfSelected k with | some e => e.word1 | none => 0)
    | 0x120 => some t.ctl.cause
    | 0x121 => some t.ctl.tpc
    | 0x122 => some t.ctl.tinfo
    | 0x123 => some t.ctl.tbun0
    | 0x124 => some t.ctl.tbun1
    | 0x125 => some k.tvec
    | 0x126 => some k.fqcfg
    | 0x127 => let q := s.dev.faultq k.ctx; some (w64 (q.dies.length * 2 ^ 32 + q.lost.toNat))
    | 0x128 => some k.ckpt
    | 0x129 => some k.ckph
    | 0x12A => some t.ctl.bkpt
    | _ => none

/-! ## Writing -/

/-- Only the bits of `keep` are writable; the others keep the register's own reading (R177). -/
def maskedW (v keep : W64) : W64 := v &&& keep

/-- The tile a shape word describes is valid (R219). -/
def tileValid (v : W64) : Bool :=
  v.getLsbD 63 && v.fld 59 4 == 0 && v.fld 55 1 == 0 && v.fld 44 4 == 0 && v.fld 32 8 == 0 && tyReg (v.fld 40 4)
    && 1 ≤ v.fld 0 16 && 1 ≤ v.fld 16 16 && v.fld 48 7 + v.fld 56 3 + 1 ≤ 128
    && v.fld 0 16 * v.fld 16 16 * tyWidth (v.fld 40 4) ≤ (v.fld 56 3 + 1) * 16384

/-- Bit 63 cleared. -/
def clearV (v : W64) : W64 := v &&& ~~~(1#64 <<< 63)

/-- A tile shape as a write leaves it (R219). -/
def tdimWritten (v : W64) : W64 := if tileValid v then v else clearV v

/-- A write of a tile shape. -/
def Task.setTdim (t : Task) (i : Fin 16) (v : W64) : Task :=
  { t with regs := { t.regs with tdim := t.regs.tdim.set i (tdimWritten v) } }

/-- A region is validated by R82. -/
def CoreCtx.regionOk (k : CoreCtx) (i : Fin 16) (va loc : W64) : Bool :=
  let lo := loc.fld 0 16
  let len := loc.fld 16 16
  va.fld 56 7 == 0 && va.fld 0 6 == 0 && loc.fld 37 27 == 0 && 1 ≤ len && lo + len ≤ Min.min 49152 (k.psize / 64)
    && loc.fld 32 2 != 3 && loc.fld 34 2 != 3 && va.fld 6 50 * 64 + len * 64 ≤ 2 ^ 56
    && (List.finRange 16).all fun j => j == i || !k.regionValid j || lo + len ≤ k.regionLo j || k.regionLo j + k.regionLen j ≤ lo

/-- The region's granules as validation leaves them: clean, and resident only with FILL = 0b00 (R83). -/
def CoreCtx.validated (k : CoreCtx) (i : Fin 16) (va : W64) : CoreCtx :=
  let loc := k.rgloc[i]
  let lo := loc.fld 0 16
  let len := loc.fld 16 16
  { k with rgva := k.rgva.set i va,
           absent := k.absent.write lo (List.replicate len (if loc.fld 32 2 = 0 then 0 else 1)),
           dirty := k.dirty.write lo (List.replicate len 0) }

/-- The region gives up its granules: they become plain loft (R82). -/
def CoreCtx.dropRegion (k : CoreCtx) (i : Fin 16) : CoreCtx :=
  if k.regionValid i then
    let lo := k.regionLo i
    let len := k.regionLen i
    { k with rgva := k.rgva.set i (clearV k.rgva[i]), absent := k.absent.write lo (List.replicate len 0),
             dirty := k.dirty.write lo (List.replicate len 0) }
  else k

/-- A fill or write-back of the region is outstanding. -/
def Core.regionBusy (c : Core) (k : CoreCtx) (i : Fin 16) : Bool :=
  k.regionValid i && ((c.mapCmds.any fun m => (m.kind == .fill || m.kind == .writeBack) && m.ctx == k.ctx
    && k.regionLo i ≤ m.gran && m.gran < k.regionLo i + k.regionLen i) || c.syncs.any fun r => r.ctx == k.ctx && r.region == i)

/-- A ring descriptor as a write leaves it (R141). -/
def ringWritten (p : Nat) (v : W64) : Ring :=
  let n := v.fld 48 11
  if v.getLsbD 63 && v.fld 59 4 == 0 && v.fld 16 16 == 0 && 1 ≤ n && n ≤ 1024 && 1 ≤ v.fld 32 16 && v.fld 32 16 ≤ 49152
      && v.fld 0 16 + n * v.fld 32 16 ≤ p / 64 then
    { desc := v, free := n }
  else { desc := clearV v }

/-- A side of a command names a ring. -/
def namesRing (layout : Bool) (r : BitVec 768) (i : Fin 16) : Bool :=
  !layout && rfld r 207 1 == 1 && rfld r 203 4 == i.val

/-- The committed or faulted commands of a context on a core that name a ring, oldest first, those of spilled tasks among them. -/
def Core.ringCmds (c : Core) (x : BitVec 16) (i : Fin 16) : List Cmd :=
  sortBy (fun a b => a.age ≤ b.age) <|
    (((c.tasks.map (·.2)) ++ c.saved.filterMap (·.task)).flatMap Task.cmds).filter fun k =>
      k.ctx == x && k.status != .building && (namesRing k.dl k.dst i || namesRing k.sl k.src i)

/-- The claims of a context's tasks on a ring are discarded (R141). -/
def Core.dropClaims (c : Core) (x : BitVec 16) (i : Fin 16) : Core :=
  let drop (u : Task) : Task := if u.ctx == x then { u with claims := u.claims.filter fun p => p.1 != i } else u
  { c with banks := c.banks.map fun (b : Option Task) => b.map drop, saved := c.saved.map fun v => { v with task := v.task.map drop } }

/-- The write of `c.queue` is accepted (R358). -/
def Core.queueOk (c : Core) (n : CoreId) (v : W64) : Bool :=
  let qlog := v.fld 52 4
  let base := v.fld 6 34 * 64
  let size := 2 ^ qlog * 32
  let cap := sliceBase n + c.capacity
  -- QLOG is a 4-bit field, so 16 cannot be written (log entry 8)
  c.qcount == 0 && 8 ≤ qlog && base % size == 0 && sliceBase n ≤ base && base + size ≤ cap - c.nsave.val * 0x800000

/-- What a write of a control register does: performs, waits, or is refused by its own rule and leaves things as they are. -/
inductive Wrote where
  | done (s : State)
  | wait (w : Wait)
  | hold
deriving Repr

/-- A write of value `v` to register `n` by the live task (R177): discarded for an RS register outside the supervisor, and
otherwise by the register's own rule. R75 speaks of a PTBASE that is not aligned to the bucket count: here a write of either register that would
leave the pair so is discarded, each against the other as last written (DESIGN CHOICE; log entry 117). -/
def State.writeCtrl (s : State) (t : Task) (n : Nat) (v : W64) : Wrote :=
  let k := s.cctx t
  let c := s.core s.cur
  let i16 : Fin 16 := Fin.ofNat 16 n
  let ctl (f : Ctl → Ctl) : Wrote := .done (s.setLive { t with ctl := f t.ctl })
  let ctx (f : CoreCtx → CoreCtx) : Wrote := .done (s.modCctx t f)
  let dev (f : Device → Device) : Wrote := .done (s.modDev f)
  if ctrlAccess n = some .rs ∧ k.sup = false then .done s
  else if n ≤ 0x00F then .done (s.setLive (t.setTdim i16 v))
  else if 0x030 ≤ n ∧ n ≤ 0x03F then
    if c.regionBusy k i16 then .hold
    else ctx fun k =>
      let k := k.dropRegion i16
      if v.getLsbD 63 && k.regionOk i16 v k.rgloc[i16] then k.validated i16 v
      else { k with rgva := k.rgva.set i16 (clearV v) }
  else if 0x040 ≤ n ∧ n ≤ 0x04F then
    if c.regionBusy k i16 then .hold
    else ctx fun k => let k := k.dropRegion i16; { k with rgloc := k.rgloc.set i16 v }
  else if 0x050 ≤ n ∧ n ≤ 0x05F then
    match c.ringCmds t.ctx i16 with
    | m :: _ => .wait { okind := 0x05, obj := BitVec.ofNat 48 (s.cur.val + i16.val * 256), owner := m.wfOwner }
    | [] =>
      .done ((s.modCctx t fun k => { k with rings := k.rings.set i16 (ringWritten k.psize v) }).modCore s.cur (·.dropClaims t.ctx i16))
  else
    match n with
    | 0x010 => ctl fun r => { r with vl := BitVec.ofNat 15 (Min.min v.toNat 16384) }
    | 0x011 =>
      let b : Fin 8 := if v.fld 0 3 < t.ceil.val then Fin.ofNat 8 (v.fld 0 3) else t.ceil
      ctl fun r => { r with base := b, eff := if r.eff.val < b.val then b else r.eff }
    | 0x021 =>
      let m := v.fld 0 6
      if m ≤ 32 ∧ m * 0x800000 ≤ c.capacity then .done (s.modCore s.cur fun c => { c with nsave := Fin.ofNat 64 m })
      else .done s
    | 0x022 => if v.fld 0 40 % (2 ^ s.dev.ptlog.toNat * 64) = 0 then dev fun d => { d with ptbase := v.setWidth 40 } else .done s
    | 0x023 =>
      let m := v.fld 0 5
      if 20 ≤ m ∧ m ≤ 27 ∧ s.dev.ptbase.toNat % (2 ^ m * 64) = 0 then dev fun d => { d with ptlog := v.setWidth 5 } else .done s
    | 0x080 => ctl fun r => { r with vflags := v.setWidth 4 }
    | 0x081 => ctl fun r => { r with vcsr := v.setWidth 2 }
    | 0x0A0 => ctl fun r => { r with mflags := maskedW v 0x407FC00000000000 }
    | 0x0C1 => ctx fun k => { k with sbudget := v }
    | 0x0C2 => ctl fun r => { r with strg := r.strg && v.getLsbD 62 }
    | 0x0E3 => dev fun d => { d with ctxtab := (maskedW v 0xFFFFFFC000).setWidth 40 }
    | 0x0E4 =>
      if c.queueOk s.cur v then
        .done (s.modCore s.cur fun c => { c with qlog := Fin.ofNat 16 (v.fld 52 4), qbase := BitVec.ofNat 34 (v.fld 6 34) })
      else .done s
    | 0x0E6 => dev fun d => { d with acl := (maskedW v 0xFFFFFFE000).setWidth 40 }
    | 0x100 => ctx fun k => { k with wfcfg := maskedW v 0x8000000000001FFF }
    | 0x101 =>
      ctx fun k =>
        let w := maskedW v 0x800000000000FFFF
        { k with wfdl := if (w.fld 0 16 + 17) * 64 ≤ k.psize then w else clearV w }
    | 0x102 => ctx fun k => { k with unteth := BitVec.ofNat 32 (v.fld 32 32), deep := BitVec.ofNat 32 (v.fld 0 32) }
    | 0x105 => dev fun d => { d with wfsel := v.setWidth 12 }
    | 0x121 => ctl fun r => { r with tpc := maskedW v 0x00FFFFFFFFFFFFFF }
    | 0x125 => ctx fun k => { k with tvec := maskedW v 0x80FFFFFFFFFFFFF0 }
    | 0x126 => ctx fun k => { k with fqcfg := maskedW v 0x00FFFFFFFFFFF00F }
    | 0x12A => ctl fun r => { r with bkpt := maskedW v 0x00FFFFFFFFFFFFF1 }
    | _ => .done s

/-- What an access instruction does with register `n`, read as `old`: `rd` receives it, and the register receives `f` of it when the form
writes (R183). -/
def State.ctrlAct (s : State) (t : Task) (d : SReg) (n : Nat) (f : Option (W64 → W64)) : Option W64 → Act
  | none => .trap (s.trapHere t 0x01 0x03 0)
  | some old =>
    match f with
    | none => .ok (s.setLive (t.setS d old))
    | some g =>
      match s.writeCtrl t n (g old) with
      | .done s' => .ok (s'.modLive fun t => t.setS d old)
      | .wait w => .wait s w
      | .hold => Act.hold s

/-- An access instruction on the register as it stands (R183). -/
def ctrlForm (d : SReg) (n : Nat) (f : Task → Option (W64 → W64)) (s : State) : Out :=
  issue s fun t => s.ctrlAct t d n (f t) (s.readCtrl s.cur (s.cctx t) t n)

/-- The forms that read and write a register: `rd`, the register, and what it receives. -/
def ctrlParts : Instr → Option (SReg × BitVec 12 × (Task → W64 → W64))
  | .setc d a n => some (d, n, fun t v => v ||| t.getS a)
  | .clrc d a n => some (d, n, fun t v => v &&& ~~~(t.getS a))
  | .xchc d a n => some (d, n, fun t _ => t.getS a)
  | .addc d a n => some (d, n, fun t v => v + t.getS a)
  | .rdcz d n => some (d, n, fun _ _ => 0)
  | _ => none

/-- Such a form acts on the register as it stands. -/
def ctrlRun (i : Instr) (s : State) : Out :=
  match ctrlParts i with
  | some (d, n, f) => ctrlForm d n.toNat (fun t => some (f t)) s
  | none => .next s

/-- `rdc` (R183). -/
def execRdc (d : SReg) (n : BitVec 12) (s : State) : Out := ctrlForm d n.toNat (fun _ => none) s
/-- `wrc` (R183), for every register whose word is not a row of its own. -/
def execWrc (a : SReg) (n : BitVec 12) (s : State) : Out := ctrlForm 0 n.toNat (fun t => some fun _ => t.getS a) s
/-- `setc` (R183). -/
def execSetc (d a : SReg) (n : BitVec 12) (s : State) : Out := ctrlRun (.setc d a n) s
/-- `clrc` (R183). -/
def execClrc (d a : SReg) (n : BitVec 12) (s : State) : Out := ctrlRun (.clrc d a n) s
/-- `xchc` (R183). -/
def execXchc (d a : SReg) (n : BitVec 12) (s : State) : Out := ctrlRun (.xchc d a n) s
/-- `addc` (R183). -/
def execAddc (d a : SReg) (n : BitVec 12) (s : State) : Out := ctrlRun (.addc d a n) s
/-- `rdcz` (R183). -/
def execRdcz (d : SReg) (n : BitVec 12) (s : State) : Out := ctrlRun (.rdcz d n) s

/-- `rdcr` (R183): a number that names no register raises the illegal-encoding trap when the group issues. -/
def execRdcr (d a : SReg) (s : State) : Out :=
  issue s fun t =>
    match s.readCtrl s.cur (s.cctx t) t ((t.getS a).fld 0 12) with
    | some v => .ok (s.setLive (t.setS d v))
    | none => .trap (s.trapHere t 0x01 0x05 0)

/-! ## The rows of single registers. A row without a word of its own takes the value from `State.on`, and the register's
index from `State.on.index`; `wrc` and the combined forms reach the same write. -/

/-- A write of register `n` by the live task. -/
def writeRow (n : Nat) (v : Task → W64) (s : State) : Out :=
  issue s fun t =>
    match s.writeCtrl t n (v t) with
    | .done s' => .ok s'
    | .wait w => .wait s w
    | .hold => Act.hold s

/-- `wrc c.vl` (R179). -/
def execWriteCVl (a : SReg) (s : State) : Out := writeRow 0x010 (·.getS a) s
/-- `wrc c.pri` (R180). -/
def execWriteCPri (a : SReg) (s : State) : Out := writeRow 0x011 (·.getS a) s
/-- A write of a tile shape (R219). -/
def execWriteCTdim (s : State) : Out := writeRow (s.on.index % 16) (fun _ => s.on.value) s
/-- A write of a region base (R82). -/
def execWriteCRgva (s : State) : Out := writeRow (0x030 + s.on.index % 16) (fun _ => s.on.value) s
/-- A write of a region locator (R82). -/
def execWriteCRgloc (s : State) : Out := writeRow (0x040 + s.on.index % 16) (fun _ => s.on.value) s
/-- A write of a ring descriptor (R141). -/
def execWriteCRngd (s : State) : Out := writeRow (0x050 + s.on.index % 16) (fun _ => s.on.value) s
/-- A write of the page-table base (R75). -/
def execWriteCPtbase (s : State) : Out := writeRow 0x022 (fun _ => s.on.value) s
/-- A write of the bucket count (R75). -/
def execWriteCPtlog (s : State) : Out := writeRow 0x023 (fun _ => s.on.value) s
/-- A write of the save-region count (R68). -/
def execWriteCNsave (s : State) : Out := writeRow 0x021 (fun _ => s.on.value) s
/-- A write of the queue region (R358). -/
def execWriteCQueue (s : State) : Out := writeRow 0x0E4 (fun _ => s.on.value) s
/-- A write of the deadlock area (R379). -/
def execWriteCWfdl (s : State) : Out := writeRow 0x101 (fun _ => s.on.value) s
/-- A write of the straggler bit (R316). -/
def execWriteCPstat (s : State) : Out := writeRow 0x0C2 (fun _ => s.on.value) s

end Sys2Proof.Machine
end

