-- ==== Sys2Proof/Machine/Window.lean ====
section
/-!
DEFINITION. Accesses to core windows (R70, R71, R86, R182) and to DRAM: what a physical address holds for an accessing context.
-/
namespace Sys2Proof.Machine

/-! ## What a window offset names (R69) -/

/-- The parts of a core window. -/
inductive Part where
  | loft | regs | ctrl | acc | bnd | macros | ucode
deriving DecidableEq, Repr, Inhabited

/-- The part of an offset, with the offset inside it; `none` is a gap or a reserved offset of the control page. -/
def partOf (o : Nat) : Option (Part × Nat) :=
  if o < 0x300000 then some (.loft, o)
  else if 0x800000 ≤ o ∧ o < 0xA00000 then some (.regs, o - 0x800000)
  else if 0xC00000 ≤ o ∧ o < 0xC00C00 then some (.ctrl, o - 0xC00000)
  else if 0x1000000 ≤ o ∧ o < 0x1040000 then some (.acc, o - 0x1000000)
  else if 0x1400000 ≤ o ∧ o < 0x1420000 then some (.bnd, o - 0x1400000)
  else if 0x2000000 ≤ o ∧ o < 0x2100000 then some (.macros, o - 0x2000000)
  else if 0x3000000 ≤ o ∧ o < 0x3010000 then some (.ucode, o - 0x3000000)
  else none

/-- The parts that move whole granules (R71). -/
def Part.whole : Part → Bool
  | .ctrl | .macros | .ucode => true
  | _ => false

/-- The resident task of a context that the window reaches: the running one, else the one in the lowest bank (R70, R182). -/
def Core.windowTask (c : Core) (x : BitVec 16) : Option (Fin 4 × Task) :=
  match c.banks[c.cbank] with
  | some t => if t.ctx = x then some (c.cbank, t) else c.tasks.find? (·.2.ctx == x)
  | none => c.tasks.find? (·.2.ctx == x)

/-- The save slot that the register bank offsets of a spilled context reach (R70): that of its task spilled first. -/
def Core.slotOf (c : Core) (x : BitVec 16) : Option Saved := c.saved.find? fun v => v.ctx == x && v.task.isSome

/-- A call of the core is outstanding: running or queued (R71, R285). -/
def Core.callsOutstanding (c : Core) : Bool := c.mx.running.isSome || c.tasks.any fun p => !p.2.calls.isEmpty

/-- The matrix unit may be reached by the context (R70). -/
def Core.unitOpen (c : Core) (x : BitVec 16) : Bool := c.mx.owner == some x

/-- The first reason of R70, R71 and R86 for which an access does not perform; `len` bytes at offset `o`, inside one granule. -/
def Core.windowRefuses (c : Core) (x : BitVec 16) (sup write : Bool) (o len : Nat) : Option Cause :=
  match partOf o with
  | none => some 0x09
  | some (p, a) =>
    if p.whole && (o % 64 != 0 || len != 64) then some 0x09
    else if p == .regs then (if c.hosts x || (c.slotOf x).isSome then none else some 0x0C)
    else if !c.hosts x then some 0x0C
    else
      match p with
      | .loft =>
        match c.cctx x with
        | none => some 0x0C
        | some k =>
          if k.psize < a + len then some 0x04
          else if !k.isResident (a / 64) && (!write || len != 64) then some 0x0D
          else none
      | .ucode => if write && !sup then some 0x11 else none
      | .ctrl => none
      | .macros =>
        if !c.unitOpen x then some 0x11
        else if (c.mx.macros[(Fin.ofNat 64 (a / 0x4000))]).compute then some 0x0E else none
      | _ => if c.unitOpen x then none else some 0x11

/-- A window write is held: a write of the microprogram store while a call is outstanding (R71). -/
def Core.windowHolds (c : Core) (o : Nat) : Bool :=
  match partOf o with
  | some (.ucode, _) => c.callsOutstanding
  | _ => false

/-- Bytes of the control page as the context's task reads them (R182). -/
def State.ctrlPage (s : State) (n : CoreId) (x : BitVec 16) (o len : Nat) : List Byte :=
  let c := s.core n
  match c.windowTask x, c.cctx x with
  | some (_, t), some k =>
    let words := (List.range ((o % 8 + len + 7) / 8)).flatMap fun i => leBytes 8 (((s.readCtrl n k t (o / 8 + i)).getD 0).toNat)
    (words.drop (o % 8)).take len
  | _, _ => zeroBytes len

/-- The bytes a window read delivers. -/
def State.windowBytes (s : State) (n : CoreId) (x : BitVec 16) (o len : Nat) : List Byte :=
  let c := s.core n
  match partOf o with
  | none => zeroBytes len
  | some (p, a) =>
    match p with
    | .loft => c.loft.read (((c.cctx x).getD (.missing x)).base + a) len
    | .regs =>
      match c.windowTask x, c.slotOf x with
      | some (_, t), _ => t.regs.v.read a len
      | none, some v => s.dev.dram.read (v.base + a) len
      | none, none => zeroBytes len
    | .ctrl => s.ctrlPage n x a len
    | .acc => c.mx.acc.read a len
    | .bnd => c.mx.bnd.read a len
    | .macros => c.mx.array.read a len
    | .ucode => c.mx.ucode.read a len

/-- Control registers written through the window: RS registers, from a supervisor context (R182). DEDUCED (log entry
127): the words of a granule are written in ascending order, each checked against what those before it left. -/
def State.writeCtrlPage (s : State) (n : CoreId) (x : BitVec 16) (sup : Bool) (a : Nat) : List (List Byte) → State
  | [] => s
  | w :: ws =>
    let s' :=
      if sup && ctrlAccess (a / 8) == some .rs then
        match (s.core n).windowTask x with
        | some (_, t) =>
          match ({ s with cur := n } : State).writeCtrl t (a / 8) (w64 (leNat w)) with
          | .done r => { r with cur := s.cur }
          | _ => s
        | none => s
      else s
    s'.writeCtrlPage n x sup (a + 8) ws

/-- Covered bytes of one loft granule written through the window: a whole granule of a region becomes resident and dirty
(R86), and the words are set full when the command asks for it (R137). -/
def Core.windowLoft (c : Core) (x : BitVec 16) (a : Nat) (cells : List (Nat × Byte)) (tags : Bool) : Core :=
  match c.cctx x with
  | none => c
  | some k =>
    let c := { c with loft := c.loft.put (cells.map fun p => (k.base + a + p.1, p.2)),
                      tags := if tags then c.tags.put (cells.map fun p => ((k.base + a + p.1) / 4, 1)) else c.tags }
    match k.regionOf (a / 64) with
    | some _ => if cells.length = 64 then c.modCtx x fun k => (k.arrive (a / 64)).soil (a / 64) else c
    | none => c

/-- The effect of a window write of covered bytes, given by their offsets from `o`; the checks have passed. -/
def State.windowPut (s : State) (n : CoreId) (x : BitVec 16) (sup : Bool) (o : Nat) (cells : List (Nat × Byte)) (tags : Bool) :
    State :=
  match partOf o with
  | none => s
  | some (p, a) =>
    let at_ := cells.map fun q => (a + q.1, q.2)
    match p with
    | .loft => s.modCore n fun c => c.windowLoft x a cells tags
    | .regs =>
      match (s.core n).windowTask x, (s.core n).slotOf x with
      | some (b, _), _ => s.modBank n b fun t => { t with regs := { t.regs with v := t.regs.v.put at_ } }
      | none, some v => s.modDev fun d => { d with dram := d.dram.put (at_.map fun q => (v.base + q.1, q.2)) }
      | none, none => s
    | .ctrl => s.writeCtrlPage n x sup a (chunks8 cells)
    | .acc => s.modCore n fun c => { c with mx := { c.mx with acc := c.mx.acc.put at_ } }
    | .bnd => s.modCore n fun c => { c with mx := { c.mx with bnd := c.mx.bnd.put at_ } }
    | .macros =>
      -- a storage-mode write sets DIRTY (R432)
      let m : Fin 64 := Fin.ofNat 64 (a / 0x4000)
      s.modCore n fun c =>
        { c with mx := { c.mx with array := c.mx.array.put at_,
                                   macros := c.mx.macros.set m { c.mx.macros[m] with
                                     dirty := true,
                                     parity := c.mx.macros[m].parity &&& ~~~((bif cells.length == 64 then 1#256 else 0#256) <<< (a % 0x4000 / 64)) } } }
    | .ucode => s.modCore n fun c => { c with mx := { c.mx with ucode := c.mx.ucode.put at_ } }
where
  /-- The eight words of a whole granule. -/
  chunks8 (cells : List (Nat × Byte)) : List (List Byte) :=
    (List.range 8).map fun i => (List.range 8).map fun j => (cells.lookup (i * 8 + j)).getD 0

/-! ## Physical accesses -/

/-- A physical access of a context: what it meets. -/
inductive Met where
  | ok
  | fail (c : Cause)
  | held
deriving DecidableEq, Repr, Inhabited

/-- The context's supervisor attribute, as the core that issues for it holds it. -/
def State.supOf (s : State) (n : CoreId) (x : BitVec 16) : Bool := (s.ctxOn n x).sup

/-- Whether `len` bytes at a physical address, inside one granule, can be accessed by a context (R65, R70, R71, R78). -/
def State.physMeets (s : State) (x : BitVec 16) (sup write : Bool) (pa len : Nat) : Met :=
  match placeOf pa with
  | .reserved => .fail 0x09
  | .dram _ _ => if s.retired pa then .fail 0x0B else .ok
  | .window n o =>
    match (s.core n).windowRefuses x sup write o len with
    | some c => .fail c
    | none => if write && (s.core n).windowHolds o then .held else .ok

/-- Bytes at a physical address. -/
def State.physRead (s : State) (x : BitVec 16) (pa len : Nat) : List Byte :=
  match placeOf pa with
  | .window n o => s.windowBytes n x o len
  | _ => s.dev.dram.read pa len

/-- Covered bytes of a granule written at a physical address, by their offsets from `pa`. -/
def State.physPut (s : State) (x : BitVec 16) (sup : Bool) (pa : Nat) (cells : List (Nat × Byte)) (tags : Bool) : State :=
  match placeOf pa with
  | .window n o => s.windowPut n x sup o cells tags
  | _ => s.modDev fun d => { d with dram := d.dram.put (cells.map fun p => (pa + p.1, p.2)) }

/-- A physical address is local to a core: its own window or its own slice (R112). -/
def localTo (n : CoreId) (pa : Nat) : Bool := homeOf pa == some n

end Sys2Proof.Machine
end

