-- ==== Sys2Proof/Machine/Edges.lean ====
section
/-!
DEFINITION. Owners of wait edges (R373): which task or command an edge names, and the search that every change of an owner runs
(R375, R376). Also effective priorities (R374).
-/
namespace Sys2Proof.Machine

/-- Every command of a core: of its map unit and of its tasks, resident or saved. -/
def Core.allCmds (c : Core) : List Cmd :=
  c.mapCmds ++ ((c.tasks.map (·.2) ++ c.saved.filterMap (·.task)).flatMap Task.cmds)

/-- The oldest of several commands; among equals of different engines the first listed. -/
def oldestCmd (ks : List Cmd) : Option Cmd :=
  ks.foldl (fun o k => match o with | some m => if k.age < m.age then some k else o | none => some k) none

/-- Every task of the device with its core, resident or saved. -/
def State.everyTask (s : State) : List (CoreId × Task) :=
  allCores.flatMap fun n => ((s.core n).tasks.map (·.2) ++ (s.core n).saved.filterMap (·.task)).map fun t => (n, t)

/-- A task changed wherever it stands, resident or saved. -/
def State.modAnywhere (s : State) (tid : BitVec 16) (f : Task → Task) : State :=
  let fix (t : Task) : Task := if t.tid == tid then f t else t
  { s with cores := s.cores.map fun c =>
      { c with banks := c.banks.map fun (b : Option Task) => b.map fix,
               saved := c.saved.map fun v => { v with task := v.task.map fix } } }

/-- The outstanding commands of every core. -/
def State.commands (s : State) : List (CoreId × Cmd) :=
  allCores.flatMap fun n => ((s.core n).allCmds.filter (·.status != .building)).map fun k => (n, k)

/-- The outstanding commands of a context on every core. -/
def State.commandsOf (s : State) (x : BitVec 16) : List (CoreId × Cmd) := s.commands.filter (·.2.ctx == x)

/-- The core holds an outstanding call or `mtacc` of a task under a handle. -/
def Core.callOut (c : Core) (tid : BitVec 16) (h : BitVec 32) : Bool :=
  c.mx.running.any (fun k => k.tid == tid && k.handle == h) || c.mx.mtaccs.any (fun m => m.tid == tid && m.handle == h) ||
    (c.tasks.map (·.2) ++ c.saved.filterMap (·.task)).any fun t => t.tid == tid && t.calls.any (·.handle == h)

/-- The command or call that an edge names has neither completed nor been aborted. -/
def State.atWork (s : State) (h : BitVec 32) (i : Option (BitVec 16)) : Bool :=
  s.commands.any (fun q => q.2.handle == h) || match i with
    | some tid => allCores.any fun n => (s.core n).callOut tid h
    | none => false

/-- A loft offset or a core-window address of a barrier, as the identity of R370. -/
def barrierObj (n : CoreId) (b : W64) : Nat :=
  let a := b.toNat % 2 ^ 56
  if a < 0x300000 then windowBase n + a else a % 2 ^ 48

/-- The identity of a stamp's word: its physical address, when it has one. -/
def State.stampObj (s : State) (n : CoreId) (k : Cmd) : Option Nat :=
  (s.translateDirect (s.ctxOn n k.ctx).asn k.stampAddr.toNat true).toOption

/-- Two entries name one object: CTX counts for a loft word alone (R370) and for an explicit object. -/
def WfEntry.sameObj (e f : WfEntry) : Bool :=
  e.okind == f.okind && e.obj == f.obj &&
    (e.ctx == f.ctx || (e.okind == 0x02 && (match placeOf e.obj.toNat with | .window _ _ => false | _ => true)))

/-- The task that a lock word names, when it is live. -/
def State.lockHolder (s : State) (e : WfEntry) : WfOwner :=
  let w := leNat (s.physRead e.ctx e.obj.toNat 8)
  match s.everyTask.find? fun p => p.2.tid.toNat == bits w 0 16 && p.2.ctx.toNat == bits w 16 16 with
  | some p => .task p.2.tid
  | none => .unknown

/-- The owner of the oldest command of a list that satisfies a test. -/
def oldestOwner (ks : List (CoreId × Cmd)) (p : CoreId → Cmd → Bool) : WfOwner :=
  match oldestCmd ((ks.filter fun q => p q.1 q.2).map (·.2)) with
  | some k => k.wfOwner
  | none => .unknown

/-- The owner that an edge has, for as long as it is outstanding: a command or call, or the task of a replay or an `rgsync` that holds entries of the
edge's core. -/
def State.ownerStands (s : State) (e : WfEntry) : WfOwner :=
  match e.owner with
  | .cmd h i => if s.atWork h i then e.owner else .unknown
  | .task u => if (s.core e.core).sb.any fun x => s.sbOwner e.core e.tid x.owner == .task u then e.owner else .unknown
  | .unknown => .unknown

/-- The owner of an edge whose registering rule names none (R373, steps 2 to 7), or whose rule names one by what stands now (R142, R147); another
edge keeps its own. -/
def State.ownerOf (s : State) (e : WfEntry) : WfOwner :=
  let record := s.dev.wf.find? fun f => f.record && f.sameObj e
  match e.okind.toNat with
  | 0x01 => oldestOwner (s.commandsOf e.ctx) fun n k => k.barrier != 0 && barrierObj n k.barrier == e.obj.toNat
  | 0x02 => match record with | some r => .task r.tid | none => s.lockHolder e
  | 0x04 => oldestOwner s.commands fun n k => k.stamped && s.stampObj n k == some e.obj.toNat
  | 0x05 =>
    match (s.core e.core).waitq.find? (fun w => w.ring && w.owner == .task e.tid && w.inner == e.inner), (s.core e.core).cctx e.ctx with
    | some w, some k => s.ringOwner e.core k.rings[(Fin.ofNat 16 w.obj)] w.dir e.tid
    | _, _ => s.ownerStands e
  | 0x08 => s.boardOwner e.core e.ctx e.tid
  | 0x11 => match record with | some r => .task r.tid | none => .unknown
  | _ => s.ownerStands e

/-- The owner of an edge that a task is about to register. -/
def State.newOwner (s : State) (t : Task) (okind : BitVec 5) (obj : Nat) : WfOwner :=
  s.ownerOf { idx := 0, record := false, expl := false, okind := okind, obj := BitVec.ofNat 48 obj, tid := t.tid, ctx := t.ctx,
              core := s.cur, owner := .unknown }

/-- A cycle found on an owner change: the changed edge is removed, the record is written at detection, and the waiter takes the trap
when it next issues, in its handler for an edge of its handler, and else out of it (R376, R437). -/
def State.pendDeadlock (s : State) (e : WfEntry) (path : List WfEntry) : State :=
  let s := s.modDev (·.release (·.idx == e.idx))
  match s.everyTask.find? fun p => p.2.tid == e.tid with
  | none => s
  | some (n, t) =>
    let r := ({ s with cur := n } : State).writeDeadlock t path
    let slot := match t.waiting with | some w => w.slot | none => t.slot
    let c : Trap := { cls := 0x04, slot := slot, info := w64b r.2 }
    ({ r.1 with cur := s.cur } : State).modAnywhere e.tid fun t => { t with pendDeadlock := some (e.inner, c) }

/-- The owner of an edge is set anew: when it changes, the search of R375 runs. -/
def State.rewireEdge (s : State) (e : WfEntry) : State :=
  let o := s.ownerOf e
  if o = e.owner then s
  else
    let e' := { e with owner := o }
    let s := s.modDev fun d => { d with wf := d.wf.map fun x => if x.idx == e.idx then e' else x }
    match s.search e' with
    | .none => s
    | .deep => s.modCore e.core fun c => c.modCtxAny e.ctx fun k => { k with deep := sat32 k.deep }
    | .cycle p => s.pendDeadlock e' p

/-- Every wait edge names the owner that R373 gives it now, oldest edge first. -/
def State.rewire (s : State) : State :=
  (s.dev.wf.filter (!·.record)).foldl (fun s e => if s.dev.wf.contains e then s.rewireEdge e else s) s

/-- The edges that a task owned lose their owner (R372). -/
def State.disown (s : State) (tid : BitVec 16) : State :=
  s.modDev fun d => { d with wf := d.wf.map fun e => if !e.record && e.ownerTask == some tid then { e with owner := .unknown } else e }

/-! ## Effective priority (R374) -/

/-- One round: each task receives the priorities of the waiters of its own context that it owns. -/
def effRound (edges : List WfEntry) (ps : List (BitVec 16 × BitVec 16 × Nat)) : List (BitVec 16 × BitVec 16 × Nat) :=
  ps.map fun p =>
    (p.1, p.2.1, (edges.filter fun e => e.ownerTask == some p.1 && e.ctx == p.2.1).foldl (fun m e =>
      match ps.find? (fun q => q.1 == e.tid && q.2.1 == e.ctx) with
      | some q => Max.max m q.2.2
      | none => m) p.2.2)

/-- Rounds over chains of at most 64 edges. -/
def effRounds (edges : List WfEntry) : Nat → List (BitVec 16 × BitVec 16 × Nat) → List (BitVec 16 × BitVec 16 × Nat)
  | 0, ps => ps
  | n + 1, ps => effRounds edges n (effRound edges ps)

/-- EFF of every task, from the table and the BASEs. -/
def State.recomputeEff (s : State) : State :=
  let ps := effRounds (s.dev.wf.filter (!·.record)) 64 (s.everyTask.map fun p => (p.2.tid, p.2.ctx, p.2.ctl.base.val))
  ps.foldl (fun s p => s.modAnywhere p.1 fun t => { t with ctl := { t.ctl with eff := Fin.ofNat 8 p.2.2 } }) s

end Sys2Proof.Machine
end

