-- ==== Sys2Proof/Machine/Meter.lean ====
section
/-!
DEFINITION. Meter sets (R480 to R483): saturating counters per context on a core, and energy from fixed coefficients.
-/
namespace Sys2Proof.Machine

/-- Saturating 64-bit count. -/
def satCount (n : Nat) : Nat := Min.min n (2 ^ 64 - 1)

/-- A counter advances. -/
def CoreCtx.count (k : CoreCtx) (i : Fin 8) (n : Nat) : CoreCtx :=
  { k with meters := k.meters.set i (satCount (k.meters[i] + n)) }

/-- Energy in tenths of a femtojoule, to which the coefficients of R257 are exact: whole picojoules go to ENERGY, the rest stays in the residue (R482). -/
def CoreCtx.energy (k : CoreCtx) (tenths : Nat) : CoreCtx :=
  let r := k.residue + tenths
  { k.count 6 (r / 10000) with residue := r % 10000 }

/-- The counters of a context stand still on a core while its tasks there are frozen, switched out or spilled (R481); a freeze handler counts
(R436). -/
def Core.metered (c : Core) (x : BitVec 16) : Bool :=
  let ts := ((c.tasks.map (·.2)) ++ c.saved.filterMap (·.task)).filter (·.ctx == x)
  ts.isEmpty || ts.any fun t => t.hold == .none || t.hold == .handler

/-- A context's counter on a core advances, with its energy in tenths of a femtojoule. -/
def State.charge (s : State) (n : CoreId) (x : BitVec 16) (i : Fin 8) (amount tenths : Nat) : State :=
  s.modCore n fun c => if c.metered x then c.modCtx x fun k => (k.count i amount).energy tenths else c

/-- VTIME: 580 pJ per core cycle. -/
def State.chargeVector (s : State) (n : CoreId) (x : BitVec 16) (cycles : Nat) : State := s.charge n x 1 cycles (cycles * 5800000)
/-- RUN: 400 pJ per core cycle. -/
def State.chargeRun (s : State) (n : CoreId) (x : BitVec 16) (cycles : Nat) : State := s.charge n x 2 cycles (cycles * 4000000)
/-- CPYL or CPYF: destination bytes of a local or a non-local granule, 0.5 or 5 pJ per byte. -/
def State.chargeCopy (s : State) (n : CoreId) (x : BitVec 16) (isLocal : Bool) (bytes : Nat) : State :=
  if isLocal then s.charge n x 3 bytes (bytes * 5000) else s.charge n x 4 bytes (bytes * 50000)
/-- DRAMB: bytes through a vertical port, 3 pJ per byte. -/
def State.chargeDram (s : State) (n : CoreId) (x : BitVec 16) (bytes : Nat) : State := s.charge n x 5 bytes (bytes * 30000)
/-- A read of DRAM: its first beat gives the latency monitor of the slice's die a sample, a free value (R66, R487). -/
def State.readBeat (s : State) (pa : Nat) : State :=
  match placeOf pa with
  | .dram n _ => { s with free := s.free + 1, dev := s.dev.sample (dieOf n) 2 (Config.value s.free) }
  | _ => s
/-- WAITC: core cycles with a wait-for edge registered. -/
def State.chargeWait (s : State) (n : CoreId) (x : BitVec 16) (cycles : Nat) : State := s.charge n x 7 cycles 0

/-- A fold adds each counter minus its last-folded copy to the meter page, saturating, and renews the copy; the page also
records `c.phase` (R483). Without a page the fold is discarded (R486). -/
def State.fold (s : State) (n : CoreId) (x : BitVec 16) : State :=
  match (s.core n).cctx x with
  | none => s
  | some k =>
    let page := (s.ctxField x 6).toNat
    let s := s.modCore n fun c => c.modCtx x fun k => { k with folded := k.meters }
    if page = 0 then s
    else
      let sums := (List.finRange 8).flatMap fun i =>
        leBytes 8 (satCount ((s.dramW (page + 8 * i.val)).toNat + (k.meters[i] - k.folded[i])))
      s.writeDram page (sums ++ leBytes 8 s.dev.phase.toNat ++ zeroBytes 184)

/-- Every core folds every set it keeps (R483). -/
def State.foldAll (s : State) : State :=
  allCores.foldl (fun s n => (s.core n).ctxs.foldl (fun s k => s.fold n k.ctx) s) s

end Sys2Proof.Machine
end

