-- ==== Sys2Proof/Machine/Blocks.lean ====
section
/-!
DEFINITION. Self-describing blocks (R24 to R28), block quantisation (R29), the block Hadamard rotation (R30, R31) and the CB2
codebook (R32 to R34).
-/
namespace Sys2Proof.Machine

/-! ## Blocks -/

/-- Elements per block of a format, in weights for CB2 (R25); 0 for ZERO and reserved formats. -/
def blkCount (fmt : Nat) : Nat :=
  match fmt with
  | 1 => 124 | 2 => 62 | 3 => 31 | 4 => 62 | 5 => 62 | 6 => 31 | 7 => 31 | 8 => 15 | 9 => 248 | _ => 0

/-- Bytes of one element of the formats whose elements are whole bytes (R25). -/
def blkWidth (fmt : Nat) : Nat :=
  match fmt with
  | 3 | 6 | 7 => 2 | 8 => 4 | _ => 1

/-- FMT of a block. -/
def blkFmt (blk : List Byte) : Nat := (blk.getD 0 0).toNat % 64
/-- ROT of a block. -/
def blkRot (blk : List Byte) : Nat := (blk.getD 0 0).toNat / 64
/-- The scale exponent S of a block. -/
def blkScale (blk : List Byte) : Int := (blk.getD 1 0).toInt

/-- Malformed blocks (R28). -/
def blkMalformed (blk : List Byte) : Bool :=
  9 < blkFmt blk || (blkFmt blk == 0 && blkRot blk != 0) || blk.getD 1 0 == 0x80

/-- The list cut into runs of `w`, the last one short. -/
def chunks {α : Type} (w : Nat) : Nat → List α → List (List α)
  | 0, _ => []
  | n + 1, l => l.take w :: chunks w n (l.drop w)

/-- The list cut into ⌈length / w⌉ runs of `w`. -/
def cut {α : Type} (w : Nat) (l : List α) : List (List α) := chunks w ((l.length + w - 1) / w) l

/-- The raw elements of a block in order, packed as R26 states; the indices of a CB2 block. -/
def blkRaw (blk : List Byte) : List Nat :=
  let pay := blk.drop 2
  match blkFmt blk with
  | 0 => []
  | 1 => (pay.take 62).flatMap fun b => [b.toNat % 16, b.toNat / 16]
  | 9 => (chunks 2 31 pay).map leNat
  | f => (chunks (blkWidth f) (blkCount f) pay).map leNat

/-- The value an element of FMT 1 … 8 decodes to before scaling, and whether a subnormal was flushed (R27). -/
def blkElem (fmt raw : Nat) : Ex × Bool :=
  match fmt with
  | 1 => (.ofInt (intOf true 4 raw), false)
  | 2 => (.ofInt (intOf true 8 raw), false)
  | 3 => (.ofInt (intOf true 16 raw), false)
  | 4 => FFmt.e4m3.read raw
  | 5 => FFmt.e5m2.read raw
  | 6 => FFmt.f16.read raw
  | 7 => FFmt.bf16.read raw
  | _ => FFmt.f32.read raw

/-- The eight half-unit weights h of a CB2 index, with the code-table row it names (R32). -/
def cbHalves (row : Nat → Nat) (idx : Nat) : List Int :=
  let m := row (idx % 256)
  let half := bits idx 15 1
  let sgn (i : Nat) : Bool :=
    if i < 7 then bits idx (8 + i) 1 == 1 else ((List.range 7).filter fun j => bits idx (8 + j) 1 == 1).length % 2 == 1
  (List.range 8).map fun i =>
    let k : Int := bits m (4 * i) 4
    (if sgn i then -k else k) + (half : Int)

/-- The elements a well-formed block other than ZERO yields, each multiplied by its scale (R27, R32). -/
def blkValues (row : Nat → Nat) (blk : List Byte) : List (Ex × Bool) :=
  let s := blkScale blk
  match blkFmt blk with
  | 9 => (blkRaw blk).flatMap fun i => (cbHalves row i).map fun h => (Ex.scaled h (s - 1), false)
  | f => (blkRaw blk).map fun r => let (x, fl) := blkElem f r; (x.scale s, fl)

/-! ## Quantisation (R29) -/

/-- P of R29: the largest finite magnitude of the integer and FP8 formats; 0 for the formats rounded alone. -/
def blkPeak (fmt : Nat) : Nat :=
  match fmt with
  | 1 => 7 | 2 => 127 | 3 => 32767 | 4 => 448 | 5 => 57344 | _ => 0

/-- The larger of two magnitudes. -/
def Ex.maxAbs (x y : Ex) : Ex :=
  if !y.isFin then x else if x.cmp y.abs = .lt then y.abs else x

/-- The largest magnitude among the finite values (R29 step 2). -/
def largestFinite (xs : List Ex) : Ex := xs.foldl Ex.maxAbs (.zero false)

/-- The scale of a group (R29 step 4). -/
def blkScaleOf (fmt : Nat) (xs : List Ex) : Int :=
  match largestFinite xs with
  | .fin _ n e _ =>
    if n = 0 ∨ blkPeak fmt = 0 then 0 else max (-127) (Min.min 127 (ceilLog2Ratio n e (blkPeak fmt)))
  | _ => 0

/-- The sign of a value. -/
def Ex.isNeg : Ex → Bool
  | .nan => false
  | .inf s => s
  | .fin s _ _ _ => s

/-- One element in the format of a block (R29 step 5): in the integer and FP8 formats a value beyond P saturates to ±P and a
NaN is invalid; the other formats round alone. -/
def blkEncode (fmt : Nat) (s : Int) (rm : RM) (x : Ex) : Nat × Cond :=
  let y := x.scale (-s)
  let past : Cond := { overflow := true, inexact := true }
  let int (n : Nat) : Nat × Cond :=
    let p : Int := blkPeak fmt
    match y with
    | .nan => (0, .inv)
    | .inf neg => (bitsOfInt n (if neg then -p else p), past)
    | _ =>
      let (i, c) := roundI y true n rm
      if p < i then (bitsOfInt n p, past) else if i < -p then (bitsOfInt n (-p), past) else (bitsOfInt n i, c)
  let fp8 (f : FFmt) : Nat × Cond :=
    match y with
    | .nan => (f.nan, .inv)
    | .inf neg => (f.sgn neg + f.maxFin, past)
    | _ =>
      let (v, c) := roundF y f rm
      if c.overflow then (f.sgn y.isNeg + f.maxFin, past) else (v, c)
  match fmt with
  | 1 => int 4
  | 2 => int 8
  | 3 => int 16
  | 4 => fp8 .e4m3
  | 5 => fp8 .e5m2
  | 6 => roundF x .f16 rm
  | 7 => roundF x .bf16 rm
  | _ => roundF x .f32 rm

/-- The payload bytes of raw elements (R26). -/
def blkPack (fmt : Nat) (es : List Nat) : List Byte :=
  if fmt = 1 then (cut 2 es).map fun p => BitVec.ofNat 8 (p.getD 0 0 % 16 + 16 * (p.getD 1 0 % 16))
  else es.flatMap (leBytes (blkWidth fmt))

/-- A block of up to `blkCount fmt` values, completed with zeros, with its ROT field (R24, R26, R29). -/
def quantise (fmt rot : Nat) (rm : RM) (xs : List Ex) : List Byte × Cond :=
  let n := blkCount fmt
  let ys := (xs ++ List.replicate (n - xs.length) (Ex.zero false)).take n
  let s := blkScaleOf fmt ys
  let rs := ys.map (blkEncode fmt s rm)
  let pay := blkPack fmt (rs.map (·.1))
  (([BitVec.ofNat 8 (rot * 64 + fmt), BitVec.ofInt 8 s] ++ pay ++ List.replicate 62 0).take 64,
    rs.foldl (fun c r => c.or r.2) .none)

/-! ## Rotation (R30, R31) -/

/-- An FP32 operation on two FP32 encodings. -/
def f32Op (f : Ex → Ex → Ex × Bool) (a b : Nat) : Nat × Cond :=
  let (x, fx) := FFmt.f32.read a
  let (y, fy) := FFmt.f32.read b
  let (z, inv) := f x y
  let (r, c) := roundF z .f32 .rne
  (r, c.or { invalid := inv, flush := fx || fy })

/-- p + q in FP32. -/
def f32Add (a b : Nat) : Nat × Cond := f32Op (fun x y => x.add y .rne) a b
/-- p − q in FP32. -/
def f32Sub (a b : Nat) : Nat × Cond := f32Op (fun x y => x.add y.neg .rne) a b
/-- p × q in FP32. -/
def f32Mul (a b : Nat) : Nat × Cond := f32Op Ex.mul a b

/-- One butterfly stage of span `h`. -/
def hadStage (h : Nat) (a : List Nat) : List (Nat × Cond) :=
  (List.range a.length).map fun i =>
    if i / h % 2 = 0 then f32Add (a.getD i 0) (a.getD (i + h) 0) else f32Sub (a.getD (i - h) 0) (a.getD i 0)

/-- The butterfly stages in ascending span. -/
def hadStages : List Nat → List Nat → Cond → List Nat × Cond
  | [], a, c => (a, c)
  | h :: hs, a, c =>
    let r := hadStage h a
    hadStages hs (r.map (·.1)) (r.foldl (fun c p => c.or p.2) c)

/-- Rotation codes to group sizes (R24). -/
def rotSize (code : Nat) : Nat := match code with | 1 => 16 | 2 => 32 | 3 => 64 | _ => 1

/-- c_n of R30 as FP32. -/
def hadConst (n : Nat) : Nat := match n with | 16 => 0x3E800000 | 32 => 0x3E3504F3 | _ => 0x3E000000

/-- The rotation of `n` values, given as FP32 encodings (R30). -/
def hadamard (n : Nat) (xs : List Nat) : List Nat × Cond :=
  let spans := [1, 2, 4, 8, 16, 32].filter (· < n)
  let (a, c) := hadStages spans xs .none
  let r := a.map fun v => f32Mul v (hadConst n)
  (r.map (·.1), r.foldl (fun c p => c.or p.2) c)

/-- A run of values rotated in groups of `n`, the last group completed with zeros (R31): FP32 encodings. -/
def rotate (n : Nat) (xs : List Ex) : List Nat × Cond :=
  let gs := (cut n xs).map fun g =>
    let r := g.map fun x => roundF x .f32 .rne
    let (y, c) := hadamard n (r.map (·.1) ++ List.replicate (n - g.length) 0)
    (y.take g.length, r.foldl (fun (k : Cond) (p : Nat × Cond) => k.or p.2) c)
  (gs.flatMap (·.1), gs.foldl (fun (k : Cond) (g : List Nat × Cond) => k.or g.2) .none)

end Sys2Proof.Machine
end

