-- ==== Sys2Proof/Machine/Flags.lean ====
section
/-!
DEFINITION. Every place where a condition of R19 is kept: `c.vflags` (R194), the sticky flags of a copy engine (R107), and
the sticky status bits of `c.mflags` (R275, R283).
-/
namespace Sys2Proof.Machine

/-- The conditions as the four bits INX, FLU, OVF, INV (R194). -/
def Cond.bits (c : Cond) : BitVec 4 :=
  BitVec.ofNat 4 (bit c.inexact * 8 + bit c.flush * 4 + bit c.overflow * 2 + bit c.invalid)

/-- Conditions of vector lanes are added to `c.vflags`; they are sticky (R194, R195). -/
def Task.raise (t : Task) (c : Cond) : Task :=
  { t with ctl := { t.ctl with vflags := t.ctl.vflags ||| c.bits } }

/-- Conditions of a list of results, accumulated. -/
def condsOf (rs : List (Nat × Cond)) : Cond := rs.foldl (fun c r => c.or r.2) .none

/-- Conditions that a command raises are added to its engine's sticky flags, in bits [3:0]. -/
def EngSlot.raise (e : EngSlot) (c : Cond) : EngSlot := { e with flags := e.flags ||| c.bits.setWidth 6 }

/-- The bits of a status word that `c.mflags` keeps: ERR and [54:46] (R275, R283). -/
def mflagsOf (status : W64) : W64 := status &&& 0x407FC00000000000

/-- The sticky bits of a completed call are added to `c.mflags`. -/
def Task.raiseM (t : Task) (status : W64) : Task :=
  { t with ctl := { t.ctl with mflags := t.ctl.mflags ||| mflagsOf status } }

end Sys2Proof.Machine
end

