-- ==== Sys2Proof/Machine/Vector.lean ====
section
/-!
DEFINITION. The vector unit (R191 to R216): element-wise operations over the elements below n, masks, conversions, blocks,
rotation, permutation, and the fixed-order reductions and scans.
-/
namespace Sys2Proof.Machine

/-! ## Elements (R191, R192) -/

/-- n of R191: the elements processed at a governing width of `w` bytes. -/
def Task.vlen (t : Task) (w : Nat) : Nat := Min.min t.ctl.vl.toNat (16384 / w)

/-- The first `n` elements of width `w` of a vector register. -/
def Task.elems (t : Task) (r : VReg) (w n : Nat) : List Nat :=
  let m := t.regs.v.slice (r.val * 0x4000) (n * w)
  (List.range n).map fun k => m.num (k * w) w

/-- Elements of width `w` written from element 0 on; the elements above them are unchanged. -/
def Task.putElems (t : Task) (r : VReg) (w : Nat) (vs : List Nat) : Task := t.setVBytes r (vs.flatMap (leBytes w))

/-- The results of lanes written, with their conditions. -/
def Task.putResults (t : Task) (r : VReg) (w : Nat) (rs : List (Nat × Cond)) : Task :=
  (t.putElems r w (rs.map (·.1))).raise (condsOf rs)

/-- A lane-wise operation of two sources of width `w`. -/
def vec2 (w : Nat) (f : Nat → Nat → Nat × Cond) (d a b : VReg) (s : State) : Out :=
  onTask s fun t =>
    let n := t.vlen w
    t.putResults d w (List.zipWith f (t.elems a w n) (t.elems b w n))

/-- A lane-wise operation of one source under a mask: an inactive lane keeps its element and raises nothing (R192). -/
def vec1m (w : Nat) (f : Nat → Nat × Cond) (d a : VReg) (k : KReg) (s : State) : Out :=
  onTask s fun t =>
    let n := t.vlen w
    let m := t.getK k
    let lane (p : Nat × Nat × Nat) : Nat × Cond := if maskBit m p.1 then f p.2.1 else (p.2.2, .none)
    t.putResults d w (((List.range n).zip ((t.elems a w n).zip (t.elems d w n))).map lane)

/-! ## Integer forms (R199) -/

/-- An integer operation on the values of type `ty`. -/
def vint (f : Int → Int → Int) (d a b : VReg) (ty : Fin 16) (s : State) : Out :=
  let w := tyWidth ty
  let g := tySigned ty
  vec2 w (fun x y => (bitsOfInt (8 * w) (f (intOf g (8 * w) x) (intOf g (8 * w) y)), .none)) d a b s

/-- A saturating integer operation: OVF when clamped (R19). -/
def vsat (f : Int → Int → Int) (d a b : VReg) (ty : Fin 16) (s : State) : Out :=
  let w := tyWidth ty
  let g := tySigned ty
  vec2 w (fun x y =>
    let r := f (intOf g (8 * w) x) (intOf g (8 * w) y)
    let c := satInt g (8 * w) r
    (bitsOfInt (8 * w) c, { overflow := c != r })) d a b s

/-- A bitwise operation. -/
def vbits (f : Nat → Nat → Nat) (d a b : VReg) (ty : Fin 16) (s : State) : Out :=
  vec2 (tyWidth ty) (fun x y => (f x y, .none)) d a b s

/-- A shift left of `w` bytes by an amount that is not reduced. -/
def vsllBits (w x s : Nat) : Nat := if 8 * w ≤ s then 0 else x * 2 ^ s % 2 ^ (8 * w)
/-- A shift right: arithmetic and clamped for a signed type, logical otherwise. -/
def vsrBits (signed : Bool) (w x s : Nat) : Nat :=
  if signed then bitsOfInt (8 * w) (intOf true (8 * w) x / 2 ^ Min.min s (8 * w - 1))
  else if 8 * w ≤ s then 0 else x / 2 ^ s

/-- `vadd` (R199). -/
def execVadd (d a b : VReg) (t : Fin 16) (s : State) : Out := vint (· + ·) d a b t s
/-- `vadds` (R199). -/
def execVadds (d a b : VReg) (t : Fin 16) (s : State) : Out := vsat (· + ·) d a b t s
/-- `vsub` (R199). -/
def execVsub (d a b : VReg) (t : Fin 16) (s : State) : Out := vint (· - ·) d a b t s
/-- `vsubs` (R199). -/
def execVsubs (d a b : VReg) (t : Fin 16) (s : State) : Out := vsat (· - ·) d a b t s
/-- `vmul` (R199). -/
def execVmul (d a b : VReg) (t : Fin 16) (s : State) : Out := vint (· * ·) d a b t s
/-- `vmulh` (R199). -/
def execVmulh (d a b : VReg) (t : Fin 16) (s : State) : Out := vint (fun x y => x * y / 2 ^ (8 * tyWidth t)) d a b t s
/-- `vmin` (R199). -/
def execVmin (d a b : VReg) (t : Fin 16) (s : State) : Out := vint (fun x y => if x ≤ y then x else y) d a b t s
/-- `vmax` (R199). -/
def execVmax (d a b : VReg) (t : Fin 16) (s : State) : Out := vint (fun x y => if x ≤ y then y else x) d a b t s
/-- `vand` (R199). -/
def execVand (d a b : VReg) (t : Fin 16) (s : State) : Out := vbits (· &&& ·) d a b t s
/-- `vor` (R199). -/
def execVor (d a b : VReg) (t : Fin 16) (s : State) : Out := vbits (· ||| ·) d a b t s
/-- `vxor` (R199). -/
def execVxor (d a b : VReg) (t : Fin 16) (s : State) : Out := vbits (· ^^^ ·) d a b t s
/-- `vsll` (R199). -/
def execVsll (d a b : VReg) (t : Fin 16) (s : State) : Out := vbits (vsllBits (tyWidth t)) d a b t s
/-- `vsr` (R199). -/
def execVsr (d a b : VReg) (t : Fin 16) (s : State) : Out := vbits (vsrBits (tySigned t) (tyWidth t)) d a b t s

/-- A comparison condition of R200 applied to an ordering. -/
def condHolds (c : Fin 4) (o : Ordering) : Bool :=
  match c with
  | 0 => o == .eq
  | 1 => o != .eq
  | 2 => o == .lt
  | 3 => o != .gt

/-- Mask results: bits at and above n are zero (R200). -/
def Task.putMask (t : Task) (k : KReg) (bs : List Bool) : Task := t.setK k (maskOf bs.length fun j => bs.getD j false)

/-- `vcmp` (R200). -/
def execVcmp (c : Fin 4) (k : KReg) (a b : VReg) (ty : Fin 16) (s : State) : Out :=
  onTask s fun t =>
    let w := tyWidth ty
    let n := t.vlen w
    let v (x : Nat) : Int := intOf (tySigned ty) (8 * w) x
    t.putMask k (List.zipWith (fun x y => condHolds c (compare (v x) (v y))) (t.elems a w n) (t.elems b w n))

/-- `vsplat` (R199). -/
def execVsplat (d : VReg) (a : SReg) (ty : Fin 16) (s : State) : Out :=
  onTask s fun t =>
    let w := tyWidth ty
    t.putElems d w (List.replicate (t.vlen w) ((t.getS a).toNat % 2 ^ (8 * w)))

/-- `vmvs` (R201): element i, sign- or zero-extended, and 0 at and beyond n. -/
def execVmvs (d : SReg) (a : VReg) (b : SReg) (ty : Fin 16) (s : State) : Out :=
  onTask s fun t =>
    let w := tyWidth ty
    let i := (t.getS b).toNat
    t.setS d (if i < t.vlen w then (if tySigned ty then signExt (8 * w) (t.getV a w i) else w64 (t.getV a w i)) else 0)

/-! ## Floating-point forms (R202) -/

/-- The byte width of a format. -/
def FFmt.bytes (f : FFmt) : Nat := f.width / 8

/-- An operation on two operands read under R15, its undefined cases invalid, rounded to `f`. -/
def fop2 (f : FFmt) (rm : RM) (op : Ex → Ex → Ex × Bool) (x y : Nat) : Nat × Cond :=
  let (a, fa) := f.read x
  let (b, fb) := f.read y
  let (z, inv) := op a b
  let (r, c) := roundF z f rm
  (r, c.or { invalid := inv, flush := fa || fb })

/-- An operation on one operand read under R15. -/
def fop1 (f : FFmt) (rm : RM) (op : Ex → Ex × Bool) (x : Nat) : Nat × Cond :=
  let (a, fa) := f.read x
  let (z, inv) := op a
  let (r, c) := roundF z f rm
  (r, c.or { invalid := inv, flush := fa })

/-- A lane-wise floating-point operation of two sources. -/
def vflt2 (op : RM → Ex → Ex → Ex × Bool) (d a b : VReg) (t r : Fin 4) (s : State) : Out :=
  let f := fmt2 t
  let rm := RM.ofCode r
  vec2 f.bytes (fop2 f rm (op rm)) d a b s

/-- The smaller of two values; −0 lies below +0, a NaN gives NaN (R202, R216). -/
def Ex.fmin (x y : Ex) : Ex :=
  if x.isNan || y.isNan then .nan
  else match x.cmp y with
    | .lt => x
    | .gt => y
    | .eq => if x.isNeg then x else y

/-- The larger of two values; −0 lies below +0, a NaN gives NaN. -/
def Ex.fmax (x y : Ex) : Ex :=
  if x.isNan || y.isNan then .nan
  else match x.cmp y with
    | .lt => y
    | .gt => x
    | .eq => if x.isNeg then y else x

/-- The magnitude of x with the sign of y; a NaN operand gives NaN (R202). -/
def Ex.sgnj (x y : Ex) : Ex := if y.isNan then .nan else if y.isNeg then x.abs.neg else x.abs

/-- `vfadd` (R202). -/
def execVfadd (d a b : VReg) (t r : Fin 4) (s : State) : Out := vflt2 (fun rm x y => x.add y rm) d a b t r s
/-- `vfsub` (R202). -/
def execVfsub (d a b : VReg) (t r : Fin 4) (s : State) : Out := vflt2 (fun rm x y => x.add y.neg rm) d a b t r s
/-- `vfmul` (R202). -/
def execVfmul (d a b : VReg) (t r : Fin 4) (s : State) : Out := vflt2 (fun _ x y => x.mul y) d a b t r s
/-- `vfdiv` (R202). -/
def execVfdiv (d a b : VReg) (t r : Fin 4) (s : State) : Out := vflt2 (fun _ x y => x.div y) d a b t r s
/-- `vfsqrt` (R202). -/
def execVfsqrt (d a : VReg) (k : KReg) (t r : Fin 4) (s : State) : Out :=
  vec1m (fmt2 t).bytes (fop1 (fmt2 t) (.ofCode r) Ex.sqrt) d a k s
/-- `vfrsqrt` (R202). -/
def execVfrsqrt (d a : VReg) (k : KReg) (t r : Fin 4) (s : State) : Out :=
  vec1m (fmt2 t).bytes (fop1 (fmt2 t) (.ofCode r) Ex.rsqrt) d a k s
/-- `vfmin` (R202). -/
def execVfmin (d a b : VReg) (t : Fin 4) (s : State) : Out := vflt2 (fun _ x y => (x.fmin y, false)) d a b t 0 s
/-- `vfmax` (R202). -/
def execVfmax (d a b : VReg) (t : Fin 4) (s : State) : Out := vflt2 (fun _ x y => (x.fmax y, false)) d a b t 0 s
/-- `vfabs` (R202). -/
def execVfabs (d a : VReg) (k : KReg) (t : Fin 4) (s : State) : Out :=
  vec1m (fmt2 t).bytes (fop1 (fmt2 t) .rne fun x => (x.abs, false)) d a k s
/-- `vfneg` (R202). -/
def execVfneg (d a : VReg) (k : KReg) (t : Fin 4) (s : State) : Out :=
  vec1m (fmt2 t).bytes (fop1 (fmt2 t) .rne fun x => (x.neg, false)) d a k s

/-- A floating-point condition: a NaN makes all but `ne` false, without a condition (R203). -/
def fcondHolds (c : Fin 4) (x y : Ex) : Bool := if x.isNan || y.isNan then c == 1 else condHolds c (x.cmp y)

/-- `vfcmp` (R203). -/
def execVfcmp (c : Fin 4) (k : KReg) (a b : VReg) (ty : Fin 4) (s : State) : Out :=
  onTask s fun t =>
    let f := fmt2 ty
    let n := t.vlen f.bytes
    let lanes := List.zipWith (fun x y => (f.read x, f.read y)) (t.elems a f.bytes n) (t.elems b f.bytes n)
    let fl := lanes.any fun p => p.1.2 || p.2.2
    (t.putMask k (lanes.map fun p => fcondHolds c p.1.1 p.2.1)).raise { flush := fl }

/-- `vfsplat` (R202): Round of sa[31:0] read as FP32 under R15. -/
def execVfsplat (d : VReg) (a : SReg) (ty r : Fin 4) (s : State) : Out :=
  onTask s fun t =>
    let f := fmt2 ty
    let (x, fl) := FFmt.f32.read ((t.getS a).fld 0 32)
    let (v, c) := roundF x f (.ofCode r)
    t.putResults d f.bytes (List.replicate (t.vlen f.bytes) (v, c.or { flush := fl }))

/-- `vfscl` (R202): a × 2^e. An exponent beyond ±1000 acts as ±1000, past every format's range. -/
def execVfscl (d a b : VReg) (ty r : Fin 4) (s : State) : Out :=
  let f := fmt2 ty
  vec2 f.bytes (fun x y =>
    let e := max (-1000) (Min.min 1000 (intOf true f.width y))
    fop1 f (.ofCode r) (fun v => (v.scale e, false)) x) d a b s

/-- `vfsgnj` (R202). -/
def execVfsgnj (d a b : VReg) (t : Fin 4) (s : State) : Out := vflt2 (fun _ x y => (x.sgnj y, false)) d a b t 0 s

/-! ## Fused forms and select (R204, R205) -/

/-- a × b + c, exact, then one rounding to `g` under RM of `c.vcsr`; `neg` negates the product. A NaN among the three operands
raises nothing (R16). -/
def fmaOp (f g : FFmt) (neg : Bool) (rm : RM) (x y z : Nat) : Nat × Cond :=
  let (a, fa) := f.read x
  let (b, fb) := f.read y
  let (c, fc) := g.read z
  let (p, i) := a.mul b
  let (q, j) := (if neg then p.neg else p).add c rm
  let (r, k) := roundF q g rm
  (r, k.or { invalid := (i && c != .nan) || j, flush := fa || fb || fc })

/-- A fused form with sources of format `f` and destination `g` (R204). -/
def vfma (f g : FFmt) (neg : Bool) (d a b c : VReg) (s : State) : Out :=
  onTask s fun t =>
    let n := t.vlen g.bytes
    let rm := RM.ofCode t.ctl.vcsr.toNat
    t.putResults d g.bytes (List.zipWith (fun p z => fmaOp f g neg rm p.1 p.2 z)
      ((t.elems a f.bytes n).zip (t.elems b f.bytes n)) (t.elems c g.bytes n))

/-- `vfma.f32` (R204). -/
def execVfmaF32 (d a b c : VReg) (s : State) : Out := vfma .f32 .f32 false d a b c s
/-- `vfnma.f32` (R204). -/
def execVfnmaF32 (d a b c : VReg) (s : State) : Out := vfma .f32 .f32 true d a b c s
/-- `vfma.bf16` (R204). -/
def execVfmaBf16 (d a b c : VReg) (s : State) : Out := vfma .bf16 .bf16 false d a b c s
/-- `vfma.f16` (R204). -/
def execVfmaF16 (d a b c : VReg) (s : State) : Out := vfma .f16 .f16 false d a b c s
/-- `vfmaw.bf16` (R204): bf16 products onto an f32 addend. -/
def execVfmawBf16 (d a b c : VReg) (s : State) : Out := vfma .bf16 .f32 false d a b c s

/-- `vsel` (R205): bytes are copied unchanged. -/
def execVsel (d a b : VReg) (wc : Fin 4) (k : KReg) (s : State) : Out :=
  onTask s fun t =>
    let w := 2 ^ wc.val
    let n := t.vlen w
    let m := t.getK k
    t.putElems d w (((List.range n).zip ((t.elems a w n).zip (t.elems b w n))).map fun p =>
      if maskBit m p.1 then p.2.1 else p.2.2)

/-! ## Conversions (R207, R212) -/

/-- Conversion of an element from type S to D; equal types other than f32 and bf16 are copied (R207). -/
def cvtElem (dst src : Nat) (rm : RM) (v : Nat) : Nat × Cond :=
  if dst = src ∧ dst ≠ 0x09 ∧ dst ≠ 0x0A then (v, .none) else convElem (elemTy src) (elemTy dst) rm v

/-- `vcvt` (R207): `ty` is D and `q` is S. -/
def execVcvt (d a : VReg) (q ty : Fin 16) (s : State) : Out :=
  onTask s fun t =>
    let ws := tyWidth q
    let wd := tyWidth ty
    let n := t.vlen (if ws ≤ wd then wd else ws)
    t.putResults d wd ((t.elems a ws n).map (cvtElem ty q (.ofCode t.ctl.vcsr.toNat)))

/-- `vfrnd` (R212): the nearest integral value, kept in the format, with the sign of a. -/
def execVfrnd (d a : VReg) (k : KReg) (ty r : Fin 4) (s : State) : Out :=
  let f := fmt2 ty
  vec1m f.bytes (fun x =>
    let (v, fl) := f.read x
    let (y, inx) := roundExInt v (.ofCode r)
    ((roundF y f .rne).1, { inexact := inx, flush := fl })) d a k s

/-- ⌊ln 2 × 2^256⌋. -/
def ln2 : Nat := 0xB17217F7D1CF79ABC9E3B39803F2F6AF40F343267298B62D8A0D175B8BAAFA2B

/-- The sum of the Taylor terms of e^x − `term` onward, with x and the terms scaled by 2^256. -/
def expTaylor (x : Nat) : Nat → Nat → Nat → Nat → Nat
  | 0, _, _, acc => acc
  | n + 1, k, term, acc => let term := term * x / 2 ^ 256 / k; expTaylor x n (k + 1) term (acc + term)

/-- 2^a, exact for an integral a, otherwise cut to more than 200 bits with a remainder (R212; log entry 9). -/
def Ex.exp2 (x : Ex) : Ex :=
  match x with
  | .nan => .nan
  | .inf neg => if neg then .zero false else .inf false
  | .fin neg num e _ =>
    if num = 0 then .fin false 1 0 false
    else if 12 < e + (Nat.log2 num : Int) then .fin false 1 (if neg then -5000 else 5000) false
    else if 0 ≤ e then
      let n : Int := num * 2 ^ e.toNat
      .fin false 1 (if neg then -n else n) false
    else
      -- a = i + r / 2^256 with 0 ≤ r / 2^256 < 1
      let m : Int := (num : Int) * 2 ^ 256 / 2 ^ (-e).toNat
      let a : Int := if neg then -m else m
      let i := a / 2 ^ 256
      let r := (a % 2 ^ 256).toNat
      if r = 0 ∧ (num : Int) * 2 ^ 256 % 2 ^ (-e).toNat = 0 then .fin false 1 i false
      else .fin false (expTaylor (r * ln2 / 2 ^ 256) 80 1 (2 ^ 256) (2 ^ 256)) (i - 256) true

/-- `vfexp2` (R212). -/
def execVfexp2 (d a : VReg) (k : KReg) (ty r : Fin 4) (s : State) : Out :=
  vec1m (fmt2 ty).bytes (fop1 (fmt2 ty) (.ofCode r) fun x => (x.exp2, false)) d a k s

/-! ## Blocks and rotation (R208 to R213) -/

/-- `vbmax` (R208): the largest finite magnitude of each group, as f32. -/
def execVbmax (d a : VReg) (f : Fin 16) (ty : Fin 4) (s : State) : Out :=
  onTask s fun t =>
    let g := fmt2 ty
    let xs := (t.elems a g.bytes (t.vlen g.bytes)).map g.read
    t.putResults d 4 ((cut (blkCount f) xs).map fun grp =>
      ((roundF (largestFinite (grp.map (·.1))) .f32 .rne).1, { flush := grp.any (·.2) }))

/-- `vqnt` (R209). -/
def execVqnt (d a : VReg) (f : Fin 16) (ty o : Fin 4) (s : State) : Out :=
  onTask s fun t =>
    let g := fmt2 ty
    let e := blkCount f
    let n := Min.min (t.vlen g.bytes) (256 * e)
    let xs := (t.elems a g.bytes n).map g.read
    let c0 : Cond := { flush := xs.any (·.2) }
    let (ys, c1) : List Ex × Cond :=
      if o = 0 then (xs.map (·.1), .none)
      else let (r, c) := rotate (rotSize o) (xs.map (·.1)); (r.map fun v => (FFmt.f32.read v).1, c)
    let bs := (cut e ys).map (quantise f o .rne)
    (t.setVBytes d (bs.flatMap (·.1))).raise (bs.foldl (fun (c : Cond) b => c.or b.2) (c0.or c1))

/-- A code-table row of a context, in the active bank or the idle one (R33). -/
def CoreCtx.codeRow (k : CoreCtx) (bank : Bool) (row : Nat) : Nat := k.code.num (bit bank * 1024 + row * 4) 4

/-- Blocks decoded to at most `n` elements of a type; `c` is the count a ZERO or malformed block yields (R210). -/
def decodeBlocks (row : Nat → Nat) (ty : ElemTy) : List (List Byte) → Nat → Nat → List (Nat × Cond)
  | [], _, _ => []
  | b :: bs, n, c =>
    if n = 0 then []
    else
      let es : List (Nat × Cond) :=
        if blkMalformed b then List.replicate c (0, .inv)
        else if blkFmt b = 0 then List.replicate c (0, .none)
        else (blkValues row b).map fun v =>
          let (r, k) := match ty with
            | .int sg w => let (i, k) := roundI v.1 sg (8 * w) .rne; (bitsOfInt (8 * w) i, k)
            | .flt f => roundF v.1 f .rne
          (r, k.or { flush := v.2 })
      let c := if blkMalformed b || blkFmt b == 0 then c else blkCount (blkFmt b)
      es.take n ++ decodeBlocks row ty bs (n - es.length) c

/-- `vdqnt` (R210). -/
def execVdqnt (d a : VReg) (ty : Fin 16) (s : State) : Out :=
  onTask s fun t =>
    let k := s.cctx t
    let w := tyWidth ty
    t.putResults d w (decodeBlocks (k.codeRow k.codeBank) (elemTy ty) (chunks 64 256 (t.getVBytes a 16384)) (t.vlen w) 62)

/-- `vhad` (R211). -/
def execVhad (d a : VReg) (ty g : Fin 4) (s : State) : Out :=
  onTask s fun t =>
    let f := fmt2 ty
    let xs := (t.elems a f.bytes (t.vlen f.bytes)).map f.read
    let (ys, c) := rotate (rotSize g) (xs.map (·.1))
    (t.putResults d f.bytes (ys.map fun v => roundF (FFmt.f32.read v).1 f .rne)).raise (c.or { flush := xs.any (·.2) })

/-- `vbhdr` (R213). -/
def execVbhdr (d a : VReg) (s : State) : Out :=
  onTask s fun t =>
    let n := Min.min t.ctl.vl.toNat 256
    t.putElems d 2 ((List.range n).map fun j => leNat [t.regs.v.get (a.val * 0x4000 + j * 64),
      t.regs.v.get (a.val * 0x4000 + j * 64 + 1)])

/-! ## Permute and slide (R215) -/

/-- `vperm` (R215): n16 indices; an index at or beyond n gives 0. -/
def execVperm (d a b : VReg) (ty : Fin 16) (s : State) : Out :=
  onTask s fun t =>
    let w := tyWidth ty
    let n := t.vlen w
    let xs := (t.elems a w n).toArray
    t.putElems d w ((t.elems b 2 n).map fun i => xs.getD i 0)

/-- `vslideup` (R215): lanes below the distance are unchanged. -/
def execVslideup (d a : VReg) (b : SReg) (ty : Fin 16) (s : State) : Out :=
  onTask s fun t =>
    let w := tyWidth ty
    let n := t.vlen w
    let k := (t.getS b).toNat
    t.putElems d w ((t.elems d w n).take k ++ (t.elems a w n).take (n - k))

/-- `vslidedn` (R215): lanes whose source lies at or beyond n receive 0. -/
def execVslidedn (d a : VReg) (b : SReg) (ty : Fin 16) (s : State) : Out :=
  onTask s fun t =>
    let w := tyWidth ty
    let n := t.vlen w
    let k := (t.getS b).toNat
    t.putElems d w ((t.elems a w n).drop k ++ List.replicate (Min.min k n) 0)

/-- `vidx` (R215): the lane index modulo 2^(8w). -/
def execVidx (d : VReg) (ty : Fin 16) (s : State) : Out :=
  onTask s fun t =>
    let w := tyWidth ty
    t.putElems d w ((List.range (t.vlen w)).map fun k => k % 2 ^ (8 * w))

/-! ## Reductions and scans (R216) -/

/-- Comb of R216 for an integer type. -/
def combInt (o : Fin 4) (x y : Int) : Int :=
  match o with
  | 0 => x + y
  | 1 => if x ≤ y then y else x
  | _ => if x ≤ y then x else y

/-- Comb of R216 for a floating-point type: FP32 encodings; each addition rounds. -/
def combFlt (o : Fin 4) (x y : Nat) : Nat × Cond :=
  match o with
  | 0 => f32Add x y
  | 1 => f32Op (fun a b => (a.fmax b, false)) x y
  | _ => f32Op (fun a b => (a.fmin b, false)) x y

/-- A combination in which an absent side yields the other, without rounding. -/
def combOpt {α : Type} (f : α → α → α × Cond) (x y : Option α) : Option α × Cond :=
  match x, y with
  | some a, some b => let (r, c) := f a b; (some r, c)
  | some a, none => (some a, .none)
  | none, y => (y, .none)

/-- One level of the fixed tree: neighbours combined. -/
def treeLevel {α : Type} (f : α → α → α × Cond) : List (Option α) → List (Option α × Cond)
  | x :: y :: r => combOpt f x y :: treeLevel f r
  | [x] => [(x, .none)]
  | [] => []

/-- The fixed tree of R216, level by level; absent elements complete it to a power of two. -/
def treeFold {α : Type} (f : α → α → α × Cond) : Nat → List (Option α) → Cond → Option α × Cond
  | 0, l, c => (l.head?.join, c)
  | n + 1, l, c =>
    let r := treeLevel f l
    treeFold f n (r.map (·.1)) (r.foldl (fun (k : Cond) p => k.or p.2) c)

/-- The active lanes below n of a source, others absent (R216). -/
def Task.activeLanes (t : Task) (a : VReg) (k : KReg) (w : Nat) : List (Option Nat) :=
  let n := t.vlen w
  let m := t.getK k
  ((List.range n).zip (t.elems a w n)).map fun p => if maskBit m p.1 then some p.2 else none

/-- A lane of a floating-point source read exactly into FP32 under R15, and whether it was flushed. -/
def toF32 (f : FFmt) (v : Nat) : Nat × Bool := let (x, fl) := f.read v; ((roundF x .f32 .rne).1, fl)

/-- The identity of a floating-point reduction, in FP32. -/
def identFlt (o : Fin 4) : Nat := match o with | 0 => 0 | 1 => 0xFF800000 | _ => 0x7F800000
/-- The identity of an integer reduction. -/
def identInt (o : Fin 4) (sg : Bool) (n : Nat) : Int := match o with | 0 => 0 | 1 => intMin sg n | _ => intMax sg n

/-- `vred` (R216). -/
def execVred (d : SReg) (a : VReg) (o : Fin 4) (k : KReg) (ty : Fin 16) (s : State) : Out :=
  onTask s fun t =>
    let w := tyWidth ty
    let l := t.activeLanes a k w
    match elemTy ty with
    | .int sg _ =>
      let r := (treeFold (fun x y => (combInt o x y, .none)) 14 (l.map fun p => p.map (intOf sg (8 * w))) .none).1
      t.setS d (w64i (r.getD (identInt o sg (8 * w))))
    | .flt f =>
      let ps := l.map fun p => p.map (toF32 f)
      let c0 : Cond := { flush := ps.any fun p => p.any (·.2) }
      let (r, c) := treeFold (combFlt o) 14 (ps.map fun p => p.map (·.1)) c0
      (t.setS d (w64 (r.getD (identFlt o)))).raise c

/-- The inclusive scan of R216: `out` delivers an accumulated value, an inactive lane keeps its element. -/
def scanLanes {α : Type} (f : α → α → α × Cond) (out : α → Nat × Cond) :
    List (Option α × Nat) → Option α → List (Nat × Cond)
  | [], _ => []
  | (p, old) :: r, acc =>
    match p with
    | none => (old, .none) :: scanLanes f out r acc
    | some x =>
      let (v, c) := match acc with | some y => f y x | none => (x, .none)
      let (o, k) := out v
      (o, c.or k) :: scanLanes f out r (some v)

/-- `vscan` (R216). -/
def execVscan (d a : VReg) (o : Fin 4) (k : KReg) (ty : Fin 16) (s : State) : Out :=
  onTask s fun t =>
    let w := tyWidth ty
    let l := t.activeLanes a k w
    let old := t.elems d w (t.vlen w)
    match elemTy ty with
    | .int sg _ =>
      t.putResults d w (scanLanes (fun x y => (combInt o x y, .none)) (fun v => (bitsOfInt (8 * w) v, .none))
        ((l.map fun p => p.map (intOf sg (8 * w))).zip old) none)
    | .flt f =>
      let ps := l.map fun p => p.map (toF32 f)
      let fl : Cond := { flush := ps.any fun p => p.any (·.2) }
      (t.putResults d w (scanLanes (combFlt o) (fun v => if f = .f32 then (v, .none) else roundF (FFmt.f32.read v).1 f .rne)
        ((ps.map fun p => p.map (·.1)).zip old) none)).raise fl

end Sys2Proof.Machine
end

