-- ==== Sys2Proof/Machine/Tile.lean ====
section
/-!
DEFINITION. Tile registers (R218 to R222) and the manger (R223 to R231).
-/
namespace Sys2Proof.Machine

/-! ## Tile shapes (R218, R220) -/

/-- Fields of a tile shape. -/
structure Shape where
  rows : Nat
  cols : Nat
  et : Nat
  base : Nat
  nreg : Nat
deriving DecidableEq, Repr, Inhabited

/-- The shape of a valid tile; `none` when V = 0. -/
def shapeOf (v : W64) : Option Shape :=
  if v.getLsbD 63 then
    some { rows := v.fld 0 16, cols := v.fld 16 16, et := v.fld 40 4, base := v.fld 48 7, nreg := v.fld 56 3 + 1 }
  else none

/-- The shape of tile register `r`. -/
def Task.shape (t : Task) (r : TReg) : Option Shape := shapeOf t.regs.tdim[r]

/-- Element width in bytes. -/
def Shape.w (x : Shape) : Nat := tyWidth x.et

/-- The byte offset in the register bank of element (i, j): the covered registers are one run of bytes (R220). -/
def Shape.at (x : Shape) (i j : Nat) : Nat := x.base * 0x4000 + (i * x.cols + j) * x.w

/-- Bytes of all the elements of a tile. -/
def Shape.size (x : Shape) : Nat := x.rows * x.cols * x.w

/-- The bits of all elements, row-major. -/
def Task.tileElems (t : Task) (x : Shape) : List Nat :=
  let m := t.regs.v.slice (x.base * 0x4000) x.size
  (List.range (x.rows * x.cols)).map fun k => m.num (k * x.w) x.w

/-- All elements replaced, row-major. -/
def Task.putTile (t : Task) (x : Shape) (vs : List Nat) : Task :=
  { t with regs := { t.regs with v := t.regs.v.write (x.base * 0x4000) (vs.flatMap (leBytes x.w)) } }

/-- A run of elements of one row. -/
def Task.rowElems (t : Task) (x : Shape) (i n : Nat) : List Nat :=
  (List.range n).map fun j => t.regs.v.num (x.at i j) x.w

/-- A run of elements of one row replaced. -/
def Task.putRow (t : Task) (x : Shape) (i : Nat) (vs : List Nat) : Task :=
  { t with regs := { t.regs with v := t.regs.v.write (x.at i 0) (vs.flatMap (leBytes x.w)) } }

/-- A tile instruction on the shape of one tile; V = 0 raises the bounds-violation trap with the shape word (R221). -/
def onTile (r : TReg) (f : Task → Shape → Act) (s : State) : Out :=
  issue s fun t =>
    match t.shape r with
    | some x => f t x
    | none => s.bounds t t.regs.tdim[r]

/-- The transpose of a row-major list of `r` rows and `c` columns. -/
def transpose (r c : Nat) (vs : List Nat) : List Nat :=
  let a := vs.toArray
  (List.range (r * c)).map fun k => a.getD (k % r * c + k / r) 0

/-- `tdef` (R222). -/
def execTdef (d : TReg) (a : SReg) (s : State) : Out := onTask s fun t => t.setTdim d (t.getS a)

/-- `tzero` (R222). -/
def execTzero (d : TReg) (s : State) : Out :=
  onTile d (fun t x => .ok (s.setLive { t with regs := { t.regs with v := t.regs.v.zero (x.base * 0x4000) x.size } })) s

/-- `ttrn` (R222). -/
def execTtrn (d a : TReg) (s : State) : Out :=
  onTile d (fun t x =>
    match t.shape a with
    | none => s.bounds t t.regs.tdim[a]
    | some y =>
      if x.rows = y.cols ∧ x.cols = y.rows ∧ x.w = y.w then
        .ok (s.setLive (t.putTile x (transpose y.rows y.cols (t.tileElems y))))
      else s.bounds t t.regs.tdim[d]) s

/-- `tcvt` (R222): each element converted under R207. -/
def execTcvt (d a : TReg) (s : State) : Out :=
  onTile d (fun t x =>
    match t.shape a with
    | none => s.bounds t t.regs.tdim[a]
    | some y =>
      if x.rows = y.rows ∧ x.cols = y.cols then
        let rs := (t.tileElems y).map (cvtElem x.et y.et (.ofCode t.ctl.vcsr.toNat))
        .ok (s.setLive ((t.putTile x (rs.map (·.1))).raise (condsOf rs)))
      else s.bounds t t.regs.tdim[d]) s

/-- `tgetr` (R222). -/
def execTgetr (d : VReg) (a : TReg) (b : SReg) (s : State) : Out :=
  onTile a (fun t x =>
    let i := (t.getS b).toNat
    if i < x.rows then .ok (s.setLive (t.putElems d x.w (t.rowElems x i (Min.min x.cols (t.vlen x.w)))))
    else s.bounds t (t.getS b)) s

/-- `tputr` (R222). -/
def execTputr (d : TReg) (a : VReg) (b : SReg) (s : State) : Out :=
  onTile d (fun t x =>
    let i := (t.getS b).toNat
    if i < x.rows then .ok (s.setLive (t.putRow x i (t.elems a x.w (Min.min x.cols (t.vlen x.w)))))
    else s.bounds t (t.getS b)) s

/-! ## The manger (R223 to R230) -/

/-- Fields of a nest (R223). -/
structure Nest where
  aexp : Nat
  w4 : Bool
  nseg : Nat
  len : Nat
  c0 : Nat
  c1 : Nat
  c2 : Nat
deriving DecidableEq, Repr, Inhabited

/-- The nest of a register value; `nseg` is the number of segments. -/
def nestOf (v : W64) : Nest :=
  { aexp := v.fld 56 8, w4 := v.getLsbD 53, nseg := v.fld 50 3 + 1, len := v.fld 41 9, c0 := v.fld 10 10, c1 := v.fld 20 10,
    c2 := v.fld 30 10 }

/-- K: elements per feed row. -/
def Nest.k (n : Nest) : Nat := n.nseg * n.len
/-- Feed rows of a replay. -/
def Nest.rows (n : Nest) : Nat := (n.c0 + 1) * (n.c1 + 1) * (n.c2 + 1)
/-- Bytes of a segment. -/
def Nest.segBytes (n : Nest) : Nat := if n.w4 then n.len / 2 else n.len

/-- OFF and the signed steps of an offset register. -/
def offOf (v : W64) : Nat × Int × Int × Int :=
  (v.fld 0 22, intOf true 14 (v.fld 22 14), intOf true 14 (v.fld 36 14), intOf true 14 (v.fld 50 14))

/-- The first byte a segment reads in feed row (i2, i1, i0). -/
def segAt (v : W64) (i0 i1 i2 : Nat) : Int :=
  let (o, s0, s1, s2) := offOf v
  (o : Int) + i0 * s0 + i1 * s1 + i2 * s2

/-- The least and the greatest first byte of a segment over the nest (R225). -/
def segSpan (n : Nest) (v : W64) : Int × Int :=
  let (o, s0, s1, s2) := offOf v
  let ds : List Int := [n.c0 * s0, n.c1 * s1, n.c2 * s2]
  ((o : Int) + (ds.map fun d => if d < 0 then d else 0).sum, (o : Int) + (ds.map fun d => if 0 < d then d else 0).sum)

/-- The offset registers that a nest uses. -/
def segOffs (n : Nest) (o : Vector W64 8) : List W64 := o.toList.take n.nseg

/-- First byte and byte past the last of everything a replay reads (R225). -/
def hull (n : Nest) (o : Vector W64 8) : Int × Int :=
  let sp := (segOffs n o).map (segSpan n)
  ((sp.map (·.1)).foldl Min.min (sp.headD (0, 0)).1, (sp.map (·.2)).foldl Max.max (sp.headD (0, 0)).2 + n.segBytes)

/-- The checks of R226 on the nest register. -/
def nestOk (v : W64) : Bool :=
  let n := nestOf v
  v.fld 54 2 == 0 && v.fld 40 1 == 0 && v.fld 0 10 == 0 && 1 ≤ n.len && n.k ≤ 256 && (!n.w4 || n.len % 2 == 0)

/-- OFF advanced past the bands of level 2, wrapping to 22 bits (R226). -/
def offAdvance (n : Nest) (v : W64) : W64 :=
  let (o, _, _, s2) := offOf v
  w64 (v.toNat / 2 ^ 22 * 2 ^ 22 + bitsOfInt 22 ((o : Int) + (n.c2 + 1 : Nat) * s2))

/-- The oldest outstanding call of a task on the current core, as the owner of a wait. -/
def State.callOwner (s : State) (t : Task) : WfOwner :=
  let run := match (s.core s.cur).mx.running with | some r => if r.tid == t.tid then some r.handle else none | none => none
  match run.or (t.calls.head?.map (·.handle)) with
  | some h => .cmd h (some t.tid)
  | none => .unknown

/-- `mgset` (R231). -/
def execMgset (a : SReg) (s : State) : Out := onTask s fun t => { t with regs := { t.regs with nest := t.getS a } }
/-- `mgoff` (R231). -/
def execMgoff (d : OReg) (a : SReg) (s : State) : Out :=
  onTask s fun t => { t with regs := { t.regs with o := t.regs.o.set d (t.getS a) } }
/-- `mgget` (R231). -/
def execMgget (d : SReg) (a : OReg) (s : State) : Out := onTask s fun t => t.setS d t.regs.o[a]
/-- `mgget.n` (R231). -/
def execMggetN (d : SReg) (s : State) : Out := onTask s fun t => t.setS d t.regs.nest

/-- `mgarm` (R226, R227). -/
def execMgarm (s : State) : Out :=
  issue s fun t =>
    let v := t.regs.nest
    let n := nestOf v
    let k := s.cctx t
    let (lo, hi) := hull n t.regs.o
    if !nestOk v then s.bounds t v
    else if lo < 0 ∨ (k.psize : Int) < hi then s.bounds t (w64i lo)
    else if 4 ≤ t.replays.length then
      .wait s { okind := 0x0A, obj := BitVec.ofNat 48 (s.cur.val + (s.core s.cur).cbank.val * 256), owner := s.callOwner t }
    else if !(s.core s.cur).room t.ctx 1 then .wait s (s.boardWait t)
    else
      let (uid, s) := s.fresh
      let e : SbEntry := { space := .loft, lo := (k.base + lo.toNat) / 64, hi := (k.base + hi.toNat - 1) / 64, write := false,
                           soft := false, ctx := t.ctx, owner := .replay t.tid uid }
      let o := t.regs.o.mapFinIdx fun i w _ => if i < n.nseg then offAdvance n w else w
      let t := { t with regs := { t.regs with o := o },
                        replays := t.replays ++ [{ nest := v, o := t.regs.o, row := 0, serial := uid }] }
      .ok ((s.setLive t).modCore s.cur fun c => { c with sb := c.sb ++ [e] })

/-- The unit runs a call of the task: started and not completed, also where a freeze has put it back into its queue (R230, R280). -/
def State.runsCallOf (s : State) (t : Task) : Bool :=
  (s.core s.cur).mx.running.any (·.tid == t.tid) || t.calls.any (·.pc != 0)

/-- `mgdrop` (R230). -/
def execMgdrop (s : State) : Out :=
  issue s fun t =>
    if s.runsCallOf t then Act.hold s
    else
      .ok ((s.setLive { t with replays := [] }).modCore s.cur fun c =>
        { c with sb := c.sb.filter fun e => !(t.replays.any fun r => e.owner == .replay t.tid r.serial) })

/-- The 256 activations of a feed row, as bytes, from the loft of a context (R224). -/
def feedRow (loft : Mem) (base : Nat) (r : Replay) : List Byte :=
  let n := nestOf r.nest
  let i0 := r.row % (n.c0 + 1)
  let i1 := r.row / (n.c0 + 1) % (n.c1 + 1)
  let i2 := r.row / ((n.c0 + 1) * (n.c1 + 1))
  let seg (v : W64) : List Byte :=
    let p := (segAt v i0 i1 i2).toNat
    if n.w4 then
      (List.range n.len).map fun k =>
        BitVec.ofInt 8 (intOf true 4 (bits (loft.get (base + p + k / 2)).toNat (4 * (k % 2)) 4))
    else loft.read (base + p) n.len
  let acts := (segOffs n r.o).flatMap seg
  (acts ++ zeroBytes (256 - acts.length)).take 256

/-- Byte spans of a feed row, as context loft offsets. -/
def feedSpans (r : Replay) : List (Nat × Nat) :=
  let n := nestOf r.nest
  let i0 := r.row % (n.c0 + 1)
  let i1 := r.row / (n.c0 + 1) % (n.c1 + 1)
  let i2 := r.row / ((n.c0 + 1) * (n.c1 + 1))
  (segOffs n r.o).map fun v => ((segAt v i0 i1 i2).toNat, n.segBytes)

end Sys2Proof.Machine
end

