-- ==== Sys2Proof/Machine/Records.lean ====
section
/-!
DEFINITION. Buffer and layout records as the copy engines read them (R91 to R99): their checks, the order in which the
sequencer walks units, the address of each unit on either side, and the hulls that the scoreboard records (R143).
-/
namespace Sys2Proof.Machine

/-- One side of a command: the fields of its record (R91, R94). -/
structure Side where
  layout : Bool
  space : Nat
  base : Nat
  ef : Nat
  rs : Int
  ws : Int
  rows : Nat
  rowlen : Nat
  bcm : Nat
  bext : Nat
  tags : Bool
  ring : Option (Fin 16)
  strd : List Int
  ext : List Nat
  org : List Int
  wsh : List Nat
  stp : List Int
  cnt : List Nat
  fill : Nat
  bim : Nat
  bstart : Nat
  bcnt : Nat
  ct : Nat
  rot : Nat
deriving DecidableEq, Repr, Inhabited

/-- The six dimensions. -/
def dims : List Nat := [0, 1, 2, 3, 4, 5]

/-- The side a record describes. -/
def sideOf (layout : Bool) (r : BitVec 768) : Side :=
  let i32 (lo : Nat) : Int := intOf true 32 (rfld r lo 32)
  if layout then
    { layout := true, space := rfld r 62 2, base := rfld r 0 56, ef := rfld r 57 5, rs := 0, ws := 0, rows := 0, rowlen := 0,
      bcm := 0, bext := 0, tags := false, ring := none,
      strd := dims.map fun k => i32 (64 + 32 * k),
      ext := dims.map fun k => if k < 3 then rfld r (256 + 20 * k) 20 else rfld r (320 + 20 * (k - 3)) 20,
      org := dims.map fun k => intOf true 20 (if k < 3 then rfld r (384 + 20 * k) 20 else rfld r (448 + 20 * (k - 3)) 20),
      wsh := dims.map fun k => rfld r (512 + 10 * k) 10,
      stp := dims.map fun k => intOf true 10 (rfld r (576 + 10 * k) 10),
      cnt := dims.map fun k => rfld r (640 + 10 * k) 10,
      fill := rfld r 704 32, bim := rfld r 736 2, bstart := rfld r 738 7, bcnt := rfld r 745 7, ct := rfld r 752 6,
      rot := rfld r 758 2 }
  else
    { layout := false, space := rfld r 62 2, base := rfld r 0 56, ef := rfld r 192 5, rs := i32 64, ws := i32 160,
      rows := rfld r 144 16, rowlen := rfld r 128 16, bcm := rfld r 200 2, bext := rfld r 96 32,
      tags := rfld r 202 1 == 1, ring := if rfld r 207 1 = 1 then some (Fin.ofNat 16 (rfld r 203 4)) else none,
      strd := [], ext := [], org := [], wsh := [], stp := [], cnt := [], fill := 0, bim := 0, bstart := 0, bcnt := 0,
      ct := 0, rot := 0 }

/-- The `k`-th field of a per-dimension list. -/
def Side.dim {α : Type} [Inhabited α] (l : List α) (k : Nat) : α := l.getD k default

/-- Bytes of a unit (R92). -/
def Side.unit (x : Side) : Nat := tyWidth x.ef

/-- The element format is a typed one. -/
def Side.typed (x : Side) : Bool := tyReg x.ef

/-! ## Checks (R95, R101, R109) -/

/-- Reserved fields of a record that are not zero. -/
def reservedBits (layout : Bool) (r : BitVec 768) : Bool :=
  if layout then
    rfld r 760 8 != 0 || rfld r 700 4 != 0 || rfld r 636 4 != 0 || rfld r 572 4 != 0 || rfld r 508 4 != 0 || rfld r 444 4 != 0
      || rfld r 380 4 != 0 || rfld r 316 4 != 0 || rfld r 56 1 != 0
  else rfld r 208 48 != 0 || rfld r 197 3 != 0 || rfld r 56 6 != 0

/-- A quantising copy: a typed layout source with CT nonzero and a BLK buffer destination (R103). -/
def isQuant (src dst : Side) : Bool := src.layout && src.typed && src.ct != 0 && !dst.layout && dst.ef == 0

/-- Rotation group of a layout (R94). -/
def Side.rotGroup (x : Side) : Nat := rotSize x.rot

/-- A side is invalid under R95, apart from its reserved bits; `sup`: the context is a supervisor; `quant`: it is the source of
a quantising copy; `b2b`: it is the source of a buffer-to-buffer copy; the rings are those of the context. -/
def Side.invalid (x : Side) (k : CoreCtx) (builtin quant b2b : Bool) : Bool :=
  let u := x.unit
  (0x10 ≤ x.ef || (x.layout && (x.ef == 0x0E || x.ef == 0x0F)))
  || x.space == 3 || (x.space == 2 && !k.sup && !builtin)
  || (if x.layout then
        x.ext.any (· == 0) || x.wsh.any (· == 0) || x.cnt.any (· == 0)
        || x.base % u != 0 || x.strd.any (fun d => d % u != 0) || (x.ef == 0 && x.strd.headD 0 != 64)
        || x.bim == 3 || (x.bim != 0 && x.space != 1)
        || (x.bim == 2 && (x.bcnt == 0 || 96 < x.bstart + x.bcnt || x.base % 6144 != 0))
        || (!quant && (x.ct != 0 || x.rot != 0)) || (quant && 8 < x.ct)
        || (x.rot != 0 && (x.org.headD 0 % x.rotGroup != 0 || x.stp.headD 0 % x.rotGroup != 0
              || x.wsh.headD 0 % x.rotGroup != 0))
      else
        x.bcm == 3 || (x.ring.isSome && x.space != 1)
        || (match x.ring with | some i => !(k.rings[i]).valid | none => false)
        || ((x.ef == 0x0E || x.ef == 0x0F) && (x.rs != 64 || x.base % 2048 != 0 || !(macroWindow x.base)))
        || (b2b && (x.rows == 0 || x.rowlen == 0)))
where
  /-- The address lies in the macro range of a core window. -/
  macroWindow (a : Nat) : Bool :=
    match placeOf a with
    | .window _ o => match partOf o with | some (.macros, _) => true | _ => false
    | _ => false

/-- The formats are not a pair that R101 converts. -/
def pairUndefined (src dst : Side) : Bool :=
  if src.typed && dst.typed then false
  else if src.ef == 0 && dst.ef == 0 then false
  else if src.ef == 0 && dst.typed then dst.layout
  else if src.typed && dst.ef == 0 && isQuant src dst then false
  else if dst.ef == 0x0E && !dst.layout then !(src.ef == 0 || src.ef == 1)
  else if dst.ef == 0x0F && !dst.layout then src.ef != 0
  else true

/-- The barrier address of a command is acceptable: a virtual address, whose bits [63:56] are ignored (R72, R109, R135). -/
def barrierOk (p : Nat) (b : W64) : Bool :=
  let a := b.toNat % 2 ^ 56
  b == 0 || (a % 16 == 0 && (a + 16 ≤ p || (match placeOf a with | .window _ o => o < 0x300000 | _ => false)))

/-- The checks made when a command becomes active, in the order of R111: the first failure. -/
def Cmd.check (k : CoreCtx) (c : Cmd) : Option Cause :=
  if c.kind == .signal then
    (if c.stampAddr.toNat % 8 = 0 then none else some 0x10)
  else
    let src := sideOf c.sl c.src
    let dst := sideOf c.dl c.dst
    let b2b := !c.sl && !c.dl
    if reservedBits c.sl c.src then some 0x01
    else if src.invalid k (c.kind == .xfer) (isQuant src dst) b2b then some 0x02
    else if reservedBits c.dl c.dst then some 0x01
    else if dst.invalid k false false false then some 0x02
    else if c.sl && c.dl && src.wsh != dst.wsh then some 0x02
    else if pairUndefined src dst || (c.red && !dst.typed) then some 0x03
    else if !barrierOk k.psize c.barrier then some 0x10
    else if c.stamped && c.stampAddr.toNat % 8 != 0 then some 0x10
    else none

/-! ## The walk (R98, R99) -/

/-- The loop nest of a command: units per row, rows per window, windows, and its loop counts. -/
structure Walker where
  len : Nat
  rows : Nat
  wins : Nat
deriving DecidableEq, Repr, Inhabited

/-- The side whose loop nest the sequencer walks: the source layout's if there is one, else the destination layout's. -/
def walkSide (src dst : Side) : Option Side := if src.layout then some src else if dst.layout then some dst else none

/-- The loop nest of a pair of sides. -/
def walkerOf (src dst : Side) : Walker :=
  match walkSide src dst with
  | some l => { len := l.wsh.headD 0, rows := (l.wsh.drop 1).foldl (· * ·) 1, wins := l.cnt.foldl (· * ·) 1 }
  | none => { len := src.rowlen, rows := src.rows, wins := 1 }

/-- Units of the whole command. -/
def Walker.total (w : Walker) : Nat := w.len * w.rows * w.wins

/-- The digits of a number in mixed radix, least significant first. -/
def digits : List Nat → Nat → List Nat
  | [], _ => []
  | b :: bs, n => (if b = 0 then 0 else n % b) :: digits bs (if b = 0 then 0 else n / b)

/-- Unit `u` as (window, row, position in the row). -/
def Walker.split (w : Walker) (u : Nat) : Nat × Nat × Nat :=
  let l := Max.max w.len 1
  let r := Max.max w.rows 1
  (u / l / r, u / l % r, u % l)

/-- Coordinates of a unit in a layout: its own origin and steps under the loop indices of the walking layout (R98, R99). -/
def Side.coords (x : Side) (nest : Side) (n q w0 : Nat) : List Int :=
  let is := digits nest.cnt n
  let ws := w0 :: digits (nest.wsh.drop 1) q
  dims.map fun k => Side.dim x.org k + (is.getD k 0 : Nat) * Side.dim x.stp k + (ws.getD k 0 : Nat)

/-- The loft offset of byte offset `a` from BASE under the interleave mode (R96); the line is a uint32, so a negative offset wraps. -/
def Side.interleave (x : Side) (a : Int) : Int :=
  match x.bim with
  | 1 =>
    let l : Nat := (a / 64 % 2 ^ 32).toNat
    let p : Nat := (l % 96) ^^^ (l / 96 % 32)
    (x.base : Int) + ((l / 96) * 96 + p) * 64 + a % 64
  | 2 =>
    let l := (a / 64 % 2 ^ 32).toNat
    (((x.base / 6144 + l / x.bcnt) * 96 + x.bstart + l % x.bcnt) * 64 : Nat) + a % 64
  | _ => (x.base : Int) + a

/-- The start of a window or row of a ring side, from the slot it holds. -/
def Side.slotBase (k : CoreCtx) (x : Side) (slot : Option Nat) : Int :=
  match x.ring with
  | some i => (k.rings[i]).slotAt (slot.getD 0)
  | none => x.base

/-- The address of a buffer unit: `off` bytes into row `q` of window `n` (R98, R113). Blocks stand where BASE, RS and WS put them, also
across a granule boundary: R24 aligns blocks, and R95 refuses no buffer for them (log entry 100). -/
def Side.bufAt (k : CoreCtx) (x : Side) (b2b : Bool) (slot : Option Nat) (n q : Nat) (off : Int) : Int :=
  match x.ring with
  | some _ => x.slotBase k slot + (if b2b then 0 else (q : Int) * x.rs) + off
  | none => if b2b then (x.base : Int) + (q : Int) * x.rs + off else (x.base : Int) + (n : Int) * x.ws + (q : Int) * x.rs + off

/-- The address of unit (n, q, w0) on a side; `none` outside a layout's extents. -/
def Side.unitAt (x : Side) (k : CoreCtx) (nest : Option Side) (slot : Option Nat) (n q w0 : Nat) : Option Int :=
  if x.layout then
    let c := x.coords (nest.getD x) n q w0
    if (c.zip x.ext).all fun p => 0 ≤ p.1 && p.1 < (p.2 : Int) then
      some (x.interleave ((c.zip x.strd).map fun p => p.1 * p.2).sum)
    else none
  else some (x.bufAt k nest.isNone slot n q ((w0 : Int) * x.unit))

/-- The command is buffer to buffer. -/
def Cmd.b2b (c : Cmd) : Bool := !c.sl && !c.dl

/-! ## Hulls (R143) -/

/-- An arithmetic progression of addresses: its first value, how many, and the step. -/
structure Prog where
  first : Int
  count : Nat
  step : Int
deriving DecidableEq, Repr, Inhabited

/-- The least and greatest value of the progressions of a term; `none` when it has none. -/
def termSpan (ps : List Prog) : Option (Int × Int) :=
  ps.foldl (fun (o : Option (Int × Int)) (p : Prog) =>
    if p.count = 0 then o
    else
      let last : Int := p.first + (p.count - 1 : Nat) * p.step
      let a := Min.min p.first last
      let b := Max.max p.first last
      some (match o with | none => (a, b) | some q => (Min.min q.1 a, Max.max q.2 b))) none

/-- The least and greatest sum of one value of each term. -/
def termsSpan : List (List Prog) → Option (Int × Int)
  | [] => some (0, 0)
  | t :: ts =>
    match termSpan t, termsSpan ts with
    | some p, some q => some (p.1 + q.1, p.2 + q.2)
    | _, _ => none

/-- The indices of a progression at which its value lies strictly between two bounds. -/
def Prog.between (p : Prog) (x y : Int) : List Nat :=
  let run (a d b : Int) : List Nat :=
    let lo := (Max.max 0 (a / d + 1)).toNat
    let hi := (Min.min (p.count : Int) ((b - 1) / d + 1)).toNat
    (List.range (hi - lo)).map (lo + ·)
  if 0 < p.step then run (x - p.first) p.step (y - p.first)
  else if p.step < 0 then run (p.first - y) (-p.step) (p.first - x)
  else if 0 < p.count ∧ x < p.first ∧ p.first < y then [0] else []

/-- The least of several. -/
def leastOf (l : List (Option Int)) : Option Int :=
  l.foldl (fun (o a : Option Int) => match o, a with | some x, some y => some (Min.min x y) | none, a => a | o, none => o) none

/-- The least byte in `lo … hi − 1` that runs of `len` bytes touch, a run beginning at `a` and a sum of one value of each term. -/
def leastTouched (len : Nat) (lo hi : Int) : List (List Prog) → Int → Option Int
  | [], a => if lo < a + len ∧ a < hi then some (Max.max a lo) else none
  | t :: ts, a =>
    match termSpan t, termsSpan ts with
    | some p, some q =>
      if lo ≤ a + p.1 + q.1 ∧ a + p.2 + q.2 + len ≤ hi then some (a + p.1 + q.1)
      else
        leastOf (t.flatMap fun g => (g.between (lo - a - q.2 - len) (hi - a - q.1)).map fun (i : Nat) =>
          leastTouched len lo hi ts (a + g.first + i * g.step))
    | _, _ => none

/-- The greatest byte touched: the least of the mirror image. -/
def greatestTouched (len : Nat) (lo hi : Int) (ts : List (List Prog)) (a : Int) : Option Int :=
  let mirror (g : Prog) : Prog := { first := -g.first, count := g.count, step := -g.step }
  (leastTouched len (1 - hi) (1 - lo) (ts.map fun t => t.map mirror) (1 - a - len)).map fun v => -v

/-- The values of a layout's dimension `k`, in bytes: the coordinates that the windows reach inside the extent. -/
def Side.dimProgs (x : Side) (nest : Side) (k : Nat) : List Prog :=
  (List.range (Side.dim nest.cnt k)).filterMap fun (i : Nat) =>
    let c := Side.dim x.org k + (i : Int) * Side.dim x.stp k
    let lo := Max.max 0 c
    let hi := Min.min ((Side.dim x.ext k : Nat) : Int) (c + (Side.dim nest.wsh k : Nat))
    if hi ≤ lo then none else some { first := lo * Side.dim x.strd k, count := (hi - lo).toNat, step := Side.dim x.strd k }

/-- Every sum of one value of each term. -/
def allSums : List (List Prog) → List Int
  | [] => [0]
  | t :: ts =>
    let below := allSums ts
    t.flatMap fun g => (List.range g.count).flatMap fun (i : Nat) => below.map fun v => g.first + i * g.step + v

/-- Bytes that one row on a side can take: of the units themselves, or the most a decode, a quantisation or a weight load
makes of them (R101, R103, R104). -/
def rowBytes (src dst : Side) (w : Walker) (isDst : Bool) : Nat :=
  if isDst && dst.ef == 0 && src.ef != 0 then
    let e := Max.max (blkCount src.ct) 1
    (w.len + e - 1) / e * 64
  else if isDst && src.ef == 0 && dst.typed then w.len * 248 * dst.unit
  else w.len * (if isDst then dst.unit else src.unit)

/-- Rows of 64 bytes that a weight load writes at most. -/
def weightRows (src dst : Side) (w : Walker) : Nat :=
  let per := if dst.ef = 0x0E then 64 else 128
  let each := if src.ef ≠ 0 then 1 else if dst.ef = 0x0E then 62 else 248
  (w.total * each + per - 1) / per

/-- The bytes that a side may touch, as runs: from where, their length, and the terms that place them; `none` when there are none. A
weight load writes its rows one after the other, and a decoded row ends before its bound (R101, R104). -/
def Side.runs (src dst : Side) (isDst : Bool) : Int × Nat × List (List Prog) :=
  let x := if isDst then dst else src
  let w := walkerOf src dst
  let line (n : Nat) (d : Int) : List Prog := [{ first := 0, count := n, step := d }]
  if x.layout then
    let at_ (a : Int) : Prog := { first := x.interleave a - x.base, count := 1, step := 0 }
    let ts := dims.map fun k => x.dimProgs ((walkSide src dst).getD x) k
    (x.base, x.unit, if x.bim = 0 then ts else [(allSums ts).map at_])
  else if isDst && (x.ef == 0x0E || x.ef == 0x0F) then ((x.base : Int), weightRows src dst w * 64, [])
  else
    let b2b := (walkSide src dst).isNone
    let bound := if b2b ∨ 1 < w.rows then x.rs.natAbs else x.ws.natAbs
    let most := rowBytes src dst w isDst
    let len := if isDst && src.ef == 0 && x.typed && bound != 0 then Min.min most bound else most
    (x.base, len, if b2b then [line w.rows x.rs] else [line w.wins x.ws, line w.rows x.rs])

/-- The smallest run of bytes of `lo … hi − 1` that holds all a side may touch there (R143); BCM keeps a buffer in its extent. -/
def Side.touched (src dst : Side) (isDst : Bool) (lo hi : Int) : Option (Nat × Nat) :=
  let x := if isDst then dst else src
  let (a, len, ts) := Side.runs src dst isDst
  let inside := !x.layout && (x.bcm == 1 || x.bcm == 2)
  let lo := if inside then Max.max lo x.base else lo
  let hi := if inside then Min.min hi ((x.base : Int) + x.bext) else hi
  match leastTouched len lo hi ts a, greatestTouched len lo hi ts a with
  | some p, some q => some (p.toNat, q.toNat)
  | _, _ => none

/-- The smallest run that holds two. -/
def unionRun : Option (Nat × Nat) → Option (Nat × Nat) → Option (Nat × Nat)
  | some p, some q => some (Min.min p.1 q.1, Max.max p.2 q.2)
  | some p, none => some p
  | none, q => q

/-- The scoreboard intervals of a side on core `n` (R143, R144): the run it may touch of the context's partition, or of each of the three
spaces in the core's own window; none for a ring side. -/
def Cmd.intervals (n : CoreId) (k : CoreCtx) (c : Cmd) (isDst : Bool) : List (SbSpace × Nat × Nat) :=
  let src := sideOf c.sl c.src
  let dst := sideOf c.dl c.dst
  let x := if isDst then dst else src
  let span (at_ len : Nat) : Option (Nat × Nat) := Side.touched src dst isDst at_ (at_ + len : Nat)
  let run (sp : SbSpace) (at_ off : Nat) (r : Option (Nat × Nat)) : List (SbSpace × Nat × Nat) :=
    match r with
    | some (p, q) => [(sp, (p - at_ + off) / 64, (q - at_ + off) / 64)]
    | none => []
  if x.ring.isSome then []
  else if x.space = 1 then run .loft 0 k.base (span 0 k.psize)
  else
    let w := windowBase n
    run .loft w k.base (span w k.psize) ++
      run .sums w 0 (unionRun (span (w + 0x1000000) 0x40000) (span (w + 0x1400000) 0x20000)) ++
      run .array (w + 0x2000000) 0 (span (w + 0x2000000) 0x100000)

/-- The entries a copy or register command takes at its commit (R144): a read over its source side and a write over its
destination side; the register side of an `xfer` takes none. -/
def Cmd.entries (n : CoreId) (k : CoreCtx) (c : Cmd) : List SbEntry :=
  if c.kind == .signal then []
  else
    let mk (write : Bool) : List SbEntry :=
      let x := if write then sideOf c.dl c.dst else sideOf c.sl c.src
      (c.intervals n k write).map fun i =>
        { space := i.1, lo := i.2.1, hi := i.2.2, write := write, soft := x.tags && i.1 == .loft, ctx := c.ctx, owner := .cmd c.uid }
    (if c.kind == .xfer then [] else mk false) ++ mk true

end Sys2Proof.Machine
end

