-- ==== Sys2Proof/Machine/Engine.lean ====
section
/-!
DEFINITION. How a copy command runs (R98 to R122): its place in the machine, command images and faults, the reads and writes of
one conversion unit with everything that can hold or fault it, arrivals, stamps, completion and abort.
-/
namespace Sys2Proof.Machine

/-! ## Finding and changing commands -/

/-- A change of every command an engine slot holds. -/
def EngSlot.mapCmds (e : EngSlot) (f : Cmd → Cmd) : EngSlot :=
  { e with active := e.active.map f, staged := e.staged.map f, regs := e.regs.map f }

/-- A change of every command of a task. -/
def Task.mapCmds (t : Task) (f : Cmd → Cmd) : Task := { t with engines := t.engines.map (·.mapCmds f) }

/-- A change of every command of a core, saved ones included. -/
def Core.mapAll (c : Core) (f : Cmd → Cmd) : Core :=
  { c with mapCmds := c.mapCmds.map f, banks := c.banks.map fun b => b.map (·.mapCmds f),
           saved := c.saved.map fun v => { v with task := v.task.map (·.mapCmds f) } }

/-- A command changed, by its name. -/
def Core.modCmd (c : Core) (uid : Nat) (f : Cmd → Cmd) : Core := c.mapAll fun k => if k.uid = uid then f k else k

/-- A command of core `n` changed. -/
def State.modCmd (s : State) (n : CoreId) (uid : Nat) (f : Cmd → Cmd) : State := s.modCore n (·.modCmd uid f)

/-- A command by its name. -/
def Core.cmd (c : Core) (uid : Nat) : Option Cmd := c.allCmds.find? (·.uid == uid)

/-- A committed or later command by its handle (R120). -/
def Core.byHandle (c : Core) (h : BitVec 32) : Option Cmd :=
  c.allCmds.find? fun k => k.handle == h && k.status != .building && h != 0

/-- An engine slot of the resident task that holds a command changed; the engine is the command's own. -/
def Core.modSlot (c : Core) (k : Cmd) (f : EngSlot → EngSlot) : Core :=
  let i : Fin 2 := if k.eng then 1 else 0
  let fix (t : Task) : Task :=
    if t.cmds.any (·.uid == k.uid) then { t with engines := t.engines.set i (f t.engines[i]) } else t
  { c with banks := c.banks.map fun b => b.map fix, saved := c.saved.map fun v => { v with task := v.task.map fix } }

/-- Conditions of a command go to the sticky flags of its engine for the issuing bank (R106). -/
def State.cmdFlags (s : State) (n : CoreId) (k : Cmd) (bits : BitVec 6) : State :=
  s.modCore n fun c => c.modSlot k fun e => { e with flags := e.flags ||| bits }

/-! ## Images and faults (R119, R121) -/

/-- The commands of the engines; the others are the map unit's. -/
def CmdKind.engine : CmdKind → Bool
  | .copy | .xfer | .signal => true
  | _ => false

/-- The control word of an image. -/
def Cmd.control (c : Cmd) : W64 :=
  w64 (c.handle.toNat * 2 ^ 32 + c.ctx.toNat * 2 ^ 16 + bit c.eng * 2 ^ 12 + bit (c.kind == .signal) * 2 ^ 11
    + bit c.codeBank * 2 ^ 10 + bit (!c.heldBy.isEmpty) * 2 ^ 9 + bit c.link * 2 ^ 8 + c.scope.val * 2 ^ 5 + c.op.val * 2 ^ 3
    + bit c.red * 4 + bit c.sl * 2 + bit c.dl)

/-- The resume position on the source side: window, row, byte offset in the row (R119). A command that has delivered every unit, and whose last arrival
or stamp fails, has no unit left for R119 to name: the model gives the number of units, whose digits wrap to loop indices of 0 (log entry 120). -/
def Cmd.resumeAt (c : Cmd) : Nat × Nat × Nat :=
  let src := sideOf c.sl c.src
  let dst := sideOf c.dl c.dst
  let u := if c.weights.isEmpty then c.pos else c.pos - 1
  let (n, q, w0) := (walkerOf src dst).split u
  (n, q, w0 * src.unit)

/-- The 256-byte image of a command (R119). -/
def Cmd.image (c : Cmd) : List Byte :=
  let (n, q, off) := c.resumeAt
  let nest := walkSide (sideOf c.sl c.src) (sideOf c.dl c.dst)
  let idx := match nest with | some l => digits l.cnt n | none => []
  let packed := ((idx.zip dims).map fun p => p.1 % 1024 * 2 ^ (10 * p.2)).sum
  leBytes 96 c.dst.toNat ++ leBytes 96 c.src.toNat
    ++ wordsBytes [c.control, c.barrier, if c.stamped then c.stampAddr else 0, c.stampVal, w64 packed,
        w64 (off % 2 ^ 32 * 2 ^ 32 + q % 2 ^ 32), w64 (c.faultAddr.toNat * 2 ^ 8 + c.cause.toNat), w64 c.counted]

/-- A command goes back to the beginning of the unit whose packets have not all performed. -/
def Cmd.undone (k : Cmd) : Cmd :=
  match k.undo with
  | some u =>
    { k with pos := u.pos, skip := u.skip, rowElems := u.rowElems, prevCount := u.prevCount, weights := u.weights, hand := u.hand, undo := none }
  | none => k

/-- The tagged words that a withdrawn unit emptied are full again: the unit will read them anew (R113). -/
def State.refill (s : State) (k : Cmd) : State :=
  match k.undo with
  | some u => u.tags.foldl (fun s w => s.modCore w.1 fun c => { c with tags := c.tags.put [(w.2, 1)] }) s
  | none => s

/-- Packets of a command that have not performed are withdrawn; a packet that carries other commands' contributions too goes on. -/
def Device.withdraw (d : Device) (uid : Nat) : Device := { d with net := d.net.filter fun p => p.uid != uid || 1 < p.ids.length }

/-- A command faults: it stops at the unit that could not perform, keeps its entries, its packets are withdrawn, a stamp that was sent is
to be written anew, and a fault record carries its image (R121). -/
def State.faultAt (s : State) (n : CoreId) (uid : Nat) (cause : Cause) (a : BitVec 56) : State :=
  let s := s.modDev (·.withdraw uid)
  let s := (match (s.core n).cmd uid with | some k => s.refill k | none => s)
  let s := s.modCmd n uid fun k =>
    { k.undone with
      status := .faulted, cause := cause, faultAddr := a, page := none, xfail := 0, inflight := 0, farBytes := 0, ahead := none,
      stampSent := false, owed := if k.undo.isSome then [] else k.owed }
  match (s.core n).cmd uid with
  | some k => (retake s n k).report n k.ctx 0x01 0 [] k.image
  | none => s
where
  /-- A write-back that faults leaves its granule dirty and keeps its read interval (R84). -/
  retake (s : State) (n : CoreId) (k : Cmd) : State :=
    if k.kind == .writeBack && !(s.core n).sb.any (·.owner == .cmd uid) then
      s.modCore n fun c =>
        let g := ((c.cctx k.ctx).getD (.missing k.ctx)).base / 64 + k.gran
        { c.modCtx k.ctx (·.soil k.gran) with
          sb := c.sb ++ [{ space := .loft, lo := g, hi := g, write := false, soft := false, ctx := k.ctx, owner := .cmd uid }] }
    else s

/-- A command faults at the granule of an address (R65, R119). -/
def State.faultCmd (s : State) (n : CoreId) (uid : Nat) (cause : Cause) (a : Int) : State :=
  s.faultAt n uid cause (BitVec.ofInt 56 (a / 64 * 64))

/-- The home refuses a granule of a command, which faults; one that a plain copy sent before its turn is withdrawn, and met again in its turn (R100). -/
def State.refuseCmd (s : State) (n : CoreId) (uid : Nat) (cause : Cause) (a : Int) : State :=
  if (((s.core n).cmd uid).bind (·.ahead)).isSome then
    (s.modDev (·.withdraw uid)).modCmd n uid fun k => { k with inflight := 0, farBytes := 0, ahead := none }
  else s.faultCmd n uid cause a

/-! ## What stops a unit -/

/-- Why a unit does not perform now: it is held, perhaps with something begun, or the command faults. -/
inductive Stop where
  | held (s : State)
  | fault (c : Cause) (a : Int)
deriving Repr

/-- The agent on whose behalf a granule is touched: its core, context, name and the entries it must yield to. -/
structure Agent where
  core : CoreId
  ctx : BitVec 16
  tid : BitVec 16
  uid : Nat
  owner : SbOwner
deriving DecidableEq, Repr, Inhabited

/-- The agent of a command. -/
def Cmd.agent (n : CoreId) (c : Cmd) : Agent := { core := n, ctx := c.ctx, tid := c.tid, uid := c.uid, owner := .cmd c.uid }

/-- What the agent's core holds for its context. -/
def State.agentCtx (s : State) (a : Agent) : CoreCtx := s.ctxOn a.core a.ctx

/-- The owner's operation is one that an `rgsync` awaits, whose entry does not hold it (R90). -/
def Core.awaitedBy (c : Core) (f : SbEntry) (o : SbOwner) : Bool :=
  c.syncs.any fun r => .sync r.uid == f.owner && (r.inflight.map SbOwner.cmd) == some o

/-- An older entry conflicts with an entry of the owner in a space: the owner touches none of its granules there (R145). -/
def Core.heldIn (c : Core) (o : SbOwner) (space : SbSpace) : Bool :=
  (c.sb.filter fun e => e.owner == o && e.space == space).any fun e =>
    (c.olderThan o).any fun f => f.meets space e.lo e.hi && (e.write || f.write) && !c.awaitedBy f o

/-- The agent's accesses to a space are held by older entries (R145). An agent without an entry has no age and is held by none, nor is a fill. -/
def State.olderHolds (s : State) (a : Agent) (space : SbSpace) : Bool :=
  !((s.core a.core).cmd a.uid).any (·.kind == .fill) && (s.core a.core).heldIn a.owner space

/-- The scoreboard granule of a physical address in the agent's own window (R143). -/
def State.ownGranule (s : State) (a : Agent) (pa : Nat) : Option (SbSpace × Nat) :=
  match placeOf pa with
  | .window m o =>
    if m = a.core then
      match partOf o with
      | some (.loft, x) => some (.loft, ((s.agentCtx a).base + x) / 64)
      | some (.acc, _) | some (.bnd, _) => some (.sums, o / 64)
      | some (.macros, x) => some (.array, x / 64)
      | _ => none
    else none
  | _ => none

/-- The pieces of a run of bytes that lie in one granule each. -/
def pieces (a : Int) : Nat → Nat → List (Int × Nat)
  | 0, _ => []
  | _, 0 => []
  | f + 1, len =>
    let room := 64 - (a % 64).toNat
    if len ≤ room then [(a, len)] else (a, room) :: pieces (a + room) f (len - room)

/-- The granule of the context's loft is ready for the agent: the holds of R145, then residency (R83, R148); `whole`: the write
covers it. The state returned has made a first touch. -/
def State.loftReady (s : State) (a : Agent) (write whole : Bool) (g : Nat) : Except Stop State :=
  let k := s.agentCtx a
  if s.olderHolds a .loft then .error (.held s)
  else
    match k.regionOf g with
    | none => .ok s
    | some i =>
      if k.isResident g || (write && whole) then .ok s
      else if k.regionFill i = 2 then .ok (s.modCore a.core fun c => c.touchZero k i g)
      else if ((s.core a.core).fillOf a.ctx g).any (·.uid == a.uid) then .ok s
      else if ((s.core a.core).fillOf a.ctx g).isSome || !(s.core a.core).room a.ctx 1 then .error (.held s)
      else if ((s.core a.core).olderThan a.owner).any fun e => e.write && e.meets .loft (k.base / 64 + g) (k.base / 64 + g) then
        .error (.held s)
      else .error (.held (s.startFill a.core k g a.tid).2)

/-- Note the page an agent's command waits for, and start or join its walk (R80). -/
def State.needWalk (s : State) (a : Agent) (va : Nat) : State :=
  let asn := (s.agentCtx a).asn
  let p := va % 2 ^ 56 / 4096
  let s := s.modCmd a.core a.uid fun k => { k with page := some p }
  if s.dev.walks.any fun w => w.die == dieOf a.core && w.asn == asn && w.vpage == p then s
  else s.modDev fun d => { d with walks := d.walks ++ [{ die := dieOf a.core, asn := asn, vpage := p, core := a.core, ctx := a.ctx }] }

/-- The physical address of an address of a side: translated in space 0b00, as it stands in space 0b10; a walk that failed for
the command is its fault. -/
def State.resolve (s : State) (a : Agent) (space : Nat) (adr : Int) (write : Bool) : Except Stop Nat :=
  let va := (adr % 2 ^ 56).toNat
  if space = 2 then .ok va
  else
    match s.translate a.core (s.agentCtx a).asn va write with
    | .pa p => .ok p
    | .fail c => .error (.fault c adr)
    | .walk =>
      match (s.core a.core).cmd a.uid with
      | some k =>
        if k.page = some (va / 4096) ∧ k.xfail ≠ 0 then .error (.fault k.xfail adr) else .error (.held (s.needWalk a va))
      | none => .error (.held (s.needWalk a va))

/-- The agent's non-local granules may leave now: in an exchange phase (R112), unless its transfers are cancelled in it, because
its task was held over (R330, R332) or its context's budget expired (R331). -/
def State.mayLeave (s : State) (a : Agent) : Bool :=
  s.dev.phase.getLsbD 0 && !s.dev.cancelled.contains a.ctx && !((s.core a.core).tasks.any fun p => p.2.tid == a.tid && p.2.cut)

/-- A piece of a physical address is ready: permitted, in phase when it is not local (R112), and not held. -/
def State.physReady (s : State) (a : Agent) (pa len : Nat) (write : Bool) (adr : Int) : Except Stop Unit :=
  match s.physMeets a.ctx (s.supOf a.core a.ctx) write pa len with
  | .fail c => .error (.fault c adr)
  | .held => .error (.held s)
  | .ok =>
    if !localTo a.core pa && !s.mayLeave a then .error (.held s)
    else
      match s.ownGranule a pa with
      | some (sp, _) => if s.olderHolds a sp then .error (.held s) else .ok ()
      | none => .ok ()

/-- How a tagged source is read (R113): each word must be full and is left empty; the words that the next unit of the row reads too, from
`next` on, are emptied with that unit. -/
structure TagRead where
  tags : Bool
  next : Option Int
deriving Repr

/-- Words of a tagged source in the loft of core `m`, in order: each must be full, and no earlier waiter may stand before the command
(R113, R138). No word is emptied before the whole unit can be delivered, a moment that R137 leaves open (log entry 121). -/
def State.tagsReady (s : State) (a : Agent) (m : CoreId) (base o : Nat) : List Nat → Except Stop Unit
  | [] => .ok ()
  | i :: is =>
    let c := s.core m
    let w : Waiter := { ctx := a.ctx, ring := false, obj := (o / 4 + i) * 4, dir := true, owner := a.owner }
    if c.tags.get (base / 4 + o / 4 + i) == 1 && !c.queued w then s.tagsReady a m base o is
    else .error (.held (s.modCore m fun c => c.enqueue w))

/-- The tags of a run of bytes from the context-relative offset `o` of core `m`'s loft, whose address on its side is `adr`, tested and
emptied for a tagged source. -/
def State.takeTags (s : State) (a : Agent) (r : TagRead) (m : CoreId) (base o : Nat) (adr : Int) (len : Nat) : Except Stop State := do
  if !r.tags then return s
  let words := if len = 0 then [] else List.range ((o + len - 1) / 4 - o / 4 + 1)
  s.tagsReady a m base o words
  let done := words.filter fun i => r.next.map (· / 4) != some (adr / 4 + (i : Nat))
  return s.modCore m fun c =>
    { c with tags := c.tags.put (done.map fun i => (base / 4 + o / 4 + i, 0)),
             waitq := c.waitq.filter fun w => w.owner != a.owner || w.ring }

/-- Bytes of a run of the context's loft, read for a command. -/
def State.readLoft (s : State) (a : Agent) (r : TagRead) (adr : Int) (len : Nat) : Except Stop (State × List Byte) := do
  let k := s.agentCtx a
  if adr < 0 ∨ (k.psize : Int) < adr + len then .error (.fault 0x04 adr)
  else
    let o := adr.toNat
    let s ← (granules [(o, len)]).foldlM (fun s g => s.loftReady a false false g) s
    let s ← s.takeTags a r a.core k.base o adr len
    .ok (s, (s.core a.core).loft.read (k.base + o) len)

/-- A physical address lies in a part of a window that moves whole granules (R71). -/
def wholeGranules (pa : Nat) : Bool :=
  match placeOf pa with
  | .window _ o => match partOf o with | some (p, _) => p.whole | none => false
  | _ => false

/-- Bytes read through an address of space 0b00 or 0b10, piece by piece; `covers` tells whether the command reads the whole of a
granule, as the parts that move whole granules require. A tagged source in a loft is tagged through its window too (R113, R137). -/
def State.readPhys (s : State) (a : Agent) (space : Nat) (covers : Int → Bool) (t : TagRead) :
    List (Int × Nat) → Except Stop (State × List Byte)
  | [] => .ok (s, [])
  | (adr, len) :: r => do
    let pa ← s.resolve a space adr false
    let whole := wholeGranules pa && covers (adr / 64)
    s.physReady a (if whole then pa / 64 * 64 else pa) (if whole then 64 else len) false adr
    let bs := s.physRead a.ctx pa len
    let s ← (match placeOf pa with
      | .window m o =>
        if o < 0x300000 then s.takeTags a t m (((s.core m).cctx a.ctx).getD (.missing a.ctx)).base o adr len else .ok s
      | _ => .ok (s.readBeat pa) : Except Stop State)
    let (s, rest) ← s.readPhys a space covers t r
    return (s, bs ++ rest)

/-- Bytes of DRAM that a run of pieces moves. -/
def State.dramBytes (s : State) (a : Agent) (space : Nat) (ps : List (Int × Nat)) (write : Bool) : Nat :=
  (ps.map fun p =>
    match s.resolve a space p.1 write with
    | .ok pa => match placeOf pa with | .dram _ _ => p.2 | _ => 0
    | .error _ => 0).sum

/-- A run of bytes of a loft side lies at or beyond the partition's end: it faults whatever BCM says (R93, R135). -/
def beyondLoft (k : CoreCtx) (x : Side) (adr : Int) (len : Nat) : Bool :=
  x.space == 1 && (adr < 0 || (k.psize : Int) < adr + len)

/-- A unit of the source side at an address (R93): `none` when a clamp reads zero. -/
def State.readUnit (s : State) (a : Agent) (x : Side) (covers : Int → Bool) (t : TagRead) (adr : Int) (len : Nat) :
    Except Stop (State × Option (List Byte)) := do
  let out := !x.layout && x.ring.isNone && !((x.base : Int) ≤ adr && adr + len ≤ (x.base : Int) + x.bext)
  if beyondLoft (s.agentCtx a) x adr len ∨ (x.bcm = 1 ∧ out) then .error (.fault 0x04 adr)
  else if x.bcm = 2 ∧ out then .ok (s, none)
  else if x.space = 1 then
    let (s, bs) ← s.readLoft a t adr len
    .ok (s, some bs)
  else
    let ps := pieces adr (len + 1) len
    let (s, bs) ← s.readPhys a x.space covers t ps
    .ok (s.chargeDram a.core a.ctx (s.dramBytes a x.space ps false), some bs)

/-! ## Writes -/

/-- Bytes to store, by granule in the order of first appearance: the granule's address and its covered bytes by offset. -/
abbrev Pieces := List (Int × List (Nat × Byte))

/-- Add one run of bytes to the pieces. -/
def Pieces.add (ps : Pieces) (adr : Int) (bs : List Byte) : Pieces :=
  ((List.range bs.length).zip bs).foldl (fun ps p =>
    let x := adr + p.1
    let g := x / 64
    let cell := ((x % 64).toNat, p.2)
    if ps.any (·.1 == g * 64) then
      ps.map fun q => if q.1 == g * 64 then (q.1, q.2.filter (·.1 != cell.1) ++ [cell]) else q
    else ps ++ [(g * 64, [cell])]) ps

/-- Where a granule of the destination goes. -/
inductive Dest where
  | loft (o : Nat)
  | near (pa : Nat)
  | far (pa : Nat)
deriving DecidableEq, Repr, Inhabited

/-- The first of a granule's covered offsets and the length to check: 64 only for a granule that is covered whole (R71, R86). -/
def coverOf (os : List Nat) : Nat × Nat :=
  let lo : Nat := os.foldl Min.min 63
  let hi : Nat := os.foldl Max.max 0
  if os.eraseDups.length = 64 then (0, 64) else (lo, Min.min (hi - lo + 1) 63)

/-- A destination granule is ready: its place, and the state that first touches left. `os` are the covered offsets; a reduction reads what
it writes (R116), so it covers no granule that is not resident. -/
def State.destReady (s : State) (a : Agent) (space : Nat) (red : Bool) (g : Int) (os : List Nat) : Except Stop (State × Dest) := do
  let (lo, run) := coverOf os
  if space = 1 then
    if g < 0 ∨ ((s.agentCtx a).psize : Int) < g + lo + run then .error (.fault 0x04 (g + lo))
    else
      let s ← s.loftReady a true (run == 64 && !red) (g / 64).toNat
      .ok (s, .loft g.toNat)
  else
    let pa ← s.resolve a space g true
    if red then s.physReady a (pa + lo) run false (g + lo)
    s.physReady a (pa + lo) run true (g + lo)
    .ok (s, if localTo a.core pa then .near pa else .far pa)

/-- A reduction of one unit: the destination element and a contribution, which is FP32 for a floating-point type (R116, R310). -/
def redApply (op : Fin 4) (ty d v : Nat) : Nat × Cond :=
  match elemTy ty with
  | .int sg b =>
    let x := intOf sg (8 * b) d
    let y := intOf sg (8 * b) v
    (bitsOfInt (8 * b) (combInt op x y), .none)
  | .flt f =>
    let (x, fx) := f.read d
    let (y, fy) := FFmt.f32.read v
    let (z, inv) := match op with
      | 0 => x.add y .rne
      | 1 => (x.fmax y, false)
      | _ => (x.fmin y, false)
    let (r, c) := roundF z f .rne
    (r, c.or { invalid := inv, flush := fx || fy })

/-- The contribution an element makes: itself, or its exact FP32 value read under R15. -/
def redSource (ty v : Nat) : Nat × Bool :=
  match elemTy ty with
  | .int _ _ => (v, false)
  | .flt f => toF32 f v

/-- Units of a reduction applied to the bytes of a granule (R116). -/
def redCells (op : Fin 4) (ty : Nat) (old : List Byte) (parts : List (Nat × Nat)) : List (Nat × Byte) × Cond :=
  let w := tyWidth ty
  let (bs, c) := parts.foldl (fun (acc : List Byte × Cond) p =>
    let r := redApply op ty (leNat ((acc.1.drop p.1).take w)) p.2
    (acc.1.take p.1 ++ leBytes w r.1 ++ acc.1.drop (p.1 + w), acc.2.or r.2)) (old, .none)
  (parts.flatMap fun p => (List.range w).map fun i => (p.1 + i, bs.getD (p.1 + i) 0), c)

/-- Covered bytes of the context's loft written for a command: residency, dirt and tags (R83, R137). -/
def State.putLoft (s : State) (a : Agent) (tags : Bool) (o : Nat) (cells : List (Nat × Byte)) : State :=
  let k := s.agentCtx a
  s.modCore a.core fun c =>
    let c := c.touch a.ctx (cells.map fun p => (o + p.1, 1)) true
    { c with loft := c.loft.put (cells.map fun p => (k.base + o + p.1, p.2)),
             tags := if tags then c.tags.put (cells.map fun p => ((k.base + o + p.1) / 4, 1)) else c.tags }

/-- Send a packet. -/
def State.sendPacket (s : State) (p : Packet) : State := s.modDev fun d => { d with net := d.net ++ [p] }

/-- Bytes at a destination that is not far. -/
def State.destBytes (s : State) (a : Agent) : Dest → List Byte
  | .loft o => (s.core a.core).loft.read ((s.agentCtx a).base + o) 64
  | .near pa | .far pa => s.physRead a.ctx pa 64

/-! ## Arrivals (R108, R381) -/

/-- The core and context-relative offset of a barrier address of a command on core `n` (R109). -/
def barrierAt (n : CoreId) (b : W64) : CoreId × Nat :=
  let a := b.toNat % 2 ^ 56
  match placeOf a with
  | .window m o => (m, o)
  | _ => (n, a)

/-- Why an arrival could not be made: the barrier lies beyond the context's partition (R135), or another core's window refuses it (R70, R71). -/
def State.arrivalRefused (s : State) (n : CoreId) (x : BitVec 16) (b : W64) : Option Cause :=
  if b = 0 then none
  else
    let (m, o) := barrierAt n b
    if m = n then (if (s.ctxOn n x).psize < o + 16 then some 0x04 else none)
    else (s.core m).windowRefuses x false true o 16

/-- One arrival of `bytes` at the barrier of a command. -/
def State.arrival (s : State) (n : CoreId) (x : BitVec 16) (b : W64) (bytes : Nat) : State :=
  if b = 0 ∨ bytes = 0 then s
  else
    let (m, o) := barrierAt n b
    (s.modCore m fun c => c.touch x [(o, 16)] true).arriveAt m ((((s.core m).cctx x).getD (.missing x)).base + o) bytes

/-- The arrivals of granules that have performed, in sequence order. -/
def State.arrivals (s : State) (n : CoreId) (uid : Nat) (bytes : List Nat) : State :=
  match (s.core n).cmd uid with
  | none => s
  | some k =>
    (bytes.foldl (fun s b => s.arrival n k.ctx k.barrier b) s).modCmd n uid fun k =>
      { k with counted := k.counted + bytes.sum, owed := [] }

/-- The arrivals that a command owes may be made now: the barrier's granule is resident in the core's own loft (R83), and another core's
loft is reached in an exchange phase alone (R398). A cancellation stops the transfers of granules and not the arrivals of granules that have performed (log
entry 122). -/
def State.barrierReady (s : State) (n : CoreId) (k : Cmd) : Except Stop State :=
  if k.barrier = 0 then .ok s
  else
    let (m, o) := barrierAt n k.barrier
    if m = n then s.loftReady (k.agent n) true false (o / 64)
    else if s.exchange then .ok s
    else .error (.held s)

/-! ## One conversion unit -/

/-- What a conversion unit writes: byte runs, or the contributions of a reduction with their offsets from the run's granule, and
what it leaves in the command. -/
structure UnitOut where
  runs : List (Int × List Byte) := []
  parts : List (Int × Nat) := []
  next : Nat
  skip : Nat := 0
  flags : BitVec 6 := 0
  rowElems : Nat := 0
  prevCount : Nat := 62
  weights : List Weight := []
  hand : Option (List Byte) := none
  group : Option (Bool × Int) := none
deriving Repr

/-- A destination unit at an address is in the conversion unit already. -/
def UnitOut.has (o : UnitOut) (a : Int) : Bool := o.runs.any (·.1 == a) || o.parts.any (·.1 == a)

/-- FILL as an element of the source's format (R99). -/
def fillElem (x : Side) : Nat :=
  match x.ef with
  | 0x04 => (signExt 32 x.fill).toNat
  | _ => x.fill % 2 ^ (8 * x.unit)

/-- FILL read as FP32 under R15 (R101). -/
def fillEx (x : Side) : Ex × Bool := FFmt.f32.read x.fill

/-- The block a BLK-to-BLK copy writes for a unit outside the extents (R101). -/
def fillBlock (x : Side) : List Byte :=
  let v := (roundF (fillEx x).1 .f32 .rne).1
  [0x08, 0] ++ (List.replicate 15 v).flatMap (leBytes 4) ++ [0, 0]

/-- An exact value delivered as an element of a type under RNE. An integer block element times a power of two that saturates raises overflow and inexact: R19
gives one sentence for an integer that Sat changes and one for a finite value beyond the range, and names neither for it (log entry 123). -/
def deliverEx (dst : Nat) (x : Ex) : Nat × Cond :=
  match elemTy dst with
  | .int sg b => let (i, c) := roundI x sg (8 * b) .rne; (bitsOfInt (8 * b) i, c)
  | .flt f => roundF x f .rne

/-- The flag bits of conditions, with the clamped flag. -/
def flagBits (c : Cond) (clamped : Bool) : BitVec 6 := c.bits.setWidth 6 ||| (if clamped then 0x20 else 0)

/-- A destination unit's checks (R93, R113): `none` when the write is dropped. -/
def destUnit (k : CoreCtx) (x : Side) (slot : Option Nat) (adr : Int) (len : Nat) : Except Stop (Option Int) :=
  match x.ring with
  | some i =>
    let off := adr - x.slotBase k slot
    if off < 0 ∨ ((k.rings[i]).desc.fld 32 16 * 64 : Nat) < off + len then .error (.fault 0x0F adr) else .ok (some adr)
  | none =>
    let out := !x.layout && !((x.base : Int) ≤ adr && adr + len ≤ (x.base : Int) + x.bext)
    if beyondLoft k x adr len ∨ (x.bcm = 1 ∧ out) then .error (.fault 0x04 adr)
    else if x.bcm = 2 ∧ out then .ok none
    else .ok (some adr)

/-- Everything a unit is delivered from. -/
structure Job1 where
  agent : Agent
  cmd : Cmd
  ctx : CoreCtx
  src : Side
  dst : Side
  nest : Option Side
  walk : Walker
deriving Repr

/-- The parts of a command on core `n`. -/
def State.jobOf (s : State) (n : CoreId) (c : Cmd) : Job1 :=
  let src := sideOf c.sl c.src
  let dst := sideOf c.dl c.dst
  { agent := c.agent n, cmd := c, ctx := ((s.core n).cctx c.ctx).getD (.missing c.ctx), src := src, dst := dst,
    nest := walkSide src dst, walk := walkerOf src dst }

/-- Source address of unit `u`; `none` outside the extents. -/
def Job1.srcAt (j : Job1) (u : Nat) : Option Int :=
  let (n, q, w0) := j.walk.split u
  j.src.unitAt j.ctx j.nest j.cmd.srcSlot n q w0
/-- Destination address of unit `u`; `none` outside the extents. -/
def Job1.dstAt (j : Job1) (u : Nat) : Option Int :=
  let (n, q, w0) := j.walk.split u
  j.dst.unitAt j.ctx j.nest j.cmd.dstSlot n q w0
/-- Units left in the row of unit `u`, itself included. -/
def Job1.rowLeft (j : Job1) (u : Nat) : Nat := j.walk.len - u % Max.max j.walk.len 1

/-- Units of a window, or of a row of a buffer-to-buffer copy: what a ring slot holds (R113). -/
def Job1.slotUnits (j : Job1) : Nat := Max.max (if j.nest.isNone then j.walk.len else j.walk.len * j.walk.rows) 1
/-- Units from `u` on that may share a conversion unit with it: those of its ring slot, or all that are left. -/
def Job1.runLeft (j : Job1) (u : Nat) : Nat :=
  if j.src.ring.isSome || j.dst.ring.isSome then j.slotUnits - u % j.slotUnits else j.walk.total - u

/-- The command reads every byte of a granule of its source, with the units next to unit `u` (R71): those within 63 of it in sequence, among which are all that
one walk along a granule takes (log entry 30). -/
def Job1.coversSource (j : Job1) (u : Nat) (g : Int) : Bool :=
  let near := (List.range 127).filterMap fun i => if 63 ≤ u + i ∧ u + i - 63 < j.walk.total then j.srcAt (u + i - 63) else none
  (List.range 64).all fun b => near.any fun a => a ≤ g * 64 + b && g * 64 + b < a + j.src.unit

/-- Bytes of the vector registers of a task of core `n`, wherever its bank stands: live, parked or in a save slot (R302). -/
def State.bankBytes (s : State) (n : CoreId) (tid : BitVec 16) (o len : Nat) : List Byte :=
  let c := s.core n
  match c.tasks.find? (·.2.tid == tid), c.saved.find? fun v => v.tid == tid && v.task.isSome with
  | some (_, t), _ => t.regs.v.read o len
  | none, some v => s.dev.dram.read (v.base + o) len
  | none, none => zeroBytes len

/-- The bytes of source unit `u`: of the source, of the fill value, or zero under a clamp; the last is true when clamped. A register command
reads the registers of its own task. -/
def State.sourceUnit (s : State) (j : Job1) (u : Nat) (fill : List Byte) : Except Stop (State × List Byte × Bool) :=
  match j.srcAt u with
  | none => .ok (s, fill, false)
  | some a =>
    if j.cmd.kind = .xfer then
      let o := a.toNat - windowBase j.agent.core - 0x800000
      .ok (s, s.bankBytes j.agent.core j.agent.tid o j.src.unit, false)
    else do
    let w := j.src.unit
    let _ ← (match j.src.ring with
      | some _ => destUnit j.ctx j.src j.cmd.srcSlot a w
      | none => .ok none : Except Stop (Option Int))
    let (s, bs) ← s.readUnit j.agent j.src (j.coversSource u)
      { tags := j.src.tags, next := if 1 < j.rowLeft u then j.srcAt (u + 1) else none } a w
    .ok (s, bs.getD (zeroBytes w), bs.isNone)

/-- Units of a plain or reducing copy that share the destination granule of the first written one, from `u` on, also across rows (R397);
a destination unit written twice begins a new conversion unit. A unit that the destination layout leaves out is not read at its source
either: R99 says only that it is not written (log entry 101). -/
def State.plainRun (s : State) (j : Job1) (u : Nat) (g : Option Int) (out : UnitOut) : Nat → Except Stop (State × UnitOut)
  | 0 => .ok (s, out)
  | n + 1 => do
    let w := j.dst.unit
    let here := j.dstAt u
    match here, g with
    | some a, some g => if a / 64 ≠ g ∨ out.has a then return (s, out)
    | none, none => if j.rowLeft u ≤ 1 then return (s, { out with next := u + 1 })
    | _, _ => pure ()
    let g := match g with | some g => some g | none => here.map (· / 64)
    let blk := j.src.ef = 0 ∧ j.dst.ef = 0
    let fill := if j.src.ef = 0 then fillBlock j.src else leBytes j.src.unit (fillElem j.src)
    match here with
    | none => s.plainRun j (u + 1) g { out with next := u + 1 } n
    | some a =>
      let (s, bs, cl) ← s.sourceUnit j u fill
      if blk then
        if (j.srcAt u).isSome ∧ blkMalformed bs = true ∧ cl = false then throw (.fault 0x05 ((j.srcAt u).getD 0))
        let to_ ← destUnit j.ctx j.dst j.cmd.dstSlot a w
        let fl : Cond := { flush := (j.srcAt u).isNone && (fillEx j.src).2 }
        let out := { out with next := u + 1, flags := out.flags ||| flagBits fl (cl || to_.isNone) }
        s.plainRun j (u + 1) g { out with runs := out.runs ++ (to_.map fun x => (x, bs)).toList } n
      else
        let to_ ← destUnit j.ctx j.dst j.cmd.dstSlot a w
        let (v, c) := convElem (elemTy j.src.ef) (elemTy j.dst.ef) .rne (leNat bs)
        let (pv, fl) := if j.cmd.red then redSource j.dst.ef v else (v, false)
        let c := c.or { flush := fl }
        let out := { out with next := u + 1, flags := out.flags ||| flagBits c (cl || to_.isNone) }
        let out := match to_ with
          | none => out
          | some x => if j.cmd.red then { out with parts := out.parts ++ [(x, pv)] }
                      else { out with runs := out.runs ++ [(x, leBytes w v)] }
        s.plainRun j (u + 1) g out n

/-- What a decode has in hand of a block: its bytes, the exact values it delivers, and whether its read was clamped. -/
structure BlockRead where
  bytes : List Byte
  values : List (Ex × Bool)
  clamped : Bool
deriving Repr

/-- A block read, or the one in hand, with as many values as its count, for a ZERO block that of the block before it (R27, R101); a malformed block
faults. -/
def State.blockRead (s : State) (j : Job1) (u prev : Nat) (hand : Option (List Byte)) : Except Stop (State × BlockRead) := do
  match j.srcAt u with
  | none => return (s, { bytes := [], values := List.replicate prev (fillEx j.src), clamped := false })
  | some a =>
    let (s, bs, cl) ← (match hand with | some bs => .ok (s, bs, false) | none => s.sourceUnit j u [] : Except Stop (State × List Byte × Bool))
    if blkMalformed bs = true ∧ cl = false then throw (.fault 0x05 a)
    let vs := if blkFmt bs = 0 then List.replicate prev (.zero false, false) else blkValues (j.ctx.codeRow j.cmd.codeBank) bs
    return (s, { bytes := bs, values := vs, clamped := cl })

/-- The bound on a decoded row: the spacing to the next row, none when it is 0 or the destination is a ring (R101). -/
def Job1.rowBound (j : Job1) : Option Nat :=
  let b := if j.nest.isNone ∨ 1 < j.walk.rows then j.dst.rs.natAbs else j.dst.ws.natAbs
  if j.dst.ring.isSome ∨ b = 0 then none else some b

/-- Decoded elements in their places, added to a conversion unit: rounded, dropped where a clamp says so, or contributed (R93, R102). -/
def UnitOut.addDecoded (o : UnitOut) (j : Job1) (cl : Bool) (es : List ((Ex × Bool) × Option Int)) : UnitOut :=
  let w := j.dst.unit
  es.foldl (fun (o : UnitOut) e =>
    let (v, c) := deliverEx j.dst.ef e.1.1
    let (pv, fl) := if j.cmd.red then redSource j.dst.ef v else (v, false)
    let o := { o with flags := o.flags ||| flagBits (c.or { flush := e.1.2 || fl }) (cl || e.2.isNone) }
    match e.2 with
    | none => o
    | some x => if j.cmd.red then { o with parts := o.parts ++ [(x, pv)] } else { o with runs := o.runs ++ [(x, leBytes w v)] }) o

/-- Decoded elements that share the destination granule of the first one, from element `skip` of block `u` on, which is element `off` of
its row (R101, R397). A block is read once, and what of it reaches into the next granule stays in hand. A malformed block faults the granule that its
elements reach into, of which nothing is delivered (R122; log entry 129). -/
def State.decodeRun (s : State) (j : Job1) (u skip off prev : Nat) (hand : Option (List Byte)) (g : Option Int) (out : UnitOut) :
    Nat → Except Stop (State × UnitOut)
  | 0 => .ok (s, out)
  | n + 1 => do
    let w := j.dst.unit
    let first := u % Max.max j.walk.len 1 == 0
    let off := if first && skip == 0 then 0 else off
    let prev := if first then 62 else prev
    let (win, q, _) := j.walk.split u
    let start := j.dst.bufAt j.ctx j.nest.isNone j.cmd.dstSlot win q 0
    let here := start + (off * w : Nat)
    match g with
    | some g => if here / 64 ≠ g ∨ out.has here then return (s, out)
    | none => pure ()
    let (s, b) ← s.blockRead j u prev hand
    let vs := b.values
    let spots := (List.range (vs.length - skip)).map fun i => start + ((off + i) * w : Nat)
    let spots := spots.takeWhile fun a => a / 64 == here / 64
    let off := off + spots.length
    match j.rowBound with
    | some most => if most < off * w then throw (.fault 0x0F here)
    | none => pure ()
    let tos ← spots.mapM fun a => destUnit j.ctx j.dst j.cmd.dstSlot a w
    let out := out.addDecoded j b.clamped ((vs.drop skip).zip tos)
    if skip + spots.length < vs.length then
      return (s, { out with next := u, skip := skip + spots.length, rowElems := off, prevCount := prev, hand := some b.bytes })
    else
      s.decodeRun j (u + 1) 0 off vs.length none (some (here / 64))
        { out with next := u + 1, skip := 0, rowElems := off, prevCount := vs.length, hand := none } n

/-- The values of a run of source units of a quantising copy; with a rotation, positions outside the extents are zero (R103). -/
def State.quantValues (s : State) (j : Job1) (u : Nat) : Nat → Except Stop (State × List (Ex × Bool × Bool))
  | 0 => .ok (s, [])
  | n + 1 => do
    let outside := (j.srcAt u).isNone
    let (s, bs, cl) ← s.sourceUnit j u (if j.src.rot ≠ 0 then zeroBytes j.src.unit else leBytes j.src.unit (fillElem j.src))
    let (x, fl) := match elemTy j.src.ef with
      | .int sg b => (Ex.ofInt (intOf sg (8 * b) (leNat bs)), false)
      | .flt f => f.read (leNat bs)
    let (s, rest) ← s.quantValues j (u + 1) n
    return (s, (x, fl || cl, outside && j.src.rot != 0) :: rest)

/-- One quantised block of a row (R103): the rotation groups it needs are rotated first. -/
def State.quantUnit (s : State) (j : Job1) : Except Stop (State × UnitOut) := do
  let u := j.cmd.pos
  let e := blkCount j.src.ct
  let w0 := u % Max.max j.walk.len 1
  let row := u - w0
  let (n, q, _) := j.walk.split u
  let m := Min.min e (j.walk.len - w0)
  let g := if j.src.rot = 0 then 1 else j.src.rotGroup
  let lo := w0 / g * g
  let hi := Min.min j.walk.len ((w0 + m + g - 1) / g * g)
  let (s, vs) ← s.quantValues j (row + lo) (hi - lo)
  let fl : Cond := { flush := vs.any (·.2.1) }
  let (ys, c) : List Ex × Cond :=
    if j.src.rot = 0 then (vs.map (·.1), .none)
    else
      let (r, c) := rotate g (vs.map (·.1))
      ((r.zip vs).map fun p => if p.2.2.2 then .zero false else (FFmt.f32.read p.1).1, c)
  let (blk, cq) := quantise j.src.ct j.src.rot .rne ((ys.drop (w0 - lo)).take m)
  let a := j.dst.bufAt j.ctx j.nest.isNone j.cmd.dstSlot n q ((w0 / e * 64 : Nat))
  let to_ ← destUnit j.ctx j.dst j.cmd.dstSlot a 64
  return (s, { runs := (to_.map fun x => (x, blk)).toList, next := u + m, flags := flagBits ((fl.or c).or cq) to_.isNone })

/-- The weights one source unit supplies, the count for a ZERO block that follows, conditions, and whether the read was clamped (R104,
R105). A block of a format that the destination does not accept faults. -/
def State.weightsOf (s : State) (j : Job1) (u prev : Nat) : Except Stop (State × List Weight × Nat × Cond × Bool) := do
  let mc8 := j.dst.ef == 0x0E
  if j.src.ef ≠ 0 then
    let (s, bs, cl) ← s.sourceUnit j u (leBytes 1 (fillElem j.src))
    let v := intOf true 8 (leNat bs)
    return (s, [if (j.srcAt u).isSome then .coded v 0 else .plain v], 1, .none, cl)
  else
    match j.srcAt u with
    | none => return (s, List.replicate prev .fill, prev, { flush := (fillEx j.src).2 }, false)
    | some a =>
      let (s, bs, cl) ← s.sourceUnit j u []
      if blkMalformed bs = true ∧ cl = false then throw (.fault 0x05 a)
      match blkFmt bs with
      | 0 => return (s, List.replicate prev (.plain 0), prev, .none, cl)
      | 1 =>
        if mc8 then throw (.fault 0x03 a)
        return (s, (blkRaw bs).map fun r => .coded (intOf true 4 r) (blkScale bs), 124, .none, cl)
      | 2 =>
        if !mc8 then throw (.fault 0x03 a)
        return (s, (blkRaw bs).map fun r => .coded (intOf true 8 r) (blkScale bs), 62, .none, cl)
      | 9 =>
        if mc8 then throw (.fault 0x03 a)
        let hs := (blkRaw bs).flatMap (cbHalves (j.ctx.codeRow j.cmd.codeBank))
        let ws := hs.map fun h => satInt true 4 h
        return (s, ws.map fun h => .coded h (blkScale bs - 1), 248, { overflow := hs != ws }, cl)
      | _ => throw (.fault 0x03 a)

/-- What a weight load has in hand: the source unit it comes to, the count for a ZERO block there, and what it read. -/
structure Gathered where
  next : Nat
  prev : Nat
  weights : List Weight
  cond : Cond := .none
  clamped : Bool := false
deriving Repr

/-- Read source units until `need` weights are in hand or the source, or the slot of a ring source, ends. -/
def State.gatherWeights (s : State) (j : Job1) (need : Nat) (k : Gathered) : Nat → Except Stop (State × Gathered)
  | 0 => .ok (s, k)
  | n + 1 => do
    if need ≤ k.weights.length ∨ j.walk.total ≤ k.next ∨ (j.src.ring.isSome ∧ j.cmd.pos < k.next ∧ k.next % j.slotUnits = 0) then return (s, k)
    let prev := if k.next % Max.max j.walk.len 1 = 0 then 62 else k.prev
    let (s, w, p, c, cl) ← s.weightsOf j k.next prev
    s.gatherWeights j need { next := k.next + 1, prev := p, weights := k.weights ++ w, cond := k.cond.or c, clamped := k.clamped || cl } n

/-- A weight's value under the group exponent, before it is rounded (R105). -/
def Weight.under (g : Int) (fill : Ex) : Weight → Ex
  | .coded v e => .scaled v (e - g)
  | .plain v => .scaled v (-g)
  | .fill => fill.scale (-g)

/-- One 32-row group of a weight load, harmonised, row by row (R93, R104, R105); a group that goes on in the next slot of a ring source stays in hand. -/
def State.weightUnit (s : State) (j : Job1) : Except Stop (State × UnitOut) := do
  let mc8 := j.dst.ef == 0x0E
  let per := if mc8 then 64 else 128
  let width := if mc8 then 8 else 4
  let (s, k) ← s.gatherWeights j (32 * per) { next := j.cmd.pos, prev := j.cmd.prevCount, weights := j.cmd.weights } (32 * per + 1)
  if k.weights.length < 32 * per ∧ k.next < j.walk.total then
    return (s, { next := k.next, flags := flagBits k.cond k.clamped, rowElems := j.cmd.rowElems, prevCount := k.prev, weights := k.weights })
  let grp := k.weights.take (32 * per)
  let exps := grp.filterMap fun w => match w with | .coded _ e => some e | _ => none
  let g := match exps with | [] => 0 | e :: es => es.foldl Max.max e
  let rs := grp.map fun w => roundI (w.under g (fillEx j.src).1) true width .rne
  let us := rs.map fun r => bitsOfInt width r.1
  let rows := (cut per us).map fun r =>
    let r := r ++ List.replicate (per - r.length) 0
    if mc8 then r.map fun v => BitVec.ofNat 8 v else (cut 2 r).map fun p => BitVec.ofNat 8 (p.getD 0 0 + 16 * p.getD 1 0)
  let tos ← (List.range rows.length).mapM fun (i : Nat) =>
    destUnit j.ctx j.dst none ((j.dst.base : Int) + (j.cmd.rowElems * 2048 + i * 64 : Nat)) 64
  let resc : BitVec 6 := if exps.any (· < g) then 0x10 else 0
  return (s, { runs := (tos.zip rows).filterMap fun p => p.1.map fun a => (a, p.2), next := k.next,
               flags := flagBits (rs.foldl (fun (c : Cond) r => c.or r.2) k.cond) (k.clamped || tos.any (·.isNone)) ||| resc,
               rowElems := j.cmd.rowElems + 1, prevCount := k.prev, weights := k.weights.drop (32 * per), group := some (!mc8, g) })

/-- The next conversion unit of a command (R122): a destination granule, a decoded block, a quantised block, or a weight group. -/
def State.nextUnit (s : State) (j : Job1) : Except Stop (State × UnitOut) :=
  if j.dst.ef = 0x0E ∨ j.dst.ef = 0x0F then s.weightUnit j
  else if j.src.ef = 0 ∧ j.dst.typed then
    s.decodeRun j j.cmd.pos j.cmd.skip j.cmd.rowElems j.cmd.prevCount j.cmd.hand none { next := j.cmd.pos } (j.runLeft j.cmd.pos)
  else if j.src.typed ∧ j.dst.ef = 0 then s.quantUnit j
  else s.plainRun j j.cmd.pos none { next := j.cmd.pos } (j.runLeft j.cmd.pos)

/-! ## Performing a unit -/

/-- The descriptor of a macro as a weight group leaves it (R233). -/
def descGroup (d : BitVec 128) (w4 : Bool) (g : Nat) (e : Int) : BitVec 128 :=
  let mask : BitVec 128 := BitVec.ofNat 128 (255 * 2 ^ (8 * g) + 2 ^ 64)
  (d &&& ~~~mask) ||| BitVec.ofNat 128 (bitsOfInt 8 e * 2 ^ (8 * g) + bit w4 * 2 ^ 64)

/-- Rows that are written whole carry good parity again (R494). -/
def MacroSt.renew (m : MacroSt) (lo n : Nat) : MacroSt :=
  { m with parity := m.parity &&& ~~~(BitVec.ofNat 256 ((2 ^ n - 1) * 2 ^ lo)) }

/-- A row of a weight group performs at its macro with the group's descriptor fields (R104, R233); `soils` sets DIRTY (R432). -/
def State.putRow (s : State) (n : CoreId) (a : Nat) (bs : List Byte) (w4 : Bool) (e : Int) (soils : Bool) : State :=
  let m : Fin 64 := Fin.ofNat 64 (a / 0x4000)
  s.modCore n fun c =>
    { c with mx := { c.mx with array := c.mx.array.write a bs,
                               macros := c.mx.macros.set m
                                 (({ c.mx.macros[m] with
                                   dirty := c.mx.macros[m].dirty || soils,
                                   desc := descGroup c.mx.macros[m].desc w4 (a % 0x4000 / 2048) e } : MacroSt).renew
                                     (a % 0x4000 / 64) (bs.length / 64)) } }

/-- Every source granule of the command lies in DRAM: no address of the source side is a loft or core-window address (R432). -/
def Job1.fromDram (j : Job1) : Bool :=
  j.src.space != 1 && (Side.touched j.src j.dst false 0x00F000000000 0x00F200000000).isNone

/-- Reductions of one unit, by granule: the granule and the contributions at their offsets. -/
def redGranules (ps : List (Int × Nat)) : List (Int × List (Nat × Nat)) :=
  let gs := (ps.map fun p => p.1 / 64).eraseDups
  gs.map fun g => (g * 64, (ps.filter fun p => p.1 / 64 == g).map fun p => ((p.1 % 64).toNat, p.2))

/-- Some source unit from `u` up to `v` lies beyond the core's loft, window and slice: the granules it fills are not local (R112). -/
def State.farSource (s : State) (j : Job1) (u v : Nat) : Bool :=
  j.src.space != 1 && j.cmd.kind != .xfer && (List.range (v - u)).any fun i =>
    match j.srcAt (u + i) with
    | some a => (match s.resolve j.agent j.src.space a false with | .ok pa => !localTo j.agent.core pa | .error _ => false)
    | none => false

/-- A granule of a unit: where it goes, the bytes it covers, the contributions to it, and where the granule after it goes when the last of them
reaches into that one (R116). -/
structure Granule where
  at_ : Dest
  beyond : Option Dest
  cells : List (Nat × Byte)
  parts : List (Nat × Nat)
deriving Repr

/-- The address to which a granule leaves: when it, or the one after it that it reaches into, is not local. -/
def Granule.leaves (g : Granule) : Option Nat :=
  match g.at_, g.beyond with
  | .far pa, _ => some pa
  | .near pa, some (.far _) => some pa
  | _, _ => none

/-- A destination's physical address, when it is not an offset of the own loft. -/
def Dest.pa : Dest → Option Nat
  | .loft _ => none
  | .near pa | .far pa => some pa

/-- Cells of a granule and of the one after it, each by its own offsets. -/
def splitCells (cs : List (Nat × Byte)) : List (Nat × Byte) × List (Nat × Byte) :=
  (cs.filter (·.1 < 64), (cs.filter (64 ≤ ·.1)).map fun p => (p.1 - 64, p.2))

/-- Covered bytes written at a destination that is not far, with what they move through the core's vertical port. -/
def State.putDest (s : State) (j : Job1) (cs : List (Nat × Byte)) : Dest → State
  | .loft o => s.putLoft j.agent j.dst.tags o cs
  | .near pa => (s.physPut j.agent.ctx (s.supOf j.agent.core j.agent.ctx) pa cs j.dst.tags).chargeDram j.agent.core j.agent.ctx
      (match placeOf pa with | .dram _ _ => cs.length | _ => 0)
  | .far _ => s

/-- One granule of a unit performs, or leaves as a packet, as is told. `far`: its source is not local. -/
def State.performGranule (s : State) (j : Job1) (far : Bool) (g : Granule) (seq : Nat) : State × Bool :=
  let a := j.agent
  match g.leaves with
  | some pa =>
    let p : Packet := { uid := a.uid, seq := seq, core := a.core, eng := j.cmd.eng, ctx := a.ctx, addr := pa, tid := a.tid, tags := j.dst.tags,
                        cells := g.cells, ids := if j.cmd.red then [(a.core, a.uid, seq)] else [], red := j.cmd.red, op := j.cmd.op,
                        ty := Fin.ofNat 16 j.dst.ef, parts := g.parts, beyond := g.beyond.bind (·.pa) }
    (s.sendPacket p, true)
  | none =>
    let old := s.destBytes a g.at_ ++ (g.beyond.map (s.destBytes a)).getD []
    let (cs, c) := if j.cmd.red then redCells j.cmd.op j.dst.ef old g.parts else (g.cells, .none)
    let s := if j.cmd.red then s.cmdFlags a.core j.cmd (flagBits c false) else s
    let (here, there) := splitCells cs
    let s := s.putDest j here g.at_
    let s := (match g.beyond with | some d => s.putDest j there d | none => s)
    (s.chargeCopy a.core a.ctx (!far) g.cells.length, false)

/-- All granules of a unit, in sequence order: the packets sent. -/
def State.performAll (s : State) (j : Job1) (far : Bool) : List Granule → Nat → State × Nat
  | [], sent => (s, sent)
  | g :: r, sent =>
    let (s, out) := s.performGranule j far g ((j.cmd.pos * 256 + j.cmd.skip) * 256 + sent)
    s.performAll j far r (sent + bit out)

/-- Every destination granule of a unit is ready, and those after them that contributions reach into. -/
def State.destsReady (s : State) (j : Job1) (space : Nat) : List (Int × List (Nat × Byte)) → Except Stop (State × List (Dest × Option Dest))
  | [] => .ok (s, [])
  | (g, cells) :: r => do
    let (here, there) := splitCells cells
    let (s, d) ← s.destReady j.agent space j.cmd.red g (here.map (·.1))
    let (s, e) ← (if there.isEmpty then .ok (s, none)
      else (s.destReady j.agent space j.cmd.red (g + 64) (there.map (·.1))).map fun p => (p.1, some p.2) : Except Stop (State × Option Dest))
    let (s, ds) ← s.destsReady j space r
    return (s, (d, e) :: ds)

/-- A claim on the ring of a side for the window that begins (R113): the slot, or the command is held in its turn. -/
def State.claimSlot (s : State) (a : Agent) (i : Fin 16) (write : Bool) : Except Stop (State × Nat) :=
  let w : Waiter := { ctx := a.ctx, ring := true, obj := i.val, dir := write, owner := a.owner }
  let c := s.core a.core
  match (if c.queued w then none else ((s.agentCtx a).rings[i]).claim write a.owner) with
  | some (slot, r) => .ok (s.modCore a.core fun c => (c.dequeue w).modRing a.ctx i fun _ => r, slot)
  | none => .error (.held (s.modCore a.core fun c => c.enqueue w))

/-- The slots that the window of the next unit needs. -/
def State.takeSlots (s : State) (j : Job1) : Except Stop State := do
  let s ← (match j.src.ring, j.cmd.srcSlot with
    | some i, none => do
      let (s, k) ← s.claimSlot j.agent i false
      .ok (s.modCmd j.agent.core j.cmd.uid fun c => { c with srcSlot := some k })
    | _, _ => .ok s : Except Stop State)
  match j.dst.ring, j.cmd.dstSlot with
  | some i, none => do
    let (s, k) ← s.claimSlot j.agent i true
    .ok (s.modCmd j.agent.core j.cmd.uid fun c => { c with dstSlot := some k })
  | _, _ => .ok s

/-- After a unit that ends a window, or a row of a buffer-to-buffer copy, its ring slots are released (R113, R142). A ring source of a
buffer-to-buffer copy takes a slot for each row too, which R113 says of a destination alone (log entry 102). -/
def State.giveSlots (s : State) (j : Job1) (next : Nat) : State :=
  if next % j.slotUnits ≠ 0 ∨ j.cmd.skip ≠ 0 then s
  else
    let give (s : State) (write : Bool) (r : Option (Fin 16)) (slot : Option Nat) : State :=
      match r, slot with
      | some i, some k => s.modCore j.agent.core fun c => c.modRing j.agent.ctx i fun q => q.releaseSlot write k
      | _, _ => s
    (give (give s false j.src.ring j.cmd.srcSlot) true j.dst.ring j.cmd.dstSlot).modCmd j.agent.core j.cmd.uid fun c =>
      { c with srcSlot := none, dstSlot := none }

/-- All source units of a command have been read (R114). -/
def Job1.sourceDone (j : Job1) (next : Nat) : Bool := j.walk.total ≤ next

/-- A unit has performed: ring slots that it ends are given up, and after the last source granule so is the read interval (R113, R114). Both are kept
for a unit whose packets a home may still refuse, since the unit is then read again (log entry 124). A write-back's granule is clean (R84). -/
def State.unitDone (s : State) (n : CoreId) (uid : Nat) : State :=
  match (s.core n).cmd uid with
  | none => s
  | some k =>
    let j := s.jobOf n k
    let s := s.giveSlots j k.pos
    if !j.sourceDone k.pos then s
    else
      let s := if k.kind == .writeBack then s.modCore n fun c => c.modCtx k.ctx (·.clean k.gran) else s
      s.modCore n fun c => c.release (.cmd uid) fun e => !e.write

/-- A packet of the command has performed: with the last, the unit's arrivals are owed and nothing of it can be undone, its bytes are charged (R480), and
a granule that went before its turn counts as delivered (R100). -/
def State.performed (s : State) (n : CoreId) (uid : Nat) : State :=
  match (s.core n).cmd uid with
  | none => s
  | some k =>
    if 1 < k.inflight then s.modCmd n uid fun k => { k with inflight := k.inflight - 1 }
    else
      let s := (s.chargeCopy n k.ctx false k.farBytes).modCmd n uid fun k =>
        { k with inflight := 0, undo := none, farBytes := 0, ahead := none, early := k.ahead.toList ++ k.early }
      if k.ahead.isSome || k.stampSent then s else s.unitDone n uid

/-- Tagged words that were full and are empty now. -/
def State.emptied (s s' : State) : List (CoreId × Nat) :=
  allCores.flatMap fun n => ((s.core n).tags.filter fun c => c.2 == 1 && (s'.core n).tags.get c.1 != 1).map fun c => (n, c.1)

/-- What an attempt that was held leaves: the fills and walks it began, the turns it took in any loft, and nothing of what it read. -/
def State.begun (s s' : State) (n : CoreId) (uid : Nat) : State :=
  let s1 := s.modCore n fun c =>
    { c with mapCmds := (s'.core n).mapCmds, mapSeq := (s'.core n).mapSeq, sb := (s'.core n).sb }
  let s1 := allCores.foldl (fun s m => s.modCore m fun c =>
    { c with waitq := c.waitq ++ (s'.core m).waitq.filter fun w => !c.waitq.contains w }) s1
  let s2 : State := { s1 with serial := s'.serial, dev := { s1.dev with walks := s'.dev.walks } }
  s2.modCmd n uid fun k => { k with page := ((s'.core n).cmd uid).bind (·.page) }

/-- The rows of a weight group perform, or leave as packets that their home performs together (R105, R299). -/
def State.performRows (s : State) (j : Job1) (w4 : Bool) (e : Int) : List (Dest × List (Nat × Byte)) → Nat → State × Nat
  | [], sent => (s, sent)
  | (d, cells) :: r, sent =>
    let a := j.agent
    let soils := !j.fromDram
    match d with
    | .near pa => (s.putRow a.core (pa % 0x04000000 - 0x2000000) (cells.map (·.2)) w4 e soils).performRows j w4 e r sent
    | .far pa =>
      (s.sendPacket { uid := a.uid, seq := j.cmd.pos * 65536, core := a.core, eng := j.cmd.eng, ctx := a.ctx, tid := a.tid, addr := pa,
                      cells := cells, group := some (w4, e), soils := soils }).performRows j w4 e r (sent + 1)
    | .loft _ => s.performRows j w4 e r sent

/-- What the granules of a conversion unit came to: the packets sent, the bytes of each granule, and those of the granules that left. -/
structure Delivered where
  sent : Nat
  bytes : List Nat
  leaving : Nat
deriving Repr

/-- The granules of a conversion unit perform or leave, once all are ready. -/
def State.deliverOut (s : State) (j : Job1) (out : UnitOut) : Except Stop (State × Delivered) := do
  let far := s.farSource j j.cmd.pos (out.next + bit (out.skip != 0))
  let ps : Pieces := out.runs.foldl (fun (ps : Pieces) r => ps.add r.1 r.2) []
  let rs := redGranules out.parts
  let ps : Pieces := if j.cmd.red then
      rs.map fun r => (r.1, r.2.flatMap fun p => (List.range j.dst.unit).map fun i => (p.1 + i, (0 : Byte)))
    else ps
  let (s, ds) ← s.destsReady j j.dst.space ps
  let counts := ps.map fun p => p.2.length
  match out.group with
  | some (w4, e) =>
    let (s, sent) := s.performRows j w4 e ((ds.map (·.1)).zip (ps.map (·.2))) 0
    return (if sent = 0 then s.chargeCopy j.agent.core j.agent.ctx (!far) counts.sum else s,
      { sent := sent, bytes := counts, leaving := if sent = 0 then 0 else counts.sum })
  | none =>
    let gs : List Granule := (ds.zip ps).map fun p =>
      { at_ := p.1.1, beyond := p.1.2, cells := p.2.2, parts := (rs.lookup p.2.1).getD [] }
    let (s, sent) := s.performAll j far gs 0
    return (s, { sent := sent, bytes := counts, leaving := ((gs.filter fun g => g.leaves.isSome).map fun g => g.cells.length).sum })

/-- The destination granule that a refused arrival names in the fault: that of the command's next unit, or of its last once none is left
(log entry 103). -/
def Job1.arrivalAt (j : Job1) : Int := (j.dstAt (Min.min j.cmd.pos (j.walk.total - 1))).getD 0

/-- The arrivals a command owes are made (R108), or it waits or faults. -/
def State.arriveOwed (s : State) (n : CoreId) (uid : Nat) : Except Stop State := do
  match (s.core n).cmd uid with
  | none => return s
  | some k =>
    if k.owed.isEmpty then return s
    let s ← s.barrierReady n k
    match s.arrivalRefused n k.ctx k.barrier with
    | some cause => throw (.fault cause (s.jobOf n k).arrivalAt)
    | none => return s.arrivals n uid k.owed

/-- The arrivals a command owes are made if that can be done now. -/
def State.arriveNow (s : State) (n : CoreId) (uid : Nat) : State :=
  match s.arriveOwed n uid with
  | .ok s' => s'
  | .error _ => s

/-- Deliver one conversion unit of an active command whose earlier packets have performed and whose ring slots are claimed. -/
def State.deliverClaimed (s : State) (n : CoreId) (uid : Nat) : Except Stop State := do
  match (s.core n).cmd uid with
  | none => return s
  | some c =>
    let j := s.jobOf n c
    match s.arrivalRefused n c.ctx c.barrier with
    | some cause => throw (.fault cause j.arrivalAt)
    | none => pure ()
    let (s1, out) ← s.nextUnit j
    let (s1, d) ← s1.deliverOut j out
    let tags := if j.src.tags && d.sent != 0 then s.emptied s1 else []
    let s1 := (s1.cmdFlags n c out.flags).modCmd n uid fun k =>
      { k with pos := out.next, skip := out.skip, rowElems := out.rowElems, prevCount := out.prevCount, weights := out.weights, hand := out.hand,
               inflight := d.sent, farBytes := d.leaving, owed := k.owed ++ d.bytes, page := none, xfail := 0,
               undo := if d.sent = 0 then none else some { pos := k.pos, skip := k.skip, rowElems := k.rowElems, prevCount := k.prevCount,
                                                              weights := k.weights, hand := k.hand, tags := tags } }
    return if d.sent = 0 then (s1.unitDone n uid).arriveNow n uid else s1

/-- Claim ring slots, then deliver one conversion unit; an attempt that is held keeps what it began, and a fault names the granule
that it met (R119). -/
def State.deliverUnit (s : State) (n : CoreId) (uid : Nat) : Except Stop State := do
  match (s.core n).cmd uid with
  | none => return s
  | some c =>
    let s ← s.takeSlots (s.jobOf n c)
    match s.deliverClaimed n uid with
    | .error (.held s') => throw (.held (s.begun s' n uid))
    | r => r

/-! ## Granules of a plain copy before their turn (R100) -/

/-- The command is a plain copy, whose granules may perform in any order: it neither reduces nor converts blocks, and no ring or tag orders it. -/
def Job1.plain (j : Job1) : Bool :=
  j.cmd.kind == .copy && !j.cmd.red && j.src.ring.isNone && j.dst.ring.isNone && !j.src.tags && !j.dst.tags &&
    (j.src.ef == 0) == (j.dst.ef == 0) && j.dst.ef != 0x0E && j.dst.ef != 0x0F

/-- Unit `u` begins a destination granule that may go before its turn: it is not the next one, and has not gone already. -/
def Job1.begins (j : Job1) (u : Nat) : Bool :=
  j.cmd.pos < u && u < j.walk.total && !j.cmd.early.any (fun e => e.1 ≤ u && u < e.2.1) &&
    match j.dstAt (u - 1), j.dstAt u with
    | some a, some b => a / 64 != b / 64
    | _, _ => false

/-- Every unit from the next one up to `v` is local, on both sides: a copy is held at its first non-local granule in a compute phase (R112). -/
def State.nearUpTo (s : State) (j : Job1) (v : Nat) : Bool :=
  let near (x : Side) (write : Bool) (o : Option Int) : Bool :=
    match o with
    | some a => x.space == 1 || (match s.resolve j.agent x.space a write with | .ok pa => localTo j.agent.core pa | .error _ => false)
    | none => true
  (List.range (v - j.cmd.pos)).all fun i => near j.src false (j.srcAt (j.cmd.pos + i)) && near j.dst true (j.dstAt (j.cmd.pos + i))

/-- A granule of a plain copy performs before its turn (R100), its arrival to be made in its turn; `none` when it cannot go now. -/
def State.deliverAhead (s : State) (n : CoreId) (k : Cmd) (u : Nat) : Option State :=
  let j := s.jobOf n k
  if !j.plain || !j.begins u || !(s.exchange || s.nearUpTo j u) then none
  else
    match (do let (s1, out) ← s.plainRun j u none { next := u } (j.runLeft u)
              let (s1, d) ← s1.deliverOut { j with cmd := { k with pos := u } } out
              return ((s1.cmdFlags n k out.flags).modCmd n k.uid fun k =>
                if d.sent = 0 then { k with early := (u, out.next, d.bytes) :: k.early }
                else { k with inflight := d.sent, farBytes := d.leaving, ahead := some (u, out.next, d.bytes) }) : Except Stop State) with
    | .ok s' => some s'
    | .error _ => none

/-- The next granule went before its turn: it counts now. -/
def State.countEarly (s : State) (n : CoreId) (uid : Nat) (e : Nat × Nat × List Nat) : State :=
  ((s.modCmd n uid fun k => { k with pos := e.2.1, owed := k.owed ++ e.2.2, early := k.early.erase e }).unitDone n uid).arriveNow n uid

/-! ## Completion and abort (R108, R110, R114, R121, R307) -/

/-- A command leaves its engine or the map unit; its entries and waits are released, its chain successor is no longer held,
the edges it owned are owned anew (R373), and with a completion stamp its job's entry is freed (R353). -/
def State.removeCmd (s : State) (n : CoreId) (uid : Nat) : State :=
  let drop (o : Option Cmd) : Option Cmd := o.filter (·.uid != uid)
  let fix (e : EngSlot) : EngSlot :=
    { e with active := drop e.active, staged := (drop e.staged).map fun k => { k with heldBy := k.heldBy.filter (· != uid) },
             regs := e.regs.filter (·.uid != uid) }
  let task (t : Task) : Task := { t with engines := t.engines.map fix }
  let job := ((s.core n).mapCmds.find? fun k => k.uid == uid && k.kind == .stamp).map (·.job)
  let s := s.modDev fun d => { d with jobs := d.jobs.filter fun p => some p.1 != job }
  let own : SbOwner := .cmd uid
  let s : State := { s with cores := s.cores.map fun (c : Core) => { c with waitq := c.waitq.filter (·.owner != own) } }
  (s.modCore n fun c =>
    { (c.release own) with
      mapCmds := c.mapCmds.filter (·.uid != uid),
      banks := c.banks.map fun (b : Option Task) => b.map task,
      saved := c.saved.map fun v => { v with task := v.task.map task, entries := v.entries.filter (·.owner != own) } }).rewire

/-- A completed command gives up its filter identifiers at the homes (R311). -/
def State.completeCmd (s : State) (n : CoreId) (uid : Nat) : State :=
  (s.modDev fun d => { d with applied := d.applied.filter (·.2.1 != uid) }).removeCmd n uid

/-- The commands that an abort carries with it: the command, its chain successors, and the signal commands that were issued after any
of them that was committed, but a signal, by the same task (R110, R307). -/
def Task.abortSet (t : Task) : Nat → List Nat → List Nat
  | 0, us => us
  | n + 1, us =>
    let first := (t.cmds.filter fun k => us.contains k.uid && k.kind != .signal && k.status != .building).map (·.age)
    let more := (t.cmds.filter fun k => !us.contains k.uid &&
      (k.heldBy.any us.contains || (k.kind == .signal && first.any (· < k.age)))).map (·.uid)
    if more.isEmpty then us else t.abortSet n (us ++ more)

/-- Abort: no further arrivals, no stamp, entries released; packets not yet performed are withdrawn (R121). -/
def State.abortCmd (s : State) (n : CoreId) (uid : Nat) : State :=
  let c := s.core n
  let us := match (c.tasks.map (·.2) ++ c.saved.filterMap (·.task)).find? (fun t => t.cmds.any (·.uid == uid)) with
    | some t => t.abortSet 64 [uid]
    | none => [uid]
  us.foldl (fun s u => (s.modDev (·.withdraw u)).completeCmd n u) (s.modDev fun d => { d with grids := unjoin d.grids })
where
  /-- The grid whose join is aborted ends without one (log entry 109). -/
  unjoin (gs : List (Fin 64 × Grid)) : List (Fin 64 × Grid) :=
    match (s.core n).mapCmds.find? fun k => k.uid == uid && k.kind == .remote && k.tid == 0 with
    | some k => gs.map fun g => if 2 + g.1.val = k.gran then (g.1, { g.2 with rcd := { g.2.rcd with join := 0 } }) else g
    | none => gs

/-- The stamp of a command that has delivered everything: one aligned 8-byte store (R108). The state returned has completed the
command, or has sent the store. -/
def State.stampCmd (s : State) (n : CoreId) (c : Cmd) : Except Stop State := do
  if !c.stamped then return s.completeCmd n c.uid
  else
    let a := c.agent n
    let adr : Int := c.stampAddr.toNat % 2 ^ 56
    let cells := (List.range 8).zip (leBytes 8 c.stampVal.toNat)
    let pa ← s.resolve a 0 adr true
    s.physReady a pa 8 true adr
    if localTo n pa then
      return ((s.physPut c.ctx (s.supOf n c.ctx) pa cells false).chargeDram n c.ctx (match placeOf pa with | .dram _ _ => 8 | _ => 0)).completeCmd n c.uid
    else
      let s := s.sendPacket { uid := c.uid, seq := c.pos, core := n, eng := c.eng, ctx := c.ctx, addr := pa, cells := cells }
      return s.modCmd n c.uid fun k => { k with inflight := 1, stampSent := true }

/-- A faulted command makes the arrivals that it owes for the granules before the faulting one (R121). -/
def State.arriveFaulted (s : State) (n : CoreId) (uid : Nat) : Except Stop State :=
  match s.arriveOwed n uid with
  | .error (.fault _ _) => .error (.held s)
  | r => r

/-- Units of a command. -/
def Cmd.total (c : Cmd) : Nat := if c.kind == .signal then 0 else (walkerOf (sideOf c.sl c.src) (sideOf c.dl c.dst)).total

/-- One step of an active command: nothing while a packet is on its way; then the arrivals it owes, unless their barrier lies where only
an exchange reaches (R398); its next unit; its stamp; its completion, which a stamp that was sent and has performed leaves alone to do. -/
def State.stepCmd (s : State) (n : CoreId) (c : Cmd) : Except Stop State :=
  let left := c.pos < c.total ∨ !c.weights.isEmpty
  if 0 < c.inflight then .error (.held s)
  else if c.status == .faulted then s.arriveFaulted n c.uid
  else if c.stampSent then .ok (s.completeCmd n c.uid)
  else if !c.owed.isEmpty ∧ ((barrierAt n c.barrier).1 = n ∨ s.exchange ∨ ¬left) then s.arriveOwed n c.uid
  else if left then
    match c.early.find? (·.1 == c.pos) with
    | some e => .ok (s.countEarly n c.uid e)
    | none => s.deliverUnit n c.uid
  else s.stampCmd n c

/-- A step of an engine for a command: of a plain copy a granule before its turn, by an open choice, or the step that comes next. -/
def State.stepEngine (s : State) (n : CoreId) (c : Cmd) : Except Stop State :=
  if c.status == .active && c.inflight == 0 && (s.jobOf n c).plain && c.pos + 1 < c.total then
    let (r, s) := s.choose (c.total - c.pos)
    match (if r = 0 then none else s.deliverAhead n c (c.pos + r)) with
    | some s' => .ok s'
    | none => s.stepCmd n c
  else s.stepCmd n c

/-- The engine has something to do for the command: it is active, or has faulted and owes arrivals (R121). -/
def Cmd.serviceable (c : Cmd) : Bool := c.status == .active || (c.status == .faulted && !c.owed.isEmpty)

/-- A command that fails a check of R111 faults before any byte moves; which address its image gives is not stated, since no
granule faulted (log entry 4). -/
def State.failCheck (s : State) (n : CoreId) (uid : Nat) (c : Cause) : State :=
  { s with free := s.free + 1 }.faultAt n uid c (BitVec.ofNat 56 (Config.value s.free))

/-- What became of an attempt: the new state, and whether it got anywhere. -/
def State.settleStep (s : State) (n : CoreId) (uid : Nat) : Except Stop State → State × Bool
  | .ok s' => (s', true)
  | .error (.held s') => (s', false)
  | .error (.fault c a) => (s.faultCmd n uid c a, true)

end Sys2Proof.Machine
end

