-- ==== Sys2Proof/Machine/Copy.lean ====
section
/-!
DEFINITION. The instructions of the copy engines (R107, R123 to R132) and of the register and signal commands (R302 to R308).
-/
namespace Sys2Proof.Machine

/-! ## Staging (R107, R110, R125 to R129) -/

/-- The engine's index. -/
def engIdx (e : Bool) : Fin 2 := if e then 1 else 0

/-- An engine slot of the task changed. -/
def Task.modEng (t : Task) (e : Bool) (f : EngSlot → EngSlot) : Task :=
  { t with engines := t.engines.set (engIdx e) (f t.engines[engIdx e]) }

/-- The staged command of an engine, while it is building. -/
def Task.building (t : Task) (e : Bool) : Option Cmd := (t.engines[engIdx e]).staged.filter (·.status == .building)

/-- The staged command changed, while it is building; otherwise no effect. -/
def Task.modBuilding (t : Task) (e : Bool) (f : Cmd → Cmd) : Task :=
  match t.building e with
  | some k => t.modEng e fun g => { g with staged := some (f k) }
  | none => t

/-- The object of a wait on an engine (R370). -/
def engObj (n : CoreId) (e : Bool) : BitVec 48 := BitVec.ofNat 48 (n.val + bit e * 256)

/-- A chain link between the staged command of `e` and the other engine's is discarded, with the contents. -/
def Task.unchain (t : Task) (e : Bool) : Task :=
  match t.building e with
  | none => t
  | some k =>
    (t.modEng (!e) fun g => { g with staged := g.staged.map fun q => { q with heldBy := q.heldBy.filter (· != k.uid) } }).mapCmds
      fun p => if k.heldBy.contains p.uid then { p with link := false } else p

/-- `cpy` (R107, R125). -/
def execCpy (d a : RecReg) (b : SReg) (e : Bool) (s : State) : Out :=
  issue s fun t =>
    let g := t.engines[engIdx e]
    match g.staged.filter (·.status != .building) with
    | some _ =>
      let own := match g.active with | some k => k.wfOwner | none => .unknown
      .wait s { okind := 0x07, obj := engObj s.cur e, owner := own }
    | none =>
      let (uid, s) := s.fresh
      let k : Cmd := { uid := uid, ctx := t.ctx, tid := t.tid, eng := e, dst := t.getRec d, src := t.getRec a,
                       dl := 16 ≤ d.val, sl := 16 ≤ a.val, barrier := t.getS b }
      .ok (s.setLive ((t.unchain e).modEng e fun g => { g with staged := some k }))

/-- `cpyg` (R107, R126): the commit takes the entries and the handle, or waits for the scoreboard (R147). -/
def execCpyg (d : SReg) (e : Bool) (s : State) : Out :=
  issue s fun t =>
    match t.building e with
    | none => .ok (s.setLive (t.setS d 0))
    | some k =>
      let c := s.core s.cur
      let x := s.cctx t
      let es := k.entries s.cur x
      if !c.room t.ctx es.length then .wait s (s.boardWait t)
      else
        let (age, s) := s.fresh
        let (h, c) := c.takeHandle s.cur e
        let s := s.setCore s.cur { c with sb := c.sb ++ es }
        let t := t.modEng e fun g =>
          { g with staged := some { k with age := age, status := .committed, handle := h, codeBank := x.codeBank } }
        .ok (s.setLive (t.setS d (h.setWidth 64)))

/-- `cpyc` (R110, R127). -/
def execCpyc (e : Bool) (s : State) : Out :=
  issue s fun t =>
    match t.building e, (t.engines[engIdx (!e)]).staged with
    | some p, some q =>
      .ok (s.setLive ((t.modBuilding e fun k => { k with link := true }).modEng (!e) fun g =>
        { g with staged := some { q with heldBy := if q.heldBy.contains p.uid then q.heldBy else q.heldBy ++ [p.uid] } }))
    | _, _ => .ok s

/-- `cpyr` (R116, R128). -/
def execCpyr (e : Bool) (o : Fin 4) (s : State) : Out :=
  onTask s fun t => t.modBuilding e fun k => { k with red := true, op := o }

/-- `cpys` (R129): with s0 as the address register only the scope is set, and an earlier stamp is removed. -/
def execCpys (a b : SReg) (e : Bool) (z : Fin 8) (s : State) : Out :=
  onTask s fun t => t.modBuilding e fun k =>
    { k with scope := z, stamped := a != 0, stampAddr := if a = 0 then 0 else w64 ((t.getS a).fld 0 56),
             stampVal := if a = 0 then 0 else t.getS b }

/-! ## The code table (R33, R123, R130) -/

/-- `ctabw` (R130): a row of the idle bank. -/
def execCtabw (a b : SReg) (s : State) : Out :=
  issue s fun t =>
    .ok (s.modCctx t fun k =>
      { k with code := k.code.setNum (bit (!k.codeBank) * 1024 + (t.getS a).fld 0 8 * 4) 4 ((t.getS b).fld 0 32) })

/-- The outstanding commands of the context on the core that captured a bank, those of spilled tasks included (R33, R123). -/
def Core.bankHolders (c : Core) (x : BitVec 16) (bank : Bool) : List Cmd :=
  ((c.tasks.map (·.2) ++ c.saved.filterMap (·.task)).flatMap Task.cmds).filter fun k => k.ctx == x && k.status != .building && k.codeBank == bank

/-- `ctabc` (R123). -/
def execCtabc (s : State) : Out :=
  issue s fun t =>
    let x := s.cctx t
    match oldestCmd ((s.core s.cur).bankHolders t.ctx x.codeBank) with
    | some k => .wait s { okind := 0x09, obj := BitVec.ofNat 48 s.cur.val, owner := k.wfOwner }
    | none => .ok (s.modCctx t fun k => { k with codeBank := !k.codeBank })

/-! ## Records (R97, R131) -/

/-- `recw` (R131). -/
def execRecw (d : RecReg) (a : SReg) (w : Fin 16) (s : State) : Out :=
  onTask s fun t =>
    let r := (t.getRec d).toNat
    let lo := 64 * w.val
    t.setRec d (BitVec.ofNat 768 (r - bits r lo 64 * 2 ^ lo + (t.getS a).toNat * 2 ^ lo))

/-- `recr` (R131). -/
def execRecr (d : SReg) (a : RecReg) (w : Fin 16) (s : State) : Out :=
  onTask s fun t => t.setS d (w64 (bits (t.getRec a).toNat (64 * w.val) 64))

/-! ## Status, resumption and abort (R121, R132) -/

/-- ACT of R132: a command that cannot deliver its next unit now, for another reason than its own packets or translation, is
held. -/
def State.actCode (s : State) (n : CoreId) (k : Cmd) : Nat :=
  if k.status == .faulted then 3
  else if 0 < k.inflight then 1
  else
    match s.stepCmd n k with
    | .error (.held s') => if (((s'.core n).cmd k.uid).bind (·.page)).isSome then 1 else 2
    | _ => 1

/-- The status word of an engine for a bank (R132). SEQ, CAUSE and ACT show the active slot alone; of register and signal commands, which
R303 queues beside it, the rule does not speak (log entry 105). -/
def State.engineStatus (s : State) (n : CoreId) (g : EngSlot) : W64 :=
  let act := match g.active with | some k => s.actCode n k | none => 0
  let stg := match g.staged with
    | none => 0
    | some k => if k.status == .building then 1 else if k.heldBy.isEmpty then 2 else 3
  let seq := match g.active with | some k => k.handle.toNat % 2 ^ 23 | none => 0
  let cause := match g.active with | some k => k.cause.toNat | none => 0
  w64 (seq * 2 ^ 32 + cause * 2 ^ 16 + stg * 2 ^ 10 + act * 2 ^ 8 + g.flags.toNat)

/-- `cpyx.stat` (R132): the flags are read and cleared. -/
def execCpyxStat (d : SReg) (e : Bool) (s : State) : Out :=
  issue s fun t =>
    let g := t.engines[engIdx e]
    .ok (s.setLive ((t.modEng e fun g => { g with flags := 0 }).setS d (s.engineStatus s.cur g)))

/-- The core whose command a handle names, with the command (R120). -/
def State.outstanding (s : State) (h : BitVec 32) : Option (CoreId × Cmd) :=
  ((s.core (handleCore h)).byHandle h).map fun k => (handleCore h, k)

/-- The command with the records, barrier, stamp and control settings of an image; its handle, position and count stay (R132). The model
takes SCOPE, OP, RED, SL and DL as the control settings, unchecked since R111 names no check of them, and keeps SIG, BANK, HELD and LINK;
the position stays the number of the unit, whatever the new records make of it, and a block in hand stays with the source record that it was read
under (log entry 32). -/
def Cmd.withImage (k : Cmd) (bs : List Byte) : Cmd :=
  let num (o n : Nat) : Nat := leNat ((bs.drop o).take n)
  let ctl := num 0xC0 8
  let stamp := num 0xD0 8
  let src := BitVec.ofNat 768 (num 0x60 96)
  { k with early := [], hand := if src = k.src ∧ k.sl = (bits ctl 1 1 == 1) then k.hand else none, imaged := !k.kind.engine, dst := BitVec.ofNat 768 (num 0 96), src := src, barrier := w64 (num 0xC8 8),
           stampAddr := w64 stamp, stampVal := w64 (num 0xD8 8), stamped := k.kind == .signal || stamp != 0,
           scope := Fin.ofNat 8 (bits ctl 5 3), op := Fin.ofNat 4 (bits ctl 3 2), red := bits ctl 2 1 == 1,
           sl := bits ctl 1 1 == 1, dl := bits ctl 0 1 == 1 }

/-- What a core holds of a context, or keeps for it in a save slot. -/
def Core.keptCtx (c : Core) (x : BitVec 16) : CoreCtx :=
  match c.cctx x, c.saved.findSome? fun v => v.cctx.filter (·.ctx == x) with
  | some k, _ => k
  | none, some k => k
  | none, none => .missing x

/-- A faulted command continues from its resume position, a spilled context's in its save slot (R122). With an image it is checked under
R111 anew, a command of the map unit too; without one it has passed those checks, unless they are what it failed. -/
def State.resumeCmd (s : State) (n : CoreId) (k : Cmd) (image : Option (List Byte)) : State :=
  let k' := match image with | some bs => k.withImage bs | none => k
  let s := s.modCmd n k.uid fun _ => { k' with status := .active, cause := 0, faultAddr := 0, page := none, xfail := 0 }
  let x := (s.core n).keptCtx k.ctx
  match (if k.kind.engine || k'.imaged then k'.check x else none : Option Cause) with
  | some c => s.failCheck n k.uid c
  | none => s

/-- `cpyx.resume` (R132). -/
def execCpyxResume (a b : SReg) (s : State) : Out :=
  issue s fun t =>
    let h := BitVec.ofNat 32 ((t.getS a).fld 0 32)
    let go (s : State) (image : Option (List Byte)) : Act :=
      match s.outstanding h with
      | some (n, k) => if k.status == .faulted then .ok (s.resumeCmd n k image) else .ok s
      | none => .ok s
    if !(s.cctx t).sup then .ok s
    else if b = 0 then go s none
    else
      match loftAddr (s.cctx t).psize (t.getS b) 256 256 with
      | none => s.bounds t (t.getS b)
      | some o => s.access t [(o, 256)] false false fun s => go s (some (s.loftRead t o 256))

/-- `cpyx.abort` (R121, R132). -/
def execCpyxAbort (a : SReg) (s : State) : Out :=
  issue s fun t =>
    if !(s.cctx t).sup then .ok s
    else
      match s.outstanding (BitVec.ofNat 32 ((t.getS a).fld 0 32)) with
      | some (n, k) => .ok (s.abortCmd n k.uid)
      | none => .ok s

/-! ## Register and signal commands (R302 to R308) -/

/-- Elements that a register command sends (R302). -/
def Task.xferCount (t : Task) (w : Nat) : Nat := Min.min t.ctl.vl.toNat (if w = 4 then 4096 else 16384 / w)

/-- A record of R302: SPACE, BASE, EF and one row of `n` units. -/
def rowRecord (space base ef n : Nat) : BitVec 768 :=
  let u := tyWidth ef
  BitVec.ofNat 768 (base % 2 ^ 56 + space * 2 ^ 62 + n * u * 2 ^ 64 + n * 2 ^ 128 + 2 ^ 144 + ef * 2 ^ 192)

/-- Queue a register or signal command of the live task on engine `k.eng`: at most eight, then its entries (R303). -/
def State.queueReg (s : State) (t : Task) (k : Cmd) : Act :=
  let g := t.engines[engIdx k.eng]
  let c := s.core s.cur
  let x := s.cctx t
  match g.regs with
  | r :: rs =>
    if 7 ≤ rs.length then .wait s { okind := 0x07, obj := engObj s.cur k.eng, owner := r.wfOwner } else add c x g
  | [] => add c x g
where
  /-- The issue itself. -/
  add (c : Core) (x : CoreCtx) (g : EngSlot) : Act :=
    let (uid, s) := s.fresh
    let k := { k with uid := uid, age := uid, ctx := t.ctx, tid := t.tid, status := .committed, codeBank := x.codeBank }
    let es := k.entries s.cur x
    if !c.room t.ctx es.length then .wait s (s.boardWait t)
    else
      let (h, c) := c.takeHandle s.cur k.eng
      let s := s.setCore s.cur { c with sb := c.sb ++ es }
      .ok (s.setLive (t.modEng k.eng fun _ => { g with regs := g.regs ++ [{ k with handle := h }] }))

/-- A register command over vector register `d` (R302, R305, R306, R308). -/
def regCommand (d : VReg) (a b : SReg) (ef : Nat) (e : Bool) (z : Fin 8) (red : Option (Fin 4)) (s : State) : Out :=
  issue s fun t =>
    let w := tyWidth ef
    let n := t.xferCount w
    let v := t.getS a
    if !s.exchange then s.phaseIllegal t
    else if v.fld 0 56 % w ≠ 0 then s.bounds t v
    else if n = 0 then .ok s
    else
      s.queueReg t { kind := .xfer, eng := e, src := rowRecord 2 (windowBase s.cur + 0x800000 + d.val * 0x4000) ef n,
                     dst := rowRecord 0 (v.fld 0 56) ef n, barrier := t.getS b, scope := z, red := red.isSome,
                     op := red.getD 0 }

/-- `xfer` (R305). -/
def execXfer (d : VReg) (a b : SReg) (e : Bool) (z : Fin 8) (s : State) : Out := regCommand d a b 0x07 e z none s
/-- `xred.add` (R306). -/
def execXredAdd (d : VReg) (a b : SReg) (t : Fin 16) (s : State) : Out := regCommand d a b t.val true 3 (some 0) s
/-- `xred.max` (R306). -/
def execXredMax (d : VReg) (a b : SReg) (t : Fin 16) (s : State) : Out := regCommand d a b t.val true 3 (some 1) s
/-- `xred.min` (R306). -/
def execXredMin (d : VReg) (a b : SReg) (t : Fin 16) (s : State) : Out := regCommand d a b t.val true 3 (some 2) s

/-- `xsig` (R307). -/
def execXsig (a b : SReg) (e : Bool) (z : Fin 8) (s : State) : Out :=
  issue s fun t =>
    let v := t.getS a
    if !s.exchange then s.phaseIllegal t
    else if v.fld 0 3 ≠ 0 then s.bounds t v
    else s.queueReg t { kind := .signal, eng := e, scope := z, stamped := true, stampAddr := w64 (v.fld 0 56),
                        stampVal := t.getS b }

/-! ## What the engines do by themselves (R99, R107, R111) -/

/-- A signal command may become active: every command of the bank that is not a signal and is older has completed (R307). -/
def Task.signalReady (t : Task) (k : Cmd) : Bool :=
  t.cmds.all fun m => m.kind == .signal || m.status == .building || k.age ≤ m.age

/-- The command that becomes active next in an engine slot: the staged one, or the first committed register command. -/
def Task.promotable (t : Task) (e : Bool) : Option Cmd :=
  let g := t.engines[engIdx e]
  match (if g.active.isNone then g.staged.filter (fun k => k.status == .committed && k.heldBy.isEmpty) else none) with
  | some k => some k
  | none => (g.regs.find? (·.status == .committed)).filter fun k => k.kind != .signal || t.signalReady k

/-- The engine slot after a command became active. -/
def EngSlot.promote (g : EngSlot) (k : Cmd) : EngSlot :=
  let k' := { k with status := .active }
  if g.staged.any (·.uid == k.uid) then { g with active := some k', staged := none }
  else { g with regs := g.regs.map fun r => if r.uid = k.uid then k' else r }

/-- A committed command becomes active, and its records and completion addresses are checked (R111). -/
def execCommandActivate (s : State) : Out :=
  let n := s.on.core
  let e := s.on.engine
  .next <|
    match s.bank n s.on.bank with
    | none => s
    | some t =>
      match (if t.hold = .switched then none else t.promotable e) with
      | none => s
      | some k =>
        let s := s.modBank n s.on.bank fun t => t.modEng e fun g => g.promote k
        match k.check (((s.core n).cctx k.ctx).getD (.missing k.ctx)) with
        | some c => s.failCheck n k.uid c
        | none => s

/-- Try commands in turn until one gets somewhere; what the others began stays begun. -/
def State.tryCmds (s : State) (n : CoreId) : List Nat → State
  | [] => s
  | u :: us =>
    match (s.core n).cmd u with
    | none => s.tryCmds n us
    | some k =>
      match s.settleStep n u (s.stepEngine n k) with
      | (s, true) => s
      | (s, false) => s.tryCmds n us

/-- A list rotated by `k` places. -/
def rotateBy {α : Type} (l : List α) (k : Nat) : List α := l.drop (k % Max.max l.length 1) ++ l.take (k % Max.max l.length 1)

/-- The commands that an engine of a core serves, but for those of switched-out tasks (R122), in the order of service: by the effective priority of the issuing task, in turn
among equals (R111). -/
def Core.served (c : Core) (e : Bool) (turn : Nat) : List Nat :=
  let all := (c.tasks.filter fun p => p.2.hold != .switched).flatMap fun p =>
    (let g := p.2.engines[engIdx e]; g.active.toList ++ g.regs).filterMap fun k =>
      if k.serviceable then some (p.2.ctl.eff.val, k.uid) else none
  [7, 6, 5, 4, 3, 2, 1, 0].flatMap fun f => (rotateBy all turn).filterMap fun p => if p.1 = f then some p.2 else none

end Sys2Proof.Machine
end

