-- ==== Sys2Proof/Machine/Depend.lean ====
section
/-!
DEFINITION. Register dependences inside a group (R40), interlocks with calls and register commands that have not read or written
their registers yet (R42), and how long the vector unit is occupied (R196, R222).
-/
namespace Sys2Proof.Machine

/-- A register under R40. `allCtrl` stands for every control register: the form that takes its number from a register. -/
inductive Reg where
  | s (n : SReg)
  | v (n : VReg)
  | k (n : KReg)
  | m (n : MReg)
  | o (n : OReg)
  | recd (n : Nat)
  | ctrl (n : Nat)
  | allCtrl
  | nest
deriving DecidableEq, Repr

/-- The vector registers a tile shape covers (R220). -/
def coveredRegs (x : Shape) : List Reg :=
  (List.finRange 128).filterMap fun v => if x.base ≤ v.val && v.val < x.base + x.nreg then some (.v v) else none

/-- A tile register counts as the vector registers it covers. -/
def Task.tileRegs (t : Task) (r : TReg) : List Reg := (t.shape r).elim [] coveredRegs

/-- The tiles that a footprint mask of m7 names (R272). -/
def maskTiles (mask : Nat) : List TReg := (List.finRange 16).filter fun i => mask.testBit i.val

/-- The tiles a call may read, or may write. -/
def footTiles (m7 : W64) (read : Bool) : List TReg := maskTiles (if read then m7.fld 32 16 else m7.fld 48 16)

/-- The shape registers a call reads (R273). -/
def Task.callShapes (t : Task) : List Reg :=
  (footTiles t.regs.m[7] true ++ footTiles t.regs.m[7] false).map fun i => .ctrl i.val

/-- The tile registers a call reads, or writes (R273). -/
def Task.callTiles (t : Task) (read : Bool) : List Reg := (footTiles t.regs.m[7] read).flatMap t.tileRegs

/-- The matrix-parameter registers. -/
def paramRegs : List Reg := (List.finRange 8).map .m

/-- The manger offset registers. -/
def offsetRegs : List Reg := (List.finRange 8).map .o

/-- The control registers that a write of register `n` changes: itself, the base of a region whose locator it is (R82), the state of a ring whose
descriptor it is (R141). -/
def ctrlWrites (n : BitVec 12) : List Reg :=
  .ctrl n.toNat :: (if 0x040 ≤ n.toNat ∧ n.toNat ≤ 0x05F then [.ctrl (if n.toNat ≤ 0x04F then n.toNat - 16 else n.toNat + 16)] else [])

/-- The registers an instruction reads, and those it writes, its implicit control registers among them (R40). R195's list of what writes `c.vflags`
leaves out `vred`, `vscan` and `vbmax`, whose conditions R216 sends there: they count as writing it with every type, an integer one too (DEDUCED;
log entry 118). -/
def regsOf (t : Task) : Instr → List Reg × List Reg
  | .add d a b => ([.s a, .s b], [.s d])
  | .sub d a b => ([.s a, .s b], [.s d])
  | .mul d a b => ([.s a, .s b], [.s d])
  | .mulh d a b _ => ([.s a, .s b], [.s d])
  | .div d a b _ => ([.s a, .s b], [.s d])
  | .rem d a b _ => ([.s a, .s b], [.s d])
  | .and d a b => ([.s a, .s b], [.s d])
  | .or d a b => ([.s a, .s b], [.s d])
  | .xor d a b => ([.s a, .s b], [.s d])
  | .andn d a b => ([.s a, .s b], [.s d])
  | .sll d a b => ([.s a, .s b], [.s d])
  | .srl d a b => ([.s a, .s b], [.s d])
  | .sra d a b => ([.s a, .s b], [.s d])
  | .slt d a b _ => ([.s a, .s b], [.s d])
  | .min d a b _ => ([.s a, .s b], [.s d])
  | .max d a b _ => ([.s a, .s b], [.s d])
  | .adds d a b _ => ([.s a, .s b], [.s d])
  | .subs d a b _ => ([.s a, .s b], [.s d])
  | .clz d a => ([.s a], [.s d])
  | .ctz d a => ([.s a], [.s d])
  | .popc d a => ([.s a], [.s d])
  | .shadd d a b _ => ([.s a, .s b], [.s d])
  | .addi d a _ => ([.s a], [.s d])
  | .andi d a _ => ([.s a], [.s d])
  | .ori d a _ => ([.s a], [.s d])
  | .xori d a _ => ([.s a], [.s d])
  | .slti d a _ => ([.s a], [.s d])
  | .sltiu d a _ => ([.s a], [.s d])
  | .muli d a _ => ([.s a], [.s d])
  | .seqi d a _ => ([.s a], [.s d])
  | .lui d _ => ([], [.s d])
  | .adrb d _ => ([], [.s d])
  | .slli d a _ => ([.s a], [.s d])
  | .srli d a _ => ([.s a], [.s d])
  | .srai d a _ => ([.s a], [.s d])
  | .bfx d a _ _ => ([.s a], [.s d])
  | .beq a b _ => ([.s a, .s b], [])
  | .bne a b _ => ([.s a, .s b], [])
  | .blt a b _ => ([.s a, .s b], [])
  | .bge a b _ => ([.s a, .s b], [])
  | .bltu a b _ => ([.s a, .s b], [])
  | .bgeu a b _ => ([.s a, .s b], [])
  | .call _ => ([], [.s 1])
  | .jr a => ([.s a], [])
  | .callr d a _ => ([.s a], [.s d])
  | .loop d _ => ([.s d], [.s d])
  | .ret a => ([.s a], [])
  | .kand d a b => ([.k a, .k b], [.k d])
  | .kor d a b => ([.k a, .k b], [.k d])
  | .kxor d a b => ([.k a, .k b], [.k d])
  | .kandn d a b => ([.k a, .k b], [.k d])
  | .kset d a => ([.s a], [.k d])
  | .kcnt d a => ([.k a, .ctrl 0x010], [.s d])
  | .kfind d a => ([.k a, .ctrl 0x010], [.s d])
  | .rdc d n => ([.ctrl n.toNat], [.s d])
  | .wrc a n => ([.s a], ctrlWrites n)
  | .setc d a n => ([.s a, .ctrl n.toNat], .s d :: ctrlWrites n)
  | .clrc d a n => ([.s a, .ctrl n.toNat], .s d :: ctrlWrites n)
  | .xchc d a n => ([.s a, .ctrl n.toNat], .s d :: ctrlWrites n)
  | .addc d a n => ([.s a, .ctrl n.toNat], .s d :: ctrlWrites n)
  | .rdcz d n => ([.ctrl n.toNat], .s d :: ctrlWrites n)
  | .rdcr d a => ([.s a, .allCtrl], [.s d])
  | .writeCVl a => ([.s a], [.ctrl 0x010])
  | .writeCPri a => ([.s a], [.ctrl 0x011])
  | .tlbinvPage a b _ => ([.s a, .s b], [])
  | .tlbinvCtx b => ([.s b], [])
  | .rgsyncWb a b => ([.s a, .s b], [])
  | .rgsyncFill a b => ([.s a, .s b], [])
  | .rgsyncEvict a b => ([.s a, .s b], [])
  | .rgsyncDiscard a b => ([.s a, .s b], [])
  | .phase d => ([.ctrl 0x0C0], [.s d, .ctrl 0x0C2, .ctrl 0x0C3])
  | .phaseC d => ([.ctrl 0x0C0], [.s d, .ctrl 0x0C2, .ctrl 0x0C3])
  | .phleft d => ([.ctrl 0x0C0, .ctrl 0x0C2, .ctrl 0x0C1], [.s d])
  | .phuntil d a => ([.s a, .ctrl 0x0C0], [.s d, .ctrl 0x0C2, .ctrl 0x0C3])
  | .spawn a => ([.s a], [])
  | .spawnt a b => ([.s a, .s b], [])
  | .join d a => ([.s a], [.s d])
  | .grow d a => ([.s a, .ctrl 0x0E0], [.s d, .ctrl 0x0E0])
  | .tendj a => ([.s a], [])
  | .launch d a b => ([.s a, .s b], [.s d, .ctrl 0x0E7])
  | .rett => ([.ctrl 0x120, .ctrl 0x121], [.ctrl 0x120])
  | .ckpt a => ([.s a, .ctrl 0x0C0], [.ctrl 0x128, .ctrl 0x129])
  | .fqwait d => ([], [.s d])
  | .fqpop d a b => ([.s a, .s b], [.s d])
  | .ctxkill a => ([.s a], [])
  | .ctxrel a => ([.s a], [.ctrl 0x125, .ctrl 0x126])
  | .ctxsw => ([.ctrl 0x120], [.ctrl 0x120])
  | .ctxswRel => ([.ctrl 0x120], [.ctrl 0x120])
  | .vadd d a b _ => ([.v a, .v b, .ctrl 0x010], [.v d])
  | .vadds d a b _ => ([.v a, .v b, .ctrl 0x010], [.v d, .ctrl 0x080])
  | .vsub d a b _ => ([.v a, .v b, .ctrl 0x010], [.v d])
  | .vsubs d a b _ => ([.v a, .v b, .ctrl 0x010], [.v d, .ctrl 0x080])
  | .vmul d a b _ => ([.v a, .v b, .ctrl 0x010], [.v d])
  | .vmulh d a b _ => ([.v a, .v b, .ctrl 0x010], [.v d])
  | .vmin d a b _ => ([.v a, .v b, .ctrl 0x010], [.v d])
  | .vmax d a b _ => ([.v a, .v b, .ctrl 0x010], [.v d])
  | .vand d a b _ => ([.v a, .v b, .ctrl 0x010], [.v d])
  | .vor d a b _ => ([.v a, .v b, .ctrl 0x010], [.v d])
  | .vxor d a b _ => ([.v a, .v b, .ctrl 0x010], [.v d])
  | .vsll d a b _ => ([.v a, .v b, .ctrl 0x010], [.v d])
  | .vsr d a b _ => ([.v a, .v b, .ctrl 0x010], [.v d])
  | .vcmp _ k a b _ => ([.v a, .v b, .ctrl 0x010], [.k k])
  | .vsplat d a _ => ([.s a, .ctrl 0x010], [.v d])
  | .vmvs d a b _ => ([.v a, .s b, .ctrl 0x010], [.s d])
  | .vfadd d a b _ _ => ([.v a, .v b, .ctrl 0x010], [.v d, .ctrl 0x080])
  | .vfsub d a b _ _ => ([.v a, .v b, .ctrl 0x010], [.v d, .ctrl 0x080])
  | .vfmul d a b _ _ => ([.v a, .v b, .ctrl 0x010], [.v d, .ctrl 0x080])
  | .vfdiv d a b _ _ => ([.v a, .v b, .ctrl 0x010], [.v d, .ctrl 0x080])
  | .vfsqrt d a k _ _ => ([.v a, .k k, .ctrl 0x010], [.v d, .ctrl 0x080])
  | .vfrsqrt d a k _ _ => ([.v a, .k k, .ctrl 0x010], [.v d, .ctrl 0x080])
  | .vfmin d a b _ => ([.v a, .v b, .ctrl 0x010], [.v d, .ctrl 0x080])
  | .vfmax d a b _ => ([.v a, .v b, .ctrl 0x010], [.v d, .ctrl 0x080])
  | .vfabs d a k _ => ([.v a, .k k, .ctrl 0x010], [.v d, .ctrl 0x080])
  | .vfneg d a k _ => ([.v a, .k k, .ctrl 0x010], [.v d, .ctrl 0x080])
  | .vfcmp _ k a b _ => ([.v a, .v b, .ctrl 0x010], [.k k, .ctrl 0x080])
  | .vfsplat d a _ _ => ([.s a, .ctrl 0x010], [.v d, .ctrl 0x080])
  | .vfscl d a b _ _ => ([.v a, .v b, .ctrl 0x010], [.v d, .ctrl 0x080])
  | .vfsgnj d a b _ => ([.v a, .v b, .ctrl 0x010], [.v d, .ctrl 0x080])
  | .vfmaF32 d a b c => ([.v a, .v b, .v c, .ctrl 0x010, .ctrl 0x081], [.v d, .ctrl 0x080])
  | .vfnmaF32 d a b c => ([.v a, .v b, .v c, .ctrl 0x010, .ctrl 0x081], [.v d, .ctrl 0x080])
  | .vfmaBf16 d a b c => ([.v a, .v b, .v c, .ctrl 0x010, .ctrl 0x081], [.v d, .ctrl 0x080])
  | .vfmaF16 d a b c => ([.v a, .v b, .v c, .ctrl 0x010, .ctrl 0x081], [.v d, .ctrl 0x080])
  | .vfmawBf16 d a b c => ([.v a, .v b, .v c, .ctrl 0x010, .ctrl 0x081], [.v d, .ctrl 0x080])
  | .vsel d a b _ k => ([.v a, .v b, .k k, .ctrl 0x010], [.v d])
  | .vcvt d a _ _ => ([.v a, .ctrl 0x010, .ctrl 0x081], [.v d, .ctrl 0x080])
  | .vbmax d a _ _ => ([.v a, .ctrl 0x010], [.v d, .ctrl 0x080])
  | .vqnt d a _ _ _ => ([.v a, .ctrl 0x010], [.v d, .ctrl 0x080])
  | .vdqnt d a _ => ([.v a, .ctrl 0x010], [.v d, .ctrl 0x080])
  | .vhad d a _ _ => ([.v a, .ctrl 0x010], [.v d, .ctrl 0x080])
  | .vfrnd d a k _ _ => ([.v a, .k k, .ctrl 0x010], [.v d, .ctrl 0x080])
  | .vbhdr d a => ([.v a, .ctrl 0x010], [.v d])
  | .vfexp2 d a k _ _ => ([.v a, .k k, .ctrl 0x010], [.v d, .ctrl 0x080])
  | .vperm d a b _ => ([.v a, .v b, .ctrl 0x010], [.v d])
  | .vslideup d a b _ => ([.v a, .s b, .ctrl 0x010], [.v d])
  | .vslidedn d a b _ => ([.v a, .s b, .ctrl 0x010], [.v d])
  | .vred d a _ k _ => ([.v a, .k k, .ctrl 0x010], [.s d, .ctrl 0x080])
  | .vscan d a _ k _ => ([.v a, .k k, .ctrl 0x010], [.v d, .ctrl 0x080])
  | .vidx d _ => ([.ctrl 0x010], [.v d])
  | .tdef d a => ([.s a, .ctrl 0x010], [.ctrl d.val])
  | .tzero d => ([.ctrl d.val, .ctrl 0x010], t.tileRegs d)
  | .ttrn d a => ([.ctrl d.val, .ctrl a.val, .ctrl 0x010] ++ t.tileRegs a, t.tileRegs d)
  | .tcvt d a => ([.ctrl d.val, .ctrl a.val, .ctrl 0x010, .ctrl 0x081] ++ t.tileRegs a, [.ctrl 0x080] ++ t.tileRegs d)
  | .tgetr d a b => ([.ctrl a.val, .s b, .ctrl 0x010] ++ t.tileRegs a, [.v d])
  | .tputr d a b => ([.ctrl d.val, .v a, .s b, .ctrl 0x010], t.tileRegs d)
  | .mgset a => ([.s a], [.nest])
  | .mgoff d a => ([.s a], [.o d])
  | .mgget d a => ([.o a], [.s d])
  | .mggetN d => ([.nest], [.s d])
  | .mcall _ _ _ d => (paramRegs ++ t.callShapes ++ t.callTiles true, [.s d] ++ t.callTiles false)
  | .mcallRty _ _ _ d => (paramRegs ++ t.callShapes ++ t.callTiles true, [.s d] ++ t.callTiles false)
  | .mmodeS a => ([.s a], [])
  | .mmodeC a => ([.s a], [])
  | .mmodeRd d => ([], [.s d])
  | .mcal a => ([.s a], [])
  | .mcalRd d a => ([.s a], [.s d])
  | .mdescRd d a => ([.s a], [.s d])
  | .mdescWr a b => ([.s a, .s b], [])
  | .mpw d a => ([.s a], [.m d])
  | .mpr d a => ([.m a], [.s d])
  | .mucw a b => ([.s a, .s b], [])
  | .mucr d a => ([.s a], [.s d])
  | .mstat d a => ([.s a], [.s d])
  | .mstatClip d a b => ([.s a, .s b], [.s d])
  | .mcwait a => ([.s a], [])
  | .mdrainA d a => ([.s a], [.v d])
  | .mdrainB d a => ([.s a], [.v d])
  | .mdrainU d => ([], [.v d])
  | .mrestA d a => ([.v d, .s a], [])
  | .mrestB d a => ([.v d, .s a], [])
  | .mrestU d => ([.v d], [])
  | .mzero a => ([.s a], [])
  | .mtacc d a b => ([.s a, .s b], [.s d])
  | .ldScalar d a _ => ([.recd a.val], [.s d])
  | .stScalar d a _ => ([.s d, .recd a.val], [])
  | .ldVector d a _ => ([.recd a.val, .ctrl 0x010], [.v d])
  | .stVector d a _ => ([.v d, .recd a.val, .ctrl 0x010], [])
  | .ldw d a _ => ([.recd a.val, .ctrl 0x010], [.v d])
  | .stw d a _ => ([.v d, .recd a.val, .ctrl 0x010], [])
  | .ldrec d a _ => ([.s a], [.recd d.val])
  | .strec d a _ => ([.recd d.val, .s a], [])
  | .ldScalarX d a x _ => ([.recd a.val, .s x], [.s d])
  | .stScalarX d a x _ => ([.s d, .recd a.val, .s x], [])
  | .ldVectorX d a x _ => ([.recd a.val, .s x, .ctrl 0x010], [.v d])
  | .stVectorX d a x _ => ([.v d, .recd a.val, .s x, .ctrl 0x010], [])
  | .ldwX d a x _ => ([.recd a.val, .s x, .ctrl 0x010], [.v d])
  | .stwX d a x _ => ([.v d, .recd a.val, .s x, .ctrl 0x010], [])
  | .ldg d a x k => ([.recd a.val, .v x, .k k, .ctrl 0x010], [.v d])
  | .stg d a x k => ([.v d, .recd a.val, .v x, .k k, .ctrl 0x010], [])
  | .ldf d a _ => ([.s a], [.s d])
  | .ldfp d a _ => ([.s a], [.s d])
  | .stf d a _ => ([.s d, .s a], [])
  | .tagrd d a _ => ([.s a], [.s d])
  | .tagwF d a => ([.s d, .s a], [])
  | .tagwE d a => ([.s d, .s a], [])
  | .racqW d _ => ([], [.s d])
  | .racqR d _ => ([], [.s d])
  | .stfx d a _ => ([.s d, .s a], [])
  | .cpy d a b _ => ([.recd d.val, .recd a.val, .s b], [])
  | .cpyg d _ => ([], [.s d])
  | .cpys a b _ _ => ([.s a, .s b], [])
  | .ctabw a b => ([.s a, .s b], [])
  | .recw d a _ => ([.s a], [.recd d.val])
  | .recr d a _ => ([.recd a.val], [.s d])
  | .cpyxStat d _ => ([], [.s d])
  | .cpyxResume a b => ([.s a, .s b], [])
  | .cpyxAbort a => ([.s a], [])
  | .xfer d a b _ _ => ([.v d, .s a, .s b, .ctrl 0x010], [])
  | .xredAdd d a b _ => ([.v d, .s a, .s b, .ctrl 0x010], [])
  | .xredMax d a b _ => ([.v d, .s a, .s b, .ctrl 0x010], [])
  | .xredMin d a b _ => ([.v d, .s a, .s b, .ctrl 0x010], [])
  | .xsig a b _ _ => ([.s a, .s b], [])
  | .aadd d a b _ _ => ([.s a, .s b], [.s d])
  | .aand d a b _ _ => ([.s a, .s b], [.s d])
  | .aor d a b _ _ => ([.s a, .s b], [.s d])
  | .axch d a b _ _ => ([.s a, .s b], [.s d])
  | .amax d a b _ _ => ([.s a, .s b], [.s d])
  | .amin d a b _ _ => ([.s a, .s b], [.s d])
  | .acas d a b _ _ => ([.s d, .s a, .s b], [.s d])
  | .ald d a _ _ => ([.s a], [.s d])
  | .binit a => ([.s a], [])
  | .bexp a b => ([.s a, .s b], [])
  | .barv d a b _ => ([.s a, .s b], [.s d])
  | .bwait a => ([.s a], [])
  | .bwaitPh a b => ([.s a, .s b], [])
  | .mwaitGe d a b _ => ([.s a, .s b], [.s d])
  | .mwaitNe d a b _ => ([.s a, .s b], [.s d])
  | .ast a b _ _ => ([.s a, .s b], [])
  | .teth d a => ([.s a], [.s d])
  | .tethown d a => ([.s a], [.s d])
  | .unteth a => ([.s a], [])
  | .untethO a => ([.s a], [])
  | .lkacq d a _ => ([.s a], [.s d])
  | .lkacqTry d a _ => ([.s a], [.s d])
  | .lkrel a _ => ([.s a], [])
  | .mgarm => ([.nest] ++ offsetRegs, offsetRegs)
  | _ => ([], [])

/-- Two registers are one; s0 and k0 make no dependence (R40). -/
def Reg.meets (a b : Reg) : Bool :=
  match a, b with
  | .s 0, _ => false
  | .k 0, _ => false
  | .allCtrl, .ctrl _ => true
  | .ctrl _, .allCtrl => true
  | _, _ => a == b

/-- Two lists name a common register. -/
def regsMeet (as bs : List Reg) : Bool := as.any fun a => bs.any a.meets

/-- Two instructions are register-dependent (R40). -/
def dependent (t : Task) (i j : Instr) : Bool :=
  let (ri, wi) := regsOf t i
  let (rj, wj) := regsOf t j
  regsMeet wi (rj ++ wj) || regsMeet wj ri

/-- The lowest slot of a register-dependent pair of a group. -/
def dependentSlot (t : Task) : List (Fin 4 × Instr) → Option (Fin 4)
  | [] => none
  | (k, i) :: r => if r.any fun p => dependent t i p.2 then some k else dependentSlot t r

/-! ## Interlocks (R42) -/

/-- The calls of a task that have not completed. -/
def Core.openCalls (c : Core) (tid : BitVec 16) : List Call :=
  c.mx.running.toList.filter (·.tid == tid) ++ ((c.tasks.filter fun p => p.2.tid == tid).flatMap fun p => p.2.calls)

/-- The registers of the tiles that a call reads, or writes, under the shapes it captured. -/
def Call.tiles (k : Call) (read : Bool) : List Reg :=
  (footTiles k.m[7] read).flatMap fun i => (shapeOf k.tdim[i]).elim [] coveredRegs

/-- Registers that an earlier instruction of the task has yet to read: tiles of calls before their operands-consumed point
(R273), and sources of register commands until the last granule of them has been read (R303). -/
def Core.pendingReads (c : Core) (t : Task) : List Reg :=
  ((c.openCalls t.tid).filter (!·.consumed)).flatMap (·.tiles true) ++
    (t.engines.toList.flatMap (·.regs)).flatMap fun k =>
      if k.kind == .xfer && (k.pos < rfld k.src 128 16 || k.undo.isSome) then [.v (Fin.ofNat 128 (rfld k.src 0 56 % 0x04000000 / 0x4000))] else []

/-- Registers that an earlier instruction of the task has yet to write: result tiles of its calls (R273). -/
def Core.pendingWrites (c : Core) (t : Task) : List Reg := (c.openCalls t.tid).flatMap (·.tiles false)

/-- A group waits for an earlier instruction (R42). -/
def Core.interlocked (c : Core) (t : Task) (g : List Instr) : Bool :=
  g.any fun i =>
    let (r, w) := regsOf t i
    regsMeet (r ++ w) (c.pendingWrites t) || regsMeet w (c.pendingReads t)

/-! ## Occupancy (R196, R222) -/

/-- ⌈n × w / 1024⌉ for the n elements of width w that `c.vl` gives. -/
def Task.beats (t : Task) (w : Nat) : Nat := (t.vlen w * w + 1023) / 1024

/-- ⌈bytes / 1024⌉ of what a tile instruction writes. -/
def Task.tileBeats (t : Task) (d : TReg) : Nat := match t.shape d with | some x => (x.size + 1023) / 1024 | none => 0

/-- Width of a floating-point type field. -/
def fltWidth (ty : Fin 4) : Nat := if ty = 0 then 4 else 2

/-- Core cycles for which an instruction occupies the vector unit. -/
def occupancy (t : Task) : Instr → Nat
  | .vadd _ _ _ ty => t.beats (tyWidth ty)
  | .vadds _ _ _ ty => t.beats (tyWidth ty)
  | .vsub _ _ _ ty => t.beats (tyWidth ty)
  | .vsubs _ _ _ ty => t.beats (tyWidth ty)
  | .vmin _ _ _ ty => t.beats (tyWidth ty)
  | .vmax _ _ _ ty => t.beats (tyWidth ty)
  | .vand _ _ _ ty => t.beats (tyWidth ty)
  | .vor _ _ _ ty => t.beats (tyWidth ty)
  | .vxor _ _ _ ty => t.beats (tyWidth ty)
  | .vsll _ _ _ ty => t.beats (tyWidth ty)
  | .vsr _ _ _ ty => t.beats (tyWidth ty)
  | .vmul _ _ _ ty => t.beats (tyWidth ty) * (if tyWidth ty = 8 then 4 else 1)
  | .vmulh _ _ _ ty => t.beats (tyWidth ty) * (if tyWidth ty = 8 then 4 else 1)
  | .vcmp _ _ _ _ ty => t.beats (tyWidth ty)
  | .vsplat _ _ ty => t.beats (tyWidth ty)
  | .vmvs _ _ _ _ => 1
  | .vbhdr _ _ => 1
  | .vfadd _ _ _ ty _ => t.beats (fltWidth ty)
  | .vfsub _ _ _ ty _ => t.beats (fltWidth ty)
  | .vfmul _ _ _ ty _ => t.beats (fltWidth ty)
  | .vfdiv _ _ _ ty _ => 8 * t.beats (fltWidth ty)
  | .vfsqrt _ _ _ ty _ => 8 * t.beats (fltWidth ty)
  | .vfrsqrt _ _ _ ty _ => 8 * t.beats (fltWidth ty)
  | .vfexp2 _ _ _ ty _ => 8 * t.beats (fltWidth ty)
  | .vfmin _ _ _ ty => t.beats (fltWidth ty)
  | .vfmax _ _ _ ty => t.beats (fltWidth ty)
  | .vfabs _ _ _ ty => t.beats (fltWidth ty)
  | .vfneg _ _ _ ty => t.beats (fltWidth ty)
  | .vfcmp _ _ _ _ ty => t.beats (fltWidth ty)
  | .vfsplat _ _ ty _ => t.beats (fltWidth ty)
  | .vfscl _ _ _ ty _ => t.beats (fltWidth ty)
  | .vfsgnj _ _ _ ty => t.beats (fltWidth ty)
  | .vfmaF32 _ _ _ _ => t.beats 4
  | .vfnmaF32 _ _ _ _ => t.beats 4
  | .vfmawBf16 _ _ _ _ => t.beats 4
  | .vfmaBf16 _ _ _ _ => t.beats 2
  | .vfmaF16 _ _ _ _ => t.beats 2
  | .vsel _ _ _ w _ => t.beats (2 ^ w.val)
  | .vcvt _ _ q ty => 2 * t.beats (Max.max (tyWidth q) (tyWidth ty))
  | .vbmax _ _ _ ty => 2 * t.beats (fltWidth ty)
  | .vqnt _ _ f ty _ => 4 * ((Min.min (t.vlen (fltWidth ty)) (256 * blkCount f) * fltWidth ty + 1023) / 1024)
  | .vdqnt _ _ ty => 2 * t.beats (tyWidth ty)
  | .vhad _ _ ty g => t.beats (fltWidth ty) * Nat.log2 (rotSize g)
  | .vfrnd _ _ _ ty _ => 2 * t.beats (fltWidth ty)
  | .vperm _ _ _ ty => 4 * t.beats (tyWidth ty)
  | .vslideup _ _ _ ty => t.beats (tyWidth ty)
  | .vslidedn _ _ _ ty => t.beats (tyWidth ty)
  | .vred _ _ _ _ ty => t.beats (tyWidth ty) + 12
  | .vscan _ _ _ _ ty => t.beats (tyWidth ty) + 12
  | .vidx _ ty => t.beats (tyWidth ty)
  | .tzero d => t.tileBeats d
  | .ttrn d _ => 2 * t.tileBeats d
  | .tcvt d _ => 2 * t.tileBeats d
  | .tgetr _ a _ => match t.shape a with | some x => (Min.min x.cols (t.vlen x.w) * x.w + 1023) / 1024 | none => 0
  | .tputr d _ _ => match t.shape d with | some x => (Min.min x.cols (t.vlen x.w) * x.w + 1023) / 1024 | none => 0
  | _ => 0

end Sys2Proof.Machine
end

