-- ==== Sys2Proof/Machine/Loft.lean ====
section
/-!
DEFINITION. Record loads and stores of the loft (R150 to R155), and ring claims (R159).
-/
namespace Sys2Proof.Machine

/-! ## Record accesses -/

/-- A record access: the record is checked, then every unit's address (R150); what fails is in the trap's information. -/
def recAccess (a : BReg) (adr : Task → BufOp → Option (List Int)) (write : Bool)
    (f : Task → BufOp → List (Option Nat) → State → Act) (s : State) : Out :=
  issue s fun t =>
    match bufOp t.regs.b[a] with
    | none => s.bounds t (w64 (t.regs.b[a].toNat % 2 ^ 64))
    | some b =>
      match adr t b with
      | none => s.bounds t 0
      | some as =>
        match b.check (s.cctx t).psize as with
        | .error e => s.bounds t (w64i e)
        | .ok us => s.access t (b.spans us) write false (f t b us)

/-- Bytes of a unit; a unit that a clamp drops reads zero. -/
def State.unitBytes (s : State) (t : Task) (u : Nat) : Option Nat → List Byte
  | some a => s.loftRead t a u
  | none => zeroBytes u

/-- Units stored in order: a later unit stands over an earlier one; a dropped unit stores nothing. -/
def State.storeUnits (s : State) (t : Task) (u : Nat) : List (Option Nat × List Byte) → State
  | [] => s
  | (some a, bs) :: r => (s.loftWrite t a (bs.take u)).storeUnits t u r
  | (none, _) :: r => s.storeUnits t u r

/-- The address of an indexed form (R152). -/
def BufOp.idx (b : BufOp) (x : W64) (f : Fin 16) : Int := b.base + (x.toInt + (f.val : Int)) * b.unit

/-- A scalar load from the address `adr` gives (R150). -/
def loadScalar (d : SReg) (a : BReg) (adr : Task → BufOp → Int) (s : State) : Out :=
  recAccess a (fun t b => some [adr t b]) false (fun t b us s =>
    .ok (s.modLive fun t' => t'.setS d (b.deliver (leNat (s.unitBytes t b.unit (us.headD none)))))) s

/-- A scalar store of the low bits of `d` (R150). -/
def storeScalar (d : SReg) (a : BReg) (adr : Task → BufOp → Int) (s : State) : Out :=
  recAccess a (fun t b => some [adr t b]) true (fun t b us s =>
    .ok (s.storeUnits t b.unit [(us.headD none, leBytes b.unit (t.getS d).toNat)])) s

/-- A vector load of units: register bytes above them are unchanged. -/
def loadVector (d : VReg) (a : BReg) (adr : Task → BufOp → Option (List Int)) (s : State) : Out :=
  recAccess a adr false (fun t b us s => .ok (s.modLive fun t' => t'.setVBytes d (us.flatMap (s.unitBytes t b.unit)))) s

/-- A vector store of units. -/
def storeVector (d : VReg) (a : BReg) (adr : Task → BufOp → Option (List Int)) (s : State) : Out :=
  recAccess a adr true (fun t b us s =>
    .ok (s.storeUnits t b.unit (us.zip (chunks b.unit us.length (t.getVBytes d (us.length * b.unit)))))) s

/-- The addresses of a contiguous vector access from A. -/
def runAt (adr : Task → BufOp → Int) (t : Task) (b : BufOp) : Option (List Int) := some (b.run (adr t b) (t.vlUnits b.unit))

/-- The addresses of a window access from A; ROWLEN = 0 fails (R153). -/
def windowAt (adr : Task → BufOp → Int) (t : Task) (b : BufOp) : Option (List Int) :=
  if b.rowlen = 0 then none else some (b.window (adr t b) (t.vlUnits b.unit))

/-- A of the immediate forms (R151). -/
def adrImm (i : BitVec 17) (_ : Task) (b : BufOp) : Int := b.at (immI i).toInt
/-- A of the indexed forms (R152). -/
def adrIdx (x : SReg) (f : Fin 16) (t : Task) (b : BufOp) : Int := b.idx (t.getS x) f

/-- `ld` of a scalar unit (R151). -/
def execLdScalar (d : SReg) (a : BReg) (i : BitVec 17) (s : State) : Out := loadScalar d a (adrImm i) s
/-- `st` of a scalar unit (R151). -/
def execStScalar (d : SReg) (a : BReg) (i : BitVec 17) (s : State) : Out := storeScalar d a (adrImm i) s
/-- `ld` of a vector (R151). -/
def execLdVector (d : VReg) (a : BReg) (i : BitVec 17) (s : State) : Out := loadVector d a (runAt (adrImm i)) s
/-- `st` of a vector (R151). -/
def execStVector (d : VReg) (a : BReg) (i : BitVec 17) (s : State) : Out := storeVector d a (runAt (adrImm i)) s
/-- `ldw` (R153). -/
def execLdw (d : VReg) (a : BReg) (i : BitVec 17) (s : State) : Out := loadVector d a (windowAt (adrImm i)) s
/-- `stw` (R153). -/
def execStw (d : VReg) (a : BReg) (i : BitVec 17) (s : State) : Out := storeVector d a (windowAt (adrImm i)) s
/-- `ld` of a scalar unit, indexed (R152). -/
def execLdScalarX (d : SReg) (a : BReg) (x : SReg) (f : Fin 16) (s : State) : Out := loadScalar d a (adrIdx x f) s
/-- `st` of a scalar unit, indexed (R152). -/
def execStScalarX (d : SReg) (a : BReg) (x : SReg) (f : Fin 16) (s : State) : Out := storeScalar d a (adrIdx x f) s
/-- `ld` of a vector, indexed (R152). -/
def execLdVectorX (d : VReg) (a : BReg) (x : SReg) (f : Fin 16) (s : State) : Out := loadVector d a (runAt (adrIdx x f)) s
/-- `st` of a vector, indexed (R152). -/
def execStVectorX (d : VReg) (a : BReg) (x : SReg) (f : Fin 16) (s : State) : Out := storeVector d a (runAt (adrIdx x f)) s
/-- `ldw`, indexed (R152, R153). -/
def execLdwX (d : VReg) (a : BReg) (x : SReg) (f : Fin 16) (s : State) : Out := loadVector d a (windowAt (adrIdx x f)) s
/-- `stw`, indexed (R152, R153). -/
def execStwX (d : VReg) (a : BReg) (x : SReg) (f : Fin 16) (s : State) : Out := storeVector d a (windowAt (adrIdx x f)) s

/-- Lanes of a gather or scatter (R154): at most 4096, because the indices are 32-bit elements of one register. -/
def Task.gatherLen (t : Task) (u : Nat) : Nat := Min.min (t.vlUnits u) 4096

/-- The active lanes of a gather or scatter. -/
def Task.gatherLanes (t : Task) (b : BufOp) (k : KReg) : List Nat :=
  (List.range (t.gatherLen b.unit)).filter fun j => maskBit (t.getK k) j

/-- The addresses of the active lanes (R154). -/
def gatherAt (x : VReg) (k : KReg) (t : Task) (b : BufOp) : Option (List Int) :=
  let ix := (t.elems x 4 (t.gatherLen b.unit)).toArray
  some ((t.gatherLanes b k).map fun j => b.base + intOf true 32 (ix.getD j 0) * b.unit)

/-- `ldg` (R154): inactive lanes keep their units. -/
def execLdg (d : VReg) (a : BReg) (x : VReg) (k : KReg) (s : State) : Out :=
  recAccess a (gatherAt x k) false (fun t b us s =>
    .ok (s.modLive fun t' =>
      ((t.gatherLanes b k).zip us).foldl (fun t' p => t'.setV d b.unit p.1 (leNat (s.unitBytes t b.unit p.2))) t')) s

/-- `stg` (R154). -/
def execStg (d : VReg) (a : BReg) (x : VReg) (k : KReg) (s : State) : Out :=
  recAccess a (gatherAt x k) true (fun t b us s =>
    .ok (s.storeUnits t b.unit
      (us.zip ((t.gatherLanes b k).map fun j => leBytes b.unit (t.getV d b.unit j))))) s

/-- Bytes a record register moves (R155). -/
def recBytes (r : RecReg) : Nat := if r.val < 16 then 32 else 96

/-- The loft address of a record move. -/
def recAt (t : Task) (a : SReg) (i : BitVec 17) : W64 := t.getS a + immI i * 32

/-- `ldrec` (R155). -/
def execLdrec (d : RecReg) (a : SReg) (i : BitVec 17) (s : State) : Out :=
  issue s fun t =>
    let n := recBytes d
    match loftAddr (s.cctx t).psize (recAt t a i) n 32 with
    | none => s.bounds t (recAt t a i)
    | some o => s.access t [(o, n)] false false fun s =>
      .ok (s.modLive fun t' => t'.setRec d (BitVec.ofNat 768 (s.loftNum t o n)))

/-- `strec` (R155). -/
def execStrec (d : RecReg) (a : SReg) (i : BitVec 17) (s : State) : Out :=
  issue s fun t =>
    let n := recBytes d
    match loftAddr (s.cctx t).psize (recAt t a i) n 32 with
    | none => s.bounds t (recAt t a i)
    | some o => s.access t [(o, n)] true false fun s => .ok (s.loftWrite t o (leBytes n (t.getRec d).toNat))

/-! ## Rings (R159) -/

/-- The object of a wait on a ring (R370). -/
def ringObj (n : CoreId) (r : Fin 16) : BitVec 48 := BitVec.ofNat 48 (n.val + r.val * 256)

/-- A claim by the task: in turn among those that wait for the ring's direction (R142). -/
def ringClaim (write : Bool) (d : SReg) (n : Fin 16) (s : State) : Out :=
  issue s fun t =>
    let r := (s.cctx t).rings[n]
    let w : Waiter := { ctx := t.ctx, ring := true, obj := n.val, dir := write, owner := .task t.tid, inner := t.inHandler }
    if !r.valid then s.bounds t (w64 n.val)
    else
      match (if (s.core s.cur).queued w then none else r.claim write (.task t.tid)) with
      | some (slot, r') =>
        .ok ((s.modCore s.cur fun c => c.modRing t.ctx n fun _ => r').modLive fun t' =>
          { t'.setS d (w64 (r.slotAt slot)) with claims := t'.claims ++ [(n, write, slot)] })
      | none =>
        .wait (s.modCore s.cur fun c => c.enqueue w)
          { okind := 0x05, obj := ringObj s.cur n, owner := s.ringOwner s.cur r write t.tid }

/-- A release of the task's oldest claim in a direction. -/
def ringRelease (write : Bool) (n : Fin 16) (s : State) : Out :=
  issue s fun t =>
    match (if (s.cctx t).rings[n].valid then t.claims.find? (fun c => c.1 == n && c.2.1 == write) else none) with
    | none => s.bounds t (w64 n.val)
    | some c =>
      .ok ((s.setLive { t with claims := t.claims.erase c }).modCore s.cur fun k =>
        k.modRing t.ctx n fun r => r.releaseSlot write c.2.2)

/-- `racq.w` (R159). -/
def execRacqW (d : SReg) (n : Fin 16) (s : State) : Out := ringClaim true d n s
/-- `racq.r` (R159). -/
def execRacqR (d : SReg) (n : Fin 16) (s : State) : Out := ringClaim false d n s
/-- `rrel.w` (R159). -/
def execRrelW (n : Fin 16) (s : State) : Out := ringRelease true n s
/-- `rrel.r` (R159). -/
def execRrelR (n : Fin 16) (s : State) : Out := ringRelease false n s

end Sys2Proof.Machine
end

