-- ==== Sys2Proof/Machine/MapUnit.lean ====
section
/-!
DEFINITION. The map unit: walks (R77, R80), translation maintenance (R89), fills and write-backs (R83 to R85), region maintenance
(R90), and instruction fetch (R169).
-/
namespace Sys2Proof.Machine

/-! ## Walks (R77 to R80) -/

/-- The address space of a context on a core. -/
def State.asnOf (s : State) (n : CoreId) (x : BitVec 16) : BitVec 8 := (s.ctxOn n x).asn

/-- The walks that a die's 64 walkers serve; the others wait in its miss queue. -/
def Device.activeWalks (d : Device) : List Walk :=
  (d.walks.filter fun w => !w.die).take 64 ++ (d.walks.filter (·.die)).take 64

/-- A translation enters a first-level TLB. R80 lets an entry be dropped at any time; the model drops one only when the level is full, the
one filled first (log entry 106). -/
def Core.fillTlb (c : Core) (t : TlbEntry) : Core :=
  { c with tlb := (t :: c.tlb.filter fun e => !(e.asn == t.asn && e.sz == t.sz && e.vpn == t.vpn)).take 1024 }

/-- A translation enters a die's second-level TLB. -/
def Device.fillTlb2 (d : Device) (die : Bool) (t : TlbEntry) : Device :=
  let mine := d.tlb2.filter fun p => p.1 == die && !(p.2.asn == t.asn && p.2.sz == t.sz && p.2.vpn == t.vpn)
  { d with tlb2 := ((die, t) :: mine).take 16384 ++ d.tlb2.filter (·.1 != die) }

/-- The command waits for a page of an address space that a test accepts. -/
def State.awaits (s : State) (n : CoreId) (asn : BitVec 8) (p : Nat → Bool) (k : Cmd) : Bool :=
  match k.page with
  | some v => s.asnOf n k.ctx == asn && p v
  | none => false

/-- A walk ends (R77, R80): the entry found fills both levels and serves every request within its page; a failure faults the
commands that joined it. -/
def State.endWalk (s : State) (w : Walk) : State :=
  let va := w.vpage * 4096
  let cores := allCores.filter fun n => dieOf n == w.die
  let failed (c : Cause) : State :=
    let s := s.modDev fun d => { d with walks := d.walks.erase w }
    cores.foldl (fun s n => s.modCore n fun k =>
      k.mapAll fun m => if s.awaits n w.asn (· == w.vpage) m then { m with xfail := c } else m) s
  match s.lookup w.asn va with
  | .miss => failed 0x07
  | .retired => failed 0x0B
  | .entry e sz =>
    let t := tlbOf e sz w.asn va
    let within (p : Nat) : Bool := t.covers w.asn (p * 4096)
    let s := s.modDev fun d =>
      { d.fillTlb2 w.die t with walks := d.walks.filter fun v => !(v.die == w.die && v.asn == w.asn && within v.vpage) }
    cores.foldl (fun s n =>
      let k := s.core n
      if n == w.core || k.allCmds.any (s.awaits n w.asn within) then
        s.setCore n ((k.mapAll fun m => if s.awaits n w.asn within m then { m with page := none } else m).fillTlb t)
      else s) s

/-! ## Translation maintenance (R89) -/

/-- Remove translations from every TLB of the device. -/
def State.dropTlbs (s : State) (p : TlbEntry → Bool) : State :=
  { s with cores := s.cores.map fun c => { c with tlb := c.tlb.filter fun e => !p e },
           dev := { s.dev with tlb2 := s.dev.tlb2.filter fun e => !p e.2 } }

/-- The address space that a `tlbinv` names: outside the supervisor, that of the issuing context; an inactive context names
none. -/
def State.invAsn (s : State) (t : Task) (x : W64) : Option (BitVec 8) :=
  let k := s.cctx t
  if !k.sup then some k.asn
  else (s.ctxEntry (x.setWidth 16)).map fun i => BitVec.ofNat 8 ((s.ctxWord i 0).fld 16 8)

/-- Drop what matches, and make the next group wait until nothing that could have used it is outstanding. -/
def State.invalidate (s : State) (t : Task) (asn : Option (BitVec 8)) (p : TlbEntry → Bool) : State :=
  let (uid, s) := (s.dropTlbs p).fresh
  (s.modDev fun d => { d with invs := d.invs ++ [{ uid := uid, asn := asn }] }).setLive { t with invalidating := t.invalidating ++ [uid] }

/-- Nothing outstanding could still use a translation that the task's `tlbinv` removed: walks, and packets already translated. -/
def State.invalidated (s : State) (asn : Option (BitVec 8)) : Bool :=
  (s.dev.walks.all fun w => asn != none && asn != some w.asn)
    && s.dev.net.all fun p => asn != none && asn != some (s.asnOf p.core p.ctx)

/-- `tlbinv.page` (R89). -/
def execTlbinvPage (a b : SReg) (z : Fin 4) (s : State) : Out :=
  issue s fun t =>
    let va := (t.getS a).toNat % 2 ^ 56
    match s.invAsn t (t.getS b) with
    | none => .ok s
    | some asn =>
      if 0x00F000000000 ≤ va ∧ va < 0x00F200000000 then .ok s
      else .ok (s.invalidate t (some asn) fun e => e.sz == z && e.covers asn va)

/-- `tlbinv.ctx` (R89). -/
def execTlbinvCtx (b : SReg) (s : State) : Out :=
  issue s fun t =>
    match s.invAsn t (t.getS b) with
    | none => .ok s
    | some asn => .ok (s.invalidate t (some asn) fun e => e.asn == asn)

/-- `tlbinv.all` (R89): outside the supervisor it acts on the issuing context alone. -/
def execTlbinvAll (s : State) : Out :=
  issue s fun t =>
    let k := s.cctx t
    if k.sup then .ok (s.invalidate t none fun _ => true)
    else .ok (s.invalidate t (some k.asn) fun e => e.asn == k.asn)

/-- An invalidation completes, whatever has become of the task: what walks filled meanwhile is dropped, every entry of the address space
with it, which R80 allows; after a `tlbinv.all`, walks use the page table as `c.ptbase` and `c.ptlog` then describe it (R75). -/
def State.endInvalidation (s : State) (v : Invalidation) : State :=
  let s := s.dropTlbs fun e => v.asn.all (e.asn == ·)
  let s := s.modDev fun d => { d with invs := d.invs.filter (· != v) }
  if v.asn.isNone then s.modDev fun d => { d with usedPtbase := d.ptbase, usedPtlog := d.ptlog } else s

/-- The invalidations that nothing holds up any more complete. -/
def State.closeInvs (s : State) : State := (s.dev.invs.filter fun v => s.invalidated v.asn).foldl State.endInvalidation s

/-- A die walker completes a walk (R77, R80). -/
def execPageWalk (s : State) : Out :=
  let s := s.closeInvs
  .next <|
    match rotateBy s.dev.activeWalks s.on.index with
    | [] => s
    | w :: _ => s.endWalk w

/-! ## Commands that an image has changed (R132) -/

/-- A command of the map unit is done; one that an image has given a barrier or a stamp goes on to those (R108, R132). -/
def State.mapDone (s : State) (n : CoreId) (k : Cmd) : State :=
  if k.imaged && (k.barrier != 0 || k.stamped) && k.kind != .stamp then
    s.modCmd n k.uid fun q => { q with kind := .image, gran := 1, pos := q.total, owed := if q.barrier = 0 then [] else [64] }
  else s.removeCmd n k.uid

/-- A step of a command of the map unit that goes on as its image says: that of any copy; its end makes a fill's granule resident (R83). -/
def State.imagedStep (s : State) (n : CoreId) (k : Cmd) : Except Stop State := do
  let s' ← s.stepCmd n k
  if k.kind != .fill || ((s'.core n).cmd k.uid).isSome then return s'
  else
    let x := s'.ctxOn n k.ctx
    let tagf := match x.regionOf k.gran with | some i => x.regionTagf i | none => false
    return s'.modCore n fun c =>
      { c.modCtx k.ctx (fun q => (q.arrive k.gran).clean k.gran) with
        tags := if tagf then fillTags c.tags x.base k.gran else c.tags }

/-- The granule that the source record of a command names, read as a copy reads it. -/
def State.recordBytes (s : State) (n : CoreId) (k : Cmd) : Except Stop (State × List Byte) := do
  let (s, bs) ← s.readUnit (k.agent n) (sideOf k.sl k.src) (fun _ => true) { tags := false, next := none } (recordBase k.src) 64
  return (s, bs.getD (zeroBytes 64))

/-- Where the record of a carrier that an image has changed puts the byte at an offset of its granule. -/
def State.recordAddr (s : State) (n : CoreId) (k : Cmd) (off : Nat) (write : Bool) : Except Stop Nat :=
  let space := rfld k.src 62 2
  let a := recordBase k.src + off
  if space = 1 then .ok (windowBase n + a) else s.resolve (k.agent n) space a write

/-! ## Fills (R83, R85) -/

/-- The address lies in the core's own slice (R85). -/
def ownSlice (n : CoreId) (pa : Nat) : Bool := match placeOf pa with | .dram m _ => m == n | _ => false

/-- A fill delivers its granule. -/
def State.fillStep (s : State) (n : CoreId) (k : Cmd) : Except Stop State := do
  if k.imaged then return ← s.imagedStep n k
  let x := ((s.core n).cctx k.ctx).getD (.missing k.ctx)
  let va := recordBase k.src
  let pa ← s.resolve (k.agent n) 0 va false
  if !ownSlice n pa && !s.exchange then throw (.held s)
  match s.physMeets k.ctx x.sup false pa 64 with
  | .fail c => throw (.fault c va)
  | .held => throw (.held s)
  | .ok =>
    let bs := s.physRead k.ctx pa 64
    let tagf := match x.regionOf k.gran with | some i => x.regionTagf i | none => false
    let s := if x.isResident k.gran then s else
      s.modCore n fun c =>
        { c.modCtx k.ctx (fun q => (q.arrive k.gran).clean k.gran) with
          loft := c.loft.write (x.base + k.gran * 64) bs,
          tags := if tagf then fillTags c.tags x.base k.gran else c.tags }
    return ((((s.readBeat pa).chargeDram n k.ctx 64).chargeCopy n k.ctx (localTo n pa) 64).removeCmd n k.uid)

/-! ## Write-backs (R84, R85) -/

/-- Start the write-back of a dirty granule: one command of the map unit, under a hard read entry. -/
def State.startWriteBack (s : State) (n : CoreId) (x : CoreCtx) (g : Nat) (tid : BitVec 16) : Cmd × State :=
  let va := match x.regionOf g with | some i => x.regionVa i g | none => 0
  let (k, s) := s.mapCommand n { kind := .writeBack, ctx := x.ctx, tid := tid, gran := g, src := byteRecord 1 (g * 64) 64,
                                 dst := byteRecord 0 va 64 }
  let e : SbEntry := { space := .loft, lo := x.base / 64 + g, hi := x.base / 64 + g, write := false, soft := false,
                       ctx := x.ctx, owner := .cmd k.uid }
  (k, s.modCore n fun c => { c with sb := c.sb ++ [e] })

/-- An older entry that writes the granule, other than that of the `rgsync` that asked for the write-back, holds the read. -/
def Core.holdsWriteBack (c : Core) (k : Cmd) (g : Nat) : Bool :=
  (c.olderThan (.cmd k.uid)).any fun e => e.meets .loft g g && e.write && !c.awaitedBy e (.cmd k.uid)

/-- A non-local write-back is cancelled in this exchange: its context's budget expired (R331), or, in a region with WB = 0b10, a task of its
context on its core was held over (R330). -/
def State.cutWriteBack (s : State) (n : CoreId) (k : Cmd) : Bool :=
  let c := s.core n
  let swept := match (c.cctx k.ctx).bind fun x => (x.regionOf k.gran).map x.regionWb with | some w => w == 2 | none => false
  s.dev.cancelled.contains k.ctx || (swept && c.tasks.any fun p => p.2.ctx == k.ctx && p.2.cut)

/-- One step of a write-back: it reads its granule and clears dirty, and writes it to its virtual address. -/
def State.writeBackStep (s : State) (n : CoreId) (k : Cmd) : Except Stop State := do
  let x := ((s.core n).cctx k.ctx).getD (.missing k.ctx)
  if k.imaged then s.imagedStep n k
  else if 0 < k.inflight then throw (.held s)
  else if 0 < k.pos then return s.removeCmd n k.uid
  else
    if (s.core n).holdsWriteBack k (x.base / 64 + k.gran) then throw (.held s)
    let va := recordBase k.dst
    let a := k.agent n
    let pa ← s.resolve a 0 va true
    if !ownSlice n pa && !(s.exchange && !s.cutWriteBack n k) then throw (.held s)
    match s.physMeets k.ctx x.sup true pa 64 with
    | .fail c => throw (.fault c va)
    | .held => throw (.held s)
    | .ok =>
      let cells := (List.range 64).zip ((s.core n).loft.read (x.base + k.gran * 64) 64)
      let s := s.modCore n fun c => (c.modCtx k.ctx (·.clean k.gran)).release (.cmd k.uid)
      if localTo n pa then
        return (((s.physPut k.ctx x.sup pa cells false).chargeDram n k.ctx 64).chargeCopy n k.ctx true 64).removeCmd n k.uid
      else
        let s := s.sendPacket { uid := k.uid, core := n, ctx := k.ctx, tid := k.tid, addr := pa, seq := 0, cells := cells }
        return s.modCmd n k.uid fun k =>
          { k with pos := 1, inflight := 1, farBytes := 64, undo := some { pos := 0, skip := 0, rowElems := 0, prevCount := 62, weights := [] } }

/-! ## Region maintenance (R90) -/

/-- The granule needs work of a form. -/
def CoreCtx.syncNeeds (k : CoreCtx) (i : Fin 16) (form : Fin 4) (g : Nat) : Bool :=
  let dirty := k.dirty.get g == 1
  match form with
  | 0 => dirty
  | 1 => !k.isResident g
  | _ => dirty || (k.isResident g && k.regionFill i != 0)

/-- The granule as `rgsync.evict` and `rgsync.discard` leave it. -/
def CoreCtx.evicted (k : CoreCtx) (i : Fin 16) (g : Nat) : CoreCtx :=
  let k := k.clean g
  if k.regionFill i = 0 then k else { k with absent := k.absent.write g [1] }

/-- The entry of an `rgsync`. -/
def CoreCtx.syncEntry (k : CoreCtx) (i : Fin 16) (form : Fin 4) (uid : Nat) : SbEntry :=
  let lo := k.base / 64 + k.regionLo i
  { space := .loft, lo := lo, hi := lo + k.regionLen i - 1, write := form != 0, soft := false, ctx := k.ctx, owner := .sync uid }

/-- An `rgsync` changed, by its name. -/
def Core.modSync (c : Core) (uid : Nat) (f : RgSync → RgSync) : Core :=
  { c with syncs := c.syncs.map fun r => if r.uid = uid then f r else r }

/-- The arrivals that an `rgsync` owes its barrier are made, 64 bytes for each granule, once the barrier's granule is resident (R83, R90, R148). -/
def State.syncArrive (s : State) (n : CoreId) (r : RgSync) : State :=
  if r.owed = 0 then s
  else
    let paid (s : State) : State := s.modCore n (·.modSync r.uid fun q => { q with owed := 0 })
    if r.barrier = 0 then paid s
    else
      let a : Agent := { core := n, ctx := r.ctx, tid := r.tid, uid := r.uid, owner := .cmd r.uid }
      match s.loftReady a true false (r.barrier.toNat / 64) with
      | .ok s => paid ((List.range r.owed).foldl (fun s _ => s.arrival n r.ctx r.barrier 64) s)
      | .error (.held s) => s
      | .error (.fault _ _) => s

/-- The arrivals that an `rgsync` owes are made if they can be, and one that has nothing more to do ends. -/
def State.syncSettle (s : State) (n : CoreId) (uid : Nat) : State :=
  match (s.core n).syncs.find? (·.uid == uid) with
  | none => s
  | some r =>
    let s := s.syncArrive n r
    s.modCore n fun c =>
      if c.syncs.any fun q => q.uid == uid && q.todo.isEmpty && q.owed == 0 then
        { c.release (.sync uid) with syncs := c.syncs.filter (·.uid != uid) }
      else c

/-- `rgsync` (R90). A granule that an older operation has yet to write or read is judged when that operation no longer holds it (R145). -/
def rgsync (form : Fin 4) (a b : SReg) (s : State) : Out :=
  issue s fun t =>
    let k := s.cctx t
    let i : Fin 16 := Fin.ofNat 16 (t.getS a).toNat
    let v := t.getS b
    if v.toNat % 16 ≠ 0 ∨ (v ≠ 0 ∧ k.psize ≤ v.toNat) then s.bounds t v
    else
      let all := if k.regionValid i then (List.range (k.regionLen i)).map (k.regionLo i + ·) else []
      let older (g : Nat) : Bool :=
        let p := k.base / 64 + g
        (s.core s.cur).sb.any fun e => e.meets .loft p p && (form != 0 || e.write)
      let todo := all.filter fun g => k.syncNeeds i form g || older g
      if k.regionValid i && !(s.core s.cur).room t.ctx 1 then .wait s (s.boardWait t)
      else
        let (uid, s) := s.fresh
        let s := s.modCore s.cur fun c =>
          { c with sb := if todo.isEmpty then c.sb else c.sb ++ [k.syncEntry i form uid],
                   syncs := c.syncs ++ [{ uid := uid, ctx := t.ctx, tid := t.tid, region := i, form := form, barrier := v,
                                          todo := todo, owed := k.regionLen i - todo.length }] }
        .ok (s.syncSettle s.cur uid)

/-- `rgsync.wb` (R90). -/
def execRgsyncWb (a b : SReg) (s : State) : Out := rgsync 0 a b s
/-- `rgsync.fill` (R90). -/
def execRgsyncFill (a b : SReg) (s : State) : Out := rgsync 1 a b s
/-- `rgsync.evict` (R90). -/
def execRgsyncEvict (a b : SReg) (s : State) : Out := rgsync 2 a b s
/-- `rgsync.discard` (R90). -/
def execRgsyncDiscard (a b : SReg) (s : State) : Out := rgsync 3 a b s

/-- The first granule of an `rgsync` is done: its state, its arrival, and the end of the operation with the last. -/
def State.syncDone (s : State) (n : CoreId) (r : RgSync) (g : Nat) : State :=
  let s := if r.form.val ≤ 1 then s else s.modCore n fun c => c.modCtx r.ctx fun k => k.evicted r.region g
  (s.modCore n (·.modSync r.uid fun q => { q with todo := q.todo.drop 1, owed := q.owed + 1, inflight := none })).syncSettle n r.uid

/-- A sweep of R84 starts the write-back of its next granule, unless the granule is clean by now or has one on its way. -/
def State.sweepStep (s : State) (n : CoreId) (r : RgSync) (k : CoreCtx) (g : Nat) : Option State :=
  let c := s.core n
  let next (s : State) : State :=
    s.modCore n fun c => { c with syncs := c.syncs.map fun q => if q.uid = r.uid then { q with todo := q.todo.drop 1 } else q }
  if k.dirty.get g != 1 || c.mapCmds.any fun m => m.kind == .writeBack && m.ctx == r.ctx && m.gran == g then some (next s)
  else if !c.room r.ctx 1 then none
  else some (next (s.startWriteBack n k g r.tid).2)

/-- The next step of an `rgsync`, unless something holds it: older entries hold all of it (R145). -/
def State.syncStep (s : State) (n : CoreId) (r : RgSync) : Option State :=
  let c := s.core n
  let k := (c.cctx r.ctx).getD (.missing r.ctx)
  match r.todo, r.inflight with
  | [], _ => some (s.syncSettle n r.uid)
  | g :: _, some uid => if c.mapCmds.any (·.uid == uid) then none else some (s.syncDone n r g)
  | g :: _, none =>
    if r.sweep then s.sweepStep n r k g
    else if c.heldIn (.sync r.uid) .loft then none
    else if !k.syncNeeds r.region r.form g then some (s.syncDone n r g)
    else if r.form = 3 ∨ (r.form = 2 ∧ (k.dirty.get g).toNat ≠ 1) then some (s.syncDone n r g)
    else if r.form = 1 then
      match c.fillOf r.ctx g with
      | some f => some (s.modCore n fun c => c.modSync r.uid fun q => { q with inflight := some f.uid })
      | none =>
        if k.regionFill r.region = 2 then some ((s.modCore n fun c => c.touchZero k r.region g).syncDone n r g)
        else if !c.room r.ctx 1 then none
        else
          let (f, s) := s.startFill n k g r.tid
          some (s.modCore n fun c => c.modSync r.uid fun q => { q with inflight := some f.uid })
    else if !c.room r.ctx 1 then none
    else
      let (f, s) := s.startWriteBack n k g r.tid
      some (s.modCore n fun c => c.modSync r.uid fun q => { q with inflight := some f.uid })

/-- Every `rgsync` of a core takes a step where it can. -/
def State.syncAll (s : State) (n : CoreId) : State :=
  (s.core n).syncs.foldl (fun s r => (s.syncStep n r).getD s) s

/-- The write-backs that the start of an exchange asks for (R84): the dirty granules of every region with WB = 0b10. They take
entries one by one, as entries are free. -/
def State.startSweep (s : State) (n : CoreId) : State :=
  (s.core n).ctxs.foldl (fun s k =>
    (List.finRange 16).foldl (fun s i =>
      let todo := ((List.range (k.regionLen i)).map (k.regionLo i + ·)).filter fun g => (k.dirty.get g).toNat == 1
      if !k.regionValid i || k.regionWb i != 2 || todo.isEmpty then s
      else
        let (uid, s) := s.fresh
        s.modCore n fun c =>
          { c with syncs := c.syncs ++ [{ uid := uid, ctx := k.ctx, tid := 0, region := i, form := 0, barrier := 0,
                                          todo := todo, sweep := true }] }) s) s

/-! ## A context leaves a core (R346) -/

/-- The unit given up: no owner, not frozen, accumulators and bounds zero, every macro in storage mode with zero contents and a
zero descriptor; calibration is kept (R432). -/
def MatUnit.giveUp (m : MatUnit) : MatUnit :=
  { m with owner := none, frozen := false, running := none, mtaccs := [], acc := [], bnd := [], array := [],
           macros := m.macros.map fun x => { x with compute := false, dirty := false, desc := 0, parity := 0 } }

/-- The context has a partition on the core, but no task there and none in a save slot. -/
def Core.departed (c : Core) (x : BitVec 16) : Bool :=
  (c.cctx x).isSome && !c.hosts x && !c.saved.any fun v => v.ctx == x

/-- Write-backs that an exchange asked for, and that have not faulted, are still to be made from the context's partition (R84,
R322). -/
def Core.owesWriteBack (c : Core) (x : BitVec 16) : Bool :=
  let sound (k : Cmd) : Bool := k.ctx == x && k.kind == .writeBack && k.status != .faulted
  c.mapCmds.any sound || c.syncs.any fun r => r.ctx == x && (match r.inflight with | some u => (c.cmd u).any sound | none => true)

/-- A context's part of a core is given up: its meters are folded, and its partition is free (R346, R483). Of the map unit's work
for it nothing is left but what has faulted or only reads. -/
def State.freePartition (s : State) (n : CoreId) (x : BitVec 16) : State :=
  let s := s.fold n x
  s.modCore n fun c =>
    let stays (k : Cmd) : Bool := k.kind == .stamp || (k.kind == .remote && k.tid == 0)
    let gone := (c.mapCmds.filter fun k => k.ctx == x && !stays k && k.inflight == 0).map (·.uid)
    let syncs := (c.syncs.filter (·.ctx == x)).map (·.uid)
    { c with
      ctxs := c.ctxs.filter (·.ctx != x),
      mapCmds := c.mapCmds.filter fun k => !gone.contains k.uid,
      syncs := c.syncs.filter (·.ctx != x),
      sb := c.sb.filter fun e => match e.owner with | .cmd u => !gone.contains u | .sync u => !syncs.contains u | _ => true,
      waitq := c.waitq.filter (·.ctx != x) }

/-- The partitions of contexts that have left a core are freed, once no write-back is owed from them. -/
def State.freeIdle (s : State) (n : CoreId) : State :=
  let c := s.core n
  (c.ctxs.filter fun k => c.departed k.ctx && !c.owesWriteBack k.ctx).foldl (fun s k => s.freePartition n k.ctx) s

/-! ## The steps of the map unit -/

/-- The active commands of a kind, in turn; work on a partition rests while its context has none here (R87). -/
def Core.mapActive (c : Core) (kind : CmdKind) (turn : Nat) : List Cmd :=
  let partOnly := kind == .fill || kind == .writeBack || kind == .image
  rotateBy (c.mapCmds.filter fun k => k.kind == kind && k.serviceable && (!partOnly || (c.cctx k.ctx).isSome)) turn

/-- Try commands of the map unit in turn until one gets somewhere. -/
def State.tryMap (s : State) (n : CoreId) (step : State → Cmd → Except Stop State) : List Cmd → State
  | [] => s
  | k :: ks =>
    match s.settleStep n k.uid (step s k) with
    | (s, true) => s
    | (s, false) => s.tryMap n step ks

/-- A fill delivers (R83); an `rgsync` in progress goes on. -/
def execRegionFill (s : State) : Out :=
  let n := s.on.core
  let s := s.syncAll n
  .next (s.tryMap n (fun s k => s.fillStep n k) ((s.core n).mapActive .fill s.on.index))

/-- A write-back is performed (R84); an `rgsync` in progress goes on, and a partition from which nothing more is owed is freed. -/
def execWriteBack (s : State) : Out :=
  let n := s.on.core
  let s := s.syncAll n
  .next ((s.tryMap n (fun s k => s.writeBackStep n k) ((s.core n).mapActive .writeBack s.on.index)).freeIdle n)

/-! ## Instruction fetch (R169) -/

/-- The fetch of a granule by a task that is outstanding on a core. -/
def Core.fetchOf (c : Core) (tid : BitVec 16) (va : Nat) : Option Cmd :=
  c.mapCmds.find? fun k => k.kind == .fetch && k.tid == tid && k.home == va

/-- Start the fetch of a code granule. -/
def State.startFetch (s : State) (n : CoreId) (t : Task) (va : Nat) : Cmd × State :=
  s.mapCommand n { kind := .fetch, ctx := t.ctx, tid := t.tid, src := byteRecord 0 va 64, dst := byteRecord 0 va 64, home := va }

/-- A fetch that an image has changed brings its task the bundle from where the record says (R132). -/
def State.fetchRecord (s : State) (n : CoreId) (k : Cmd) : Except Stop State := do
  let (s, bs) ← s.recordBytes n k
  return (s.modAnywhere k.tid fun t =>
    if t.pc.toNat / 64 * 64 = k.home ∧ t.bundle.isNone then { t with bundle := some (BitVec.ofNat 128 (leNat ((bs.drop (t.pc.toNat % 64)).take 16))) }
    else t).mapDone n k

/-- A fetch completes when its granule is translated, in any phase; a target in the window range faults. -/
def State.fetchStep (s : State) (n : CoreId) (k : Cmd) : Except Stop State := do
  if k.imaged then return ← s.fetchRecord n k
  let va := recordBase k.src
  if 0x00F000000000 ≤ va ∧ va < 0x00F200000000 then throw (.fault 0x09 va)
  let pa ← s.resolve (k.agent n) 0 va false
  let asn := s.asnOf n k.ctx
  let s := match (s.core n).tlb.find? (·.covers asn va) with
    | some _ => s
    | none =>
      match s.dev.tlb2.find? (fun (p : Bool × TlbEntry) => p.1 == dieOf n && p.2.covers asn va) with
      | some p => s.modCore n fun c => c.fillTlb p.2
      | none => s
  return ((s.readBeat pa).chargeDram n k.ctx 64).removeCmd n k.uid

/-- The map unit fetches and translates a code granule (R169). -/
def execInstructionFetch (s : State) : Out :=
  let n := s.on.core
  .next (s.tryMap n (fun s k => s.fetchStep n k) ((s.core n).mapActive .fetch s.on.index))

/-! ## Loft images (R347) and the engines' deliveries -/

/-- The record of a run of granules. -/
def granuleRecord (space base len : Nat) : BitVec 768 :=
  BitVec.ofNat 768 (base % 2 ^ 56 + space * 2 ^ 62 + 64 * 2 ^ 64 + len * 2 ^ 96 + 64 * 2 ^ 128 + len / 64 * 2 ^ 144 + 5 * 2 ^ 192)

/-- EXT of a record. -/
def recordExt (r : BitVec 768) : Nat := bits r.toNat 96 32

/-- One step of the copy of a loft image: the header first, as an instruction fetch reads it; then granule by granule into the
partition, from its first byte on. -/
def State.imageStep (s : State) (n : CoreId) (k : Cmd) : Except Stop State := do
  let a := k.agent n
  let x := s.agentCtx a
  let va := recordBase k.src
  if k.gran = 0 then
    if 0x00F000000000 ≤ va ∧ va < 0x00F200000000 ∧ !k.imaged then throw (.fault 0x09 va)
    let (s, bs) ← (if k.imaged then s.recordBytes n k else (s.resolve a 0 va false).map fun pa => (s, s.dev.dram.read pa 16) : Except Stop (State × List Byte))
    let adr := bits (leNat (bs.take 8)) 6 50 * 64
    let len := bits (leNat (bs.drop 8)) 0 32
    if adr = 0 ∨ len = 0 then return s.mapDone n k
    else if len % 64 ≠ 0 ∨ x.psize < len then throw (.fault 0x02 va)
    else return s.modCmd n k.uid fun k => { k with gran := 1, src := granuleRecord 0 adr len, dst := granuleRecord 1 0 len }
  else if k.imaged then s.imagedStep n k
  else
    let pa ← s.resolve a 0 (va + k.pos) false
    s.physReady a pa 64 false (va + k.pos)
    let bs := s.physRead k.ctx pa 64
    let s := s.modCore n fun c => { c with loft := c.loft.write (x.base + k.pos) bs }
    let s := ((s.readBeat pa).chargeDram n k.ctx 64).chargeCopy n k.ctx (localTo n pa) 64
    if recordExt k.src ≤ k.pos + 64 then return s.removeCmd n k.uid
    else return s.modCmd n k.uid fun k => { k with pos := k.pos + 64 }

/-- An engine delivers one conversion unit, or completes a command (R99, R108, R111); engine 0 also carries the map unit's copies of
loft images (R347), in an open order. -/
def execGranuleDeliver (s : State) : Out :=
  let n := s.on.core
  let (turn, s) := s.choose 64
  let images := (s.core n).mapActive .image turn
  .next <|
    if !s.on.engine && !images.isEmpty && turn % 2 = 1 then s.tryMap n (fun s k => s.imageStep n k) images
    else s.tryCmds n ((s.core n).served s.on.engine turn)

end Sys2Proof.Machine
end

