-- ==== Sys2Proof/Machine/Phase.lean ====
section
/-!
DEFINITION. The phase family (R317 to R320, R332) and the transfers that keep an exchange open (R322).
-/
namespace Sys2Proof.Machine

/-! ## Participation and budgets (R317, R316) -/

/-- The task has started: one placed in an exchange starts with the next compute phase (R342). -/
def Task.started (t : Task) : Bool := t.startPhase.isNone

/-- The task participates in the current phase (R317). -/
def Task.participates (t : Task) : Bool := t.hold == .none && !t.ctl.arr && t.started

/-- A budget below 4096 acts as 4096 (R316). -/
def effBudget (n : Nat) : Nat := Max.max n 4096

/-- The effective budget of a context in the current phase: CB in a compute phase, XB in an exchange phase. -/
def CoreCtx.budget (k : CoreCtx) (exchange : Bool) : Nat :=
  effBudget (if exchange then k.sbudget.fld 32 31 else k.sbudget.fld 0 32)

/-- STRAP of a context. -/
def CoreCtx.strap (k : CoreCtx) : Bool := k.sbudget.getLsbD 63

/-! ## Arrival (R319, R320) -/

/-- The task arrives with a target, which `sd` receives. -/
def Task.arrive (t : Task) (d : SReg) (target : W64) : Task :=
  { t with ctl := { t.ctl with arr := true, tgt := target } }.setS d target

/-- `phase` (R319). -/
def execPhase (d : SReg) (s : State) : Out := onTask s fun t => t.arrive d (s.dev.phase + 1)
/-- `phase.c` (R319). -/
def execPhaseC (d : SReg) (s : State) : Out := onTask s fun t => t.arrive d (s.dev.phase + if s.exchange then 1 else 2)
/-- `phuntil` (R319): a phase already reached makes no arrival. -/
def execPhuntil (d a : SReg) (s : State) : Out :=
  onTask s fun t =>
    let v := t.getS a
    if v.toNat ≤ s.dev.phase.toNat then t.setS d s.dev.phase else t.arrive d v
/-- `phleft` (R320). -/
def execPhleft (d : SReg) (s : State) : Out :=
  onTask s fun t => t.setS d (w64i (((s.cctx t).budget s.exchange : Int) - s.elap))
/-- `phreq` (R332): a request for a truncation, from a supervisor context alone. -/
def execPhreq (s : State) : Out :=
  issue s fun t => if (s.cctx t).sup then .ok (s.modDev fun d => { d with trunc := true }) else .ok s

/-! ## Live transfers (R322) -/

/-- An address of a command's side is beyond its core: in another core's window or slice, or not translated yet. -/
def State.farAddr (s : State) (n : CoreId) (x : BitVec 16) (space : Nat) (adr : Int) : Bool :=
  let va := (adr % 2 ^ 56).toNat
  if space = 1 then false
  else if space = 2 then !localTo n va
  else
    match s.translateDirect ((s.ctxOn n x).asn) va false with
    | .ok pa => !localTo n pa
    | .error _ => true

/-- The command still has non-local work to do: a packet on its way, a unit with a non-local granule, an arrival that it owes another
core, or a non-local stamp. -/
def State.farWork (s : State) (n : CoreId) (k : Cmd) : Bool :=
  let j := s.jobOf n k
  let unit (u : Nat) : Bool :=
    (match j.srcAt u with | some a => s.farAddr n k.ctx j.src.space a | none => false)
      || (match j.dstAt u with | some a => s.farAddr n k.ctx j.dst.space a | none => false)
  0 < k.inflight || (k.stamped && s.farAddr n k.ctx 0 k.stampAddr.toNat)
    || (!k.owed.isEmpty && k.barrier != 0 && (barrierAt n k.barrier).1 != n)
    || (k.kind != .signal && ((List.range j.walk.total).drop k.pos).any unit)

/-- The command is cancelled in this exchange: its task was held over (R330), or its context's budget expired (R331). -/
def State.cancelledNow (s : State) (n : CoreId) (k : Cmd) : Bool :=
  s.dev.cancelled.contains k.ctx || (k.kind == .writeBack && s.cutWriteBack n k) ||
    (k.kind.engine && (s.core n).tasks.any fun p => p.2.tid == k.tid && p.2.cut)

/-- The work of an owner of scoreboard entries is excepted from R322: a command that is faulted or cancelled, an `rgsync` that stands at such
a command or is cancelled, or work held behind such work by a chain, by a signal, or by a scoreboard entry. -/
def State.exceptedOwner (s : State) (n : CoreId) : Nat → SbOwner → Bool
  | 0, _ => false
  | f + 1, o =>
    let c := s.core n
    (match o with
      | .cmd u =>
        match c.cmd u with
        | some k =>
          k.status == .faulted || s.cancelledNow n k
            || (c.allCmds.any fun m => k.heldBy.contains m.uid && s.exceptedOwner n f (.cmd m.uid))
            || (k.kind == .signal && (c.tasks.any fun p => p.2.tid == k.tid && p.2.cmds.any fun m =>
                  m.kind != .signal && m.status != .building && m.age < k.age && s.exceptedOwner n f (.cmd m.uid)))
        | none => false
      | .sync u =>
        match c.syncs.find? (·.uid == u) with
        | some r => s.dev.cancelled.contains r.ctx || (match r.inflight with | some v => s.exceptedOwner n f (.cmd v) | none => false)
        | none => false
      | _ => false)
      || (c.sb.filter (·.owner == o)).any fun e =>
            (c.olderThan o).any fun x => x.meets e.space e.lo e.hi && (x.write || e.write) && s.exceptedOwner n f x.owner

/-- As many steps back as there can be on a core, each to older work. -/
def Core.depth (c : Core) : Nat := c.allCmds.length + c.syncs.length + c.sb.length + 1

/-- The command is excepted from R322. -/
def State.excepted (s : State) (n : CoreId) (k : Cmd) : Bool := s.exceptedOwner n (s.core n).depth (.cmd k.uid)

/-- A transfer that still has non-local work keeps the exchange open; a fill is a copy command too (R83), and so is the copy of a loft
image (R347). -/
def State.liveCmd (s : State) (n : CoreId) (k : Cmd) : Bool :=
  match k.kind with
  | .copy | .xfer | .signal => k.status != .building && s.farWork n k && !s.excepted n k
  | .writeBack => (if k.imaged then s.farWork n k else far (recordBase k.dst)) && !s.excepted n k
  | .fill => (if k.imaged then s.farWork n k else far (recordBase k.src)) && !s.excepted n k
  | .image => (if k.gran = 0 then far (recordBase k.src) else s.farWork n k) && !s.excepted n k
  | .stamp => !s.excepted n k
  | _ => false
where
  /-- The granule is not in the core's own slice, or its packet is on its way. -/
  far (va : Nat) : Bool := 0 < k.inflight || s.farAddr n k.ctx 0 va

/-- Fills and write-backs that the map unit has yet to start, with non-local work (R83, R84, R90). -/
def State.liveSync (s : State) (n : CoreId) (r : RgSync) : Bool :=
  let c := s.core n
  let k := (c.cctx r.ctx).getD (.missing r.ctx)
  let cut := k.regionWb r.region == 2 && c.tasks.any fun p => p.2.ctx == r.ctx && p.2.cut
  let needs (g : Nat) : Bool :=
    if r.form = 1 then !k.isResident g && k.regionFill r.region == 1 else (k.dirty.get g).toNat == 1 && !cut
  r.form != 3 && !s.exceptedOwner n c.depth (.sync r.uid) && !(r.sweep && s.dev.cancelled.contains r.ctx)
    && r.todo.any fun g => needs g && s.farAddr n r.ctx 0 (k.regionVa r.region g)

/-- Some transfer of the exchange is live. -/
def State.transfersLive (s : State) : Bool :=
  allCores.any fun n =>
    let c := s.core n
    !c.mx.mtaccs.isEmpty || (c.mapCmds ++ ((c.tasks.map (·.2)).filter (·.hold != .switched)).flatMap Task.cmds).any (s.liveCmd n) || c.syncs.any (s.liveSync n)

/-- Some task participates in the current phase. -/
def State.someParticipates (s : State) : Bool := s.tasks.any fun p => p.2.2.participates

end Sys2Proof.Machine
end

