-- ==== Sys2Proof/Machine/Matrix.lean ====
section
/-!
DEFINITION. The macro instructions (R251 to R261), the matrix calls and the accumulator instructions (R262 to R290): what the core
performs at issue. The sequencer that runs a call is in Micro.
-/
namespace Sys2Proof.Machine

/-! ## The unit and its owner (R262) -/

/-- The matrix unit of the current core. -/
def State.unit (s : State) : MatUnit := (s.core s.cur).mx

/-- The matrix unit of a core changed. -/
def State.modUnit (s : State) (n : CoreId) (f : MatUnit → MatUnit) : State := s.modCore n fun c => { c with mx := f c.mx }

/-- A matrix instruction: only for tasks of the owner. What fails the check is `c.mown` (log entry 20). -/
def onUnit (f : Task → Act) (s : State) : Out :=
  issue s fun t => if s.unit.owner = some t.ctx then f t else s.bounds t s.unit.ownWord

/-- The macros a mask names. -/
def maskMacros (v : W64) : List (Fin 64) := (List.finRange 64).filter fun i => v.getLsbD i.val

/-- The macro a selector names. -/
def macroSel (v : W64) : Fin 64 := Fin.ofNat 64 (v.fld 0 6)

/-! ## Holds on macros, accumulators and bounds (R145, R281) -/

/-- Core-window address of the first byte of a space of the unit. -/
def unitBase : SbSpace → Nat
  | .array => 0x2000000
  | .sums | .loft => 0

/-- An operation whose entries do not hold drains of a frozen unit: a call or a manger replay. -/
def SbOwner.ofUnit : SbOwner → Bool
  | .call _ _ => true
  | .replay _ _ => true
  | _ => false

/-- The wait of a core access to intervals of the unit's spaces, each with its first and last granule: for the oldest entry that conflicts with
one of them (R148); `drain`: the access is a drain or restore. -/
def State.unitHold (s : State) (t : Task) (drain write : Bool) (ps : List (SbSpace × Nat × Nat)) : Option Wait :=
  let c := s.core s.cur
  c.sb.findSome? fun e =>
    if (drain && c.mx.frozen && e.owner.ofUnit) || !(write || e.write) then none
    else
      (ps.find? fun p => e.meets p.1 p.2.1 p.2.2).map fun p =>
        { okind := 0x06, obj := BitVec.ofNat 48 (windowBase s.cur + unitBase p.1 + Max.max e.lo p.2.1 * 64),
          owner := s.sbOwner s.cur t.tid e.owner }

/-- A core access to intervals of the unit's spaces, performed once nothing holds it. -/
def State.unitAccess (s : State) (t : Task) (drain write : Bool) (ps : List (SbSpace × Nat × Nat)) (f : Act) : Act :=
  match s.unitHold t drain write ps with
  | some w => .wait s w
  | none => f

/-- The granules of a macro. -/
def macroSpan (i : Fin 64) : SbSpace × Nat × Nat := (.array, i.val * 256, i.val * 256 + 255)
/-- The granules of accumulator rows `f … l`. -/
def accSpan (f l : Nat) : SbSpace × Nat × Nat := (.sums, 0x40000 + f * 32, 0x40000 + l * 32 + 31)
/-- The granules of bound rows `f … l`. -/
def bndSpan (f l : Nat) : SbSpace × Nat × Nat := (.sums, 0x50000 + f * 16, 0x50000 + l * 16 + 15)

/-! ## Macro instructions (R253, R254, R258 to R260) -/

/-- A macro changed. -/
def MatUnit.modMacro (m : MatUnit) (i : Fin 64) (f : MacroSt → MacroSt) : MatUnit :=
  { m with macros := m.macros.set i (f m.macros[i]) }

/-- The named macros changed. -/
def MatUnit.modMacros (m : MatUnit) (is : List (Fin 64)) (f : MacroSt → MacroSt) : MatUnit :=
  is.foldl (fun m i => m.modMacro i f) m

/-- Every outstanding call of a core: the running one and the queues of all banks. -/
def Core.allCalls (c : Core) : List Call := c.mx.running.toList ++ c.tasks.flatMap fun p => p.2.calls

/-- First and last macro of a call's footprint (R272). -/
def Call.uses (k : Call) (i : Fin 64) : Bool := k.m[7].fld 26 6 ≤ i.val && i.val ≤ k.m[7].fld 20 6

/-- `mmode.s` (R254): held while a call took a named macro in compute mode, or while one is BUSY. -/
def execMmodeS (a : SReg) (s : State) : Out :=
  onUnit (fun t =>
    let is := maskMacros (t.getS a)
    let c := s.core s.cur
    s.unitAccess t false true (is.map macroSpan) <|
      if (is.any fun i => c.mx.macros[i].busy || c.allCalls.any fun k => k.uses i && k.modes.getLsbD i.val) then Act.hold s
      else .ok (s.modUnit s.cur (·.modMacros is fun m => { m with compute := false }))) s

/-- The calibrations that are held and that nothing holds any more start (R259): of a macro in compute mode which the running call may not
use. -/
def MatUnit.startHeld (m : MatUnit) : MatUnit :=
  { m with macros := Vector.ofFn fun (i : Fin 64) =>
      let x := m.macros[i]
      if x.pend && x.compute && !x.busy && !m.running.any (·.uses i) then { x with pend := false, busy := true } else x }

/-- `mmode.c` (R253): a calibration that storage mode held starts (R259). -/
def execMmodeC (a : SReg) (s : State) : Out :=
  onUnit (fun t =>
    let is := maskMacros (t.getS a)
    s.unitAccess t false true (is.map macroSpan) <|
      .ok (s.modUnit s.cur fun m => (m.modMacros is fun x => { x with compute := true }).startHeld)) s

/-- The mode map: bit k of compute mode. -/
def MatUnit.modeMap (m : MatUnit) : W64 :=
  w64 ((List.finRange 64).map fun i => bit m.macros[i].compute * 2 ^ i.val).sum

/-- `mmode.rd` (R258). -/
def execMmodeRd (d : SReg) (s : State) : Out :=
  onUnit (fun t => .ok (s.setLive (t.setS d s.unit.modeMap))) s

/-- `mcal` (R259) asks for a calibration, unless one is in progress. -/
def MatUnit.calibrate (m : MatUnit) (i : Fin 64) : MatUnit :=
  m.modMacro i fun x => if x.busy then x else { x with pend := true }

/-- `mcal` (R259): at once in compute mode, unless the running call may use the macro; otherwise the calibration is held. -/
def execMcal (a : SReg) (s : State) : Out :=
  onUnit (fun t => .ok (s.modUnit s.cur fun m => ((maskMacros (t.getS a)).foldl MatUnit.calibrate m).startHeld)) s

/-- The state word of a macro's calibration (R244). -/
def MacroSt.calWord (m : MacroSt) (tnow : BitVec 16) : W64 :=
  w64 (bit m.uncal * 2 ^ 63 + bit m.stale * 2 ^ 62 + bit m.busy * 2 ^ 61 + bit m.fail * 2 ^ 60 + m.age % 2 ^ 24 * 2 ^ 32
    + m.tcal.toNat * 2 ^ 16 + tnow.toNat)

/-- OFF of a column of a macro (R237, R244). -/
def MatUnit.off (m : MatUnit) (i : Fin 64) (col : Nat) : Int := (m.offs.get (i.val * 512 + col % 512)).toInt

/-- `mcal.rd` (R259). -/
def execMcalRd (d a : SReg) (s : State) : Out :=
  onUnit (fun t =>
    let v := t.getS a
    let i := macroSel v
    let w := if v.getLsbD 6 then w64i (s.unit.off i (v.fld 7 9)) else s.unit.macros[i].calWord (s.core s.cur).tnow
    .ok (s.setLive (t.setS d w))) s

/-- `mdesc.rd` (R260). -/
def execMdescRd (d a : SReg) (s : State) : Out :=
  onUnit (fun t =>
    let v := t.getS a
    let i := macroSel v
    s.unitAccess t false false [macroSpan i] <|
      .ok (s.setLive (t.setS d (w64 (bits s.unit.macros[i].desc.toNat (64 * v.fld 6 1) 64))))) s

/-- `mdesc.wr` (R260). -/
def execMdescWr (a b : SReg) (s : State) : Out :=
  onUnit (fun t =>
    let v := t.getS a
    let x := t.getS b
    let i := macroSel v
    let hi := v.getLsbD 6
    if hi && x.fld 1 63 != 0 then s.bounds t x
    else if s.unit.macros[i].compute then s.bounds t v
    else s.unitAccess t false true [macroSpan i] <|
      .ok (s.modUnit s.cur (·.modMacro i fun m =>
        let d := m.desc.toNat
        { m with dirty := true,
                 desc := BitVec.ofNat 128 (if hi then d % 2 ^ 64 + x.toNat * 2 ^ 64 else d / 2 ^ 64 * 2 ^ 64 + x.toNat) }))) s

/-! ## Parameters and the microprogram store (R285) -/

/-- `mpw` (R285). -/
def execMpw (d : MReg) (a : SReg) (s : State) : Out :=
  onUnit (fun t => .ok (s.setLive { t with regs := { t.regs with m := t.regs.m.set d (t.getS a) } })) s
/-- `mpr` (R285). -/
def execMpr (d : SReg) (a : MReg) (s : State) : Out := onUnit (fun t => .ok (s.setLive (t.setS d t.regs.m[a]))) s

/-- The object of a wait on the unit, or on a call (R370). -/
def callObj (n : CoreId) (h : BitVec 32) : BitVec 48 := BitVec.ofNat 48 (h.toNat * 2 ^ 16 + n.val)

/-- `mucw` (R285): no effect outside the supervisor; otherwise once no call of any bank is outstanding. -/
def execMucw (a b : SReg) (s : State) : Out :=
  issue s fun t =>
    if !(s.cctx t).sup then .ok s
    else if (s.core s.cur).callsOutstanding then .wait s { okind := 0x0B, obj := callObj s.cur 0 }
    else .ok (s.modUnit s.cur fun m => { m with ucode := m.ucode.setNum ((t.getS a).fld 0 13 * 8) 8 (t.getS b).toNat })

/-- A word of the store. -/
def MatUnit.word (m : MatUnit) (i : Nat) : W64 := w64 (m.ucode.num (i * 8) 8)

/-- `mucr` (R285). -/
def execMucr (d a : SReg) (s : State) : Out := onTask s fun t => t.setS d (s.unit.word ((t.getS a).fld 0 13))

/-! ## Handles and status (R275, R276) -/

/-- The next handle of a task: 0 is skipped. -/
def nextHandle (h : BitVec 32) : BitVec 32 := if h + 1 = 0 then 1 else h + 1

/-- A new handle with its status word: the unit keeps the 16 most recent; an older call that has yet to complete still gathers what `c.mflags` takes. -/
def Task.newHandle (t : Task) : BitVec 32 × Task :=
  let h := nextHandle t.ctl.lasth
  let st := t.stats ++ [{ handle := h, status := h.setWidth 64 }]
  (h, { t with wrapped := t.wrapped || t.ctl.lasth + 1 = 0, ctl := { t.ctl with lasth := h }, stats := st.drop (st.length - 16),
               late := (t.late ++ st.take (st.length - 16)).filter fun r => !r.status.getLsbD 63 })

/-- The kept status of a handle. -/
def Task.statusOf (t : Task) (h : BitVec 32) : Option CallStatus := t.stats.find? (·.handle == h)

/-- The status word that a handle reads as: of a handle issued and no longer kept, EXP (R276). -/
def Task.statusWord (t : Task) (h : BitVec 32) : W64 :=
  match t.statusOf h with
  | some r => r.status
  | none => if h = 0 ∨ (!t.wrapped ∧ t.ctl.lasth.toNat < h.toNat) then 0 else w64 (2 ^ 55 + h.toNat)

/-- `mstat` (R286). -/
def execMstat (d a : SReg) (s : State) : Out :=
  onUnit (fun t => .ok (s.setLive (t.setS d (t.statusWord (BitVec.ofNat 32 ((t.getS a).fld 0 32)))))) s
/-- `mstat.clip` (R286). -/
def execMstatClip (d a b : SReg) (s : State) : Out :=
  onUnit (fun t =>
    let clip := match t.statusOf (BitVec.ofNat 32 ((t.getS a).fld 0 32)) with | some r => r.clip.toNat | none => 0
    .ok (s.setLive (t.setS d (w64 (bits clip (64 * (t.getS b).fld 0 3) 64))))) s

/-- `mcwait` (R286): an expired, zero or unissued handle does not wait. -/
def execMcwait (a : SReg) (s : State) : Out :=
  onUnit (fun t =>
    let h := BitVec.ofNat 32 ((t.getS a).fld 0 32)
    match t.statusOf h with
    | some r => if r.status.getLsbD 63 then .ok s else .wait s { okind := 0x0B, obj := callObj s.cur h }
    | none => .ok s) s

/-- `mcwait.all` (R286). -/
def execMcwaitAll (s : State) : Out :=
  onUnit (fun t =>
    match (s.core s.cur).openCalls t.tid with
    | k :: _ => .wait s { okind := 0x0B, obj := callObj s.cur k.handle }
    | [] => .ok s) s

/-! ## Calls (R271 to R273) -/

/-- The first tile of a footprint that is not valid (R221), by its shape word. -/
def Task.badTile (t : Task) (m7 : W64) : Option W64 :=
  ((footTiles m7 true ++ footTiles m7 false).find? fun i => (t.shape i).isNone).map fun i => t.regs.tdim[i]

/-- What fails the checks of R273 on the footprint. -/
def Task.footFails (t : Task) (p : Nat) : Option W64 :=
  let m7 := t.regs.m[7]
  let m6 := t.regs.m[6]
  if m7.fld 0 3 ≠ 0 ∨ m7.fld 20 6 < m7.fld 26 6 ∨ m7.fld 5 7 < m7.fld 12 7 then some m7
  else
    match t.badTile m7 with
    | some w => some w
    | none =>
      if m7.getLsbD 3 ∧ (m6.fld 16 16 < m6.fld 0 16 ∨ p / 64 ≤ m6.fld 16 16) then some m6 else none

/-- The entries of a call (R273): operand reads first. -/
def callEntries (k : CoreCtx) (o : SbOwner) (m7 m6 : W64) : List SbEntry :=
  let mk (write : Bool) (p : SbSpace × Nat × Nat) : SbEntry :=
    { space := p.1, lo := p.2.1, hi := p.2.2, write := write, soft := false, ctx := k.ctx, owner := o }
  [mk false (.array, m7.fld 26 6 * 256, m7.fld 20 6 * 256 + 255)]
    ++ (if m7.getLsbD 3 then [mk false (.loft, k.base / 64 + m6.fld 0 16, k.base / 64 + m6.fld 16 16)] else [])
    ++ (if m7.getLsbD 4 then [mk true (accSpan (m7.fld 12 7) (m7.fld 5 7)), mk true (bndSpan (m7.fld 12 7) (m7.fld 5 7))] else [])

/-- `mcall` and `mcall.rty` (R273). -/
def matrixCall (i : Fin 256) (p : Fin 16) (w : Fin 4) (d : SReg) (rty : Bool) (s : State) : Out :=
  issue s fun t =>
    let c := s.core s.cur
    let k := s.cctx t
    if s.exchange then s.phaseIllegal t
    else if c.mx.owner ≠ some t.ctx then s.bounds t c.mx.ownWord
    else
      match t.footFails k.psize with
      | some v => s.bounds t v
      | none =>
        if 8 ≤ (c.openCalls t.tid).length then
          .wait s { okind := 0x0B, obj := callObj s.cur 0, owner := s.callOwner t }
        else
          let (uid, s) := s.fresh
          let (h, t1) := t.newHandle
          let es := callEntries k (.call t.tid h) t.regs.m[7] t.regs.m[6]
          if !c.room t.ctx es.length then .wait s (s.boardWait t)
          else
            let call : Call := { handle := h, ctx := t.ctx, tid := t.tid, m := t.regs.m, idx := i, split := p.val, win := w.val,
                                 rty := rty, modes := c.mx.modeMap, tdim := t.regs.tdim, serial := uid }
            let t2 := { t1 with calls := t1.calls ++ [call] }.setS d (h.setWidth 64)
            .ok ((s.setLive t2).modCore s.cur fun c => { c with sb := c.sb ++ es })

/-- `mcall` (R273). -/
def execMcall (i : Fin 256) (p : Fin 16) (w : Fin 4) (d : SReg) (s : State) : Out := matrixCall i p w d false s
/-- `mcall.rty` (R273). -/
def execMcallRty (i : Fin 256) (p : Fin 16) (w : Fin 4) (d : SReg) (s : State) : Out := matrixCall i p w d true s

/-! ## Drains and restores (R281, R287, R288) -/

/-- Move accumulator rows to a register. -/
def execMdrainA (d : VReg) (a : SReg) (s : State) : Out :=
  onUnit (fun t =>
    let f := (t.getS a).fld 0 7
    if f % 8 ≠ 0 then s.bounds t (t.getS a)
    else s.unitAccess t true false [accSpan f (f + 7)] <| .ok (s.setLive (t.setVBytes d (s.unit.acc.read (f * 2048) 16384)))) s

/-- Move bound rows to a register. -/
def execMdrainB (d : VReg) (a : SReg) (s : State) : Out :=
  onUnit (fun t =>
    let f := (t.getS a).fld 0 7
    if f % 16 ≠ 0 then s.bounds t (t.getS a)
    else s.unitAccess t true false [bndSpan f (f + 15)] <| .ok (s.setLive (t.setVBytes d (s.unit.bnd.read (f * 1024) 16384)))) s

/-- Move a register to accumulator rows. -/
def execMrestA (d : VReg) (a : SReg) (s : State) : Out :=
  onUnit (fun t =>
    let f := (t.getS a).fld 0 7
    if f % 8 ≠ 0 then s.bounds t (t.getS a)
    else s.unitAccess t true true [accSpan f (f + 7)] <|
      .ok (s.modUnit s.cur fun m => { m with acc := m.acc.write (f * 2048) (t.getVBytes d 16384) })) s

/-- A bound as `mrest.b` writes it: the magnitude, and +∞ for a NaN. -/
def restBound (v : Nat) : Nat := if 0x7F80 < v % 0x8000 then 0x7F80 else v % 0x8000

/-- Move a register to bound rows; what a stopped call has done to bounds is history (log entry 59). -/
def execMrestB (d : VReg) (a : SReg) (s : State) : Out :=
  onUnit (fun t =>
    let f := (t.getS a).fld 0 7
    if f % 16 ≠ 0 then s.bounds t (t.getS a)
    else s.unitAccess t true true [bndSpan f (f + 15)] <|
      .ok (s.modUnit s.cur fun m =>
        { m with bnd := m.bnd.write (f * 1024) ((t.elems d 2 8192).flatMap fun v => leBytes 2 (restBound v)),
                 running := m.running.map fun k => { k with bnd0 := none, trace := [] } })) s

/-- `mzero` (R288). -/
def execMzero (a : SReg) (s : State) : Out :=
  onUnit (fun t =>
    let v := t.getS a
    let f := v.fld 0 7
    let l := v.fld 8 7
    if l < f then s.bounds t v
    else s.unitAccess t false true [accSpan f l, bndSpan f l] <|
      .ok (s.modUnit s.cur fun m =>
        { m with acc := m.acc.zero (f * 2048) ((l - f + 1) * 2048), bnd := m.bnd.zero (f * 1024) ((l - f + 1) * 1024) })) s

/-! ## The micro-state image (R282, R287) -/

/-- The 128-byte queue entry of a call. -/
def Call.queueBytes (k : Call) : List Byte :=
  k.m.toList.flatMap (fun w => leBytes 8 w.toNat)
    ++ leBytes 8 (bit k.rty * 2 ^ 46 + k.win * 2 ^ 44 + k.split * 2 ^ 40 + k.idx.val * 2 ^ 32 + k.handle.toNat)
    ++ leBytes 8 k.modes.toNat ++ zeroBytes 48

/-- The 16 exponent bytes of a slot. -/
def USlot.expBytes (x : USlot) : List Byte := (x.exps ++ zeroBytes 8).take 8 ++ leBytes 2 x.driven ++ zeroBytes 6

/-- The micro-state of a task as an image of 8 KiB (R282). The first queue entry is the call in progress when one is. -/
def State.microImage (s : State) (n : CoreId) (t : Task) : List Byte :=
  let c := s.core n
  let calls := c.openCalls t.tid
  let mine := (calls.head?.filter fun k => k.pc != 0)
  let k := mine.getD {}
  let pad (m : Nat) (bs : List Byte) : List Byte := (bs ++ zeroBytes m).take m
  let at_ (i : Nat) : Option CallStatus := t.stats.find? fun r => r.handle.toNat % 16 == i
  leBytes 8 (2 ^ 48 + calls.length)
    ++ leBytes 8 (k.count % 2 ^ 24 * 2 ^ 40 + k.curWin * 2 ^ 34 + k.curSplit % 16 * 2 ^ 30 + bit mine.isSome * 2 ^ 29 + k.pc % 2 ^ 13)
    ++ k.lc.toList.flatMap (fun v => leBytes 4 v.toNat) ++ k.a.toList.flatMap (fun v => leBytes 4 v.toNat)
    ++ k.x.toList.flatMap (fun x => pad 256 x.acts) ++ k.x.toList.flatMap USlot.expBytes
    ++ pad 1024 (calls.flatMap Call.queueBytes)
    ++ (List.range 16).flatMap (fun i => leBytes 8 (match at_ i with | some r => r.status.toNat | none => 0))
    ++ (List.range 16).flatMap (fun i => leBytes 64 (match at_ i with | some r => r.clip.toNat | none => 0))
    ++ zeroBytes 3776

/-- `mdrain.u` (R287). -/
def execMdrainU (d : VReg) (s : State) : Out :=
  onUnit (fun t => .ok (s.setLive { t.setVBytes d (s.microImage s.cur t) with drainedU := true })) s

/-- Fields of an image. -/
def imgNum (bs : List Byte) (o n : Nat) : Nat := leNat ((bs.drop o).take n)

/-- The reserved bytes and bits of an image are zero, its version matches, and its queue has at most eight calls. -/
def imageOk (bs : List Byte) : Bool :=
  let w0 := imgNum bs 0 8
  let w1 := imgNum bs 8 8
  w0 / 2 ^ 48 == 1 && bits w0 4 44 == 0 && w0 % 16 ≤ 8
    && bits w1 36 4 == 0 && bits w1 13 16 == 0
    && ((List.range 8).all fun i => imgNum bs (0x840 + 16 * i + 10) 6 == 0)
    && ((List.range 8).all fun i => bits (imgNum bs (0x8C0 + 128 * i + 64) 8) 47 17 == 0
          && imgNum bs (0x8C0 + 128 * i + 80) 48 == 0)
    && imgNum bs 0x1140 3776 == 0

/-- A vector of `n` fields of an image. -/
def imgVec {α : Type} (n : Nat) (f : Nat → α) : Vector α n := Vector.ofFn fun i => f i.val

/-- Call `i` of an image, for a task: the shapes are those the task has now, and its operands count as not yet consumed. Next micro-word 0 of a running
call is the one past the store, since no routine runs below word 256. -/
def imageCall (bs : List Byte) (t : Task) (i : Nat) : Call :=
  let o := 0x8C0 + 128 * i
  let w := imgNum bs (o + 64) 8
  let h := BitVec.ofNat 32 (bits w 0 32)
  let k : Call := { handle := h, ctx := t.ctx, tid := t.tid, m := imgVec 8 fun j => w64 (imgNum bs (o + 8 * j) 8),
                    idx := Fin.ofNat 256 (bits w 32 8), split := bits w 40 4, win := bits w 44 2, rty := bits w 46 1 == 1,
                    modes := BitVec.ofNat 64 (imgNum bs (o + 72) 8), tdim := t.regs.tdim }
  let w1 := imgNum bs 8 8
  if i = 0 ∧ bits w1 29 1 = 1 then
    { k with count := bits w1 40 24, curWin := bits w1 34 2, curSplit := bits w1 30 4, pc := if bits w1 0 13 = 0 then 8192 else bits w1 0 13,
             lc := imgVec 4 fun j => BitVec.ofNat 32 (imgNum bs (0x10 + 4 * j) 4),
             a := imgVec 8 fun j => BitVec.ofNat 32 (imgNum bs (0x20 + 4 * j) 4),
             x := imgVec 8 fun j =>
               { acts := (bs.drop (0x40 + 256 * j)).take 256, driven := imgNum bs (0x840 + 16 * j + 8) 2,
                 exps := (bs.drop (0x840 + 16 * j)).take 8 } }
  else k

/-- The statuses of an image, oldest handle first, `last` being the newest: handles begin anew at 1 (R276). -/
def imageStats (bs : List Byte) (last : BitVec 32) : List CallStatus :=
  let all := (List.range 16).filterMap fun i =>
    let w := imgNum bs (0xCC0 + 8 * i) 8
    if w = 0 then none
    else some ({ handle := BitVec.ofNat 32 w, status := w64 w, clip := BitVec.ofNat 512 (imgNum bs (0xD40 + 64 * i) 64) }
      : CallStatus)
  sortBy (fun a b => (last - b.handle).toNat ≤ (last - a.handle).toNat) all

/-- `mrest.u` (R287): the image's queue becomes the bank's queue, and its calls retake their entries in order (R149). -/
def execMrestU (d : VReg) (s : State) : Out :=
  onUnit (fun t =>
    let c := s.core s.cur
    let bs := t.getVBytes d 8192
    if !c.mx.frozen || !imageOk bs || c.callsOut t != 0 then s.bounds t (w64 (imgNum bs 0 8))
    else
      let calls := (List.range (imgNum bs 0 8 % 16)).map fun i => { imageCall bs t i with serial := s.serial + i }
      let stats := imageStats bs t.ctl.lasth
      let late := (calls.filter fun k => stats.all (·.handle != k.handle)).map fun k => ({ handle := k.handle, status := k.handle.setWidth 64 } : CallStatus)
      let s := ({ s with serial := s.serial + 8 } : State).setLive { t with calls := calls, stats := stats, late := late }
      .ok (s.modCore s.cur fun c =>
        { c with sb := c.sb ++ calls.flatMap fun k => callEntries (s.cctx t) (.call t.tid k.handle) k.m[7] k.m[6] })) s

/-! ## Combining across a team (R278, R279, R289) -/

/-- The members of a mask other than the task's own, with their cores, in ascending core number. -/
def Task.others (t : Task) (mask : Nat) : List (Nat × CoreId) :=
  ((List.range t.paddock.length).zip t.paddock).filter fun p => mask.testBit p.1 && p.1 != t.member.val

/-- `mtacc` (R289). -/
def execMtacc (d a b : SReg) (s : State) : Out :=
  issue s fun t =>
    let c := s.core s.cur
    let k := s.cctx t
    let v := t.getS b
    let f := v.fld 0 7
    let l := v.fld 8 7
    let mask := (t.getS a).fld 0 16
    if !s.exchange then s.phaseIllegal t
    else if c.mx.owner ≠ some t.ctx then s.bounds t c.mx.ownWord
    else if l < f then s.bounds t v
    else if mask / 2 ^ (t.tsz.val + 1) ≠ 0 then s.bounds t (t.getS a)
    else if !c.room t.ctx 2 then .wait s (s.boardWait t)
    else
      let (uid, s) := s.fresh
      let (h, t1) := t.newHandle
      let mk (p : SbSpace × Nat × Nat) : SbEntry :=
        { space := p.1, lo := p.2.1, hi := p.2.2, write := true, soft := false, ctx := k.ctx, owner := .call t.tid h }
      let op : MtAcc := { serial := uid, handle := h, ctx := t.ctx, tid := t.tid, first := f, last := l, todo := t.others mask }
      .ok ((s.setLive (t1.setS d (h.setWidth 64))).modCore s.cur fun c =>
        { c with sb := c.sb ++ [mk (accSpan f l), mk (bndSpan f l)], mx := { c.mx with mtaccs := c.mx.mtaccs ++ [op] } })

end Sys2Proof.Machine
end

