-- ==== Sys2Proof/Machine/Micro.lean ====
section
/-!
DEFINITION. The passes of the macros (R232 to R243) and the microsequencer (R265 to R269, R274, R496): the fourteen
micro-operations, the start and the end of a call, and the members of an `mtacc` (R279).
-/
namespace Sys2Proof.Machine

/-! ## One macro in one pass (R234 to R241) -/

/-- What one macro computes with: its slot, activation width, split, window, and the error it may make (`none` when
uncalibrated); `free` names the free values of its conversions. -/
structure Drive where
  unit : MatUnit
  mac : Fin 64
  slot : USlot
  width : Nat
  split : Nat
  wr : Nat
  err : Option Nat
  free : Nat

/-- W4 of a macro's descriptor. -/
def MacroSt.w4 (m : MacroSt) : Bool := m.desc.getLsbD 64
/-- The weight width. -/
def MacroSt.w (m : MacroSt) : Nat := if m.w4 then 4 else 8
/-- Outputs of a macro. -/
def MacroSt.outputs (m : MacroSt) : Nat := if m.w4 then 128 else 64
/-- GEXP of a row group. -/
def MacroSt.gexp (m : MacroSt) (g : Nat) : Int := intOf true 8 (bits m.desc.toNat (8 * g) 8)

/-- The macro's state. -/
def Drive.st (x : Drive) : MacroSt := x.unit.macros[x.mac]
/-- Weight bits that are analog: W − d. -/
def Drive.analog (x : Drive) : Nat := x.st.w - x.split
/-- Rows of a unit (R239). -/
def Drive.rows (x : Drive) : Nat := Max.max x.wr 32
/-- The units that hold a driven row. -/
def Drive.units (x : Drive) : List Nat := (List.range (256 / x.rows)).filter fun u => u * x.rows < x.slot.driven
/-- The windows of a unit that are converted (R236). -/
def Drive.windows (x : Drive) (u : Nat) : List Nat :=
  (List.range (256 / x.wr)).filter fun w => w * x.wr / x.rows == u && w * x.wr < x.slot.driven

/-- Bit `j` of the activation of row `r`; a row that is not driven carries 0. -/
def Drive.actBit (x : Drive) (r j : Nat) : Bool := r < x.slot.driven && (x.slot.acts.getD r 0).getLsbD j
/-- The cell of row `r`, column `c` (R232). -/
def Drive.cell (x : Drive) (r c : Nat) : Bool := (x.unit.array.get (x.mac.val * 0x4000 + r * 64 + c / 8)).getLsbD (c % 8)

/-- Rows of `lo … lo + n − 1` whose input bit and weight bit are both 1. -/
def Drive.count (x : Drive) (lo n c j : Nat) : Nat :=
  ((List.range n).filter fun i => x.actBit (lo + i) j && x.cell (lo + i) c).length

/-- One conversion of a window: the corrected count q, and over-range (R237, R238). The analog error is free within the stated
limit; over-range is forced from code 64 on, and free where the error may reach it. A clipped conversion reads code 63; an offset so low that no
code from 0 to 63 meets the limit does not set the limit aside (log entry 60). -/
def convert (off : Int) (wr count : Nat) (err : Option Nat) (f : Nat) : Int × Bool :=
  match err with
  | none => ((Config.analogError f % 64) - off, 64 ≤ wr && Config.overRange f)
  | some e =>
    let level : Int := count + off
    if 64 ≤ wr ∧ (64 ≤ level ∨ (64 ≤ level + e ∧ Config.overRange f)) then (63 - off, true)
    else
      let q := Min.min ((count : Int) + max (-(e : Int)) (Min.min e (Config.analogError f))) (63 - off)
      (if level + e < 0 then q else Max.max q (-off), false)

/-- The conversion of window `w`, column `c`, bit-cycle `j`. -/
def Drive.conv (x : Drive) (w c j : Nat) : Int × Bool :=
  convert (x.unit.off x.mac c) x.wr (x.count (w * x.wr) x.wr c j) x.err
    (x.free + ((x.mac.val * 512 + c) * 8 + j) * 16 + w)

/-- The column of weight bit `i` of output `o`. -/
def Drive.col (x : Drive) (o i : Nat) : Nat := o * x.st.w + i

/-- The count that R240 weighs. -/
def Drive.n (x : Drive) (u o i j : Nat) : Int :=
  if x.analog ≤ i then x.count (u * x.rows) x.rows (x.col o i) j
  else ((x.windows u).map fun w => (x.conv w (x.col o i) j).1).sum

/-- The integer partial sum P of a unit (R240). -/
def Drive.partial_ (x : Drive) (u o : Nat) : Int :=
  let w := x.st.w
  ((List.range x.width).flatMap fun j => (List.range w).map fun i =>
    let v := 2 ^ (i + j) * x.n u o i j
    if (i == w - 1) != (j == x.width - 1) then -v else v).sum

/-- The columns of output `o` whose conversions clip in this run. -/
def Drive.clips (x : Drive) (o : Nat) : List Nat :=
  ((List.range x.analog).map (x.col o)).filter fun c =>
    x.units.any fun u => (x.windows u).any fun w => (List.range x.width).any fun j => (x.conv w c j).2

/-- GEXPg + AEXPg. -/
def Drive.expOf (x : Drive) (g : Nat) : Int := x.st.gexp g + (x.slot.exps.getD g 0).toInt

/-- The exponent of a unit: that of its first group with a driven row (R239). -/
def Drive.exp (x : Drive) (u : Nat) : Int := x.expOf (u * x.rows / 32)

/-- Some unit's compared sums differ (R239). -/
def Drive.unharm (x : Drive) : Bool :=
  64 ≤ x.wr && x.units.any fun u => (List.range (x.rows / 32)).any fun i =>
    let g := u * x.rows / 32 + i
    g * 32 < x.slot.driven && x.expOf g != x.exp u

/-- A row that feeds the outputs has a persistent parity mismatch (R494). -/
def Drive.corrupt (x : Drive) : Bool := (List.range 256).any fun r => r < x.slot.driven && x.st.parity.getLsbD r

/-- Some conversion takes place. -/
def Drive.converts (x : Drive) : Bool := 0 < x.analog && 0 < x.slot.driven

/-- a + b × 2^e as an upward bound in FP32; an infinite `b` is +∞. -/
def boundAdd (a : Nat) (b : Ex) : Nat := boundF ((FFmt.f32.value a).add b .rne).1 .f32

/-- What an output gives its element: Mv of R242, and of Mb the factor of the error e that each unit's bound has (R241). -/
def Drive.feed (x : Drive) (o : Nat) : BoundFeed :=
  { mac := x.mac.val, out := o, wild := x.corrupt,
    value := x.units.foldl (fun v u => (f32Add v (roundF (.scaled (x.partial_ u o) (x.exp u)) .f32 .rne).1).1) 0,
    units := x.units.map fun u => ((2 ^ x.analog - 1) * (2 ^ x.width - 1) * (x.windows u).length, x.exp u) }

/-- Tenths of a femtojoule of a pass of one macro in compute mode (R257, R482). -/
def Drive.energy (x : Drive) : Nat :=
  let c := if x.st.w4 then [13, 20, 28, 46, 70].getD x.split 70 else [50, 60, 70, 90, 110, 150, 190, 230, 280].getD x.split 280
  x.slot.driven * x.st.outputs * c * x.width / x.st.w

/-! ## A pass (R242, R268) -/

/-- The element of a pass: value, bound, whether a macro in storage mode feeds it. -/
structure Elem where
  v : Nat
  b : Nat
  stor : Bool
deriving DecidableEq, Repr, Inhabited

/-- Comb of R242. -/
def combMac (x y : Nat × Nat) : (Nat × Nat) × Cond := (((f32Add x.1 y.1).1, boundAdd x.2 (FFmt.f32.value y.2)), .none)

/-- The value is infinite or a NaN, in FP32. -/
def wildF32 (v : Nat) : Bool := !(FFmt.f32.value v).isFin

/-- The element that macros feed: each is absent when it is in storage mode for the call. -/
def elemOf (l : List (Option (Nat × Nat))) : Elem :=
  let r := ((treeFold combMac 3 l .none).1).getD (0, 0)
  { v := r.1, b := r.2, stor := l.any (·.isNone) }

/-- The stored value of an element: accumulated under R242, or set under R268; with `all` no macro feeds it, and no value moves. -/
def storedValue (set : Bool) (all : Bool) (acc : Nat) (x : Elem) : Nat :=
  if set then x.v else if all then acc else (f32Add acc x.v).1

/-- Its stored bound; +∞ where a macro is in storage mode, or a value is infinite or a NaN. -/
def storedBound (set : Bool) (wild : Bool) (bnd : Nat) (x : Elem) : Nat :=
  if x.stor || wild then FFmt.bf16.infBits
  else
    let tb := FFmt.f32.value x.b
    boundF (if set then tb else ((FFmt.bf16.value bnd).add tb .rne).1) .bf16

/-- One run of a pass: the macros with what each computes with (absent in storage mode). -/
structure PassRun where
  win : Nat
  drives : List (Fin 64 × Option Drive)

/-- The split a pass uses on a macro: min(SPLIT, W). -/
def Call.splitOn (k : Call) (m : MacroSt) : Nat := Min.min k.curSplit m.w

/-- The error a macro may make for the call: none once UNCAL, doubled once STALE (R248). -/
def Call.errOn (k : Call) (m : MacroSt) (i : Fin 64) : Option Nat :=
  if m.uncal || k.uncal.getLsbD i.val then none else if m.stale || k.stale.getLsbD i.val then some 2 else some 1

/-- A run of a pass on macros `k0 …` with a window code. -/
def Call.run (k : Call) (u : MatUnit) (k0 n fan win free : Nat) : PassRun :=
  { win := win,
    drives := (List.range n).map fun i =>
      let m : Fin 64 := Fin.ofNat 64 (k0 + i)
      let st := u.macros[m]
      (m, if k.modes.getLsbD m.val then
            some { unit := u, mac := m, slot := k.x[Fin.ofNat 8 (i % 2 ^ fan)], width := if k.m[7].getLsbD 19 then 4 else 8,
                   split := k.splitOn st, wr := 16 * 2 ^ win, err := k.errOn st m, free := free }
          else none) }

/-- The columns that clip in a run, as (macro, output, column). -/
def PassRun.clips (p : PassRun) : List (Fin 64 × Nat × Nat) :=
  p.drives.flatMap fun d =>
    match d.2 with
    | some x => (List.range x.st.outputs).flatMap fun o => (x.clips o).map fun c => (d.1, o, c)
    | none => []

/-- Free values that one run names. -/
def passFree : Nat := 64 * 512 * 8 * 16

/-- The runs of a pass: while one clips and its window is 64 or 128 rows, another with the window halved (R268). -/
def Call.runs (k : Call) (u : MatUnit) (k0 n fan : Nat) (retry : Bool) : Nat → Nat → Nat → List PassRun
  | 0, win, free => [k.run u k0 n fan win free]
  | f + 1, win, free =>
    let p := k.run u k0 n fan win free
    if retry && 2 ≤ win && !p.clips.isEmpty then k.runs u k0 n fan retry f (win - 1) (free + passFree) ++ [p] else [p]

/-- A bit map of macros. -/
def macroBits (ms : List (Fin 64)) : BitVec 64 := w64 ((ms.eraseDups).map fun m => 2 ^ m.val).sum

/-- The call after the final run: clips, and the macros met unharmonised, stale and uncalibrated. -/
def Call.meet (k : Call) (u : MatUnit) (p : PassRun) : Call :=
  let ds := p.drives.filterMap fun d => d.2.map fun x => (d.1, x)
  let cs := p.clips.map fun (c : Fin 64 × Nat × Nat) => c.1.val * 128 + c.2.1
  { k with
    clipped := k.clipped ++ (cs.filter fun c => !k.clipped.contains c).eraseDups,
    unharm := k.unharm ||| macroBits ((ds.filter fun d => d.2.unharm).map (·.1)),
    stale := k.stale ||| macroBits ((ds.filter fun d => d.2.converts && (u.macros[d.1]).stale).map (·.1)),
    uncal := k.uncal ||| macroBits ((ds.filter fun d => d.2.converts && (u.macros[d.1]).uncal).map (·.1)) }

/-- Mb of R242: +∞ for the whole call once the output clips or its macro is unharmonised (R238, R239), or its macro is uncalibrated and has
analog columns (R241); e is 2 once the macro is stale (R248). -/
def Call.boundOf (k : Call) (f : BoundFeed) : Nat :=
  let wild := f.wild || k.unharm.getLsbD f.mac || k.clipped.contains (f.mac * 128 + f.out)
  let e := if k.stale.getLsbD f.mac then 2 else 1
  f.units.foldl (fun b u =>
    boundAdd b (if wild || (k.uncal.getLsbD f.mac && u.1 != 0) then .inf false else .scaled ((u.1 * e : Nat) : Int) u.2)) 0

/-- The element that several outputs feed, as the call stands. -/
def Call.elem (k : Call) (fs : List (Option BoundFeed)) : Elem := elemOf (fs.map (·.map fun f => (f.value, k.boundOf f)))

/-- What feeds the elements of a pass, block after block: output `o` of each macro of a block, absent in storage mode. -/
def PassRun.feeds (p : PassRun) (n fan ow : Nat) : List (List (Option BoundFeed)) :=
  (chunks (2 ^ fan) (n / 2 ^ fan) p.drives).flatMap fun ds =>
    (List.range ow).map fun o => ds.map fun d => d.2.map (·.feed o)

/-- Byte address of an accumulator. -/
def accAt (i j : Nat) : Nat := i * 2048 + j * 4
/-- Byte address of a bound. -/
def bndAt (i j : Nat) : Nat := i * 1024 + j * 2

/-- New values, from column `col` of a row on, and whether each makes its bound +∞. -/
def MatUnit.newValues (u : MatUnit) (set : Bool) (row col : Nat) (k : Call) (fs : List (List (Option BoundFeed))) : List (Nat × Bool) :=
  ((List.range fs.length).zip fs).map fun p =>
    let x := k.elem p.2
    let v := storedValue set (p.2.all (·.isNone)) (u.acc.num (accAt row (col + p.1)) 4) x
    (v, wildF32 v || wildF32 x.v)

/-- New bounds, from column `col` of a row on. -/
def Call.newBounds (k : Call) (bnd : Mem) (set : Bool) (row col : Nat) (els : List (List (Option BoundFeed) × Bool)) : List Nat :=
  ((List.range els.length).zip els).map fun p =>
    storedBound set p.2.2 (bnd.num (bndAt row (col + p.1)) 2) (k.elem p.2.1)

/-- The bounds that what a call has done makes of those before it. -/
def Call.replay (k : Call) (bnd : Mem) : List BoundStep → Mem
  | [] => bnd
  | .zero f n :: r => k.replay (bnd.zero (f * 1024) (n * 1024)) r
  | .pass set row col els :: r => k.replay (bnd.write (bndAt row col) ((k.newBounds bnd set row col els).flatMap (leBytes 2))) r

/-- Bounds that earlier passes of a call stored change where the call, as it stands after another pass, gives them another error or none
(R238, R239, R241, R248). -/
def MatUnit.widen (u : MatUnit) (k k' : Call) : MatUnit :=
  let b := k.bnd0.getD u.bnd
  { u with bnd := u.bnd.put (Mem.changes (k.replay b k.trace) (k'.replay b k.trace)) }

/-- A step on bounds is noted. -/
def Call.note (k : Call) (u : MatUnit) (st : BoundStep) : Call := { k with bnd0 := some (k.bnd0.getD u.bnd), trace := k.trace ++ [st] }

/-- Some bound that the call has stored is +∞. -/
def Call.infinite (k : Call) (bnd : Mem) : Bool :=
  k.trace.any fun st =>
    match st with
    | .zero _ _ => false
    | .pass _ row col els => (List.range els.length).any fun i => bnd.num (bndAt row (col + i)) 2 == FFmt.bf16.infBits

/-- Values and bounds stored in a run of columns of a row. -/
def MatUnit.putRow (u : MatUnit) (row col : Nat) (vs : List (Nat × Nat)) : MatUnit :=
  { u with acc := u.acc.write (accAt row col) (vs.flatMap fun p => leBytes 4 p.1),
           bnd := u.bnd.write (bndAt row col) (vs.flatMap fun p => leBytes 2 p.2) }

/-! ## Micro-operations (R266, R269) -/

/-- What a micro-word does: it performs, it is held, or it stops the call with a micro-fault. -/
inductive MAct where
  | ok (s : State)
  | fault (code : Fin 64)
  | hold (s : State)
deriving Repr

/-- The running call of the current core changed. -/
def State.modRun (s : State) (f : Call → Call) : State :=
  s.modUnit s.cur fun u => { u with running := u.running.map f }

/-- A micro-operation acts for the running call whose micro-word it is; `none`: the word is another operation's. -/
def micro (s : State) (f : Call → MicroOp → Option MAct) : Host.Outcome State Fault Refusal :=
  match s.unit.running.bind fun k => k.word.bind fun w => f k w with
  | none => .fault .noMicroWord
  | some (.ok s') => .next (s'.modRun fun k => { k with word := none })
  | some (.fault c) => .next (s.modRun fun k => { k with word := none, fault := some c })
  | some (.hold s') => .next s'

/-- An a-register changed. -/
def Call.setA (k : Call) (x : Fin 8) (v : BitVec 32) : Call := { k with a := k.a.set x v }

/-- The resident task of a TID changed. -/
def Core.modTid (c : Core) (tid : BitVec 16) (f : Task → Task) : Core :=
  { c with banks := c.banks.map fun (b : Option Task) => b.map fun t => if t.tid == tid then f t else t }

/-- The status of a handle changed. -/
def Task.modStat (t : Task) (h : BitVec 32) (f : CallStatus → CallStatus) : Task :=
  let f r := if r.handle == h then f r else r
  { t with stats := t.stats.map f, late := t.late.map f }

/-- The status of a call changed. -/
def State.modStatus (s : State) (k : Call) (f : CallStatus → CallStatus) : State :=
  s.modCore s.cur (·.modTid k.tid (·.modStat k.handle f))

/-- A status word with bits set. -/
def CallStatus.set (r : CallStatus) (v : W64) : CallStatus := { r with status := r.status ||| v }

/-- The running call's status word as it stands. -/
def State.runStatus (s : State) (k : Call) : W64 :=
  match ((s.core s.cur).tasks.find? fun p => p.2.tid == k.tid).bind fun p => (p.2.stats ++ p.2.late).find? (·.handle == k.handle) with
  | some r => r.status
  | none => 0

/-- `unop`. -/
def execUnop (s : State) : Out := micro s fun _ o => match o with | .unop => some (.ok s) | _ => none

/-- `uldi`. -/
def execUldi (s : State) : Out :=
  micro s fun _ o => match o with | .uldi x i => some (.ok (s.modRun (·.setA x i))) | _ => none

/-- The parameter field a `uldm` names. -/
def uldmField (v : W64) (h : Bool) (p g : Nat) : BitVec 32 :=
  BitVec.ofNat 32 (if g = 0 then v.fld (32 * bit h) 32 else v.fld p g)

/-- `uldm`. -/
def execUldm (s : State) : Out :=
  micro s fun k o =>
    match o with
    | .uldm x m h p g => some (.ok (s.modRun (·.setA x (uldmField k.m[m] h p.val g.val))))
    | _ => none

/-- `uadd`. -/
def execUadd (s : State) : Out :=
  micro s fun k o => match o with | .uadd x y i => some (.ok (s.modRun (·.setA x (k.a[y] + i.signExtend 32)))) | _ => none

/-- `ulc`. -/
def execUlc (s : State) : Out :=
  micro s fun k o =>
    match o with
    | .ulc c y => some (.ok (s.modRun fun r => { r with lc := r.lc.set c k.a[y] }))
    | _ => none

/-- `ubr`: a taken branch below word 256 is a micro-fault. -/
def execUbr (s : State) : Out :=
  micro s fun k o =>
    match o with
    | .ubr c n y t =>
      let v := k.lc[n] - 1
      let taken : Bool := match c with | 0 => true | 1 => v != 0 | 2 => k.a[y] == 0 | 3 => k.a[y] != 0
      if taken && t.val < 256 then some (.fault 0x03)
      else
        some (.ok (s.modRun fun r =>
          { r with lc := if c = 1 then r.lc.set n v else r.lc, nextPc := if taken then some t.val else none }))
    | _ => none

/-! ## Feeds (R267, R496) -/

/-- An activation as INT4 data: saturated when the call's activations are INT4. -/
def Call.act (k : Call) (b : Byte) : Byte := if k.m[7].getLsbD 19 then BitVec.ofInt 8 (satInt true 4 b.toInt) else b

/-- A slot filled. -/
def State.fillSlot (s : State) (i : Fin 8) (acts : List Byte) (driven : Nat) (exp : Byte) : State :=
  let x : USlot :=
    { acts := (acts ++ zeroBytes (256 - acts.length)).take 256, driven := driven, exps := List.replicate 8 exp }
  s.modRun fun r => { r with x := r.x.set i x }

/-- The lowest code that stops a `ufeed` (R269): an illegal kind; a tile outside TRD or a row outside it; granules outside the footprint; a shape of another type; operands
that have been consumed. -/
def Call.feedFault (k : Call) (kind tile : Nat) (y : Nat) : Option (Fin 64) :=
  let shape := shapeOf k.tdim[tile % 16]
  let n := if k.m[7].getLsbD 19 then 2 else 4
  if 3 ≤ kind then some 0x01
  else if kind = 0 ∧ (!k.m[7].getLsbD (32 + tile % 16) ∨ shape.all (·.rows ≤ y)) then some 0x06
  else if kind = 2 ∧ (!k.m[7].getLsbD 3 ∨ y < k.m[6].fld 0 16 ∨ k.m[6].fld 16 16 < y + (n - 1)) then some 0x07
  else if kind = 0 ∧ shape.any (·.et ≠ 1) then some 0x09
  else if k.consumed then some 0x0D
  else none

/-- `ufeed.tile`. -/
def State.feedTile (s : State) (k : Call) (i : Fin 8) (tile : Fin 16) (row : Nat) (exp : Byte) : MAct :=
  match shapeOf k.tdim[tile], (s.core s.cur).tasks.find? (fun p => p.2.tid == k.tid) with
  | some x, some p =>
    let n := Min.min x.cols 256
    .ok (s.fillSlot i ((p.2.rowElems x row n).map fun v => k.act (BitVec.ofNat 8 v)) n exp)
  | _, _ => .fault 0x06

/-- `ufeed.mgr`: the next feed row of the oldest replay, once none of its bytes is held (R228, R229). -/
def State.feedManger (s : State) (k : Call) (i : Fin 8) : MAct :=
  match (s.core s.cur).tasks.find? (fun p => p.2.tid == k.tid) with
  | none => .fault 0x06
  | some (b, t) =>
    match t.replays with
    | [] => .ok ((s.modStatus k (·.set (1#64 <<< 54))).fillSlot i [] 0 0)
    | r :: rs =>
      let a : Agent := { core := s.cur, ctx := k.ctx, tid := k.tid, uid := 0, owner := .replay t.tid r.serial }
      match (granules (feedSpans r)).foldlM (fun s g => s.loftReady a false false g) s with
      | .error (.held s') => .hold s'
      | .error (.fault _ _) => .hold s
      | .ok s' =>
        let n := nestOf r.nest
        let row := feedRow (s'.core s.cur).loft (s'.agentCtx a).base r
        let last := n.rows ≤ r.row + 1
        let s' := s'.modBank s.cur b fun t => { t with replays := if last then rs else { r with row := r.row + 1 } :: rs }
        let s' := if last then s'.modCore s.cur fun c => c.release (.replay t.tid r.serial) else s'
        .ok (s'.fillSlot i (if n.w4 then row else row.map k.act) n.k (BitVec.ofNat 8 n.aexp))

/-- `ufeed.loft`: 256 INT8 bytes, or 128 bytes of packed INT4, from a declared granule (R272). -/
def State.feedLoft (s : State) (k : Call) (i : Fin 8) (g : Nat) (exp : Byte) : MAct :=
  let a4 := k.m[7].getLsbD 19
  let n := if a4 then 2 else 4
  let a : Agent := { core := s.cur, ctx := k.ctx, tid := k.tid, uid := 0, owner := .call k.tid k.handle }
  match ((List.range n).map (g + ·)).foldlM (fun s g => s.loftReady a false false g) s with
  | .error (.held s') => .hold s'
  | .error (.fault _ _) => .hold s
  | .ok s' =>
    let bs := (s'.core s.cur).loft.read ((s'.agentCtx a).base + g * 64) (64 * n)
    let acts := if a4 then bs.flatMap fun b => [BitVec.ofInt 8 (intOf true 4 b.toNat), BitVec.ofInt 8 (intOf true 4 (b.toNat / 16))]
                else bs
    .ok (s'.fillSlot i acts 256 exp)

/-- `ufeed`: the slot, and for `.tile` the tile, come from a[W] with IND = 1. -/
def execUfeed (s : State) : Out :=
  micro s fun k o =>
    match o with
    | .ufeed sl y z q t ind w =>
      let v := k.a[w].toNat
      let i : Fin 8 := if ind then Fin.ofNat 8 (bits v 4 3) else sl
      let tile : Fin 16 := if ind then Fin.ofNat 16 (bits v 0 4) else t
      let exp := (k.a[z]).setWidth 8
      some (match k.feedFault q.val tile.val (k.a[y]).toNat with
        | some c => .fault c
        | none =>
          match q with
          | 0 => s.feedTile k i tile (k.a[y]).toNat exp
          | 1 => s.feedManger k i
          | _ => s.feedLoft k i (k.a[y]).toNat exp)
    | _ => none

/-! ## Passes, rows and tiles -/

/-- Rows `f … f + n − 1` lie in the accumulator footprint (R272). -/
def Call.rowsIn (k : Call) (f n : Nat) : Bool := k.m[7].getLsbD 4 && k.m[7].fld 12 7 ≤ f && f + n ≤ k.m[7].fld 5 7 + 1

/-- Macros `f … l` lie in the footprint. -/
def Call.macrosIn (k : Call) (f l : Nat) : Bool := k.m[7].fld 26 6 ≤ f && l ≤ k.m[7].fld 20 6

/-- Older entries conflict with the call's in a space, of which it touches nothing then (R145). -/
def State.callHeld (s : State) (k : Call) (space : SbSpace) : Bool := (s.core s.cur).heldIn (.call k.tid k.handle) space

/-- The status bits of a pass: STALE as the call stands after it, since e = 2 counts as used only while UNCAL stays clear (R248). -/
def passStatus (old : W64) (k' : Call) (retried inf clip stor : Bool) (win : Nat) : W64 :=
  let b (i : Nat) (v : Bool) : W64 := if v then 1#64 <<< i else 0
  (old &&& ~~~(3#64 <<< 40 ||| 1#64 <<< 50)) ||| (w64 win <<< 40) ||| b 53 (k'.unharm != 0) ||| b 52 stor ||| b 51 (k'.uncal != 0)
    ||| b 50 (k'.stale != 0 && (k'.stale &&& ~~~k'.uncal) != 0) ||| b 49 retried ||| b 48 inf ||| b 47 clip

/-- The pass itself, once nothing holds it: the final run alone is written and reported, every run is charged. -/
def State.pass (s : State) (k : Call) (k0 n fan row col : Nat) (set retry : Bool) : State :=
  let u := s.unit
  let ow := (u.macros[Fin.ofNat 64 k0]).outputs
  let rs := k.runs u k0 n fan retry 2 k.curWin s.free
  let p := rs.headD (k.run u k0 n fan k.curWin s.free)
  let k1 := k.meet u p
  let u1 := u.widen k k1
  let fs := p.feeds n fan ow
  let ws := u1.newValues set row col k1 fs
  let els := fs.zip (ws.map (·.2))
  let vs := (ws.map (·.1)).zip (k1.newBounds u1.bnd set row col els)
  let k' := k1.note u (.pass set row col els)
  let u2 := u1.putRow row col vs
  let computing := (p.drives.filterMap (·.2))
  let width := if k.m[7].getLsbD 19 then 4 else 8
  let fj := (computing.map Drive.energy).sum
  let s := { s with free := s.free + rs.length * passFree }
  let s := s.charge s.cur k.ctx 0 (rs.length * width * computing.length) (rs.length * fj)
  let s := s.modUnit s.cur fun u => { u with acc := u2.acc, bnd := u2.bnd }
  let s := s.modRun fun r =>
    { r with clipped := k'.clipped, unharm := k'.unharm, stale := k'.stale, uncal := k'.uncal, bnd0 := k'.bnd0, trace := k'.trace }
  let cols := (p.clips.map fun c => c.2.2).eraseDups
  s.modStatus k fun r =>
    { r with status := passStatus r.status k' (1 < rs.length) (k'.infinite u2.bnd) (!p.clips.isEmpty) (p.drives.any (·.2.isNone)) p.win,
             clip := r.clip ||| BitVec.ofNat 512 (cols.map fun c => 2 ^ c).sum }

/-- A pass with its checks: the lowest code that applies stops the call (R269). -/
def State.passChecked (s : State) (k : Call) (k0 row col nm fan : Nat) (set nort : Bool) : MAct :=
  let n := nm + 1
  let u := s.unit
  if !k.macrosIn k0 (k0 + nm) then .fault 0x04
  else if !k.rowsIn row 1 then .fault 0x05
  else
    let ms := (List.range n).map fun i => (Fin.ofNat 64 (k0 + i) : Fin 64)
    let ow := (u.macros[Fin.ofNat 64 k0]).outputs
    if n % 2 ^ fan ≠ 0 ∨ ms.any (fun m => (u.macros[m]).outputs != ow) ∨ 512 < col + n / 2 ^ fan * ow then .fault 0x08
    else if k.consumed then .fault 0x0D
    else if ms.any (fun m => (u.macros[m]).busy)
        || s.callHeld k .array || s.callHeld k .sums then .hold s
    else .ok (s.pass k k0 n fan row col set (k.rty && !nort))

/-- `upass`: NM, FAN, SET and NORT come from a[W] with IND = 1. -/
def execUpass (s : State) : Out :=
  micro s fun k o =>
    match o with
    | .upass x y z nm fan set nort ind w =>
      let v := k.a[w].toNat
      some (if ind then
          s.passChecked k (k.a[x]).toNat (k.a[y]).toNat (k.a[z]).toNat (bits v 0 6) (bits v 6 2) (bits v 8 1 == 1) (bits v 9 1 == 1)
        else s.passChecked k (k.a[x]).toNat (k.a[y]).toNat (k.a[z]).toNat nm.val fan.val set nort)
    | _ => none

/-- `uzero`: a count of 0 does nothing. -/
def execUzero (s : State) : Out :=
  micro s fun k o =>
    match o with
    | .uzero x y =>
      let f := (k.a[x]).toNat
      let n := (k.a[y]).toNat
      some (if n = 0 then .ok s
        else if !k.rowsIn f n then .fault 0x05
        else if s.callHeld k .sums then .hold s
        else
          .ok (s.modUnit s.cur fun u =>
            { u with acc := u.acc.zero (f * 2048) (n * 2048), bnd := u.bnd.zero (f * 1024) (n * 1024),
                     running := some (k.note u (.zero f n)) }))
    | _ => none

/-- A run of accumulators, or of bounds, of a row converted to an element type under RNE; the conditions are dropped. -/
def MatUnit.outElems (u : MatUnit) (b : Bool) (row col n et : Nat) : List Nat :=
  (List.range n).map fun j =>
    if b then (convElem (.flt .bf16) (elemTy et) .rne (u.bnd.num (bndAt row (col + j)) 2)).1
    else (convElem (.flt .f32) (elemTy et) .rne (u.acc.num (accAt row (col + j)) 4)).1

/-- `uout` with its operands. -/
def State.outRow (s : State) (k : Call) (row trow col : Nat) (tile : Fin 16) (b : Bool) : MAct :=
  if !k.rowsIn row 1 then .fault 0x05
  else
    match shapeOf k.tdim[tile] with
    | none => .fault 0x06
    | some x =>
      if !k.m[7].getLsbD (48 + tile.val) || x.rows ≤ trow then .fault 0x06
      else if 512 < col + x.cols then .fault 0x08
      else if x.et = 0 ∨ 13 < x.et then .fault 0x09
      else if s.callHeld k .sums then .hold s
      else
        let vs := s.unit.outElems b row col x.cols x.et
        .ok (s.modCore s.cur (·.modTid k.tid (·.putRow x trow vs)))

/-- `uout`: TILE and BND come from a[W] with IND = 1. -/
def execUout (s : State) : Out :=
  micro s fun k o =>
    match o with
    | .uout x y z t b ind w =>
      let v := k.a[w].toNat
      some (if ind then
          s.outRow k (k.a[x]).toNat (k.a[y]).toNat (k.a[z]).toNat (Fin.ofNat 16 (bits v 0 4)) (bits v 4 1 == 1)
        else s.outRow k (k.a[x]).toNat (k.a[y]).toNat (k.a[z]).toNat t b)
    | _ => none

/-! ## Settings and status -/

/-- `uwin`. -/
def execUwin (s : State) : Out :=
  micro s fun k o =>
    match o with
    | .uwin y =>
      let v := (k.a[y]).toNat
      some (if 3 < v then .fault 0x0C else .ok (s.modRun fun r => { r with curWin := v }))
    | _ => none

/-- `uspl`. -/
def execUspl (s : State) : Out :=
  micro s fun k o =>
    match o with
    | .uspl y =>
      let v := (k.a[y]).toNat
      some (if 8 < v then .fault 0x0C else .ok (s.modRun fun r => { r with curSplit := v }))
    | _ => none

/-- `ucal`. -/
def execUcal (s : State) : Out :=
  micro s fun k o =>
    match o with
    | .ucal x y z =>
      let f := (k.a[y]).toNat
      let l := (k.a[z]).toNat
      let ms := (List.finRange 64).filter fun m => f ≤ m.val && m.val ≤ l
      let any (p : Fin 64 → Bool) (i : Nat) : Nat := bit (ms.any p) * 2 ^ i
      let v := any (fun m => (s.unit.macros[m]).stale) 0 + any (fun m => (s.unit.macros[m]).uncal) 1
        + any (fun m => (s.unit.macros[m]).busy) 2 + any (fun m => !k.modes.getLsbD m.val) 3
      some (if f ≤ l && !k.macrosIn f l then .fault 0x04 else .ok (s.modRun (·.setA x (BitVec.ofNat 32 v))))
    | _ => none

/-- `ustat`. -/
def execUstat (s : State) : Out :=
  micro s fun k o =>
    match o with
    | .ustat x i =>
      let s' := s.modStatus k (·.set (i.setWidth 64 <<< 32))
      some (.ok (s'.modRun (·.setA x (BitVec.ofNat 32 ((s'.runStatus k).fld 32 32)))))
    | _ => none

/-! ## The sequencer (R265, R269, R273 to R275) -/

/-- The operands-consumed point: the call's read entries are released (R273). -/
def State.consume (s : State) (k : Call) : State :=
  (s.modCore s.cur fun c => c.release (.call k.tid k.handle) (fun e => !e.write)).modRun fun r => { r with consumed := true }

/-- Completion of a call: DONE with its error code, the sticky flags, and every entry released; calibrations that it held start (R259). -/
def State.finishCall (s : State) (k : Call) (errc : Option (Fin 64)) : State :=
  let v : W64 := (1#64 <<< 63) ||| (match errc with | some c => (1#64 <<< 62) ||| (w64 c.val <<< 56) | none => 0)
  let s := s.modStatus k (·.set v)
  let final := s.runStatus k
  let s := s.modCore s.cur fun c => (c.modTid k.tid (·.raiseM final)).release (.call k.tid k.handle)
  s.modUnit s.cur fun u => { u with running := none }.startHeld

/-- After a micro-word: a micro-fault stops the call; a performed word counts, may consume the operands, and ends the call when it
carries LAST; a held word is tried again. -/
def State.afterWord (s : State) (w : MicroWord) : State :=
  match s.unit.running with
  | none => s
  | some k =>
    if k.word.isSome then s.modRun fun r => { r with word := none }
    else
      match k.fault with
      | some c => s.finishCall k (some c)
      | none =>
        let k' := { k with count := k.count + 1, pc := k.nextPc.getD (k.pc + 1), nextPc := none }
        let s := s.modRun fun _ => k'
        let s := if w.cons && !k.consumed then s.consume k' else s
        if w.last then s.finishCall k' none else s

/-- What the sequencer does before a micro-word: the call stops at the limit of words, past the store, or at a word that
does not decode; otherwise the word is the running call's micro-word. -/
def State.beforeWord (s : State) : Option (State ⊕ (State × MicroWord)) :=
  match s.unit.running with
  | none => none
  | some k =>
    if s.unit.frozen then none
    else if 2 ^ 24 ≤ k.count then some (.inl (s.finishCall k (some 0x0A)))
    else if 8191 < k.pc then some (.inl (s.finishCall k (some 0x03)))
    else
      match decodeMicro (s.unit.word k.pc) with
      | .error .reservedOp => some (.inl (s.finishCall k (some 0x01)))
      | .error .badField => some (.inl (s.finishCall k (some 0x02)))
      | .ok w => some (.inr (s.modRun fun r => { r with word := some w.op, fault := none, nextPc := none }, w))

/-- The first micro-word of a routine: an entry with V = 0, nonzero reserved bits or a START below 256 is invalid (R264). -/
def routineStart (w : W64) : Option Nat :=
  if w.getLsbD 63 && w.fld 13 50 == 0 && 256 ≤ w.fld 0 13 then some (w.fld 0 13) else none

/-- The bank whose oldest call starts next: highest effective priority, then round-robin after the bank last served (R274). -/
def Core.callBank (c : Core) : Option (Fin 4) :=
  let order := [c.mx.lastBank + 1, c.mx.lastBank + 2, c.mx.lastBank + 3, c.mx.lastBank]
  let prio (b : Fin 4) : Option Nat := (c.banks[b]).bind fun t => if t.calls.isEmpty then none else some t.ctl.eff.val
  let best := (order.filterMap prio).foldl Max.max 0
  order.find? fun b => prio b == some best

/-- `CALL_START` (R274): an idle unit starts a call; one whose entry word is invalid completes with ERRC 0x0B (R269). A call
that a freeze stopped continues where it stood (R280). -/
def execCallStart (s : State) : Out :=
  let s := { s with cur := s.on.core }
  let c := s.core s.cur
  .next <|
    if c.mx.running.isSome || c.mx.frozen then s
    else
      match c.callBank with
      | none => s
      | some b =>
        match (c.banks[b]).bind fun t => t.calls.head? with
        | none => s
        | some k =>
          let s := (s.modBank s.cur b fun t => { t with calls := t.calls.drop 1 }).modUnit s.cur fun u => { u with lastBank := b }
          let run (k : Call) : State := s.modUnit s.cur fun u => { u with running := some k }
          if k.pc ≠ 0 then run k
          else
            match routineStart (s.unit.word k.idx.val) with
            | none => (run k).finishCall k (some 0x0B)
            | some p => run { k with pc := p, curSplit := k.split, curWin := k.win }

/-! ## Combining across a team (R279) -/

/-- The rows of a member added to the destination's. -/
def MatUnit.addRows (u v : MatUnit) (f l : Nat) : MatUnit :=
  (List.range (l - f + 1)).foldl (fun u i =>
    let row := f + i
    u.putRow row 0 ((List.range 512).map fun j =>
      let x := (f32Add (u.acc.num (accAt row j) 4) (v.acc.num (accAt row j) 4)).1
      let b := boundF ((FFmt.bf16.value (u.bnd.num (bndAt row j) 2)).add (FFmt.bf16.value (v.bnd.num (bndAt row j) 2)) .rne).1 .bf16
      (x, if wildF32 x then FFmt.bf16.infBits else b))) u

/-- A bound of rows `f … l` is +∞. -/
def MatUnit.infRows (u : MatUnit) (f l : Nat) : Bool :=
  (List.range ((l - f + 1) * 512)).any fun j => u.bnd.num (f * 1024 + 2 * j) 2 == FFmt.bf16.infBits

/-- An `mtacc` completes: DONE and INF with the given bits, its entries released. -/
def State.finishMtacc (s : State) (n : CoreId) (op : MtAcc) (v : W64) : State :=
  let v := if op.inf then v ||| (1#64 <<< 48) else v
  s.modCore n fun c =>
    let c := c.modTid op.tid fun t => (t.modStat op.handle (·.set (v ||| (1#64 <<< 63)))).raiseM v
    ({ c with mx := { c.mx with mtaccs := c.mx.mtaccs.erase op } } : Core).release (.call op.tid op.handle)

/-- SRCH with a member's index (R275, R279). -/
def srchBits (m : Nat) : W64 := (1#64 <<< 46) ||| w64 (m % 16 * 2 ^ 42)

/-- Member `i`, of the team of the task that issued the `mtacc`, cannot be pulled: no resident task of the context on its core, its unit is not
the context's, or the member is frozen. -/
def State.memberGone (s : State) (op : MtAcc) (i : Nat) (m : CoreId) : Bool :=
  let c := s.core m
  let team := (s.findTask op.tid).map fun p => (p.2.2.job, p.2.2.team)
  !c.hosts op.ctx || c.mx.owner != some op.ctx
    || c.tasks.any fun p => some (p.2.job, p.2.team) == team && p.2.member.val == i && p.2.hold != .none

/-- `MTACC_MEMBER` (R279): the next member of an `mtacc` of the subject's core is added, or SRCH is set. It waits while its own rows
are held by older entries, or the member's core holds a write entry over the rows. -/
def execMtaccMember (s : State) : Out :=
  let n := s.on.core
  let c := s.core n
  .next <|
    match c.mx.mtaccs[s.on.index]? with
    | none => s
    | some op =>
      let spans := [accSpan op.first op.last, bndSpan op.first op.last]
      let held := spans.any fun p => (c.olderThan (.call op.tid op.handle)).any fun e => e.meets p.1 p.2.1 p.2.2
      if held || !s.exchange then s
      else
        match op.todo with
        | [] => s.finishMtacc n op 0
        | (i, m) :: rest =>
          if s.memberGone op i m then s.finishMtacc n op (srchBits i)
          else if spans.any fun p => ((s.core m).conflicts p.1 p.2.1 p.2.2 false).any (·.write) then s
          else
            let u' := (s.core n).mx.addRows (s.core m).mx op.first op.last
            let op' := { op with todo := rest, inf := op.inf || u'.infRows op.first op.last }
            let s := s.modUnit n fun u =>
              { u' with mtaccs := u.mtaccs.map fun o => if o == op then op' else o }
            if rest.isEmpty then s.finishMtacc n op' 0 else s

end Sys2Proof.Machine
end

