-- ==== Sys2Proof/Machine/Network.lean ====
section
/-!
DEFINITION. The network and the homes of its packets (R299 to R301, R309 to R311): a packet performs at a window controller or
at a slice port; reducing packets may merge on the way and are applied once.
-/
namespace Sys2Proof.Machine

/-! ## Routes (R299, R300) -/

/-- A link of the network, by the router that sends on it: along its row or column, over the bridge, or to the agents of its core. -/
inductive NetLink where
  | mesh (die : Bool) (col row : Nat) (alongRow rising : Bool)
  | bridge (die : Bool) (k : Nat)
  | home (n : CoreId)
deriving DecidableEq, Repr, Inhabited

/-- Column and row of a core's router in the mesh of its die. -/
def routerAt (n : CoreId) : Nat × Nat := (n.val % 8, n.val % 64 / 8)

/-- The bridge link of a packet that enters the mesh at the router of a core. -/
def bridgeLink (n : CoreId) : Nat := n.val % 8 + 8 * (n.val / 8 % 2)

/-- Links from one router to another of the same row or column, which is `fixed`. -/
def straight (die alongRow : Bool) (fixed a b : Nat) : List NetLink :=
  let hop (x : Nat) (up : Bool) : NetLink := if alongRow then .mesh die x fixed true up else .mesh die fixed x false up
  if a ≤ b then (List.range (b - a)).map fun i => hop (a + i) true else (List.range (a - b)).map fun i => hop (a - i) false

/-- Row first, then column, to the router of a core. -/
def inDie (die : Bool) (p : Nat × Nat) (n : CoreId) : List NetLink :=
  let q := routerAt n
  straight die true p.2 p.1 q.1 ++ straight die false q.1 p.2 q.2 ++ [.home n]

/-- The fixed route from the router of a core to the agents of another. Between dies it goes along the column to the edge, die 0's bottom
row and die 1's top row, of which the model takes the bottom row to be row 7 (log entry 107). -/
def route (m n : CoreId) : List NetLink :=
  let p := routerAt m
  if dieOf m = dieOf n then inDie (dieOf m) p n
  else
    let (out, back) : Nat × Nat := if dieOf m then (0, 7) else (7, 0)
    straight (dieOf m) false p.1 p.2 out ++ [.bridge (dieOf m) (bridgeLink m)] ++ inDie (dieOf n) (p.1, back) n

/-! ## Order (R300, R401) -/

/-- Bytes of the word that an access of R383 concerns, from its address on. -/
def Remote.size (r : Remote) : Nat := match r.op with | .arrive => 16 | .join => 32 | _ => if r.wide then 8 else 4

/-- The packet has arrived at its home: no earlier packet of the same source engine is on its way to the same home. Accesses of R383 are the
map unit's, and may perform in any order; only those of one task that share bytes keep theirs (R401). -/
def arrivedFirst (p : Packet) (earlier : List Packet) : Bool :=
  earlier.all fun q =>
    match p.sync, q.sync with
    | none, none => q.core != p.core || q.eng != p.eng || placeHome q.addr != placeHome p.addr
    | some a, some b => p.tid != q.tid || p.core != q.core || a.addr + a.size ≤ b.addr || b.addr + b.size ≤ a.addr
    | _, _ => true
where
  /-- The home agent of an address: a slice port or a window controller. -/
  placeHome (pa : Nat) : Option (CoreId × Bool) :=
    match placeOf pa with
    | .dram n _ => some (n, false)
    | .window n _ => some (n, true)
    | .reserved => none

/-- The packets that may perform now. -/
def arrivable : List Packet → List Packet → List Packet
  | _, [] => []
  | earlier, p :: ps => (if arrivedFirst p earlier then [p] else []) ++ arrivable (earlier ++ [p]) ps

/-! ## Performing -/

/-- The offsets a packet touches, from its address; a contribution may reach into the granule after it (R116). -/
def Packet.touched (p : Packet) : List Nat :=
  if p.red then p.parts.flatMap fun q => (List.range (tyWidth p.ty.val)).map (q.1 + ·) else p.cells.map (·.1)

/-- First and number of the bytes a packet touches of its granule. -/
def Packet.cover (p : Packet) : Nat × Nat := coverOf (p.touched.filter (· < 64))
/-- How many bytes it touches of the granule after its own, from that one's first on. -/
def Packet.reach (p : Packet) : Nat := p.touched.foldl Max.max 0 - 63

/-- What a packet meets at its home; a reduction reads what it writes (R116). -/
def State.packetMeets (s : State) (p : Packet) : Met :=
  let (lo, len) := p.cover
  let reach := p.reach
  let meets (write : Bool) : Met :=
    match s.physMeets p.ctx (s.supOf p.core p.ctx) write (p.addr + lo) len, p.beyond with
    | .ok, some pa => s.physMeets p.ctx (s.supOf p.core p.ctx) write pa reach
    | m, _ => m
  if p.red then match meets false with | .ok => meets true | m => m else meets true

/-- Bytes that a packet moves through a vertical port. -/
def Packet.portBytes (p : Packet) (n : Nat) : Nat := match placeOf p.addr with | .dram _ _ => n | _ => 0

/-- The commands a packet acts for. -/
def Packet.commands (p : Packet) : List (CoreId × Nat) := if p.ids.isEmpty then [(p.core, p.uid)] else p.ids.map fun i => (i.1, i.2.1)

/-- The packet is gone, and each command it acted for knows that it performed. -/
def State.donePacket (s : State) (p : Packet) : State :=
  p.commands.foldl (fun s c => s.performed c.1 c.2) (s.modDev fun d => { d with net := d.net.erase p })

/-- The home refuses a packet: each command it acted for faults at its granule, in a window, which has one name on every side
(R73, R119). -/
def State.refusePacket (s : State) (p : Packet) (c : Cause) : State :=
  p.commands.foldl (fun s k => s.refuseCmd k.1 k.2 c p.addr) (s.modDev fun d => { d with net := d.net.erase p })

/-- A plain packet performs. -/
def State.putPacket (s : State) (p : Packet) : State :=
  let s := match p.group, placeOf p.addr with
    | some (w4, e), .window n o => s.putRow n (o - 0x2000000) (p.cells.map fun (c : Host.Cell) => c.2) w4 e p.soils
    | _, _ => s.physPut p.ctx (s.supOf p.core p.ctx) p.addr p.cells p.tags
  (s.chargeDram p.core p.ctx (p.portBytes p.cells.length)).donePacket p

/-- Identifiers that a die's filter holds, of commands and of peers (R311, R465). -/
def Device.filterUsed (d : Device) (die : Bool) : Nat :=
  (d.applied.filter (·.1 == die)).length + (d.peerApplied.filter (·.1 == die)).length

/-- A reducing packet is applied once (R311): discarded when its identifiers have been applied, kept waiting while the die's
filter has no room. Identifiers of commands that have completed or been aborted are not kept. -/
def State.applyPacket (s : State) (p : Packet) : State :=
  let die := match homeOf p.addr with | some n => dieOf n | none => false
  let keys := p.ids.map fun i => (die, i.2)
  if keys.all s.dev.applied.contains then s.donePacket p
  else if 8192 < s.dev.filterUsed die + keys.length then s
  else
    let old := s.physRead p.ctx p.addr 64 ++ (p.beyond.map fun pa => s.physRead p.ctx pa 64).getD []
    let (cells, c) := redCells p.op p.ty.val old p.parts
    let (here, there) := splitCells cells
    let put (s : State) (pa : Nat) (cs : List (Nat × Byte)) : State := s.physPut p.ctx (s.supOf p.core p.ctx) pa cs p.tags
    let s := put s p.addr here
    let s := (match p.beyond with | some pa => put s pa there | none => s)
    let s := p.ids.foldl (fun s i =>
      match (s.core i.1).cmd i.2.1 with
      | some k => s.cmdFlags i.1 k (flagBits c false)
      | none => s) s
    let live := (p.ids.filter fun i => ((s.core i.1).cmd i.2.1).isSome).map fun i => (die, i.2)
    let s := s.modDev fun d => { d with applied := d.applied ++ live }
    (s.chargeDram p.core p.ctx (p.portBytes cells.length)).donePacket p

/-- The rows of a weight group perform together: once none is refused or held (R105). -/
def State.meetGroup (s : State) (p : Packet) : State :=
  let rows := s.dev.net.filter fun q => q.core == p.core && q.uid == p.uid && q.seq == p.seq && q.group.isSome
  if rows.any fun q => match s.packetMeets q with | .held => true | _ => false then s
  else
    match rows.findSome? fun q => match s.packetMeets q with | .fail c => some (q, c) | _ => none with
    | some (q, c) => s.refusePacket q c
    | none => rows.foldl State.putPacket s

/-- A packet meets its home. -/
def State.meetPacket (s : State) (p : Packet) : State :=
  if p.group.isSome then s.meetGroup p
  else
    match s.packetMeets p with
    | .held => s
    | .fail c => s.refusePacket p c
    | .ok => if p.red then s.applyPacket p else s.putPacket p

/-- The packets of a sort that may perform, in turn. -/
def State.ready (s : State) (q : Packet → Bool) : Option Packet :=
  (rotateBy ((arrivable [] s.dev.net).filter q) s.on.index).head?

/-- The packet goes to a core window. -/
def Packet.toWindow (p : Packet) : Bool := match placeOf p.addr with | .window _ _ => true | _ => false

/-- A packet performs at a core window (R70, R71). -/
def execWindowAccess (s : State) : Out :=
  .next <| match s.ready (fun p => !p.red && p.sync.isNone && p.toWindow) with | some p => s.meetPacket p | none => s

/-- A packet performs at a slice port, as the sixth requester (R60). -/
def execSliceAccess (s : State) : Out :=
  .next <| match s.ready (fun p => !p.red && p.sync.isNone && !p.toWindow) with | some p => s.meetPacket p | none => s

/-- A reducing packet performs at its home (R311). -/
def execReductionApply (s : State) : Out :=
  .next <| match s.ready (·.red) with | some p => s.meetPacket p | none => s

/-! ## Merging (R309, R310, R312) -/

/-- The combination of two contributions to one unit: FP32 for a floating-point type. R310 names no flags for the rounding of a merge
step, and none takes its conditions (log entry 108). -/
def mergeValue (op : Fin 4) (ty a b : Nat) : Nat :=
  match elemTy ty with
  | .int _ _ => (redApply op ty a b).1
  | .flt _ => (redApply op 0x09 a b).1

/-- The contributions of a later packet added to those of an earlier one, unit by unit. -/
def mergeParts (op : Fin 4) (ty : Nat) (ps qs : List (Nat × Nat)) : List (Nat × Nat) :=
  qs.foldl (fun ps q =>
    if ps.any (·.1 == q.1) then ps.map fun p => if p.1 = q.1 then (p.1, mergeValue op ty p.2 q.2) else p else ps ++ [q]) ps

/-- Two packets pass through one output queue on their routes to the home that both seek. -/
def Packet.meets (p q : Packet) : Bool :=
  match homeOf p.addr with
  | some n => (route p.core n).any (route q.core n).contains
  | none => false

/-- Two packets of one context for one granule may merge: they meet, and neither is a retransmission (R309). -/
def Packet.pairs (p q : Packet) : Bool := p.ctx == q.ctx && p.addr == q.addr && p.meets q && !p.resent && !q.resent

/-- Two reducing packets may merge. -/
def Packet.mergeable (p q : Packet) : Bool :=
  p.red && q.red && p.pairs q && p.op == q.op && p.ty == q.ty && p.beyond == q.beyond && p.ids.length + q.ids.length ≤ 8

/-- The merged packet carries the union of the identifiers and the combined contributions. -/
def Packet.merge (p q : Packet) : Packet := { p with ids := p.ids ++ q.ids, parts := mergeParts p.op p.ty.val p.parts q.parts }

/-- Two integer adds of one width, which may merge (R312); the accesses that they carry. -/
def Packet.adds (p q : Packet) : Option (Remote × Remote) :=
  match p.sync, q.sync with
  | some a, some b =>
    if p.pairs q && a.op == .add && b.op == .add && a.wide == b.wide && p.riders.length + q.riders.length ≤ 6 then some (a, b) else none
  | _, _ => none

/-- The merged add carries the sum; the later ones ride with what goes before them. -/
def Packet.mergeAdd (p q : Packet) (a b : Remote) : Packet :=
  { p with sync := some { a with arg := a.arg + b.arg },
           riders := p.riders ++ [(q.core, b.uid, a.arg)] ++ q.riders.map fun r => (r.1, r.2.1, a.arg + r.2.2) }

/-- A router merges two packets that wait, and the merged packet takes the place of the earlier (R309, R312). With the subject's flag a
link sends the packet again, whole, which bars it from merging. -/
def execRouterMerge (s : State) : Out :=
  let put (p m : Packet) (gone : Option Packet) : State := s.modDev fun d =>
    { d with net := (match gone with | some q => d.net.erase q | none => d.net).map fun x => if x = p then m else x }
  .next <|
    match s.dev.net[s.on.index]?, s.dev.net[s.on.index2]? with
    | some p, some q =>
      if s.on.flag then put p { p with resent := true } none
      else if s.on.index < s.on.index2 && p.mergeable q then put p (p.merge q) (some q)
      else if s.on.index < s.on.index2 then
        match p.adds q with
        | some (a, b) => put p (p.mergeAdd q a b) (some q)
        | none => s
      else s
    | some p, none => if s.on.flag then put p { p with resent := true } none else s
    | none, _ => s

end Sys2Proof.Machine
end

