-- ==== Sys2Proof/Machine/Sync.lean ====
section
/-!
DEFINITION. Atomics, barriers, monitor-waits, drains, fences, tethers and locks (R380 to R395), their remote accesses (R312, R383,
R384), and the steps that the table takes by itself (R374, R377, R389).
-/
namespace Sys2Proof.Machine

/-! ## Steps on a word (R386, R389, R393) -/

/-- The operation may write. -/
def SyncOp.writes : SyncOp → Bool
  | .load | .waitGe | .waitNe => false
  | _ => true

/-- What an atomic writes, if anything; `n` is the width in bits. -/
def SyncOp.apply (op : SyncOp) (n old arg cmp : Nat) : Option Nat :=
  let v := arg % 2 ^ n
  match op with
  | .add => some ((old + v) % 2 ^ n)
  | .and => some (old &&& v)
  | .or => some (old ||| v)
  | .xch | .store => some v
  | .max => some (if intOf true n old < intOf true n v then v else old)
  | .min => some (if intOf true n v < intOf true n old then v else old)
  | .cas => if old = cmp % 2 ^ n then some v else none
  | _ => none

/-- The lock word of a holder (R393). -/
def lockWord (x tid : BitVec 16) : Nat := 2 ^ 63 + x.toNat * 2 ^ 16 + tid.toNat

/-- The table has an entry for a task on core `n` (R377, R379). -/
def State.wfRoom (s : State) (n : CoreId) (x tid : BitVec 16) : Bool :=
  !(s.dev.wfOpen tid).isEmpty && s.dev.wfTaken tid x < (((s.core n).cctx x).getD (.missing x)).wfmax

/-- Insert an entry at a free index, which is returned. -/
def State.insertEntry (s : State) (e : WfEntry) : State × Fin 4096 :=
  let (i, s) := s.choose s.dev.wfFree.length
  let idx := s.dev.wfFree.getD i 0
  (s.modDev fun d => { d with wf := d.wf ++ [{ e with idx := idx, since := d.now }] }, idx)

/-- An ownership record of a lock word, where the table has room for it. -/
def State.ownLock (s : State) (n : CoreId) (x tid : BitVec 16) (pa : Nat) : State :=
  if s.wfRoom n x tid then
    (s.insertEntry { idx := 0, record := true, expl := false, okind := 0x02, obj := BitVec.ofNat 48 pa, tid := tid, ctx := x,
                     core := n, owner := .unknown }).1
  else s

/-- The word at a physical address as a context sees it. -/
def State.syncWord (s : State) (x : BitVec 16) (pa n : Nat) : Nat := leNat (s.physRead x pa n)

/-- A word written. -/
def State.putWord64 (s : State) (x : BitVec 16) (pa n v : Nat) : State :=
  s.physPut x (s.supOf s.cur x) pa ((List.range n).zip (leBytes n v)) false

/-- A lock taken, or found held. The entry that the acquisition reserved becomes its ownership record, is given up, or stays reserved for the
edge of its wait (R393). -/
def State.lockStep (s : State) (t : Task) (try_ : Bool) (pa : Nat) : State × SyncReply :=
  let old := s.syncWord t.ctx pa 8
  let free := s.modDev (·.unreserve t.tid)
  if bits old 63 1 = 0 then
    let s := (free.putWord64 t.ctx pa 8 (lockWord t.ctx t.tid)).dropEdge t
    ((s.ownLock s.cur t.ctx t.tid pa).rewire, .done 1 [])
  else if try_ then (free, .done 0 [])
  else (s, .retry (w64 old))

/-- The tethered waiters of a lock word. -/
def State.lockWaiters (s : State) (x : BitVec 16) (pa : Nat) : List WfEntry :=
  let me : WfEntry := { idx := 0, record := false, expl := false, okind := 0x02, obj := BitVec.ofNat 48 pa, tid := 0, ctx := x,
                        core := s.cur, owner := .unknown }
  s.dev.wf.filter fun e => !e.record && !e.expl && e.sameObj me

/-- EFF of a task, by its TID. -/
def State.effOf (s : State) (tid : BitVec 16) : Nat :=
  match s.everyTask.find? fun p => p.2.tid == tid with
  | some p => p.2.ctl.eff.val
  | none => 0

/-- The waiter with the highest EFF, the oldest among equals. -/
def State.bestWaiter (s : State) : List WfEntry → Option WfEntry
  | [] => none
  | e :: es =>
    match s.bestWaiter es with
    | some m => if s.effOf e.tid < s.effOf m.tid then some m else some e
    | none => some e

/-- A lock released, and handed over to a tethered waiter when there is one (R393). -/
def State.unlockStep (s : State) (t : Task) (pa : Nat) : State × SyncReply :=
  let old := s.syncWord t.ctx pa 8
  if bits old 63 1 = 0 ∨ bits old 16 16 ≠ t.ctx.toNat ∨ bits old 0 16 ≠ t.tid.toNat then (s, .illegal)
  else
    let mine (e : WfEntry) : Bool := e.record && !e.expl && e.okind == 0x02 && e.obj.toNat == pa && e.tid == t.tid
    let s := s.modDev (·.release mine)
    match s.bestWaiter (s.lockWaiters t.ctx pa) with
    | some w =>
      let s := s.putWord64 t.ctx pa 8 (lockWord w.ctx w.tid)
      let s := s.modDev (·.release (·.idx == w.idx))
      let s := (s.ownLock w.core w.ctx w.tid pa).modAnywhere w.tid fun t => { t with granted := some pa }
      (s.rewire, .done 0 [])
    | none => ((s.putWord64 t.ctx pa 8 0).rewire, .done 0 [])

/-- An arrival at the barrier object at a core-window address; the old word 0 is returned (R388). -/
def State.barrierStep (s : State) (x : BitVec 16) (pa b : Nat) : State × SyncReply :=
  match placeOf pa with
  | .window m o =>
    let a := (((s.core m).cctx x).getD (.missing x)).base + o
    (s.arriveAt m a b, .done (w64 ((s.core m).loft.num a 8)) [])
  | _ => (s, .illegal)

/-- A step of a join on the record at a physical address: its COUNT is decremented unless 0; the old count and the record as it
then stands are returned (R361). -/
def State.joinStep (s : State) (x : BitVec 16) (pa : Nat) : State × SyncReply :=
  let old := s.syncWord x (pa + 16) 4
  if old = 0 then (s, .done 0 [])
  else
    let s := s.putWord64 x (pa + 16) 4 (old - 1)
    (s, .done (w64 old) (s.physRead x pa 32))

/-- A synchronising step of a task performs at a physical address, indivisibly. -/
def State.perform (s : State) (t : Task) (op : SyncOp) (pa n : Nat) (arg cmp : W64) : State × SyncReply :=
  let old := s.syncWord t.ctx pa n
  match op with
  | .lock => s.lockStep t false pa
  | .lockTry => s.lockStep t true pa
  | .unlock => s.unlockStep t pa
  | .arrive => s.barrierStep t.ctx pa arg.toNat
  | .join => s.joinStep t.ctx pa
  | .waitGe => (s, if arg.toNat ≤ old then .done (w64 old) [] else .retry (w64 old))
  | .waitNe => (s, if old ≠ arg.toNat then .done (w64 old) [] else .retry (w64 old))
  | _ =>
    match op.apply (8 * n) old arg.toNat cmp.toNat with
    | some v => (s.putWord64 t.ctx pa n v, .done (w64 old) [])
    | none => (s, .done (w64 old) [])

/-! ## Reaching the word (R383, R384, R401) -/

/-- The accesses that the task's group, or its handler's, has sent (R384). -/
def Task.requests (t : Task) : List Remote := if t.inHandler then t.inner else t.remote

/-- The accesses of the group replaced. -/
def Task.setRequests (t : Task) (l : List Remote) : Task := if t.inHandler then { t with inner := l } else { t with remote := l }

/-- An access noted, in place of one under its identifier. -/
def Task.note (t : Task) (r : Remote) : Task := t.setRequests (t.requests.filter (·.uid != r.uid) ++ [r])

/-- An access forgotten. -/
def Task.unnote (t : Task) (uid : Nat) : Task :=
  { t with remote := t.remote.filter (·.uid != uid), inner := t.inner.filter (·.uid != uid) }

/-- A store of the task is on its way to another home (R401). -/
def Task.posting (t : Task) : Bool := (t.remote ++ t.inner).any (·.posted)

/-- The stores on their way that the task's next group sees to: in a handler those that the handler made. -/
def Task.posts (t : Task) : List Remote := (if t.inHandler then t.inner else t.remote ++ t.inner).filter (·.posted)

/-- What tells apart the map unit's commands that carry accesses of one task to one granule: the instruction's slot, in a handler or not. -/
def carrierKey (t : Task) (slot : Fin 4) : Nat := 4 * bit t.inHandler + slot.val

/-- The key of the command of a store for which the task does not wait, and of an early load, beside that of its instruction. -/
def postedKey : Nat := 512
/-- The key of an early load's command, less that of its instruction. -/
def earlyKey : Nat := 8

/-- The map unit's command that carries the access of the current slot to a granule. -/
def State.carrier (s : State) (t : Task) (va : Nat) : Option Cmd :=
  (s.core s.cur).mapCmds.find? fun k =>
    k.kind == .remote && k.tid == t.tid && k.gran == carrierKey t s.slot && k.home == va / 64 * 64

/-- A carrier made under a key. -/
def State.newCarrier (s : State) (t : Task) (va key : Nat) : Cmd × State :=
  s.mapCommand s.cur { kind := .remote, ctx := t.ctx, tid := t.tid, gran := key, src := byteRecord 0 (va / 64 * 64) 64,
                       dst := byteRecord 0 (va / 64 * 64) 64, home := va / 64 * 64 }

/-- The carrier of an access, made when there is none. -/
def State.carry (s : State) (t : Task) (va : Nat) : Cmd × State :=
  match s.carrier t va with
  | some k => (k, s)
  | none => s.newCarrier t va (carrierKey t s.slot)

/-- A carrier takes another key. -/
def State.rekey (s : State) (uid key : Nat) : State :=
  s.modCore s.cur fun c => { c with mapCmds := c.mapCmds.map fun k => if k.uid = uid then { k with gran := key } else k }

/-- The wait for a remote access during its translation, or until its faulted command is resumed. -/
def carrierWait (s : State) (k : Cmd) (va : Nat) : Act :=
  .wait s { okind := 0x12, obj := BitVec.ofNat 48 (va / 64 * 64), owner := .cmd k.handle none }

/-- The carrier faults, with its record, and the task waits. -/
def State.carrierFault (s : State) (t : Task) (va : Nat) (c : Cause) : Act :=
  let (k, s) := s.carry t va
  carrierWait (s.faultCmd s.cur k.uid c (recordBase k.src)) k va

/-- The carrier is no longer needed. -/
def State.dropCarrier (s : State) (t : Task) (va : Nat) : State :=
  match s.carrier t va with
  | some k => s.mapDone s.cur k
  | none => s

/-- OKIND of the edge of a step whose condition does not hold. -/
def SyncOp.okind (op : SyncOp) : BitVec 5 := if op = .lock then 0x02 else 0x04

/-- The wait of a step whose condition does not hold. -/
def State.syncWait (s : State) (t : Task) (op : SyncOp) (pa : Nat) : Act :=
  .wait s { okind := op.okind, obj := BitVec.ofNat 48 pa, owner := s.newOwner t op.okind pa }

/-- The operation takes a lock. -/
def SyncOp.locks (op : SyncOp) : Bool := op == .lock || op == .lockTry

/-- The operation finds the entry that it must reserve (R393): a lock acquisition in the table, or in the edge of its own wait. -/
def State.syncRoom (s : State) (t : Task) (op : SyncOp) : Bool :=
  !op.locks || s.wfRoom s.cur t.ctx t.tid || s.dev.wf.any (·.implicitOf t)

/-- An acquisition without an entry raises the tether-overflow trap under POL = 0 (R377). -/
def State.syncOverflows (s : State) (t : Task) (room : Bool) : Bool := !room && !(s.cctx t).wfcfg.getLsbD 63

/-- UNTETH counts an acquisition that had no entry to reserve. -/
def State.countUntethered (s : State) (t : Task) (room : Bool) : State :=
  if room || t.untethered then s else s.modCctx t fun k => { k with unteth := sat32 k.unteth }

/-- A step on a local word. -/
def State.syncHere (s : State) (t : Task) (op : SyncOp) (pa n : Nat) (v arg cmp : W64) (f : State → W64 → List Byte → Act) : Act :=
  let room := s.syncRoom t op
  if s.syncOverflows t room then .trap (s.trapHere t 0x05 0 (s.dev.wfuse t.ctx))
  else
    match s.perform t op pa n arg cmp with
    | (s', .done r bs) => f (s'.countUntethered t room) r bs
    | (_, .illegal) => s.bounds t v
    | (s', _) => s'.syncWait t op pa

/-- The home's answer is taken: it keeps the result no longer, and the carrier is done. -/
def State.acknowledge (s : State) (t : Task) (uid va : Nat) : State :=
  let s := s.modDev fun d => { d with kept := d.kept.filter (·.1 != uid) }
  (s.dropCarrier t va).modLive (·.unnote uid)

/-- A task that waits for an answer keeps the edge that it has on the word (R371, R372, R389, R393); it has none before it was refused. -/
def State.syncHold (s : State) (t : Task) (op : SyncOp) (pa : Nat) : Act :=
  if s.dev.wf.any fun e => e.implicitOf t && e.okind == op.okind && e.obj.toNat == pa then s.syncWait t op pa else Act.hold s

/-- The packet of an access travels; a lock acquisition without an edge reserves an entry for it (R393). -/
def State.syncPacket (s : State) (t : Task) (r : Remote) : State :=
  let s := s.sendPacket { uid := r.uid, seq := 0, core := s.cur, ctx := t.ctx, tid := t.tid, addr := r.addr, sync := some r }
  let s := s.modDev fun d =>
    { d with kept := d.kept.filter (·.1 != r.uid),
             wfHeld := (d.unreserve t.tid).wfHeld ++
               (if r.op.locks && r.room && !d.wf.any (·.implicitOf t) then [(t.tid, t.ctx)] else []) }
  s.modLive (·.note r)

/-- The packet of an access travels, and the group waits for its answer. -/
def State.syncSend (s : State) (t : Task) (r : Remote) : Act := (s.syncPacket t r).syncHold t r.op r.addr

/-- The access travels: alone, or merged into another's packet (R312). -/
def State.onItsWay (s : State) (uid : Nat) : Bool :=
  s.dev.net.any fun p => p.sync.isSome && (p.uid == uid || p.riders.any (·.2.1 == uid))

/-- A joint access that is at its home performs there, with its group (R399): in an exchange, once its home accepts it. -/
def State.syncThere (s : State) (t : Task) (r : Remote) (va n : Nat) (v : W64) (f : State → W64 → List Byte → Act) : Act :=
  match s.physMeets t.ctx (s.supOf s.cur t.ctx) r.op.writes r.addr n with
  | .held => s.syncHold t r.op r.addr
  | .fail c => (s.modDev fun d => { d with kept := d.kept.filter (·.1 != r.uid) }).carrierFault t va c
  | .ok =>
    match s.perform t r.op r.addr n r.arg r.cmp with
    | (s', .done w bs) => f ((s'.acknowledge t r.uid va).countUntethered t r.room) w bs
    | (_, .illegal) => s.bounds t v
    | (s', _) => s'.syncWait t r.op r.addr

/-- A store for which the task does not wait (R401): its command and packet go on without the task. -/
def State.syncPost (s : State) (t : Task) (r : Remote) (f : State → W64 → List Byte → Act) : Act :=
  f ((s.rekey r.uid postedKey).syncPacket t { r with posted := true }) 0 []

/-- The request of the current slot for an operation on a word, which a reissue keeps; an early load's becomes it. -/
def State.syncRequest (s : State) (t : Task) (r : Remote) : Option Remote :=
  t.requests.find? fun q => { q with room := r.room, early := false, joint := r.joint } == r

/-- An early load of the current slot takes the carrier of the slot (R401). -/
def State.adopt (s : State) (t : Task) : State :=
  match t.requests.find? fun q => q.early && q.pc == t.pc && q.slot == s.slot with
  | some q => s.rekey q.uid (carrierKey t s.slot)
  | none => s

/-- A step on a word of another home: its packet travels, under an identifier that a reissue keeps; the answer completes it. -/
def State.syncAway (s : State) (t : Task) (op : SyncOp) (va pa n : Nat) (v arg cmp : W64) (f : State → W64 → List Byte → Act) : Act :=
  let (k, s) := s.carry t va
  let r : Remote :=
    { uid := k.uid, pc := t.pc, slot := s.slot, op := op, addr := pa, wide := n != 4, arg := arg, cmp := cmp, room := s.syncRoom t op,
      joint := s.joint }
  match s.syncRequest t r with
  | none =>
    if s.syncOverflows t r.room then .trap (s.trapHere t 0x05 0 (s.dev.wfuse t.ctx))
    else if op = .store ∧ !s.joint then s.syncPost t r f
    else s.syncSend t r
  | some q =>
    match s.dev.kept.find? (·.1 == k.uid) with
    | some (_, .done w bs) => f ((s.acknowledge t k.uid va).countUntethered t q.room) w bs
    | some (_, .here) => s.syncThere t q va n v f
    | some (_, .illegal) =>
      let s := s.acknowledge t k.uid va
      .entered (s.takeTrap (t.unnote k.uid) (s.trapHere t 0x09 0 v))
    | some (_, .retry w) => if s.syncWord t.ctx pa n = w.toNat then s.syncWait t op pa else s.syncSend t q
    | none => if s.onItsWay k.uid then s.syncHold t op pa else s.syncSend t q

/-- The word is local to the core: in the loft range of its own window, or in its own slice. -/
def syncLocal (n : CoreId) (pa : Nat) : Bool :=
  match placeOf pa with
  | .dram m _ => m == n
  | .window m o => m == n && o < 0x300000
  | .reserved => false

/-- An answer of the home waits for the task, so that its step completes in any phase. -/
def State.answered (s : State) (t : Task) : Bool :=
  t.requests.any fun r => r.pc == t.pc && r.slot == s.slot && s.dev.kept.any fun p =>
    p.1 == r.uid && (match p.2 with | .retry _ | .here => false | _ => true)

/-- What an access is refused for before any wait (R419): its address, or the phase when the word is known to be of another home. -/
def State.syncRefuses (s : State) (t : Task) (v : W64) (n : Nat) (write : Bool) : Option Act :=
  if v.toNat < 0x300000 then (match loftAddr (s.cctx t).psize v n n with | none => some (s.bounds t v) | some _ => none)
  else if v.toNat % 2 ^ 56 % n ≠ 0 then some (s.bounds t v)
  else
    match s.translate s.cur (s.cctx t).asn (v.toNat % 2 ^ 56) write with
    | .pa pa => if !syncLocal s.cur pa && !s.exchange && !s.answered t then some (s.phaseIllegal t) else none
    | _ => none

/-- A step on a translated word. -/
def State.syncAt (s : State) (t : Task) (op : SyncOp) (va pa n : Nat) (v arg cmp : W64) (f : State → W64 → List Byte → Act) : Act :=
  if syncLocal s.cur pa then
    match placeOf pa with
    | .window _ o =>
      if (s.cctx t).psize < o + n then s.carrierFault t va 0x04
      else (s.dropCarrier t va).access t [(o, n)] op.writes false fun s => s.syncHere t op pa n v arg cmp f
    | _ => (s.dropCarrier t va).syncHere t op pa n v arg cmp f
  else if !s.exchange && !s.answered t then s.phaseIllegal t
  else s.syncAway t op va pa n v arg cmp f

/-- A synchronising step on the word at a virtual address, which the map unit translates; the command that carries it may have an image that puts
it elsewhere (R132). -/
def State.syncVirtual (s : State) (t : Task) (op : SyncOp) (va n : Nat) (v arg cmp : W64) (f : State → W64 → List Byte → Act) : Act :=
  let stopped (s : State) (k : Cmd) : Stop → Act
    | .held s' => carrierWait s' k va
    | .fault c a => carrierWait (s.faultCmd s.cur k.uid c a) k va
  match (s.carrier t va).filter fun k => k.status == .faulted || k.imaged with
  | some k =>
    if k.status == .faulted then carrierWait s k va
    else
      match s.recordAddr s.cur k (va % 64) op.writes with
      | .ok pa => s.syncAt t op va pa n v arg cmp f
      | .error e => stopped s k e
  | none =>
    match s.translate s.cur (s.cctx t).asn va op.writes with
    | .pa pa => s.syncAt t op va pa n v arg cmp f
    | .fail c => s.carrierFault t va c
    | .walk =>
      let (k, s) := s.carry t va
      match s.resolve (k.agent s.cur) 0 va op.writes with
      | .error e => stopped s k e
      | .ok _ => carrierWait s k va

/-- A synchronising step on the `n`-byte word at sa (R383): a loft offset, or a virtual address that the map unit translates. -/
def State.sync (s : State) (t : Task) (op : SyncOp) (v : W64) (n : Nat) (arg cmp : W64) (f : State → W64 → List Byte → Act) : Act :=
  if v.toNat < 0x300000 then
    match loftAddr (s.cctx t).psize v n n with
    | none => s.bounds t v
    | some o => s.access t [(o, n)] op.writes false fun s => s.syncHere t op (windowBase s.cur + o) n v arg cmp f
  else
    let va := v.toNat % 2 ^ 56
    if va % n ≠ 0 then s.bounds t v else (s.adopt t).syncVirtual t op va n v arg cmp f

/-- What a home does for an access: a store that is not awaited leaves no result; of another the result is kept until it is acknowledged (R312). -/
def State.keepReply (s : State) (p : Packet) (r : Remote) (a : SyncReply) : State :=
  if r.posted then
    (match (s.core p.core).cmd p.uid with | some k => s.mapDone p.core k | none => s).modAnywhere p.tid (·.unnote p.uid)
  else
    let old := match a with | .done w _ => w.toNat | _ => 0
    let others := p.riders.map fun q => (q.2.1, SyncReply.done (w64 ((old + q.2.2.toNat) % 2 ^ (8 * r.size))) [])
    s.modDev fun d => { d with kept := d.kept ++ (r.uid, a) :: others }

/-- A remote access performs at its home, once: a duplicate gets the kept result. Adds that were merged into it are answered as if each had
performed after the one before (R312). A joint one waits there for its group (R399). A refusal faults its carrier (R383), and theirs. -/
def State.answerPacket (s : State) (p : Packet) (r : Remote) : State :=
  let gone (s : State) : State := s.modDev fun d => { d with net := d.net.erase p }
  if s.dev.kept.any (·.1 == r.uid) then gone s
  else
    match s.physMeets p.ctx (s.supOf p.core p.ctx) r.op.writes r.addr r.size with
    | .held => s
    | .fail c => p.riders.foldl (fun s q => s.faultCmd q.1 q.2.1 c r.addr) ((gone s).faultCmd p.core p.uid c r.addr)
    | .ok =>
      match s.everyTask.find? fun q => q.2.tid == p.tid with
      | none => gone s
      | some q =>
        if r.joint then (gone s).keepReply p r .here
        else
          let (s', a) := ({ s with cur := p.core } : State).perform q.2 r.op r.addr r.size r.arg r.cmp
          (gone { s' with cur := s.cur }).keepReply p r a

/-- A remote access performs at its home and its result is kept (R312). -/
def execRemoteAtomic (s : State) : Out :=
  .next <|
    match s.ready (·.sync.isSome) with
    | some p => match p.sync with | some r => s.answerPacket p r | none => s
    | none => s

/-! ## Atomics (R385, R386) -/

/-- Width in bytes of a W bit. -/
def syncBytes (w : Bool) : Nat := if w then 8 else 4

/-- An atomic: sd receives the old word. -/
def atomic (op : SyncOp) (d a b : SReg) (w : Bool) (s : State) : Out :=
  issue s fun t =>
    s.sync t op (t.getS a) (syncBytes w) (t.getS b) (t.getS d) fun s old _ => .ok (s.modLive fun t => t.setS d old)

/-- `aadd` (R386). -/
def execAadd (d a b : SReg) (w : Bool) (_ : Fin 8) (s : State) : Out := atomic .add d a b w s
/-- `aand` (R386). -/
def execAand (d a b : SReg) (w : Bool) (_ : Fin 8) (s : State) : Out := atomic .and d a b w s
/-- `aor` (R386). -/
def execAor (d a b : SReg) (w : Bool) (_ : Fin 8) (s : State) : Out := atomic .or d a b w s
/-- `axch` (R386). -/
def execAxch (d a b : SReg) (w : Bool) (_ : Fin 8) (s : State) : Out := atomic .xch d a b w s
/-- `amax` (R386). -/
def execAmax (d a b : SReg) (w : Bool) (_ : Fin 8) (s : State) : Out := atomic .max d a b w s
/-- `amin` (R386). -/
def execAmin (d a b : SReg) (w : Bool) (_ : Fin 8) (s : State) : Out := atomic .min d a b w s
/-- `acas` (R386). -/
def execAcas (d a b : SReg) (w : Bool) (_ : Fin 8) (s : State) : Out := atomic .cas d a b w s
/-- `ald` (R386). -/
def execAld (d a : SReg) (w : Bool) (_ : Fin 8) (s : State) : Out := atomic .load d a 0 w s
/-- `ast` (R390). -/
def execAst (a b : SReg) (w : Bool) (_ : Fin 8) (s : State) : Out :=
  issue s fun t => s.sync t .store (t.getS a) (syncBytes w) (t.getS b) 0 fun s _ _ => .ok s

/-! ## Barrier objects (R380, R381, R387, R388) -/

/-- An instruction on the barrier object at the loft offset sa; `write`: it writes both words. -/
def onBarrier (a : SReg) (write : Bool) (f : Task → Nat → W64 → W64 → State → Act) (s : State) : Out :=
  issue s fun t =>
    match loftAddr (s.cctx t).psize (t.getS a) 16 16 with
    | none => s.bounds t (t.getS a)
    | some o => s.access t [(o, 16)] write false fun s => f t o (w64 (s.loftNum t o 8)) (w64 (s.loftNum t (o + 8) 8)) s

/-- The two words of a barrier object as bytes. -/
def barrierBytes (w0 w1 : W64) : List Byte := leBytes 8 w0.toNat ++ leBytes 8 w1.toNat

/-- `binit` (R388). -/
def execBinit (a : SReg) (s : State) : Out := onBarrier a true (fun t o _ _ s => .ok (s.loftWrite t o (zeroBytes 16))) s

/-- `bexp` (R381, R388): an expectation beyond M raises the barrier-overflow trap. -/
def execBexp (a b : SReg) (s : State) : Out :=
  onBarrier a true (fun t o w0 w1 s =>
    match barExpect w0 w1 (t.getS b).toNat with
    | some (v0, v1) => .ok (s.loftWrite t o (barrierBytes v0 v1))
    | none => .trap (s.trapHere t 0x06 0 (w64 o))) s

/-- The wait on a barrier object. -/
def State.barrierWait (s : State) (t : Task) (o : Nat) : Act :=
  let obj := windowBase s.cur + o
  .wait s { okind := 0x01, obj := BitVec.ofNat 48 obj, owner := s.newOwner t 0x01 obj }

/-- `bwait` (R388): until ARMED = 0. -/
def execBwait (a : SReg) (s : State) : Out :=
  onBarrier a false (fun t o w0 _ s => if w0.getLsbD 63 then s.barrierWait t o else .ok s) s

/-- `bwait.ph` (R388): until PH ≠ sb[0]. -/
def execBwaitPh (a b : SReg) (s : State) : Out :=
  onBarrier a false (fun t o w0 _ s => if w0.getLsbD 62 == (t.getS b).getLsbD 0 then s.barrierWait t o else .ok s) s

/-- The address of a `barv` as the core-window address of its object (R109, R388): a loft offset, or a loft range. -/
def barvAddr (n : CoreId) (v : W64) : Option Nat :=
  if v.toNat % 16 ≠ 0 then none
  else if v.toNat < 0x300000 then some (windowBase n + v.toNat)
  else
    match placeOf (v.toNat % 2 ^ 56) with
    | .window _ o => if o < 0x300000 then some (v.toNat % 2 ^ 56) else none
    | _ => none

/-- `barv` (R388). -/
def execBarv (d a b : SReg) (_ : Fin 8) (s : State) : Out :=
  issue s fun t =>
    let v := t.getS a
    match barvAddr s.cur v with
    | none => s.bounds t v
    | some pa =>
      if 2 ^ 36 ≤ (t.getS b).toNat then s.bounds t (t.getS b)
      else
        let go (s : State) (old : W64) (_ : List Byte) : Act := .ok (s.modLive fun t => t.setS d old)
        if v.toNat < 0x300000 then s.sync t .arrive v 16 (t.getS b) 0 go else s.syncVirtual t .arrive pa 16 v (t.getS b) 0 go

/-! ## Monitor-waits, drains and fences (R389, R390) -/

/-- A monitor-wait: sd receives the value that satisfied the condition. -/
def monitorWait (op : SyncOp) (d a b : SReg) (s : State) : Out :=
  issue s fun t => s.sync t op (t.getS a) 8 (t.getS b) 0 fun s v _ => .ok (s.modLive fun t => t.setS d v)

/-- `mwait.ge` (R389). -/
def execMwaitGe (d a b : SReg) (_ : Fin 8) (s : State) : Out := monitorWait .waitGe d a b s
/-- `mwait.ne` (R389). -/
def execMwaitNe (d a b : SReg) (_ : Fin 8) (s : State) : Out := monitorWait .waitNe d a b s

/-- `fence` (R390): it orders the accesses before it ahead of those after it, without an edge; only a store on its way has yet to perform. -/
def execFence (_ : Fin 8) (s : State) : Out := issue s fun t => if t.posting then Act.hold s else .ok s

/-- The object of a wait for the work of the live bank (R370). -/
def State.bankObj (s : State) : BitVec 48 := BitVec.ofNat 48 (s.cur.val + (s.core s.cur).cbank.val * 256)

/-- `drain` without `.e` (R390): every earlier store and atomic has performed; the owner of its wait is unknown. -/
def execDrain (_ : Fin 8) (s : State) : Out :=
  issue s fun t => if t.posting then .wait s { okind := 0x0E, obj := s.bankObj } else .ok s

/-- The commands of a bank that a drain or `tend` awaits. -/
def Task.committed (t : Task) : List Cmd := t.cmds.filter (·.status != .building)

/-- The first of several by age. -/
def oldestOf {α : Type} (l : List (Nat × α)) : Option α :=
  (l.foldl (fun (o : Option (Nat × α)) p => match o with | some q => if p.1 < q.1 then some p else o | none => some p) none).map (·.2)

/-- The `rgsync`s of a task on the current core, by age, with the owner that their wait names: the command that does the granule in
progress; there is no other handle (log entry 114). -/
def State.syncsOf (s : State) (t : Task) : List (Nat × WfOwner) :=
  let c := s.core s.cur
  (c.syncs.filter (·.tid == t.tid)).map fun r =>
    (r.uid, .cmd (((r.inflight.bind c.cmd).map (·.handle)).getD 0) (some t.tid))

/-- What a drain of a bank awaits, the oldest of its committed commands and its `rgsync`s, or else a store on its way. -/
def State.draining (s : State) (t : Task) : Option Wait :=
  match oldestOf (t.committed.map (fun k => (k.age, k.wfOwner)) ++ s.syncsOf t) with
  | some o => some { okind := 0x0E, obj := s.bankObj, owner := o }
  | none => if t.posting then some { okind := 0x0E, obj := s.bankObj } else none

/-- `drain.e` (R390). -/
def execDrainE (_ : Fin 8) (s : State) : Out :=
  issue s fun t => match s.draining t with | some w => .wait s w | none => .ok s

/-! ## Tethers (R391, R392) -/

/-- An explicit entry on the object sa[47:0]: the search of R375 and the overflow rule of R377 apply; sd receives the index, or all
ones when it is untethered. -/
def tether (record : Bool) (d a : SReg) (s : State) : Out :=
  issue s fun t =>
    let obj := (t.getS a).fld 0 48
    let k := s.cctx t
    if !s.wfRoom s.cur t.ctx t.tid then
      if k.wfcfg.getLsbD 63 then
        .ok ((s.modCctx t fun k => { k with unteth := sat32 k.unteth }).setLive (t.setS d (BitVec.allOnes 64)))
      else .trap (s.trapHere t 0x05 0 (s.dev.wfuse t.ctx))
    else
      let e : WfEntry :=
        { idx := 0, record := record, expl := true, okind := 0x11, obj := BitVec.ofNat 48 obj, tid := t.tid, ctx := t.ctx,
          core := s.cur, owner := if record then .unknown else s.newOwner t 0x11 obj }
      let add (s : State) : State :=
        let (s, i) := s.insertEntry e
        s.setLive (t.setS d (w64 i.val))
      if record then .ok (add s).rewire
      else
        match s.search e with
        | .none => .ok (add s)
        | .deep => .ok ((add s).countDeep t)
        | .cycle p => .entered (s.deadlock t p)

/-- `teth` (R392). -/
def execTeth (d a : SReg) (s : State) : Out := tether false d a s
/-- `tethown` (R392). -/
def execTethown (d a : SReg) (s : State) : Out := tether true d a s

/-- Release explicit entries of the task. -/
def untether (p : Task → WfEntry → Bool) (s : State) : Out :=
  issue s fun t =>
    .ok (s.modDev (·.release fun e => e.expl && e.tid == t.tid && p t e)).rewire

/-- `unteth` (R392). -/
def execUnteth (a : SReg) (s : State) : Out := untether (fun t e => !e.record && e.obj.toNat == (t.getS a).fld 0 48) s
/-- `unteth.o` (R392). -/
def execUntethO (a : SReg) (s : State) : Out := untether (fun t e => e.record && e.obj.toNat == (t.getS a).fld 0 48) s
/-- `unteth.a` (R392). -/
def execUntethA (s : State) : Out := untether (fun _ _ => true) s

/-! ## Locks (R393) -/

/-- The identity of the lock word at sa. -/
def State.lockPlace (s : State) (t : Task) (v : W64) : Option Nat :=
  if v.toNat < 0x300000 then some (windowBase s.cur + v.toNat)
  else match s.translate s.cur (s.cctx t).asn v.toNat true with | .pa a => some a | _ => none

/-- A lock acquisition: a lock handed over is taken; else an entry is reserved and the word is asked. -/
def lockAcquire (op : SyncOp) (d a : SReg) (s : State) : Out :=
  issue s fun t =>
    if t.granted.isSome && t.granted == s.lockPlace t (t.getS a) then
      let rs := t.requests.filter fun r => r.pc == t.pc && r.slot == s.slot
      .ok ((s.forgetRequests s.cur rs).setLive ({ t.setRequests (t.requests.filter fun r => !rs.contains r) with granted := none }.setS d 1))
    else s.sync t op (t.getS a) 8 0 0 fun s v _ => .ok (s.modLive fun t => t.setS d v)

/-- `lkacq` (R393). -/
def execLkacq (d a : SReg) (_ : Fin 8) (s : State) : Out := lockAcquire .lock d a s
/-- `lkacq.try` (R393). -/
def execLkacqTry (d a : SReg) (_ : Fin 8) (s : State) : Out := lockAcquire .lockTry d a s
/-- `lkrel` (R393). -/
def execLkrel (a : SReg) (_ : Fin 8) (s : State) : Out :=
  issue s fun t => s.sync t .unlock (t.getS a) 8 0 0 fun s _ _ => .ok s

/-! ## What the table does by itself -/

/-- EFF is recomputed (R374), and the edges name the owners they have now (R373). -/
def execEffRecompute (s : State) : Out := .next s.rewire.recomputeEff

/-- A task of the core waits in a way that `p` accepts: the core's turn comes next. -/
def State.retest (s : State) (p : Task → Bool) : State :=
  if (s.core s.on.core).tasks.any fun q => p q.2 then { s with turns := .core s.on.core :: s.turns } else s

/-- An untethered monitor or lock wait retests every 64 core cycles (R377). -/
def execUntetheredRetest (s : State) : Out := .next (s.retest fun t => t.untethered && t.waiting.isSome)

/-- The home notifies a core that waits on a monitored word, and the core retests (R389). -/
def execMonitorNotify (s : State) : Out :=
  .next (s.retest fun t => match t.waiting with | some w => w.okind == 0x04 | none => false)

end Sys2Proof.Machine
end

