-- ==== Sys2Proof/Machine/Sched.lean ====
section
/-!
DEFINITION. Tasks, teams, grids, jobs and queues (R336 to R367): what the scheduling instructions do, and what the dispatchers, the
queue engines and the job table do by themselves.
-/
namespace Sys2Proof.Machine

/-! ## Continuation records (R340, R341) -/

/-- CTX of a record. -/
def QRec.ctx (r : QRec) : BitVec 16 := BitVec.ofNat 16 (r.flags.fld 48 16)
/-- JOB of a record. -/
def QRec.job (r : QRec) : Nat := r.flags.fld 40 8
/-- MX of a record. -/
def QRec.mx (r : QRec) : Bool := r.flags.getLsbD 39
/-- PRI of a record. -/
def QRec.pri (r : QRec) : Fin 8 := Fin.ofNat 8 (r.flags.fld 36 3)
/-- TSZ of a record: members minus 1. -/
def QRec.tsz (r : QRec) : Fin 16 := Fin.ofNat 16 (r.flags.fld 32 4)
/-- KIND of a record. -/
def QRec.kind (r : QRec) : Nat := r.flags.fld 30 2
/-- GCOUNT of a record. -/
def QRec.gcount (r : QRec) : Nat := r.flags.fld 0 24

/-- The record in 32 bytes, with a task pointer. -/
def recOf (bs : List Byte) (tp : W64) : QRec :=
  let w (i : Nat) : W64 := w64 (leNat ((bs.drop (8 * i)).take 8))
  { code := w 0, frame := w 1, join := w 2, flags := w 3, tp := tp }

/-- CEIL of a context, as its entry holds it. -/
def State.ceilOf (s : State) (x : BitVec 16) : Fin 8 := Fin.ofNat 8 ((s.ctxField x 0).fld 59 3)

/-- The record is runnable for a context (R341). -/
def State.runnable (s : State) (x : BitVec 16) (r : QRec) : Bool :=
  r.code.fld 0 4 == 0 && r.code.fld 56 8 == 0 && r.flags.fld 24 6 == 0 && r.kind ≤ 1
    && (if r.kind = 0 then r.join == 0 && r.gcount == 0 else r.join.fld 56 8 == 0 && 1 ≤ r.gcount)
    && (!r.mx || (s.ctxField x 0).getLsbD 39)

/-- The record as it enters a queue: CTX and JOB set, PRI clamped. -/
def QRec.enterAs (r : QRec) (x : BitVec 16) (job : Nat) (ceil : Fin 8) : QRec :=
  let p := if r.pri.val < ceil.val then r.pri.val else ceil.val
  { r with flags := w64 (x.toNat * 2 ^ 48 + job % 256 * 2 ^ 40 + r.flags.fld 39 1 * 2 ^ 39 + p * 2 ^ 36 + r.flags.fld 0 36) }

/-! ## Queues (R343, R344) -/

/-- Entries that a core's queue holds. -/
def Core.queued32 (c : Core) : Nat := (c.lanes.toList.map List.length).sum

/-- The entries that joins of a task in flight have reserved (R361); `mine`: it asks for the group that issues now, whose own reservation
does not count. -/
def Task.reserves (t : Task) (mine : Bool) : Nat :=
  let other := if t.inHandler then t.remote else t.inner
  ((if mine then other else t.remote ++ t.inner).filter (·.op == .join)).length

/-- The queue has no entry left for a task, or for a pusher that is none: it is full, or the rest is reserved. -/
def Core.queueFull (c : Core) (tid : Option (BitVec 16) := none) : Bool :=
  2 ^ c.qlog.val ≤ c.queued32 +
    (((c.tasks.map (·.2)) ++ c.saved.filterMap (·.task)).map fun t => t.reserves (some t.tid == tid)).sum

/-- The 32 bytes of a record (R340). -/
def QRec.bytes (r : QRec) : List Byte := wordsBytes [r.code, r.frame, r.join, r.flags]

/-- The queue engine may write a record that enters its queue back to some entry of the region of `c.queue` (R343); which, and whether it
does, is open (log entry 112). -/
def State.writeBackRec (s : State) (n : CoreId) (r : QRec) : State :=
  let c := s.core n
  let (k, s) := s.choose (2 ^ (c.qlog.val + 1))
  if k % 2 = 0 then s else s.writeDram (c.qbase.toNat * 64 + k / 2 * 32) r.bytes

/-- Push at the head of lane PRI. -/
def State.push (s : State) (n : CoreId) (r : QRec) : State :=
  (s.writeBackRec n r).modCore n fun c => { c with lanes := c.lanes.set r.pri ({ r with entered := s.dev.now } :: c.lanes[r.pri]) }

/-- Take a record out of a lane. -/
def State.unqueue (s : State) (n : CoreId) (r : QRec) : State :=
  s.modCore n fun c => { c with lanes := c.lanes.set r.pri (c.lanes[r.pri].erase r) }

/-! ## Jobs (R353) -/

/-- The live count of a job: its records in queues, its grid entries, its teams that reserve, and its tasks. -/
def State.jobCount (s : State) (j : Nat) : Nat :=
  (allCores.map fun n => ((s.core n).lanes.toList.map fun l => (l.filter fun r => r.job == j).length).sum).sum
    + (s.dev.grids.filter fun g => g.2.job == j).length + (s.dev.reserving.filter fun r => r.2.rcd.job == j).length
    + (s.everyTask.filter fun p => p.2.job == j).length

/-- A job completes: its entry is freed at once, or its stamp is made by its core's map unit. -/
def State.completeJob (s : State) (j : Nat) (b : Job) : State :=
  if b.addr = 0 then s.modDev fun d => { d with jobs := d.jobs.filter (·.1 != j) }
  else
    let s := s.modDev fun d => { d with jobs := d.jobs.map fun p => if p.1 = j then (j, { b with done := true }) else p }
    (s.mapCommand b.core { kind := .stamp, ctx := b.ctx, src := byteRecord 0 b.addr.toNat 8, dst := byteRecord 0 b.addr.toNat 8, scope := b.scope, stamped := true,
                           stampAddr := b.addr, stampVal := b.stamp, job := j }).2

/-- Every job whose live count is 0 completes. -/
def State.settleJobs (s : State) : State :=
  s.dev.jobs.foldl (fun s p => if !p.2.done && s.jobCount p.1 == 0 then s.completeJob p.1 p.2 else s) s

/-- One step of a completion stamp: one aligned store, in an exchange phase alone, and not in one in which the transfers of its context are
cancelled (R331). -/
def State.stampStep (s : State) (n : CoreId) (k : Cmd) : Except Stop State := do
  if 0 < k.inflight then throw (.held s)
  else if k.stampSent || !k.stamped then return s.removeCmd n k.uid
  else if !s.exchange || s.dev.cancelled.contains k.ctx then throw (.held s)
  else if k.stampAddr.toNat % 8 ≠ 0 then throw (.fault 0x10 k.stampAddr.toNat)
  else
    let pa ← s.resolve (k.agent n) 0 k.stampAddr.toNat true
    let cells := (List.range 8).zip (leBytes 8 k.stampVal.toNat)
    match s.physMeets k.ctx (s.supOf n k.ctx) true pa 8 with
    | .fail c => throw (.fault c k.stampAddr.toNat)
    | .held => throw (.held s)
    | .ok =>
      if localTo n pa then
        return ((s.physPut k.ctx (s.supOf n k.ctx) pa cells false).chargeDram n k.ctx (match placeOf pa with | .dram _ _ => 8 | _ => 0)).removeCmd n k.uid
      else
        let s := s.sendPacket { uid := k.uid, seq := 0, core := n, ctx := k.ctx, addr := pa, cells := cells }
        return s.modCmd n k.uid fun k => { k with inflight := 1, owed := [], stampSent := true }

/-- `JOB_COMPLETION_STAMP` (R353). -/
def execJobCompletionStamp (s : State) : Out :=
  let n := s.on.core
  .next (s.tryMap n (fun s k => s.stampStep n k) ((s.core n).mapActive .stamp s.on.index))

/-! ## Placement (R342, R346, R347) -/

/-- LSIZE of a context, as its entry holds it. -/
def State.lsizeOf (s : State) (x : BitVec 16) : Nat := (s.ctxField x 0).fld 40 8

/-- The first run of `len` free units of a core's loft. -/
def Core.freeUnits (c : Core) (len : Nat) : Option Nat :=
  (List.range (33 - len)).find? fun u => c.ctxs.all fun k => k.lsize == 0 || u + len ≤ k.lbaseu || k.lbaseu + k.lsize ≤ u

/-- A bank of the core is free. -/
def Core.freeBank (c : Core) : Option (Fin 4) := allBanks.find? fun b => (c.banks[b]).isNone

/-- The conditions of R346 but for the free bank. -/
def State.fits (s : State) (n : CoreId) (x : BitVec 16) (mx : Bool) : Bool :=
  let c := s.core n
  c.avail && (s.ctxEntry x).isSome && (1 ≤ s.lsizeOf x)
    && !c.departed x && ((c.cctx x).any (fun k => 0 < k.lsize) || (c.freeUnits (s.lsizeOf x)).isSome)
    && (!mx || c.mx.owner.isNone || c.mx.owner == some x)

/-- A task of a context can be placed on a core (R346). -/
def State.canPlace (s : State) (n : CoreId) (x : BitVec 16) (mx : Bool) : Bool :=
  s.fits n x mx && (s.core n).freeBank.isSome

/-- What a context new to a core holds there; its virtual time starts at the least of those resident (R349). -/
def State.newCtx (s : State) (c : Core) (x : BitVec 16) (u : Nat) : CoreCtx :=
  let w := s.ctxField x 0
  let vs := (c.ctxs.filter fun k => c.hosts k.ctx).map (·.vtime)
  { ctx := x, sup := w.getLsbD 62, asn := BitVec.ofNat 8 (w.fld 16 8), ceil := s.ceilOf x, lbaseu := u, lsize := s.lsizeOf x,
    sbudget := s.ctxField x 1, wfcfg := s.ctxField x 3 &&& 0x8000000000001FFF, tvec := s.ctxField x 4, fqcfg := s.ctxField x 5,
    vtime := vs.foldl Min.min (vs.headD 0) }

/-- Assign a partition to a context on a core: it reads zero, with every tag empty. -/
def State.assignPartition (s : State) (n : CoreId) (x : BitVec 16) : State :=
  let c := s.core n
  match c.freeUnits (s.lsizeOf x) with
  | none => s
  | some u =>
    let k := s.newCtx c x u
    s.setCore n { c with ctxs := c.ctxs.filter (·.ctx != x) ++ [k], loft := c.loft.zero k.base k.psize,
                         tags := c.tags.zero (k.base / 4) (k.psize / 4) }

/-- A context becomes owner of an unowned unit (R262, R263). -/
def MatUnit.take (m : MatUnit) (x : BitVec 16) : MatUnit := if m.owner.isNone then { m.giveUp with owner := some x } else m

/-- A TID that no live task has and no entry names, from an open choice upward; 0 names no task (log entry 21). -/
def State.freshTid (s : State) : BitVec 16 × State :=
  let used := s.everyTask.map (fun p => p.2.tid) ++ s.dev.wf.map (·.tid)
  let (k, s) := s.choose 0xFFFF
  let try_ (i : Nat) : BitVec 16 := BitVec.ofNat 16 ((k + i) % 0xFFFF + 1)
  match (List.range (used.length + 1)).find? fun i => !used.contains (try_ i) with
  | some i => (try_ i, s)
  | none => (try_ 0, s)

/-- What a placement gives a task beside its record: its team and grid coordinates, and its start. -/
structure Coord where
  team : Nat := 0
  member : Fin 16 := 0
  paddock : List CoreId := []
  grid : Option (Fin 64) := none
  gidx : BitVec 24 := 0
  start : Option W64 := none
deriving DecidableEq, Repr, Inhabited

/-- A new task of a record (R342): every register zero but s3, s63 and what the placement gives. -/
def QRec.task (r : QRec) (tid : BitVec 16) (ceil : Fin 8) (c : Coord) : Task :=
  let t : Task :=
    { tid := tid, ctx := r.ctx, job := r.job, ceil := ceil, gcount := 0, gidx := c.gidx, grid := c.grid, team := c.team,
      tsz := r.tsz, member := c.member, paddock := c.paddock, mx := r.mx, pc := BitVec.ofNat 56 (r.code.fld 4 52 * 16),
      startPhase := c.start, ctl := { base := r.pri, eff := r.pri } }
  (t.setS 3 r.frame).setS 63 r.tp

/-- The address word of the header before an entry, where the page table gives it. -/
def State.headerWord (s : State) (asn : BitVec 8) (va : Nat) : Option W64 :=
  match s.translateDirect asn va false with
  | .ok pa => some (s.dramW pa)
  | .error _ => none

/-- The copy of the loft image of an entry (R347): a command of the map unit, unless the header names no image. `gran` = 0 until the
header has been read. -/
def State.startImage (s : State) (n : CoreId) (x : BitVec 16) (code : Nat) : Nat × State :=
  let va := (code + 2 ^ 56 - 16) % 2 ^ 56
  if s.headerWord (s.asnOf n x) va = some 0 then (0, s)
  else
    let (k, s) := s.mapCommand n { kind := .image, ctx := x, src := byteRecord 0 va 16, dst := byteRecord 1 0 0 }
    (k.uid, s)

/-- Place a task of a record in bank `b` of core `n`; the conditions of R346 hold. -/
def State.place (s : State) (n : CoreId) (b : Fin 4) (r : QRec) (c : Coord) : State :=
  let fresh := !((s.core n).cctx r.ctx).any (fun k => 0 < k.lsize)
  let s := if fresh then s.assignPartition n r.ctx else s
  let s := if r.mx then s.modUnit n (·.take r.ctx) else s
  let (tid, s) := s.freshTid
  let t := r.task tid (s.ceilOf r.ctx) c
  let (img, s) := if fresh then s.startImage n r.ctx t.pc.toNat else (0, s)
  (s.setBank n b (some { t with image := img })).modCore n fun c => { c with ended := c.ended.set b none }

/-- When a task placed now starts (R342): in a compute phase that has been truncated, at the next one (R367). -/
def State.startNow (s : State) : Option W64 :=
  if s.exchange then some (s.dev.phase + 1) else if s.dev.truncated then some (s.dev.phase + 2) else none

/-- When members of a team placed now start: at the start of a compute phase (R351). -/
def State.startTeam (s : State) : Option W64 := some (if s.exchange then s.dev.phase + 1 else s.dev.phase + 2)

/-! ## Choosing work (R345, R349 to R352) -/

/-- The aged priority of a record in a queue (R345). -/
def State.aged (s : State) (r : QRec) : Nat :=
  let agec := (s.ctxField r.ctx 2).fld 0 32
  if agec = 0 then r.pri.val else Min.min 7 (r.pri.val + (s.dev.now - r.entered) / agec)

/-- Virtual time of a context on a core; a context new to it would start at the least (R349). -/
def Core.vtimeOf (c : Core) (x : BitVec 16) : Nat :=
  match c.cctx x with
  | some k => k.vtime
  | none => let vs := (c.ctxs.filter fun k => c.hosts k.ctx).map (·.vtime); vs.foldl Min.min (vs.headD 0)

/-- The lane heads of a core in the order of R345. -/
def State.heads (s : State) (n : CoreId) : List QRec :=
  let c := s.core n
  let hs := ([7, 6, 5, 4, 3, 2, 1, 0] : List (Fin 8)).filterMap fun p => (c.lanes[p]).head?
  sortBy (fun a b => s.aged b < s.aged a || (s.aged a == s.aged b && c.vtimeOf a.ctx ≤ c.vtimeOf b.ctx)) hs

/-- What a dispatcher may take. -/
inductive Cand where
  | task (r : QRec)
  | team (r : QRec) (grid : Option (Fin 64)) (gidx : BitVec 24)
  | grid (r : QRec)
  | index (i : Fin 64) (g : Grid)
deriving DecidableEq, Repr, Inhabited

/-- A record of a lane as a candidate. -/
def QRec.cand (r : QRec) : Cand := if r.kind = 1 then .grid r else if r.tsz = 0 then .task r else .team r none 0

/-- The record that runs index `next` of a grid: a task or team with the grid's code. -/
def Grid.team (g : Grid) : QRec := { g.rcd with join := 0, flags := w64 (g.rcd.flags.toNat / 2 ^ 32 * 2 ^ 32) }

/-- The oldest grid with indices left. -/
def Device.openGrid (d : Device) : Option (Fin 64 × Grid) := d.grids.find? fun g => g.2.next < g.2.count.toNat

/-- The candidates of a core in the order of R345, steps 2 and 3. -/
def State.candidates (s : State) (n : CoreId) : List Cand :=
  (s.heads n).map QRec.cand ++
    (match s.dev.openGrid with
      | some (i, g) => if g.rcd.tsz = 0 then [.index i g] else [.team g.team (some i) (BitVec.ofNat 24 g.next)]
      | none => [])

/-- A die has a team that reserves. -/
def Device.reserved (d : Device) (die : Bool) : Bool := d.reserving.any (·.1 == die)

/-- The candidate can be taken by a core with a free bank; a stolen record is, from the next compute phase on (R354). -/
def State.takable (s : State) (n : CoreId) : Cand → Bool
  | .task r => !(r.stolen && s.exchange) && s.canPlace n r.ctx r.mx
  | .team r _ _ => !s.dev.reserved (dieOf n) && s.canPlace n r.ctx r.mx
  | .grid _ => s.dev.grids.length < 64
  | .index _ g => s.canPlace n g.rcd.ctx g.rcd.mx

/-- A grid record moves into a free entry of the grid table; which one is open. -/
def State.openGridEntry (s : State) (n : CoreId) (r : QRec) : State :=
  let free := (List.finRange 64).filter fun i => (s.dev.grids.lookup i).isNone
  let (k, s) := s.choose free.length
  let g : Grid := { rcd := r, ctx := r.ctx, job := r.job, count := BitVec.ofNat 24 r.gcount, next := 0, running := 0, core := n }
  (s.unqueue n r).modDev fun d => { d with grids := d.grids ++ [(free.getD k 0, g)] }

/-- A grid entry changed. -/
def Device.modGrid (d : Device) (i : Fin 64) (f : Grid → Grid) : Device :=
  { d with grids := d.grids.map fun g => if g.1 == i then (i, f g.2) else g }

/-- A team begins to reserve: its core and the lowest-numbered other cores of the die on which a member can be placed (R351). -/
def State.reserve (s : State) (n : CoreId) (r : QRec) (grid : Option (Fin 64)) (gidx : BitVec 24) : State :=
  let others := allCores.filter fun m => dieOf m == dieOf n && m != n && s.canPlace m r.ctx r.mx
  let v : Reserve := { rcd := r, core := n, cores := n :: others.take r.tsz.val, grid := grid, gidx := gidx }
  let s := match grid with
    | some i => s.modDev (·.modGrid i fun g => { g with next := g.next + 1, running := g.running + 1 })
    | none => s.unqueue n r
  s.modDev fun d => { d with reserving := d.reserving ++ [(dieOf n, v)] }

/-- A candidate is taken. -/
def State.takeCand (s : State) (n : CoreId) : Cand → State
  | .task r =>
    match (s.core n).freeBank with
    | some b =>
      let (team, s) := s.fresh
      (s.unqueue n r).place n b r { team := team, paddock := [n], start := s.startNow }
    | none => s
  | .team r g i => s.reserve n r g i
  | .grid r => s.openGridEntry n r
  | .index i g =>
    match (s.core n).freeBank with
    | some b =>
      let s := s.modDev (·.modGrid i fun g => { g with next := g.next + 1, running := g.running + 1 })
      let (team, s) := s.fresh
      s.place n b g.team { team := team, paddock := [n], grid := some i, gidx := BitVec.ofNat 24 g.next, start := s.startNow }
    | none => s

/-- The reservation of the core's die that lacks cores takes the core, when a member can be placed there. -/
def State.joinReserve (s : State) (n : CoreId) : Option State :=
  (s.dev.reserving.find? fun r => r.1 == dieOf n && r.2.cores.length ≤ r.2.rcd.tsz.val).bind fun r =>
    if s.canPlace n r.2.rcd.ctx r.2.rcd.mx then
      some (s.modDev fun d =>
        { d with reserving := d.reserving.map fun q => if q = r then (q.1, { q.2 with cores := q.2.cores ++ [n] }) else q })
    else none

/-- A switched-out task of a core may be restored now, but for its team (R434): a bank when it was spilled, a partition, and the
unit when the slot holds part of it. A core that a team reserves takes no other work (R351). -/
def State.restorableHere (s : State) (n : CoreId) (t : Task) : Bool :=
  let c := s.core n
  let v := c.saved.find? fun v => v.tid == t.tid
  let spilled := (c.saved.filterMap (·.task)).any (·.tid == t.tid)
  (!spilled || (c.freeBank.isSome && !s.dev.reserving.any fun r => r.2.cores.contains n))
    && ((c.cctx t.ctx).any (fun k => 0 < k.lsize) || (match c.saved.findSome? fun (v : Saved) => if v.ctx == t.ctx then v.cctx else none with
          | some k => (c.freeUnits k.lsize).isSome
          | none => false))
    && (match v with
        | some v => !(v.released || v.unitState) || c.mx.owner.isNone || c.mx.owner == some t.ctx
        | none => true)

/-- A switched-out task with its whole team may be restored now, as a compute phase begins. -/
def State.restorable (s : State) (t : Task) : Bool :=
  s.everyTask.all fun p =>
    if p.2.team == t.team && p.2.job == t.job then
      p.2.hold != .switched || ((s.core p.1).opening && s.restorableHere p.1 p.2)
    else true

/-- Some switched-out task of the core comes first under R345. -/
def State.restoreFirst (s : State) (n : CoreId) : Bool :=
  !s.exchange && (((s.core n).tasks.map (·.2)) ++ (s.core n).saved.filterMap (·.task)).any fun t => t.hold == .switched && s.restorable t

/-! ## Grids that end (R352) -/

/-- The grid has ended: every index issued and every team ended. -/
def Grid.ended (g : Grid) : Bool := g.count.toNat ≤ g.next && g.running == 0

/-- The map unit's command that carries the join of a grid entry: of no task, for the model's own name of the entry (log entry 109). -/
def State.gridCarrier (s : State) (i : Fin 64) (g : Grid) : Cmd × State :=
  match (s.core g.core).mapCmds.find? fun k => k.kind == .remote && k.tid == 0 && k.gran == 2 + i.val with
  | some k => (k, s)
  | none =>
    let va := g.rcd.join.fld 0 56 / 64 * 64
    s.mapCommand g.core { kind := .remote, ctx := g.ctx, gran := 2 + i.val, src := byteRecord 0 va 64, dst := byteRecord 0 va 64 }

/-- The physical address of DONEA, once the join can be performed there: in the loft after older operations and with its granule resident, at
another home in an exchange phase alone. -/
def State.gridPlace (s : State) (k : Cmd) (g : Grid) : Except Stop (State × Nat) := do
  let n := g.core
  let a := g.rcd.join.fld 0 56
  if a % 32 ≠ 0 then throw (.fault 0x10 a)
  let pa ← if k.imaged then s.recordAddr n k (a % 64) true else if a < 0x300000 then .ok (windowBase n + a) else s.resolve (k.agent n) 0 a true
  let x := s.ctxOn n g.ctx
  match syncLocal n pa, placeOf pa with
  | true, .window _ o =>
    if x.psize < o + 32 then throw (.fault 0x04 a)
    let p := (x.base + o) / 64
    if (s.core n).sb.any (·.meets .loft p p) then throw (.held s)
    return (← s.loftReady (k.agent n) true false (o / 64), pa)
  | near, _ =>
    if !near && !s.exchange then throw (.held s)
    match s.physMeets g.ctx x.sup true pa 32 with
    | .ok => return (s, pa)
    | .held => throw (.held s)
    | .fail c => throw (.fault c a)

/-- A join on behalf of a grid (R352), as a join under R361, with whether it has performed: the record's count falls, and the last join pushes
the record. A join that fails leaves a fault record, and the entry waits until the supervisor resumes or aborts its command. -/
def State.gridJoin (s : State) (i : Fin 64) (g : Grid) : State × Bool :=
  let n := g.core
  let (k, s) := s.gridCarrier i g
  if k.status == .faulted || (s.core n).queueFull then (s, false)
  else
    match s.gridPlace k g with
    | .error (.held s) => (s, false)
    | .error (.fault c a) => (s.faultCmd n k.uid c a, false)
    | .ok (s, pa) =>
      match ({ s.mapDone n k with cur := n } : State).joinStep g.ctx pa with
      | (s', .done old bs) =>
        let s' := { s' with cur := s.cur }
        let r := recOf bs (w64 (g.rcd.join.fld 0 56))
        let r := if g.rcd.join.fld 0 56 < 0x300000 then { r with tp := w64 pa } else r
        (if old = 1 then
          if s'.runnable g.ctx r then s'.push n (r.enterAs g.ctx g.job (s'.ceilOf g.ctx)) else s'.report n g.ctx 0x04 0 [] bs
        else s', true)
      | _ => (s, false)

/-- A grid that has ended joins its record and frees its entry, through its dispatcher. -/
def State.endGrid (s : State) (n : CoreId) : Option State :=
  (s.dev.grids.find? fun g => g.2.core == n && g.2.ended).map fun g =>
    let free (s : State) : State := (s.modDev fun d => { d with grids := d.grids.filter (·.1 != g.1) }).settleJobs
    if g.2.rcd.join.fld 0 56 = 0 then free s
    else
      match s.gridJoin g.1 g.2 with
      | (s, true) => free s
      | (s, false) => s

/-! ## The dispatcher, teams and stealing -/

/-- A reservation holds the core, which takes no other work (R351). -/
def State.coreReserved (s : State) (n : CoreId) : Bool := s.dev.reserving.any fun r => r.2.cores.contains n

/-- The record for which a task has left the core is placed in the freed bank (R350), when it can be; a record that has left its lane
otherwise is promised nothing. -/
def State.takePromised (s : State) (n : CoreId) : Option State :=
  let kept (v : CoreId × QRec) : Bool := v.1 != n || ((s.core n).lanes[v.2.pri]).contains v.2
  let s := s.modDev fun d => { d with promised := d.promised.filter kept }
  (s.dev.promised.find? fun v => v.1 == n && s.takable n v.2.cand).map fun v =>
    (s.takeCand n v.2.cand).modDev fun d => { d with promised := d.promised.erase v }

/-- The core takes a record for which a task has left it, or the first candidate that it can (R345). A task that may be restored has
the bank first. -/
def State.takeWork (s : State) (n : CoreId) : State :=
  match s.takePromised n with
  | some s => s
  | none =>
    if s.restoreFirst n then s
    else
      match (s.candidates n).find? (s.takable n) with
      | some c => s.takeCand n c
      | none => s

/-- `DISPATCH` (R345): a grid that ended; then, on a core with a free bank that no reservation holds, a reservation that wants it, and other
work. -/
def execDispatch (s : State) : Out :=
  let n := s.on.core
  .next <|
    let s := (s.endGrid n).getD s
    if s.dev.power != .running || s.coreReserved n || (s.core n).freeBank.isNone then s
    else (s.joinReserve n).getD (s.takeWork n)

/-- The members of a complete reservation are placed, member i on the i-th lowest core. -/
def State.startMembers (s : State) (r : Reserve) (team : Nat) (cores : List CoreId) : List (CoreId × Nat) → State
  | [] => s
  | (n, i) :: ms =>
    match (s.core n).freeBank with
    | none => s.startMembers r team cores ms
    | some b =>
      (s.place n b r.rcd { team := team, member := Fin.ofNat 16 i, paddock := cores, grid := r.grid, gidx := r.gidx,
                           start := s.startTeam }).startMembers r team cores ms

/-- `TEAM_START` (R351): a complete reservation of the subject's die starts all its members. -/
def execTeamStart (s : State) : Out :=
  .next <|
    match s.dev.reserving.find? fun r => r.1 == dieOf s.on.core && r.2.cores.length == r.2.rcd.tsz.val + 1 with
    | none => s
    | some r =>
      if r.2.cores.all fun n => s.canPlace n r.2.rcd.ctx r.2.rcd.mx then
        let cores := sortBy (fun a b => a.val ≤ b.val) r.2.cores
        let s := s.modDev fun d => { d with reserving := d.reserving.erase r }
        let (team, s) := s.fresh
        s.startMembers r.2 team cores (cores.zip (List.range cores.length))
      else s

/-- The generator of R354. -/
def stealNext (x : BitVec 16) : BitVec 16 :=
  let x := x ^^^ (x <<< 7)
  let x := x ^^^ (x >>> 9)
  x ^^^ (x <<< 8)

/-- Draws until the victim is another available core. -/
def State.drawVictim (s : State) (n : CoreId) : Nat → BitVec 16 → BitVec 16 × Option CoreId
  | 0, x => (x, none)
  | f + 1, x =>
    let x := stealNext x
    let v : CoreId := Fin.ofNat 128 x.toNat
    if v = n ∨ !(s.core v).avail then s.drawVictim n f x else (x, some v)

/-- The core has something to place under steps 1 to 3 of R345: what it can take, or a stolen record that waits for the next phase. -/
def State.hasWork (s : State) (n : CoreId) : Bool :=
  (s.candidates n).any fun c => s.takable n c || (match c with | .task r => r.stolen && s.canPlace n r.ctx r.mx | _ => false)

/-- `STEAL_REQUEST` (R354): an idle core, which no reservation holds (R351), asks a random victim, in an exchange phase. -/
def execStealRequest (s : State) : Out :=
  let n := s.on.core
  let c := s.core n
  .next <|
    if !s.exchange || !c.avail || c.freeBank.isNone || s.coreReserved n || c.stealing.isSome || 8 ≤ c.steals
        || s.hasWork n then s
    else
      let (x, v) := s.drawVictim n 1024 c.stealX
      s.setCore n { c with stealX := x, stealing := v, steals := if v.isSome then c.steals + 1 else c.steals }

/-- The record that a victim hands over: lanes from 7 down, at most four records from each tail. A record that the victim has stolen
itself stays, since it is placed there. -/
def State.stolen (s : State) (thief v : CoreId) : Option QRec :=
  (([7, 6, 5, 4, 3, 2, 1, 0] : List (Fin 8)).flatMap fun p => (((s.core v).lanes[p]).reverse.take 4)).find? fun r =>
    r.kind == 0 && r.tsz == 0 && !r.stolen && s.canPlace thief r.ctx r.mx

/-- A record that a steal brought may be placed. -/
def QRec.settle (r : QRec) : QRec := { r with stolen := false }

/-- `STEAL_ANSWER` (R354): in the exchange of the request, the victim's queue engine hands a record over, or answers empty. -/
def execStealAnswer (s : State) : Out :=
  let n := s.on.core
  .next <|
    match (s.core n).stealing with
    | none => s
    | some v =>
      let s' := s.modCore n fun c => { c with stealing := none }
      if (s.core n).queueFull || !s.exchange || s.coreReserved n then s'
      else
        match s.stolen n v with
        | some r => (s'.unqueue v r).push n { r with stolen := true }
        | none => s'

/-- `PREEMPTION_REQUEST` (R350): a lane head of the core, for which no task leaves yet, has waited beyond PWAIT, no bank is free, a task of another
context has a lower EFF, and a save slot is free for it and its team. -/
def execPreemptionRequest (s : State) : Out :=
  let n := s.on.core
  let c := s.core n
  let waited (r : QRec) : Bool :=
    let p := (s.ctxField r.ctx 2).fld 32 32
    p != 0 && p < s.dev.now - r.entered
  .next <|
    if c.freeBank.isSome then s
    else
      match (s.heads n).find? fun r => waited r && !(s.dev.victims ++ s.dev.promised).contains (n, r) && c.slotSpare n && (c.tasks.any fun p => p.2.ctx != r.ctx && p.2.ctl.eff.val < s.aged r
          && p.2.paddock.all fun m => (s.core m).slotSpare m) with
      | some r => s.modDev fun d => { d with trunc := true, victims := d.victims ++ [(n, r)] }
      | none => s

/-! ## Launching (R355 to R357, R365) -/

/-- `c.lrej` records a refusal. -/
def State.refuseLaunch (s : State) (c : BitVec 8) : State :=
  s.modDev fun d => { d with lrejCause := c, lrejCount := sat32 d.lrejCount }

/-- Word `w` of row `i` of the access-control table. -/
def State.aclWord (s : State) (i w : Nat) : W64 := s.dramW (s.dev.acl.toNat + i * 32 + w * 8)

/-- The valid rows that admit a source to a context (R356). -/
def State.aclRows (s : State) (peer : Bool) (src : Nat) (x : BitVec 16) : List Nat :=
  (List.range 256).filter fun i =>
    let w := s.aclWord i 0
    w.getLsbD 63 && w.fld 48 11 == 0 && w.fld 16 16 == 0 && s.aclWord i 3 == 0 && w.getLsbD 62 == peer && w.fld 32 16 == src
      && w.fld 0 16 == x.toNat

/-- The row's queue mask holds a core. -/
def State.aclCore (s : State) (n : CoreId) (i : Nat) : Bool :=
  if n.val < 64 then (s.aclWord i 1).getLsbD n.val else (s.aclWord i 2).getLsbD (n.val - 64)

/-- The record of a launch packet. -/
def packetRec (bs : List Byte) : QRec := recOf bs (w64 (leNat ((bs.drop 0x30).take 8)))

/-- The checks of R357 from cause 0x03 on. -/
def State.launchFails (s : State) (n : CoreId) (bs : List Byte) : Option (BitVec 8) :=
  let r := packetRec bs
  let ctl := w64 (leNat ((bs.drop 0x38).take 8))
  if (s.ctxEntry r.ctx).isNone then some 0x03
  else if !s.runnable r.ctx r then some 0x04
  else if ctl.fld 56 8 ≠ 1 ∨ ctl.fld 3 53 ≠ 0 ∨ (ctl.fld 0 3 ≠ 3 ∧ ctl.fld 0 3 ≠ 4) then some 0x05
  else if 256 ≤ s.dev.jobs.length then some 0x06
  else if (s.core n).queueFull then some 0x07
  else if !(s.core n).avail then some 0x08
  else none

/-- A launch is accepted: a job is created at a free entry, and its record pushed. -/
def State.launchAt (s : State) (n : CoreId) (bs : List Byte) (pmax : Nat) : Nat × State :=
  let r := packetRec bs
  let ctl := w64 (leNat ((bs.drop 0x38).take 8))
  let free := (List.range 256).filter fun j => (s.dev.jobs.lookup j).isNone
  let (k, s) := s.choose free.length
  let j := free.getD k 0
  let ceil := s.ceilOf r.ctx
  let b : Job := { addr := w64 (leNat ((bs.drop 0x20).take 8)), stamp := w64 (leNat ((bs.drop 0x28).take 8)),
                   scope := Fin.ofNat 8 (ctl.fld 0 3), core := n, ctx := r.ctx }
  let s := s.modDev fun d => { d with jobs := d.jobs ++ [(j, b)] }
  (j, s.push n (r.enterAs r.ctx j (if pmax < ceil.val then Fin.ofNat 8 pmax else ceil)))

/-- A launch packet from outside (R355 to R357): whether it was accepted, or why not. -/
def State.packetArrives (s : State) (n : CoreId) (peer : Bool) (src : Nat) (bs : List Byte) : State × Option (BitVec 8) :=
  let r := packetRec bs
  let rows := s.aclRows peer src r.ctx
  let fail (c : BitVec 8) : State × Option (BitVec 8) := (s.refuseLaunch c, some c)
  match rows, rows.find? (s.aclCore n) with
  | [], _ => fail 0x01
  | _, none => fail 0x02
  | _, some i =>
    match s.launchFails n bs with
    | some c => fail c
    | none => ((s.launchAt n bs ((s.aclWord i 0).fld 59 3)).2, none)

/-! ## The instructions (R359 to R366) -/

/-- The object of a wait on a core's queue (R370). -/
def queueWait (n : CoreId) : Wait := { okind := 0x0C, obj := BitVec.ofNat 48 n.val }

/-- A spawn into the queue of core `n`. -/
def State.spawnTo (s : State) (t : Task) (a : W64) (n : CoreId) : Act :=
  match loftAddr (s.cctx t).psize a 32 32 with
  | none => s.bounds t a
  | some o =>
    if !(s.core n).avail then s.bounds t (w64 n.val)
    else
      s.access t [(o, 32)] false false fun s =>
        let r := recOf (s.loftRead t o 32) (w64 (windowBase s.cur + o))
        if !s.runnable t.ctx r then s.bounds t a
        else if (s.core n).queueFull then .wait s (queueWait n)
        else .ok (s.push n (r.enterAs t.ctx t.job (s.ceilOf t.ctx)))

/-- `spawn` (R360). -/
def execSpawn (a : SReg) (s : State) : Out := issue s fun t => s.spawnTo t (t.getS a) s.cur

/-- `spawnt` (R360): to another core only in an exchange phase. -/
def execSpawnt (a b : SReg) (s : State) : Out :=
  issue s fun t =>
    let n : CoreId := Fin.ofNat 128 ((t.getS b).fld 0 7)
    if n ≠ s.cur ∧ !s.exchange then s.phaseIllegal t else s.spawnTo t (t.getS a) n

/-- The last join of a record pushes a copy of it, unless that is not runnable (R361). -/
def State.pushJoined (s : State) (t : Task) (a : W64) (bs : List Byte) : State :=
  let r := recOf bs (if a.toNat < 0x300000 then w64 (windowBase s.cur + a.toNat) else a)
  if s.runnable t.ctx r then s.push s.cur (r.enterAs t.ctx t.job (s.ceilOf t.ctx)) else s.report s.cur t.ctx 0x04 t.tid [] bs

/-- A join of a task on the record at sa (R361): what refuses it comes before any wait (R419), then it reserves an entry of the queue, which
it holds while its access travels; `f` receives the old count. -/
def State.joinAt (s : State) (t : Task) (a : W64) (f : State → W64 → Act) : Act :=
  match s.syncRefuses t a 32 true with
  | some act => act
  | none =>
    if (s.core s.cur).queueFull (some t.tid) then .wait s (queueWait s.cur)
    else s.sync t .join a 32 0 0 fun s old bs => f (if old = 1 then s.pushJoined t a bs else s) old

/-- `join` (R361). -/
def execJoin (d a : SReg) (s : State) : Out :=
  issue s fun t => s.joinAt t (t.getS a) fun s old => .ok (s.modLive fun t => t.setS d old)

/-- `grow` (R362). -/
def execGrow (d a : SReg) (s : State) : Out :=
  issue s fun t =>
    match t.grid.bind fun i => (s.dev.grids.lookup i).map fun g => (i, g) with
    | none => s.bounds t (t.getS a)
    | some (i, g) =>
      let v := Min.min (g.count.toNat + (t.getS a).toNat) (2 ^ 24 - 1)
      .ok ((s.modDev (·.modGrid i fun g => { g with count := BitVec.ofNat 24 v })).setLive (t.setS d (g.count.setWidth 64)))

/-- `park` (R363): the issue unit looks for another task after this group. -/
def execPark (s : State) : Out := issue s fun _ => .ok (s.modCore s.cur fun c => { c with yield := true })

/-- The oldest of what `tend` awaits, as the object and owner of its wait (R364); a replay has no handle (log entry 114). -/
def State.endWaits (s : State) (t : Task) : Option Wait :=
  let c := s.core s.cur
  let own (h : BitVec 32) : WfOwner := .cmd h (some t.tid)
  let call (h : BitVec 32) : Wait := { okind := 0x0B, obj := callObj s.cur h, owner := own h }
  oldestOf <|
    (t.committed.map fun k => (k.age, { okind := 0x10, obj := k.handle.setWidth 48, owner := k.wfOwner }))
    ++ ((c.mapCmds.filter fun k => k.kind == .fill && (k.tid == t.tid || k.users.contains t.tid)).map fun k =>
          (k.uid, { okind := 0x10, obj := k.handle.setWidth 48, owner := k.wfOwner }))
    ++ ((c.openCalls t.tid).map fun k => (k.serial, call k.handle))
    ++ ((c.mx.mtaccs.filter (·.tid == t.tid)).map fun m => (m.serial, call m.handle))
    ++ (t.replays.map fun r => (r.serial, { okind := 0x0A, obj := s.bankObj, owner := own 0 }))
    ++ ((s.syncsOf t).map fun p => (p.1, { okind := 0x0E, obj := s.bankObj, owner := p.2 }))

/-- A task leaves the device: its edges and records, its bank, its team's and its grid's count, and with the last task of its context
on the core the unit and the partition (R346, R364, R372). -/
def State.endTask (s : State) (n : CoreId) (b : Fin 4) (t : Task) : State :=
  let s := (s.forgetRequests n (t.remote ++ t.inner)).modDev fun d => (d.unreserve t.tid).release (·.tid == t.tid)
  let s := s.disown t.tid
  let s := s.modCore n fun c =>
    { c with banks := c.banks.set b none, ended := c.ended.set b (some t), running := false, yield := false,
             waitq := c.waitq.filter (·.owner != .task t.tid),
             mapCmds := c.mapCmds.filter fun k => !(k.kind == .remote && k.tid == t.tid) }
  let last := !(s.everyTask.any fun p => p.2.team == t.team && p.2.job == t.job)
  let s := match t.grid with
    | some i => if last then s.modDev (·.modGrid i fun g => { g with running := g.running - 1 }) else s
    | none => s
  let here := (s.core n).hosts t.ctx || ((s.core n).saved.any fun v => v.ctx == t.ctx)
  let s := if here then s else
    (s.modCore n fun c => { c with mx := if c.mx.owner = some t.ctx then c.mx.giveUp else c.mx }).freeIdle n
  s.settleJobs

/-- What `tend` refuses: a ring claim held, or a lock held (R364, R393). -/
def State.endRefused (s : State) (t : Task) : Option W64 :=
  match t.claims.head?, s.dev.wf.find? (fun e => e.record && e.okind == 0x02 && e.tid == t.tid) with
  | some c, _ => some (w64 c.1.val)
  | none, some e => some (e.obj.setWidth 64)
  | none, none => none

/-- `tend` (R364), after its join when it has one. -/
def State.tend (s : State) (t : Task) (f : (State → Act) → State → Act) : Act :=
  match s.endRefused t with
  | some v => s.bounds t v
  | none =>
    match s.endWaits t with
    | some w => .wait s w
    | none => f (fun s => .ended (s.endTask s.cur (s.core s.cur).cbank t)) s

/-- `tend` (R364). -/
def execTend (s : State) : Out := issue s fun t => s.tend t fun done s => done s
/-- `tendj` (R361): the join is performed after the drains and before the bank is freed; what refuses it comes first (R419). -/
def execTendj (a : SReg) (s : State) : Out :=
  issue s fun t =>
    match s.syncRefuses t (t.getS a) 32 true with
    | some act => act
    | none => s.tend t fun done s => s.joinAt t (t.getS a) fun s _ => done s

/-- `launch` (R365). -/
def execLaunch (d a b : SReg) (s : State) : Out :=
  issue s fun t =>
    let n : CoreId := Fin.ofNat 128 ((t.getS b).fld 0 7)
    if n ≠ s.cur ∧ !s.exchange then s.phaseIllegal t
    else
      match loftAddr (s.cctx t).psize (t.getS a) 64 64 with
      | none => s.bounds t (t.getS a)
      | some o =>
        s.access t [(o, 64)] false false fun s =>
          let bs := s.loftRead t o 64
          let refused (c : BitVec 8) : Act :=
            .ok ((s.refuseLaunch c).modLive fun t => t.setS d (BitVec.allOnes 64))
          if (packetRec bs).ctx ≠ t.ctx ∧ !(s.cctx t).sup then refused 0x01
          else
            match s.launchFails n bs with
            | some c => refused c
            | none =>
              let (j, s) := s.launchAt n bs 7
              .ok (s.modLive fun t => t.setS d (w64 j))

end Sys2Proof.Machine
end

