-- ==== Sys2Proof/Machine/Traps.lean ====
section
/-!
DEFINITION. The trap and context family (R440 to R446), the context switch and the restore (R429 to R436), the bytes of a save slot
(R433), and the destruction of a context (R438). Entering a trap and the return from one are in Ops.
-/
namespace Sys2Proof.Machine

/-! ## `trap` and `rett` (R441, R442) -/

/-- `trap` (R441): its own group performs, and the trap returns to the next bundle (R417). -/
def execTrap (n : Fin 16) (s : State) : Out :=
  issue s fun t =>
    .entered (s.takeTrap t { cls := 0x0A, detail := 0x01, slot := s.slot, info := w64 n.val, retPc := t.pc + 16, retSlot := 0 })

/-- CLASS and DETAIL of a cause word. -/
def causeIs (v : W64) (cls detail : Nat) : Bool := v.fld 48 8 == cls && v.fld 40 8 == detail

/-- The task is in a freeze handler entered for a pre-emption. -/
def Task.preempted (t : Task) : Bool := t.inHandler && causeIs t.ctl.cause 0x08 0x01

/-- The task is in a freeze handler entered when it was restored. -/
def Task.resumed (t : Task) : Bool := t.inHandler && causeIs t.ctl.cause 0x08 0x02

/-- A task of the unit's owner is to leave, has left, or has yet to resume at its return point (R280, R430, R434, R437). -/
def Core.keepsFrozen (c : Core) : Bool :=
  ((c.tasks.map (·.2)) ++ c.saved.filterMap (·.task)).any fun t =>
    c.mx.owner == some t.ctx && (t.hold == .handler || t.hold == .switched || t.resumed || t.thaws || t.pendFreeze.isSome)

/-- The unit leaves the frozen state, unless a task of its owner has yet to resume. -/
def State.thaw (s : State) (n : CoreId) : State :=
  s.modCore n fun c => { c with mx := { c.mx with frozen := c.mx.frozen && c.keepsFrozen } }

/-- The live task issues: where it resumes at its return point, its unit goes on (R434). -/
def State.thawOnIssue (s : State) (t : Task) : State × Task :=
  if t.thaws then ((s.setLive { t with thaws := false }).thaw s.cur, { t with thaws := false }) else (s, t)

/-- `rett` (R442): a task that was restored lets its unit go on when it next issues (R434). -/
def execRett (s : State) : Out :=
  issue s fun t =>
    match s.returnFromTrap t with
    | .resume s' pc k => .resume (if t.resumed then s'.modLive fun t => { t with thaws := true } else s') pc k
    | a => a

/-! ## Save slots (R433) -/

/-- The control registers that are task or context state (R178, R194, R283, R316, R358, R379, R420, R485). -/
def ctrlSaved (n : Nat) : Bool :=
  n ≤ 0x012 || n == 0x014 || (0x030 ≤ n && n ≤ 0x06F) || n == 0x080 || n == 0x081 || n == 0x0A0 || n == 0x0A1
    || (0x0C1 ≤ n && n ≤ 0x0C3) || (0x0E0 ≤ n && n ≤ 0x0E2) || (0x100 ≤ n && n ≤ 0x104) || (0x120 ≤ n && n ≤ 0x12A)
    || (0x140 ≤ n && n ≤ 0x147)

/-- Control registers from `lo`, by number, those not saved as zero. -/
def State.ctrlArea (s : State) (n : CoreId) (k : CoreCtx) (t : Task) (lo len : Nat) : List Byte :=
  (List.range len).flatMap fun i =>
    leBytes 8 (if ctrlSaved (lo + i) then ((s.readCtrl n k t (lo + i)).getD 0).toNat else 0)

/-- Bytes whose layout the spec does not give: free values (log entry 4). -/
def freeBytes (seed n : Nat) : List Byte := (List.range n).map fun i => BitVec.ofNat 8 (Config.value (seed + i))

/-- A command slot of an engine as images; an empty one is zero. -/
def imageOr (k : Option Cmd) : List Byte := match k with | some k => k.image | none => zeroBytes 256

/-- Images of the active and the staged command of an engine and of its eight register commands. -/
def EngSlot.imageArea (g : EngSlot) : List Byte :=
  imageOr g.active ++ imageOr g.staged ++ (g.regs.flatMap (·.image) ++ zeroBytes 2048).take 2048

/-- The byte whose bits are given, least significant first. -/
def byteOf (bs : List Bool) : Byte := BitVec.ofNat 8 (bs.foldr (fun b v => 2 * v + bit b) 0)

/-- Two bits per granule: resident, then dirty. -/
def CoreCtx.regionArea (k : CoreCtx) : List Byte :=
  (List.range (k.psize / 256)).map fun i =>
    byteOf ((List.range 4).flatMap fun j =>
      [k.isResident (4 * i + j), (k.dirty.get (4 * i + j)).toNat == 1])

/-- The macro part of the register area: descriptors, mode map and dirty map. -/
def MatUnit.macroArea (m : MatUnit) : List Byte :=
  m.macros.toList.flatMap (fun x => leBytes 16 x.desc.toNat) ++ leBytes 8 m.modeMap.toNat
    ++ leBytes 8 ((List.finRange 64).map fun i => bit m.macros[i].dirty * 2 ^ i.val).sum

/-- The meter area: counters, residue in femtojoules, last-folded copy. -/
def CoreCtx.meterArea (k : CoreCtx) : List Byte :=
  k.meters.toList.flatMap (leBytes 8) ++ leBytes 64 (k.residue / 10) ++ k.folded.toList.flatMap (leBytes 8)

/-- A register area of a slot, by offset: the parts that a spill writes. The macro part is that of the unit that the context owns; one that owns
none has no macros (log entry 47). -/
def State.areaParts (s : State) (n : CoreId) (b : Fin 4) (t : Task) (es : List SbEntry) (unitState release : Bool) :
    List (Nat × List Byte) :=
  let k := s.ctxOn n t.ctx
  let c := s.core n
  [(0x0000, leBytes 8 (2 ^ 48 + t.ctx.toNat * 2 ^ 32 + t.tid.toNat * 2 ^ 16 + b.val) ++ leBytes 8 t.ctl.tpc.toNat
      ++ leBytes 8 (bit release + 2 * bit unitState)),
   (0x0040, (List.finRange 64).flatMap fun i => leBytes 8 (t.getS i).toNat),
   (0x0240, t.regs.b.toList.flatMap (fun v => leBytes 32 v.toNat) ++ t.regs.l.toList.flatMap fun v => leBytes 96 v.toNat),
   (0x0740, (t.regs.m.toList ++ t.regs.o.toList ++ [t.regs.nest]).flatMap fun v => leBytes 8 v.toNat),
   (0x0800, s.ctrlArea n k t 0x000 256),
   (0x1000, freeBytes s.free (128 * Min.min t.replays.length 4)),
   (0x1200, k.meterArea),
   (0x1300, if c.mx.owner == some t.ctx then c.mx.macroArea else []),
   (0x1800, t.engines.toList.flatMap EngSlot.imageArea),
   (0x2C00, freeBytes (s.free + 512) (16 * es.length)),
   (0x3000, k.regionArea),
   (0x6000, (List.finRange 8).flatMap fun i => leBytes 2048 (t.getK i).toNat),
   (0xA000, if unitState then s.microImage n t else []),
   (0xC000, s.ctrlArea n k t 0x100 128)]

/-- Parts of an area as a sparse memory. -/
def partsMem (ps : List (Nat × List Byte)) : Mem := ps.foldl (fun m p => m.write p.1 p.2) []

/-- The dirty macros as regions of a slot. -/
def MatUnit.dirtyRegions (m : MatUnit) : List (Nat × Nat × Mem) :=
  ((List.finRange 64).filter fun i => m.macros[i].dirty).map fun i =>
    (0x280000 + i.val * 0x4000, 0x4000, m.array.slice (i.val * 0x4000) 0x4000)

/-- The regions of a slot that a switch writes (R433), as offset, length and contents. -/
def State.slotRegions (s : State) (n : CoreId) (b : Fin 4) (t : Task) (spill unitState release : Bool) (es : List SbEntry) :
    List (Nat × Nat × Mem) :=
  let c := s.core n
  let k := s.ctxOn n t.ctx
  let parts := s.areaParts n b t es unitState release
  (if spill then [(0x000000, 0x200000, t.regs.v)] else [])
    ++ (if unitState then [(0x200000, 0x40000, c.mx.acc), (0x240000, 0x20000, c.mx.bnd)] else [])
    ++ (if spill then [(0x260000, 0x20000, partsMem parts)] else [(0x261300, 1040, Mem.cells 0 c.mx.macroArea)])
    ++ (if release then c.mx.dirtyRegions else [])
    ++ (if spill then
          [(0x380000, k.psize, c.loft.slice k.base k.psize),
           (0x380000 + k.psize, k.psize / 32, Mem.cells 0 ((List.range (k.psize / 32)).map fun i =>
              byteOf ((List.range 8).map fun j => (c.tags.get (k.base / 4 + 8 * i + j)).toNat == 1)))]
        else [])

/-- The slot's bytes in DRAM. -/
def State.writeSlot (s : State) (base : Nat) (rs : List (Nat × Nat × Mem)) : State :=
  ({ s with free := s.free + 2048 } : State).modDev fun d =>
    { d with dram := rs.foldl (fun m r => m.splice (base + r.1) r.2.1 r.2.2) d.dram }

/-- The base of a save slot that is not in use; which one is open. -/
def State.freeSlot (s : State) (n : CoreId) : Nat × State :=
  let free := (s.core n).slotsFree n
  let (k, s) := s.choose free.length
  ((s.core n).slotBase n (free.getD k 0), s)

/-! ## The switch (R431 to R435) -/

/-- What a switch of a task of bank `b` does (R431, R432): it spills when no other bank is free, and it releases the unit when the program
gives it up, or when it spills the owner's last task. -/
def Core.switchKind (c : Core) (b : Fin 4) (t : Task) (rel : Bool) : Bool × Bool :=
  let spill := !(allBanks.any fun d => d != b && (c.banks[d]).isNone)
  let alone := !(c.tasks.any fun p => p.2.tid != t.tid && p.2.ctx == t.ctx)
  (spill, c.mx.owner == some t.ctx && (rel || (spill && alone)))

/-- Every access of the context on the core is at rest (R87, R122, R411), and a save slot is free when the switch needs one (R68): no packet
of it travels, no fill or write-back that has not faulted is outstanding, no arrival is owed but one that its barrier's window refuses, and no `mtacc`. -/
def State.saveReady (s : State) (n : CoreId) (b : Fin 4) (t : Task) (rel : Bool) : Bool :=
  let c := s.core n
  let (spill, release) := c.switchKind b t rel
  let faulted (u : Nat) : Bool := match c.cmd u with | some k => k.status == .faulted | none => false
  (s.dev.net.all fun p => p.core != n || p.ctx != t.ctx)
    && (c.mapCmds.all fun k => k.ctx != t.ctx || (k.kind != .fill && k.kind != .writeBack) || k.status == .faulted)
    && (c.syncs.all fun r => r.ctx != t.ctx || (match r.inflight with | some u => faulted u | none => false))
    && (c.mx.mtaccs.all fun m => m.ctx != t.ctx)
    && (c.allCmds.all fun k => k.ctx != t.ctx || k.owed.isEmpty
          || (k.status == .faulted && (s.arrivalRefused n k.ctx k.barrier).isSome))
    && (!(spill || release) || !(c.slotsFree n).isEmpty)

/-- An entry belongs to an operation of the task. -/
def SbEntry.ofTask (e : SbEntry) (t : Task) : Bool :=
  match e.owner with
  | .cmd u => t.cmds.any (·.uid == u)
  | .call tid _ => tid == t.tid
  | .replay tid _ => tid == t.tid
  | _ => false

/-- The task as it leaves its core: frozen, at the return point of its freeze handler with H = 0 (R443), or, switched without one, where it stands; an
unhandled task stays as it was (R424). -/
def Task.leave (t : Task) : Task :=
  if t.stuck then { t with hold := .switched, pendFreeze := none, startPhase := none }
  else
  let (pc, slot) : BitVec 56 × Fin 4 :=
    if t.preempted then (BitVec.ofNat 56 (t.ctl.tpc.fld 4 52 * 16), Fin.ofNat 4 (t.ctl.tpc.fld 0 2)) else (t.pc, t.slot)
  { t with hold := .switched, pc := pc, slot := slot, bundle := none, waiting := none, pendFreeze := none, drainedU := false, inner := t.inner.filter (·.posted),
           startPhase := none, ctl := if t.preempted then { t.ctl with cause := t.ctl.cause &&& ~~~(1#64 <<< 63) } else t.ctl }

/-- A release: the calls of the owner end with their entries, and the unit is given up (R432). -/
def Core.releaseUnit (c : Core) (x : BitVec 16) : Core :=
  let drop (t : Task) : Task := if t.ctx == x then { t with calls := [] } else t
  let call (e : SbEntry) : Bool := e.ctx == x && (match e.owner with | .call _ _ => true | _ => false)
  { c with banks := c.banks.map fun (b : Option Task) => b.map drop,
           saved := c.saved.map fun v => { v with task := v.task.map drop },
           sb := c.sb.filter fun e => !call e, mx := c.mx.giveUp }

/-- What the handler of a task of core `n` waits for is given up: its edge, its place in queues, its remote accesses but for stores on their way
(R372). -/
def State.endInner (s : State) (n : CoreId) (t : Task) : State :=
  let s := (s.forgetRequests n (t.inner.filter (!·.posted))).modDev (·.release fun e => !e.record && !e.expl && e.inner && e.tid == t.tid)
  s.modCore n fun c => { c with waitq := c.waitq.filter fun w => !(w.owner == .task t.tid && w.inner) }

/-- The calls of a task with the running one, when it is the task's. -/
def Core.callsOf (c : Core) (t : Task) : List Call := c.mx.running.toList.filter (·.tid == t.tid) ++ t.calls

/-- The switch of a task of bank `b` of core `n` (R431): by flip when another bank is free, else by spill; `rel`: the program gives the
unit up. The meters are folded first (R483), a wait of the task's handler ends (R372), and the record for which the task leaves is placed (R350). A switch is charged to no context (R436). -/
def State.switchOut (s : State) (n : CoreId) (b : Fin 4) (t : Task) (rel : Bool) : State :=
  let s := s.endInner n t
  let (spill, release) := (s.core n).switchKind b t rel
  let alone := !((s.core n).tasks.any fun p => p.2.tid != t.tid && p.2.ctx == t.ctx)
  let s := if spill && alone then s.fold n t.ctx else s
  let c := s.core n
  let unitState := release && !rel && !t.drainedU
  let t' := t.leave
  let t' := if unitState then { t' with calls := c.callsOf t } else if release then { t' with calls := [] } else t'
  let kept (e : SbEntry) : Bool := match e.owner with | .call _ _ => unitState || !release | _ => true
  let es := if spill then c.sb.filter fun e => (e.ofTask t || (alone && e.ctx == t.ctx)) && kept e else []
  let (base, s) := if spill || release then s.freeSlot n else (0, s)
  let s := if spill || release then
      s.writeSlot base (s.slotRegions n b t' spill unitState release es)
    else s
  let v : Saved :=
    { base := base, ctx := t.ctx, tid := t.tid, bank := b,
      task := if spill then some { t' with regs := { tdim := t'.regs.tdim } } else none,
      cctx := if spill && alone then some (s.ctxOn n t.ctx) else none, entries := es, unitState := unitState, released := release,
      macros := c.mx.macros }
  let s := s.modCore n fun c =>
    let c := if release then c.releaseUnit t.ctx else c
    { c with
      banks := c.banks.set b (if spill then none else some t'),
      running := c.running && b != c.cbank,
      yield := c.yield && b != c.cbank,
      sb := if spill then c.sb.filter fun e => !(e.ofTask t || (alone && e.ctx == t.ctx)) else c.sb,
      ctxs := if spill && alone then c.ctxs.filter (·.ctx != t.ctx) else c.ctxs,
      saved := if spill || release then c.saved ++ [v] else c.saved }
  if s.coreReserved n then s else (s.takePromised n).getD s

/-- `ctxsw` and `ctxsw.rel` (R443). -/
def contextSwitch (rel : Bool) (s : State) : Out :=
  issue s fun t =>
    let m := s.unit
    if !t.preempted then s.bounds t t.ctl.cause
    else if rel && m.owner != some t.ctx then s.bounds t m.ownWord
    else if rel && !t.drainedU then s.bounds t t.ctl.cause
    else if !s.saveReady s.cur (s.core s.cur).cbank t rel then Act.hold s
    else .ended (s.switchOut s.cur (s.core s.cur).cbank t rel)

/-- `ctxsw` (R443). -/
def execCtxsw (s : State) : Out := contextSwitch false s
/-- `ctxsw.rel` (R443). -/
def execCtxswRel (s : State) : Out := contextSwitch true s

/-- The device switches a frozen task itself (R430): its context has no handler, its handler has not switched by the start of the
compute phase that followed, or it is unhandled and leaves with its team (R351, R424). -/
def execDeviceCtxsw (s : State) : Out :=
  let n := s.on.core
  .next <|
    match s.bank n s.on.bank with
    | none => s
    | some t =>
      let due := t.stuck || !(s.ctxOn n t.ctx).tvec.getLsbD 63 || t.startPhase.isNone
      if t.hold = .handler ∧ due ∧ s.saveReady n s.on.bank t t.drainedU then s.switchOut n s.on.bank t t.drainedU else s

/-! ## The restore (R434) -/

/-- A run of a slot's bytes. -/
def Device.slotPart (d : Device) (v : Saved) (off len : Nat) : Mem := d.dram.slice (v.base + off) len

/-- The tags that the bytes after a partition of `p` bytes hold: bit `i` of byte `b` is the tag of word `8 b + i` (R433). -/
def tagsOf (bytes : Mem) : Mem :=
  bytes.flatMap fun c => (List.range 8).filterMap fun i => if c.2.getLsbD i then some (8 * c.1 + i, 1) else none

/-- The registers that a slot's bytes hold: vector, scalar, buffer, layout, matrix-parameter, manger and mask registers (R433). -/
def Device.slotRegs (d : Device) (v : Saved) (r : Regs) : Regs :=
  let num (off n : Nat) : Nat := d.dram.num (v.base + 0x260000 + off) n
  { r with
    v := d.slotPart v 0 0x200000,
    s := Vector.ofFn fun i => w64 (num (0x0040 + 8 * i.val) 8),
    b := Vector.ofFn fun i => BitVec.ofNat 256 (num (0x0240 + 32 * i.val) 32),
    l := Vector.ofFn fun i => BitVec.ofNat 768 (num (0x0440 + 96 * i.val) 96),
    m := Vector.ofFn fun i => w64 (num (0x0740 + 8 * i.val) 8),
    o := Vector.ofFn fun i => w64 (num (0x0780 + 8 * i.val) 8),
    nest := w64 (num 0x07C0 8),
    k := Vector.ofFn fun i => BitVec.ofNat 16384 (num (0x6000 + 2048 * i.val) 2048) }

/-- The partition of a context that has been spilled, with its loft and tags; what its slots hold of the scoreboard moves with it. -/
def State.restorePart (s : State) (n : CoreId) (x : BitVec 16) : State :=
  let c := s.core n
  match c.spilledCtx x with
  | none => s
  | some (v, k) =>
    let u := match c.cctx x with | some h => h.lbaseu | none => (c.freeUnits k.lsize).getD 0
    let k' := { k with lbaseu := u }
    let move (e : SbEntry) : SbEntry :=
      if e.space = .loft then { e with lo := e.lo + u * 1536 - k.lbaseu * 1536, hi := e.hi + u * 1536 - k.lbaseu * 1536 } else e
    s.setCore n
      { c with ctxs := c.ctxs.filter (·.ctx != x) ++ [k'],
               loft := c.loft.splice k'.base k'.psize (s.dev.slotPart v 0x380000 k.psize),
               tags := c.tags.splice (k'.base / 4) (k'.psize / 4) (tagsOf (s.dev.slotPart v (0x380000 + k.psize) (k.psize / 32))),
               saved := c.saved.map fun w => if w.ctx == x then { w with cctx := none, entries := w.entries.map move } else w }

/-- The macros and the unit that a slot gives back: dirty macros with their descriptors, modes and DIRTY bits, the unit frozen. A calibration that storage
mode held starts with a macro's return to compute mode (R259). -/
def MatUnit.giveBack (m : MatUnit) (d : Device) (v : Saved) : MatUnit :=
  let back (i : Fin 64) (x : MacroSt) : MacroSt :=
    let o := v.macros[i]
    if o.dirty then { x with desc := o.desc, compute := o.compute, dirty := true } else x
  let m := m.take v.ctx
  MatUnit.startHeld
  { m with
    macros := Vector.ofFn fun i => back i m.macros[i],
    array := (List.finRange 64).foldl (fun a i =>
      if v.macros[i].dirty then a.splice (i.val * 16384) 16384 (d.slotPart v (0x280000 + i.val * 16384) 16384) else a) m.array,
    acc := if v.unitState then d.slotPart v 0x200000 0x40000 else m.acc,
    bnd := if v.unitState then d.slotPart v 0x240000 0x20000 else m.bnd, frozen := true }

/-- The faulted fills and write-backs of a context that comes back are tried anew, under the handles they have (R87, log entry 104). -/
def Core.reissue (c : Core) (x : BitVec 16) : Core :=
  { c with mapCmds := c.mapCmds.map fun k =>
      if k.ctx = x ∧ (k.kind = .fill ∨ k.kind = .writeBack) ∧ k.status = .faulted then
        { k with status := .active, cause := 0, faultAddr := 0, page := none, xfail := 0 }
      else k }

/-- A resident task enters its resumed freeze handler, or continues at its return point; one that left unhandled still is (R424). A straggler trap
waits for it under STRAP alone (R333). Faulted fills and write-backs of its context are reissued. -/
def State.resumeTask (s : State) (n : CoreId) (b : Fin 4) (t : Task) (released : Bool) : State :=
  let handled := (s.ctxOn n t.ctx).tvec.getLsbD 63
  let t :=
    { t with hold := if t.stuck then .unhandled else .none, cut := false, stuck := false, thaws := t.stuck || !handled,
             pendStrag := if (s.ctxOn n t.ctx).strap then t.pendStrag else none }
  let s := (s.setBank n b (some t)).modCore n fun c =>
    { c.reissue t.ctx with cbank := b, running := true, yield := false, ended := c.ended.set b none }
  if handled && t.hold == .none then
    let r := ({ s with cur := n } : State).takeTrap t
      { cls := 0x08, detail := 0x02, slot := t.slot, info := w64b released, retPc := t.pc, retSlot := t.slot }
    { r with cur := s.cur, flow := s.flow }
  else s

/-- A switched-out task of core `n` is restored, in the order of R434. -/
def State.restoreTask (s : State) (n : CoreId) (t : Task) : State :=
  let c := s.core n
  let home : Option (Fin 4) := (c.tasks.find? fun p => p.2.tid == t.tid).map (·.1)
  match home.orElse fun _ => c.freeBank with
  | none => s
  | some b =>
    let s := s.restorePart n t.ctx
    match (s.core n).saved.find? (·.tid == t.tid) with
    | none => s.resumeTask n b t false
    | some v =>
      let t := if v.task.isSome then { t with regs := s.dev.slotRegs v t.regs } else t
      let s := s.modCore n fun c =>
        { c with sb := c.sb ++ v.entries, saved := c.saved.filter (·.tid != t.tid),
                 mx := if v.released then c.mx.giveBack s.dev v else c.mx }
      s.resumeTask n b t v.released

/-- `CONTEXT_RESTORE` (R434): at the start of a compute phase, before a core concerned takes a turn in it, a switched-out task of the
subject's core is restored with its whole team. -/
def execContextRestore (s : State) : Out :=
  let c := s.core s.on.core
  let mine := ((c.tasks.map (·.2)) ++ c.saved.filterMap (·.task)).filter fun t => t.hold == .switched && s.restorable t
  .next <|
    match (rotateBy mine s.on.index).head? with
    | none => s
    | some t =>
      if s.exchange then s
      else
        let team := s.everyTask.filter fun p => p.2.team == t.team && p.2.job == t.job && p.2.hold == .switched
        if team.all fun p => (s.core p.1).opening then team.foldl (fun s p => s.restoreTask p.1 p.2) s else s

/-! ## Checkpoints and fault queues (R444, R445) -/

/-- `ckpt` (R444). -/
def execCkpt (a : SReg) (s : State) : Out :=
  issue s fun t =>
    let v := t.getS a
    if v.toNat % 32 ≠ 0 then s.bounds t v
    else .ok (s.modCctx t fun k => { k with ckpt := w64 (v.toNat % 2 ^ 56), ckph := s.dev.phase })

/-- An instruction of the supervisor; what fails the check is the context. -/
def supervised (f : Task → Act) (s : State) : Out :=
  issue s fun t => if (s.cctx t).sup then f t else s.bounds t (t.ctx.setWidth 64)

/-- The fault queue with the oldest record of a die that no `fqwait` has returned. -/
def Device.oldestFault (d : Device) (die : Bool) : Option FaultQ :=
  let age (q : FaultQ) : Option Nat := (q.dies.find? fun r => r.1 == die && !r.2.1).map (·.2.2)
  d.faultqs.foldl (fun o q =>
    match age q, o.bind age with
    | some a, some b => if a < b then some q else o
    | some _, none => some q
    | none, _ => o) none

/-- The oldest record of a die that has not been returned is. -/
def FaultQ.markReturned (q : FaultQ) (die : Bool) : FaultQ :=
  let before := q.dies.takeWhile fun r => !(r.1 == die && !r.2.1)
  { q with dies := before ++ match q.dies.drop before.length with | r :: rs => (r.1, true, r.2.2) :: rs | [] => [] }

/-- `fqwait` (R445). -/
def execFqwait (d : SReg) (s : State) : Out :=
  supervised (fun t =>
    match s.dev.oldestFault (dieOf s.cur) with
    | some q => .ok ((s.modDev (·.setFaultq (q.markReturned (dieOf s.cur)))).setLive (t.setS d (q.ctx.setWidth 64)))
    | none => .wait s { okind := 0x13, obj := BitVec.ofNat 48 (bit (dieOf s.cur)) }) s

/-- `c.fqcfg` of a context: of a core that holds it, or of its entry. -/
def State.fqcfgOf (s : State) (x : BitVec 16) : W64 :=
  match allCores.findSome? fun n => (s.core n).cctx x with
  | some k => k.fqcfg
  | none => s.ctxField x 5

/-- The 512 bytes of the oldest record of a queue; what an unmapped ring reads as is free. -/
def State.oldestRecord (s : State) (q : FaultQ) : List Byte :=
  let cfg := s.fqcfgOf q.ctx
  let va := cfg.fld 12 44 * 4096 + q.head % 2 ^ cfg.fld 0 4 * 512
  match s.translateDirect (BitVec.ofNat 8 ((s.ctxField q.ctx 0).fld 16 8)) va false with
  | .ok pa => s.dev.dram.read pa 512
  | .error _ => freeBytes s.free 512

/-- `fqpop` (R445). -/
def execFqpop (d a b : SReg) (s : State) : Out :=
  supervised (fun t =>
    match loftAddr (s.cctx t).psize (t.getS a) 512 512 with
    | none => s.bounds t (t.getS a)
    | some o =>
      let q := s.dev.faultq ((t.getS b).setWidth 16)
      if q.dies.isEmpty then .ok (s.setLive (t.setS d 0))
      else
        s.access t [(o, 512)] true false fun s =>
          let bs := s.oldestRecord q
          let s := (({ s with free := s.free + 512 } : State).modDev (·.setFaultq { q with head := q.head + 1, dies := q.dies.drop 1 })).loftWrite t o bs
          .ok (s.modLive fun t => t.setS d 1)) s

/-! ## Destruction (R438, R446) -/

/-- A core gives up everything of a context; the meters are folded first (R483). -/
def Core.forget (c : Core) (x : BitVec 16) : Core :=
  { c with
    banks := c.banks.map fun (b : Option Task) => b.filter (·.ctx != x),
    running := c.running && (c.banks[c.cbank]).all (·.ctx != x),
    ctxs := c.ctxs.filter (·.ctx != x),
    sb := c.sb.filter (·.ctx != x),
    syncs := c.syncs.filter (·.ctx != x),
    waitq := c.waitq.filter (·.ctx != x),
    mapCmds := c.mapCmds.filter (·.ctx != x),
    mx := if c.mx.owner = some x then c.mx.giveUp else c.mx,
    lanes := c.lanes.map fun l => l.filter (·.ctx != x),
    saved := c.saved.filter (·.ctx != x) }

/-- A context is destroyed (R438): nothing is saved and nothing is stamped. -/
def State.destroy (s : State) (x : BitVec 16) : State :=
  let tids := (s.everyTask.filter fun p => p.2.ctx == x).map fun p => p.2.tid
  let uids := (s.commandsOf x).map (·.2.uid)
  let s := allCores.foldl (fun s n => s.fold n x) s
  let s := { s with cores := s.cores.map fun (c : Core) => c.forget x }
  let s := s.modDev fun d =>
    { d.release (·.ctx == x) with
      net := d.net.filter (·.ctx != x), jobs := d.jobs.filter (·.2.ctx != x),
      grids := d.grids.filter (·.2.ctx != x), reserving := d.reserving.filter (·.2.rcd.ctx != x),
      applied := d.applied.filter fun i => !uids.contains i.2.1, kept := d.kept.filter fun i => !uids.contains i.1,
      wfHeld := d.wfHeld.filter (·.2 != x), victims := d.victims.filter (·.2.ctx != x), promised := d.promised.filter (·.2.ctx != x), cancelled := d.cancelled.filter (· != x) }
  (tids.foldl State.disown s).rewire

/-- `ctxkill` (R446): a context that is not active is left alone; a supervisor that destroys its own context ends with it. -/
def execCtxkill (a : SReg) (s : State) : Out :=
  supervised (fun t =>
    let x := (t.getS a).setWidth 16
    if (s.ctxEntry x).isNone then .ok s else if x = t.ctx then .ended (s.destroy x) else .ok (s.destroy x)) s

/-- The next compute phase. -/
def State.nextCompute (s : State) : W64 := if s.exchange then s.dev.phase + 1 else s.dev.phase + 2

/-- A task frozen under R424 continues at its `c.tpc` in a later compute phase; one that is leaving with its team does so once it is restored. Its transfers
stay cancelled until then (R330). -/
def Task.releaseUnhandled (t : Task) (strap : Bool) (start : W64) : Task :=
  { t with hold := if t.hold = .unhandled then .none else t.hold, stuck := false, inner := t.inner.filter (·.posted), pendStrag := if strap then t.pendStrag else none, pc := BitVec.ofNat 56 (t.ctl.tpc.fld 4 52 * 16), slot := Fin.ofNat 4 (t.ctl.tpc.fld 0 2), bundle := none,
           waiting := none, startPhase := if t.hold = .unhandled then some start else none, ctl := { t.ctl with cause := t.ctl.cause &&& ~~~(1#64 <<< 63) } }

/-- The trap settings of a context reloaded on every core that holds it, and its unhandled tasks released; what their handlers waited for is given
up (R372). -/
def State.releaseContext (s : State) (x : BitVec 16) : State :=
  let w4 := s.ctxField x 4
  let w5 := s.ctxField x 5
  let load (k : CoreCtx) : CoreCtx := if k.ctx == x then { k with tvec := w4, fqcfg := w5 } else k
  let freed (t : Task) : Bool := t.ctx == x && (t.hold == .unhandled || t.stuck)
  let go (k : Option CoreCtx) (t : Task) : Task := if freed t then t.releaseUnhandled (k.any (·.strap)) s.nextCompute else t
  let s := (s.everyTask.filter fun p => freed p.2).foldl (fun s p => s.endInner p.1 p.2) s
  { s with cores := s.cores.map fun c =>
      { c with ctxs := c.ctxs.map load, banks := c.banks.map fun (b : Option Task) => b.map (go (c.cctx x)),
               saved := c.saved.map fun v => { v with cctx := v.cctx.map load, task := v.task.map (go ((c.spilledCtx x).map (·.2))) } } }

/-- `ctxrel` (R446). -/
def execCtxrel (a : SReg) (s : State) : Out :=
  supervised (fun t =>
    let x := (t.getS a).setWidth 16
    if (s.ctxEntry x).isNone then .ok s else .ok (s.releaseContext x)) s

/-- A bit of bank `b` of a core was corrected (R494): at the 256th since start-up, PEND of a live bank is set (R63). -/
def Core.correct (c : Core) (b : Fin 32) : Core :=
  let k := c.corrected[b] + 1
  { c with corrected := c.corrected.set b k, pend := if 256 ≤ k ∧ c.live.getLsbD b.val then c.pend ||| (1#32 <<< b.val) else c.pend }

/-- A bit at a DRAM address was corrected: it counts for the bank in which the address lies (R64, R494). -/
def State.correctAt (s : State) (pa : Nat) : State :=
  match placeOf pa with
  | .dram n o =>
    match (s.core n).bankPlace o with
    | some p => s.modCore n fun c => c.correct (Fin.ofNat 32 p.bank)
    | none => s
  | _ => s

/-- A row of macro `i` keeps a parity mismatch, whatever it then reads (R494). -/
def MatUnit.corruptRow (m : MatUnit) (i : Fin 64) (row : Nat) (bs : List Byte) : MatUnit :=
  { m with array := m.array.write (i.val * 0x4000 + row * 64) (bs.take 64),
           macros := m.macros.set i { m.macros[i] with parity := m.macros[i].parity ||| (1#256 <<< row) } }

/-- The device holds something of a context: a partition, a save slot, a record, or a job. -/
def State.holdsContext (s : State) (x : BitVec 16) : Bool :=
  (allCores.any fun n =>
    let c := s.core n
    (c.cctx x).isSome || c.saved.any (·.ctx == x) || c.lanes.toList.any fun l => l.any (·.ctx == x))
  || s.dev.jobs.any (·.2.ctx == x) || s.dev.grids.any (·.2.ctx == x) || s.dev.reserving.any (·.2.rcd.ctx == x)

/-- `UNCORRECTABLE_ERROR` (R494): the context of the subject is destroyed, and the event is logged on the management port. With the subject's
flag the error is a single bit at its address that SEC-DED corrects, which counts for its bank; with its engine bit it is a parity mismatch of a
macro row that persists. -/
def execUncorrectableError (s : State) : Out :=
  .next (
    if s.on.flag then s.correctAt s.on.addr.toNat
    else if s.on.engine then
      s.modCore s.on.core fun c => { c with mx := c.mx.corruptRow (Fin.ofNat 64 s.on.index) (s.on.index2 % 256) s.on.data }
    else if s.holdsContext s.on.ctx then
      let s' := (s.destroy s.on.ctx).modDev fun d => { d with log := d.log ++ [s.on.ctx] }
      { s' with outbox := s'.outbox ++ [.log s.on.ctx] }
    else s)

end Sys2Proof.Machine
end

