-- ==== Sys2Proof/Machine/Fetch.lean ====
section
/-!
DEFINITION. From a task's program counter to its decoded bundle: traps that are pending (R333, R376, R419), translation maintenance in
progress (R89), instruction fetch (R169), the breakpoint register (R425) and the decode-time traps (R52).
-/
namespace Sys2Proof.Machine

/-- What comes before a group: the task does something else now, or its bundle is decoded. -/
inductive Prep where
  | stop (s : State)
  | go (s : State) (t : Task) (l : List Slot)
deriving Repr

/-- DETAIL of a failing check of R52. -/
def decodeTrap (e : DecodeError) (slot : Fin 4) (bun : BitVec 128) (pc : BitVec 56) : Trap :=
  let ill (d : BitVec 8) : Trap := { cls := 0x01, detail := d, slot := slot, retPc := pc }
  match e with
  | .illegalMajor => ill 1
  | .wrongClass => ill 2
  | .badField => ill 3
  | .reservedMajor =>
    { cls := 0x02, slot := slot, retPc := pc,
      info := if hasHeader bun then w64 (headerExt bun 3 * 2 ^ 18 + headerExt bun 2 * 2 ^ 9 + headerExt bun 1) else 0 }

/-- The first slot of the group about to issue: a header belongs to no group, so the first group of its bundle begins at slot 1
(R39, R43). -/
def firstSlot (l : List Slot) (k : Fin 4) : Fin 4 :=
  match l with
  | p :: _ => if k.val < p.slot then Fin.ofNat 4 p.slot else k
  | [] => k

/-- The bundle of the live task is in hand: the breakpoint register, then the checks of R52, which a bundle passes once. -/
def State.decodeAt (s : State) (t : Task) (bun : BitVec 128) (entered : Bool) : Prep :=
  let k := t.ctl.bkpt
  if !entered && t.slot = 0 && k.getLsbD 0 && k.fld 4 52 == t.pc.toNat / 16 && !t.skipBkpt then
    .stop (s.takeTrap t { cls := 0x0A, detail := 0x02, retPc := t.pc })
  else
    match decodeBundle bun with
    | .error (e, i) => .stop (s.takeTrap t (decodeTrap e (Fin.ofNat 4 i) bun t.pc))
    | .ok l =>
      let t := { t with skipBkpt := false, slot := firstSlot l t.slot }
      .go (({ s with slot := t.slot } : State).setLive t) t l

/-- The map unit's command of an instruction fetch that completes at once: its sequence number is used (R120). A fetch that the task
waited for has had its own. -/
def State.countFetch (s : State) (t : Task) : State :=
  if t.waiting.any (·.okind == 0x0D) then s else s.modCore s.cur fun c => (c.takeMapHandle s.cur).2

/-- What the fetch of a granule that the core can translate moves: its granule of DRAM (R480, R487). A fetch that the task waited for has moved it. -/
def State.moveFetch (s : State) (t : Task) (pa : Nat) : State :=
  if t.waiting.any (·.okind == 0x0D) then s else (s.readBeat pa).chargeDram s.cur t.ctx 64

/-- The bundle of the live task: the one it holds, one that a fetch the task waits for will bring, one whose granule the core can
translate, or one to be fetched (R169). -/
def State.fetchAt (s : State) (t : Task) : Prep :=
  match t.bundle with
  | some b => s.decodeAt t b true
  | none =>
    let va := t.pc.toNat
    let g := va / 64 * 64
    match (s.core s.cur).fetchOf t.tid g with
    | some k => .stop (s.registerWait t { okind := 0x0D, obj := BitVec.ofNat 48 g, owner := .cmd k.handle none })
    | none =>
      match s.codeAt s.cur (s.cctx t).asn va with
      | some pa =>
        let t := { t with bundle := some (BitVec.ofNat 128 (s.dev.dram.num pa 16)) }
        (((s.countFetch t).moveFetch t pa).setLive t).decodeAt t (t.bundle.getD 0) false
      | none =>
        let (k, s) := s.startFetch s.cur t g
        .stop (s.registerWait t { okind := 0x0D, obj := BitVec.ofNat 48 g, owner := .cmd k.handle none })

/-- A trap that waits for the task to issue (R333, R376): a straggler trap once no freeze handler runs, a deadlock trap when the
waiting group issues. -/
def Task.pending (t : Task) : Option (Trap × Task) :=
  match t.pendStrag, t.pendDeadlock with
  | some c, d =>
    if !t.preempted && !t.resumed then some (here t { c with slot := t.slot }, { t with pendStrag := none }) else dead t d
  | none, d => dead t d
where
  /-- A trap at the group that is about to issue. -/
  here (t : Task) (c : Trap) : Trap := { c with retPc := t.pc, retSlot := if c.cls = 0x04 then t.groupSlot else t.slot }
  /-- The deadlock trap of the group that waited, or of the next one. -/
  dead (t : Task) (d : Option (Bool × Trap)) : Option (Trap × Task) :=
    match d with
    | some (h, c) => if h = t.inHandler then some (here t c, { t with pendDeadlock := none }) else none
    | none => none

/-- A store of the task that was refused at its home: the task waits until its command is resumed and it has performed (R383, R401). -/
def State.postFault (s : State) (t : Task) : Option Wait :=
  t.posts.findSome? fun r =>
    (((s.core s.cur).mapCmds.find? (·.uid == r.uid)).filter fun _ => !s.onItsWay r.uid).map fun k =>
      { okind := 0x12, obj := BitVec.ofNat 48 (recordBase k.src), owner := .cmd k.handle none }

/-- Such a store whose command has been resumed is sent again, in an exchange; one whose command has been aborted is forgotten. -/
def State.repost (s : State) (t : Task) : State × Task :=
  t.posts.foldl (fun (s, t) r =>
    match (s.core s.cur).mapCmds.find? (·.uid == r.uid) with
    | none => (s, t.unnote r.uid)
    | some k =>
      if k.status == .faulted || s.onItsWay r.uid || !s.exchange then (s, t)
      else
        let send (a : Nat) : State × Task :=
          let r := { r with addr := a }
          (s.sendPacket { uid := r.uid, seq := 0, core := s.cur, ctx := t.ctx, tid := t.tid, addr := a, sync := some r }, t)
        if !k.imaged then send r.addr
        else
          match s.recordAddr s.cur k (r.addr % 64) true with
          | .ok a => send a
          | .error (.held s) => (s, t)
          | .error (.fault c a) => (s.faultCmd s.cur k.uid c a, t)) (s, t)

/-- Everything that comes before the live task's next group. -/
def State.prepare (s : State) (t : Task) : Prep :=
  let s := { s with slot := t.slot }
  let (s, t) := s.repost t
  match t.pending with
  | some (c, t) => .stop ((s.setLive t).takeTrap t c)
  | none =>
    match s.postFault t with
    | some w => .stop (s.registerWait t w)
    | none =>
      match t.invalidating with
      | [] => s.fetchAt t
      | us =>
        if s.dev.invs.all fun v => !us.contains v.uid || s.invalidated v.asn then s.closeInvs.fetchAt { t with invalidating := [] }
        else .stop (s.registerWait t { okind := 0, obj := 0, edge := false })

/-- `BUNDLE_DECODE` (R52): the bundle of the subject core's live task is decoded whole before any group of it performs. -/
def execBundleDecode (s : State) : Out :=
  let s' := { s with cur := s.on.core }
  .next <|
    match s'.live with
    | none => s
    | some t =>
      if t.hold != .none || t.ctl.arr || !t.started || t.image != 0 || t.waiting.isSome then s
      else
        match s'.prepare t with
        | .stop r => { r with cur := s.cur }
        | .go r _ _ => { r with cur := s.cur }

end Sys2Proof.Machine
end

