-- ==== Sys2Proof/Machine/Boundary.lean ====
section
/-!
DEFINITION. Phase boundaries (R321 to R325), budgets and stragglers (R329 to R333), truncation and the freeze (R332), and the choice of
the tasks that a pre-emption takes away (R350, R429).
-/
namespace Sys2Proof.Machine

/-! ## Tasks held over, frozen or resumed -/

/-- Every resident task changed. -/
def State.mapTasks (s : State) (f : CoreId → Core → Task → Task) : State :=
  { s with cores := Vector.ofFn fun (n : Fin 128) =>
      let c := s.cores[n]
      { c with banks := c.banks.map fun (b : Option Task) => b.map (f n c) } }

/-- A task becomes a straggler: held over, with STRG = 1 and TRN = 0, and with STRAP its trap waits for it (R329, R333). -/
def Task.straggle (t : Task) (phase : W64) : Task :=
  { t with hold := .heldOver, cut := true, ctl := { t.ctl with strg := true, trn := false },
           pendStrag := some { cls := 0x07, info := phase, retPc := t.pc, retSlot := t.slot } }

/-- The participating tasks of a context on core `n` become stragglers, each with its event record. -/
def State.straggleAll (s : State) (n : CoreId) (x : BitVec 16) : State :=
  (s.core n).tasks.foldl (fun s p =>
    if p.2.ctx == x && p.2.participates then
      (s.modBank n p.1 (·.straggle s.dev.phase)).report n x 0x02 p.2.tid [] []
    else s) s

/-- A held-over task participates again, ahead of others; the straggler trap is kept under STRAP alone (R333). -/
def Task.resume (t : Task) (strap : Bool) : Task :=
  if t.hold = .heldOver then { t with hold := .none, cut := false, ahead := true, pendStrag := if strap then t.pendStrag else none } else t

/-- A task whose phase has begun starts; the transfers of one that participates anew are no longer cancelled (R330). -/
def Task.begin_ (t : Task) (phase : W64) : Task :=
  if t.startPhase = some phase then { t with startPhase := none, cut := t.cut && t.hold != .none } else t

/-- An arrived task whose target is reached proceeds (R323). -/
def Task.proceed (t : Task) (phase : W64) : Task :=
  if t.ctl.arr && t.ctl.tgt.toNat ≤ phase.toNat then { t with ctl := { t.ctl with arr := false, tgt := 0 } } else t

/-- A task with its bank comes before another: one that was held over first (R333); then higher EFF, then the lower virtual time of its
context, then the lower bank (R348). -/
def Core.before (c : Core) (p q : Fin 4 × Task) : Bool :=
  let v (t : Task) : Nat := ((c.cctx t.ctx).map (·.vtime)).getD 0
  if p.2.ahead ≠ q.2.ahead then p.2.ahead
  else if p.2.ctl.eff ≠ q.2.ctl.eff then q.2.ctl.eff < p.2.ctl.eff
  else if v p.2 ≠ v q.2 then v p.2 < v q.2
  else p.1 < q.1

/-- The first of several. -/
def Core.best (c : Core) (ps : List (Fin 4 × Task)) : Option (Fin 4 × Task) :=
  ps.foldl (fun o p => match o with | some q => if c.before p q then some p else o | none => some p) none

/-- The held-over task of a core that runs first. -/
def Core.firstHeld (c : Core) : Option (Fin 4) := (c.best (c.tasks.filter fun p => p.2.hold == .heldOver)).map (·.1)

/-! ## Truncation (R332, R350, R429) -/

/-- A trap entered by the task of a bank other than the live one. -/
def State.trapAt (s : State) (n : CoreId) (b : Fin 4) (c : Trap) : State :=
  match s.bank n b with
  | none => s
  | some t =>
    let r := (({ s with cur := n } : State).modCore n fun k => { k with cbank := b }).takeTrap t c
    { r.modCore n fun k => { k with cbank := (s.core n).cbank } with cur := s.cur, flow := s.flow }

/-- MXOUT for a task of core `n` that makes way for a record. -/
def State.mxout (s : State) (n : CoreId) (r : QRec) (t : Task) : Bool := r.mx && (s.core n).mx.owner == some t.ctx

/-- The task is not about to leave already. -/
def Task.stays (t : Task) : Bool := (t.hold == .none || t.hold == .heldOver) && t.pendFreeze.isNone

/-- The tasks of a core that may leave for a record (R350, R430): every core of the team has a free save slot. -/
def State.mayGo (s : State) (n : CoreId) (r : QRec) : List (Fin 4 × Task) :=
  (s.core n).tasks.filter fun p =>
    let k := s.ctxOn n p.2.ctx
    p.2.ctx != r.ctx && p.2.ctl.eff.val < s.aged r && p.2.stays
      && !(s.mxout n r p.2 && !k.tvec.getLsbD 63) && k.lsize != 32
      && p.2.paddock.all fun m => (s.core m).slotSpare m

/-- The one that leaves: the lowest EFF, then the lowest bank. -/
def lowestEff (ps : List (Fin 4 × Task)) : Option (Fin 4 × Task) :=
  ps.foldl (fun o p => match o with | some (q : Fin 4 × Task) => if p.2.ctl.eff.val < q.2.ctl.eff.val then some p else o | none => some p) none

/-- A task of a team that leaves takes the freeze trap, at once or at `rett` (R423, R429); from the start of the compute phase after the
next exchange the device may switch it (R430). An unhandled member takes no trap; the device switches it (R351, R424). -/
def State.freezeOut (s : State) (n : CoreId) (b : Fin 4) (t : Task) (r : QRec) : State :=
  let c : Trap := { cls := 0x08, detail := 0x01, slot := t.slot, info := w64b (s.mxout n r t), retPc := t.pc, retSlot := t.slot }
  let v := (s.ctxOn n t.ctx).tvec.getLsbD 63
  if t.hold = .unhandled then s.modBank n b fun t => { t with hold := .handler, stuck := true }
  else
    let s := if t.inHandler && v then s
      else s.modBank n b fun t => { t with hold := .handler, startPhase := some s.nextCompute, drainedU := false }
    s.trapAt n b c

/-- The task that leaves for a record takes its whole team with it, and the record is promised the freed bank; where none may leave, nothing is done
for it. -/
def State.leaveFor (s : State) (n : CoreId) (r : QRec) : State :=
  match lowestEff (s.mayGo n r) with
  | none => s
  | some (_, t) =>
    let team := s.tasks.filter fun p => p.2.2.team == t.team && p.2.2.job == t.job && (p.2.2.stays || p.2.2.hold == .unhandled)
    (team.foldl (fun s p => s.freezeOut p.1 p.2.1 p.2.2 r) s).modDev fun d => { d with promised := d.promised ++ [(n, r)] }

/-- Every core freezes: each task that participates is held over with TRN = 1, every matrix unit stops, and the tasks that pre-emptions
take away enter their freeze handlers. -/
def State.truncate (s : State) : State :=
  let s := s.mapTasks fun _ _ t =>
    if t.participates then { t with hold := .heldOver, cut := true, ctl := { t.ctl with trn := true } } else t
  let s := { s with cores := s.cores.map fun (c : Core) => { c with mx := { c.mx with frozen := true } } }
  let victims := s.dev.victims
  let s := s.modDev fun d => { d with trunc := false, truncated := true, victims := [] }
  victims.foldl (fun s v => s.leaveFor v.1 v.2) s

/-- `TRUNCATION` (R332): a request takes effect in a compute phase. -/
def execTruncation (s : State) : Out := .next (if s.dev.trunc && !s.exchange then s.truncate else s)

/-! ## The counter advances (R323) -/

/-- The phase has lasted at least 64 core cycles (R325). -/
def State.longEnough (s : State) : Bool := 64 ≤ s.dev.now - s.dev.phaseStart

/-- The counter advances: the phase's length is a sample of both dies (R487), ELAP restarts, and arrived tasks whose target is reached
proceed. No core runs a task on from the phase before. -/
def State.advance (s : State) : State :=
  let len := s.dev.now - s.dev.phaseStart
  let s := s.modDev fun d =>
    { (d.sample false 0 len).sample true 0 len with phase := d.phase + 1, phaseStart := d.now, truncated := false }
  { s with cores := s.cores.map fun (c : Core) =>
      { c with running := false, yield := false,
               banks := c.banks.map fun (b : Option Task) => b.map fun t => { (t.begin_ s.dev.phase).proceed s.dev.phase with ahead := false },
               saved := c.saved.map fun v => { v with task := v.task.map fun t => (t.begin_ s.dev.phase).proceed s.dev.phase } } }

/-- An exchange begins: write-backs of WB = 0b10 start (R84), and each core may ask to steal again (R354). -/
def State.beginExchange (s : State) : State :=
  allCores.foldl (fun s n => (s.startSweep n).modCore n fun c => { c with steals := 0 }) s

/-- `COMPUTE_CLOSE` (R321, R323, R325): no task participates; the device does not idle in an exchange. A truncation that was requested
freezes the cores first. -/
def execComputeClose (s : State) : Out :=
  .next <|
    if s.dev.power != .running || s.exchange || !s.longEnough || s.someParticipates || (s.tasks.isEmpty && !s.transfersLive) then s
    else (if s.dev.trunc then s.truncate else s).advance.beginExchange

/-- A compute phase begins: switched-out tasks may be restored (R434), meters are folded (R483), held-over tasks participate again and
run first (R333), stolen records may be placed (R354), units that no switched or resumed task holds leave the frozen state (R280), and a
truncation that was requested takes effect before any group issues. -/
def State.beginCompute (s : State) : State :=
  let s := (s.modDev fun d => { d with cancelled := [] }).foldAll
  let s := { s with cores := s.cores.map fun (c : Core) =>
      { c with cbank := c.firstHeld.getD c.cbank, opening := true, stealing := none,
               lanes := c.lanes.map fun (l : List QRec) => l.map QRec.settle } }
  let s := s.mapTasks fun _ c t => t.resume ((c.cctx t.ctx).any (·.strap))
  let s := { s with cores := s.cores.map fun (c : Core) => { c with mx := { c.mx with frozen := c.mx.frozen && c.keepsFrozen } } }
  if s.dev.trunc then s.truncate else s

/-- `EXCHANGE_CLOSE` (R322, R323, R325): no task participates, no transfer is live, and every granule has performed. -/
def execExchangeClose (s : State) : Out :=
  .next <|
    if s.dev.power != .running || !s.exchange || !s.longEnough || s.someParticipates || s.transfersLive || !s.dev.net.isEmpty then s
    else s.advance.beginCompute

/-! ## Budgets (R329, R331) -/

/-- The budget of a context on a core has expired in the current phase. -/
def State.expired (s : State) (n : CoreId) (x : BitVec 16) : Bool :=
  match (s.core n).cctx x with
  | some k => k.budget s.exchange ≤ s.elap
  | none => false

/-- `COMPUTE_BUDGET_EXPIRY` (R329). -/
def execComputeBudgetExpiry (s : State) : Out :=
  .next (if !s.exchange && s.expired s.on.core s.on.ctx then s.straggleAll s.on.core s.on.ctx else s)

/-- The `mtacc` operations of a context end with SRCH, naming the first member not applied. -/
def State.cancelMtaccs (s : State) (x : BitVec 16) : State :=
  allCores.foldl (fun s n =>
    (s.core n).mx.mtaccs.foldl (fun s m =>
      if m.ctx == x then s.finishMtacc n m (match m.todo with | (i, _) :: _ => srchBits i | [] => 0) else s) s) s

/-- `EXCHANGE_BUDGET_EXPIRY` (R329, R331): stragglers, and every live transfer of the context is cancelled. -/
def execExchangeBudgetExpiry (s : State) : Out :=
  let x := s.on.ctx
  .next <|
    if s.exchange && s.expired s.on.core x then
      let s := s.straggleAll s.on.core x
      if s.dev.cancelled.contains x then s else (s.modDev fun d => { d with cancelled := d.cancelled ++ [x] }).cancelMtaccs x
    else s

end Sys2Proof.Machine
end

