-- ==== Sys2Proof/Machine/Hash.lean ====
section
/-!
DEFINITION. The tag function of the management port: R467 names HMAC with SHA-256 and both standards. The constants are computed from what
defines them, fractional parts of roots of the first primes, and the hash is a fold of words over its blocks.
-/
namespace Sys2Proof.Machine

/-- The primes below 312: the first 64. -/
def hashPrimes : List Nat := (List.range 312).filter fun p => 2 ≤ p && (List.range 18).all fun d => d < 2 || d == p || p % d != 0

/-- The largest r below 2^n with r^e ≤ x, from its bits downward. -/
def intRoot (e x : Nat) : Nat → Nat → Nat
  | 0, r => r
  | n + 1, r => intRoot e x n (if (r + 2 ^ n) ^ e ≤ x then r + 2 ^ n else r)

/-- The first 32 bits of the fractional part of the e-th root of p. -/
def rootWord (e p : Nat) : BitVec 32 := BitVec.ofNat 32 (intRoot e (p * 2 ^ (32 * e)) 37 0)

/-- The word added in each round. -/
def hashAdders : List (BitVec 32) := hashPrimes.map (rootWord 3)

/-- The eight words before the first block. -/
def hashStart : List (BitVec 32) := (hashPrimes.take 8).map (rootWord 2)

/-- The exclusive or of a word turned right by each of several counts. -/
def turned (x : BitVec 32) (ns : List Nat) : BitVec 32 := ns.foldl (fun v n => v ^^^ ((x >>> n) ||| (x <<< (32 - n)))) 0

/-- The chain of eight words after one round that takes in `v`, the sum of its adder and its message word. -/
def hashRound (v : BitVec 32) : List (BitVec 32) → List (BitVec 32)
  | [p0, p1, p2, p3, q0, q1, q2, q3] =>
    let pick := q2 ^^^ (q0 &&& (q1 ^^^ q2))
    let most := (p0 &&& p1) ||| (p2 &&& (p0 ||| p1))
    let grown := v + q3 + pick + turned q0 [6, 11, 25]
    [grown + most + turned p0 [2, 13, 22], p0, p1, p2, p3 + grown, q0, q1, q2]
  | ws => ws

/-- All rounds of a block. The window holds the sixteen message words to come, and grows by one word in each round. -/
def hashRounds : List (BitVec 32) → List (BitVec 32) → List (BitVec 32) → List (BitVec 32)
  | [], _, chain => chain
  | k :: ks, window, chain =>
    let w (i : Nat) : BitVec 32 := window.getD i 0
    let early := turned (w 1) [7, 18] ^^^ (w 1 >>> 3)
    let late := turned (w 14) [17, 19] ^^^ (w 14 >>> 10)
    hashRounds ks (window.tail ++ [late + w 9 + early + w 0]) (hashRound (k + w 0) chain)

/-- A big-endian number of bytes. -/
def beNat (bs : List Byte) : Nat := bs.foldl (fun v b => v * 256 + b.toNat) 0

/-- The `n` bytes of a number, most significant first. -/
def beBytes : Nat → Nat → List Byte
  | 0, _ => []
  | n + 1, v => BitVec.ofNat 8 (v / 256 ^ n) :: beBytes n v

/-- The chain after `n` blocks of 64 bytes. -/
def hashBlocks : Nat → List Byte → List (BitVec 32) → List (BitVec 32)
  | 0, _, chain => chain
  | n + 1, bs, chain =>
    let window := (List.range 16).map fun i => BitVec.ofNat 32 (beNat ((bs.drop (4 * i)).take 4))
    hashBlocks n (bs.drop 64) (List.zipWith (· + ·) chain (hashRounds hashAdders window chain))

/-- The digest of a message, which a 1 bit, zeros and its length in bits fill up to whole blocks. -/
def sha256 (m : List Byte) : List Byte :=
  let n := (m.length + 72) / 64
  let filled := m ++ [0x80] ++ List.replicate (64 * n - m.length - 9) 0 ++ beBytes 8 (m.length * 8)
  let chain := hashBlocks n filled hashStart
  (List.range 8).flatMap fun i => beBytes 4 (chain.getD i 0).toNat

/-- The keyed digest, for a key of at most one block. -/
def hmac (key m : List Byte) : List Byte :=
  let pad (b : Byte) : List Byte := (List.range 64).map fun i => key.getD i 0 ^^^ b
  sha256 (pad 0x5C ++ sha256 (pad 0x36 ++ m))

end Sys2Proof.Machine
end

