-- ==== Sys2Proof/Machine/Stock.lean ====
section
/-!
DEFINITION. The stock library (R277): eight routines of micro-words that start-up writes into words 256 … 1023 of every microprogram
store, with entries 0 … 7. R277 states what each routine does; the words that do it are the model's own (log entry 22). Branch targets
are offsets from the routine's first word until `assemble` places it.
-/
namespace Sys2Proof.Machine

/-- `uldm ax, mn, pos, wid`. -/
def uField (x m : Fin 8) (pos wid : Fin 64) : MicroOp := .uldm x m false pos wid

/-- A branch that is always taken, on a loop counter, or on an a-register that is zero. -/
def uGo (t : Fin 8192) : MicroOp := .ubr 0 0 0 t
/-- Branch while a loop counter, decremented, is not zero. -/
def uLoop (k : Fin 4) (t : Fin 8192) : MicroOp := .ubr 1 k 0 t
/-- Branch when an a-register is zero. -/
def uIfZ (y : Fin 8) (t : Fin 8192) : MicroOp := .ubr 2 0 y t

/-- What the parameters m1 and m2 say of a pass, from offset `o`: a0 first macro, a1 accumulator row, a2 column, a3 the operand of
`upass.ind`, a7 the fan; `forced`: SET whatever m2 says. 21 words. -/
def stockPass (o : Fin 8192) (forced : Bool) : List MicroOp :=
  [uField 0 1 0 6, uField 1 2 0 7, uField 2 2 16 9, uField 3 1 8 6, uField 6 1 16 2,
   .uldi 7 1, uIfZ 6 (o + 18), .uldi 7 2, .uadd 3 3 64, .uadd 6 6 (-1),
   uIfZ 6 (o + 18), .uldi 7 4, .uadd 3 3 64, .uadd 6 6 (-1), uIfZ 6 (o + 18), .uldi 7 8, .uadd 3 3 64, .unop,
   if forced then .uldi 6 1 else uField 6 2 32 1, uIfZ 6 (o + 21), .uadd 3 3 256]

/-- Passes over rows, from offset `o`, after `stockPass`: a4 the first row or granule, a5 the exponent, `rows` leaves the number of
passes less 1 in a6, and for each pass a6 selects slots from `sel` on while `feed` fills them, a4 advancing by `step`. 14 words. -/
def stockRows (o : Fin 8192) (first expo rows sel feed : MicroOp) (step : BitVec 24) : List MicroOp :=
  [first, expo, rows, .uadd 6 6 1, .ulc 0 6,
   sel, .ulc 1 7, feed, .uadd 4 4 step, .uadd 6 6 16, uLoop 1 (o + 7),
   .upass 0 1 2 0 0 false false true 3, .uadd 1 1 1, uLoop 0 (o + 5)]

/-- The feed of a tile row, of the manger and of a loft granule, its slot and tile taken from a6. -/
def feedTile : MicroOp := .ufeed 0 4 5 0 0 true 6
/-- The feed of a manger row. -/
def feedManger : MicroOp := .ufeed 0 0 0 1 0 true 6
/-- The feed of a loft granule. -/
def feedLoft : MicroOp := .ufeed 0 4 5 2 0 true 6

/-- Rows of a tile, `rows` less 1 of them. -/
def stockTile (o : Fin 8192) (rows : MicroOp) : List MicroOp :=
  stockRows o (uField 4 0 8 8) (uField 5 0 24 8) rows (uField 6 0 0 4) feedTile 1

/-- `mvt`. -/
def stockMvt : List MicroOp := stockPass 0 false ++ stockTile 21 (.uldi 6 0)
/-- `mmt`. -/
def stockMmt : List MicroOp := stockPass 0 false ++ stockTile 21 (uField 6 0 16 8)
/-- `mmg`. -/
def stockMmg : List MicroOp := stockPass 0 false ++ stockRows 21 .unop .unop (uField 6 0 0 8) (.uldi 6 0) feedManger 0
/-- `mvl`. -/
def stockMvl : List MicroOp :=
  stockPass 0 false ++ stockRows 21 (uField 4 0 0 16) (uField 5 0 24 8) (.uldi 6 0) (.uldi 6 0) feedLoft 4

/-- `dfb`: after the passes, the upper half of the status holds WFIN × 2^8 and, from 2^15 up, CLIP, INF and six bits more. It is clean
when, for one of four windows and one of 64 values of those six bits, nothing is left. Else all passes run again. -/
def stockDfb : List MicroOp :=
  stockPass 0 true ++ stockTile 21 (uField 6 0 16 8) ++
  [.ustat 6 0, .uldi 7 4, .ulc 2 7,
   .uldi 5 64, .ulc 3 5, .uadd 7 6 0,
   uIfZ 7 86, .uadd 7 7 (-131072), uLoop 3 41, .uadd 6 6 (-256), uLoop 2 38,
   .ustat 6 1, .uldi 6 8, .uspl 6, .unop, .unop] ++
  stockPass 51 true ++ stockTile 72 (uField 6 0 16 8)

/-- `cal`: a1 and a2 the first and last macro, a0 the result of `ucal`, found by counting down. -/
def stockCal : List MicroOp :=
  [uField 1 1 0 6, uField 2 1 0 6, uField 3 1 8 6, uIfZ 3 7, .ulc 0 3, .uadd 2 2 1, uLoop 0 5, .ucal 0 1 2] ++
  ((List.finRange 16).flatMap fun v =>
    [uIfZ 0 (8 + 4 * v.castLE (by decide) + 2), uGo (8 + 4 * v.castLE (by decide) + 4 - 1),
     .ustat 1 (BitVec.ofNat 8 v.val), .uadd 0 0 (-1)])

/-- `drn`: a3 selects the tile, and the bounds with 16 added. -/
def stockDrn : List MicroOp :=
  [uField 0 2 0 7, uField 1 0 8 8, uField 2 2 16 9, uField 3 0 0 4, uField 6 0 24 1, uIfZ 6 7, .uadd 3 3 16,
   uField 6 0 16 8, .uadd 6 6 1, .ulc 0 6,
   .uout 0 1 2 0 false true 3, .uadd 0 0 1, .uadd 1 1 1, uLoop 0 10]

/-- `zro`. -/
def stockZro : List MicroOp := [uField 0 2 0 7, uField 1 0 0 7, .uadd 1 1 1, .uzero 0 1]

/-- The routines by their entry number. -/
def stockRoutines : List (List MicroOp) := [stockMvt, stockMmt, stockMmg, stockMvl, stockDfb, stockCal, stockDrn, stockZro]

/-- A routine's words placed at a word of the store; a last word ends it. -/
def assemble (base : Nat) (ops : List MicroOp) : List W64 :=
  (ops.map fun o =>
    encodeMicro (match o with | .ubr c k y t => .ubr c k y (Fin.ofNat 8192 (t.val + base)) | o => o) false false)
    ++ [encodeMicro .unop true false]

/-- Routines placed one after another: each with its entry number and first word. -/
def placeStock : Nat → Nat → List (List MicroOp) → List (Nat × Nat × List W64)
  | _, _, [] => []
  | i, base, r :: rs => (i, base, assemble base r) :: placeStock (i + 1) (base + r.length + 1) rs

/-- The microprogram store as start-up leaves it: entries 0 … 7 valid, entries 8 … 255 invalid. -/
def stockStore : Mem :=
  (placeStock 0 256 stockRoutines).foldl (fun m p =>
    (m.setNum (p.1 * 8) 8 (2 ^ 63 + p.2.1)).write (p.2.1 * 8) (p.2.2.flatMap fun w => leBytes 8 w.toNat)) []

end Sys2Proof.Machine
end

