-- ==== Sys2Proof/Machine/Start.lean ====
section
/-!
DEFINITION. Calibration, temperature and power (R245 to R247, R259, R493), and start-up (R489 to R492).
-/
namespace Sys2Proof.Machine

/-! ## Calibration (R245, R259) -/

/-- A column offset as a calibration may leave it. -/
def clampOffset (v : Int) : Int := Max.max (-16) (Min.min 15 v)

/-- A calibration of macro `i` ends: it fails, and the offsets keep their values, or every column takes an offset. -/
def MatUnit.endCalibration (m : MatUnit) (i : Fin 64) (tnow : BitVec 16) (seed : Nat) : MatUnit :=
  if Config.calibrationFails seed then
    m.modMacro i fun x => { x with busy := false, fail := true, uncal := true, tcal := tnow, age := 0 }
  else
    { m.modMacro i fun x => { x with busy := false, fail := false, uncal := false, stale := false, tcal := tnow, age := 0 } with
      offs := m.offs.write (i.val * 512)
        ((List.range 512).map fun c => BitVec.ofInt 8 (clampOffset (Config.calibration (seed + c)))) }

/-- `CALIBRATION_START` (R259): held calibrations of the subject's core start, where a macro is in compute mode and no running call may use
it. -/
def execCalibrationStart (s : State) : Out :=
  .next (s.modUnit s.on.core MatUnit.startHeld)

/-- `CALIBRATION_END` (R245). -/
def execCalibrationEnd (s : State) : Out :=
  let n := s.on.core
  let i : Fin 64 := Fin.ofNat 64 s.on.index
  .next <|
    if (s.core n).mx.macros[i].busy then
      ({ s with free := s.free + 512 } : State).modUnit n (·.endCalibration i (s.core n).tnow s.free)
    else s

/-- What a sample or an AGE step detects (R246, R247). -/
def MacroSt.recheck (m : MacroSt) (tnow : BitVec 16) : MacroSt :=
  let d := (tnow.toInt - m.tcal.toInt).natAbs
  let valid := !m.fail && d ≤ 128 && m.age < 0x100000
  { m with stale := m.stale || !valid, uncal := m.uncal || 640 < d || m.age == 0xFFFFFF }

/-- The macros of a core, each changed and checked. -/
def Core.recheck (c : Core) (f : MacroSt → MacroSt) : Core :=
  { c with mx := { c.mx with macros := c.mx.macros.map fun x => (f x).recheck c.tnow } }

/-- `AGE_STEP` (R246): a millisecond passes for every macro of every core. -/
def execAgeStep (s : State) : Out :=
  let older (x : MacroSt) : MacroSt := { x with age := if x.age < 0xFFFFFF then x.age + 1 else x.age }
  .next { s with cores := s.cores.map fun (c : Core) => c.recheck older }

/-! ## The start-up report (R492) -/

/-- Everything that a start finds, as far as it comes. -/
structure Findings where
  unavailable : List CoreId := []
  live : List (BitVec 32) := []
  failed : List Nat := []
  version : Nat := 0
deriving DecidableEq, Repr

/-- The report of a start. -/
def reportBytes (f : Flash) (reason : Nat) (minimal : Bool) (v : Findings) : Mem :=
  let pad (n : Nat) (bs : List Byte) : List Byte := (bs ++ zeroBytes n).take n
  Mem.cells 0 (leBytes 8 (2 ^ 48 + reason * 2 ^ 40 + Min.min f.starts (2 ^ 32 - 1)) ++ leBytes 8 (Min.min f.fails 255 + bit minimal * 256)
    ++ leBytes 16 ((v.unavailable.map fun n => 2 ^ n.val).sum) ++ pad 128 (v.live.map fun l => BitVec.ofNat 8 (popcount32 l))
    ++ pad 1024 (v.failed.flatMap (leBytes 8)) ++ leBytes 8 v.version ++ zeroBytes 24)

/-- A start fails (R491): after the third in a row, the device enters minimal mode. -/
def State.failStart (s : State) (reason : Nat) (v : Findings) : State :=
  let f : Flash := { s.dev.flash with fails := s.dev.flash.fails + 1 }
  let minimal := decide (3 ≤ f.fails)
  s.modDev fun d =>
    { d with power := if minimal then .minimal else .failed, flash := f,
             mgmt := { d.mgmt with report := reportBytes f reason minimal v } }

/-! ## The boot record (R490) -/

/-- Eight bytes of the flash image as a word. -/
def Flash.word (f : Flash) (a : Nat) : W64 := w64 (f.image.num a 8)

/-- Segment `i` of the boot record: address, flash offset, length. -/
def Flash.segment (f : Flash) (i : Nat) : Nat × Nat × Nat :=
  let a := Config.bootOffset 0 + 0x80 + 24 * i
  ((f.word a).toNat, (f.word (a + 8)).toNat, (f.word (a + 16)).toNat)

/-- The segments of the boot record. -/
def Flash.segments (f : Flash) : List (Nat × Nat × Nat) :=
  (List.range ((f.word (Config.bootOffset 0)).fld 0 16)).map f.segment

/-- A DRAM range reaches a retired range, or leaves DRAM. -/
def State.reachesRetired (s : State) (lo len : Nat) : Bool :=
  0x003000000000 < lo + len ||
    allCores.any fun n =>
      let top := sliceBase n + (s.core n).capacity
      top < sliceBase n + 0x60000000 && lo < sliceBase n + 0x60000000 && top < lo + len

/-- Two ranges meet. -/
def rangesMeet (a n b m : Nat) : Bool := a < b + m && b < a + n

/-- A segment is acceptable: its fields are multiples of 64, and it keeps off retired ranges and the 152 KiB that start-up uses at the
base of core n's slice. -/
def State.segmentOk (s : State) (base : Nat) (g : Nat × Nat × Nat) : Bool :=
  g.1 % 64 == 0 && g.2.1 % 64 == 0 && g.2.2 % 64 == 0 && !s.reachesRetired g.1 g.2.2 && !rangesMeet g.1 g.2.2 base 0x26000

/-- The boot record's fixed part is valid but for its entry and its continuation record. -/
def State.bootOk (s : State) (base : Nat) : Bool :=
  let f := s.dev.flash
  let w (o : Nat) : W64 := f.word (Config.bootOffset 0 + o)
  let k := (w 0x10).toNat
  let n := (w 0).fld 0 16
  (w 0).fld 48 16 == 1 && (w 0).fld 16 32 == 0 && 1 ≤ n && n ≤ 256 && w 0x78 == 0
    && 20 ≤ k && k ≤ 27 && (w 8).toNat < 2 ^ 40 && (w 8).toNat % (2 ^ k * 64) == 0 && !s.reachesRetired (w 8).toNat (2 ^ k * 64)
    && (w 0x18).getLsbD 63 && (w 0x18).getLsbD 62 && f.segments.all (s.segmentOk base)

/-- The first supervisor context is brought into being, in the order of R490; the job's number is open. -/
def State.boot (s : State) (n : CoreId) : State :=
  let f := s.dev.flash
  let base := sliceBase n
  let o := Config.bootOffset 0
  let s := s.modDev fun d =>
    { d with ctxtab := BitVec.ofNat 40 (base + 0x20000), acl := BitVec.ofNat 40 (base + 0x24000),
             dram := f.segments.foldl (fun m g => m.splice g.1 g.2.2 (f.image.slice g.2.1 g.2.2)) (d.dram.zero (base + 0x20000) 0x6000),
             ptbase := (f.word (o + 8)).setWidth 40, ptlog := (f.word (o + 0x10)).setWidth 5,
             usedPtbase := (f.word (o + 8)).setWidth 40, usedPtlog := (f.word (o + 0x10)).setWidth 5 }
  let s := s.writeDram (base + 0x20000) (f.image.read (o + 0x18) 64)
  let x : BitVec 16 := (f.word (o + 0x18)).setWidth 16
  let (j, s) := s.choose 256
  let s := s.modDev fun d => { d with jobs := [(j, { addr := 0, stamp := 0, scope := 3, core := n, ctx := x })] }
  s.push n ((recOf (f.image.read (o + 0x58) 32) 0).enterAs x j (s.ceilOf x))

/-- Entry 0 is an active entry, and the continuation record is a runnable task record with TSZ 0. -/
def State.booted (s : State) : Bool :=
  let f := s.dev.flash
  let o := Config.bootOffset 0
  let x : BitVec 16 := (f.word (o + 0x18)).setWidth 16
  let r := recOf (f.image.read (o + 0x58) 32) 0
  (s.ctxEntry x).isSome && s.runnable x r && r.kind == 0 && r.tsz == 0

/-! ## Starting (R489, R491) -/

/-- A core as start-up leaves it: its live banks tested, and when it runs, which its slice decides (R63), its queue, its steal seed and the stock library in place and
every macro calibrated. -/
def startCore (retired : List (CoreId × Fin 32)) (n : CoreId) (seed : Nat) : Core :=
  let live : BitVec 32 := BitVec.ofNat 32 ((List.finRange 32).map fun b =>
    bit (Config.bankGood (seed + b.val) && !retired.contains (n, b)) * 2 ^ b.val).sum
  let c : Core := { live := live }
  if 24 ≤ popcount32 live then
    let tnow := BitVec.ofNat 16 (Config.value seed)
    let m : MatUnit := { ucode := stockStore }
    { c with avail := true, qlog := 12, qbase := BitVec.ofNat 34 (sliceBase n / 64), stealX := BitVec.ofNat 16 (n.val + 1), tnow := tnow,
             mx := (List.finRange 64).foldl (fun m i => m.endCalibration i tnow (seed + 512 * i.val)) m }
  else c

/-- What a start whose flash image is good has found; the macros' failures once they have been calibrated. -/
def State.found (s : State) (macros : Bool) : Findings :=
  { unavailable := allCores.filter fun n => !(s.core n).avail, live := allCores.map fun n => (s.core n).live,
    failed := if macros then allCores.map fun n =>
        ((List.finRange 64).map fun i => bit ((s.core n).mx.macros[i]).fail * 2 ^ i.val).sum
      else [],
    version := (s.dev.flash.word (Config.versionOffset 0)).toNat }

/-- The device before its cores are tested: what flash and the ports keep; banks that were pending are recorded as retired (R63). -/
def State.cleared (s : State) : State :=
  let pending := allCores.flatMap fun n => (List.finRange 32).filterMap fun b => if (s.core n).pend.getLsbD b.val then some (n, b) else none
  let f := s.dev.flash
  let f := { f with starts := Min.min (f.starts + 1) (2 ^ 32 - 1), retired := f.retired ++ pending }
  { State.reset with turns := [], free := s.free + 65536 * 128, serial := s.serial, outbox := s.outbox,
                     dev := { flash := f, mgmt := { key := f.image.read (Config.keyOffset 0) 32 } } }

/-- A thermal trip or a management reset stops the start after a step, with what it has found (R491): after the check of the flash image, the tests, or
calibration. The device then stands as after any failed start, until it is started again (log entry 56). -/
def State.stopsStart (s : State) (seed step : Nat) (found : Findings) (k : State) : State :=
  match Config.startStop seed with
  | some (reset, i) => if i.val = step then s.failStart (if reset then 0x05 else 0x04) found else k
  | none => k

/-- The device starts (R489): the flash image, the tests, calibration, the first supervisor context, the report. -/
def State.start (s : State) : State :=
  let seed := s.free
  let s := s.cleared
  let f := s.dev.flash
  if !Config.flashGood f.image f.length then s.failStart 0x01 {}
  else s.stopsStart seed 0 {} <|
    let s := { s with cores := Vector.ofFn fun (n : Fin 128) => startCore f.retired n (seed + 65536 * n.val) }
    let up := allCores.filter fun n => (s.core n).avail
    if !Config.stratumGood seed then s.failStart 0x03 (s.found false)
    else if up.length < 64 then s.failStart 0x02 (s.found false)
    else s.stopsStart seed 1 (s.found false) <| s.stopsStart seed 2 (s.found true) <|
      let n := up.headD 0
      let s' := s.boot n
      if !s.bootOk (sliceBase n) || !s'.booted then s.failStart 0x01 (s.found true)
      else
        let f := { f with fails := 0 }
        s'.modDev fun d =>
          { d with power := .running, flash := f, mgmt := { d.mgmt with report := reportBytes f 0x00 false (s.found true) } }

/-- `POWER_ON` (R489): a device that does not run starts. -/
def execPowerOn (s : State) : Out := .next (if s.dev.power = .running then s else s.start)

/-! ## Temperature and power (R246, R487, R493) -/

/-- A thermal trip: the device truncates, stops, and the report records a failed start with reason 0x04; the rest of the report is that
of the last start. -/
def State.trip (s : State) : State :=
  let s := s.truncate
  let f : Flash := { s.dev.flash with fails := s.dev.flash.fails + 1 }
  let minimal := decide (3 ≤ f.fails)
  let head := leBytes 8 (2 ^ 48 + 0x04 * 2 ^ 40 + f.starts) ++ leBytes 8 (Min.min f.fails 255 + bit minimal * 256)
  s.modDev fun d =>
    { d with power := if minimal then .minimal else .failed, flash := f, mgmt := { d.mgmt with report := d.mgmt.report.write 0 head } }

/-- `TEMPERATURE_SAMPLE` (R246): the subject core's die has the subject's temperature, in sixteenths of a degree; every core of the die
samples it, its monitor takes the sample, and at 115 °C the device stops. -/
def execTemperatureSample (s : State) : Out :=
  let die := dieOf s.on.core
  let t : BitVec 16 := s.on.value.setWidth 16
  let sampled (n : Fin 128) : Core :=
    if dieOf n = die then ({ s.cores[n] with tnow := t } : Core).recheck id else s.cores[n]
  let s' := { s with cores := Vector.ofFn sampled }
  let s' := s'.modDev fun d => d.sample die 3 (t.toInt + 1024).toNat
  .next (if 1840 ≤ t.toInt ∧ s.dev.power = .running then s'.trip else s')

/-- `POWER_LIMIT_EXCEEDED` (R493): passes are throttled; no result changes. -/
def execPowerLimitExceeded (s : State) : Out := .next (s.modDev fun d => { d with overPower := true })
/-- `MODULE_POWER_WITHIN_LIMIT` (R493): that throttle ends. -/
def execModulePowerWithinLimit (s : State) : Out := .next (s.modDev fun d => { d with overPower := false })

end Sys2Proof.Machine
end

