-- ==== Sys2Proof/Machine/Host.lean ====
section
/-!
DEFINITION. The ports: queue pairs and remote requests (R456 to R460), work requests (R461 to R463), the Errus link (R464, R465)
and the management port (R466, R467, R484, R488).
-/
namespace Sys2Proof.Machine

/-! ## Queue pairs (R457, R458) -/

/-- Address of the entry of a queue pair. -/
def State.qpAt (s : State) (q : Fin 4096) : Nat := s.dev.mgmt.qpbase.toNat + q.val * 128

/-- Word `w` of an entry. -/
def State.qpWord (s : State) (q : Fin 4096) (w : Nat) : W64 := s.dramW (s.qpAt q + w * 8)

/-- The entry has V = 1 and zero in every zero field. -/
def State.qpValid (s : State) (q : Fin 4096) : Bool :=
  let w (i : Nat) : W64 := s.qpWord q i
  (w 0).getLsbD 63 && (w 0).fld 56 2 == 0 && (w 0).fld 16 8 == 0 && (w 1).fld 32 32 == 0 && (w 3).fld 40 23 == 0
    && (w 4).fld 4 2 == 0 && (w 4).fld 56 8 == 0 && (w 10).fld 32 32 == 0 && [11, 12, 13, 14, 15].all fun i => w i == 0

/-- PEER of an entry. -/
def State.qpPeer (s : State) (q : Fin 4096) : Bool := (s.qpWord q 0).getLsbD 62
/-- ST of an entry: 0 reset, 1 ready, 2 error. -/
def State.qpSt (s : State) (q : Fin 4096) : Nat := (s.qpWord q 0).fld 60 2
/-- Its port number. -/
def State.qpPort (s : State) (q : Fin 4096) : Nat := (s.qpWord q 0).fld 48 8
/-- Its path MTU in bytes. -/
def State.qpMtu (s : State) (q : Fin 4096) : Nat := 1024 * 2 ^ Min.min ((s.qpWord q 0).fld 58 2) 2
/-- Its context. -/
def State.qpCtx (s : State) (q : Fin 4096) : BitVec 16 := (s.qpWord q 0).setWidth 16
/-- The send ring's base. -/
def State.qpRing (s : State) (q : Fin 4096) : Nat := (s.qpWord q 4).fld 6 50 * 64
/-- The size of its rings. -/
def State.qpSize (s : State) (q : Fin 4096) : Nat := 2 ^ (s.qpWord q 4).fld 0 4
/-- The consumer count. -/
def State.qpCons (s : State) (q : Fin 4096) : BitVec 32 := (s.qpWord q 10).setWidth 32

/-- The pair serves requests of its kind of port. -/
def State.qpServes (s : State) (q : Fin 4096) (peer : Bool) : Bool := s.qpValid q && s.qpSt q == 1 && s.qpPeer q == peer

/-- The pair enters the error state. -/
def State.qpError (s : State) (q : Fin 4096) : State :=
  s.writeDram (s.qpAt q) (leBytes 8 ((s.qpWord q 0 &&& ~~~(3#64 <<< 60)) ||| (2#64 <<< 60)).toNat)

/-- What the port keeps for a pair. -/
def State.qp (s : State) (q : Fin 4096) : Qp := (s.dev.qps.lookup q).getD {}

/-- What the port keeps for a pair, changed. -/
def State.modQp (s : State) (q : Fin 4096) (f : Qp → Qp) : State :=
  s.modDev fun d => { d with qps := (q, f (s.qp q)) :: d.qps.filter (·.1 != q) }

/-- A pair whose entry is invalid or reset keeps nothing: receive slots begin at 0 when it becomes ready (R463). -/
def State.syncQps (s : State) : State :=
  let stays (q : Fin 4096) : Bool := s.qpValid q && s.qpSt q != 0
  if s.dev.qps.isEmpty && s.dev.peerApplied.isEmpty then s
  else
    s.modDev fun d =>
      { d with qps := d.qps.filter fun (p : Fin 4096 × Qp) => stays p.1, peerApplied := d.peerApplied.filter fun p => stays p.2.q }

/-- Something leaves through a port. -/
def State.emit (s : State) (x : Sent) : State := { s with outbox := s.outbox ++ [x] }

/-- Codes of the negative answers: receiver not ready, invalid request, access, operational. -/
def nakRnr : Nat := 0
/-- *Invalid request*. -/
def nakInvalid : Nat := 1
/-- *Remote access error*. -/
def nakAccess : Nat := 2
/-- *Remote operational error*. -/
def nakOperational : Nat := 3

/-- A negative answer. -/
def State.refuse (s : State) (q : Fin 4096) (code : Nat) : State := s.emit (.nak q.val code)

/-! ## Accesses of a port (R459, R398) -/

/-- The parts of a run of bytes by granules. -/
def runParts (a n : Nat) : List (Nat × Nat) :=
  if n = 0 then []
  else (List.range ((a + n - 1) / 64 - a / 64 + 1)).map fun i =>
    let g := (a / 64 + i) * 64
    let lo := Max.max a g
    (lo, Min.min (a + n) (g + 64) - lo)

/-- How the parts of a run fare: the physical parts up to the first that fails, whether all are reached, whether one must wait. -/
structure Reach where
  parts : List (Nat × Nat) := []
  ok : Bool := true
  held : Bool := false
deriving DecidableEq, Repr

/-- The address of a byte of a context, for a port. -/
def State.portPa (s : State) (x : BitVec 16) (va : Nat) (write : Bool) : Option Nat :=
  if (s.ctxEntry x).isNone then none
  else (s.translateDirect (BitVec.ofNat 8 ((s.ctxField x 0).fld 16 8)) va write).toOption

/-- The context's supervisor attribute, from its entry. -/
def State.portSup (s : State) (x : BitVec 16) : Bool := (s.ctxField x 0).getLsbD 62

/-- The parts of a run that a port reaches for a context. -/
def State.reach (s : State) (x : BitVec 16) (write : Bool) : List (Nat × Nat) → Reach
  | [] => {}
  | (va, n) :: ps =>
    match s.portPa x va write with
    | none => { ok := false }
    | some pa =>
      match s.physMeets x (s.portSup x) write pa n with
      | .fail _ => { ok := false }
      | .held => { held := true }
      | .ok =>
        let r := s.reach x write ps
        { r with parts := (pa, n) :: r.parts }

/-- The core whose meters take a context's port traffic (log entry 84): the home of the bytes, or, where the context has no partition there, the first that
has one. -/
def State.portCore (s : State) (x : BitVec 16) (c : CoreId) : CoreId :=
  if ((s.core c).cctx x).isSome then c else (allCores.find? fun n => ((s.core n).cctx x).isSome).getD c

/-- Port traffic is charged to the context of the pair (R480, R481). -/
def State.chargePort (s : State) (x : BitVec 16) (pa n : Nat) : State :=
  match placeOf pa with
  | .dram c _ => (s.chargeCopy (s.portCore x c) x false n).chargeDram (s.portCore x c) x n
  | .window c _ => s.chargeCopy (s.portCore x c) x false n
  | .reserved => s

/-- Bytes read through a port, part by part. -/
def State.portRead (s : State) (x : BitVec 16) (ps : List (Nat × Nat)) : List Byte × State :=
  (ps.flatMap fun p => s.physRead x p.1 p.2, ps.foldl (fun s p => (s.readBeat p.1).chargePort x p.1 p.2) s)

/-- Bytes written through a port, part by part. -/
def State.portWrite (s : State) (x : BitVec 16) : List (Nat × Nat) → List Byte → State
  | [], _ => s
  | (pa, n) :: ps, bs =>
    let s := s.physPut x (s.portSup x) pa ((List.range n).zip (bs.take n)) false
    (s.chargePort x pa n).portWrite x ps (bs.drop n)

/-- The die of an address. -/
def dieAt (pa : Nat) : Bool := (homeOf pa).any dieOf

/-- A reduction through a port, granule by granule (R465, R311): each granule is one indivisible read-modify-write, and is applied once;
`i` names the first. R19 has the conditions go to the command, and a peer's has no flags on this device: the model records them nowhere (log entry 125). -/
def State.portReduce (s : State) (x : BitVec 16) (op : Fin 4) (ty : Nat) : PeerId → List (Nat × Nat) → List Byte → State
  | _, [], _ => s
  | i, (pa, n) :: ps, bs =>
    let next (s : State) : State := s.portReduce x op ty { i with granule := i.granule + 1 } ps (bs.drop n)
    if s.dev.peerApplied.contains (dieAt pa, i) then next s
    else
      let w := tyWidth ty
      let parts := (List.range (n / w)).map fun i => (i * w, (redSource ty (leNat ((bs.drop (i * w)).take w))).1)
      let (cells, _) := redCells op ty (s.physRead x pa n) parts
      let s := (s.physPut x (s.portSup x) pa cells false).modDev fun d => { d with peerApplied := d.peerApplied ++ [(dieAt pa, i)] }
      next (s.chargePort x pa n)

/-- The filters forget what a peer pair's earlier requests have applied, when a request of any kind begins (log entry 111). -/
def Device.beginPeer (d : Device) (r : HostReq) : Device :=
  if r.port < 2 then d
  else { d with peerApplied := d.peerApplied.filter fun p => p.2.smod != r.smod || p.2.q != r.q || p.2.ring == r.ring }

/-! ## Remote requests (R459, R460, R463) -/

/-- The window of a pair admits a range: the first virtual address, or none. -/
def State.inWindow (s : State) (q : Fin 4096) (a : W64) (n : Nat) (write : Bool) : Option Nat :=
  let base := (s.qpWord q 2).toNat
  let len := (s.qpWord q 3).fld 0 40
  if base ≤ a.toNat ∧ a.toNat + n ≤ base + len ∧ (!write || (s.qpWord q 3).getLsbD 63) then some a.toNat else none

/-- A valid access-control row admits a peer module to a context (R465). -/
def State.peerAdmitted (s : State) (smod : BitVec 16) (x : BitVec 16) : Bool := !(s.aclRows true smod.toNat x).isEmpty

/-- The answer to a refused launch packet (R460). -/
def State.answerLaunch (s : State) (q : Fin 4096) (c : BitVec 8) : State :=
  if c = 0x06 ∨ c = 0x07 then s.refuse q nakRnr
  else if c = 0x04 ∨ c = 0x05 then (s.refuse q nakInvalid).qpError q
  else if c = 0x08 then (s.refuse q nakOperational).qpError q
  else (s.refuse q nakAccess).qpError q

/-- A request performs; `none` when it must wait. -/
def State.performReq (s : State) (r : HostReq) : Option State :=
  let s := s.modDev (·.beginPeer r)
  let x := s.qpCtx r.q
  let touch (s : State) (write : Bool) (f : State → List (Nat × Nat) → State) : Option State :=
    match s.inWindow r.q r.addr r.len write with
    | none => some (s.refuse r.q nakAccess)
    | some a =>
      let h := s.reach x write (runParts a r.len)
      if h.held then none
      else
        let s := if write || h.ok then f s h.parts else s
        some (if !h.ok then s.refuse r.q nakAccess else if write then s.emit (.ack r.q.val) else s)
  let admitted := r.port < 2 || s.peerAdmitted r.smod x
  match r.op with
  | .write => if admitted then touch s true fun s ps => s.portWrite x ps r.data else some (s.refuse r.q nakAccess)
  | .reduce opa =>
    let ty := opa.val % 16
    if !admitted || r.addr.toNat % tyWidth ty != 0 || r.len % tyWidth ty != 0 then some (s.refuse r.q nakAccess)
    else
      if [false, true].any fun die => 8192 < s.dev.filterUsed die + r.len / 64 + 2 then none
      else
        touch s true fun s ps =>
          s.portReduce x (Fin.ofNat 4 (opa.val / 16)) ty { smod := r.smod, q := r.q, ring := r.ring, granule := r.addr.toNat / 64 } ps r.data
  | .read =>
    touch s false fun s ps =>
      let (bs, s) := s.portRead x ps
      s.emit (.readData r.q.val bs)
  | .launch =>
    let n : CoreId := Fin.ofNat 128 (r.addr.toNat / 64)
    let (s, c) := s.packetArrives n (2 ≤ r.port) (if r.port < 2 then r.q.val else r.smod.toNat) r.data
    some (match c with | none => s.emit (.ack r.q.val) | some c => s.answerLaunch r.q c)
  | .send =>
    let size := s.qpSize r.q
    let slot := s.qpRing r.q + size * 64 + (s.qp r.q).recv % size * 4096
    let h := s.reach x true (runParts slot 4096)
    if h.held then none
    else if !h.ok then some (s.refuse r.q nakAccess)
    else
      let head := h.parts.take 1
      if (leNat ((s.portRead x head).1.take 8)) / 2 ^ 56 ≠ 0 then some (s.refuse r.q nakRnr)
      else
        let words := leBytes 8 (2 ^ 56 + r.len) ++ leBytes 8 r.psn.toNat ++ zeroBytes 48
        -- the payload first, then the header (R463)
        let body := runParts (slot + 64) r.len
        let s := s.portWrite x ((s.reach x true body).parts) r.data
        let s := s.portWrite x head words
        some ((s.modQp r.q fun k => { k with recv := k.recv + 1 }).emit (.ack r.q.val))

/-- The request may perform, given the requests held before it: in order for its pair and in an exchange phase; a launch in any
phase, once the earlier writes of its pair have performed. -/
def State.mayPerform (s : State) (r : HostReq) (earlier : List HostReq) : Bool :=
  let mine := earlier.filter (·.q == r.q)
  if r.op = .launch then mine.all fun e => e.op == .launch || e.op == .read else s.exchange && mine.isEmpty

/-- The bytes of accesses, other than launch packets, that a port holds. -/
def heldBytes (hs : List HostReq) (port : Nat) : Nat := ((hs.filter fun h => h.port == port && h.op != .launch).map (·.len)).sum

/-- A request arrives: it performs, is held (up to 64 KiB a port, launch packets aside), or is put off; the flag says that it was taken. -/
def State.arriveReq (s : State) (r : HostReq) : State × Bool :=
  let hold : State × Bool :=
    if r.op = .launch ∨ heldBytes s.dev.held r.port + r.len ≤ 65536 then (s.modDev fun d => { d with held := d.held ++ [r] }, true)
    else (s, false)
  if s.mayPerform r s.dev.held then
    match s.performReq r with
    | some s' => (s', true)
    | none => hold
  else hold

/-- The first held request of a pair that a test accepts, with what was held before it. -/
def firstHeld (p : HostReq → Bool) : List HostReq → List HostReq → Option (List HostReq × HostReq)
  | _, [] => none
  | before, r :: rs => if p r then some (before, r) else firstHeld p (before ++ [r]) rs

/-- The oldest held request of a pair and kind performs, when it may. -/
def State.performHeld (s : State) (q : Fin 4096) (p : HostOp → Bool) : State :=
  match firstHeld (fun r => r.q == q && p r.op) [] s.dev.held with
  | none => s
  | some (before, r) =>
    if !s.mayPerform r before then s
    else if !s.qpServes q (2 ≤ r.port) then (s.modDev fun d => { d with held := d.held.erase r }).refuse q nakInvalid
    else
      match s.performReq r with
      | some s' => s'.modDev fun d => { d with held := d.held.erase r }
      | none => s

/-- The pair that an event concerns. -/
def State.pair (s : State) : Fin 4096 := Fin.ofNat 4096 s.on.queue

/-- Packets of a request of `n` bytes: one at least. -/
def State.packets (s : State) (q : Fin 4096) (n : Nat) : Nat := Max.max 1 ((n + s.qpMtu q - 1) / s.qpMtu q)

/-- The PSN that the entry gives its next packet, or expects: low the sender's, high the receiver's (R458). -/
def State.qpPsn (s : State) (q : Fin 4096) (recv : Bool) : BitVec 24 := BitVec.ofNat 24 ((s.qpWord q 9).fld (24 * bit recv) 24)

/-- One of the PSNs of an entry written. -/
def State.setPsn (s : State) (q : Fin 4096) (recv : Bool) (v : BitVec 24) : State :=
  let w := (s.qpWord q 9).toNat
  let lo := 24 * bit recv
  s.writeDram (s.qpAt q + 0x48) (leBytes 8 (w - bits w lo 24 * 2 ^ lo + v.toNat * 2 ^ lo))

/-- The port refuses a request. -/
def Sent.refuses (x : Sent) : Bool := match x with | .nak _ _ => true | _ => false

/-- A request of a host for the subject's pair: refused, or taken, held or put off. One that is not refused moves the PSN that the pair expects on by
its packets, or, of a READ, those of its answer (log entry 81). -/
def State.hostRequest (s : State) (r : HostReq) (ok : State → Option Nat) : State :=
  if s.dev.power != .running then s
  else if !s.qpServes r.q false then s.refuse r.q nakInvalid
  else
    match ok s with
    | some code => s.refuse r.q code
    | none =>
      match s.arriveReq r with
      | (s', true) =>
        if (s'.outbox.drop s.outbox.length).any Sent.refuses then s'
        else s'.setPsn r.q true (r.psn + BitVec.ofNat 24 (s'.packets r.q r.len))
      | (s, false) => s.refuse r.q nakRnr

/-- A request of the subject: its address, length and payload. -/
def State.subjectReq (s : State) (op : HostOp) (len : Nat) : HostReq :=
  { port := s.qpPort s.pair, q := s.pair, op := op, addr := s.on.addr, len := len, data := s.on.data, psn := s.on.value.setWidth 24 }

/-- A launch packet arrives on the subject's pair (R460). -/
def State.launchArrives (s : State) : State :=
  let q := s.pair
  let n := s.on.data.length
  if s.dev.power == .running && s.qpServes q false && (n != 64 || s.on.addr.toNat % 64 != 0 || 128 * 64 ≤ s.on.addr.toNat) then
    (s.refuseLaunch 0x05).answerLaunch q 0x05
  else s.hostRequest (s.subjectReq .launch n) fun _ => none

/-- `RDMA_WRITE` (R459, R460): the subject's pair, remote address, R_Key and payload; with its flag, a held request performs. -/
def execRdmaWrite (s : State) : Out :=
  let q := s.pair
  .next <|
    if s.on.flag then s.performHeld q (· == .write)
    else if s.on.key = 0 then s.launchArrives
    else s.hostRequest (s.subjectReq .write s.on.data.length) fun s => if s.on.key = (s.qpWord q 1).setWidth 32 then none else some nakAccess

/-- `RDMA_READ` (R459): as many bytes as the subject's index says. -/
def execRdmaRead (s : State) : Out :=
  let q := s.pair
  .next <|
    if s.on.flag then s.performHeld q (· == .read)
    else s.hostRequest (s.subjectReq .read s.on.index) fun s =>
      if s.on.key = (s.qpWord q 1).setWidth 32 then none else some nakAccess

/-- The pair enters the error state with a NAK *invalid request*, when it serves requests at all. -/
def State.badRequest (s : State) (q : Fin 4096) : State :=
  if s.dev.power != .running then s
  else if s.qpServes q false then (s.refuse q nakInvalid).qpError q
  else s.refuse q nakInvalid

/-- `SEND` (R463): the subject's payload, its first packet's PSN in the value. -/
def execSend (s : State) : Out :=
  let q := s.pair
  .next <|
    if s.on.flag then s.performHeld q (· == .send)
    else if 4032 < s.on.data.length then s.badRequest q
    else s.hostRequest (s.subjectReq .send s.on.data.length) fun _ => none

/-- `INVALID_REQUEST` (R457). -/
def execInvalidRequest (s : State) : Out := .next (s.badRequest s.pair)

/-- `CE_MARKED_PACKET` (R456). -/
def execCeMarkedPacket (s : State) : Out := .next (if s.dev.power = .running then s.emit (.cnp s.pair.val) else s)
/-- `CNP` (R456). -/
def execCnp (s : State) : Out :=
  .next (if s.dev.power = .running then s.modQp s.pair fun k => { k with halved := k.halved + 1 } else s)
/-- `RATE_RECOVERY` (R456). -/
def execRateRecovery (s : State) : Out :=
  .next (if s.dev.power = .running then s.modQp s.pair fun k => { k with halved := k.halved - 1 } else s)

/-- `LAUNCH_PACKET` (R355 to R357, R460): a launch packet arrives; with the subject's flag, one that the port holds is checked. -/
def execLaunchPacket (s : State) : Out :=
  .next (if s.on.flag then s.performHeld s.pair (· == .launch) else s.launchArrives)

/-! ## The send ring (R461 to R463) -/

/-- `DOORBELL` (R463): the doorbell holds a new producer count; one outside the ring puts the pair in the error state. -/
def execDoorbell (s : State) : Out :=
  let q := s.pair
  .next <|
    if s.dev.power != .running || !s.exchange || !(s.qpValid q && s.qpSt q == 1) then s
    else
      match s.portPa (s.qpCtx q) (s.qpWord q 5).toNat false with
      | none => s
      | some pa =>
        let v : BitVec 32 := BitVec.ofNat 32 (leNat (s.physRead (s.qpCtx q) pa 8))
        if s.qpSize q < (v - s.qpCons q).toNat then s.qpError q
        else s.modQp q fun k => { k with producer := some v }

/-- A work request. -/
structure WorkReq where
  op : Nat
  opa : Nat
  loc : Nat
  remote : W64
  len : Nat
  key : BitVec 32
  stamp : W64
  value : W64
  zeros : Bool
deriving DecidableEq, Repr

/-- The fields of the 64 bytes of a work request. -/
def workReqOf (bs : List Byte) : WorkReq :=
  let w (i : Nat) : W64 := w64 (leNat ((bs.drop (8 * i)).take 8))
  { op := (w 0).fld 0 8, opa := (w 0).fld 8 8, loc := (w 1).toNat, remote := w 2, len := (w 3).fld 32 32, key := (w 3).setWidth 32,
    stamp := w 4, value := w 5, zeros := (w 0).fld 16 40 == 0 && w 6 == 0 && w 7 == 0 }

/-- OP, OPA and the zero fields are valid for the pair. -/
def WorkReq.ok (r : WorkReq) (peer : Bool) : Bool :=
  let opOk := if peer then r.op == 0x11 || r.op == 0x12 || r.op == 0x13 else r.op == 0x01 || r.op == 0x02 || r.op == 0x03
  let opaOk := if r.op = 0x12 then r.opa / 16 ≤ 2 && 1 ≤ r.opa % 16 && r.opa % 16 ≤ 11 else r.opa == 0
  opOk && opaOk && r.zeros && 1 ≤ r.len && r.len ≤ 2 ^ 31 && r.stamp.toNat % 8 == 0 && (!peer || r.key == 0)
    && (r.op != 0x13 || r.len == 64)

/-- The address of the request at the consumer count. -/
def State.reqVa (s : State) (q : Fin 4096) : Nat := s.qpRing q + (s.qpCons q).toNat % s.qpSize q * 64

/-- The ring holds no request: no doorbell has given a producer count, or the port has come to it. -/
def State.qpIdle (s : State) (q : Fin 4096) : Bool := (s.qp q).producer.all (· == s.qpCons q)

/-- The request at the consumer count, when the ring holds one and the port can read it. -/
def State.workReq (s : State) (q : Fin 4096) : Option WorkReq :=
  if s.qpIdle q then none
  else (s.portPa (s.qpCtx q) (s.reqVa q) true).map fun pa => workReqOf (s.physRead (s.qpCtx q) pa 64)

/-- The request in progress ends with a status once its end is reported. -/
def State.endsWith (s : State) (q : Fin 4096) (c : BitVec 8) : State := s.modQp q fun k => { k with taken := some c }

/-- The port takes the next request of the subject's pair, or goes on with it, for one operation; only in an exchange phase. -/
def State.takeRequest (s : State) (op : Nat) (f : State → WorkReq → Qp → State) : State :=
  let q := s.pair
  if s.dev.power != .running || !s.exchange || !(s.qpValid q && s.qpSt q == 1) || (s.qp q).taken.isSome then s
  else
    match s.workReq q with
    | none => if s.qpIdle q then s else s.qpError q
    | some r =>
      if !r.ok (s.qpPeer q) then s.endsWith q 0x83
      else if r.op ≠ op then s
      else f s r (s.qp q)

/-- The next bytes of a local buffer, or the failure of their translation. -/
def State.localBytes (s : State) (q : Fin 4096) (a n : Nat) (f : List Byte → State → State) : State :=
  let h := s.reach (s.qpCtx q) false (runParts a n)
  if h.held then s
  else if !h.ok then s.endsWith q 0x81
  else
    let (bs, s) := s.portRead (s.qpCtx q) h.parts
    f bs s

/-- `n` more bytes of the request are done. -/
def State.progress (s : State) (q : Fin 4096) (r : WorkReq) (n : Nat) : State :=
  s.modQp q fun k => { k with pos := k.pos + n, taken := if r.len ≤ k.pos + n then some 0 else none }

/-- What leaves of a request, from a remote address on. -/
def State.sentReq (s : State) (q : Fin 4096) (r : WorkReq) (a : W64) (bs : List Byte) : SentReq :=
  { op := r.op, opa := r.opa, addr := a, key := r.key, ring := (s.qpCons q).toNat % s.qpSize q, psn := if s.qpPeer q then 0 else s.qpPsn q false, bytes := bs }

/-- A WRITE or SEND packet of a request to the host. -/
def State.sendBytes (s : State) (op : Nat) : State :=
  let q := s.pair
  s.takeRequest op fun s r k =>
    let n := Min.min (s.qpMtu q) (r.len - k.pos)
    s.localBytes q (r.loc + k.pos) n fun bs s =>
      (((s.emit (.request q.val (s.sentReq q r (r.remote + w64 k.pos) bs))).setPsn q false (s.qpPsn q false + 1)).progress q r n)

/-- `WORK_REQUEST_WRITE` (R461). -/
def execWorkRequestWrite (s : State) : Out := .next (s.sendBytes 0x01)
/-- `WORK_REQUEST_SEND` (R461). -/
def execWorkRequestSend (s : State) : Out := .next (s.sendBytes 0x03)

/-- `WORK_REQUEST_READ` (R461): the request goes out; with the subject's flag, its payload is the next part of the answer. -/
def execWorkRequestRead (s : State) : Out :=
  let q := s.pair
  .next <| s.takeRequest 0x02 fun s r k =>
    if !s.on.flag then
      if k.asked then s
      else
        ((s.emit (.request q.val (s.sentReq q r r.remote (leBytes 4 r.len)))).setPsn q false
          (s.qpPsn q false + BitVec.ofNat 24 (s.packets q r.len))).modQp q fun k => { k with asked := true }
    else
      let n := Min.min s.on.data.length (r.len - k.pos)
      let h := s.reach (s.qpCtx q) true (runParts (r.loc + k.pos) n)
      if h.held then s
      else if !h.ok then s.endsWith q 0x81
      else (s.portWrite (s.qpCtx q) h.parts s.on.data).progress q r n

/-! ## The Errus link (R464, R465) -/

/-- The port of an Errus pair. -/
def linkOf (port : Nat) : Fin 12 := Fin.ofNat 12 port

/-- A link changed. -/
def State.modLink (s : State) (p : Fin 12) (f : Link → Link) : State :=
  s.modDev fun d => { d with links := d.links.set p (f d.links[p]) }

/-- A frame: header, flits, CRC-32. -/
def frameBytes (type : Nat) (seq ack : BitVec 16) (smod : BitVec 16) (payload : List Byte) : List Byte :=
  let n := (payload.length + 63) / 64
  let head := leBytes 8 (type * 2 ^ 60 + seq.toNat * 2 ^ 44 + ack.toNat * 2 ^ 28 + smod.toNat * 2 ^ 12 + n * 2 ^ 9)
  let body := head ++ (payload ++ zeroBytes 64).take (64 * n)
  body ++ leBytes 4 (Config.crc32 body).toNat

/-- The sequence of flits that a frame carries, padded to whole flits. -/
def flits (bs : List Byte) : List Byte := bs ++ zeroBytes ((64 - bs.length % 64) % 64)

/-- A data frame leaves, and is kept for replay. -/
def State.sendData (s : State) (p : Fin 12) (payload : List Byte) : State :=
  let l := s.dev.links[p]
  let b := frameBytes 0 l.sendSeq l.expect s.dev.mgmt.modno (flits payload)
  (s.emit (.frame p.val b)).modLink p fun l =>
    { l with sendSeq := l.sendSeq + 1, replay := l.replay ++ [(l.sendSeq, b)] }

/-- A frame of another type leaves: 1 acknowledgement, 2 replay request; it names the next sequence number expected. -/
def State.sendControl (s : State) (p : Fin 12) (type : Nat) : State :=
  s.emit (.frame p.val (frameBytes type 0 s.dev.links[p].expect s.dev.mgmt.modno []))

/-- A part of a request to a peer, at most one frame, which ends at a granule of the peer. -/
def State.sendPeer (s : State) (op : Nat) : State :=
  let q := s.pair
  s.takeRequest op fun s r k =>
    let p := linkOf (s.qpPort q)
    let l := s.dev.links[p]
    if l.down then s.endsWith q 0x85
    else if 1024 ≤ l.replay.length then s
    else
      let a := r.remote.toNat + k.pos
      let n := Min.min (256 - a % 64) (r.len - k.pos)
      s.localBytes q (r.loc + k.pos) n fun bs s =>
        let s := (s.emit (.request q.val (s.sentReq q r (w64 a) bs))).sendData p bs
        (s.progress q r n).modQp q fun k => { k with last := some l.sendSeq }

/-- `PEER_WRITE` (R461, R465). -/
def execPeerWrite (s : State) : Out := .next (s.sendPeer 0x11)
/-- `PEER_REDUCE` (R461, R465). -/
def execPeerReduce (s : State) : Out := .next (s.sendPeer 0x12)
/-- `PEER_LAUNCH` (R465). -/
def execPeerLaunch (s : State) : Out := .next (s.sendPeer 0x13)

/-- The status that the request in progress ends with: what the port found, what the remote side answers (the subject's value), or 0x84
once the pair is in the error state. -/
def State.endStatus (s : State) (q : Fin 4096) : Option (BitVec 8) :=
  let k := s.qp q
  let v : BitVec 8 := s.on.value.setWidth 8
  let frames := match k.last with | some n => (s.dev.links[linkOf (s.qpPort q)]).replay.any (·.1 == n) | none => false
  match k.taken with
  | some 0 => if v = 0x01 ∧ !(s.qpPeer q && frames) ∨ v = 0x82 then some v else none
  | some c => some c
  | none => if s.qpSt q = 2 then some 0x84 else if (0 < k.pos ∨ k.asked) ∧ v = 0x82 then some v else none

/-- The request at the consumer count ends (R462, R463): STATUS, then the stamp of one that is done, then the consumer count. -/
def State.endRequest (s : State) (q : Fin 4096) (st : BitVec 8) : State :=
  let x := s.qpCtx q
  let r := s.workReq q
  let stamp := r.bind fun r => if r.stamp = 0 then none else s.portPa x r.stamp.toNat true
  let st := if st = 0x01 ∧ (r.any fun r => r.stamp != 0) ∧ stamp.isNone then 0x81 else st
  let s' := match s.portPa x (s.reqVa q) true with
    | some pa => s.portWrite x [(pa + 7, 1)] [st]
    | none => s
  let s' := match stamp, r with
    | some pa, some r => if st = 0x01 then s'.portWrite x [(pa, 8)] (leBytes 8 r.value.toNat) else s'
    | _, _ => s'
  let s' := s'.writeDram (s.qpAt q + 0x50) (leBytes 4 (s.qpCons q + 1).toNat)
  let s' := s'.modQp q fun k => { k with pos := 0, taken := none, last := none, asked := false }
  if st = 0x01 then s' else s'.qpError q

/-- `WORK_REQUEST_END` (R462). -/
def execWorkRequestEnd (s : State) : Out :=
  let q := s.pair
  .next <|
    if s.dev.power != .running || !s.exchange || !s.qpValid q || s.qpSt q == 0 || s.qpIdle q then s
    else match s.endStatus q with | some st => s.endRequest q st | none => s

/-- The header of a frame whose length and CRC are right. -/
def frameHead (bs : List Byte) : Option W64 :=
  let h := w64 (leNat (bs.take 8))
  let n := 8 + 64 * h.fld 9 3
  if bs.length = n + 4 ∧ h.fld 9 3 ≤ 4 ∧ BitVec.ofNat 32 (leNat (bs.drop n)) = Config.crc32 (bs.take n) then some h else none

/-- Frames that the other side has acknowledged are no longer kept. -/
def Link.acked (l : Link) (ack : BitVec 16) : Link :=
  let keep := l.replay.filter fun p => !(1 ≤ (ack - p.1).toNat && (ack - p.1).toNat ≤ 1024)
  { l with replay := keep, fails := if keep.length < l.replay.length then 0 else l.fails }

/-- The link that an event concerns. -/
def State.link (s : State) : Fin 12 := linkOf s.on.queue

/-- A frame of one type arrives at a working link; another is left to its own row. -/
def State.onFrame (s : State) (type : Nat) (f : State → Fin 12 → W64 → State) : State :=
  let p := s.link
  if s.dev.power != .running || s.dev.links[p].down then s
  else
    match frameHead s.on.data with
    | none => s
    | some h => if h.fld 60 4 ≠ type then s else f (s.modLink p (·.acked (BitVec.ofNat 16 (h.fld 28 16)))) p h

/-- The request that a data frame carries: the subject gives the pair (key), OP (index), OPA (index2), the request's ring index (handle),
address, and its bytes (value, at most the frame's). -/
def State.peerReq (s : State) (p : Fin 12) (h : W64) : HostReq :=
  let len := Min.min s.on.value.toNat (64 * h.fld 9 3)
  let op : HostOp := if s.on.index = 0x13 then .launch else if s.on.index = 0x12 then .reduce (Fin.ofNat 256 s.on.index2) else .write
  { port := 2 + p.val, q := Fin.ofNat 4096 s.on.key.toNat, op := op, addr := s.on.addr, len := len,
    data := (s.on.data.drop 8).take len, smod := BitVec.ofNat 16 (h.fld 12 16),
    ring := s.on.handle.toNat }

/-- `DATA_FRAME` (R465): accepted in SEQ order only; one that the port has no room for is dropped as if out of order. -/
def execDataFrame (s : State) : Out :=
  .next <|
    s.onFrame 0 fun s p h =>
      let r := s.peerReq p h
      let l := s.dev.links[p]
      let take (s : State) : State := (s.modLink p fun l => { l with expect := l.expect + 1 }).sendControl p 1
      if BitVec.ofNat 16 (h.fld 44 16) ≠ l.expect then s.sendControl p 2
      else if !(s.qpServes r.q true && s.qpPort r.q == p.val && (s.qpWord r.q 8).setWidth 16 == r.smod) then take (s.refuse r.q nakInvalid)
      else if r.op = .launch ∧ (r.len ≠ 64 ∨ r.addr.toNat % 64 ≠ 0 ∨ 128 * 64 ≤ r.addr.toNat) then take ((s.refuseLaunch 0x05).answerLaunch r.q 0x05)
      else
        match s.arriveReq r with
        | (s, true) => take s
        | (s, false) => s.sendControl p 2

/-- `ACKNOWLEDGEMENT_FRAME` (R464): frames it names are no longer kept; with the subject's flag, a held request of a peer performs. -/
def execAcknowledgementFrame (s : State) : Out :=
  .next (if s.on.flag then s.performHeld (Fin.ofNat 4096 s.on.key.toNat) fun _ => true else s.onFrame 1 fun s _ _ => s)
/-- `IDLE_FRAME` (R464). -/
def execIdleFrame (s : State) : Out := .next (s.onFrame 3 fun s _ _ => s)

/-- The link goes down: every request in progress on it ends with 0x85. -/
def State.loseLink (s : State) (p : Fin 12) : State :=
  let s := s.modLink p fun l => { l with down := true, replay := [] }
  s.dev.qps.foldl (fun s (e : Fin 4096 × Qp) =>
    if s.qpPeer e.1 && s.qpPort e.1 == p.val && (0 < e.2.pos || e.2.taken.isSome) then s.endsWith e.1 0x85 else s) s

/-- `REPLAY_REQUEST` (R465): go-back-N from the sequence number that the frame names; a ninth request for one frame finds eight failed
replays, and the link goes down. -/
def execReplayRequest (s : State) : Out :=
  .next <|
    s.onFrame 2 fun s p _ =>
      let l := s.dev.links[p]
      if l.replay.isEmpty then s
      else if 8 ≤ l.fails then s.loseLink p
      else
        let s := s.modLink p fun l => { l with fails := l.fails + 1 }
        l.replay.foldl (fun s (e : BitVec 16 × List Byte) => s.emit (.frame p.val e.2)) s

/-- `CORRUPT_FRAME` (R464, R465): a bad CRC or a reserved TYPE; the receiver asks for a replay. -/
def execCorruptFrame (s : State) : Out :=
  let p := s.link
  let bad := match frameHead s.on.data with | none => true | some h => 4 ≤ h.fld 60 4
  .next (if s.dev.power != .running || s.dev.links[p].down || !bad then s else s.sendControl p 2)

/-! ## The management port (R466, R467) -/

/-- A datagram's words and payload. -/
structure Datagram where
  op : Nat
  seq : BitVec 32
  arg0 : W64
  arg1 : W64
  payload : List Byte
  tag : List Byte
  signed : List Byte
deriving DecidableEq, Repr

/-- A datagram with the right version, zero fields and length; OP 0x00 may come without a tag. -/
def datagramOf (bs : List Byte) : Option Datagram :=
  let w (i : Nat) : W64 := w64 (leNat ((bs.drop (8 * i)).take 8))
  let n := (w 3).fld 0 16
  if (w 0).fld 48 16 = 1 ∧ (w 0).fld 32 8 = 0 ∧ (w 3).fld 16 48 = 0 ∧ n ≤ 1024 ∧ (bs.length = 0x20 + n + 16 ∨ (bs.length = 0x20 + n ∧ (w 0).fld 40 8 = 0)) then
    some { op := (w 0).fld 40 8, seq := (w 0).setWidth 32, arg0 := w 1, arg1 := w 2, payload := (bs.drop 0x20).take n,
           tag := bs.drop (0x20 + n), signed := bs.take (0x20 + n) }
  else none

/-- The tag over the bytes of a datagram. -/
def State.mgmtTag (s : State) (bs : List Byte) : List Byte :=
  (hmac s.dev.mgmt.key (leBytes 8 s.dev.flash.starts ++ bs)).take 16

/-- What a request does: its status or argument 0, argument 1 and payload, the state, and what follows the reply. -/
structure Reply where
  state : State
  arg0 : W64 := 0
  arg1 : W64 := 0
  payload : List Byte := []
  after : Option Unit := none

/-- The bytes of a reply. -/
def State.replyBytes (s : State) (d : Datagram) (r : Reply) : List Byte :=
  let bs := leBytes 8 (2 ^ 48 + (128 + d.op % 128) * 2 ^ 40 + d.seq.toNat) ++ leBytes 8 r.arg0.toNat ++ leBytes 8 r.arg1.toNat
    ++ leBytes 8 r.payload.length ++ r.payload
  bs ++ s.mgmtTag bs

/-- A request is dropped, and counted. -/
def State.dropRequest (s : State) : State := s.modDev fun d => { d with mgmt := { d.mgmt with refused := sat32 d.mgmt.refused } }

/-- The request is answered; the device starts after a reply that says so. -/
def State.answer (s : State) (d : Datagram) (r : Reply) : State :=
  let bs := s.replyBytes d r
  let s := r.state.modDev fun v =>
    { v with mgmt := { v.mgmt with lastSeq := d.seq, lastTag := d.tag, lastReply := bs, accepted := true } }
  let s := s.emit (.datagram bs)
  if r.after.isSome then s.start else s

/-- A request of the management protocol for the OPs of a row: authenticated, in sequence, and allowed; or the last reply again, or
dropped. `minimal`: the row may be used while the device does not run. -/
def State.mgmtRequest (s : State) (mine : Nat → Bool) (minimal : Bool) (f : State → Datagram → Reply) : State :=
  if s.dev.power = .off then s
  else
    match datagramOf s.on.data with
    | none => s.dropRequest
    | some d =>
      let m := s.dev.mgmt
      if !mine d.op then s
      else if d.tag ≠ s.mgmtTag d.signed then s.dropRequest
      else if m.accepted && d.seq == m.lastSeq && d.tag == m.lastTag then s.emit (.datagram m.lastReply)
      else if m.accepted && d.seq.toNat ≤ m.lastSeq.toNat then s.dropRequest
      else if s.dev.power != .running && !minimal then s.answer d { state := s, arg0 := 3 }
      else s.answer d (f s d)

/-- `HELLO` (R467): it needs no tag, and is not an accepted request. -/
def execHello (s : State) : Out :=
  .next <|
    if s.dev.power = .off then s
    else
      match datagramOf s.on.data with
      | none => s.dropRequest
      | some d =>
        if d.op ≠ 0 then s
        else
          let m := s.dev.mgmt
          s.emit (.datagram (s.replyBytes d
            { state := s, arg0 := w64 s.dev.flash.starts, arg1 := w64 (m.refused.toNat * 2 ^ 32 + m.lastSeq.toNat) }))

/-- `READ_START_UP_REPORT` (R467, R492). -/
def execReadStartUpReport (s : State) : Out :=
  .next <|
    s.mgmtRequest (· == 1) true fun s d =>
      if 1216 < d.arg0.toNat then { state := s, arg0 := 2 }
      else { state := s, payload := s.dev.mgmt.report.read d.arg0.toNat (Min.min 1024 (1216 - d.arg0.toNat)) }

/-- `RETRY_START` (R467, R491): a running device answers with one of the statuses that R467 lists, which is open (log entry 88). -/
def execRetryStart (s : State) : Out :=
  .next <|
    s.mgmtRequest (· == 2) true fun s _ =>
      if s.dev.power = .running then { state := { s with free := s.free + 1 }, arg0 := w64 (Config.value s.free % 6) }
      else { state := s, after := some () }

/-- `RESET_REQUEST` (R467): the status is sent before the reset. -/
def execResetRequest (s : State) : Out := .next (s.mgmtRequest (· == 3) true fun s _ => { state := s, after := some () })

/-- `SET_MODULE_NUMBER` (R467). -/
def execSetModuleNumber (s : State) : Out :=
  .next <|
    s.mgmtRequest (· == 4) false fun s d =>
      if d.arg0.fld 16 48 ≠ 0 then { state := s, arg0 := 2 }
      else { state := s.modDev fun v => { v with mgmt := { v.mgmt with modno := d.arg0.setWidth 16 } } }

/-- `SET_QUEUE_PAIR_TABLE_BASE` (R467): a physical address, 128-byte aligned. -/
def execSetQueuePairTableBase (s : State) : Out :=
  .next <|
    s.mgmtRequest (· == 5) false fun s d =>
      if d.arg0.toNat % 128 ≠ 0 ∨ 0x003000000000 ≤ d.arg0.toNat then { state := s, arg0 := 2 }
      else { state := s.modDev fun v => { v with mgmt := { v.mgmt with qpbase := d.arg0.setWidth 40 } } }

/-- `REQUEST_BANK_RETIREMENT` (R63, R467): PEND of a live bank is set. -/
def execRequestBankRetirement (s : State) : Out :=
  .next <|
    s.mgmtRequest (· == 6) false fun s d =>
      if d.arg0.fld 7 1 ≠ 0 ∨ d.arg0.fld 13 51 ≠ 0 then { state := s, arg0 := 2 }
      else
        let b := d.arg0.fld 8 5
        { state := s.modCore (Fin.ofNat 128 (d.arg0.fld 0 7)) fun c => if c.live.getLsbD b then { c with pend := c.pend ||| (1#32 <<< b) } else c }

/-- `READ_METER_PAGE` (R467, R484): a context without a page is an invalid argument. -/
def execReadMeterPage (s : State) : Out :=
  .next <|
    s.mgmtRequest (· == 7) false fun s d =>
      let page := (s.ctxField (d.arg0.setWidth 16) 6).toNat
      if d.arg0.fld 16 48 ≠ 0 ∨ page = 0 then { state := s, arg0 := 2 } else { state := s, payload := s.dev.dram.read page 256 }

/-- The bytes of a monitor record (R487). -/
def Monitor.bytes (m : Monitor) : List Byte :=
  leBytes 8 m.least.toNat ++ leBytes 8 m.most.toNat ++ leBytes 8 m.count.toNat ++ (m.bins.toList.flatMap fun b => leBytes 4 b.toNat)
    ++ zeroBytes 8

/-- `READ_MONITOR` (R467, R488). -/
def execReadMonitor (s : State) : Out :=
  .next <|
    s.mgmtRequest (· == 8) false fun s d =>
      let i := monitorIdx (d.arg0.getLsbD 0) (Fin.ofNat 4 (d.arg0.fld 8 2))
      if d.arg0.fld 1 7 ≠ 0 ∨ d.arg0.fld 10 54 ≠ 0 ∨ d.arg1.fld 1 63 ≠ 0 then { state := s, arg0 := 2 }
      else
        { state := if d.arg1.getLsbD 0 then s.modDev fun v => { v with monitors := v.monitors.set i {} } else s,
          payload := (s.dev.monitors[i]).bytes }

/-- `WRITE_FLASH_IMAGE` (R467). -/
def execWriteFlashImage (s : State) : Out :=
  .next <|
    s.mgmtRequest (· == 9) true fun s d =>
      { state := s.modDev fun v => { v with flash := { v.flash with staged := v.flash.staged.write d.arg0.toNat d.payload } } }

/-- `COMMIT_FLASH_IMAGE` (R467): the image written so far, at the next start; while the device does not run, that start follows. -/
def execCommitFlashImage (s : State) : Out :=
  .next <|
    s.mgmtRequest (· == 10) true fun s d =>
      let image := s.dev.flash.staged.slice 0 d.arg0.toNat
      if !Config.flashGood image d.arg0.toNat then { state := s, arg0 := 5 }
      else
        { state := s.modDev fun v => { v with flash := { v.flash with image := image, length := d.arg0.toNat } },
          after := if s.dev.power = .running then none else some () }

/-- `OP_NOT_KNOWN` (R467): an authenticated request whose OP the table does not list is answered with status 1. -/
def execOpNotKnown (s : State) : Out := .next (s.mgmtRequest (10 < ·) true fun s _ => { state := s, arg0 := 1 })

end Sys2Proof.Machine
end

