-- ==== Sys2Proof/Machine/Tagged.lean ====
section
/-!
DEFINITION. Tagged words of the loft (R138, R157, R158).
-/
namespace Sys2Proof.Machine

/-! ## Tagged words (R157) -/

/-- A side of a command of core `m` covers the tagged word at offset `o` of the context's loft on core `n` (R113, R138): in the loft of its own
core, or through a window, which no translation moves; a ring side covers its ring. -/
def Cmd.coversWord (m : CoreId) (k : CoreCtx) (c : Cmd) (isDst : Bool) (n : CoreId) (o : Nat) : Bool :=
  let src := sideOf c.sl c.src
  let dst := sideOf c.dl c.dst
  let x := if isDst then dst else src
  let at_ := if x.space = 1 then o else windowBase n + o
  x.tags && (x.space != 1 || m == n) &&
    match x.ring with
    | some i =>
      let r := k.rings[i]
      r.slotAt 0 ≤ o && o < r.slotAt r.nslot
    | none => (Side.touched src dst isDst at_ (at_ + 4 : Nat)).isSome

/-- The tag owner of R138: the oldest committed command of the context, on any core, whose TAGS = 1 side covers the word and would make its
tag what the step awaits, `want`: a destination fills, a source empties. -/
def State.tagOwner (s : State) (t : Task) (o : Nat) (want : Bool) : WfOwner :=
  let ks := (s.commandsOf t.ctx).filter fun p =>
    p.2.kind.engine && p.2.kind != .signal && p.2.status != .building && p.2.coversWord p.1 (s.ctxOn p.1 t.ctx) want s.cur o
  match oldestCmd (ks.map (·.2)) with
  | some c => c.wfOwner
  | none => .unknown

/-- The object of a wait on a tagged word (R370). -/
def tagObj (n : CoreId) (a : Nat) : BitVec 48 := BitVec.ofNat 48 (windowBase n + a)

/-- A tagged instruction at the offset `sa + imm`: bounds, then the holds of R148, then the tag; `want` is the tag it awaits,
`none` when it awaits none. Steps that wait on one word are served in the order of their waits (R138). -/
def tagged (a : SReg) (i : BitVec 17) (write : Bool) (want : Option Bool) (f : Task → Nat → State → State) (s : State) : Out :=
  issue s fun t =>
    let k := s.cctx t
    let v := t.getS a + immI i
    match loftAddr k.psize v 4 4 with
    | none => s.bounds t v
    | some o =>
      match s.holdFirst t k write true [(o, 4)] (granules [(o, 4)]) with
      | some (s', w) => .wait s' w
      | none =>
        let s' := s.modCore s.cur fun c => c.touch t.ctx [(o, 4)] false
        let go := .ok (f t o (s'.modCore s.cur fun c => c.touch t.ctx [(o, 4)] write))
        match want with
        | none => go
        | some b =>
          let w : Waiter := { ctx := t.ctx, ring := false, obj := o, dir := b, owner := .task t.tid, inner := t.inHandler }
          if s'.tag t o == b && !(s.core s.cur).queued w then go
          else .wait (s'.modCore s.cur fun c => c.enqueue w)
            { okind := 0x03, obj := tagObj s.cur o, owner := s.tagOwner t o b }

/-- sd := the word, zero-extended. -/
def State.takeWord (s : State) (t : Task) (d : SReg) (o : Nat) : State :=
  s.modLive fun t' => t'.setS d (w64 (s.loftNum t o 4))

/-- The word := sd[31:0], and full. -/
def State.putWord (s : State) (t : Task) (d : SReg) (o : Nat) : State :=
  (s.loftWrite t o (leBytes 4 (t.getS d).toNat)).setTag t o true

/-- `ldf` (R157). -/
def execLdf (d a : SReg) (i : BitVec 17) (s : State) : Out :=
  tagged a i false (some true) (fun t o s => (s.takeWord t d o).setTag t o false) s
/-- `ldfp` (R157). -/
def execLdfp (d a : SReg) (i : BitVec 17) (s : State) : Out := tagged a i false (some true) (fun t o s => s.takeWord t d o) s
/-- `stf` (R157). -/
def execStf (d a : SReg) (i : BitVec 17) (s : State) : Out := tagged a i true (some false) (fun t o s => s.putWord t d o) s
/-- `stfx` (R157). -/
def execStfx (d a : SReg) (i : BitVec 17) (s : State) : Out := tagged a i true none (fun t o s => s.putWord t d o) s

/-- `tagrd` (R158): it never waits. -/
def execTagrd (d a : SReg) (i : BitVec 17) (s : State) : Out :=
  issue s fun t =>
    let v := t.getS a + immI i
    match loftAddr (s.cctx t).psize v 256 256 with
    | none => s.bounds t v
    | some o => .ok (s.setLive (t.setS d (w64 ((List.range 64).map fun j => bit (s.tag t (o + 4 * j)) * 2 ^ j).sum)))

/-- `tagw` (R158): the tags of sc[31:0] words from sa on. An address that fails the check traps with a count of 0 too (log entry 110).
DEDUCED (log entry 17): against the entries of the scoreboard it counts as a read, since it writes no data. -/
def tagWrite (full : Bool) (d a : SReg) (s : State) : Out :=
  issue s fun t =>
    let k := s.cctx t
    let v := (t.getS a).toNat
    let n := (t.getS d).fld 0 32
    if v % 4 ≠ 0 ∨ k.psize < v + 4 * n then s.bounds t (t.getS a)
    else s.access t [(v, 4 * n)] false true fun s =>
      .ok (s.modCore s.cur fun c =>
        { c with tags := c.tags.write ((k.base + v) / 4) (List.replicate n (if full then 1 else 0)) })

/-- `tagw.f` (R158). -/
def execTagwF (d a : SReg) (s : State) : Out := tagWrite true d a s
/-- `tagw.e` (R158). -/
def execTagwE (d a : SReg) (s : State) : Out := tagWrite false d a s

end Sys2Proof.Machine
end

