-- ==== Sys2Proof/Machine/Transfer.lean ====
section
/-!
DEFINITION. Control flow: conditional branches (R170), branch and call (R171), indirect transfers, the counted loop and the
return (R172, R173).
-/
namespace Sys2Proof.Machine

/-- A conditional branch: taken, it continues at the displacement from the bundle that holds it (R170). -/
def branchIf (c : W64 → W64 → Bool) (a b : SReg) (i : BitVec 17) (s : State) : Out :=
  issue s fun t => if c (t.getS a) (t.getS b) then .jump s (t.target (immI i)) else .ok s

/-- `beq` (R170). -/
def execBeq (a b : SReg) (i : BitVec 17) (s : State) : Out := branchIf (· == ·) a b i s
/-- `bne` (R170). -/
def execBne (a b : SReg) (i : BitVec 17) (s : State) : Out := branchIf (· != ·) a b i s
/-- `blt` (R170). -/
def execBlt (a b : SReg) (i : BitVec 17) (s : State) : Out := branchIf (fun x y => x.toInt < y.toInt) a b i s
/-- `bge` (R170). -/
def execBge (a b : SReg) (i : BitVec 17) (s : State) : Out := branchIf (fun x y => y.toInt ≤ x.toInt) a b i s
/-- `bltu` (R170). -/
def execBltu (a b : SReg) (i : BitVec 17) (s : State) : Out := branchIf (fun x y => x.toNat < y.toNat) a b i s
/-- `bgeu` (R170). -/
def execBgeu (a b : SReg) (i : BitVec 17) (s : State) : Out := branchIf (fun x y => y.toNat ≤ x.toNat) a b i s

/-- `br` (R171). -/
def execBr (i : BitVec 33) (s : State) : Out := issue s fun t => .jump s (t.target (immJ i))

/-- The link of a call: the next bundle (R171). -/
def Task.link (t : Task) : W64 := t.here + 16

/-- `call` (R171): s1 is the link. -/
def execCall (i : BitVec 33) (s : State) : Out :=
  issue s fun t => .jump (s.setLive (t.setS 1 t.link)) (t.target (immJ i))

/-- `jr` (R172). -/
def execJr (a : SReg) (s : State) : Out := issue s fun t => .jump s (indirect (t.getS a))

/-- `callr` (R172, R173): the class check, then the link and the transfer. -/
def execCallr (d a : SReg) (c : Fin 16) (s : State) : Out :=
  issue s fun t =>
    let v := t.getS a
    if v.fld 0 4 = c.val then .jump (s.setLive (t.setS d t.link)) (indirect v)
    else s.bounds t (w64 (v.fld 0 4 * 16 + c.val))

/-- `loop` (R172): the counter is decremented, wrapping; taken while it is not zero.
s0 as the counter reads zero after the discarded write, so the loop is not taken (log entry 7). -/
def execLoop (d : SReg) (i : Fin 1024) (s : State) : Out :=
  issue s fun t =>
    let t' := t.setS d (t.getS d - 1)
    if t'.getS d = 0 then .ok (s.setLive t') else .jump (s.setLive t') (t.target (-(w64 i.val)))

/-- `ret` (R172): a target whose low bits are not zero raises the bounds-violation trap. -/
def execRet (a : SReg) (s : State) : Out :=
  issue s fun t =>
    let v := t.getS a
    if v.fld 0 4 = 0 then .jump s (indirect v) else s.bounds t v

end Sys2Proof.Machine
end

