-- ==== Sys2Proof/Machine/Dispatch.lean ====
section
/-!
DEFINITION. The dispatcher: one arm per constructor of `Instr`, each a direct call of that instruction's meaning.
-/
namespace Sys2Proof.Machine

/-- What an instruction does to the machine. -/
def exec (i : Instr) (s : State) : Host.Outcome State Fault Refusal :=
  match i with
  | .add d a b => Sys2Proof.Machine.execAdd d a b s
  | .sub d a b => Sys2Proof.Machine.execSub d a b s
  | .mul d a b => Sys2Proof.Machine.execMul d a b s
  | .mulh d a b u => Sys2Proof.Machine.execMulh d a b u s
  | .div d a b u => Sys2Proof.Machine.execDiv d a b u s
  | .rem d a b u => Sys2Proof.Machine.execRem d a b u s
  | .and d a b => Sys2Proof.Machine.execAnd d a b s
  | .or d a b => Sys2Proof.Machine.execOr d a b s
  | .xor d a b => Sys2Proof.Machine.execXor d a b s
  | .andn d a b => Sys2Proof.Machine.execAndn d a b s
  | .sll d a b => Sys2Proof.Machine.execSll d a b s
  | .srl d a b => Sys2Proof.Machine.execSrl d a b s
  | .sra d a b => Sys2Proof.Machine.execSra d a b s
  | .slt d a b u => Sys2Proof.Machine.execSlt d a b u s
  | .min d a b u => Sys2Proof.Machine.execMin d a b u s
  | .max d a b u => Sys2Proof.Machine.execMax d a b u s
  | .adds d a b u => Sys2Proof.Machine.execAdds d a b u s
  | .subs d a b u => Sys2Proof.Machine.execSubs d a b u s
  | .clz d a => Sys2Proof.Machine.execClz d a s
  | .ctz d a => Sys2Proof.Machine.execCtz d a s
  | .popc d a => Sys2Proof.Machine.execPopc d a s
  | .shadd d a b k => Sys2Proof.Machine.execShadd d a b k s
  | .addi d a im => Sys2Proof.Machine.execAddi d a im s
  | .andi d a im => Sys2Proof.Machine.execAndi d a im s
  | .ori d a im => Sys2Proof.Machine.execOri d a im s
  | .xori d a im => Sys2Proof.Machine.execXori d a im s
  | .slti d a im => Sys2Proof.Machine.execSlti d a im s
  | .sltiu d a im => Sys2Proof.Machine.execSltiu d a im s
  | .muli d a im => Sys2Proof.Machine.execMuli d a im s
  | .seqi d a im => Sys2Proof.Machine.execSeqi d a im s
  | .lui d im => Sys2Proof.Machine.execLui d im s
  | .adrb d im => Sys2Proof.Machine.execAdrb d im s
  | .slli d a n => Sys2Proof.Machine.execSlli d a n s
  | .srli d a n => Sys2Proof.Machine.execSrli d a n s
  | .srai d a n => Sys2Proof.Machine.execSrai d a n s
  | .bfx d a l n => Sys2Proof.Machine.execBfx d a l n s
  | .beq a b im => Sys2Proof.Machine.execBeq a b im s
  | .bne a b im => Sys2Proof.Machine.execBne a b im s
  | .blt a b im => Sys2Proof.Machine.execBlt a b im s
  | .bge a b im => Sys2Proof.Machine.execBge a b im s
  | .bltu a b im => Sys2Proof.Machine.execBltu a b im s
  | .bgeu a b im => Sys2Proof.Machine.execBgeu a b im s
  | .br im => Sys2Proof.Machine.execBr im s
  | .call im => Sys2Proof.Machine.execCall im s
  | .jr a => Sys2Proof.Machine.execJr a s
  | .callr d a c => Sys2Proof.Machine.execCallr d a c s
  | .loop d im => Sys2Proof.Machine.execLoop d im s
  | .ret a => Sys2Proof.Machine.execRet a s
  | .kand d a b => Sys2Proof.Machine.execKand d a b s
  | .kor d a b => Sys2Proof.Machine.execKor d a b s
  | .kxor d a b => Sys2Proof.Machine.execKxor d a b s
  | .kandn d a b => Sys2Proof.Machine.execKandn d a b s
  | .kset d a => Sys2Proof.Machine.execKset d a s
  | .kcnt d a => Sys2Proof.Machine.execKcnt d a s
  | .kfind d a => Sys2Proof.Machine.execKfind d a s
  | .rdc d n => Sys2Proof.Machine.execRdc d n s
  | .wrc a n => Sys2Proof.Machine.execWrc a n s
  | .setc d a n => Sys2Proof.Machine.execSetc d a n s
  | .clrc d a n => Sys2Proof.Machine.execClrc d a n s
  | .xchc d a n => Sys2Proof.Machine.execXchc d a n s
  | .addc d a n => Sys2Proof.Machine.execAddc d a n s
  | .rdcz d n => Sys2Proof.Machine.execRdcz d n s
  | .rdcr d a => Sys2Proof.Machine.execRdcr d a s
  | .writeCVl a => Sys2Proof.Machine.execWriteCVl a s
  | .writeCPri a => Sys2Proof.Machine.execWriteCPri a s
  | .tlbinvPage a b z => Sys2Proof.Machine.execTlbinvPage a b z s
  | .tlbinvCtx b => Sys2Proof.Machine.execTlbinvCtx b s
  | .rgsyncWb a b => Sys2Proof.Machine.execRgsyncWb a b s
  | .rgsyncFill a b => Sys2Proof.Machine.execRgsyncFill a b s
  | .rgsyncEvict a b => Sys2Proof.Machine.execRgsyncEvict a b s
  | .rgsyncDiscard a b => Sys2Proof.Machine.execRgsyncDiscard a b s
  | .phase d => Sys2Proof.Machine.execPhase d s
  | .phaseC d => Sys2Proof.Machine.execPhaseC d s
  | .phleft d => Sys2Proof.Machine.execPhleft d s
  | .phuntil d a => Sys2Proof.Machine.execPhuntil d a s
  | .spawn a => Sys2Proof.Machine.execSpawn a s
  | .spawnt a b => Sys2Proof.Machine.execSpawnt a b s
  | .join d a => Sys2Proof.Machine.execJoin d a s
  | .grow d a => Sys2Proof.Machine.execGrow d a s
  | .tendj a => Sys2Proof.Machine.execTendj a s
  | .launch d a b => Sys2Proof.Machine.execLaunch d a b s
  | .trap n => Sys2Proof.Machine.execTrap n s
  | .ckpt a => Sys2Proof.Machine.execCkpt a s
  | .fqwait d => Sys2Proof.Machine.execFqwait d s
  | .fqpop d a b => Sys2Proof.Machine.execFqpop d a b s
  | .ctxkill a => Sys2Proof.Machine.execCtxkill a s
  | .ctxrel a => Sys2Proof.Machine.execCtxrel a s
  | .vadd d a b t => Sys2Proof.Machine.execVadd d a b t s
  | .vadds d a b t => Sys2Proof.Machine.execVadds d a b t s
  | .vsub d a b t => Sys2Proof.Machine.execVsub d a b t s
  | .vsubs d a b t => Sys2Proof.Machine.execVsubs d a b t s
  | .vmul d a b t => Sys2Proof.Machine.execVmul d a b t s
  | .vmulh d a b t => Sys2Proof.Machine.execVmulh d a b t s
  | .vmin d a b t => Sys2Proof.Machine.execVmin d a b t s
  | .vmax d a b t => Sys2Proof.Machine.execVmax d a b t s
  | .vand d a b t => Sys2Proof.Machine.execVand d a b t s
  | .vor d a b t => Sys2Proof.Machine.execVor d a b t s
  | .vxor d a b t => Sys2Proof.Machine.execVxor d a b t s
  | .vsll d a b t => Sys2Proof.Machine.execVsll d a b t s
  | .vsr d a b t => Sys2Proof.Machine.execVsr d a b t s
  | .vcmp c k a b t => Sys2Proof.Machine.execVcmp c k a b t s
  | .vsplat d a t => Sys2Proof.Machine.execVsplat d a t s
  | .vmvs d a b t => Sys2Proof.Machine.execVmvs d a b t s
  | .vfadd d a b t r => Sys2Proof.Machine.execVfadd d a b t r s
  | .vfsub d a b t r => Sys2Proof.Machine.execVfsub d a b t r s
  | .vfmul d a b t r => Sys2Proof.Machine.execVfmul d a b t r s
  | .vfdiv d a b t r => Sys2Proof.Machine.execVfdiv d a b t r s
  | .vfsqrt d a k t r => Sys2Proof.Machine.execVfsqrt d a k t r s
  | .vfrsqrt d a k t r => Sys2Proof.Machine.execVfrsqrt d a k t r s
  | .vfmin d a b t => Sys2Proof.Machine.execVfmin d a b t s
  | .vfmax d a b t => Sys2Proof.Machine.execVfmax d a b t s
  | .vfabs d a k t => Sys2Proof.Machine.execVfabs d a k t s
  | .vfneg d a k t => Sys2Proof.Machine.execVfneg d a k t s
  | .vfcmp c k a b t => Sys2Proof.Machine.execVfcmp c k a b t s
  | .vfsplat d a t r => Sys2Proof.Machine.execVfsplat d a t r s
  | .vfscl d a b t r => Sys2Proof.Machine.execVfscl d a b t r s
  | .vfsgnj d a b t => Sys2Proof.Machine.execVfsgnj d a b t s
  | .vfmaF32 d a b c => Sys2Proof.Machine.execVfmaF32 d a b c s
  | .vfnmaF32 d a b c => Sys2Proof.Machine.execVfnmaF32 d a b c s
  | .vfmaBf16 d a b c => Sys2Proof.Machine.execVfmaBf16 d a b c s
  | .vfmaF16 d a b c => Sys2Proof.Machine.execVfmaF16 d a b c s
  | .vfmawBf16 d a b c => Sys2Proof.Machine.execVfmawBf16 d a b c s
  | .vsel d a b w k => Sys2Proof.Machine.execVsel d a b w k s
  | .vcvt d a q t => Sys2Proof.Machine.execVcvt d a q t s
  | .vbmax d a f t => Sys2Proof.Machine.execVbmax d a f t s
  | .vqnt d a f t o => Sys2Proof.Machine.execVqnt d a f t o s
  | .vdqnt d a t => Sys2Proof.Machine.execVdqnt d a t s
  | .vhad d a t g => Sys2Proof.Machine.execVhad d a t g s
  | .vfrnd d a k t r => Sys2Proof.Machine.execVfrnd d a k t r s
  | .vbhdr d a => Sys2Proof.Machine.execVbhdr d a s
  | .vfexp2 d a k t r => Sys2Proof.Machine.execVfexp2 d a k t r s
  | .vperm d a b t => Sys2Proof.Machine.execVperm d a b t s
  | .vslideup d a b t => Sys2Proof.Machine.execVslideup d a b t s
  | .vslidedn d a b t => Sys2Proof.Machine.execVslidedn d a b t s
  | .vred d a o k t => Sys2Proof.Machine.execVred d a o k t s
  | .vscan d a o k t => Sys2Proof.Machine.execVscan d a o k t s
  | .vidx d t => Sys2Proof.Machine.execVidx d t s
  | .tdef d a => Sys2Proof.Machine.execTdef d a s
  | .tzero d => Sys2Proof.Machine.execTzero d s
  | .ttrn d a => Sys2Proof.Machine.execTtrn d a s
  | .tcvt d a => Sys2Proof.Machine.execTcvt d a s
  | .tgetr d a b => Sys2Proof.Machine.execTgetr d a b s
  | .tputr d a b => Sys2Proof.Machine.execTputr d a b s
  | .mgset a => Sys2Proof.Machine.execMgset a s
  | .mgoff d a => Sys2Proof.Machine.execMgoff d a s
  | .mgget d a => Sys2Proof.Machine.execMgget d a s
  | .mggetN d => Sys2Proof.Machine.execMggetN d s
  | .mcall im p w d => Sys2Proof.Machine.execMcall im p w d s
  | .mcallRty im p w d => Sys2Proof.Machine.execMcallRty im p w d s
  | .mmodeS a => Sys2Proof.Machine.execMmodeS a s
  | .mmodeC a => Sys2Proof.Machine.execMmodeC a s
  | .mmodeRd d => Sys2Proof.Machine.execMmodeRd d s
  | .mcal a => Sys2Proof.Machine.execMcal a s
  | .mcalRd d a => Sys2Proof.Machine.execMcalRd d a s
  | .mdescRd d a => Sys2Proof.Machine.execMdescRd d a s
  | .mdescWr a b => Sys2Proof.Machine.execMdescWr a b s
  | .mpw d a => Sys2Proof.Machine.execMpw d a s
  | .mpr d a => Sys2Proof.Machine.execMpr d a s
  | .mucw a b => Sys2Proof.Machine.execMucw a b s
  | .mucr d a => Sys2Proof.Machine.execMucr d a s
  | .mstat d a => Sys2Proof.Machine.execMstat d a s
  | .mstatClip d a b => Sys2Proof.Machine.execMstatClip d a b s
  | .mcwait a => Sys2Proof.Machine.execMcwait a s
  | .mdrainA d a => Sys2Proof.Machine.execMdrainA d a s
  | .mdrainB d a => Sys2Proof.Machine.execMdrainB d a s
  | .mdrainU d => Sys2Proof.Machine.execMdrainU d s
  | .mrestA d a => Sys2Proof.Machine.execMrestA d a s
  | .mrestB d a => Sys2Proof.Machine.execMrestB d a s
  | .mrestU d => Sys2Proof.Machine.execMrestU d s
  | .mzero a => Sys2Proof.Machine.execMzero a s
  | .mtacc d a b => Sys2Proof.Machine.execMtacc d a b s
  | .ldScalar d a im => Sys2Proof.Machine.execLdScalar d a im s
  | .stScalar d a im => Sys2Proof.Machine.execStScalar d a im s
  | .ldVector d a im => Sys2Proof.Machine.execLdVector d a im s
  | .stVector d a im => Sys2Proof.Machine.execStVector d a im s
  | .ldw d a im => Sys2Proof.Machine.execLdw d a im s
  | .stw d a im => Sys2Proof.Machine.execStw d a im s
  | .ldrec d a im => Sys2Proof.Machine.execLdrec d a im s
  | .strec d a im => Sys2Proof.Machine.execStrec d a im s
  | .ldScalarX d a x f => Sys2Proof.Machine.execLdScalarX d a x f s
  | .stScalarX d a x f => Sys2Proof.Machine.execStScalarX d a x f s
  | .ldVectorX d a x f => Sys2Proof.Machine.execLdVectorX d a x f s
  | .stVectorX d a x f => Sys2Proof.Machine.execStVectorX d a x f s
  | .ldwX d a x f => Sys2Proof.Machine.execLdwX d a x f s
  | .stwX d a x f => Sys2Proof.Machine.execStwX d a x f s
  | .ldg d a x k => Sys2Proof.Machine.execLdg d a x k s
  | .stg d a x k => Sys2Proof.Machine.execStg d a x k s
  | .ldf d a im => Sys2Proof.Machine.execLdf d a im s
  | .ldfp d a im => Sys2Proof.Machine.execLdfp d a im s
  | .stf d a im => Sys2Proof.Machine.execStf d a im s
  | .tagrd d a im => Sys2Proof.Machine.execTagrd d a im s
  | .tagwF d a => Sys2Proof.Machine.execTagwF d a s
  | .tagwE d a => Sys2Proof.Machine.execTagwE d a s
  | .racqW d n => Sys2Proof.Machine.execRacqW d n s
  | .racqR d n => Sys2Proof.Machine.execRacqR d n s
  | .rrelW n => Sys2Proof.Machine.execRrelW n s
  | .rrelR n => Sys2Proof.Machine.execRrelR n s
  | .stfx d a im => Sys2Proof.Machine.execStfx d a im s
  | .cpy d a b e => Sys2Proof.Machine.execCpy d a b e s
  | .cpyg d e => Sys2Proof.Machine.execCpyg d e s
  | .cpyc e => Sys2Proof.Machine.execCpyc e s
  | .cpyr e o => Sys2Proof.Machine.execCpyr e o s
  | .cpys a b e z => Sys2Proof.Machine.execCpys a b e z s
  | .ctabw a b => Sys2Proof.Machine.execCtabw a b s
  | .recw d a w => Sys2Proof.Machine.execRecw d a w s
  | .recr d a w => Sys2Proof.Machine.execRecr d a w s
  | .cpyxStat d e => Sys2Proof.Machine.execCpyxStat d e s
  | .cpyxResume a b => Sys2Proof.Machine.execCpyxResume a b s
  | .cpyxAbort a => Sys2Proof.Machine.execCpyxAbort a s
  | .xfer d a b e z => Sys2Proof.Machine.execXfer d a b e z s
  | .xredAdd d a b t => Sys2Proof.Machine.execXredAdd d a b t s
  | .xredMax d a b t => Sys2Proof.Machine.execXredMax d a b t s
  | .xredMin d a b t => Sys2Proof.Machine.execXredMin d a b t s
  | .xsig a b e z => Sys2Proof.Machine.execXsig a b e z s
  | .aadd d a b w z => Sys2Proof.Machine.execAadd d a b w z s
  | .aand d a b w z => Sys2Proof.Machine.execAand d a b w z s
  | .aor d a b w z => Sys2Proof.Machine.execAor d a b w z s
  | .axch d a b w z => Sys2Proof.Machine.execAxch d a b w z s
  | .amax d a b w z => Sys2Proof.Machine.execAmax d a b w z s
  | .amin d a b w z => Sys2Proof.Machine.execAmin d a b w z s
  | .acas d a b w z => Sys2Proof.Machine.execAcas d a b w z s
  | .ald d a w z => Sys2Proof.Machine.execAld d a w z s
  | .binit a => Sys2Proof.Machine.execBinit a s
  | .bexp a b => Sys2Proof.Machine.execBexp a b s
  | .barv d a b z => Sys2Proof.Machine.execBarv d a b z s
  | .bwait a => Sys2Proof.Machine.execBwait a s
  | .bwaitPh a b => Sys2Proof.Machine.execBwaitPh a b s
  | .mwaitGe d a b z => Sys2Proof.Machine.execMwaitGe d a b z s
  | .mwaitNe d a b z => Sys2Proof.Machine.execMwaitNe d a b z s
  | .drain z => Sys2Proof.Machine.execDrain z s
  | .drainE z => Sys2Proof.Machine.execDrainE z s
  | .fence z => Sys2Proof.Machine.execFence z s
  | .ast a b w z => Sys2Proof.Machine.execAst a b w z s
  | .teth d a => Sys2Proof.Machine.execTeth d a s
  | .tethown d a => Sys2Proof.Machine.execTethown d a s
  | .unteth a => Sys2Proof.Machine.execUnteth a s
  | .untethO a => Sys2Proof.Machine.execUntethO a s
  | .lkacq d a z => Sys2Proof.Machine.execLkacq d a z s
  | .lkacqTry d a z => Sys2Proof.Machine.execLkacqTry d a z s
  | .lkrel a z => Sys2Proof.Machine.execLkrel a z s
  | .nop => Sys2Proof.Machine.execNop s
  | .writeCTdim => Sys2Proof.Machine.execWriteCTdim s
  | .writeCRgva => Sys2Proof.Machine.execWriteCRgva s
  | .writeCRgloc => Sys2Proof.Machine.execWriteCRgloc s
  | .writeCRngd => Sys2Proof.Machine.execWriteCRngd s
  | .writeCPtbase => Sys2Proof.Machine.execWriteCPtbase s
  | .writeCPtlog => Sys2Proof.Machine.execWriteCPtlog s
  | .writeCNsave => Sys2Proof.Machine.execWriteCNsave s
  | .writeCQueue => Sys2Proof.Machine.execWriteCQueue s
  | .writeCWfdl => Sys2Proof.Machine.execWriteCWfdl s
  | .writeCPstat => Sys2Proof.Machine.execWriteCPstat s
  | .tlbinvAll => Sys2Proof.Machine.execTlbinvAll s
  | .phreq => Sys2Proof.Machine.execPhreq s
  | .park => Sys2Proof.Machine.execPark s
  | .tend => Sys2Proof.Machine.execTend s
  | .rett => Sys2Proof.Machine.execRett s
  | .ctxsw => Sys2Proof.Machine.execCtxsw s
  | .ctxswRel => Sys2Proof.Machine.execCtxswRel s
  | .mgarm => Sys2Proof.Machine.execMgarm s
  | .mgdrop => Sys2Proof.Machine.execMgdrop s
  | .mcwaitAll => Sys2Proof.Machine.execMcwaitAll s
  | .ctabc => Sys2Proof.Machine.execCtabc s
  | .untethA => Sys2Proof.Machine.execUntethA s
  | .unop => Sys2Proof.Machine.execUnop s
  | .uldi => Sys2Proof.Machine.execUldi s
  | .uldm => Sys2Proof.Machine.execUldm s
  | .uadd => Sys2Proof.Machine.execUadd s
  | .ulc => Sys2Proof.Machine.execUlc s
  | .ubr => Sys2Proof.Machine.execUbr s
  | .ufeed => Sys2Proof.Machine.execUfeed s
  | .upass => Sys2Proof.Machine.execUpass s
  | .uzero => Sys2Proof.Machine.execUzero s
  | .uout => Sys2Proof.Machine.execUout s
  | .uwin => Sys2Proof.Machine.execUwin s
  | .uspl => Sys2Proof.Machine.execUspl s
  | .ucal => Sys2Proof.Machine.execUcal s
  | .ustat => Sys2Proof.Machine.execUstat s
  | .instructionFetch => Sys2Proof.Machine.execInstructionFetch s
  | .bundleDecode => Sys2Proof.Machine.execBundleDecode s
  | .effRecompute => Sys2Proof.Machine.execEffRecompute s
  | .untetheredRetest => Sys2Proof.Machine.execUntetheredRetest s
  | .monitorNotify => Sys2Proof.Machine.execMonitorNotify s
  | .commandActivate => Sys2Proof.Machine.execCommandActivate s
  | .granuleDeliver => Sys2Proof.Machine.execGranuleDeliver s
  | .pageWalk => Sys2Proof.Machine.execPageWalk s
  | .regionFill => Sys2Proof.Machine.execRegionFill s
  | .writeBack => Sys2Proof.Machine.execWriteBack s
  | .windowAccess => Sys2Proof.Machine.execWindowAccess s
  | .sliceAccess => Sys2Proof.Machine.execSliceAccess s
  | .routerMerge => Sys2Proof.Machine.execRouterMerge s
  | .reductionApply => Sys2Proof.Machine.execReductionApply s
  | .remoteAtomic => Sys2Proof.Machine.execRemoteAtomic s
  | .jobCompletionStamp => Sys2Proof.Machine.execJobCompletionStamp s
  | .callStart => Sys2Proof.Machine.execCallStart s
  | .mtaccMember => Sys2Proof.Machine.execMtaccMember s
  | .calibrationStart => Sys2Proof.Machine.execCalibrationStart s
  | .calibrationEnd => Sys2Proof.Machine.execCalibrationEnd s
  | .temperatureSample => Sys2Proof.Machine.execTemperatureSample s
  | .ageStep => Sys2Proof.Machine.execAgeStep s
  | .powerLimitExceeded => Sys2Proof.Machine.execPowerLimitExceeded s
  | .computeClose => Sys2Proof.Machine.execComputeClose s
  | .exchangeClose => Sys2Proof.Machine.execExchangeClose s
  | .computeBudgetExpiry => Sys2Proof.Machine.execComputeBudgetExpiry s
  | .exchangeBudgetExpiry => Sys2Proof.Machine.execExchangeBudgetExpiry s
  | .truncation => Sys2Proof.Machine.execTruncation s
  | .dispatch => Sys2Proof.Machine.execDispatch s
  | .preemptionRequest => Sys2Proof.Machine.execPreemptionRequest s
  | .teamStart => Sys2Proof.Machine.execTeamStart s
  | .stealRequest => Sys2Proof.Machine.execStealRequest s
  | .stealAnswer => Sys2Proof.Machine.execStealAnswer s
  | .launchPacket => Sys2Proof.Machine.execLaunchPacket s
  | .deviceCtxsw => Sys2Proof.Machine.execDeviceCtxsw s
  | .contextRestore => Sys2Proof.Machine.execContextRestore s
  | .uncorrectableError => Sys2Proof.Machine.execUncorrectableError s
  | .rdmaWrite => Sys2Proof.Machine.execRdmaWrite s
  | .rdmaRead => Sys2Proof.Machine.execRdmaRead s
  | .send => Sys2Proof.Machine.execSend s
  | .invalidRequest => Sys2Proof.Machine.execInvalidRequest s
  | .ceMarkedPacket => Sys2Proof.Machine.execCeMarkedPacket s
  | .cnp => Sys2Proof.Machine.execCnp s
  | .rateRecovery => Sys2Proof.Machine.execRateRecovery s
  | .doorbell => Sys2Proof.Machine.execDoorbell s
  | .workRequestWrite => Sys2Proof.Machine.execWorkRequestWrite s
  | .workRequestRead => Sys2Proof.Machine.execWorkRequestRead s
  | .workRequestSend => Sys2Proof.Machine.execWorkRequestSend s
  | .peerWrite => Sys2Proof.Machine.execPeerWrite s
  | .peerReduce => Sys2Proof.Machine.execPeerReduce s
  | .peerLaunch => Sys2Proof.Machine.execPeerLaunch s
  | .workRequestEnd => Sys2Proof.Machine.execWorkRequestEnd s
  | .dataFrame => Sys2Proof.Machine.execDataFrame s
  | .acknowledgementFrame => Sys2Proof.Machine.execAcknowledgementFrame s
  | .replayRequest => Sys2Proof.Machine.execReplayRequest s
  | .idleFrame => Sys2Proof.Machine.execIdleFrame s
  | .hello => Sys2Proof.Machine.execHello s
  | .readStartUpReport => Sys2Proof.Machine.execReadStartUpReport s
  | .retryStart => Sys2Proof.Machine.execRetryStart s
  | .resetRequest => Sys2Proof.Machine.execResetRequest s
  | .setModuleNumber => Sys2Proof.Machine.execSetModuleNumber s
  | .setQueuePairTableBase => Sys2Proof.Machine.execSetQueuePairTableBase s
  | .requestBankRetirement => Sys2Proof.Machine.execRequestBankRetirement s
  | .readMeterPage => Sys2Proof.Machine.execReadMeterPage s
  | .readMonitor => Sys2Proof.Machine.execReadMonitor s
  | .writeFlashImage => Sys2Proof.Machine.execWriteFlashImage s
  | .commitFlashImage => Sys2Proof.Machine.execCommitFlashImage s
  | .powerOn => Sys2Proof.Machine.execPowerOn s
  | .modulePowerWithinLimit => Sys2Proof.Machine.execModulePowerWithinLimit s
  | .opNotKnown => Sys2Proof.Machine.execOpNotKnown s
  | .corruptFrame => Sys2Proof.Machine.execCorruptFrame s

end Sys2Proof.Machine
end

