-- ==== Sys2Proof/Machine/Turns.lean ====
section
/-!
DEFINITION. Turns: a core chooses a task (R348) and issues its next group (R39 to R43, R399, R419), a matrix unit runs its next
micro-word (R265), or the device takes a step by itself; and the time that passes meanwhile.
-/
namespace Sys2Proof.Machine

/-! ## A group (R39 to R43, R399, R419) -/

/-- An instruction of a group, as it would act alone. -/
def State.slotActs (s : State) (p : Slot) : Out := exec p.instr { s with slot := Fin.ofNat 4 p.slot }

/-- The instruction keeps its group from performing: it waits, or raises a trap that leaves its group unperformed. -/
def Flow.blocks : Flow → Bool
  | .waiting _ => true
  | .trapped c => c.cls != 0x0A && c.cls != 0x08
  | _ => false

/-- The class of a trap that is checked before any instruction of the group waits (R419). -/
def Flow.early (cls : BitVec 8) : Flow → Bool
  | .trapped c => c.cls == cls
  | _ => false

/-- What the instructions of a group would do, each alone. -/
def State.groupActs (s : State) : List Slot → Except Out (List (Slot × State))
  | [] => .ok []
  | p :: ps =>
    match s.slotActs p with
    | .next s' => match s.groupActs ps with | .ok l => .ok ((p, s') :: l) | .error o => .error o
    | o => .error o

/-- The instruction sends an access to another home. -/
def State.sends (s s' : State) : Bool := (s'.live.map fun t => t.remote ++ t.inner) != s.live.map fun t => t.remote ++ t.inner

/-- The instruction that decides a group that does not perform: checks before waits, and within a step the lowest slot. An access that performs at
another home goes out last of all; joint ones, which only travel, go out first (R399). -/
def State.blocking (s : State) (l : List (Slot × State)) : Option State :=
  let first (p : Flow → Bool) (q : State → Bool) : Option State := (l.find? fun (x : Slot × State) => p x.2.flow && q x.2).map (·.2)
  let any (_ : State) : Bool := true
  first (Flow.early 0x01) any <|> first (Flow.early 0x03) any <|> first (Flow.early 0x09) any
    <|> first Flow.blocks (fun s' => s.sends s' == s.joint) <|> first Flow.blocks any

/-- The instruction reads registers or memory, and of memory changes at most a tag. -/
def readsOnly : Instr → Bool
  | .rdc .. | .rdcr .. | .mmodeRd .. | .mcalRd .. | .mdescRd .. | .mucr .. | .mstat .. | .mstatClip ..
  | .ldScalar .. | .ldVector .. | .ldw .. | .ldrec .. | .ldScalarX .. | .ldVectorX .. | .ldwX .. | .ldg .. | .ldf .. | .ldfp .. | .tagrd ..
  | .spawn .. | .spawnt .. | .launch .. | .ald .. | .mwaitGe .. | .mwaitNe .. | .bwait .. | .bwaitPh .. | .cpyxResume .. => true
  | _ => false

/-- The instruction is a read of a control register (R183). -/
def readsCtrl : Instr → Bool
  | .rdc .. | .rdcr .. => true
  | _ => false

/-- The instruction is a join (R361). -/
def joins : Instr → Bool
  | .join .. => true
  | _ => false

/-- The instruction writes a control register (R177). -/
def writesCtrl : Instr → Bool
  | .wrc .. | .setc .. | .clrc .. | .xchc .. | .addc .. | .rdcz .. | .writeCVl .. | .writeCPri .. => true
  | _ => false

/-- The instruction leaves its task, or enters a trap: it performs after the others of its group. -/
def leaves : Instr → Bool
  | .trap .. | .tend | .ctxkill .. | .ctxsw | .ctxswRel | .park | .rett => true
  | _ => false

/-- The instruction accesses memory. -/
def touches : Instr → Bool
  | .ldScalar .. | .ldVector .. | .ldw .. | .ldrec .. | .ldScalarX .. | .ldVectorX .. | .ldwX .. | .ldg ..
  | .stScalar .. | .stVector .. | .stw .. | .strec .. | .stScalarX .. | .stVectorX .. | .stwX .. | .stg ..
  | .ldf .. | .ldfp .. | .stf .. | .stfx .. | .tagrd .. | .tagwF .. | .tagwE .. | .spawn .. | .spawnt .. | .join .. | .tendj .. | .launch ..
  | .aadd .. | .aand .. | .aor .. | .axch .. | .amax .. | .amin .. | .acas .. | .ald .. | .ast .. | .binit .. | .bexp .. | .barv ..
  | .bwait .. | .bwaitPh .. | .mwaitGe .. | .mwaitNe .. | .lkacq .. | .lkacqTry .. | .lkrel .. | .cpyxResume .. | .fqpop .. => true
  | _ => false

/-- The instruction is `trap`. -/
def isTrap : Instr → Bool
  | .trap .. => true
  | _ => false

/-- The join of a `tendj`, which reads its record with its group; the rest of it ends the task after the group's writes (R361, R399). -/
def parted (p : Slot) : List Slot :=
  match p.instr with
  | .tendj a => [{ p with instr := .join 0 a }, { p with instr := .tend }]
  | _ => [p]

/-- The order in which a group performs, so that all its reads come before its writes (R39, R399): control registers, memory that is read alone, then
joins, which read a record and change a word that a store of slot 3 does not read, then writes, those of control registers last. Steps of a join
and of a slot-3 instruction on one word, which R361 and R386 keep indivisible, follow one another (DEDUCED; log entry 119). Of several traps the one in the lowest slot is
taken, last of all (R417, R419). -/
def groupOrder (g : List Slot) : List Slot :=
  let g := g.flatMap parted
  let acts (p : Slot) : Bool := !readsOnly p.instr && !joins p.instr && !writesCtrl p.instr && !leaves p.instr
  g.filter (fun p => readsCtrl p.instr) ++ g.filter (fun p => readsOnly p.instr && !readsCtrl p.instr) ++ g.filter (fun p => joins p.instr)
    ++ g.filter acts ++ g.filter (fun p => writesCtrl p.instr)
    ++ g.filter (fun p => leaves p.instr && !isTrap p.instr) ++ (g.filter fun p => isTrap p.instr).take 1

/-- An instruction of a group in its turn; a control form reads its register as the group found it, in `s0` (R39). -/
def State.actsOn (s0 s : State) (p : Slot) : Out :=
  match ctrlParts p.instr, s0.live with
  | some (d, n, f), some t0 =>
    issue { s with slot := Fin.ofNat 4 p.slot } fun t =>
      s.ctrlAct t d n.toNat (some (f t)) (s0.readCtrl s0.cur (s0.cctx t0) t0 n.toNat)
  | _, _ => s.slotActs p

/-- Where the group's transfer goes: what an instruction asks for wins over going on. -/
def Flow.after (f g : Flow) : Flow := match g with | .next => f | _ => g

/-- The group performs; `f` is the flow so far. An instruction that now waits or traps, because of what
another of its group did, makes the whole group wait or trap; once the task has left its bank, nothing of its group is left to perform. -/
def State.performGroup (s0 : State) (t : Task) : State → Flow → List Slot → Out
  | s, f, [] => .next { s with flow := f }
  | s, f, p :: ps =>
    if s.live.isNone then .next { s with flow := f }
    else
      match s0.actsOn s p with
      | .next s' =>
        match s'.flow with
        | .waiting w => .next (({ s0 with slot := Fin.ofNat 4 p.slot } : State).registerWait t w)
        | .trapped c => if s'.flow.blocks then .next (s0.takeTrap t c) else s0.performGroup t s' (f.after s'.flow) ps
        | g => s0.performGroup t s' (f.after g) ps
      | o => o

/-- A task that has moved gives up early loads of other places than its own (R401). -/
def State.keepEarly (s : State) : State :=
  match s.live with
  | none => s
  | some t =>
    match (t.remote ++ t.inner).filter fun r => r.early && !(r.pc == t.pc && r.slot == t.slot) with
    | [] => s
    | rs => (s.forgetRequests s.cur rs).modLive fun t => rs.foldl (fun t r => t.unnote r.uid) t

/-- Where a task stands after a group: at a transfer's target, at the next group of its bundle, or at the next bundle (R38, R39). -/
def State.advancePc (s : State) (l : List Slot) (g : List Slot) : State :=
  match s.flow with
  | .jump a => s.modLive fun t => { t with pc := a, slot := 0, bundle := none }
  | .resume a k => s.modLive fun t => { t with pc := a, slot := k, bundle := none }
  | .next =>
    let last := (g.map (·.slot)).foldl Max.max 0
    match l.find? fun p => last < p.slot with
    | some p => s.modLive fun t => { t with slot := Fin.ofNat 4 p.slot }
    | none => s.modLive fun t => { t with pc := t.pc + 16, slot := 0, bundle := none }
  | _ => s

/-- Advance after an outcome. -/
def advanceOut (l g : List Slot) : Out → Out
  | .next s => .next (s.advancePc l g).keepEarly
  | o => o

/-- A group of one instruction. -/
def State.runOne (s : State) (l : List Slot) (p : Slot) : Out := advanceOut l [p] (s.slotActs p)

/-- The trap of a register-dependent pair (R40). It and the other checks of illegal encoding at issue are one step, in which the lowest slot decides
(R419); in one slot it comes first. -/
def State.dependence (s : State) (t : Task) (g : List Slot) (acts : List (Slot × State)) : Option State :=
  match dependentSlot t (g.map fun p => (Fin.ofNat 4 p.slot, p.instr)) with
  | none => none
  | some k =>
    if acts.any fun x => Flow.early 0x01 x.2.flow && x.1.slot < k.val then none
    else some (({ s with slot := k } : State).takeTrap t { cls := 0x01, detail := 0x04, slot := k, retPc := t.pc, retSlot := t.slot })

/-- A group of several instructions: all of them, or none (R43, R418, R419). Its accesses to memory perform together (R399). -/
def State.runMany (s : State) (t : Task) (l g : List Slot) : Out :=
  let s : State := { s with joint := decide (2 ≤ (g.filter fun (p : Slot) => touches p.instr).length) }
  match s.groupActs g with
  | .error o => o
  | .ok acts =>
    match (s.dependence t g acts).or (s.blocking acts) with
    | some s' => .next s'
    | none => advanceOut l g (s.performGroup t s .next (groupOrder g))

/-- The instruction comes after the stores of its task that are on their way: a release, or what reads the memory of others (R402). -/
def followsStores : Instr → Bool
  | .aadd .. | .aand .. | .aor .. | .axch .. | .amax .. | .amin .. | .acas .. | .ast .. | .barv .. | .lkacq .. | .lkacqTry .. | .lkrel ..
  | .stf .. | .stfx .. | .spawn .. | .spawnt .. | .join .. | .tendj .. | .tend | .launch .. | .rrelW .. | .rrelR .. | .fence .. | .ctxsw
  | .ctxswRel | .rett | .ctxkill .. => true
  | _ => false

/-- The task's next group, when its bundle is at hand and it is the next of this bundle or the first of the next one. -/
def State.nextGroup (s : State) (t : Task) (l g : List Slot) : Option (BitVec 56 × List Slot) :=
  let last := (g.map (·.slot)).foldl Max.max 0
  match l.find? fun p => last < p.slot with
  | some p => some (t.pc, groupAt l (Fin.ofNat 4 p.slot))
  | none =>
    (s.codeAt s.cur (s.cctx t).asn (t.pc + 16).toNat).bind fun pa =>
      match decodeBundle (BitVec.ofNat 128 (s.dev.dram.num pa 16)) with
      | .ok l' => some (t.pc + 16, groupAt l' (firstSlot l' 0))
      | .error _ => none

/-- The load of the next group, sent ahead of the one that the task waits for: both are `ald` of other words at other homes, which may perform there in
any order (R401), as the scope of the first, `.core`, orders nothing there (R402). -/
def State.sendAhead (s : State) (t : Task) (d : SReg) (first : Remote) (pc : BitVec 56) (p : Slot) : State :=
  match p.instr with
  | .ald d' a' w' _ =>
    let v := t.getS a'
    let n := syncBytes w'
    let va := v.toNat % 2 ^ 56
    if (d ≠ 0 ∧ (a' = d ∨ d' = d)) ∨ v.toNat < 0x300000 ∨ va % n ≠ 0 ∨ t.posting ∨ t.requests.any (·.early) then s
    else
      match s.translate s.cur (s.cctx t).asn va false with
      | .pa pa =>
        if syncLocal s.cur pa ∨ (pa < first.addr + first.size ∧ first.addr < pa + n) then s
        else
          let t' := { t with pc := pc, slot := Fin.ofNat 4 p.slot }
          let (k, s) := s.newCarrier t va (earlyKey + carrierKey t' (Fin.ofNat 4 p.slot))
          s.syncPacket t { uid := k.uid, pc := pc, slot := Fin.ofNat 4 p.slot, op := .load, addr := pa, wide := n != 4, arg := 0,
                           cmp := t.getS d', early := true }
      | _ => s
  | _ => s

/-- While a task waits for a load at another home, the next group's load may go ahead; whether it does is open (R401; log entry 6). -/
def State.lookAhead (s0 : State) (t : Task) (l g : List Slot) : Out → Out
  | .next s =>
    match g, s.flow, s.live with
    | [p], .waiting w, some t' =>
      match p.instr, t'.requests.find? fun r => !r.early && !r.posted && r.pc == t.pc && r.slot.val == p.slot with
      | .ald d _ _ 0, some r =>
        let (k, s) := s.choose 2
        match if k = 0 ∨ !s0.exchange ∨ w.edge then none else s.nextGroup t l g with
        | some (pc, [q]) => .next (s.sendAhead t' d r pc q)
        | _ => .next s
      | _, _ => .next s
    | _, _, _ => .next s
  | o => o

/-- The issuing group of the live task: it waits for its registers (R42), or for its stores on their way (R402), or issues. -/
def State.runGroup (s : State) (t : Task) (l g : List Slot) : Out :=
  if (s.core s.cur).interlocked t (g.map (·.instr)) || (t.posting && g.any fun p => followsStores p.instr) then
    .next (s.registerWait t { okind := 0, obj := 0, edge := false })
  else match g with | [p] => s.lookAhead t l g (({ s with joint := false } : State).runOne l p) | g => s.runMany t l g

/-- Core cycles for which a group occupies the vector unit. -/
def groupOccupancy (t : Task) (g : List Slot) : Nat := (g.map fun p => occupancy t p.instr).sum

/-- VTIME of a group that has performed (R196, R480). -/
def chargeGroup (t : Task) (n : CoreId) (cyc : Nat) : Out → Out
  | .next s => if s.flow.blocks || cyc = 0 then .next s else .next (s.chargeVector n t.ctx cyc)
  | o => o

/-- Virtual time of a context on a core advances (R349): 256 × cycles / WEIGHT, rounded down. -/
def State.chargeVtime (s : State) (n : CoreId) (x : BitVec 16) (cyc : Nat) : State :=
  let w := Max.max ((s.ctxField x 0).fld 48 8) 1
  s.modCore n fun c => c.modCtx x fun k => { k with vtime := k.vtime + 256 * cyc / w }

/-- The cycles of the turn are the task's, which runs in it (R349, R480). -/
def State.chargeTurn (s : State) (t : Task) : State := (s.chargeRun s.cur t.ctx s.cyc).chargeVtime s.cur t.ctx s.cyc

/-- A task waits on something that the wait-for table records, or has gone untethered. -/
def stillWaits : Out → Bool
  | .next s => match s.flow with | .waiting w => w.edge | _ => false
  | _ => false

/-- What a task does in its turn is charged to it, unless it waits and does nothing. -/
def State.charged (s : State) (t : Task) (run : State → Out) : Out :=
  if stillWaits (run s) then run s else run (s.chargeTurn t)

/-- The live task of the current core takes its next step: it waits for its loft image (R347), or its next group issues. -/
def State.runTask (s : State) : Out :=
  match s.live with
  | none => .next s
  | some t =>
    match if t.image = 0 then none else (s.core s.cur).cmd t.image with
    | some k => .next (({ s with slot := t.slot } : State).registerWait t { okind := 0x10, obj := k.handle.setWidth 48, owner := .cmd k.handle none })
    | none =>
      let t := { t with image := 0 }
      match s.prepare t with
      | .stop s' => .next s'
      | .go s' t' l =>
        let (s', t') := s'.thawOnIssue t'
        let g := groupAt l t'.slot
        s'.charged t' fun r => chargeGroup t' s.cur (groupOccupancy t' g) (r.runGroup t' l g)

/-! ## The core chooses a task (R348, R349, R363) -/

/-- The task may issue: it is in the current phase, and not held over, frozen or arrived; a task that is to be switched runs its
freeze handler, until the device switches it (R430). -/
def Task.mayIssue (t : Task) : Bool := t.participates || (t.hold == .handler && t.preempted && !t.started)

/-- The step of the task of a bank, which becomes live. -/
def State.attempt (s : State) (b : Fin 4) : Out := (s.modCore s.cur fun c => { c with cbank := b, running := true, yield := false }).runTask

/-- The core flips to the ready task that comes first. When none is ready, one that waits tests its condition again, and the running
bank is unchanged. -/
def State.chooseTask (s : State) : Out :=
  let c := s.core s.cur
  let parked := if c.yield then s.live.filter (·.mayIssue) else none
  let may := c.tasks.filter fun p => p.2.mayIssue &&
    match parked with
    | some t => p.1 != c.cbank && t.ctl.eff ≤ p.2.ctl.eff
    | none => true
  let ready := may.filter fun p => p.2.waiting.all (!·.edge) || !stillWaits (s.attempt p.1)
  match c.best ready, parked with
  | some p, _ => s.attempt p.1
  | none, some _ => s.attempt c.cbank
  | none, none =>
    let (k, s) := s.choose may.length
    match may[k]? with
    | some p =>
      match s.attempt p.1 with
      | .next s' => .next (s'.modCore s.cur fun k => { k with cbank := c.cbank, running := c.running })
      | o => o
    | none => .next s

/-- A turn of core `n`: the task that it runs is not displaced (R348), also not while it is held without an edge. -/
def State.coreTurn (s : State) (n : CoreId) : Out :=
  let s := { s with cur := n }
  let c := s.core n
  if s.dev.power != .running || !c.avail then .next s
  else
    match s.live with
    | some t => if c.running && t.mayIssue && t.waiting.all (!·.edge) && !c.yield then s.runTask else s.chooseTask
    | none => s.chooseTask

/-! ## The matrix unit and the device -/

/-- The running micro-word has performed. -/
def endWord (w : MicroWord) : Out → Out
  | .next s => .next (s.afterWord w)
  | o => o

/-- A turn of the matrix unit of core `n`: the next micro-word of its running call (R265, R274). -/
def State.unitTurn (s : State) (n : CoreId) : Out :=
  let s := { s with cur := n }
  if s.dev.power != .running || !(s.core n).avail then .next s
  else
    match s.beforeWord with
    | none => .next s
    | some (.inl s') => .next s'
    | some (.inr (s', w)) => endWord w (exec w.op.instr s')

/-- Steps that the device takes while it does not run (R491): start-up and the management port. -/
def outOfBand : Instr → Bool
  | .powerOn | .hello | .readStartUpReport | .retryStart | .resetRequest | .setModuleNumber | .setQueuePairTableBase
  | .requestBankRetirement | .readMeterPage | .readMonitor | .writeFlashImage | .commitFlashImage | .opNotKnown => true
  | _ => false

/-- The device takes a step by itself. -/
def State.eventTurn (s : State) (e : Instr) (on : Subject) : Out :=
  if e.isEvent && (s.dev.power == .running || outOfBand e) then exec e { s with on := on } else .next s

/-! ## Time -/

/-- WAITC of the tasks with a wait-for edge, frozen tasks aside (R480, R481): the cycles count once for a task, however many edges it has. -/
def State.chargeWaits (s : State) (cyc : Nat) : State :=
  ((s.dev.wf.filter (!·.record)).map (·.tid)).eraseDups.foldl (fun s tid =>
    match s.findTask tid with
      | some (n, _, t) => if t.hold = .none then s.chargeWait n t.ctx cyc else s
      | none => s) s

/-- Core cycles pass during a turn, of core `n` or of no core. -/
def State.elapse (s : State) (n : Option CoreId) : State :=
  let cyc := Config.cycles s.free
  let s := { s with free := s.free + 1, cyc := cyc, dev := { s.dev with now := s.dev.now + cyc } }
  let s := if s.dev.wf.isEmpty then s else s.chargeWaits cyc
  match n with
  | some n => s.modCore n fun c => { c with opening := false }
  | none => s

/-- A queue pair that a step has reset keeps nothing (R463). -/
def settled : Out → Out
  | .next s => .next s.syncQps
  | o => o

/-- A turn. -/
def State.turn (s : State) : Turn → Out
  | .core n => settled ((s.elapse (some n)).coreTurn n)
  | .unit n => settled ((s.elapse none).unitTurn n)
  | .event e on => settled ((s.elapse none).eventTurn e on)

end Sys2Proof.Machine
end

