-- ==== Sys2Proof/Machine/Step.lean ====
section
/-!
DEFINITION. One step of the machine: the turn that stands first in the list, or one that the arbiter chooses; and the state whose next
step fetches and runs a given word.
-/
namespace Sys2Proof.Machine

/-- One step: one turn of one agent (log entry 1). -/
def step (s : State) : Host.Outcome State Fault Refusal :=
  match s.turns with
  | t :: ts => State.turn { s with turns := ts } t
  | [] => State.turn { s with free := s.free + 1 } (Config.arbiter s.free)

/-- Where `withFetchWord` places its bundle, virtual and physical. -/
def fetchPlace : Nat := 0x10000

/-- The task that is to fetch: about to enter a bundle, with nothing pending; a core without one gets a task of a supervisor context. -/
def readyTask (t : Option Task) : Task :=
  let t := t.getD { tid := 1, ctx := 1, pc := 0 }
  { t with pc := BitVec.ofNat 56 fetchPlace, slot := 0, bundle := none, hold := .none, startPhase := none, waiting := none,
           pendStrag := none, pendDeadlock := none, skipBkpt := true, invalidating := [], image := 0, ctl := { t.ctl with arr := false } }

/-- `s`, with the instruction of a table word where the next step fetches: a running device whose core 0 is available, a task of that
core at the bundle of the word (a NOP in every other slot), the bundle in memory and its translation in the core's TLB, and the
turn that of core 0. -/
def State.withFetchWord (s : State) (_nbits w : Nat) : State :=
  let c := s.core 0
  let t := readyTask c.banks[c.cbank]
  let k : CoreCtx := (c.cctx t.ctx).getD { ctx := t.ctx, sup := true, lsize := 1 }
  let e : TlbEntry := { asn := k.asn, sz := 0, vpn := fetchPlace / 4096, frame := fetchPlace / 4096, w := true }
  let c' : Core :=
    { c with avail := true, live := BitVec.allOnes 32, running := true, yield := false, banks := c.banks.set c.cbank (some t),
             ctxs := k :: c.ctxs.filter (·.ctx != t.ctx), tlb := e :: c.tlb,
             mapCmds := c.mapCmds.filter fun m => m.kind != .fetch || m.tid != t.tid }
  let s := s.setCore 0 c'
  { s with turns := .core 0 :: s.turns,
           dev := { s.dev with power := .running, dram := s.dev.dram.write fetchPlace (leBytes 16 (tableBundle w).toNat) } }

end Sys2Proof.Machine
end

