-- ==== Sys2Proof/Safety.lean ====
section
/-!
DEFINITION. What counts as a safe run, and the words in which statements are made: a run that no turn of stops, an instruction that performs
for its task and goes on, what an instruction leaves alone, and the invariants.
-/
namespace Sys2Proof.Machine

/-! ## Runs -/

/-- `k` turns from `s` end in `s'`. -/
def Runs (k : Nat) (s s' : State) : Prop := core.run k s = .next s'

/-- A safe run: no turn among `k` stops the machine. -/
def SafeRun (k : Nat) (s : State) : Prop := ∃ s', Runs k s s'

/-- The instruction performs and the machine goes on, in a state of which `P` holds. -/
def Leads (i : Instr) (s : State) (P : State → Prop) : Prop := ∃ s', exec i s = .next s' ∧ P s'

/-! ## How an instruction of a slot ends -/

/-- The instruction has performed, `s'` is what it left, and its task goes on at what follows; any wait of it has ended. -/
def State.goesOn (s' : State) : State := { s'.endWait with flow := .next }

/-- The instruction has performed and control transfers to bundle `a`. -/
def State.jumps (s' : State) (a : BitVec 56) : State := { s'.endWait with flow := .jump a }

/-- The live task has become `t'`, and goes on. -/
def State.thenTask (s : State) (t' : Task) : State := (s.setLive t').goesOn

/-- The instruction leaves its group unperformed and enters a trap. -/
def State.traps (s : State) (t : Task) (cls detail : BitVec 8) (info : W64) : State := s.takeTrap t (s.trapHere t cls detail info)

/-- The last instruction went on: it neither waited, nor trapped, nor ended its task. -/
def State.wentOn (s : State) : Prop := match s.flow with | .next | .jump _ | .resume .. => True | _ => False

/-- The state with the granules of a loft access of the live task as the access finds them: a first touch of a zero-fill granule made, and
what a write covers marked (R83). -/
def State.reached (s : State) (t : Task) (spans : List (Nat × Nat)) (write : Bool) : State :=
  s.modCore s.cur fun c => c.touch t.ctx spans write

/-! ## What an instruction leaves alone -/

/-- Every byte of DRAM, of every loft with its tags, and of every matrix unit's storage reads as before. -/
def SameMemory (s s' : State) : Prop :=
  (∀ a, s'.dev.dram.get a = s.dev.dram.get a) ∧
  ∀ (n : CoreId) (a : Nat),
    (s'.core n).loft.get a = (s.core n).loft.get a ∧ (s'.core n).tags.get a = (s.core n).tags.get a ∧
    (s'.core n).mx.array.get a = (s.core n).mx.array.get a ∧ (s'.core n).mx.acc.get a = (s.core n).mx.acc.get a ∧
    (s'.core n).mx.bnd.get a = (s.core n).mx.bnd.get a ∧ (s'.core n).mx.ucode.get a = (s.core n).mx.ucode.get a

/-- The live task's registers are those of `r` but for the scalar registers of `ds`. -/
def SameRegsBut (ds : List SReg) (r r' : Regs) : Prop :=
  (∀ x, x ∉ ds → r'.s[x] = r.s[x]) ∧ r'.v = r.v ∧ r'.k = r.k ∧ r'.b = r.b ∧ r'.l = r.l ∧ r'.m = r.m ∧ r'.o = r.o ∧
    r'.nest = r.nest ∧ r'.tdim = r.tdim

/-- The tasks of every other bank, and the special registers of every core and context and of the device, are as before. -/
def SameElsewhere (s s' : State) : Prop :=
  (∀ n b, (n ≠ s.cur ∨ b ≠ (s.core s.cur).cbank) → s'.bank n b = s.bank n b) ∧
  (∀ n, (s'.core n).ctxs = (s.core n).ctxs ∧ (s'.core n).nsave = (s.core n).nsave ∧ (s'.core n).cbank = (s.core n).cbank ∧
    (s'.core n).qlog = (s.core n).qlog ∧ (s'.core n).qbase = (s.core n).qbase ∧ (s'.core n).lanes = (s.core n).lanes ∧
    (s'.core n).mx = (s.core n).mx) ∧
  s'.dev.phase = s.dev.phase ∧ s'.dev.ptbase = s.dev.ptbase ∧ s'.dev.ptlog = s.dev.ptlog ∧ s'.dev.ctxtab = s.dev.ctxtab ∧
  s'.dev.acl = s.dev.acl ∧ s'.dev.wfsel = s.dev.wfsel

/-! ## Invariants -/

/-- The port keeps runtime only for queue pairs that are valid and not in reset (R463). -/
def State.pairsLive (s : State) : Prop := ∀ p ∈ s.dev.qps, s.qpValid p.1 = true ∧ s.qpSt p.1 ≠ 0

/-- Every store of the machine is in its canonical form. -/
def State.canonical (s : State) : Prop :=
  s.dev.dram.wf = true ∧ ∀ n : CoreId,
    (s.core n).loft.wf = true ∧ (s.core n).tags.wf = true ∧ (s.core n).mx.array.wf = true ∧ (s.core n).mx.acc.wf = true ∧
    (s.core n).mx.bnd.wf = true ∧ (s.core n).mx.offs.wf = true ∧ (s.core n).mx.ucode.wf = true

end Sys2Proof.Machine
end

