-- ==== Sys2Proof/Certificates/Slice0/Obligations.lean ====
section
/-!
DEFINITION. The statements for the provers. `s.live = some t` says that the current core has a live task, the one the instruction acts on;
every instruction of a slot needs it and, unless its statement says more, nothing else.
-/

open Sys2Proof Sys2Proof.Machine

/-! ## Decoding and steps -/

/-- The words that the spec writes out decode to the instructions it writes them for (R47, R164 to R183, R318 and their families'
examples). -/
def Obligations.SpecWordsDecode : Prop :=
  decodeTableWord 32 0x84742400 = some (.add 7 8 9) ∧ decodeTableWord 32 0x86A50FFF = some (.addi 10 10 (-1)) ∧
  decodeTableWord 32 0x8E530FFE = some (.beq 5 6 (-2)) ∧ decodeTableWord 32 0x92148015 = some (.callr 1 9 5) ∧
  decodeTableWord 32 0x96A00010 = some (.rdc 10 0x010) ∧ decodeTableWord 32 0x9A900000 = some (.phase 9) ∧
  decodeTableWord 32 0x9C048000 = some (.spawn 9) ∧ decodeTableWord 32 0x9E00000F = some (.trap 15) ∧
  decodeTableWord 32 0xB2918005 = some (.ldScalar 9 3 5) ∧ decodeTableWord 32 0xAE810340 = some (.mcall 64 8 0 26)

/-- Decoding the word and the extension that encoding gives, in any slot of the instruction's class below a header, gives the
instruction back, for every well-formed instruction with every operand it can name (R35, R36, R45, R47, R48, R52). -/
def slotWordsDecode : Prop :=
  ∀ (i : Instr) (e : EncWord) (slot : Nat), i.wellFormed = true → encode i = some e →
    (e.cls.any fun c => c.allows slot) = true → decodeSlot slot (some e.ext) e.word = .ok i

/-- A slot word under a header that decodes is the only word and extension of its instruction: no bit of it is ignored but the stop bit
(R45 to R49). -/
def Obligations.EncodeOfDecode : Prop :=
  ∀ (i : Instr) (slot x w : Nat), x < 2 ^ 9 → w < 2 ^ 31 → decodeSlot slot (some x) w = .ok i →
    encode i = some { word := w, ext := x }

/-- A micro-word with any operands R266 permits and any LAST and CONS decodes to what it was written from. -/
def microWordsDecode : Prop :=
  ∀ (o : MicroOp) (last cons : Bool), o.wellFormed = true →
    decodeMicro (encodeMicro o last cons) = .ok { op := o, last := last, cons := cons }

/-- Decoding what encoding gives, gives the instruction back: the words of slots (R35, R36, R45 to R52), and the micro-words (R266). -/
def Obligations.DecodeOfEncode : Prop := slotWordsDecode ∧ microWordsDecode

/-- The state in which the turn of core `n` begins, `ts` being the turns that follow: time has passed (log entry 4). -/
def turnOfCore (s : State) (n : CoreId) (ts : List Turn) : State :=
  { ({ s with turns := ts } : State).elapse (some n) with cur := n }

/-- The bundle of task `t` is in hand, and `s'` is the state with it: the one that the task has entered, or the one at its program counter,
whose granule its core can translate, which is then fetched and counted (R120, R169, R480). -/
def bundleInHand (s : State) (t : Task) (bun : BitVec 128) (s' : State) : Prop :=
  (t.bundle = some bun ∧ s' = s) ∨
  (t.bundle = none ∧ t.ctl.bkpt.getLsbD 0 = false ∧ (s.core s.cur).fetchOf t.tid (t.pc.toNat / 64 * 64) = none ∧
    ∃ pa, s.codeAt s.cur (s.cctx t).asn t.pc.toNat = some pa ∧ bun = BitVec.ofNat 128 (s.dev.dram.num pa 16) ∧
      s' = (s.countFetch t).moveFetch t pa)

/-- Nothing of its own keeps the task from issuing: no trap is pending, no wait is recorded, no store is on its way, and its unit, its loft and
the translations it invalidated are as they must be. -/
def Unhindered (t : Task) : Prop :=
  t.waiting = none ∧ t.image = 0 ∧ t.pending = none ∧ t.invalidating = [] ∧ t.thaws = false ∧ t.posting = false

/-- A step runs the decoded instruction: when it is core `n`'s turn, and the bytes at the program counter of the task that it runs, which is
ready, decode to a bundle whose next group is `g`, the step issues `g`; where `g` is the one instruction `p`, it is `exec` of `p`, after which
the task stands at the next group of its bundle, at the next bundle, or where control went. Around it the step counts the instruction fetch,
charges the context the vector unit's time and the turn's, and drops what a port kept for a queue pair that was reset (R38, R39, R43, R52,
R120, R348, R349). That a group which only waits is not charged is the model's choice (log entry 91), and so is that a load at another home
may have the next group's load go ahead of it (`lookAhead`; log entry 6): any other instruction has nothing ahead of it. -/
def groupsRun : Prop :=
  ∀ (s r : State) (n : CoreId) (ts : List Turn) (t : Task) (bun : BitVec 128) (l g : List Slot),
    s.turns = .core n :: ts →
    let s1 := turnOfCore s n ts
    s1.dev.power = .running → (s1.core n).avail = true → (s1.core n).running = true → (s1.core n).yield = false → s1.live = some t →
    t.mayIssue = true → Unhindered t → bundleInHand s1 t bun r → decodeBundle bun = .ok l → g = groupAt l (firstSlot l t.slot) →
    let t2 : Task := { t with bundle := some bun, skipBkpt := false, slot := firstSlot l t.slot }
    let s2 : State := ({ r with slot := t2.slot } : State).setLive t2
    let run (r : State) : Out := chargeGroup t2 n (groupOccupancy t2 g) (r.runGroup t2 l g)
    step s = settled (if stillWaits (run s2) then run s2 else run (s2.chargeTurn t2)) ∧
    ∀ p q, g = [p] → (q = s2 ∨ q = s2.chargeTurn t2) → (q.core n).interlocked t2 [p.instr] = false →
      let alone : Out := advanceOut l [p] (exec p.instr { q with slot := Fin.ofNat 4 p.slot, joint := false })
      q.runGroup t2 l g = q.lookAhead t2 l g alone ∧ ((∀ d a w z, p.instr ≠ .ald d a w z) → q.runGroup t2 l g = alone)

/-- On the turn of a matrix unit whose running call comes to a micro-word, the step performs that word, and then goes to the next
(R265, R274); on the turn of a step that a running device takes by itself, it takes that step. -/
def unitsAndEventsRun : Prop :=
  (∀ (s s' : State) (n : CoreId) (ts : List Turn) (w : MicroWord), s.turns = .unit n :: ts →
    let s1 : State := { ({ s with turns := ts } : State).elapse none with cur := n }
    s1.dev.power = .running → (s1.core n).avail = true → s1.beforeWord = some (.inr (s', w)) →
    step s = settled (endWord w (exec w.op.instr s'))) ∧
  ∀ (s : State) (e : Instr) (on : Subject) (ts : List Turn), s.turns = .event e on :: ts → e.isEvent = true →
    (({ s with turns := ts } : State).elapse none).dev.power = .running →
    step s = settled (exec e { ({ s with turns := ts } : State).elapse none with on := on })

/-- A step runs what is decoded: the group of a task, the micro-word of a running call, an event. -/
def Obligations.StepRunsTheDecoded : Prop := groupsRun ∧ unitsAndEventsRun

/-- Instructions that complete whatever their operands hold: the scalar and mask forms (R164 to R168, R176), the branches (R170), `br`,
`call`, `jr` and `loop` (R171, R172), the vector forms (R199 to R216), the forms on records, on a building command and on the manger's
registers (R125 to R132, R231), the phase family (R319, R320, R332), `park` and the `unteth` forms (R363, R392). -/
def alwaysCompletes : Instr → Bool
  | .add .. | .sub .. | .mul .. | .mulh .. | .div .. | .rem .. | .and .. | .or .. | .xor .. | .andn .. | .sll .. | .srl .. | .sra .. | .slt ..
  | .min .. | .max .. | .adds .. | .subs .. | .clz .. | .ctz .. | .popc .. | .shadd .. | .addi .. | .andi .. | .ori .. | .xori .. | .slti ..
  | .sltiu .. | .muli .. | .seqi .. | .lui .. | .adrb .. | .slli .. | .srli .. | .srai .. | .bfx .. | .nop
  | .beq .. | .bne .. | .blt .. | .bge .. | .bltu .. | .bgeu .. | .br .. | .call .. | .jr .. | .loop ..
  | .kand .. | .kor .. | .kxor .. | .kandn .. | .kset .. | .kcnt .. | .kfind ..
  | .vadd .. | .vadds .. | .vsub .. | .vsubs .. | .vmul .. | .vmulh .. | .vmin .. | .vmax .. | .vand .. | .vor .. | .vxor .. | .vsll .. | .vsr ..
  | .vcmp .. | .vsplat .. | .vmvs .. | .vfadd .. | .vfsub .. | .vfmul .. | .vfdiv .. | .vfsqrt .. | .vfrsqrt .. | .vfmin .. | .vfmax .. | .vfabs ..
  | .vfneg .. | .vfcmp .. | .vfsplat .. | .vfscl .. | .vfsgnj .. | .vfmaF32 .. | .vfnmaF32 .. | .vfmaBf16 .. | .vfmaF16 .. | .vfmawBf16 ..
  | .vsel .. | .vcvt .. | .vbmax .. | .vqnt .. | .vdqnt .. | .vhad .. | .vfrnd .. | .vbhdr .. | .vfexp2 .. | .vperm .. | .vslideup ..
  | .vslidedn .. | .vred .. | .vscan .. | .vidx .. | .tdef .. | .mgset .. | .mgoff .. | .mgget .. | .mggetN .. | .recw .. | .recr .. | .cpyr ..
  | .cpys .. | .cpyc .. | .cpyxStat .. | .ctabw .. | .phase .. | .phaseC .. | .phuntil .. | .phleft .. | .phreq | .park
  | .unteth .. | .untethO .. | .untethA => true
  | _ => false

/-- An instruction that always completes answers a next state in which its task goes on, for every state with a live task and all operands. -/
def registerFormsComplete : Prop :=
  ∀ (s : State) (t : Task) (i : Instr), s.live = some t → i.wellFormed = true → alwaysCompletes i = true →
    ∃ s', exec i s = .next s' ∧ s'.wentOn

/-- Every step of the machine, from whatever state, goes on to a next state: nothing a program or a port does stops it. An agent whose step
cannot happen leaves the state as it is: the model's choice (log entry 93). And every instruction that needs nothing but its registers, or
has no condition, completes: the scalar, mask, branch, vector, record, phase and `unteth` forms that `alwaysCompletes` names. -/
def Obligations.EveryStepGoesOn : Prop := (∀ s : State, ∃ s', step s = .next s') ∧ registerFormsComplete

/-! ## Scalar registers and masks -/

/-- The destination and the value of a scalar form, as R164 to R168 give them. -/
def scalarValue (t : Task) : Instr → Option (SReg × W64)
  | .add d a b => some (d, t.getS a + t.getS b)
  | .sub d a b => some (d, t.getS a - t.getS b)
  | .mul d a b => some (d, t.getS a * t.getS b)
  | .mulh d a b u =>
    some (d, if u then BitVec.ofNat 64 ((t.getS a).toNat * (t.getS b).toNat / 2 ^ 64)
      else BitVec.ofInt 64 ((t.getS a).toInt * (t.getS b).toInt / 2 ^ 64))
  | .div d a b u =>
    some (d, if t.getS b = 0 then BitVec.allOnes 64 else if u then t.getS a / t.getS b else (t.getS a).sdiv (t.getS b))
  | .rem d a b u => some (d, if t.getS b = 0 then t.getS a else if u then t.getS a % t.getS b else (t.getS a).srem (t.getS b))
  | .and d a b => some (d, t.getS a &&& t.getS b)
  | .or d a b => some (d, t.getS a ||| t.getS b)
  | .xor d a b => some (d, t.getS a ^^^ t.getS b)
  | .andn d a b => some (d, t.getS a &&& ~~~t.getS b)
  | .sll d a b => some (d, t.getS a <<< (t.getS b).toNat)
  | .srl d a b => some (d, t.getS a >>> (t.getS b).toNat)
  | .sra d a b => some (d, (t.getS a).sshiftRight (t.getS b).toNat)
  | .slt d a b u => some (d, if (if u then (t.getS a).ult (t.getS b) else (t.getS a).slt (t.getS b)) then 1 else 0)
  | .min d a b u =>
    some (d, if (if u then (t.getS b).ult (t.getS a) else (t.getS b).slt (t.getS a)) then t.getS b else t.getS a)
  | .max d a b u =>
    some (d, if (if u then (t.getS a).ult (t.getS b) else (t.getS a).slt (t.getS b)) then t.getS b else t.getS a)
  | .adds d a b u =>
    some (d, if u then (if 2 ^ 64 ≤ (t.getS a).toNat + (t.getS b).toNat then BitVec.allOnes 64 else t.getS a + t.getS b)
      else BitVec.ofInt 64 (Max.max (-2 ^ 63) (Min.min (2 ^ 63 - 1) ((t.getS a).toInt + (t.getS b).toInt))))
  | .subs d a b u =>
    some (d, if u then (if (t.getS a).ult (t.getS b) then 0 else t.getS a - t.getS b)
      else BitVec.ofInt 64 (Max.max (-2 ^ 63) (Min.min (2 ^ 63 - 1) ((t.getS a).toInt - (t.getS b).toInt))))
  | .shadd d a b k => some (d, (t.getS a <<< k.val) + t.getS b)
  | .addi d a i => some (d, t.getS a + i.signExtend 64)
  | .andi d a i => some (d, t.getS a &&& i.signExtend 64)
  | .ori d a i => some (d, t.getS a ||| i.signExtend 64)
  | .xori d a i => some (d, t.getS a ^^^ i.signExtend 64)
  | .slti d a i => some (d, if (t.getS a).slt (i.signExtend 64) then 1 else 0)
  | .sltiu d a i => some (d, if (t.getS a).ult (i.signExtend 64) then 1 else 0)
  | .muli d a i => some (d, t.getS a * i.signExtend 64)
  | .seqi d a i => some (d, if t.getS a = i.signExtend 64 then 1 else 0)
  | .lui d i => some (d, i.signExtend 64 * 4096)
  | .adrb d i => some (d, t.pc.setWidth 64 + i.signExtend 64 * 16)
  | .slli d a n => some (d, t.getS a <<< n.val)
  | .srli d a n => some (d, t.getS a >>> n.val)
  | .srai d a n => some (d, (t.getS a).sshiftRight n.val)
  | .bfx d a l n => some (d, BitVec.ofNat 64 ((t.getS a >>> n.val).toNat % 2 ^ (l.val + 1)))
  | _ => none

/-- Every scalar form of R164 to R168 but the counts writes its value to its destination, changes nothing else of its task or of the
machine, and goes on; a write to s0 is discarded. -/
def Obligations.ScalarFormsWriteTheirResult : Prop :=
  ∀ (s : State) (t : Task) (i : Instr) (d : SReg) (v : W64), s.live = some t → scalarValue t i = some (d, v) →
    exec i s = .next (s.thenTask (t.setS d v))

/-- `clz`, `ctz` and `popc` (R164): leading zeros, trailing zeros, set bits; the counts of zero are 64, 64 and 0. -/
def bitCounts : Prop :=
  ∀ (s : State) (t : Task) (d a : SReg), s.live = some t →
    (∃ n ≤ 64, exec (.clz d a) s = .next (s.thenTask (t.setS d (BitVec.ofNat 64 n))) ∧
      (∀ j < n, (t.getS a).getMsbD j = false) ∧ (n < 64 → (t.getS a).getMsbD n = true)) ∧
    (∃ n ≤ 64, exec (.ctz d a) s = .next (s.thenTask (t.setS d (BitVec.ofNat 64 n))) ∧
      (∀ j < n, (t.getS a).getLsbD j = false) ∧ (n < 64 → (t.getS a).getLsbD n = true)) ∧
    exec (.popc d a) s =
      .next (s.thenTask (t.setS d (BitVec.ofNat 64 ((List.range 64).countP fun j => (t.getS a).getLsbD j))))

/-- What a mask form writes, bit by bit (R176). -/
def maskResult (t : Task) : Instr → Option (KReg × (Nat → Bool))
  | .kand d a b => some (d, fun j => (t.getK a).getLsbD j && (t.getK b).getLsbD j)
  | .kor d a b => some (d, fun j => (t.getK a).getLsbD j || (t.getK b).getLsbD j)
  | .kxor d a b => some (d, fun j => (t.getK a).getLsbD j != (t.getK b).getLsbD j)
  | .kandn d a b => some (d, fun j => (t.getK a).getLsbD j && !(t.getK b).getLsbD j)
  | .kset d a => some (d, fun j => j < (t.getS a).toNat)
  | _ => none

/-- A mask form writes every bit of its destination mask and nothing else; k0 discards the write. -/
def Obligations.MaskFormsWriteEveryBit : Prop :=
  ∀ (s : State) (t : Task) (i : Instr) (d : KReg) (f : Nat → Bool), s.live = some t → maskResult t i = some (d, f) →
    ∃ m : BitVec 16384, (∀ j < 16384, m.getLsbD j = f j) ∧ exec i s = .next (s.thenTask (t.setK d m))

/-- `kcnt` counts the set bits below `c.vl`; `kfind` gives the lowest set index below `c.vl`, or `c.vl` (R176). -/
def maskCounts : Prop :=
  ∀ (s : State) (t : Task) (d : SReg) (a : KReg), s.live = some t →
    exec (.kcnt d a) s =
      .next (s.thenTask (t.setS d (BitVec.ofNat 64 ((List.range t.ctl.vl.toNat).countP fun j => (t.getK a).getLsbD j)))) ∧
    ∃ n ≤ t.ctl.vl.toNat, exec (.kfind d a) s = .next (s.thenTask (t.setS d (BitVec.ofNat 64 n))) ∧
      (∀ j < n, (t.getK a).getLsbD j = false) ∧ (n < t.ctl.vl.toNat → (t.getK a).getLsbD n = true)

/-- The counting forms on scalar registers and on masks (R164, R176). -/
def Obligations.BitAndMaskCounts : Prop := bitCounts ∧ maskCounts

/-- s0 and k0 hold constants: a scalar form whose destination is s0, and a mask form whose destination is k0, changes no register
(R161, R175). -/
def Obligations.ConstantRegistersDiscardWrites : Prop :=
  ∀ (s : State) (t : Task) (i : Instr), s.live = some t → t.getS 0 = 0 ∧ t.getK 0 = BitVec.allOnes 16384 ∧
    (∀ v, scalarValue t i = some (0, v) → exec i s = .next (s.thenTask t)) ∧
    (∀ f, maskResult t i = some (0, f) → exec i s = .next (s.thenTask t))

/-! ## Control flow -/

/-- Where a branch goes when it is taken (R170): `disp` bundles from its own. -/
def bundleAt (t : Task) (disp : W64) : BitVec 56 := (t.pc.setWidth 64 + disp * 16).setWidth 56

/-- The condition and displacement of a conditional branch (R170). -/
def branchTaken (t : Task) : Instr → Option (Bool × BitVec 17)
  | .beq a b i => some (t.getS a == t.getS b, i)
  | .bne a b i => some (t.getS a != t.getS b, i)
  | .blt a b i => some ((t.getS a).slt (t.getS b), i)
  | .bge a b i => some (!(t.getS a).slt (t.getS b), i)
  | .bltu a b i => some ((t.getS a).ult (t.getS b), i)
  | .bgeu a b i => some (!(t.getS a).ult (t.getS b), i)
  | _ => none

/-- A conditional branch continues at A + SignExt(disp) × 16 when its condition holds, and goes on otherwise; it changes no register. -/
def Obligations.ConditionalBranches : Prop :=
  ∀ (s : State) (t : Task) (i : Instr) (c : Bool) (disp : BitVec 17), s.live = some t → branchTaken t i = some (c, disp) →
    exec i s = .next (if c then s.jumps (bundleAt t (disp.signExtend 64)) else s.goesOn)

/-- `br`, `call`, `jr`, `callr`, `loop` and `ret` transfer as R171 and R172 say, with the link and the counter written; a `callr` whose
class does not match and a `ret` to a target with low bits set take the bounds-violation trap. A `loop` on s0 is not taken: the
model's reading (log entry 7). -/
def Obligations.TransfersAndLinks : Prop :=
  ∀ (s : State) (t : Task) (i : BitVec 33) (d a : SReg) (c : Fin 16) (n : Fin 1024), s.live = some t →
    let link : W64 := t.pc.setWidth 64 + 16
    let v := t.getS a
    let dest : BitVec 56 := BitVec.ofNat 56 (v.toNat / 16 % 2 ^ 52 * 16)
    exec (.br i) s = .next (s.jumps (bundleAt t (i.signExtend 64))) ∧
    exec (.call i) s = .next ((s.setLive (t.setS 1 link)).jumps (bundleAt t (i.signExtend 64))) ∧
    exec (.jr a) s = .next (s.jumps dest) ∧
    exec (.callr d a c) s =
      .next (if v.toNat % 16 = c.val then (s.setLive (t.setS d link)).jumps dest
        else s.traps t 0x09 0 (BitVec.ofNat 64 (v.toNat % 16 * 16 + c.val))) ∧
    exec (.ret a) s = .next (if v.toNat % 16 = 0 then s.jumps dest else s.traps t 0x09 0 v) ∧
    (d ≠ 0 → exec (.loop d n) s =
      .next (if t.getS d - 1 = 0 then s.thenTask (t.setS d 0)
        else (s.setLive (t.setS d (t.getS d - 1))).jumps (bundleAt t (-BitVec.ofNat 64 n.val)))) ∧
    exec (.loop 0 n) s = .next (s.thenTask t) ∧
    exec .nop s = .next (s.thenTask t)

/-! ## Control registers -/

/-- A read form delivers the register as it stands (R183), in a register that `rdcr` names at run time too; a number that names no register
makes `rdcr` take the illegal-encoding trap. -/
def controlReads : Prop :=
  ∀ (s : State) (t : Task) (d a : SReg) (n : BitVec 12), s.live = some t →
    (∀ v, s.readCtrl s.cur (s.cctx t) t n.toNat = some v → exec (.rdc d n) s = .next (s.thenTask (t.setS d v))) ∧
    (∀ v, s.readCtrl s.cur (s.cctx t) t ((t.getS a).toNat % 4096) = some v →
      exec (.rdcr d a) s = .next (s.thenTask (t.setS d v))) ∧
    (s.readCtrl s.cur (s.cctx t) t ((t.getS a).toNat % 4096) = none → exec (.rdcr d a) s = .next (s.traps t 0x01 0x05 0)) ∧
    (ctrlNamed n.toNat = true → (s.readCtrl s.cur (s.cctx t) t n.toNat).isSome)

/-- The write forms, with the register's destination and what each writes given what the register held (R183). -/
def writeForm (t : Task) : Instr → Option (SReg × Nat × (W64 → W64))
  | .wrc a n => some (0, n.toNat, fun _ => t.getS a)
  | .setc d a n => some (d, n.toNat, fun c => c ||| t.getS a)
  | .clrc d a n => some (d, n.toNat, fun c => c &&& ~~~t.getS a)
  | .xchc d a n => some (d, n.toNat, fun _ => t.getS a)
  | .addc d a n => some (d, n.toNat, fun c => c + t.getS a)
  | .rdcz d n => some (d, n.toNat, fun _ => 0)
  | _ => none

/-- A write form delivers the old value and performs the register's own write; for an RS register outside a supervisor context the
write is discarded and the read still performs (R177, R183). -/
def controlWrites : Prop :=
  ∀ (s : State) (t : Task) (i : Instr) (d : SReg) (n : Nat) (f : W64 → W64) (old : W64), s.live = some t →
    writeForm t i = some (d, n, f) → s.readCtrl s.cur (s.cctx t) t n = some old →
    (∀ s', s.writeCtrl t n (f old) = .done s' → exec i s = .next ((s'.modLive fun u => u.setS d old).goesOn)) ∧
    (ctrlAccess n = some .rs → (s.cctx t).sup = false → exec i s = .next ((s.modLive fun u => u.setS d old).goesOn))

/-- The read and the write forms of the control registers (R177, R183). -/
def Obligations.ControlRegisterForms : Prop := controlReads ∧ controlWrites

/-- What a register without a validation rule of its own reads after `v` is written to it: reserved and read-only fields ignore the write
(R177, R179, R194, R283, R316, R358, R379, R420). -/
def plainWritten (v : W64) (n : Nat) : Option W64 :=
  match n with
  | 0x010 => some (if 16384 < v.toNat then 16384 else v)
  | 0x080 => some (v &&& 0xF)
  | 0x081 => some (v &&& 0x3)
  | 0x0A0 => some (v &&& 0x407FC00000000000)
  | 0x0C1 => some v
  | 0x0E3 => some (v &&& 0xFFFFFFC000)
  | 0x0E6 => some (v &&& 0xFFFFFFE000)
  | 0x100 => some (v &&& 0x8000000000001FFF)
  | 0x102 => some v
  | 0x105 => some (v &&& 0xFFF)
  | 0x121 => some (v &&& 0x00FFFFFFFFFFFFFF)
  | 0x125 => some (v &&& 0x80FFFFFFFFFFFFF0)
  | 0x126 => some (v &&& 0x00FFFFFFFFFFF00F)
  | 0x12A => some (v &&& 0x00FFFFFFFFFFFFF1)
  | _ => none

/-- A plain register reads as it was written, its reserved fields apart: `wrc` by a task whose context is resident, and may write it,
completes and leaves the register so (R177). -/
def Obligations.PlainRegistersReadBack : Prop :=
  ∀ (s : State) (t : Task) (k : CoreCtx) (a : SReg) (n : BitVec 12) (r : W64), s.live = some t →
    (s.core s.cur).cctx t.ctx = some k → (ctrlAccess n.toNat = some .rw ∨ k.sup = true) → plainWritten (t.getS a) n.toNat = some r →
    Leads (.wrc a n) s fun s' => ∃ t', s'.live = some t' ∧ s'.readCtrl s'.cur (s'.cctx t') t' n.toNat = some r

/-- The validated registers (R75, R82, R141, R219, R358, R379): each row writes what its rule accepts, leaves V clear or the register as it
was where the rule refuses, and waits where the rule waits: for a fill or a write-back of the region, or for a command that names the ring. A
ring descriptor that is written discards every claim on its ring. `wrc c.vl` and `wrc c.pri` clamp (R179, R180). -/
def validatedWrites : Prop :=
  ∀ (s : State) (t : Task) (k : CoreCtx) (a : SReg), s.live = some t → (s.core s.cur).cctx t.ctx = some k →
    let v := s.on.value
    let i : Fin 16 := Fin.ofNat 16 s.on.index
    let c := s.core s.cur
    (exec (.writeCVl a) s = .next (s.thenTask
      { t with ctl := { t.ctl with vl := BitVec.ofNat 15 (if 16384 < (t.getS a).toNat then 16384 else (t.getS a).toNat) } })) ∧
    (Leads (.writeCPri a) s fun s' => ∃ t', s'.live = some t' ∧ t'.regs = t.regs ∧
      t'.ctl.base.val = Min.min ((t.getS a).toNat % 8) t.ceil.val ∧ t'.ctl.eff.val = Max.max t.ctl.eff.val t'.ctl.base.val) ∧
    (exec .writeCTdim s = .next (s.thenTask
      { t with regs := { t.regs with tdim := t.regs.tdim.set i (if tileValid v then v else clearV v) } })) ∧
    (c.regionBusy k i = false → exec .writeCRgva s = .next (State.goesOn (s.modCctx t fun q =>
      let q := q.dropRegion i
      if v.getLsbD 63 && q.regionOk i v q.rgloc[i] then q.validated i v else { q with rgva := q.rgva.set i (clearV v) }))) ∧
    (c.regionBusy k i = false → exec .writeCRgloc s = .next (State.goesOn (s.modCctx t fun q =>
      { q.dropRegion i with rgloc := (q.dropRegion i).rgloc.set i v }))) ∧
    (c.regionBusy k i = true → ∀ e ∈ ([.writeCRgva, .writeCRgloc] : List Instr),
      exec e s = .next (s.registerWait t { okind := 0, obj := 0, edge := false })) ∧
    (c.ringCmds t.ctx i = [] → Leads .writeCRngd s fun s' =>
      ((s'.core s.cur).cctx t.ctx).map (·.rings[i]) = some (ringWritten k.psize v) ∧
      (∀ p ∈ (s'.core s.cur).tasks, p.2.ctx = t.ctx → ∀ q ∈ p.2.claims, q.1 ≠ i) ∧
      ∀ m ∈ (s'.core s.cur).saved, ∀ u, m.task = some u → u.ctx = t.ctx → ∀ q ∈ u.claims, q.1 ≠ i) ∧
    (∀ m ms, c.ringCmds t.ctx i = m :: ms → exec .writeCRngd s =
      .next (s.registerWait t { okind := 0x05, obj := BitVec.ofNat 48 (s.cur.val + i.val * 256), owner := m.wfOwner })) ∧
    (exec .writeCWfdl s = .next (State.goesOn (s.modCctx t fun q =>
      let w := v &&& 0x800000000000FFFF
      { q with wfdl := if (v.toNat % 65536 + 17) * 64 ≤ q.psize then w else clearV w }))) ∧
    (exec .writeCPstat s = .next (s.thenTask { t with ctl := { t.ctl with strg := t.ctl.strg && v.getLsbD 62 } }))

/-- The supervisor's registers of the device and the core (R68, R75, R358): accepted or refused as a whole, and discarded from any other
context. -/
def supervisorWrites : Prop :=
  ∀ (s : State) (t : Task) (k : CoreCtx), s.live = some t → (s.core s.cur).cctx t.ctx = some k →
    let v := s.on.value
    let c := s.core s.cur
    (k.sup = false → exec .writeCPtbase s = .next s.goesOn ∧ exec .writeCPtlog s = .next s.goesOn ∧
      exec .writeCNsave s = .next s.goesOn ∧ exec .writeCQueue s = .next s.goesOn) ∧
    (k.sup = true →
      exec .writeCPtbase s = .next (State.goesOn (if v.toNat % 2 ^ 40 % (2 ^ s.dev.ptlog.toNat * 64) = 0 then
        s.modDev fun d => { d with ptbase := v.setWidth 40 } else s)) ∧
      exec .writeCPtlog s = .next (State.goesOn (
        if 20 ≤ v.toNat % 32 ∧ v.toNat % 32 ≤ 27 ∧ s.dev.ptbase.toNat % (2 ^ (v.toNat % 32) * 64) = 0 then
          s.modDev fun d => { d with ptlog := v.setWidth 5 } else s)) ∧
      exec .writeCNsave s = .next (State.goesOn (if v.toNat % 64 ≤ 32 ∧ v.toNat % 64 * 0x800000 ≤ c.capacity then
        s.modCore s.cur fun q => { q with nsave := Fin.ofNat 64 (v.toNat % 64) } else s)) ∧
      exec .writeCQueue s = .next (State.goesOn (if c.queueOk s.cur v then
        s.modCore s.cur fun q => { q with qlog := Fin.ofNat 16 (v.toNat / 2 ^ 52 % 16), qbase := BitVec.ofNat 34 (v.toNat / 64 % 2 ^ 34) }
        else s)))

/-- The registers whose writes a rule validates (R68, R75, R82, R141, R219, R358, R379). -/
def Obligations.ValidatedRegisterWrites : Prop := validatedWrites ∧ supervisorWrites

/-! ## The vector unit -/

/-- n of R191: the elements below `c.vl` that a register of elements of `w` bytes holds. -/
def lanesOf (t : Task) (w : Nat) : Nat := Min.min t.ctl.vl.toNat (16384 / w)

/-- The instruction writes element `j` of `d`, for `j` below `n`, with the value of `lane j`, leaves every other byte of the vector registers
and everything else of the machine alone, adds the lanes' conditions to `c.vflags`, and goes on. -/
def WritesLanes (i : Instr) (s : State) (t : Task) (d : VReg) (w n : Nat) (lane : Nat → Nat × Cond) : Prop :=
  ∃ m : Mem, (∀ j < n, m.num (d.val * 16384 + j * w) w = (lane j).1) ∧
    (∀ x, x < d.val * 16384 ∨ d.val * 16384 + n * w ≤ x → m.get x = t.regs.v.get x) ∧
    exec i s = .next (s.thenTask (Task.raise { t with regs := { t.regs with v := m } } (condsOf ((List.range n).map lane))))

/-- The value of element `j` of `r` as an integer of type `ty`. -/
def laneInt (t : Task) (ty : Fin 16) (r : VReg) (j : Nat) : Int := intOf (tySigned ty) (8 * tyWidth ty) (t.getV r (tyWidth ty) j)

/-- An integer wrapped to the width of type `ty`, without a condition. -/
def wrapped (ty : Fin 16) (i : Int) : Nat × Cond := ((i % 2 ^ (8 * tyWidth ty)).toNat, .none)

/-- An integer held to the range of type `ty`, with Overflow when it was outside. -/
def saturated (ty : Fin 16) (i : Int) : Nat × Cond :=
  let b := 8 * tyWidth ty
  let lo : Int := if tySigned ty then -2 ^ (b - 1) else 0
  let hi : Int := if tySigned ty then 2 ^ (b - 1) - 1 else 2 ^ b - 1
  ((Max.max lo (Min.min hi i) % 2 ^ b).toNat, { overflow := decide (i < lo ∨ hi < i) })

/-- Destination, element type and lane of the integer forms (R199, R215). -/
def intLane (t : Task) : Instr → Option (VReg × Fin 16 × (Nat → Nat × Cond))
  | .vadd d a b ty => some (d, ty, fun j => wrapped ty (laneInt t ty a j + laneInt t ty b j))
  | .vsub d a b ty => some (d, ty, fun j => wrapped ty (laneInt t ty a j - laneInt t ty b j))
  | .vmul d a b ty => some (d, ty, fun j => wrapped ty (laneInt t ty a j * laneInt t ty b j))
  | .vmulh d a b ty => some (d, ty, fun j => wrapped ty (laneInt t ty a j * laneInt t ty b j / 2 ^ (8 * tyWidth ty)))
  | .vadds d a b ty => some (d, ty, fun j => saturated ty (laneInt t ty a j + laneInt t ty b j))
  | .vsubs d a b ty => some (d, ty, fun j => saturated ty (laneInt t ty a j - laneInt t ty b j))
  | .vmin d a b ty => some (d, ty, fun j => wrapped ty (Min.min (laneInt t ty a j) (laneInt t ty b j)))
  | .vmax d a b ty => some (d, ty, fun j => wrapped ty (Max.max (laneInt t ty a j) (laneInt t ty b j)))
  | .vand d a b ty => some (d, ty, fun j => (t.getV a (tyWidth ty) j &&& t.getV b (tyWidth ty) j, .none))
  | .vor d a b ty => some (d, ty, fun j => (t.getV a (tyWidth ty) j ||| t.getV b (tyWidth ty) j, .none))
  | .vxor d a b ty => some (d, ty, fun j => (t.getV a (tyWidth ty) j ^^^ t.getV b (tyWidth ty) j, .none))
  | .vsll d a b ty =>
    some (d, ty, fun j => (t.getV a (tyWidth ty) j * 2 ^ t.getV b (tyWidth ty) j % 2 ^ (8 * tyWidth ty), .none))
  | .vsr d a b ty => some (d, ty, fun j => wrapped ty (laneInt t ty a j / 2 ^ t.getV b (tyWidth ty) j))
  | .vsplat d a ty => some (d, ty, fun _ => ((t.getS a).toNat % 2 ^ (8 * tyWidth ty), .none))
  | .vidx d ty => some (d, ty, fun j => (j % 2 ^ (8 * tyWidth ty), .none))
  | .vperm d a b ty =>
    some (d, ty, fun j => let i := t.getV b 2 j; (if i < lanesOf t (tyWidth ty) then t.getV a (tyWidth ty) i else 0, .none))
  | .vslideup d a b ty =>
    some (d, ty, fun j => let k := (t.getS b).toNat; (if j < k then t.getV d (tyWidth ty) j else t.getV a (tyWidth ty) (j - k), .none))
  | .vslidedn d a b ty =>
    some (d, ty, fun j => let k := (t.getS b).toNat
      (if j + k < lanesOf t (tyWidth ty) then t.getV a (tyWidth ty) (j + k) else 0, .none))
  | _ => none

/-- Every integer, splat, index, permute and slide form writes the lanes that R199 and R215 give, for every element type the form admits. -/
def Obligations.VectorIntegerLanes : Prop :=
  ∀ (s : State) (t : Task) (i : Instr) (d : VReg) (ty : Fin 16) (lane : Nat → Nat × Cond), s.live = some t →
    i.wellFormed = true → intLane t i = some (d, ty, lane) → WritesLanes i s t d (tyWidth ty) (lanesOf t (tyWidth ty)) lane

/-- The comparison that a condition code names (R200). -/
def compares (c : Fin 4) (x y : Int) : Bool := match c with | 0 => x == y | 1 => x != y | 2 => x < y | 3 => x ≤ y

/-- `vcmp` writes its mask below n and zeros above (R200); `vmvs` reads one element, 0 at and beyond n (R201); `vsel` chooses by its mask
(R205). -/
def Obligations.VectorCompareMoveSelect : Prop :=
  ∀ (s : State) (t : Task), s.live = some t →
    (∀ c k a b ty, (Instr.vcmp c k a b ty).wellFormed = true → ∃ m : BitVec 16384, exec (.vcmp c k a b ty) s = .next (s.thenTask (t.setK k m)) ∧
      ∀ j < 16384, m.getLsbD j = (decide (j < lanesOf t (tyWidth ty)) && compares c (laneInt t ty a j) (laneInt t ty b j))) ∧
    (∀ d a b ty, (Instr.vmvs d a b ty).wellFormed = true → exec (.vmvs d a b ty) s = .next (s.thenTask (t.setS d (
      if (t.getS b).toNat < lanesOf t (tyWidth ty) then BitVec.ofInt 64 (laneInt t ty a (t.getS b).toNat) else 0)))) ∧
    (∀ d a b (w : Fin 4) k, WritesLanes (.vsel d a b w k) s t d (2 ^ w.val) (lanesOf t (2 ^ w.val)) fun j =>
      (if (t.getK k).getLsbD j then t.getV a (2 ^ w.val) j else t.getV b (2 ^ w.val) j, .none))

/-- Two operands read under R15, an exact operation, one rounding under R20, and the conditions of R19. -/
def lane2 (f : FFmt) (rm : RM) (op : Ex → Ex → Ex × Bool) (x y : Nat) : Nat × Cond :=
  let z := op (f.read x).1 (f.read y).1
  let r := roundF z.1 f rm
  (r.1, { invalid := r.2.invalid || z.2, overflow := r.2.overflow, flush := r.2.flush || ((f.read x).2 || (f.read y).2), inexact := r.2.inexact })

/-- Destination, format and lane of the unmasked floating-point forms of two sources and of `vfsplat` (R202). -/
def fltLane (t : Task) : Instr → Option (VReg × FFmt × (Nat → Nat × Cond))
  | .vfadd d a b ty r => let f := fmt2 ty
    some (d, f, fun j => lane2 f (.ofCode r) (fun x y => x.add y (.ofCode r)) (t.getV a f.bytes j) (t.getV b f.bytes j))
  | .vfsub d a b ty r => let f := fmt2 ty
    some (d, f, fun j => lane2 f (.ofCode r) (fun x y => x.add y.neg (.ofCode r)) (t.getV a f.bytes j) (t.getV b f.bytes j))
  | .vfmul d a b ty r => let f := fmt2 ty
    some (d, f, fun j => lane2 f (.ofCode r) Ex.mul (t.getV a f.bytes j) (t.getV b f.bytes j))
  | .vfdiv d a b ty r => let f := fmt2 ty
    some (d, f, fun j => lane2 f (.ofCode r) Ex.div (t.getV a f.bytes j) (t.getV b f.bytes j))
  | .vfmin d a b ty => let f := fmt2 ty
    some (d, f, fun j => lane2 f .rne (fun x y => (x.fmin y, false)) (t.getV a f.bytes j) (t.getV b f.bytes j))
  | .vfmax d a b ty => let f := fmt2 ty
    some (d, f, fun j => lane2 f .rne (fun x y => (x.fmax y, false)) (t.getV a f.bytes j) (t.getV b f.bytes j))
  | .vfsgnj d a b ty => let f := fmt2 ty
    some (d, f, fun j => lane2 f .rne (fun x y => (x.sgnj y, false)) (t.getV a f.bytes j) (t.getV b f.bytes j))
  | .vfscl d a b ty r => let f := fmt2 ty
    some (d, f, fun j => fop1 f (.ofCode r)
      (fun x => (x.scale (Max.max (-1000) (Min.min 1000 (intOf true f.width (t.getV b f.bytes j)))), false)) (t.getV a f.bytes j))
  | .vfsplat d a ty r => let f := fmt2 ty
    some (d, f, fun _ => let x := FFmt.f32.read ((t.getS a).toNat % 2 ^ 32)
      let v := roundF x.1 f (.ofCode r)
      (v.1, { v.2 with flush := v.2.flush || x.2 }))
  | _ => none

/-- Destination, format, mask and operation of the masked floating-point forms of one source (R202, R212). -/
def fltMasked : Instr → Option (VReg × VReg × KReg × FFmt × (Nat → Nat × Cond))
  | .vfsqrt d a k ty r => some (d, a, k, fmt2 ty, fop1 (fmt2 ty) (.ofCode r) Ex.sqrt)
  | .vfrsqrt d a k ty r => some (d, a, k, fmt2 ty, fop1 (fmt2 ty) (.ofCode r) Ex.rsqrt)
  | .vfabs d a k ty => some (d, a, k, fmt2 ty, fop1 (fmt2 ty) .rne fun x => (x.abs, false))
  | .vfneg d a k ty => some (d, a, k, fmt2 ty, fop1 (fmt2 ty) .rne fun x => (x.neg, false))
  | .vfexp2 d a k ty r => some (d, a, k, fmt2 ty, fop1 (fmt2 ty) (.ofCode r) fun x => (x.exp2, false))
  | .vfrnd d a k ty r => some (d, a, k, fmt2 ty, fun x =>
    let v := (fmt2 ty).read x
    let y := roundExInt v.1 (.ofCode r)
    ((roundF y.1 (fmt2 ty) .rne).1, { inexact := y.2, flush := v.2 }))
  | _ => none

/-- Every floating-point form of R202 and R212 reads its operands under R15, rounds once, and raises the conditions of R19; under a mask, an
inactive lane keeps its element and raises nothing (R192). How 2^a of `vfexp2` is computed is the model's choice (log entry 9). -/
def floatLanes : Prop :=
  ∀ (s : State) (t : Task) (i : Instr), s.live = some t → i.wellFormed = true →
    (∀ d f lane, fltLane t i = some (d, f, lane) → WritesLanes i s t d f.bytes (lanesOf t f.bytes) lane) ∧
    (∀ d a k f op, fltMasked i = some (d, a, k, f, op) → WritesLanes i s t d f.bytes (lanesOf t f.bytes) fun j =>
      if (t.getK k).getLsbD j then op (t.getV a f.bytes j) else (t.getV d f.bytes j, .none))

/-- Formats of the fused forms: sources, destination, and whether the product is negated (R204). -/
def fusedForm : Instr → Option (VReg × VReg × VReg × VReg × FFmt × FFmt × Bool)
  | .vfmaF32 d a b c => some (d, a, b, c, .f32, .f32, false)
  | .vfnmaF32 d a b c => some (d, a, b, c, .f32, .f32, true)
  | .vfmaBf16 d a b c => some (d, a, b, c, .bf16, .bf16, false)
  | .vfmaF16 d a b c => some (d, a, b, c, .f16, .f16, false)
  | .vfmawBf16 d a b c => some (d, a, b, c, .bf16, .f32, false)
  | _ => none

/-- A fused form rounds the exact a × b + c once, in the mode of `c.vcsr`, to the destination's format (R204); 0 × ∞ is Invalid unless c is a
NaN (R16). -/
def fusedLanes : Prop :=
  ∀ (s : State) (t : Task) (i : Instr) (d a b c : VReg) (f g : FFmt) (neg : Bool), s.live = some t →
    fusedForm i = some (d, a, b, c, f, g, neg) →
    WritesLanes i s t d g.bytes (lanesOf t g.bytes) fun j =>
      let rm := RM.ofCode t.ctl.vcsr.toNat
      let x := f.read (t.getV a f.bytes j)
      let y := f.read (t.getV b f.bytes j)
      let z := g.read (t.getV c g.bytes j)
      let p := x.1.mul y.1
      let q := (if neg then p.1.neg else p.1).add z.1 rm
      let r := roundF q.1 g rm
      (r.1, { invalid := r.2.invalid || ((p.2 && z.1 != .nan) || q.2), overflow := r.2.overflow, flush := r.2.flush || (x.2 || y.2 || z.2), inexact := r.2.inexact })

/-- The floating-point forms and the fused forms (R202, R204, R212). The value of `vfexp2` goes through `Ex.exp2`, the model's way to compute 2^a
(log entry 9). -/
def Obligations.VectorFloatLanes : Prop := floatLanes ∧ fusedLanes

/-- `vcvt` converts each element with Round or Sat in the mode of `c.vcsr`, or copies it (R207); `vfcmp` compares without raising Invalid, a
NaN making all but `ne` false (R203); `vbhdr` reads block headers (R213). -/
def conversions : Prop :=
  ∀ (s : State) (t : Task), s.live = some t →
    (∀ d a q ty, (Instr.vcvt d a q ty).wellFormed = true →
      WritesLanes (.vcvt d a q ty) s t d (tyWidth ty) (lanesOf t (Max.max (tyWidth q) (tyWidth ty))) fun j =>
        let v := t.getV a (tyWidth q) j
        if q = ty ∧ q.val ≠ 9 ∧ q.val ≠ 10 then (v, .none) else convElem (elemTy q) (elemTy ty) (.ofCode t.ctl.vcsr.toNat) v) ∧
    (∀ c k a b ty, (Instr.vfcmp c k a b ty).wellFormed = true → ∃ m : BitVec 16384, ∃ fl : Bool,
      let f := fmt2 ty
      exec (.vfcmp c k a b ty) s = .next (s.thenTask ((t.setK k m).raise { flush := fl })) ∧
      (∀ j < 16384, m.getLsbD j = (decide (j < lanesOf t f.bytes) &&
        fcondHolds c (f.read (t.getV a f.bytes j)).1 (f.read (t.getV b f.bytes j)).1)) ∧
      (fl = true ↔ ∃ j < lanesOf t f.bytes, (f.read (t.getV a f.bytes j)).2 = true ∨ (f.read (t.getV b f.bytes j)).2 = true)) ∧
    (∀ d a, WritesLanes (.vbhdr d a) s t d 2 (Min.min t.ctl.vl.toNat 256) fun j =>
      (t.regs.v.num (a.val * 16384 + j * 64) 2, .none))

/-- The first `n` elements of a source of format `f`, read under R15, with whether one was flushed. -/
def readsOf (t : Task) (f : FFmt) (a : VReg) (n : Nat) : List (Ex × Bool) := (List.range n).map fun k => f.read (t.getV a f.bytes k)

/-- `vbmax`, `vqnt` and `vhad` (R208, R209, R211), for every form that R193 and R25 admit. `vbmax` gives the largest finite magnitude of each
group of E elements, as f32, and raises Flush alone; `vqnt` writes block j with the format, the rotation, the scale and the elements of R29 for
group j, of the elements or of what the rotation of R30 makes of them; `vhad` delivers the rotated elements, rounded to the format. -/
def quantising : Prop :=
  ∀ (s : State) (t : Task) (d a : VReg) (q : Fin 16) (ty o : Fin 4), s.live = some t →
    let f := fmt2 ty
    let e := blkCount q.val
    let n := lanesOf t f.bytes
    let fl (xs : List (Ex × Bool)) : Cond := { flush := xs.any (·.2) }
    let rotated (xs : List (Ex × Bool)) := rotate (rotSize o.val) (xs.map (·.1))
    ((Instr.vbmax d a q ty).wellFormed = true →
      WritesLanes (.vbmax d a q ty) s t d 4 ((n + e - 1) / e) fun j =>
        let group := ((readsOf t f a n).drop (j * e)).take e
        ((roundF (largestFinite (group.map (·.1))) .f32 .rne).1, fl group)) ∧
    ((Instr.vqnt d a q ty o).wellFormed = true →
      let m := Min.min n (256 * e)
      let xs := readsOf t f a m
      let ys : List Ex := if o = 0 then xs.map (·.1) else (rotated xs).1.map fun v => (FFmt.f32.read v).1
      WritesLanes (.vqnt d a q ty o) s t d 64 ((m + e - 1) / e) fun j =>
        let b := quantise q.val o.val .rne ((ys.drop (j * e)).take e)
        (leNat b.1, b.2.or ((fl xs).or (if o = 0 then .none else (rotated xs).2)))) ∧
    ((Instr.vhad d a ty o).wellFormed = true →
      WritesLanes (.vhad d a ty o) s t d f.bytes n fun j =>
        let r := rotated (readsOf t f a n)
        let y := roundF (FFmt.f32.read (r.1.getD j 0)).1 f .rne
        (y.1, y.2.or (r.2.or (fl (readsOf t f a n)))))

/-- c of R210: how many elements the block yields; for a ZERO or malformed one, the count of the block before it, or 62. -/
def blockYields (blk : Nat → List Byte) : Nat → Nat
  | 0 => if blkMalformed (blk 0) || blkFmt (blk 0) == 0 then 62 else blkCount (blkFmt (blk 0))
  | j + 1 => if blkMalformed (blk (j + 1)) || blkFmt (blk (j + 1)) == 0 then blockYields blk j else blkCount (blkFmt (blk (j + 1)))

/-- `vdqnt` (R210): element i of block j stands after the elements of the blocks before it: 0 with Invalid of a malformed block, 0 of a ZERO
block, and otherwise the element times the block's scale, delivered in the destination's type with RNE. Elements that the 256 blocks do not
reach are unchanged. CB2 blocks use the active bank of the context (R33). -/
def dequantising : Prop :=
  ∀ (s : State) (t : Task) (d a : VReg) (ty : Fin 16), s.live = some t → (Instr.vdqnt d a ty).wellFormed = true →
    let w := tyWidth ty
    let k := s.cctx t
    let blk (j : Nat) : List Byte := t.regs.v.read (a.val * 16384 + j * 64) 64
    let before (j : Nat) : Nat := ((List.range j).map (blockYields blk)).sum
    let n := Min.min (lanesOf t w) (before 256)
    let out (v : Ex × Bool) : Nat × Cond :=
      match elemTy ty with
      | .int sg b => (bitsOfInt (8 * b) (roundI v.1 sg (8 * b) .rne).1, (roundI v.1 sg (8 * b) .rne).2.or { flush := v.2 })
      | .flt f => ((roundF v.1 f .rne).1, (roundF v.1 f .rne).2.or { flush := v.2 })
    ∃ lane : Nat → Nat × Cond, WritesLanes (.vdqnt d a ty) s t d w n lane ∧
      ∀ j < 256, ∀ i < blockYields blk j, before j + i < n → lane (before j + i) =
        if blkMalformed (blk j) then (0, .inv) else if blkFmt (blk j) = 0 then (0, .none)
        else out ((blkValues (fun row => k.code.num ((if k.codeBank then 1024 else 0) + row * 4) 4) (blk j)).getD i (.zero false, false))

/-- acc of R216 before element `k`: absent until a lane is active. -/
def scanOf (f : Nat → Nat → Nat) (p : Nat → Option Nat) : Nat → Option Nat
  | 0 => none
  | k + 1 =>
    match scanOf f p k, p k with
    | some x, some y => some (f x y)
    | none, some y => some y
    | x, none => x

/-- `vscan` (R216): an active lane receives the combination of the active lanes up to it, an inactive one keeps its element. An integer result is
the low bits of the exact one; a floating-point one accumulates in FP32 and is rounded to its type when it is delivered. -/
def scans : Prop :=
  ∀ (s : State) (t : Task) (d a : VReg) (o : Fin 4) (k : KReg) (ty : Fin 16), s.live = some t →
    (Instr.vscan d a o k ty).wellFormed = true →
    let w := tyWidth ty
    let on (j : Nat) : Bool := (t.getK k).getLsbD j
    (1 ≤ ty.val → ty.val ≤ 8 → WritesLanes (.vscan d a o k ty) s t d w (lanesOf t w) fun j =>
      let lanes := ((List.range (j + 1)).filter on).map (laneInt t ty a)
      let v : Int := match o with
        | 0 => lanes.sum
        | 1 => lanes.foldl Max.max (lanes.headD 0)
        | _ => lanes.foldl Min.min (lanes.headD 0)
      (if on j then (v % 2 ^ (8 * w)).toNat else t.getV d w j, .none)) ∧
    (9 ≤ ty.val → ty.val ≤ 11 →
      let f : FFmt := if ty.val = 9 then .f32 else if ty.val = 10 then .bf16 else .f16
      let p (j : Nat) : Option Nat := if on j then some (roundF (f.read (t.getV a w j)).1 .f32 .rne).1 else none
      let acc := scanOf (fun x y => (combFlt o x y).1) p
      WritesLanes (.vscan d a o k ty) s t d w (lanesOf t w) fun j =>
        match p j with
        | none => (t.getV d w j, .none)
        | some y =>
          let c := match acc j with | some x => (combFlt o x y).2 | none => .none
          let v := (acc (j + 1)).getD 0
          let r := if ty.val = 9 then (v, Cond.none) else roundF (FFmt.f32.read v).1 f .rne
          (r.1, (c.or r.2).or { flush := (f.read (t.getV a w j)).2 }))

/-- The conversions, comparisons and block forms (R203, R207 to R211, R213, R216). -/
def Obligations.VectorConversionsAndBlocks : Prop := conversions ∧ quantising ∧ dequantising ∧ scans

/-- `vred` of an integer type delivers the exact combination of the active lanes, the identity when none is active; addition is the sum,
wrapped to 64 bits, and maximum and minimum are those of the lanes (R216). -/
def intReductions : Prop :=
  ∀ (s : State) (t : Task) (d : SReg) (a : VReg) (k : KReg) (ty : Fin 16), s.live = some t → 1 ≤ ty.val → ty.val ≤ 8 →
    let lanes := ((List.range (lanesOf t (tyWidth ty))).filter fun j => (t.getK k).getLsbD j).map (laneInt t ty a)
    let b := 8 * tyWidth ty
    exec (.vred d a 0 k ty) s = .next (s.thenTask (t.setS d (BitVec.ofInt 64 lanes.sum))) ∧
    exec (.vred d a 1 k ty) s = .next (s.thenTask (t.setS d (BitVec.ofInt 64
      (lanes.foldl Max.max (if tySigned ty then -2 ^ (b - 1) else 0))))) ∧
    exec (.vred d a 2 k ty) s = .next (s.thenTask (t.setS d (BitVec.ofInt 64
      (lanes.foldl Min.min (if tySigned ty then 2 ^ (b - 1) - 1 else 2 ^ b - 1)))))

/-- The fixed tree of R216: at level `l` and index `k`, the combination of the 2^l elements from `k` on, where combining with an absent
element yields the other. -/
def treeOf (f : Nat → Nat → Nat) (p : Nat → Option Nat) : Nat → Nat → Option Nat
  | 0, k => p k
  | l + 1, k =>
    match treeOf f p l k, treeOf f p l (k + 2 ^ l) with
    | some x, some y => some (f x y)
    | some x, none => some x
    | none, y => y

/-- `vred` of a floating-point type reads each active lane exactly into FP32, combines along the fixed tree, each addition rounded to FP32,
and delivers FP32 bits, or the identity when no lane is active (R216). -/
def floatReductions : Prop :=
  ∀ (s : State) (t : Task) (d : SReg) (a : VReg) (o : Fin 4) (k : KReg) (ty : Fin 16), s.live = some t → 9 ≤ ty.val → ty.val ≤ 11 →
    o.val < 3 →
    let f : FFmt := if ty.val = 9 then .f32 else if ty.val = 10 then .bf16 else .f16
    let lane (j : Nat) : Option Nat :=
      if j < lanesOf t (tyWidth ty) ∧ (t.getK k).getLsbD j = true then
        some (roundF (f.read (t.getV a (tyWidth ty) j)).1 .f32 .rne).1 else none
    let ident : Nat := match o with | 0 => 0 | 1 => 0xFF800000 | _ => 0x7F800000
    ∃ c : Cond, exec (.vred d a o k ty) s =
      .next (s.thenTask ((t.setS d (BitVec.ofNat 64 ((treeOf (fun x y => (combFlt o x y).1) lane 14 0).getD ident))).raise c))

/-- The reductions of integer and of floating-point lanes (R216). -/
def Obligations.VectorReductions : Prop := intReductions ∧ floatReductions

/-- Every finite encoding that R15 does not flush is its own rounding, in every format and mode, without a condition (R14, R20). -/
def roundingFixes : Prop :=
  ∀ (f : FFmt) (b : Nat) (rm : RM), b < 2 ^ f.width → (f.value b).isFin = true → (f.read b).2 = false →
    roundF (f.value b) f rm = (b, Cond.none)

/-- A NaN operand gives the canonical NaN of the format from every arithmetic form, and raises nothing by itself; 0 × ∞, ∞ − ∞ and 0 / 0
give it and are Invalid (R16), and so are ∞ / ∞ and both square-root forms of a value below zero; of a zero and of +∞ they give what R202
lists. -/
def nansAreCanonical : Prop :=
  ∀ (f : FFmt) (rm : RM) (x : Ex) (n : Bool) (p q : Bool),
    (Ex.add .nan x rm = (.nan, false) ∧ Ex.add x .nan rm = (.nan, false) ∧ Ex.mul .nan x = (.nan, false) ∧ Ex.mul x .nan = (.nan, false) ∧
      Ex.div .nan x = (.nan, false) ∧ Ex.div x .nan = (.nan, false) ∧ Ex.sqrt .nan = (.nan, false) ∧ Ex.rsqrt .nan = (.nan, false)) ∧
    (Ex.mul (.inf p) (.zero q) = (.nan, true) ∧ Ex.mul (.zero q) (.inf p) = (.nan, true) ∧ Ex.add (.inf n) (.inf (!n)) rm = (.nan, true) ∧
      Ex.div (.zero p) (.zero q) = (.nan, true) ∧ Ex.div (.inf p) (.inf q) = (.nan, true) ∧ Ex.sqrt (.inf true) = (.nan, true)) ∧
    (∀ (m : Nat) (e : Int) (more : Bool), m ≠ 0 →
      Ex.sqrt (.fin true m e more) = (.nan, true) ∧ Ex.rsqrt (.fin true m e more) = (.nan, true)) ∧
    (Ex.sqrt (.zero n) = (.zero n, false) ∧ Ex.rsqrt (.zero n) = (.inf n, false) ∧ Ex.rsqrt (.inf false) = (.zero false, false) ∧
      Ex.rsqrt (.inf true) = (.nan, true)) ∧
    roundF .nan f rm = (f.nan, Cond.none)

/-- Representable values round to themselves, and NaNs are canonical (R14 to R16, R20). -/
def Obligations.RoundingAndNans : Prop := roundingFixes ∧ nansAreCanonical

/-! ## Tiles and the manger -/

/-- Element (p, q) of a tile of shape `x` in a register bank (R220). -/
def tileElem (m : Mem) (x : Shape) (p q : Nat) : Nat := m.num (x.at p q) x.w

/-- The instruction writes element (p, q) of a tile of shape `x` with `f p q`, adds `c` to `c.vflags`, leaves every byte outside the tile and
everything else of the machine alone, and goes on. -/
def WritesTile (i : Instr) (s : State) (t : Task) (x : Shape) (f : Nat → Nat → Nat) (c : Cond) : Prop :=
  ∃ m : Mem, (∀ p < x.rows, ∀ q < x.cols, tileElem m x p q = f p q) ∧
    (∀ a, a < x.base * 16384 ∨ x.base * 16384 + x.size ≤ a → m.get a = t.regs.v.get a) ∧
    exec i s = .next (s.thenTask (Task.raise { t with regs := { t.regs with v := m } } c))

/-- Each tile instruction on valid shapes of the forms it admits completes with the elements R222 gives; on a tile with V = 0 it takes the
bounds-violation trap with the shape word (R221), and `ttrn` and `tcvt` take it on shapes that do not match; that `c.tinfo` is then the
destination's shape word is the model's reading (log entry 128). `tdef` writes a shape as R219 validates it. -/
def tileForms : Prop :=
  ∀ (s : State) (t : Task) (d a : TReg) (r : VReg) (b : SReg), s.live = some t →
    (let v := if tileValid (t.getS b) then t.getS b else clearV (t.getS b)
     exec (.tdef d b) s = .next (s.thenTask { t with regs := { t.regs with tdim := t.regs.tdim.set d v } })) ∧
    (t.shape d = none → ∀ i ∈ ([.tzero d, .ttrn d a, .tcvt d a, .tgetr r d b, .tputr d r b] : List Instr),
      exec i s = .next (s.traps t 0x09 0 t.regs.tdim[d])) ∧
    ∀ x, t.shape d = some x →
      WritesTile (.tzero d) s t x (fun _ _ => 0) .none ∧
      (t.shape a = none → ∀ i ∈ ([.ttrn d a, .tcvt d a] : List Instr), exec i s = .next (s.traps t 0x09 0 t.regs.tdim[a])) ∧
      (∀ y, t.shape a = some y →
        (¬ (x.rows = y.cols ∧ x.cols = y.rows ∧ x.w = y.w) → exec (.ttrn d a) s = .next (s.traps t 0x09 0 t.regs.tdim[d])) ∧
        (¬ (x.rows = y.rows ∧ x.cols = y.cols) → exec (.tcvt d a) s = .next (s.traps t 0x09 0 t.regs.tdim[d])) ∧
        (x.rows = y.cols → x.cols = y.rows → x.w = y.w → WritesTile (.ttrn d a) s t x (fun p q => tileElem t.regs.v y q p) .none) ∧
        (x.rows = y.rows → x.cols = y.cols →
          let cv := fun v => if x.et = y.et ∧ x.et ≠ 9 ∧ x.et ≠ 10 then (v, Cond.none)
            else convElem (elemTy y.et) (elemTy x.et) (.ofCode t.ctl.vcsr.toNat) v
          WritesTile (.tcvt d a) s t x (fun p q => (cv (tileElem t.regs.v y p q)).1)
            (condsOf ((List.range (y.rows * y.cols)).map fun k => cv (t.regs.v.num (y.base * 16384 + k * y.w) y.w))))) ∧
      ((t.getS b).toNat < x.rows →
        let n := Min.min x.cols (lanesOf t x.w)
        WritesLanes (.tgetr r d b) s t r x.w n (fun q => (tileElem t.regs.v x (t.getS b).toNat q, .none)) ∧
        ∃ m : Mem, (∀ q < n, tileElem m x (t.getS b).toNat q = t.getV r x.w q) ∧
          (∀ z, z < x.at (t.getS b).toNat 0 ∨ x.at (t.getS b).toNat 0 + n * x.w ≤ z → m.get z = t.regs.v.get z) ∧
          exec (.tputr d r b) s = .next (s.thenTask { t with regs := { t.regs with v := m } })) ∧
      (x.rows ≤ (t.getS b).toNat → exec (.tgetr r d b) s = .next (s.traps t 0x09 0 (t.getS b)) ∧
        exec (.tputr d r b) s = .next (s.traps t 0x09 0 (t.getS b)))

/-- The manger's registers are written and read whole (R231); `mgarm` on a nest that passes R226 queues a replay with the registers as they
are, takes a read entry over the bytes it reads, and moves the offsets of the segments used past the bands; a nest that does not pass, or
that reads outside the partition, takes the bounds-violation trap; four replays make it wait; `mgdrop` discards every replay and its entry
(R227, R230). -/
def mangerForms : Prop :=
  ∀ (s : State) (t : Task) (a : SReg) (o : OReg), s.live = some t →
    let v := t.regs.nest
    let n := nestOf v
    let k := s.cctx t
    let h := hull n t.regs.o
    let c := s.core s.cur
    exec (.mgset a) s = .next (s.thenTask { t with regs := { t.regs with nest := t.getS a } }) ∧
    exec (.mgoff o a) s = .next (s.thenTask { t with regs := { t.regs with o := t.regs.o.set o (t.getS a) } }) ∧
    exec (.mgget a o) s = .next (s.thenTask (t.setS a t.regs.o[o])) ∧
    exec (.mggetN a) s = .next (s.thenTask (t.setS a v)) ∧
    (nestOk v = false → exec .mgarm s = .next (s.traps t 0x09 0 v)) ∧
    (nestOk v = true → (h.1 < 0 ∨ (k.psize : Int) < h.2) → exec .mgarm s = .next (s.traps t 0x09 0 (BitVec.ofInt 64 h.1))) ∧
    (nestOk v = true → 0 ≤ h.1 → h.2 ≤ (k.psize : Int) → 4 ≤ t.replays.length → ∃ w : Wait, w.okind = 0x0A ∧
      exec .mgarm s = .next (s.registerWait t w)) ∧
    (nestOk v = true → 0 ≤ h.1 → h.2 ≤ (k.psize : Int) → t.replays.length < 4 → c.room t.ctx 1 = true →
      Leads .mgarm s fun s' => ∃ t', s'.live = some t' ∧ s'.wentOn ∧
        t'.replays = t.replays ++ [{ nest := v, o := t.regs.o, row := 0, serial := s.serial }] ∧
        (∀ i : Fin 8, t'.regs.o[i] = if i.val < n.nseg then offAdvance n t.regs.o[i] else t.regs.o[i]) ∧
        (s'.core s.cur).sb = c.sb ++
          [⟨.loft, (k.base + h.1.toNat) / 64, (k.base + h.2.toNat - 1) / 64, false, false, t.ctx, .replay t.tid s.serial⟩]) ∧
    (s.runsCallOf t = false → Leads .mgdrop s fun s' => ∃ t', s'.live = some t' ∧ s'.wentOn ∧ t'.replays = [] ∧ t'.regs = t.regs ∧
      ∀ e, e ∈ (s'.core s.cur).sb ↔ e ∈ c.sb ∧ ∀ r ∈ t.replays, e.owner ≠ .replay t.tid r.serial)

/-- The tile and the manger instructions (R219 to R231). -/
def Obligations.TilesAndManger : Prop := tileForms ∧ mangerForms

/-! ## The matrix unit -/

/-- The instructions that only tasks of the unit's owner may perform, outside of any other condition of theirs. -/
def ownerChecked : Instr → Bool
  | .mmodeS _ | .mmodeC _ | .mmodeRd _ | .mcal _ | .mcalRd _ _ | .mdescRd _ _ | .mdescWr _ _ | .mpw _ _ | .mpr _ _ | .mstat _ _
  | .mstatClip _ _ _ | .mcwait _ | .mcwaitAll | .mdrainA _ _ | .mdrainB _ _ | .mdrainU _ | .mrestA _ _ | .mrestB _ _ | .mrestU _
  | .mzero _ => true
  | _ => false

/-- A matrix instruction of a task whose context does not own the unit takes the bounds-violation trap and does nothing else (R262). That
`c.tinfo` is then `c.mown` is the model's reading (log entry 20). -/
def ownerAlone : Prop :=
  ∀ (s : State) (t : Task) (i : Instr), s.live = some t → ownerChecked i = true → (s.core s.cur).mx.owner ≠ some t.ctx →
    exec i s = .next (s.traps t 0x09 0 (s.core s.cur).mx.ownWord)

/-- A macro when the held calibrations have started (R259): its own does in compute mode, while the running call may not use the macro. -/
def heldStarts (running : Option Call) (i : Fin 64) (x : MacroSt) : MacroSt :=
  if x.pend && x.compute && !x.busy && !running.any (·.uses i) then { x with pend := false, busy := true } else x

/-- Nothing on the scoreboard holds a write of any macro that the mask `v` names. -/
def macrosFree (s : State) (t : Task) (v : W64) : Prop :=
  ∀ i : Fin 64, v.getLsbD i.val = true → s.unitHold t false true [macroSpan i] = none

/-- The macro instructions, for a task of the owner (R253, R254, R258 to R260): `mmode.c` and `mmode.s` give every named macro the mode and
leave the others, once no entry meets them; `mmode.rd` reads the modes; `mcal` asks for a calibration of each named macro that is not BUSY;
`mmode.c` and `mcal` start the calibrations that nothing holds any more; the read forms deliver their words; `mdesc.wr` writes half a descriptor of a macro in storage mode and sets its DIRTY bit. -/
def macroForms : Prop :=
  ∀ (s : State) (t : Task) (a b d : SReg), s.live = some t → (s.core s.cur).mx.owner = some t.ctx →
    let c := s.core s.cur
    let v := t.getS a
    let j : Fin 64 := Fin.ofNat 64 (v.toNat % 64)
    (macrosFree s t v → Leads (.mmodeC a) s fun s' => s'.wentOn ∧ ∀ i : Fin 64, (s'.core s.cur).mx.macros[i] = heldStarts c.mx.running i
      (if v.getLsbD i.val then { c.mx.macros[i] with compute := true } else c.mx.macros[i])) ∧
    (macrosFree s t v → (∀ i : Fin 64, v.getLsbD i.val = true → c.mx.macros[i].busy = false ∧
        ∀ k ∈ c.allCalls, k.uses i = true → k.modes.getLsbD i.val = false) →
      Leads (.mmodeS a) s fun s' => s'.wentOn ∧ ∀ i : Fin 64, (s'.core s.cur).mx.macros[i] =
        if v.getLsbD i.val then { c.mx.macros[i] with compute := false } else c.mx.macros[i]) ∧
    (∃ w : W64, (∀ i : Fin 64, w.getLsbD i.val = c.mx.macros[i].compute) ∧ exec (.mmodeRd d) s = .next (s.thenTask (t.setS d w))) ∧
    (Leads (.mcal a) s fun s' => s'.wentOn ∧ ∀ i : Fin 64, (s'.core s.cur).mx.macros[i] = heldStarts c.mx.running i
      (if v.getLsbD i.val && !c.mx.macros[i].busy then { c.mx.macros[i] with pend := true } else c.mx.macros[i])) ∧
    exec (.mcalRd d a) s = .next (s.thenTask (t.setS d (if v.getLsbD 6 then BitVec.ofInt 64 (c.mx.off j (v.toNat / 2 ^ 7 % 2 ^ 9))
      else c.mx.macros[j].calWord c.tnow))) ∧
    (s.unitHold t false false [macroSpan j] = none → exec (.mdescRd d a) s = .next (s.thenTask (t.setS d
      (BitVec.ofNat 64 (if v.getLsbD 6 then c.mx.macros[j].desc.toNat / 2 ^ 64 else c.mx.macros[j].desc.toNat % 2 ^ 64))))) ∧
    (v.getLsbD 6 = true → (t.getS b).toNat / 2 ≠ 0 → exec (.mdescWr a b) s = .next (s.traps t 0x09 0 (t.getS b))) ∧
    ((v.getLsbD 6 = true → (t.getS b).toNat / 2 = 0) → c.mx.macros[j].compute = true →
      exec (.mdescWr a b) s = .next (s.traps t 0x09 0 v)) ∧
    ((v.getLsbD 6 = true → (t.getS b).toNat / 2 = 0) → c.mx.macros[j].compute = false →
      s.unitHold t false true [macroSpan j] = none →
      Leads (.mdescWr a b) s fun s' => s'.wentOn ∧ ∀ i : Fin 64, (s'.core s.cur).mx.macros[i] =
        if i = j then { c.mx.macros[j] with dirty := true, desc := BitVec.ofNat 128 (
          if v.getLsbD 6 then c.mx.macros[j].desc.toNat % 2 ^ 64 + (t.getS b).toNat * 2 ^ 64
          else c.mx.macros[j].desc.toNat / 2 ^ 64 * 2 ^ 64 + (t.getS b).toNat) }
        else c.mx.macros[i])

/-- The unit serves its owner alone, and the macro instructions do as R253 to R260 say (R262). -/
def Obligations.MacroInstructions : Prop := ownerAlone ∧ macroForms

/-- Parameters, the microprogram store and status (R262, R285, R286): `mucw` writes a word of the store from a supervisor context once no call
is outstanding, has no effect from another, and waits otherwise, and `mucr` reads a word, whether or not the context owns the unit; for the
owner, `mpw` and `mpr` move a parameter register, and `mstat` and `mstat.clip` read what the unit keeps of a handle; a wait ends at once on a
handle that is done, expired or not issued. -/
def Obligations.UnitRegistersAndStatus : Prop :=
  ∀ (s : State) (t : Task) (a b d : SReg) (m : MReg), s.live = some t →
    let c := s.core s.cur
    let h : BitVec 32 := (t.getS a).setWidth 32
    let idx := (t.getS a).toNat % 2 ^ 13
    ((s.cctx t).sup = false → exec (.mucw a b) s = .next s.goesOn) ∧
    ((s.cctx t).sup = true → c.callsOutstanding = false → Leads (.mucw a b) s fun s' => s'.wentOn ∧
      ∀ i, (s'.core s.cur).mx.ucode.num (i * 8) 8 = if i = idx then (t.getS b).toNat else c.mx.ucode.num (i * 8) 8) ∧
    ((s.cctx t).sup = true → c.callsOutstanding = true → ∃ w : Wait, w.okind = 0x0B ∧ exec (.mucw a b) s = .next (s.registerWait t w)) ∧
    exec (.mucr d a) s = .next (s.thenTask (t.setS d (BitVec.ofNat 64 (c.mx.ucode.num (idx * 8) 8)))) ∧
    (c.mx.owner = some t.ctx →
    exec (.mpw m a) s = .next (s.thenTask { t with regs := { t.regs with m := t.regs.m.set m (t.getS a) } }) ∧
    exec (.mpr d m) s = .next (s.thenTask (t.setS d t.regs.m[m])) ∧
    exec (.mstat d a) s = .next (s.thenTask (t.setS d (
      match t.stats.find? (·.handle == h) with
      | some r => r.status
      | none => if h = 0 ∨ (t.wrapped = false ∧ t.ctl.lasth.toNat < h.toNat) then 0 else BitVec.ofNat 64 (2 ^ 55 + h.toNat)))) ∧
    exec (.mstatClip d a b) s = .next (s.thenTask (t.setS d (
      match t.stats.find? (·.handle == h) with
      | some r => (r.clip >>> (64 * ((t.getS b).toNat % 8))).setWidth 64
      | none => 0))) ∧
    ((∀ r, t.stats.find? (·.handle == h) = some r → r.status.getLsbD 63 = true) → exec (.mcwait a) s = .next s.goesOn) ∧
    (∀ r, t.stats.find? (·.handle == h) = some r → r.status.getLsbD 63 = false →
      ∃ w : Wait, w.okind = 0x0B ∧ exec (.mcwait a) s = .next (s.registerWait t w)) ∧
    (c.openCalls t.tid = [] → exec .mcwaitAll s = .next s.goesOn) ∧
    (c.openCalls t.tid ≠ [] → ∃ w : Wait, w.okind = 0x0B ∧ exec .mcwaitAll s = .next (s.registerWait t w)))

/-- A matrix call in a compute phase, by a task of the owner whose footprint passes R273, with a free place in its queue and room on the
scoreboard, takes the next handle, joins the queue with the parameters, modes and shapes of the moment, and delivers the handle; in an
exchange phase it takes the phase-illegal trap. `mtacc` is the other way round: it begins in an exchange phase (R271 to R273, R276, R289). That `c.tinfo` is `c.mown` when
another context owns the unit is the model's reading (log entry 20). -/
def Obligations.MatrixCalls : Prop :=
  ∀ (s : State) (t : Task) (i : Fin 256) (p : Fin 16) (w : Fin 4) (d a b : SReg), s.live = some t →
    let c := s.core s.cur
    let k := s.cctx t
    let h : BitVec 32 := if t.ctl.lasth + 1 = 0 then 1 else t.ctl.lasth + 1
    let new (rty : Bool) : Call :=
      { handle := h, ctx := t.ctx, tid := t.tid, m := t.regs.m, idx := i, split := p.val, win := w.val, rty := rty,
        modes := c.mx.modeMap, tdim := t.regs.tdim, serial := s.serial }
    let es := callEntries k (.call t.tid h) t.regs.m[7] t.regs.m[6]
    (∀ (rty : Bool) (call : Instr), call = (if rty then .mcallRty i p w d else .mcall i p w d) →
      (s.dev.phase.getLsbD 0 = true → exec call s = .next (s.traps t 0x03 0 s.dev.phase)) ∧
      (s.dev.phase.getLsbD 0 = false → c.mx.owner ≠ some t.ctx → exec call s = .next (s.traps t 0x09 0 c.mx.ownWord)) ∧
      (s.dev.phase.getLsbD 0 = false → c.mx.owner = some t.ctx → ∀ x, t.footFails k.psize = some x →
        exec call s = .next (s.traps t 0x09 0 x)) ∧
      (s.dev.phase.getLsbD 0 = false → c.mx.owner = some t.ctx → t.footFails k.psize = none → (c.openCalls t.tid).length < 8 →
        c.room t.ctx es.length = true → Leads call s fun s' => ∃ t', s'.live = some t' ∧ s'.wentOn ∧ t'.calls = t.calls ++ [new rty] ∧
          t'.getS d = (if d = 0 then 0 else h.setWidth 64) ∧ t'.ctl.lasth = h ∧ t'.statusOf h ≠ none ∧
          (s'.core s.cur).sb = c.sb ++ es)) ∧
    (s.dev.phase.getLsbD 0 = false → exec (.mtacc d a b) s = .next (s.traps t 0x03 0 s.dev.phase)) ∧
    (s.dev.phase.getLsbD 0 = true → c.mx.owner = some t.ctx →
      let f := (t.getS b).toNat % 128
      let l := (t.getS b).toNat / 256 % 128
      let mask := (t.getS a).toNat % 65536
      (l < f → exec (.mtacc d a b) s = .next (s.traps t 0x09 0 (t.getS b))) ∧
      (f ≤ l → 2 ^ (t.tsz.val + 1) ≤ mask → exec (.mtacc d a b) s = .next (s.traps t 0x09 0 (t.getS a))) ∧
      (f ≤ l → mask < 2 ^ (t.tsz.val + 1) → c.room t.ctx 2 = true → Leads (.mtacc d a b) s fun s' => ∃ t', s'.live = some t' ∧
        s'.wentOn ∧ t'.getS d = (if d = 0 then 0 else h.setWidth 64) ∧ t'.ctl.lasth = h ∧
        (s'.core s.cur).mx.mtaccs = c.mx.mtaccs ++
          [{ serial := s.serial, handle := h, ctx := t.ctx, tid := t.tid, first := f, last := l, todo := t.others mask }] ∧
        (s'.core s.cur).sb.length = c.sb.length + 2))

/-- Drains and restores by a task of the owner, once nothing holds the rows (R281, R287, R288): `mdrain` moves the rows into the whole
register, `mrest` moves the register into the rows, a bound as its magnitude and a NaN as +∞; rows that are not aligned take the
bounds-violation trap; `mzero` zeroes the rows of both stores; `mdrain.u` and `mrest.u` move the micro-state of the task. What an image does
not hold is the model's reading (log entry 42). -/
def Obligations.DrainsAndRestores : Prop :=
  ∀ (s : State) (t : Task) (d : VReg) (a : SReg), s.live = some t → (s.core s.cur).mx.owner = some t.ctx →
    let c := s.core s.cur
    let f := (t.getS a).toNat % 128
    let l := (t.getS a).toNat / 256 % 128
    (f % 8 ≠ 0 → exec (.mdrainA d a) s = .next (s.traps t 0x09 0 (t.getS a)) ∧ exec (.mrestA d a) s = .next (s.traps t 0x09 0 (t.getS a))) ∧
    (f % 16 ≠ 0 → exec (.mdrainB d a) s = .next (s.traps t 0x09 0 (t.getS a)) ∧ exec (.mrestB d a) s = .next (s.traps t 0x09 0 (t.getS a))) ∧
    (f % 8 = 0 → s.unitHold t true false [accSpan f (f + 7)] = none →
      WritesLanes (.mdrainA d a) s t d 1 16384 fun j => ((c.mx.acc.get (f * 2048 + j)).toNat, .none)) ∧
    (f % 16 = 0 → s.unitHold t true false [bndSpan f (f + 15)] = none →
      WritesLanes (.mdrainB d a) s t d 1 16384 fun j => ((c.mx.bnd.get (f * 1024 + j)).toNat, .none)) ∧
    (f % 8 = 0 → s.unitHold t true true [accSpan f (f + 7)] = none → Leads (.mrestA d a) s fun s' => s'.wentOn ∧
      ∀ j, (s'.core s.cur).mx.acc.get j = if f * 2048 ≤ j ∧ j < f * 2048 + 16384 then t.regs.v.get (d.val * 16384 + (j - f * 2048))
        else c.mx.acc.get j) ∧
    (f % 16 = 0 → s.unitHold t true true [bndSpan f (f + 15)] = none → Leads (.mrestB d a) s fun s' => s'.wentOn ∧
      ∀ j, (s'.core s.cur).mx.bnd.num (j * 2) 2 = if f * 512 ≤ j ∧ j < f * 512 + 8192 then
          (let v := t.getV d 2 (j - f * 512) % 0x8000; if 0x7F80 < v then 0x7F80 else v)
        else c.mx.bnd.num (j * 2) 2) ∧
    (l < f → exec (.mzero a) s = .next (s.traps t 0x09 0 (t.getS a))) ∧
    (f ≤ l → s.unitHold t false true [accSpan f l, bndSpan f l] = none →
      Leads (.mzero a) s fun s' => s'.wentOn ∧
        (∀ j, (s'.core s.cur).mx.acc.get j = if f * 2048 ≤ j ∧ j < (l + 1) * 2048 then 0 else c.mx.acc.get j) ∧
        ∀ j, (s'.core s.cur).mx.bnd.get j = if f * 1024 ≤ j ∧ j < (l + 1) * 1024 then 0 else c.mx.bnd.get j) ∧
    (Leads (.mdrainU d) s fun s' => ∃ t', s'.live = some t' ∧ s'.wentOn ∧
      t'.regs.v.read (d.val * 16384) 8192 = (s.microImage s.cur t) ∧ t'.drainedU = true) ∧
    (let bs := t.regs.v.read (d.val * 16384) 8192
     let ok := c.mx.frozen = true ∧ imageOk bs = true ∧ c.callsOut t = 0
     (¬ ok → exec (.mrestU d) s = .next (s.traps t 0x09 0 (BitVec.ofNat 64 (leNat (bs.take 8))))) ∧
     (ok → Leads (.mrestU d) s fun s' => ∃ t', s'.live = some t' ∧ s'.wentOn ∧ t'.regs = t.regs ∧
       t'.calls.length = (leNat (bs.take 8)) % 16 ∧ t'.calls = (List.range t'.calls.length).map (fun i => { imageCall bs t i with serial := s.serial + i }) ∧
       t'.stats = imageStats bs t.ctl.lasth ∧ t'.late = (t'.calls.filter fun k => t'.stats.all (·.handle != k.handle)).map fun k =>
         ({ handle := k.handle, status := k.handle.setWidth 64 } : CallStatus)))

/-! ## The loft -/

/-- Units of `c.vl`, and the addresses of contiguous and window accesses of units from `e` units past BASE (R150, R151, R153). -/
def runFrom (t : Task) (e : Int) (b : BufOp) : Option (List Int) :=
  some ((List.range (lanesOf t b.unit)).map fun k => b.base + e * b.unit + (k : Int) * b.unit)

/-- The addresses of a window access; ROWLEN = 0 gives none. -/
def windowFrom (t : Task) (e : Int) (b : BufOp) : Option (List Int) :=
  if b.rowlen = 0 then none
  else some ((List.range (lanesOf t b.unit)).map fun k =>
    b.base + e * b.unit + ((k / b.rowlen : Nat) : Int) * b.rs + ((k % b.rowlen : Nat) : Int) * b.unit)

/-- The active lanes of a gather or scatter (R154). -/
def activeLanes (t : Task) (b : BufOp) (k : KReg) : List Nat :=
  (List.range (Min.min (lanesOf t b.unit) 4096)).filter fun j => (t.getK k).getLsbD j

/-- Whether a record access writes, the record it names, and the addresses of the units it touches (R151 to R154). -/
def loftUnits (t : Task) : Instr → Option (Bool × BReg × (BufOp → Option (List Int)))
  | .ldScalar _ a i => some (false, a, fun b => some [b.base + i.toInt * b.unit])
  | .stScalar _ a i => some (true, a, fun b => some [b.base + i.toInt * b.unit])
  | .ldVector _ a i => some (false, a, runFrom t i.toInt)
  | .stVector _ a i => some (true, a, runFrom t i.toInt)
  | .ldw _ a i => some (false, a, windowFrom t i.toInt)
  | .stw _ a i => some (true, a, windowFrom t i.toInt)
  | .ldScalarX _ a x f => some (false, a, fun b => some [b.base + ((t.getS x).toInt + f.val) * b.unit])
  | .stScalarX _ a x f => some (true, a, fun b => some [b.base + ((t.getS x).toInt + f.val) * b.unit])
  | .ldVectorX _ a x f => some (false, a, runFrom t ((t.getS x).toInt + f.val))
  | .stVectorX _ a x f => some (true, a, runFrom t ((t.getS x).toInt + f.val))
  | .ldwX _ a x f => some (false, a, windowFrom t ((t.getS x).toInt + f.val))
  | .stwX _ a x f => some (true, a, windowFrom t ((t.getS x).toInt + f.val))
  | .ldg _ a x k => some (false, a, fun b =>
    some ((activeLanes t b k).map fun j => b.base + intOf true 32 (t.getV x 4 j) * b.unit))
  | .stg _ a x k => some (true, a, fun b =>
    some ((activeLanes t b k).map fun j => b.base + intOf true 32 (t.getV x 4 j) * b.unit))
  | _ => none

/-- Every record access checks its record and then every unit before any unit performs: a failure takes the bounds-violation trap with
nothing performed; the check passes exactly when every unit is in range and, under BCM = 0b01, in bounds; and an access that the
scoreboard or an absent granule holds waits (R145, R148, R150). That `c.tinfo` names the first failing unit is the model's reading (log entry
13). -/
def Obligations.LoftAccessChecks : Prop :=
  ∀ (s : State) (t : Task) (i : Instr) (w : Bool) (a : BReg) (adr : BufOp → Option (List Int)), s.live = some t →
    loftUnits t i = some (w, a, adr) →
    (bufOp t.regs.b[a] = none → exec i s = .next (s.traps t 0x09 0 (t.regs.b[a].setWidth 64))) ∧
    ∀ b, bufOp t.regs.b[a] = some b → (adr b = none → exec i s = .next (s.traps t 0x09 0 0)) ∧
      ∀ us, adr b = some us →
        let p := (s.cctx t).psize
        ((∃ as, b.check p us = .ok as) ↔ ∀ u ∈ us, 0 ≤ u ∧ u % b.unit = 0 ∧ u + b.unit ≤ p ∧
          (b.bcm = 1 → b.base ≤ u ∧ u + b.unit ≤ b.base + b.ext)) ∧
        (∀ e, b.check p us = .error e → e ∈ us ∧ exec i s = .next (s.traps t 0x09 0 (BitVec.ofInt 64 e))) ∧
        ∀ as, b.check p us = .ok as → as.length = us.length ∧
          ∀ q, s.holdFirst t (s.cctx t) w false (b.spans as) (granules (b.spans as)) = some q →
            exec i s = .next (q.1.registerWait t q.2)

/-- The access of units `as` is checked and nothing holds it. -/
def Unheld (s : State) (t : Task) (b : BufOp) (us : List Int) (as : List (Option Nat)) (write : Bool) : Prop :=
  b.check (s.cctx t).psize us = .ok as ∧ s.holdFirst t (s.cctx t) write false (b.spans as) (granules (b.spans as)) = none

/-- The unit at a place of the partition, as a number; a unit that a clamp drops reads zero (R150). -/
def unitAt (s : State) (t : Task) (u : Nat) : Option Nat → Nat
  | some o => (s.core s.cur).loft.num ((s.cctx t).base + o) u
  | none => 0

/-- A load delivers the units it addresses, and changes nothing but its destination (R150 to R154): a scalar load one unit, sign-extended
when its format is signed; a vector load its units from unit 0 on, leaving the bytes above; a gather the units of its active lanes. -/
def Obligations.LoftLoads : Prop :=
  ∀ (s : State) (t : Task) (i : Instr) (a : BReg) (adr : BufOp → Option (List Int)) (b : BufOp) (us : List Int) (as : List (Option Nat)),
    s.live = some t → loftUnits t i = some (false, a, adr) → bufOp t.regs.b[a] = some b → adr b = some us → Unheld s t b us as false →
    let r := s.reached t (b.spans as) false
    match i with
    | .ldScalar d _ _ | .ldScalarX d _ _ _ =>
      let v := unitAt r t b.unit (as.headD none)
      exec i s = .next (r.thenTask (t.setS d (if tySigned b.ef then BitVec.ofInt 64 (intOf true (8 * b.unit) v) else BitVec.ofNat 64 v)))
    | .ldVector d _ _ | .ldVectorX d _ _ _ | .ldw d _ _ | .ldwX d _ _ _ =>
      ∃ m : Mem, (∀ k < as.length, m.num (d.val * 16384 + k * b.unit) b.unit = unitAt r t b.unit (as.getD k none)) ∧
        (∀ z, z < d.val * 16384 ∨ d.val * 16384 + as.length * b.unit ≤ z → m.get z = t.regs.v.get z) ∧
        exec i s = .next (r.thenTask { t with regs := { t.regs with v := m } })
    | .ldg d _ _ k =>
      let js := activeLanes t b k
      ∃ m : Mem, (∀ p < js.length, m.num (d.val * 16384 + js.getD p 0 * b.unit) b.unit = unitAt r t b.unit (as.getD p none)) ∧
        (∀ z, (∀ j ∈ js, z < d.val * 16384 + j * b.unit ∨ d.val * 16384 + j * b.unit + b.unit ≤ z) → m.get z = t.regs.v.get z) ∧
        exec i s = .next (r.thenTask { t with regs := { t.regs with v := m } })
    | _ => True

/-- The value a store form writes to its `k`-th unit. -/
def storedUnit (t : Task) (b : BufOp) (k : Nat) : Instr → Nat
  | .stScalar d _ _ | .stScalarX d _ _ _ => (t.getS d).toNat % 256 ^ b.unit
  | .stVector d _ _ | .stVectorX d _ _ _ | .stw d _ _ | .stwX d _ _ _ => t.getV d b.unit k
  | .stg d _ _ m => t.getV d b.unit ((activeLanes t b m).getD k 0)
  | _ => 0

/-- A store leaves every unit it addresses as its source gives it, the last of those that share bytes standing, drops the units that a
clamp drops, and leaves every other byte of the loft and everything else of the machine alone (R150 to R154). -/
def Obligations.LoftStores : Prop :=
  ∀ (s : State) (t : Task) (i : Instr) (a : BReg) (adr : BufOp → Option (List Int)) (b : BufOp) (us : List Int) (as : List (Option Nat)),
    s.live = some t → loftUnits t i = some (true, a, adr) → bufOp t.regs.b[a] = some b → adr b = some us → Unheld s t b us as true →
    let r := s.reached t (b.spans as) true
    let base := (s.cctx t).base
    ∃ m : Mem,
      (∀ k o, as[k]? = some (some o) → (∀ k' o', k < k' → as[k']? = some (some o') → o' + b.unit ≤ o ∨ o + b.unit ≤ o') →
        m.num (base + o) b.unit = storedUnit t b k i) ∧
      (∀ z, (∀ o, some o ∈ as → z < base + o ∨ base + o + b.unit ≤ z) → m.get z = (r.core s.cur).loft.get z) ∧
      exec i s = .next (State.goesOn (r.modCore s.cur fun c => { c with loft := m }))

/-- `ldrec` and `strec` move a whole record, 32 bytes for a buffer record and 96 for a layout record, at sa + e × 32; an address that is not
a multiple of 32, or that leaves the partition, takes the bounds-violation trap with nothing moved (R155). -/
def Obligations.RecordMoves : Prop :=
  ∀ (s : State) (t : Task) (d : RecReg) (a : SReg) (e : BitVec 17), s.live = some t →
    let n := if d.val < 16 then 32 else 96
    let v := t.getS a + e.signExtend 64 * 32
    let k := s.cctx t
    let at_ := k.base + v.toNat
    let held (w : Bool) := s.holdFirst t k w false [(v.toNat, n)] (granules [(v.toNat, n)])
    (v.toNat % 32 ≠ 0 ∨ k.psize < v.toNat + n →
      exec (.ldrec d a e) s = .next (s.traps t 0x09 0 v) ∧ exec (.strec d a e) s = .next (s.traps t 0x09 0 v)) ∧
    (v.toNat % 32 = 0 → v.toNat + n ≤ k.psize →
      (held false = none → let r := s.reached t [(v.toNat, n)] false
        exec (.ldrec d a e) s = .next (r.thenTask (t.setRec d (BitVec.ofNat 768 ((r.core s.cur).loft.num at_ n))))) ∧
      (held true = none → let r := s.reached t [(v.toNat, n)] true
        ∃ m : Mem, m.num at_ n = (t.getRec d).toNat ∧
          (∀ z, z < at_ ∨ at_ + n ≤ z → m.get z = (r.core s.cur).loft.get z) ∧
          exec (.strec d a e) s = .next (State.goesOn (r.modCore s.cur fun c => { c with loft := m }))) ∧
      (∀ q, held false = some q → exec (.ldrec d a e) s = .next (q.1.registerWait t q.2)) ∧
      ∀ q, held true = some q → exec (.strec d a e) s = .next (q.1.registerWait t q.2))

/-- Destination or source, address register, displacement, whether it stores, and the tag it awaits (R157). -/
def taggedForm : Instr → Option (SReg × SReg × BitVec 17 × Bool × Option Bool)
  | .ldf d a i => some (d, a, i, false, some true)
  | .ldfp d a i => some (d, a, i, false, some true)
  | .stf d a i => some (d, a, i, true, some false)
  | .stfx d a i => some (d, a, i, true, none)
  | _ => none

/-- The tagged forms (R157, R158). A misplaced word traps before any wait. Where nothing holds the word, no other step waits before this one
for the same tag, and the tag is the one awaited, the step performs: a load delivers the word zero-extended and, for `ldf`, empties it; a
store writes the low 32 bits and fills it. `tagrd` reads 64 tags and never waits; `tagw` sets the tags of a run of words. That `tagrd` reads
the tags as they stand, and that `tagw` dirties no granule and is held as a read is, are the model's readings (log entry 17), and so is the
trap of a `tagw` of no words out of place (log entry 110). -/
def taggedForms : Prop :=
  ∀ (s : State) (t : Task), s.live = some t →
    let k := s.cctx t
    (∀ i d a e st want, taggedForm i = some (d, a, e, st, want) →
      let v := t.getS a + e.signExtend 64
      let o := v.toNat
      let c := (s.reached t [(o, 4)] false).core s.cur
      let word := (k.base + o) / 4
      (o % 4 ≠ 0 ∨ k.psize < o + 4 → exec i s = .next (s.traps t 0x09 0 v)) ∧
      (o % 4 = 0 → o + 4 ≤ k.psize → s.holdFirst t k st true [(o, 4)] (granules [(o, 4)]) = none →
        (∀ b, want = some b → (c.tags.get word = 1 ↔ b = true) ∧
          (s.core s.cur).queued { ctx := t.ctx, ring := false, obj := o, dir := b, owner := .task t.tid, inner := t.inHandler } = false) →
        Leads i s fun s' => ∃ t', s'.live = some t' ∧ s'.wentOn ∧
          let c' := s'.core s.cur
          (if st then t'.regs = t.regs ∧ c'.loft.num (k.base + o) 4 = (t.getS d).toNat % 2 ^ 32 ∧
              (∀ z, z < k.base + o ∨ k.base + o + 4 ≤ z → c'.loft.get z = (((s.reached t [(o, 4)] false).reached t [(o, 4)] true).core s.cur).loft.get z)
            else t'.regs = (t.setS d (BitVec.ofNat 64 (c'.loft.num (k.base + o) 4))).regs) ∧
          c'.tags.get word = (if (match i with | .ldf .. => true | _ => false) then 0 else 1)) ∧
      (o % 4 = 0 → o + 4 ≤ k.psize → s.holdFirst t k st true [(o, 4)] (granules [(o, 4)]) = none →
        (∃ b, want = some b ∧ ¬ (c.tags.get word = 1 ↔ b = true)) →
        ∃ s' w, w.okind = 0x03 ∧ exec i s = .next (State.registerWait s' t w))) ∧
    (∀ (d a : SReg) (e : BitVec 17), let v := t.getS a + e.signExtend 64
      let o := v.toNat
      (o % 256 ≠ 0 ∨ k.psize < o + 256 → exec (.tagrd d a e) s = .next (s.traps t 0x09 0 v)) ∧
      (o % 256 = 0 → o + 256 ≤ k.psize →
        ∃ w : W64, (∀ j < 64, w.getLsbD j = ((s.core s.cur).tags.get ((k.base + o + 4 * j) / 4) == 1)) ∧
          exec (.tagrd d a e) s = .next (s.thenTask (t.setS d w)))) ∧
    ∀ (full : Bool) (d a : SReg), let o := (t.getS a).toNat
      let n := (t.getS d).toNat % 2 ^ 32
      let i : Instr := if full then .tagwF d a else .tagwE d a
      (o % 4 ≠ 0 ∨ k.psize < o + 4 * n → exec i s = .next (s.traps t 0x09 0 (t.getS a))) ∧
      (o % 4 = 0 → o + 4 * n ≤ k.psize → s.holdFirst t k false true [(o, 4 * n)] (granules [(o, 4 * n)]) = none →
        let r := s.reached t [(o, 4 * n)] false
        ∃ m : Mem, (∀ z, m.get z = if (k.base + o) / 4 ≤ z ∧ z < (k.base + o) / 4 + n then (if full then 1 else 0)
            else (r.core s.cur).tags.get z) ∧
          exec i s = .next (State.goesOn (r.modCore s.cur fun c => { c with tags := m })))

/-- `racq` takes the next slot in its direction when one is free or filled and no step waits before it, delivers the slot's loft offset, and
moves the ring's pointer on; it waits otherwise. `rrel` gives up the task's oldest claim of its direction; without one, and on an invalid
ring, it takes the bounds-violation trap, as `racq` does on an invalid ring (R142, R159). -/
def ringForms : Prop :=
  ∀ (s : State) (t : Task) (k : CoreCtx) (d : SReg) (n : Fin 16) (w : Bool), s.live = some t → (s.core s.cur).cctx t.ctx = some k →
    let r := k.rings[n]
    let acq : Instr := if w then .racqW d n else .racqR d n
    let rel : Instr := if w then .rrelW n else .rrelR n
    let slot := if w then r.wrnxt else r.rdnxt
    let queued := (s.core s.cur).queued { ctx := t.ctx, ring := true, obj := n.val, dir := w, owner := .task t.tid, inner := t.inHandler }
    (r.valid = false → exec acq s = .next (s.traps t 0x09 0 (BitVec.ofNat 64 n.val)) ∧
      exec rel s = .next (s.traps t 0x09 0 (BitVec.ofNat 64 n.val))) ∧
    (r.valid = true → queued = false → 0 < (if w then r.free else r.filled) →
      Leads acq s fun s' => ∃ t' k', s'.live = some t' ∧ s'.wentOn ∧ (s'.core s.cur).cctx t.ctx = some k' ∧
        t'.regs = (t.setS d (BitVec.ofNat 64 ((r.desc.toNat % 65536 + slot * (r.desc.toNat / 2 ^ 32 % 65536)) * 64))).regs ∧
        t'.claims = t.claims ++ [(n, w, slot)] ∧
        k'.rings[n].free = (if w then r.free - 1 else r.free) ∧ k'.rings[n].filled = (if w then r.filled else r.filled - 1) ∧
        (if w then k'.rings[n].wrnxt else k'.rings[n].rdnxt) = (slot + 1) % Max.max r.nslot 1) ∧
    (r.valid = true → (queued = true ∨ (if w then r.free else r.filled) = 0) →
      ∃ s' wt, wt.okind = 0x05 ∧ exec acq s = .next (State.registerWait s' t wt)) ∧
    (r.valid = true → t.claims.find? (fun c => c.1 == n && c.2.1 == w) = none →
      exec rel s = .next (s.traps t 0x09 0 (BitVec.ofNat 64 n.val))) ∧
    (∀ c, r.valid = true → t.claims.find? (fun c => c.1 == n && c.2.1 == w) = some c →
      Leads rel s fun s' => ∃ t' k', s'.live = some t' ∧ s'.wentOn ∧ (s'.core s.cur).cctx t.ctx = some k' ∧ t'.regs = t.regs ∧
        t'.claims = t.claims.erase c ∧ k'.rings[n] = r.releaseSlot w c.2.2)

/-- The tagged words and the ring claims (R142, R157 to R159). -/
def Obligations.TaggedWordsAndRings : Prop := taggedForms ∧ ringForms

/-! ## The copy engines and the commands of the network -/

/-- The engine slot of a task. -/
def engOf (t : Task) (e : Bool) : EngSlot := t.engines[if e then (1 : Fin 2) else 0]

/-- `cpy` builds a command from copies of its records in an empty or building staged slot, with scope `.dev` and no other setting, and waits
behind a committed one; `cpyg` commits the building command, takes its entries and its handle, and delivers the handle, or 0 when nothing is
building; `cpyr`, `cpys` and `cpyc` set what they name on a building command, and have no effect otherwise (R107, R110, R125 to R129). -/
def Obligations.CopyStaging : Prop :=
  ∀ (s : State) (t : Task) (d a : RecReg) (b x : SReg) (e : Bool) (o : Fin 4) (z : Fin 8), s.live = some t →
    let g := engOf t e
    let building := g.staged.filter (·.status == .building)
    ((∀ k, g.staged = some k → k.status = .building) → Leads (.cpy d a b e) s fun s' => ∃ t' k, s'.live = some t' ∧ s'.wentOn ∧
      t'.regs = t.regs ∧ (engOf t' e).staged = some k ∧ k.status = .building ∧ k.dst = t.getRec d ∧ k.src = t.getRec a ∧
      k.dl = decide (16 ≤ d.val) ∧ k.sl = decide (16 ≤ a.val) ∧ k.barrier = t.getS b ∧ k.scope = 3 ∧ k.red = false ∧ k.stamped = false ∧
      k.link = false ∧ k.heldBy = []) ∧
    (∀ k, g.staged = some k → k.status ≠ .building → ∃ w : Wait, w.okind = 0x07 ∧ exec (.cpy d a b e) s = .next (s.registerWait t w)) ∧
    (building = none → exec (.cpyg x e) s = .next (s.thenTask (t.setS x 0)) ∧ exec (.cpyr e o) s = .next (s.thenTask t) ∧
      exec (.cpys b x e z) s = .next (s.thenTask t) ∧ exec (.cpyc e) s = .next s.goesOn) ∧
    (∀ k, building = some k →
      let es := k.entries s.cur (s.cctx t)
      ((s.core s.cur).room t.ctx es.length = true → Leads (.cpyg x e) s fun s' => ∃ t' k', s'.live = some t' ∧ s'.wentOn ∧
        (engOf t' e).staged = some k' ∧ k'.status = .committed ∧ k'.dst = k.dst ∧ k'.src = k.src ∧ k'.codeBank = (s.cctx t).codeBank ∧
        k'.handle = ((s.core s.cur).takeHandle s.cur e).1 ∧
        t'.regs = (t.setS x (k'.handle.setWidth 64)).regs ∧ (s'.core s.cur).sb = (s.core s.cur).sb ++ es) ∧
      ((s.core s.cur).room t.ctx es.length = false → exec (.cpyg x e) s = .next (s.registerWait t (s.boardWait t))) ∧
      exec (.cpyr e o) s = .next (s.thenTask (t.modEng e fun g => { g with staged := some { k with red := true, op := o } })) ∧
      (Leads (.cpys b x e z) s fun s' => ∃ t' k', s'.live = some t' ∧ s'.wentOn ∧ (engOf t' e).staged = some k' ∧ k'.scope = z ∧
        (if b = 0 then k'.stamped = false
          else k'.stamped = true ∧ k'.stampAddr = t.getS b &&& 0x00FFFFFFFFFFFFFF ∧ k'.stampVal = t.getS x)) ∧
      ((engOf t (!e)).staged = none → exec (.cpyc e) s = .next s.goesOn) ∧
      ∀ q, (engOf t (!e)).staged = some q → Leads (.cpyc e) s fun s' => ∃ t' q', s'.live = some t' ∧ s'.wentOn ∧
        (engOf t' e).staged = some { k with link := true } ∧ (engOf t' (!e)).staged = some q' ∧
        ∀ u, u ∈ q'.heldBy ↔ u ∈ q.heldBy ∨ u = k.uid)

/-- `recw` writes one word of a record and `recr` reads one (R131); `ctabw` writes a row of the idle code-table bank, and `ctabc` swaps the
banks once no outstanding command of its context holds the active one (R123, R130): that other contexts' commands do not count is the model's
reading (log entry 28). -/
def recordForms : Prop :=
  ∀ (s : State) (t : Task) (k : CoreCtx) (r : RecReg) (a b d : SReg) (w : Fin 16), s.live = some t →
    (s.core s.cur).cctx t.ctx = some k →
    let word (v : BitVec 768) (j : Nat) : W64 := (v >>> (64 * j)).setWidth 64
    (∃ v : BitVec 768, (∀ j < 12, word v j = if j = w.val then t.getS a else word (t.getRec r) j) ∧
      exec (.recw r a w) s = .next (s.thenTask (t.setRec r v))) ∧
    exec (.recr d r w) s = .next (s.thenTask (t.setS d (word (t.getRec r) w.val))) ∧
    (Leads (.ctabw a b) s fun s' => s'.wentOn ∧ ∃ k', (s'.core s.cur).cctx t.ctx = some k' ∧ k'.codeBank = k.codeBank ∧
      ∀ row < 512, k'.code.num (row * 4) 4 = if row = (if k.codeBank then 0 else 256) + (t.getS a).toNat % 256 then (t.getS b).toNat % 2 ^ 32
        else k.code.num (row * 4) 4) ∧
    ((s.core s.cur).bankHolders t.ctx k.codeBank = [] → Leads .ctabc s fun s' => s'.wentOn ∧
      ∃ k', (s'.core s.cur).cctx t.ctx = some k' ∧ k'.codeBank = !k.codeBank ∧ k'.code = k.code) ∧
    ((s.core s.cur).bankHolders t.ctx k.codeBank ≠ [] → ∃ wt : Wait, wt.okind = 0x09 ∧ exec .ctabc s = .next (s.registerWait t wt))

/-- `cpyx.stat` delivers the engine's status, whose low six bits are the flags, and clears the flags; `cpyx.resume` and `cpyx.abort` act
in a supervisor context alone: an abort ends the outstanding command its handle names, a resumption lets a faulted command continue, with
the settings of the image it is given; a handle that names none performs nothing (R121, R132). Which settings an image gives is the model's
choice (`resumeCmd`; log entry 32). -/
def copyControl : Prop :=
  ∀ (s : State) (t : Task) (d a b : SReg) (e : Bool), s.live = some t →
    let h : BitVec 32 := (t.getS a).setWidth 32
    let v := t.getS b
    (s.engineStatus s.cur (engOf t e)).setWidth 6 = (engOf t e).flags ∧
    exec (.cpyxStat d e) s = .next (s.thenTask ((t.modEng e fun g => { g with flags := 0 }).setS d (s.engineStatus s.cur (engOf t e)))) ∧
    ((s.cctx t).sup = false → exec (.cpyxResume a b) s = .next s.goesOn ∧ exec (.cpyxAbort a) s = .next s.goesOn) ∧
    ((s.cctx t).sup = true →
      (s.outstanding h = none → exec (.cpyxAbort a) s = .next s.goesOn ∧ exec (.cpyxResume a 0) s = .next s.goesOn) ∧
      (∀ n k, s.outstanding h = some (n, k) → exec (.cpyxAbort a) s = .next (s.abortCmd n k.uid).goesOn ∧
        exec (.cpyxResume a 0) s = .next (if k.status = .faulted then (s.resumeCmd n k none).goesOn else s.goesOn)) ∧
      (b ≠ 0 → (v.toNat % 256 ≠ 0 ∨ (s.cctx t).psize < v.toNat + 256) → exec (.cpyxResume a b) s = .next (s.traps t 0x09 0 v)) ∧
      (b ≠ 0 → v.toNat % 256 = 0 → v.toNat + 256 ≤ (s.cctx t).psize →
        s.holdFirst t (s.cctx t) false false [(v.toNat, 256)] (granules [(v.toNat, 256)]) = none →
        let r := s.reached t [(v.toNat, 256)] false
        (r.outstanding h = none → exec (.cpyxResume a b) s = .next r.goesOn) ∧
        ∀ n k, r.outstanding h = some (n, k) → exec (.cpyxResume a b) s =
          .next (if k.status = .faulted then (r.resumeCmd n k (some (r.loftRead t v.toNat 256))).goesOn else r.goesOn)))

/-- Record registers, code tables and the control of the engines (R121, R123, R130 to R132). -/
def Obligations.RecordsAndCopyControl : Prop := recordForms ∧ copyControl

/-- The register commands: vector register, address, barrier, unit width, engine, scope, element format, and for a reduction its op
(R305, R306). -/
def registerForm : Instr → Option (VReg × SReg × SReg × Bool × Fin 8 × Nat × Option (Fin 4))
  | .xfer d a b e z => some (d, a, b, e, z, 7, none)
  | .xredAdd d a b ty => some (d, a, b, true, 3, ty.val, some 0)
  | .xredMax d a b ty => some (d, a, b, true, 3, ty.val, some 1)
  | .xredMin d a b ty => some (d, a, b, true, 3, ty.val, some 2)
  | _ => none

/-- Register and signal commands (R302 to R307): in a compute phase they take the phase-illegal trap; in an exchange phase a misaligned
address takes the bounds-violation trap, no elements perform nothing, eight commands queued make the instruction wait, and otherwise the
command joins its engine's queue, committed, with its entries on the scoreboard. That the phase is checked before the operands is the
model's reading (log entry 34). -/
def Obligations.RegisterCommands : Prop :=
  ∀ (s : State) (t : Task), s.live = some t →
    let c := s.core s.cur
    let queues (i : Instr) (e : Bool) (p : Cmd → Prop) : Prop :=
      (8 ≤ (engOf t e).regs.length → ∃ w : Wait, w.okind = 0x07 ∧ exec i s = .next (s.registerWait t w)) ∧
      ((engOf t e).regs.length < 8 → c.sb.length + 2 ≤ 64 → (c.sb.filter (·.ctx == t.ctx)).length + 2 ≤ 64 - 8 * (c.residents - 1) →
        Leads i s fun s' => ∃ t' k, s'.live = some t' ∧ s'.wentOn ∧ t'.regs = t.regs ∧ (engOf t' e).regs = (engOf t e).regs ++ [k] ∧
          k.status = .committed ∧ k.tid = t.tid ∧ k.ctx = t.ctx ∧ k.eng = e ∧ p k ∧
          (s'.core s.cur).sb = c.sb ++ k.entries s.cur (s.cctx t))
    (∀ i d a b e z ef op, registerForm i = some (d, a, b, e, z, ef, op) → i.wellFormed = true →
      let v := t.getS a
      let w := tyWidth ef
      let n := Min.min t.ctl.vl.toNat (16384 / w)
      let row (space base : Nat) : BitVec 768 := BitVec.ofNat 768
        (base + space * 2 ^ 62 + n * w * 2 ^ 64 + n * 2 ^ 128 + 2 ^ 144 + ef * 2 ^ 192)
      (s.dev.phase.getLsbD 0 = false → exec i s = .next (s.traps t 0x03 0 s.dev.phase)) ∧
      (s.dev.phase.getLsbD 0 = true → v.toNat % w ≠ 0 → exec i s = .next (s.traps t 0x09 0 v)) ∧
      (s.dev.phase.getLsbD 0 = true → v.toNat % w = 0 → n = 0 → exec i s = .next s.goesOn) ∧
      (s.dev.phase.getLsbD 0 = true → v.toNat % w = 0 → n ≠ 0 → queues i e fun k => k.kind = .xfer ∧ k.barrier = t.getS b ∧
        k.scope = z ∧ k.red = op.isSome ∧ k.op = op.getD 0 ∧ k.dst = row 0 (v.toNat % 2 ^ 56) ∧
        k.src = row 2 (0x00F000000000 + s.cur.val * 0x04000000 + 0x00800000 + d.val * 0x4000))) ∧
    ∀ (a b : SReg) (e : Bool) (z : Fin 8), let v := t.getS a
      (s.dev.phase.getLsbD 0 = false → exec (.xsig a b e z) s = .next (s.traps t 0x03 0 s.dev.phase)) ∧
      (s.dev.phase.getLsbD 0 = true → v.toNat % 8 ≠ 0 → exec (.xsig a b e z) s = .next (s.traps t 0x09 0 v)) ∧
      (s.dev.phase.getLsbD 0 = true → v.toNat % 8 = 0 → queues (.xsig a b e z) e fun k => k.kind = .signal ∧ k.scope = z ∧
        k.stamped = true ∧ k.stampAddr = v &&& 0x00FFFFFFFFFFFFFF ∧ k.stampVal = t.getS b ∧ k.dst = 0 ∧ k.src = 0)

/-! ## Synchronisation -/

/-- The word of `n` bytes at sa = `v` is the core's own and at hand (R383): in the loft, by its offset or by the core's window, with nothing
that holds the access, or in the core's slice, translated; no load was sent ahead for this instruction. `pa` is its physical address, and `r` the
state in which the step performs. -/
def InHand (s : State) (t : Task) (write : Bool) (n : Nat) (v : W64) (pa : Nat) (r : State) : Prop :=
  let va := v.toNat % 2 ^ 56
  let free (o : Nat) : Prop := o + n ≤ (s.cctx t).psize ∧ s.holdFirst t (s.cctx t) write false [(o, n)] (granules [(o, n)]) = none ∧
    r = s.reached t [(o, n)] write
  if v.toNat < 0x300000 then v.toNat % n = 0 ∧ free v.toNat ∧ pa = windowBase s.cur + v.toNat
  else va % n = 0 ∧ (∀ q ∈ t.requests, q.early = true → q.pc ≠ t.pc ∨ q.slot ≠ s.slot) ∧ s.carrier t va = none ∧ s.translate s.cur (s.cctx t).asn va write = .pa pa ∧
    ((∃ o, placeOf pa = .dram s.cur o ∧ r = s) ∨ ∃ o, placeOf pa = .window s.cur o ∧ o < 0x300000 ∧ free o)

/-- The `n`-byte word at a physical address, as the task's context sees it. -/
def wordAt (s : State) (t : Task) (pa n : Nat) : Nat := leNat (s.physRead t.ctx pa n)

/-- What an atomic of R386 writes given its width in bits, the old word, the operand and the comparand; nothing when it writes nothing. -/
def atomicNew (n old v cmp : Nat) : Instr → Option Nat
  | .aadd .. => some ((old + v) % 2 ^ n)
  | .aand .. => some (old &&& v)
  | .aor .. => some (old ||| v)
  | .axch .. | .ast .. => some v
  | .amax .. => some (if intOf true n old < intOf true n v then v else old)
  | .amin .. => some (if intOf true n v < intOf true n old then v else old)
  | .acas .. => if old = cmp then some v else none
  | _ => none

/-- Destination, address, operand, width in bytes, and whether the access may write, of the atomics and `ast`. -/
def atomicForm : Instr → Option (SReg × SReg × SReg × Nat × Bool)
  | .aadd d a b w _ | .aand d a b w _ | .aor d a b w _ | .axch d a b w _ | .amax d a b w _ | .amin d a b w _ | .acas d a b w _ =>
    some (d, a, b, if w then 8 else 4, true)
  | .ald d a w _ => some (d, a, 0, if w then 8 else 4, false)
  | .ast a b w _ => some (0, a, b, if w then 8 else 4, true)
  | _ => none

/-- An atomic on a word at hand reads it, leaves it as R386 says, delivers the old word zero-extended, and changes no other register. A
misaligned word, or a loft word that leaves the partition, takes the bounds-violation trap; a word that is not local takes the
phase-illegal trap in a compute phase (R383, R386, R390). -/
def Obligations.AtomicSteps : Prop :=
  ∀ (s : State) (t : Task) (i : Instr) (d a b : SReg) (n : Nat) (write : Bool), s.live = some t → atomicForm i = some (d, a, b, n, write) →
    let v := t.getS a
    let va := v.toNat % 2 ^ 56
    ((v.toNat < 0x300000 ∧ (v.toNat % n ≠ 0 ∨ (s.cctx t).psize < v.toNat + n)) ∨ (0x300000 ≤ v.toNat ∧ va % n ≠ 0) →
      exec i s = .next (s.traps t 0x09 0 v)) ∧
    (∀ pa, 0x300000 ≤ v.toNat → va % n = 0 → s.carrier t va = none → s.translate s.cur (s.cctx t).asn va write = .pa pa →
      homeOf pa ≠ some s.cur → s.dev.phase.getLsbD 0 = false → t.requests = [] → exec i s = .next (s.traps t 0x03 0 s.dev.phase)) ∧
    ∀ pa r, InHand s t write n v pa r → Leads i s fun s' => ∃ t', s'.live = some t' ∧ s'.wentOn ∧
      let old := wordAt r t pa n
      t'.regs = (t.setS d (BitVec.ofNat 64 old)).regs ∧
      wordAt s' t pa n = (atomicNew (8 * n) old ((t.getS b).toNat % 2 ^ (8 * n)) ((t.getS d).toNat % 2 ^ (8 * n)) i).getD old

/-- Monitor-waits and locks on a word at hand (R377, R389, R393): `mwait` delivers a word that satisfies it, and waits on another; an acquisition
of a free lock writes the holder, with its ownership record, and delivers 1; of a held one, `lkacq.try` delivers 0 and `lkacq` waits. Where the
wait-for table has no entry left, an acquisition takes the tether-overflow trap under POL = 0, and goes on without a record, counted in UNTETH,
under POL = 1. `lkrel` of a lock that the task holds hands the word to the tethered waiter with the highest EFF, the oldest among equals, or
zeroes it when nobody waits; of another lock it takes the bounds-violation trap. -/
def Obligations.LocksAndMonitorWaits : Prop :=
  ∀ (s : State) (t : Task) (k : CoreCtx) (d a b : SReg) (z : Fin 8) (pa : Nat) (r : State), s.live = some t →
    (s.core s.cur).cctx t.ctx = some k →
    let v := t.getS a
    let old := wordAt r t pa 8
    let sets (i : Instr) (x : Nat) : Prop := Leads i s fun s' => ∃ t', s'.live = some t' ∧ s'.wentOn ∧
      t'.regs = (t.setS d (BitVec.ofNat 64 x)).regs
    let waits (i : Instr) (kind : BitVec 5) : Prop := ∃ w : Wait, w.okind = kind ∧ exec i s = .next (r.registerWait t w)
    (InHand s t false 8 v pa r →
      (if (t.getS b).toNat ≤ old then sets (.mwaitGe d a b z) old else waits (.mwaitGe d a b z) 0x04) ∧
      (if old ≠ (t.getS b).toNat then sets (.mwaitNe d a b z) old else waits (.mwaitNe d a b z) 0x04)) ∧
    let acquires : List Instr := [.lkacq d a z, .lkacqTry d a z]
    (InHand s t true 8 v pa r → t.granted = none → (∀ e ∈ s.dev.wf, e.record = true) →
      (s.wfRoom s.cur t.ctx t.tid = true → old < 2 ^ 63 → ∀ i ∈ acquires, sets i 1 ∧ Leads i s fun s' =>
        wordAt s' t pa 8 = 2 ^ 63 + t.ctx.toNat * 2 ^ 16 + t.tid.toNat ∧
        ∃ e ∈ s'.dev.wf, e.record = true ∧ e.okind = 0x02 ∧ e.obj.toNat = pa % 2 ^ 48 ∧ e.tid = t.tid) ∧
      (s.wfRoom s.cur t.ctx t.tid = true → 2 ^ 63 ≤ old → waits (.lkacq d a z) 0x02 ∧ sets (.lkacqTry d a z) 0) ∧
      (s.wfRoom s.cur t.ctx t.tid = false → k.wfcfg.getLsbD 63 = false →
        ∀ i ∈ acquires, exec i s = .next (s.traps t 0x05 0 (s.dev.wfuse t.ctx))) ∧
      (s.wfRoom s.cur t.ctx t.tid = false → k.wfcfg.getLsbD 63 = true → t.untethered = false →
        let counts (i : Instr) : Prop := Leads i s fun s' => ∃ k', (s'.core s.cur).cctx t.ctx = some k' ∧ k'.unteth = sat32 k.unteth
        (old < 2 ^ 63 → ∀ i ∈ acquires, sets i 1 ∧ counts i ∧ Leads i s fun s' =>
          wordAt s' t pa 8 = 2 ^ 63 + t.ctx.toNat * 2 ^ 16 + t.tid.toNat ∧ ∀ e ∈ s'.dev.wf, e ∈ s.dev.wf) ∧
        (2 ^ 63 ≤ old → waits (.lkacq d a z) 0x02 ∧ sets (.lkacqTry d a z) 0 ∧ counts (.lkacqTry d a z)))) ∧
    (InHand s t true 8 v pa r → 2 ^ 63 ≤ old → old / 2 ^ 16 % 2 ^ 16 = t.ctx.toNat → old % 2 ^ 16 = t.tid.toNat →
      let ws := s.lockWaiters t.ctx pa
      ws ≠ [] → (∀ e ∈ s.dev.wf, e.record = true ∨ e ∈ ws) → (ws.map (·.tid)).Nodup → Leads (.lkrel a z) s fun s' => s'.wentOn ∧
        ∃ pre e post, ws = pre ++ e :: post ∧ (∀ f ∈ pre, s.effOf f.tid < s.effOf e.tid) ∧ (∀ f ∈ post, s.effOf f.tid ≤ s.effOf e.tid) ∧
          wordAt s' t pa 8 = 2 ^ 63 + e.ctx.toNat * 2 ^ 16 + e.tid.toNat ∧ ∀ f ∈ s'.dev.wf, f.idx = e.idx → f.record = true) ∧
    (InHand s t true 8 v pa r → (∀ e ∈ s.dev.wf, e.record = true) →
      let mine := 2 ^ 63 ≤ old ∧ old / 2 ^ 16 % 2 ^ 16 = t.ctx.toNat ∧ old % 2 ^ 16 = t.tid.toNat
      (mine → Leads (.lkrel a z) s fun s' => s'.wentOn ∧ wordAt s' t pa 8 = 0) ∧
      (¬ mine → exec (.lkrel a z) s = .next (s.traps t 0x09 0 v)))

/-- The barrier instructions on an object of the loft (R380, R381, R388): `binit` zeroes it; `bexp` performs Expect, or takes the
barrier-overflow trap; `bwait` goes on when it is not armed, `bwait.ph` when its phase differs, and both wait otherwise; `barv` performs
Arrive and delivers the old word 0. An address that is not aligned to 16, or whose object leaves the partition, takes the
bounds-violation trap, and so does, of a `barv`, one that lies in no loft window, and an arrival of 2^36 or more. -/
def Obligations.BarrierSteps : Prop :=
  ∀ (s : State) (t : Task) (d a b : SReg) (z : Fin 8), s.live = some t →
    let o := (t.getS a).toNat
    let p := (s.cctx t).psize
    let n := (t.getS b).toNat
    let base := (s.cctx t).base
    let free (write : Bool) : Prop := s.holdFirst t (s.cctx t) write false [(o, 16)] (granules [(o, 16)]) = none
    let r (write : Bool) := s.reached t [(o, 16)] write
    let w0 (q : State) := (q.core s.cur).loft.num (base + o) 8
    let w1 (q : State) := (q.core s.cur).loft.num (base + o + 8) 8
    let pend (q : State) := w0 q % 2 ^ 36
    let credit (q : State) := w1 q % 2 ^ 36
    (o % 16 ≠ 0 ∨ p < o + 16 → ∀ i ∈ ([.binit a, .bexp a b, .bwait a, .bwaitPh a b] : List Instr),
      exec i s = .next (s.traps t 0x09 0 (t.getS a))) ∧
    (o % 16 = 0 → o + 16 ≤ p → free true →
      (Leads (.binit a) s fun s' => s'.wentOn ∧ w0 s' = 0 ∧ w1 s' = 0) ∧
      (credit (r true) < n → 2 ^ 36 - 1 - pend (r true) < n - credit (r true) →
        exec (.bexp a b) s = .next (s.traps t 0x06 0 (BitVec.ofNat 64 o))) ∧
      (n ≤ credit (r true) ∨ n - credit (r true) ≤ 2 ^ 36 - 1 - pend (r true) → Leads (.bexp a b) s fun s' => s'.wentOn ∧
        credit s' = credit (r true) - n ∧ pend s' = pend (r true) + (n - credit (r true)) ∧
        ((w0 s').testBit 63 = true ↔ pend s' ≠ 0) ∧
        ((w0 s').testBit 62 = true ↔ ((w0 (r true)).testBit 62 = true ↔ pend s' ≠ 0)) ∧
        w0 s' / 2 ^ 36 % 2 ^ 26 = w0 (r true) / 2 ^ 36 % 2 ^ 26 ∧ w1 s' / 2 ^ 36 = w1 (r true) / 2 ^ 36) ∧
      (o < 0x300000 → n < 2 ^ 36 → Leads (.barv d a b z) s fun s' => ∃ t', s'.live = some t' ∧ s'.wentOn ∧
        t'.regs = (t.setS d (BitVec.ofNat 64 (w0 (r true)))).regs ∧
        ((w0 (r true)).testBit 63 = true → n < pend (r true) → pend s' = pend (r true) - n ∧ w0 s' / 2 ^ 36 = w0 (r true) / 2 ^ 36 ∧
          w1 s' = w1 (r true)) ∧
        ((w0 (r true)).testBit 63 = true → pend (r true) ≤ n → pend s' = 0 ∧ (w0 s').testBit 63 = false ∧
          ((w0 s').testBit 62 = true ↔ (w0 (r true)).testBit 62 = false) ∧
          credit s' = Min.min (2 ^ 36 - 1) (credit (r true) + (n - pend (r true)))) ∧
        ((w0 (r true)).testBit 63 = false → pend s' = pend (r true) ∧ credit s' = Min.min (2 ^ 36 - 1) (credit (r true) + n)))) ∧
    (2 ^ 36 ≤ n → o % 16 = 0 → (o < 0x300000 ∨ ∃ m x, placeOf (o % 2 ^ 56) = .window m x ∧ x < 0x300000) →
      exec (.barv d a b z) s = .next (s.traps t 0x09 0 (t.getS b))) ∧
    (o % 16 ≠ 0 ∨ (0x300000 ≤ o ∧ ∀ m x, placeOf (o % 2 ^ 56) = .window m x → 0x300000 ≤ x) ∨ (o < 0x300000 ∧ n < 2 ^ 36 ∧ p < o + 16) →
      exec (.barv d a b z) s = .next (s.traps t 0x09 0 (t.getS a))) ∧
    (o % 16 = 0 → o + 16 ≤ p → free false →
      (if (w0 (r false)).testBit 63 then ∃ w : Wait, w.okind = 0x01 ∧ exec (.bwait a) s = .next ((r false).registerWait t w)
        else exec (.bwait a) s = .next (r false).goesOn) ∧
      (if (w0 (r false)).testBit 62 = (t.getS b).getLsbD 0 then
          ∃ w : Wait, w.okind = 0x01 ∧ exec (.bwaitPh a b) s = .next ((r false).registerWait t w)
        else exec (.bwaitPh a b) s = .next (r false).goesOn))

/-- `fence` and `drain` go on unless a store of the task is on its way to another home, and wait for it otherwise: that other accesses perform at
their groups is the model's choice (log entry 6); `drain.e` waits for the bank's committed commands and `rgsync`s too (R390). `teth` and `tethown` insert an explicit entry and
deliver its index, or, where the table has no room, deliver all ones or take the tether-overflow trap under POL; the `unteth` forms leave
no entry of the task that they name (R377, R392). -/
def Obligations.DrainsAndTethers : Prop :=
  ∀ (s : State) (t : Task) (k : CoreCtx) (d a : SReg) (z : Fin 8), s.live = some t → (s.core s.cur).cctx t.ctx = some k →
    let obj : BitVec 48 := (t.getS a).setWidth 48
    (t.posting = false → exec (.fence z) s = .next s.goesOn ∧ exec (.drain z) s = .next s.goesOn) ∧
    (t.posting = true → exec (.fence z) s = .next (s.registerWait t { okind := 0, obj := 0, edge := false }) ∧
      ∃ w : Wait, w.okind = 0x0E ∧ w.owner = .unknown ∧ exec (.drain z) s = .next (s.registerWait t w)) ∧
    (t.posting = false → (∀ c ∈ t.cmds, c.status = .building) → (∀ y ∈ (s.core s.cur).syncs, y.tid ≠ t.tid) →
      exec (.drainE z) s = .next s.goesOn) ∧
    (t.posting = true ∨ (∃ c ∈ t.cmds, c.status ≠ .building) ∨ (∃ y ∈ (s.core s.cur).syncs, y.tid = t.tid) →
      ∃ w : Wait, w.okind = 0x0E ∧ exec (.drainE z) s = .next (s.registerWait t w)) ∧
    (∀ (rec : Bool) (i : Instr), i = (if rec then .tethown d a else .teth d a) →
      (s.wfRoom s.cur t.ctx t.tid = false → k.wfcfg.getLsbD 63 = false → exec i s = .next (s.traps t 0x05 0 (s.dev.wfuse t.ctx))) ∧
      (s.wfRoom s.cur t.ctx t.tid = false → k.wfcfg.getLsbD 63 = true → Leads i s fun s' => ∃ t', s'.live = some t' ∧ s'.wentOn ∧
        t'.regs = (t.setS d (BitVec.allOnes 64)).regs ∧ ∃ k', (s'.core s.cur).cctx t.ctx = some k' ∧ k'.unteth = sat32 k.unteth) ∧
      (s.wfRoom s.cur t.ctx t.tid = true → (∀ e ∈ s.dev.wf, e.record = true) → s.newOwner t 0x11 obj.toNat ≠ .task t.tid →
        Leads i s fun s' => ∃ t' e, s'.live = some t' ∧ s'.wentOn ∧ e ∈ s'.dev.wf ∧ e.expl = true ∧ e.record = rec ∧ e.okind = 0x11 ∧
          e.obj = obj ∧ e.tid = t.tid ∧ e.ctx = t.ctx ∧ (∀ f ∈ s.dev.wf, f.idx ≠ e.idx) ∧
          t'.regs = (t.setS d (BitVec.ofNat 64 e.idx.val)).regs)) ∧
    (Leads (.unteth a) s fun s' => s'.wentOn ∧ ∀ e ∈ s'.dev.wf, ¬ (e.expl = true ∧ e.tid = t.tid ∧ e.record = false ∧ e.obj = obj)) ∧
    (Leads (.untethO a) s fun s' => s'.wentOn ∧ ∀ e ∈ s'.dev.wf, ¬ (e.expl = true ∧ e.tid = t.tid ∧ e.record = true ∧ e.obj = obj)) ∧
    Leads .untethA s fun s' => s'.wentOn ∧ ∀ e ∈ s'.dev.wf, ¬ (e.expl = true ∧ e.tid = t.tid)

/-! ## Translation, regions and phases -/

/-- The `tlbinv` forms (R89): nothing in any TLB of the device matches what they name any more, everything else stays, and the next group
waits for what could have used it; a context that is not active, and a page in the window range, make them perform nothing. What the next
group waits for is the model's reading (log entry 35). -/
def Obligations.Invalidations : Prop :=
  ∀ (s : State) (t : Task) (a b : SReg) (z : Fin 4), s.live = some t →
    let va := (t.getS a).toNat % 2 ^ 56
    let k := s.cctx t
    let drops (i : Instr) (asn : Option (BitVec 8)) (p : TlbEntry → Prop) : Prop := Leads i s fun s' => ∃ t', s'.live = some t' ∧
      s'.wentOn ∧ t'.regs = t.regs ∧ t'.invalidating = t.invalidating ++ [s.serial] ∧ s'.dev.invs = s.dev.invs ++ [{ uid := s.serial, asn := asn }] ∧
      (∀ n e, e ∈ (s'.core n).tlb ↔ e ∈ (s.core n).tlb ∧ ¬ p e) ∧ ∀ q, q ∈ s'.dev.tlb2 ↔ q ∈ s.dev.tlb2 ∧ ¬ p q.2
    (s.invAsn t (t.getS b) = none → exec (.tlbinvPage a b z) s = .next s.goesOn ∧ exec (.tlbinvCtx b) s = .next s.goesOn) ∧
    (0x00F000000000 ≤ va → va < 0x00F200000000 → exec (.tlbinvPage a b z) s = .next s.goesOn) ∧
    (∀ asn, s.invAsn t (t.getS b) = some asn →
      (va < 0x00F000000000 ∨ 0x00F200000000 ≤ va → drops (.tlbinvPage a b z) (some asn) fun e => e.sz = z ∧ e.covers asn va = true) ∧
      drops (.tlbinvCtx b) (some asn) fun e => e.asn = asn) ∧
    (k.sup = true → drops .tlbinvAll none fun _ => True) ∧
    (k.sup = false → drops .tlbinvAll (some k.asn) fun e => e.asn = k.asn)

/-- The operation that comes next takes a number that nothing on its core has. -/
def FreshSerial (s : State) : Prop :=
  (∀ e ∈ (s.core s.cur).sb, e.owner ≠ .cmd s.serial ∧ e.owner ≠ .sync s.serial) ∧ (∀ m ∈ (s.core s.cur).mapCmds, m.uid ≠ s.serial) ∧
    ∀ r ∈ (s.core s.cur).syncs, r.uid ≠ s.serial

/-- The `rgsync` forms (R90): a barrier that is misaligned or beyond the partition takes the bounds-violation trap; an invalid region and
one without work arrive at the barrier for every granule at once; otherwise the operation takes an entry over the region and is outstanding,
having arrived for the granules that need nothing and that no older entry holds; without room on the scoreboard it waits. A barrier whose own
granule is absent, in a region that is filled from memory, is written when the granule has been filled: until then the operation owes the
arrivals and is outstanding (R83, R148). The order of its granules is the model's reading (log entry 36). -/
def Obligations.RegionMaintenance : Prop :=
  ∀ (s : State) (t : Task) (a b : SReg) (f : Fin 4) (i : Instr), s.live = some t → FreshSerial s →
    i = (match f with | 0 => .rgsyncWb a b | 1 => .rgsyncFill a b | 2 => .rgsyncEvict a b | 3 => .rgsyncDiscard a b) →
    let k := s.cctx t
    let v := t.getS b
    let g : Fin 16 := Fin.ofNat 16 ((t.getS a).toNat % 16)
    let all := (List.range (k.regionLen g)).map (k.regionLo g + ·)
    let older (x : Nat) : Bool :=
      (s.core s.cur).sb.any fun e => e.meets .loft (k.base / 64 + x) (k.base / 64 + x) && (f != 0 || e.write)
    let todo := all.filter fun x => k.syncNeeds g f x || older x
    let m := k.regionLen g - (if k.regionValid g then todo.length else 0)
    let c := s.core s.cur
    let ready : Prop := v = 0 ∨ m = 0 ∨ ∀ j, k.regionOf (v.toNat / 64) = some j → k.isResident (v.toNat / 64) = true ∨ k.regionFill j = 2
    let arrived : State := (List.range m).foldl (fun q _ => q.arrival s.cur t.ctx v 64) s
    let op (owed : Nat) : RgSync :=
      { uid := s.serial, ctx := t.ctx, tid := t.tid, region := g, form := f, barrier := v, todo := if k.regionValid g then todo else [], owed := owed }
    let fits := v.toNat % 16 = 0 ∧ (v = 0 ∨ v.toNat < k.psize)
    (¬ fits → exec i s = .next (s.traps t 0x09 0 v)) ∧
    (fits → k.regionValid g = true → (s.core s.cur).room t.ctx 1 = false → exec i s = .next (s.registerWait t (s.boardWait t))) ∧
    (fits → (k.regionValid g = true → c.room t.ctx 1 = true) →
      (ready → Leads i s fun s' => s'.wentOn ∧ (s'.core s.cur).loft = (arrived.core s.cur).loft ∧
        (if (op 0).todo = [] then (s'.core s.cur).sb = c.sb ∧ (s'.core s.cur).syncs = c.syncs
          else (s'.core s.cur).sb = c.sb ++ [k.syncEntry g f s.serial] ∧ (s'.core s.cur).syncs = c.syncs ++ [op 0])) ∧
      (¬ ready → Leads i s fun s' => s'.wentOn ∧ (s'.core s.cur).loft = c.loft ∧ (s'.core s.cur).syncs = c.syncs ++ [op m]))

/-- The phase family (R319, R320, R332): `phase`, `phase.c` and a `phuntil` of a later phase arrive with their target, which sd receives;
`phuntil` of a phase already reached does not arrive; `phleft` delivers what is left of the budget; `phreq` requests a truncation from a
supervisor context and performs nothing from another. -/
def Obligations.PhaseInstructions : Prop :=
  ∀ (s : State) (t : Task) (d a : SReg), s.live = some t →
    let cur := s.dev.phase
    let arrived (target : W64) : Task := { t with ctl := { t.ctl with arr := true, tgt := target } }
    let arrives (i : Instr) (target : W64) : Prop := exec i s = .next (s.thenTask ((arrived target).setS d target))
    let k := s.cctx t
    let budget := if cur.getLsbD 0 then k.sbudget.toNat / 2 ^ 32 % 2 ^ 31 else k.sbudget.toNat % 2 ^ 32
    arrives (.phase d) (cur + 1) ∧
    arrives (.phaseC d) (if cur.getLsbD 0 then cur + 1 else cur + 2) ∧
    (cur.ult (t.getS a) = true → arrives (.phuntil d a) (t.getS a)) ∧
    (cur.ult (t.getS a) = false → exec (.phuntil d a) s = .next (s.thenTask (t.setS d cur))) ∧
    exec (.phleft d) s = .next (s.thenTask (t.setS d (BitVec.ofInt 64 ((Max.max budget 4096 : Nat) - (s.elap : Int))))) ∧
    exec .phreq s = .next (State.goesOn (if k.sup then s.modDev fun x => { x with trunc := true } else s))

/-! ## Tasks, traps and contexts -/

/-- `spawn`, `spawnt` and `launch` (R360, R365): a record or packet out of place takes the bounds-violation trap, another core in a compute
phase the phase-illegal trap; a core that is not available, and a record that is not runnable once its bytes are at hand, take the
bounds-violation trap, and a full queue makes a spawn wait. Otherwise `spawn` and `spawnt` complete: the record joins its lane with CTX,
JOB and PRI as R360 sets them; and `launch` completes, delivering its job, or all ones with the cause of its refusal. That the phase is checked
before bounds and values is the model's reading (log entry 34). -/
def spawnForms : Prop :=
  ∀ (s : State) (t : Task) (d a b : SReg), s.live = some t →
    let v := t.getS a
    let o := v.toNat
    let far : CoreId := Fin.ofNat 128 ((t.getS b).toNat % 128)
    let p := (s.cctx t).psize
    let ready (n : Nat) : Prop := o % n = 0 ∧ o + n ≤ p
    let free (n : Nat) : Prop := s.holdFirst t (s.cctx t) false false [(o, n)] (granules [(o, n)]) = none
    let r32 := s.reached t [(o, 32)] false
    let r64 := s.reached t [(o, 64)] false
    (∀ (i : Instr) (n : CoreId), (i = .spawn a ∧ n = s.cur ∨ i = .spawnt a b ∧ n = far) →
      (n ≠ s.cur → s.dev.phase.getLsbD 0 = false → exec i s = .next (s.traps t 0x03 0 s.dev.phase)) ∧
      (n = s.cur ∨ s.dev.phase.getLsbD 0 = true →
        (¬ ready 32 → exec i s = .next (s.traps t 0x09 0 v)) ∧
        (ready 32 → (s.core n).avail = false → exec i s = .next (s.traps t 0x09 0 (BitVec.ofNat 64 n.val))) ∧
        (ready 32 → (s.core n).avail = true → free 32 →
          let rcd := recOf (r32.loftRead t o 32) (BitVec.ofNat 64 (windowBase s.cur + o))
          (s.runnable t.ctx rcd = false → exec i s = .next (s.traps t 0x09 0 v)) ∧
          (s.runnable t.ctx rcd = true → (s.core n).queueFull = true →
            ∃ w : Wait, w.okind = 0x0C ∧ exec i s = .next (r32.registerWait t w)) ∧
          (s.runnable t.ctx rcd = true → (s.core n).queueFull = false →
            let q := rcd.enterAs t.ctx t.job (s.ceilOf t.ctx)
            Leads i s fun s' => s'.wentOn ∧ q.ctx = t.ctx ∧ q.job = t.job % 256 ∧
              ∀ l : Fin 8, (s'.core n).lanes[l] =
                if l = q.pri then { q with entered := s.dev.now } :: (s.core n).lanes[l] else (s.core n).lanes[l])))) ∧
    (far ≠ s.cur → s.dev.phase.getLsbD 0 = false → exec (.launch d a b) s = .next (s.traps t 0x03 0 s.dev.phase)) ∧
    (far = s.cur ∨ s.dev.phase.getLsbD 0 = true →
      (¬ ready 64 → exec (.launch d a b) s = .next (s.traps t 0x09 0 v)) ∧
      (ready 64 → free 64 →
        let bs := r64.loftRead t o 64
        let fails := if (packetRec bs).ctx ≠ t.ctx ∧ (s.cctx t).sup = false then some 0x01 else r64.launchFails far bs
        (∀ c, fails = some c → Leads (.launch d a b) s fun s' => ∃ t', s'.live = some t' ∧ s'.wentOn ∧
          t'.regs = (t.setS d (BitVec.allOnes 64)).regs ∧ s'.dev.lrejCause = c ∧ s'.dev.jobs = s.dev.jobs) ∧
        (fails = none → Leads (.launch d a b) s fun s' => ∃ t' j job, s'.live = some t' ∧ s'.wentOn ∧
          t'.regs = (t.setS d (BitVec.ofNat 64 j)).regs ∧ s'.dev.jobs = s.dev.jobs ++ [(j, job)] ∧ s.dev.jobs.lookup j = none)))

/-- `join`, `grow`, `park`, `tend` and `tendj` (R361 to R364). `join` on a record at hand completes, unless the queue has no entry to reserve:
it counts the record down and delivers the old count, and the last join pushes a copy of the record, or reports it when it is not runnable; `grow` completes in a task of a grid and raises the count of the grid; `park` completes
and gives the core up; `tend` takes the bounds-violation trap while the task holds a ring claim or a lock, waits for what is outstanding,
and otherwise completes: the task ends, and its bank is free; `tendj` does so after its join. A misaligned record, and one of another home
in a compute phase, are refused before any wait (R419). That a misaligned record is trapped, and the order of what `tendj` does, are the model's
readings (log entries 64, 65). -/
def endingForms : Prop :=
  ∀ (s : State) (t : Task) (d a : SReg), s.live = some t →
    let v := t.getS a
    let here := (s.core s.cur).cbank
    let gone (i : Instr) : Prop := Leads i s fun s' => s'.flow = .ended ∧ s'.bank s.cur here = none
    let full := (s.core s.cur).queueFull (some t.tid)
    let va := v.toNat % 2 ^ 56
    ((v.toNat < 0x300000 ∧ (v.toNat % 32 ≠ 0 ∨ (s.cctx t).psize < v.toNat + 32)) ∨ (0x300000 ≤ v.toNat ∧ va % 32 ≠ 0) →
      ∀ i ∈ ([.join d a, .tendj a] : List Instr), exec i s = .next (s.traps t 0x09 0 v)) ∧
    (∀ pa, 0x300000 ≤ v.toNat → va % 32 = 0 → s.translate s.cur (s.cctx t).asn va true = .pa pa → homeOf pa ≠ some s.cur →
      s.dev.phase.getLsbD 0 = false → t.requests = [] →
      ∀ i ∈ ([.join d a, .tendj a] : List Instr), exec i s = .next (s.traps t 0x03 0 s.dev.phase)) ∧
    (∀ pa r, InHand s t true 32 v pa r → full = false → Leads (.join d a) s fun s' => ∃ t', s'.live = some t' ∧
      s'.wentOn ∧ t'.regs = (t.setS d (BitVec.ofNat 64 (wordAt r t (pa + 16) 4))).regs ∧
      (wordAt r t (pa + 16) 4 ≠ 1 → wordAt s' t (pa + 16) 4 = wordAt r t (pa + 16) 4 - 1 ∧ ∀ n, (s'.core n).lanes = (s.core n).lanes) ∧
      (wordAt r t (pa + 16) 4 = 1 →
        let bs := (r.physRead t.ctx pa 32).take 16 ++ zeroBytes 4 ++ (r.physRead t.ctx pa 32).drop 20
        let q := r.putWord64 t.ctx (pa + 16) 4 0
        let rcd := recOf bs (if v.toNat < 0x300000 then BitVec.ofNat 64 (windowBase s.cur + v.toNat) else v)
        let p := rcd.enterAs t.ctx t.job (q.ceilOf t.ctx)
        (q.runnable t.ctx rcd = true → ∀ n, ∀ l : Fin 8, (s'.core n).lanes[l] =
          if n = s.cur ∧ l = p.pri then { p with entered := s.dev.now } :: (s.core n).lanes[l] else (s.core n).lanes[l]) ∧
        (q.runnable t.ctx rcd = false → (∀ n, (s'.core n).lanes = (s.core n).lanes) ∧
          let f := q.report s.cur t.ctx 0x04 t.tid [] bs
          s'.dev.dram = f.dev.dram ∧ s'.dev.faultq t.ctx = f.dev.faultq t.ctx))) ∧
    (∀ pa r, InHand s t true 32 v pa r → full = true → ∃ w : Wait, w.okind = 0x0C ∧ exec (.join d a) s = .next (s.registerWait t w)) ∧
    ((t.grid.bind fun g => s.dev.grids.lookup g) = none → exec (.grow d a) s = .next (s.traps t 0x09 0 v)) ∧
    (∀ g x, t.grid = some g → s.dev.grids.lookup g = some x → Leads (.grow d a) s fun s' => ∃ t' x', s'.live = some t' ∧ s'.wentOn ∧
      t'.regs = (t.setS d (x.count.setWidth 64)).regs ∧ s'.dev.grids.lookup g = some x' ∧
      x'.count.toNat = Min.min (x.count.toNat + v.toNat) (2 ^ 24 - 1)) ∧
    (Leads .park s fun s' => s'.wentOn ∧ (s'.core s.cur).yield = true ∧ ∃ t', s'.live = some t' ∧ t'.regs = t.regs) ∧
    (∀ w, s.endRefused t = some w → exec .tend s = .next (s.traps t 0x09 0 w) ∧
      ∀ pa r, InHand s t true 32 v pa r → exec (.tendj a) s = .next (s.traps t 0x09 0 w)) ∧
    (∀ w, s.endRefused t = none → s.endWaits t = some w → exec .tend s = .next (s.registerWait t w) ∧
      ∀ pa r, InHand s t true 32 v pa r → exec (.tendj a) s = .next (s.registerWait t w)) ∧
    (s.endRefused t = none → s.endWaits t = none → gone .tend ∧
      ∀ pa r, InHand s t true 32 v pa r → (full = false → gone (.tendj a)) ∧
        (full = true → ∃ w : Wait, w.okind = 0x0C ∧ exec (.tendj a) s = .next (s.registerWait t w)))

/-- Spawns, launches, joins and the end of a task (R360 to R365). -/
def Obligations.SpawnsAndTaskEndings : Prop := spawnForms ∧ endingForms

/-- Taking a trap (R423, R424): outside a handler, with a vector, the trap registers and s60 to s62 receive the trap, the return point and
the bundle (without one in hand, that at the program counter; log entry 4), and the task is at slot 0 of the handler; a freeze inside a handler is held pending, and is taken at `rett` with `c.tpc` as its
return point; without a vector a freeze is left to the device; in every other case the task freezes with a fault record of kind 0x03 and
its trap registers as they were. Entry leaves the context, the priorities, the phase checks, the scoreboard and the wait-for table alone. Loads
that were sent ahead are given up, the model's choice (`dropEarly`; log entry 6). -/
def Obligations.TrapEntry : Prop :=
  ∀ (s : State) (t : Task) (c : Trap), s.live = some t →
    let vec := (s.cctx t).tvec
    let h := t.ctl.cause.getLsbD 63
    let s' := s.takeTrap t c
    let q := s.dropEarly t
    let cause (h : Bool) : W64 :=
      BitVec.ofNat 64 ((if h then 2 ^ 63 else 0) + c.cls.toNat * 2 ^ 48 + c.detail.toNat * 2 ^ 40 + c.slot.val * 2 ^ 32)
    let tpc : W64 := BitVec.ofNat 64 (c.retPc.toNat / 16 * 16 + c.retSlot.val)
    let b := (s.trapBundle t).toNat
    let b0 : W64 := BitVec.ofNat 64 (b % 2 ^ 64)
    let b1 : W64 := BitVec.ofNat 64 (b / 2 ^ 64)
    s'.flow = .trapped c ∧ s'.dev.wf = s.dev.wf ∧ (∀ n, (s'.core n).sb = (s.core n).sb) ∧
    (h = false → vec.getLsbD 63 = true → ∃ t', s'.live = some t' ∧ t'.ctl.cause = cause true ∧ t'.ctl.tpc = tpc ∧ t'.ctl.tinfo = c.info ∧
      t'.ctl.tbun0 = b0 ∧ t'.ctl.tbun1 = b1 ∧ t'.getS 60 = cause true ∧ t'.getS 61 = tpc ∧ t'.getS 62 = c.info ∧
      t'.pc.toNat = vec.toNat / 16 % 2 ^ 52 * 16 ∧ t'.slot = 0 ∧ t'.ctx = t.ctx ∧ t'.ctl.eff = t.ctl.eff ∧ t'.ctl.base = t.ctl.base ∧
      t'.startPhase = t.startPhase ∧ t'.ctl.arr = t.ctl.arr ∧ t'.ctl.tgt = t.ctl.tgt ∧ SameRegsBut [60, 61, 62] t.regs t'.regs ∧ s'.dev = q.1.dev) ∧
    (h = true → c.cls = 0x08 → vec.getLsbD 63 = true → ∃ t', s'.live = some t' ∧ t'.pendFreeze = some c ∧ t'.regs = t.regs ∧ t'.ctl = t.ctl) ∧
    (c.cls = 0x08 → vec.getLsbD 63 = false → s'.live = some q.2 ∧ s'.dev = q.1.dev) ∧
    (c.cls ≠ 0x08 → (h = true ∨ vec.getLsbD 63 = false) → ∃ t', s'.live = some t' ∧ t'.hold = .unhandled ∧ t'.regs = t.regs ∧
      t'.ctl = t.ctl ∧ s'.dev = (q.1.report s.cur t.ctx 0x03 t.tid [cause h, tpc, c.info, b0, b1] []).dev) ∧
    (h = true → t.pendFreeze = some c → vec.getLsbD 63 = true → t.ctl.tpc.getLsbD 2 = false → t.ctl.tpc.getLsbD 3 = false →
      Leads .rett s fun r => ∃ t', r.live = some t' ∧ t'.ctl.cause = cause true ∧ t'.ctl.tinfo = c.info ∧
        t'.ctl.tpc.toNat = t.ctl.tpc.toNat % 2 ^ 56 / 16 * 16 + t.ctl.tpc.toNat % 4 ∧ t'.pc.toNat = vec.toNat / 16 % 2 ^ 52 * 16 ∧
        t'.slot = 0 ∧ t'.pendFreeze = none)

/-- `trap n` performs its group and enters the trap of class 0x0A that returns to the next bundle (R417, R441); `rett` outside a handler,
or with bits [3:2] of `c.tpc` set, takes the bounds-violation trap, and otherwise clears H and continues at the bundle and slot of
`c.tpc`, or enters the pending freeze with that return point (R442). -/
def Obligations.TrapAndReturn : Prop :=
  ∀ (s : State) (t : Task) (n : Fin 16), s.live = some t →
    let tpc := t.ctl.tpc
    let ok := t.ctl.cause.getLsbD 63 = true ∧ tpc.getLsbD 2 = false ∧ tpc.getLsbD 3 = false
    exec (.trap n) s = .next (s.takeTrap t ⟨0x0A, 0x01, s.slot, BitVec.ofNat 64 n.val, t.pc + 16, 0⟩) ∧
    (¬ ok → exec .rett s = .next (s.traps t 0x09 0 tpc)) ∧
    (ok → t.pendFreeze = none → Leads .rett s fun s' => ∃ t', s'.live = some t' ∧ s'.wentOn ∧ t'.regs = t.regs ∧
      t'.ctl.cause.getLsbD 63 = false ∧ (∀ j < 63, t'.ctl.cause.getLsbD j = t.ctl.cause.getLsbD j) ∧
      s'.flow = .resume (BitVec.ofNat 56 (tpc.toNat / 16 % 2 ^ 52 * 16)) (Fin.ofNat 4 (tpc.toNat % 4))) ∧
    (∀ c, ok → t.pendFreeze = some c → (s.cctx t).tvec.getLsbD 63 = true → Leads .rett s fun s' => ∃ t', s'.live = some t' ∧
      t'.ctl.cause.getLsbD 63 = true ∧ t'.ctl.tpc.toNat = tpc.toNat % 2 ^ 56 / 16 * 16 + tpc.toNat % 4 ∧ t'.slot = 0 ∧
      t'.pendFreeze = none)

/-- The context instructions (R438, R443 to R446): `ckpt` marks a checkpoint at a multiple of 32; the supervisor's instructions take the
bounds-violation trap in any other context; `fqwait` delivers the context of the oldest record of the die, or waits; `fqpop` moves the
oldest record of a queue into the loft; `ctxkill` leaves nothing of an active context on any core, and `ctxrel` releases it; both perform
nothing on a context that is not active. -/
def contextForms : Prop :=
  ∀ (s : State) (t : Task) (k : CoreCtx) (d a b : SReg), s.live = some t → (s.core s.cur).cctx t.ctx = some k →
    let v := t.getS a
    let x : BitVec 16 := v.setWidth 16
    let q := s.dev.faultq ((t.getS b).setWidth 16)
    let o := v.toNat
    (o % 32 ≠ 0 → exec (.ckpt a) s = .next (s.traps t 0x09 0 v)) ∧
    (o % 32 = 0 → Leads (.ckpt a) s fun s' => s'.wentOn ∧ ∃ k', (s'.core s.cur).cctx t.ctx = some k' ∧ k'.ckpt.toNat = o % 2 ^ 56 ∧
      k'.ckph = s.dev.phase) ∧
    (k.sup = false → ∀ i ∈ ([.fqwait d, .fqpop d a b, .ctxkill a, .ctxrel a] : List Instr),
      exec i s = .next (s.traps t 0x09 0 (t.ctx.setWidth 64))) ∧
    (k.sup = true →
      (∀ f, s.dev.oldestFault (dieOf s.cur) = some f → Leads (.fqwait d) s fun s' => ∃ t', s'.live = some t' ∧ s'.wentOn ∧
        t'.regs = (t.setS d (f.ctx.setWidth 64)).regs) ∧
      (s.dev.oldestFault (dieOf s.cur) = none → ∃ w : Wait, w.okind = 0x13 ∧ exec (.fqwait d) s = .next (s.registerWait t w)) ∧
      (o % 512 ≠ 0 ∨ k.psize < o + 512 → exec (.fqpop d a b) s = .next (s.traps t 0x09 0 v)) ∧
      (o % 512 = 0 → o + 512 ≤ k.psize → q.dies = [] → exec (.fqpop d a b) s = .next (s.thenTask (t.setS d 0))) ∧
      (o % 512 = 0 → o + 512 ≤ k.psize → q.dies ≠ [] → s.holdFirst t k true false [(o, 512)] (granules [(o, 512)]) = none →
        Leads (.fqpop d a b) s fun s' => ∃ t', s'.live = some t' ∧ s'.wentOn ∧ t'.regs = (t.setS d 1).regs ∧
          (s'.core s.cur).loft.read (k.base + o) 512 = (s.reached t [(o, 512)] true).oldestRecord q ∧
          s'.dev.faultq q.ctx = { q with head := q.head + 1, dies := q.dies.drop 1 }) ∧
      (s.ctxEntry x = none → exec (.ctxkill a) s = .next s.goesOn ∧ exec (.ctxrel a) s = .next s.goesOn) ∧
      (s.ctxEntry x ≠ none → exec (.ctxrel a) s = .next (s.releaseContext x).goesOn ∧
        Leads (.ctxkill a) s fun s' => (x ≠ t.ctx → s'.wentOn) ∧ (x = t.ctx → s'.flow = .ended) ∧
          ∀ n, (s'.core n).cctx x = none ∧ ∀ p ∈ (s'.core n).tasks, p.2.ctx ≠ x))

/-- The bank has received a task of the record for which a task left the core (R350). -/
def TakenFor (s s' : State) (n : CoreId) (b : Fin 4) : Prop :=
  ∃ v ∈ s.dev.promised, v.1 = n ∧ ∃ t', s'.bank n b = some t' ∧ t'.ctx = v.2.ctx ∧ t'.job = v.2.job

/-- `ctxsw` and `ctxsw.rel` (R350, R431, R435, R443): outside the handler of a pre-emption they take the bounds-violation trap, as does
`ctxsw.rel` in a context that does not own the unit or before `mdrain.u`; they wait while an access of the context is under way; and then
the task has left its core, switched out: its bank is free, or has received the record for which the task left, or holds it frozen at its
return point with H = 0. What it waits for, and that the wait has no edge in the table, are the model's readings (log entries 45, 12). -/
def switchForms : Prop :=
  ∀ (s : State) (t : Task) (rel : Bool) (i : Instr), s.live = some t → i = (if rel then .ctxswRel else .ctxsw) →
    let c := s.core s.cur
    let frozen := t.ctl.cause.getLsbD 63 = true ∧ t.ctl.cause.toNat / 2 ^ 40 % 2 ^ 16 = 0x0801
    (¬ frozen → exec i s = .next (s.traps t 0x09 0 t.ctl.cause)) ∧
    (frozen → rel = true → c.mx.owner ≠ some t.ctx → exec i s = .next (s.traps t 0x09 0 c.mx.ownWord)) ∧
    (frozen → rel = true → c.mx.owner = some t.ctx → t.drainedU = false → exec i s = .next (s.traps t 0x09 0 t.ctl.cause)) ∧
    (frozen → (rel = true → c.mx.owner = some t.ctx ∧ t.drainedU = true) →
      (s.saveReady s.cur c.cbank t rel = false → ∃ w : Wait, w.edge = false ∧ exec i s = .next (s.registerWait t w)) ∧
      (s.saveReady s.cur c.cbank t rel = true → t.stuck = false → Leads i s fun s' => s'.flow = .ended ∧
        (s'.bank s.cur c.cbank = none ∨ TakenFor s s' s.cur c.cbank ∨ ∃ t', s'.bank s.cur c.cbank = some t' ∧ t'.hold = .switched ∧ t'.regs = t.regs ∧
          t'.ctl.cause.getLsbD 63 = false ∧ t'.pc.toNat = t.ctl.tpc.toNat / 16 % 2 ^ 52 * 16 ∧ t'.slot.val = t.ctl.tpc.toNat % 4)))

/-- The context instructions and the switch (R431, R435, R438, R443 to R446). -/
def Obligations.ContextInstructions : Prop := contextForms ∧ switchForms

/-! ## The microsequencer -/

/-- The word of the running call ends with the call as `k`, no word in progress, and nothing else of the machine changed. -/
def RunsTo (i : Instr) (s : State) (k : Call) : Prop :=
  exec i s = .next (s.modUnit s.cur fun u => { u with running := some { k with word := none } })

/-- Each micro-word of a running call does to its registers what R266 gives, or stops the call with the code of R269, and nothing else: the
lowest code that applies. `ustat` also sets the bits in the status word that the task keeps of the call. Which of several codes is taken is
the model's reading (log entries 57, 58). -/
def Obligations.MicroWords : Prop :=
  ∀ (s : State) (k : Call) (o : MicroOp), s.unit.running = some k → k.word = some o →
    let stops (c : Fin 64) : Prop := RunsTo o.instr s { k with fault := some c }
    let branch (n : Fin 4) (lc : BitVec 32) (taken : Bool) (target : Nat) : Prop :=
      if taken = true ∧ target < 256 then stops 3
      else RunsTo o.instr s { k with lc := k.lc.set n lc, nextPc := if taken then some target else none }
    match o with
    | .unop => RunsTo o.instr s k
    | .uldi x i => RunsTo o.instr s { k with a := k.a.set x i }
    | .uldm x m h p g =>
      let v := k.m[m].toNat
      RunsTo o.instr s { k with a := k.a.set x (BitVec.ofNat 32 (if g.val = 0 then v / 2 ^ (if h then 32 else 0) % 2 ^ 32
        else v / 2 ^ p.val % 2 ^ g.val)) }
    | .uadd x y i => RunsTo o.instr s { k with a := k.a.set x (k.a[y] + i.signExtend 32) }
    | .ulc n y => RunsTo o.instr s { k with lc := k.lc.set n k.a[y] }
    | .ubr c n y t =>
      match c with
      | 0 => branch n k.lc[n] true t.val
      | 1 => branch n (k.lc[n] - 1) (k.lc[n] - 1 != 0) t.val
      | 2 => branch n k.lc[n] (k.a[y] == 0) t.val
      | 3 => branch n k.lc[n] (k.a[y] != 0) t.val
    | .uwin y => if 3 < k.a[y].toNat then stops 0x0C else RunsTo o.instr s { k with curWin := k.a[y].toNat }
    | .uspl y => if 8 < k.a[y].toNat then stops 0x0C else RunsTo o.instr s { k with curSplit := k.a[y].toNat }
    | .ucal x y z =>
      let f := k.a[y].toNat
      let l := k.a[z].toNat
      let some_ (p : Fin 64 → Bool) : Prop := ∃ m : Fin 64, f ≤ m.val ∧ m.val ≤ l ∧ p m = true
      if f ≤ l ∧ (f < k.m[7].toNat / 2 ^ 26 % 64 ∨ k.m[7].toNat / 2 ^ 20 % 64 < l) then stops 4
      else ∃ v : BitVec 32, RunsTo o.instr s { k with a := k.a.set x v } ∧ v.toNat < 16 ∧
        (v.getLsbD 0 = true ↔ some_ fun m => (s.unit.macros[m]).stale) ∧ (v.getLsbD 1 = true ↔ some_ fun m => (s.unit.macros[m]).uncal) ∧
        (v.getLsbD 2 = true ↔ some_ fun m => (s.unit.macros[m]).busy) ∧ (v.getLsbD 3 = true ↔ some_ fun m => !k.modes.getLsbD m.val)
    | .ustat x i =>
      ∀ b t r, s.bank s.cur b = some t → t.tid = k.tid → t.statusOf k.handle = some r →
        Leads o.instr s fun s' => ∃ k' t' r', s'.unit.running = some k' ∧ s'.bank s.cur b = some t' ∧ t'.statusOf k.handle = some r' ∧
          r'.status = r.status ||| (i.setWidth 64 <<< 32) ∧
          ((∀ c, c ≠ b → ∀ u, s.bank s.cur c = some u → u.tid ≠ k.tid) →
            k' = { k with a := k.a.set x ((r'.status >>> 32).setWidth 32), word := none })
    | _ => True

/-- The slot of a feed: `n` driven rows with the activations `f`, zero beyond them, and one exponent for every group (R267). -/
def FedSlot (x : USlot) (n : Nat) (f : Nat → Byte) (e : Byte) : Prop :=
  x.driven = n ∧ x.acts.length = 256 ∧ (∀ j < 256, x.acts.getD j 0 = if j < n then f j else 0) ∧ x.exps = List.replicate 8 e

/-- A micro-word with IND = 1 takes its setting from a register; without, it is as it stands (R266, R267, R268). -/
def resolved (k : Call) : MicroOp → MicroOp
  | .ufeed _ y z q _ true w =>
    .ufeed (Fin.ofNat 8 (k.a[w].toNat / 16 % 8)) y z q (Fin.ofNat 16 (k.a[w].toNat % 16)) false w
  | .upass x y z _ _ _ _ true w =>
    let v := k.a[w].toNat
    .upass x y z (Fin.ofNat 64 (v % 64)) (Fin.ofNat 4 (v / 64 % 4)) (decide (v / 256 % 2 = 1)) (decide (v / 512 % 2 = 1)) false w
  | .uout x y z _ _ true w =>
    let v := k.a[w].toNat
    .uout x y z (Fin.ofNat 16 (v % 16)) (decide (v / 16 % 2 = 1)) false w
  | o => o

/-- The call's snapshot says that its activations are INT4 (R267, R270). -/
def narrow (k : Call) : Bool := k.m[7].getLsbD 19

/-- Rows `f … f + n − 1` lie in the call's accumulator footprint (R272). -/
def rowsOk (k : Call) (f n : Nat) : Prop :=
  k.m[7].getLsbD 4 = true ∧ k.m[7].toNat / 2 ^ 12 % 128 ≤ f ∧ f + n ≤ k.m[7].toNat / 2 ^ 5 % 128 + 1

/-- The word stops its call with a code of R269. -/
def StopsWith (o : MicroOp) (s : State) (k : Call) (c : Fin 64) : Prop := RunsTo o.instr s { k with fault := some c }

/-- The word fills slot `i`, and changes nothing else of its call; `P` holds of the state that follows. -/
def Feeds (o : MicroOp) (s : State) (k : Call) (i : Fin 8) (n : Nat) (f : Nat → Byte) (e : Byte) (P : State → Prop) : Prop :=
  Leads o.instr s fun s' => P s' ∧ ∃ k' : Call, s'.unit.running = some k' ∧ FedSlot k'.x[i] n f e ∧
    { k' with x := k.x } = { k with word := none } ∧ ∀ j : Fin 8, j ≠ i → k'.x[j] = k.x[j]

/-- A byte held to the range of INT4 when the call's activations are INT4 (R267). -/
def heldTo4 (k : Call) (b : Byte) : Byte := if narrow k then BitVec.ofInt 8 (Max.max (-8) (Min.min 7 b.toInt)) else b

/-- Activation `j` of the next feed row of a replay, in a loft at a partition base (R224): element `j % LEN` of segment `j / LEN`. -/
def mangerElem (k : Call) (loft : Mem) (base : Nat) (r : Replay) (j : Nat) : Byte :=
  let n := nestOf r.nest
  let v := (r.o[Fin.ofNat 8 (j / n.len)]).toNat
  let i0 : Int := (r.row % (n.c0 + 1) : Nat)
  let i1 : Int := (r.row / (n.c0 + 1) % (n.c1 + 1) : Nat)
  let i2 : Int := (r.row / ((n.c0 + 1) * (n.c1 + 1)) : Nat)
  let p := (v % 2 ^ 22 : Nat) + i0 * intOf true 14 (v / 2 ^ 22 % 2 ^ 14) + i1 * intOf true 14 (v / 2 ^ 36 % 2 ^ 14)
    + i2 * intOf true 14 (v / 2 ^ 50 % 2 ^ 14)
  let e := j % n.len
  let byte (x : Nat) : Byte := loft.get (base + p.toNat + x)
  if n.w4 then BitVec.ofInt 8 (intOf true 4 ((byte (e / 2)).toNat / 16 ^ (e % 2) % 16)) else heldTo4 k (byte e)

/-- `ufeed` (R224, R228, R267 to R269, R272, R273, R496). From a tile, the slot receives the row, held to INT4 where the call says so; from the
loft, the bytes or nibbles from its granule on; from the manger, the next row of the oldest replay, which then moves on, leaves the queue and
gives up its entry with its last row, and zeros with UNDER when no replay is armed. It stops the call outside TRD or the tile (0x06), outside
the footprint (0x07), on a tile that is not i8 (0x09), and once the operands are consumed (0x0D). That the lowest code is taken where several
apply is the model's reading (log entry 57). -/
def feedWords : Prop :=
  ∀ (s : State) (k : Call) (o : MicroOp), s.unit.running = some k → k.word = some o →
    let stops := StopsWith o s k
    let c := s.core s.cur
    let owner := c.tasks.find? (fun p => p.2.tid == k.tid)
    let agent (w : SbOwner) : Agent := ⟨s.cur, k.ctx, k.tid, 0, w⟩
    match resolved k o with
    | .ufeed i y z q tile false _ =>
      let e : Byte := k.a[z].setWidth 8
      (q = 3 → stops 1) ∧
      (q = 0 →
        let row := k.a[y].toNat
        let trd := k.m[7].getLsbD (32 + tile.val)
        (trd = false ∨ shapeOf k.tdim[tile] = none → stops 6) ∧
        ∀ x, shapeOf k.tdim[tile] = some x → (x.rows ≤ row → stops 6) ∧
          (trd = true → row < x.rows → (x.et ≠ 1 → stops 9) ∧ (x.et = 1 → k.consumed = true → stops 0x0D) ∧
            ∀ p, x.et = 1 → k.consumed = false → owner = some p →
              Feeds o s k i (Min.min x.cols 256) (fun j => heldTo4 k (BitVec.ofNat 8 (tileElem p.2.regs.v x row j))) e fun _ => True)) ∧
      (q = 1 → (k.consumed = true → stops 0x0D) ∧
        ∀ p, k.consumed = false → owner = some p →
          (p.2.replays = [] → Feeds o s k i 0 (fun _ => 0) 0 fun s' => ∃ t', s'.bank s.cur p.1 = some t' ∧ t'.replays = [] ∧
            ∀ r, p.2.statusOf k.handle = some r → ∃ r', t'.statusOf k.handle = some r' ∧ r'.status = r.status ||| 0x0040000000000000) ∧
          ∀ r rs r1, p.2.replays = r :: rs → nestOk r.nest = true →
            (granules (feedSpans r)).foldlM (fun s g => s.loftReady (agent (.replay p.2.tid r.serial)) false false g) s = .ok r1 →
            let n := nestOf r.nest
            let last : Bool := n.rows ≤ r.row + 1
            Feeds o s k i n.k (mangerElem k (r1.core s.cur).loft (r1.agentCtx (agent (.replay p.2.tid r.serial))).base r)
              (BitVec.ofNat 8 n.aexp) fun s' => ∃ t', s'.bank s.cur p.1 = some t' ∧
                t'.replays = (if last then rs else { r with row := r.row + 1 } :: rs) ∧
                ∀ x, x ∈ (s'.core s.cur).sb ↔ x ∈ (r1.core s.cur).sb ∧ (last = true → x.owner ≠ .replay p.2.tid r.serial)) ∧
      (q = 2 →
        let n := if narrow k then 2 else 4
        let g := k.a[y].toNat
        let outside : Prop := k.m[7].getLsbD 3 = false ∨ g < k.m[6].toNat % 2 ^ 16 ∨ k.m[6].toNat / 2 ^ 16 % 2 ^ 16 < g + (n - 1)
        (outside → stops 7) ∧ (¬ outside → k.consumed = true → stops 0x0D) ∧
        ∀ r, ¬ outside → k.consumed = false →
          ((List.range n).map (g + ·)).foldlM (fun s g => s.loftReady (agent (.call k.tid k.handle)) false false g) s = .ok r →
          let byte (j : Nat) : Byte := (r.core s.cur).loft.get ((r.agentCtx (agent (.call k.tid k.handle))).base + g * 64 + j)
          Feeds o s k i 256 (fun j => if narrow k then BitVec.ofInt 8 (intOf true 4 ((byte (j / 2)).toNat / 16 ^ (j % 2) % 16)) else byte j) e
            fun _ => True)
    | _ => True

/-- `uzero` (R266, R269): a count of 0 does nothing; rows outside the footprint stop the call with 0x05; otherwise, once no older entry holds the
accumulators, the values and the bounds of the rows become +0 and nothing else of the unit changes. -/
def zeroWords : Prop :=
  ∀ (s : State) (k : Call) (o : MicroOp), s.unit.running = some k → k.word = some o →
    let u := s.unit
    match o with
    | .uzero x y =>
      let f := k.a[x].toNat
      let n := k.a[y].toNat
      (n = 0 → RunsTo o.instr s k) ∧ (n ≠ 0 → ¬ rowsOk k f n → StopsWith o s k 5) ∧
      (n ≠ 0 → rowsOk k f n → s.callHeld k .sums = true → exec o.instr s = .next s) ∧
      (n ≠ 0 → rowsOk k f n → s.callHeld k .sums = false → Leads o.instr s fun s' =>
        s'.unit.running = some { k with word := none, bnd0 := some (k.bnd0.getD u.bnd), trace := k.trace ++ [.zero f n] } ∧
        (∀ j, s'.unit.acc.get j = if f * 2048 ≤ j ∧ j < (f + n) * 2048 then 0 else u.acc.get j) ∧
        (∀ j, s'.unit.bnd.get j = if f * 1024 ≤ j ∧ j < (f + n) * 1024 then 0 else u.bnd.get j) ∧
        s'.unit.array = u.array ∧ s'.unit.macros = u.macros)
    | _ => True

/-- `upass` (R251, R268, R269, R273, R496): outside the macro or the accumulator footprint, on a wrong shape, and after the operands are consumed
the call stops, with the lowest code that applies (log entry 57); while a macro is BUSY or an older entry holds what it touches the word waits;
otherwise the pass completes and writes its own columns of its row alone. The bounds of elements that earlier passes of the call wrote may
widen with it (R238, R239, R248). Where no macro of the pass is in compute mode, a value is 0 with SET and stays without it (the model's
reading; log entry 62), and the bounds become +∞. -/
def passWords : Prop :=
  ∀ (s : State) (k : Call) (o : MicroOp), s.unit.running = some k → k.word = some o →
    let stops := StopsWith o s k
    let u := s.unit
    match resolved k o with
    | .upass x y z nm fan set _ false _ =>
      let k0 := k.a[x].toNat
      let row := k.a[y].toNat
      let col := k.a[z].toNat
      let n := nm.val + 1
      let ow := (u.macros[Fin.ofNat 64 k0]).outputs
      let ms := (List.range n).map fun i => (Fin.ofNat 64 (k0 + i) : Fin 64)
      let inMacros : Prop := k.m[7].toNat / 2 ^ 26 % 64 ≤ k0 ∧ k0 + nm.val ≤ k.m[7].toNat / 2 ^ 20 % 64
      let shaped : Prop := n % 2 ^ fan.val = 0 ∧ (∀ m ∈ ms, (u.macros[m]).outputs = ow) ∧ col + n / 2 ^ fan.val * ow ≤ 512
      let lo := row * 512 + col
      let hi := lo + n / 2 ^ fan.val * ow
      let free : Prop := (∀ m ∈ ms, (u.macros[m]).busy = false) ∧ s.callHeld k .array = false ∧ s.callHeld k .sums = false
      (¬ inMacros → stops 4) ∧ (inMacros → ¬ rowsOk k row 1 → stops 5) ∧ (inMacros → rowsOk k row 1 → ¬ shaped → stops 8) ∧
      (inMacros → rowsOk k row 1 → shaped → k.consumed = true → stops 0x0D) ∧
      (inMacros → rowsOk k row 1 → shaped → k.consumed = false → ¬ free → exec o.instr s = .next s) ∧
      (inMacros → rowsOk k row 1 → shaped → k.consumed = false → free → Leads o.instr s fun s' => ∃ k' : Call,
        s'.unit.running = some k' ∧ k'.word = none ∧ k'.fault = k.fault ∧ k'.a = k.a ∧ k'.x = k.x ∧
        s'.unit.array = u.array ∧ s'.unit.macros = u.macros ∧
        (∀ j, j < lo * 4 ∨ hi * 4 ≤ j → s'.unit.acc.get j = u.acc.get j) ∧
        (k.trace = [] ∨ (∀ m ∈ ms, k.modes.getLsbD m.val = false) →
          ∀ j, j < lo * 2 ∨ hi * 2 ≤ j → s'.unit.bnd.get j = u.bnd.get j) ∧
        ((∀ m ∈ ms, k.modes.getLsbD m.val = false) → ∀ j, lo ≤ j → j < hi →
          s'.unit.acc.num (j * 4) 4 = (if set then 0 else u.acc.num (j * 4) 4) ∧ s'.unit.bnd.num (j * 2) 2 = FFmt.bf16.infBits))
    | _ => True

/-- `uout` (R266, R269, R496): outside the footprint, TWR or the tile, on columns beyond 511 and on a tile of another type the call stops, with the
lowest code that applies (log entry 57); while an older entry holds the accumulators the word waits; otherwise the tile's row receives the
values, or the bounds, converted with RNE, and nothing else of the task changes. -/
def outWords : Prop :=
  ∀ (s : State) (k : Call) (o : MicroOp), s.unit.running = some k → k.word = some o →
    let stops := StopsWith o s k
    let u := s.unit
    match resolved k o with
    | .uout x y z tile bound false _ =>
      let row := k.a[x].toNat
      let trow := k.a[y].toNat
      let col := k.a[z].toNat
      let twr := k.m[7].getLsbD (48 + tile.val)
      (¬ rowsOk k row 1 → stops 5) ∧ (rowsOk k row 1 → shapeOf k.tdim[tile] = none → stops 6) ∧
      ∀ t, rowsOk k row 1 → shapeOf k.tdim[tile] = some t →
        (twr = false ∨ t.rows ≤ trow → stops 6) ∧
        (twr = true → trow < t.rows → (512 < col + t.cols → stops 8) ∧
          (col + t.cols ≤ 512 → (t.et = 0 ∨ 13 < t.et) → stops 9) ∧
          (col + t.cols ≤ 512 → 1 ≤ t.et → t.et ≤ 13 → s.callHeld k .sums = true → exec o.instr s = .next s) ∧
          (col + t.cols ≤ 512 → 1 ≤ t.et → t.et ≤ 13 → s.callHeld k .sums = false →
            ∀ b p, s.bank s.cur b = some p → p.tid = k.tid → Leads o.instr s fun s' => ∃ p', s'.unit.running = some { k with word := none } ∧
              s'.bank s.cur b = some p' ∧ p'.regs.s = p.regs.s ∧
              (∀ q < t.cols, tileElem p'.regs.v t trow q =
                (if bound then convElem (.flt .bf16) (elemTy t.et) .rne (u.bnd.num (row * 1024 + (col + q) * 2) 2)
                  else convElem (.flt .f32) (elemTy t.et) .rne (u.acc.num (row * 2048 + (col + q) * 4) 4)).1) ∧
              ∀ z, z < t.at trow 0 ∨ t.at trow 0 + t.cols * t.w ≤ z → p'.regs.v.get z = p.regs.v.get z))
    | _ => True

/-- The micro-words that touch storage: what each writes when it completes, and the codes with which each stops its call (R266 to R269,
R272, R273, R496). -/
def Obligations.MicroStorageWords : Prop := feedWords ∧ zeroWords ∧ passWords ∧ outWords

/-- The weight of row `r` and output `o` of a macro: its W cells as a two's-complement number (R232). -/
def cellWeight (x : Drive) (r o : Nat) : Int :=
  intOf true x.st.w ((List.range x.st.w).map fun i => if x.cell r (x.col o i) then 2 ^ i else 0).sum

/-- The activation of row `r`; a row that is not driven carries 0 (R234). -/
def rowActivation (x : Drive) (r : Nat) : Int :=
  if r < x.slot.driven then intOf true x.width (x.slot.acts.getD r 0).toNat else 0

/-- With the split at the weight width every weight bit is summed by the digital tree, and the partial sum of a unit of rows is the exact
dot product of its activations and weights (R235, R240). -/
def Obligations.DigitalPartialSumsAreExact : Prop :=
  ∀ (x : Drive) (u o : Nat), x.analog = 0 → (x.width = 4 ∨ x.width = 8) →
    x.partial_ u o = ((List.range x.rows).map fun i => rowActivation x (u * x.rows + i) * cellWeight x (u * x.rows + i) o).sum

/-! ## What the device does by itself -/

/-- The matrix unit by itself (R245, R246, R259, R274, R279). An idle unit starts the oldest call of the bank served next, or completes it
with code 0x0B when its entry is invalid; the next member of an `mtacc` is added row by row, values and bounds, or ends it with SRCH and the
member's index when it cannot be pulled; the last ends it, with INF when a bound is +∞;
held calibrations start, and one in progress ends, with offsets of -16 to 15 or as a failure; a step of AGE and a temperature re-evaluate
every macro they concern. What a failed calibration keeps is the model's reading (log entry 95). -/
def unitEvents : Prop :=
  ∀ (s : State), let n := s.on.core
    let c := s.core n
    let i : Fin 64 := Fin.ofNat 64 s.on.index
    let checked (tnow : BitVec 16) (x : MacroSt) : MacroSt :=
      let d := (tnow.toInt - x.tcal.toInt).natAbs
      { x with stale := x.stale || !(!x.fail && d ≤ 128 && x.age < 0x100000), uncal := x.uncal || (640 < d || x.age == 0xFFFFFF) }
    (∀ b t k, c.mx.running = none → c.mx.frozen = false → c.callBank = some b → c.banks[b] = some t → t.calls.head? = some k → k.pc = 0 →
      (∀ p, routineStart (c.mx.word k.idx.val) = some p → Leads .callStart s fun s' =>
        (s'.core n).mx.running = some { k with pc := p, curSplit := k.split, curWin := k.win } ∧ (s'.core n).mx.lastBank = b ∧
        s'.bank n b = some { t with calls := t.calls.drop 1 }) ∧
      (routineStart (c.mx.word k.idx.val) = none → ∀ r, k.tid = t.tid → t.statusOf k.handle = some r → Leads .callStart s fun s' =>
        (s'.core n).mx.running = none ∧ ∃ t' r', s'.bank n b = some t' ∧ t'.statusOf k.handle = some r' ∧ t'.calls = t.calls.drop 1 ∧
          r'.status = r.status ||| 0xCB00000000000000)) ∧
    (∀ op j m rest, c.mx.mtaccs[s.on.index]? = some op → s.dev.phase.getLsbD 0 = true → op.todo = (j, m) :: rest →
      (∀ p ∈ [accSpan op.first op.last, bndSpan op.first op.last], ∀ e ∈ c.olderThan (.call op.tid op.handle), e.meets p.1 p.2.1 p.2.2 = false) →
      let ends (v : W64) (s' : State) : Prop := (s'.core n).mx.mtaccs.length + 1 = c.mx.mtaccs.length ∧
        ∀ b t r, s.bank n b = some t → t.tid = op.tid → t.statusOf op.handle = some r → ∃ t' r', s'.bank n b = some t' ∧
          t'.statusOf op.handle = some r' ∧ r'.status = r.status ||| v ||| 0x8000000000000000
      let infBit (x : Bool) : W64 := if x then 0x0001000000000000 else 0
      (s.memberGone op j m = true → Leads .mtaccMember s fun s' => (s'.core n).mx.mtaccs = c.mx.mtaccs.erase op ∧
        (s'.core n).mx.acc = c.mx.acc ∧ (s'.core n).mx.bnd = c.mx.bnd ∧
        ends (0x0000400000000000 ||| (BitVec.ofNat 64 (j % 16) <<< 42) ||| infBit op.inf) s') ∧
      (s.memberGone op j m = false → op.first ≤ op.last →
        (∀ p ∈ [accSpan op.first op.last, bndSpan op.first op.last], ∀ e ∈ (s.core m).conflicts p.1 p.2.1 p.2.2 false, e.write = false) →
        Leads .mtaccMember s fun s' =>
          let inf : Bool := op.inf || (List.range (op.last + 1)).any fun row => (List.range 512).any fun col => decide (op.first ≤ row ∧
            (s'.core n).mx.bnd.num (row * 1024 + col * 2) 2 = FFmt.bf16.infBits)
          (rest ≠ [] → (s'.core n).mx.mtaccs = c.mx.mtaccs.map fun o => if o = op then { op with todo := rest, inf := inf } else o) ∧
          (rest = [] → ends (infBit inf) s') ∧
          ∀ row col, col < 512 →
            let v := c.mx.acc.num (row * 2048 + col * 4) 4
            let b := c.mx.bnd.num (row * 1024 + col * 2) 2
            let sum := (f32Add v ((s.core m).mx.acc.num (row * 2048 + col * 4) 4)).1
            let both := ((FFmt.bf16.value b).add (FFmt.bf16.value ((s.core m).mx.bnd.num (row * 1024 + col * 2) 2)) .rne).1
            let here := op.first ≤ row ∧ row ≤ op.last
            (s'.core n).mx.acc.num (row * 2048 + col * 4) 4 = (if here then sum else v) ∧
            (s'.core n).mx.bnd.num (row * 1024 + col * 2) 2 =
              if here then (if (FFmt.f32.value sum).isFin then boundF both .bf16 else FFmt.bf16.infBits) else b)) ∧
    (Leads .calibrationStart s fun s' => ∀ j : Fin 64, (s'.core n).mx.macros[j] = heldStarts c.mx.running j c.mx.macros[j]) ∧
    (c.mx.macros[i].busy = true → Leads .calibrationEnd s fun s' =>
      (∀ j : Fin 64, j ≠ i → (s'.core n).mx.macros[j] = c.mx.macros[j]) ∧
      let x := (s'.core n).mx.macros[i]
      x.busy = false ∧ x.tcal = c.tnow ∧ x.age = 0 ∧
      (x.fail = true → x.uncal = true ∧ (s'.core n).mx.offs = c.mx.offs) ∧
      (x.fail = false → x.uncal = false ∧ x.stale = false ∧
        ∀ col < 512, -16 ≤ (s'.core n).mx.off i col ∧ (s'.core n).mx.off i col ≤ 15)) ∧
    (Leads .ageStep s fun s' => ∀ (m : CoreId) (j : Fin 64), (s'.core m).mx.macros[j] =
      checked (s.core m).tnow { (s.core m).mx.macros[j] with age :=
        if (s.core m).mx.macros[j].age < 0xFFFFFF then (s.core m).mx.macros[j].age + 1 else (s.core m).mx.macros[j].age }) ∧
    (let t : BitVec 16 := s.on.value.setWidth 16
     Leads .temperatureSample s fun s' => if 1840 ≤ t.toInt ∧ s.dev.power = .running then s'.dev.power = .failed ∨ s'.dev.power = .minimal
      else s'.dev.power = s.dev.power ∧ ∀ m : CoreId, if dieOf m = dieOf n then (s'.core m).tnow = t ∧
          ∀ j : Fin 64, (s'.core m).mx.macros[j] = checked t (s.core m).mx.macros[j]
        else s'.core m = s.core m)

/-- Power and errors (R63, R438, R489, R491, R493, R494): the power-limit events set and end the throttle and nothing else; a device that
does not run starts, one start more counted, and either runs in phase 0 with no failures counted, or has failed; a corrected error counts
for the bank that its address lies in (R64), which is to be retired at the 256th; a parity mismatch stays with its row; and an uncorrectable
error destroys its context, of which nothing is left on any core, and is logged on the management port. That start-up is one step, and the report of a trip, are the model's (log entries 55, 56). -/
def powerEvents : Prop :=
  ∀ (s : State), let n := s.on.core
    let i : Fin 64 := Fin.ofNat 64 s.on.index
    let row := s.on.index2 % 256
    exec .powerLimitExceeded s = .next (s.modDev fun d => { d with overPower := true }) ∧
    exec .modulePowerWithinLimit s = .next (s.modDev fun d => { d with overPower := false }) ∧
    (s.dev.power ≠ .running → Leads .powerOn s fun s' => s'.dev.flash.starts = Min.min (s.dev.flash.starts + 1) (2 ^ 32 - 1) ∧
      (if s'.dev.power = .running then s'.dev.phase = 0 ∧ s'.dev.flash.fails = 0 ∧ (∃ m : CoreId, (s'.core m).avail = true)
        else s'.dev.flash.fails = s.dev.flash.fails + 1 ∧ s'.dev.power = if 3 ≤ s.dev.flash.fails + 1 then .minimal else .failed)) ∧
    (∀ m o p, s.on.flag = true → placeOf s.on.addr.toNat = .dram m o → (s.core m).bankPlace o = some p →
      let b : Fin 32 := Fin.ofNat 32 p.bank
      let x := s.core m
      Leads .uncorrectableError s fun s' => (s'.core m).corrected[b] = x.corrected[b] + 1 ∧
        (∀ j : Fin 32, j ≠ b → (s'.core m).corrected[j] = x.corrected[j]) ∧ s'.dev = s.dev ∧
        ∀ j < 32, (s'.core m).pend.getLsbD j = (x.pend.getLsbD j ||
          (decide (j = b.val ∧ 256 ≤ x.corrected[b] + 1) && x.live.getLsbD j))) ∧
    (s.on.flag = false → s.on.engine = true → Leads .uncorrectableError s fun s' => s'.dev = s.dev ∧
      (∀ j < 256, (s'.core n).mx.macros[i].parity.getLsbD j = (decide (j = row) || (s.core n).mx.macros[i].parity.getLsbD j)) ∧
      ∀ z, z < i.val * 0x4000 + row * 64 ∨ i.val * 0x4000 + row * 64 + 64 ≤ z → (s'.core n).mx.array.get z = (s.core n).mx.array.get z) ∧
    (s.on.flag = false → s.on.engine = false → s.holdsContext s.on.ctx = true → Leads .uncorrectableError s fun s' =>
      s'.dev.log = s.dev.log ++ [s.on.ctx] ∧ s'.outbox = s.outbox ++ [.log s.on.ctx] ∧ (∀ j ∈ s'.dev.jobs, j.2.ctx ≠ s.on.ctx) ∧
      ∀ m, (s'.core m).cctx s.on.ctx = none ∧ (∀ p ∈ (s'.core m).tasks, p.2.ctx ≠ s.on.ctx) ∧
        ∀ (p : Fin 8) r, r ∈ (s'.core m).lanes[p] → r.ctx ≠ s.on.ctx)

/-- The matrix unit, power and errors by themselves. -/
def Obligations.UnitAndPowerEvents : Prop := unitEvents ∧ powerEvents

/-- A phase closes: the counter advances by one, ELAP restarts, and an arrived task whose target is reached proceeds (R321 to R325). The
expiry of a budget holds the participating tasks of its context over, and in an exchange cancels the context's transfers (R329, R331); a
truncation that was requested freezes every unit and holds every participating task over (R332). Until its condition holds, each does
nothing. Which transfers keep an exchange open in detail is the model's reading (log entry 40). -/
def Obligations.PhaseEvents : Prop :=
  ∀ (s : State), let n := s.on.core
    let x := s.on.ctx
    let exchange : Prop := s.dev.phase.getLsbD 0 = true
    let idle : Prop := ∀ p ∈ s.tasks, p.2.2.participates = false
    let closes (i : Instr) (P : State → Prop) : Prop := Leads i s fun s' => s'.dev.phase = s.dev.phase + 1 ∧ s'.dev.phaseStart = s.dev.now ∧
      P s' ∧ ∀ (m : CoreId) b t, s.bank m b = some t → t.ctl.arr = true → t.ctl.tgt.toNat ≤ (s.dev.phase + 1).toNat →
        ∃ t', s'.bank m b = some t' ∧ t'.ctl.arr = false ∧ t'.regs = t.regs ∧ t'.pc = t.pc
    let straggles (i : Instr) (P : State → Prop) : Prop := Leads i s fun s' => P s' ∧ ∀ b t, s.bank n b = some t → t.ctx = x →
      t.participates = true → ∃ t', s'.bank n b = some t' ∧ t'.hold = .heldOver ∧ t'.ctl.strg = true ∧ t'.ctl.trn = false ∧
        t'.regs = t.regs ∧ t'.pc = t.pc
    let expired : Prop := ∃ k, (s.core n).cctx x = some k ∧
      Max.max (if s.dev.phase.getLsbD 0 then k.sbudget.toNat / 2 ^ 32 % 2 ^ 31 else k.sbudget.toNat % 2 ^ 32) 4096 ≤ s.elap
    (s.dev.power = .running → ¬ exchange → 64 ≤ s.dev.now - s.dev.phaseStart → idle → (s.tasks ≠ [] ∨ s.transfersLive = true) →
      s.dev.trunc = false → closes .computeClose fun s' => ∀ m, (s'.core m).steals = 0) ∧
    (¬ idle ∨ exchange ∨ s.dev.now - s.dev.phaseStart < 64 → exec .computeClose s = .next s) ∧
    (s.dev.power = .running → exchange → 64 ≤ s.dev.now - s.dev.phaseStart → idle → s.transfersLive = false → s.dev.net = [] →
      s.dev.trunc = false → closes .exchangeClose fun s' => s'.dev.cancelled = [] ∧
        ∀ (m : CoreId) b t, s.bank m b = some t → t.hold = .heldOver → ∃ t', s'.bank m b = some t' ∧ t'.hold = .none) ∧
    (¬ idle ∨ ¬ exchange ∨ s.transfersLive = true ∨ s.dev.net ≠ [] → exec .exchangeClose s = .next s) ∧
    (¬ exchange → expired → straggles .computeBudgetExpiry fun s' => s'.dev.phase = s.dev.phase) ∧
    (exchange → expired → straggles .exchangeBudgetExpiry fun s' => x ∈ s'.dev.cancelled ∧ s'.dev.phase = s.dev.phase) ∧
    (¬ expired → exec .computeBudgetExpiry s = .next s ∧ exec .exchangeBudgetExpiry s = .next s) ∧
    (s.dev.trunc = true → ¬ exchange → s.dev.victims = [] → Leads .truncation s fun s' => s'.dev.trunc = false ∧
      (∀ m, (s'.core m).mx = { (s.core m).mx with frozen := true }) ∧
      ∀ (m : CoreId) b t, s.bank m b = some t → s'.bank m b =
        if t.participates then some { t with hold := .heldOver, cut := true, ctl := { t.ctl with trn := true } } else some t) ∧
    (s.dev.trunc = false ∨ exchange → exec .truncation s = .next s)

/-- Placement (R342, R345, R351, R352): the dispatcher of a core takes the first candidate it can. A task record leaves its lane and becomes a
task of a free bank, at its code, with s3 and s63 as it says and every other register zero; a team record begins to reserve cores of its
die; a grid record takes an entry of the grid table. A complete reservation starts all its members, in the order of their cores. -/
def Obligations.PlacementEvents : Prop :=
  ∀ (s : State), let n := s.on.core
    let c := s.core n
    let later : Option W64 := if s.dev.phase.getLsbD 0 then some (s.dev.phase + 1) else if s.dev.truncated then some (s.dev.phase + 2) else none
    (s.dev.power = .running → s.endGrid n = none → (∀ r ∈ s.dev.reserving, n ∉ r.2.cores) → s.joinReserve n = none →
      (∀ v ∈ s.dev.promised, v.1 ≠ n) → s.restoreFirst n = false →
      (c.freeBank = none → exec .dispatch s = .next s) ∧
      ∀ b, c.freeBank = some b →
        (∀ r, (s.candidates n).find? (s.takable n) = some (.task r) → Leads .dispatch s fun s' => ∃ t, s'.bank n b = some t ∧
          c.banks[b] = none ∧ t.ctx = r.ctx ∧ t.job = r.job ∧ t.pc.toNat = r.code.toNat / 16 % 2 ^ 52 * 16 ∧ t.slot = 0 ∧
          t.ctl.base = r.pri ∧ t.ctl.eff = r.pri ∧ (∀ z, t.getS z = if z = 3 then r.frame else if z = 63 then r.tp else 0) ∧
          t.startPhase = later ∧
          (s'.core n).lanes[r.pri] = c.lanes[r.pri].erase r) ∧
        (∀ r g j, (s.candidates n).find? (s.takable n) = some (.team r g j) → Leads .dispatch s fun s' => ∃ v : Reserve,
          s'.dev.reserving = s.dev.reserving ++ [(dieOf n, v)] ∧ v.rcd = r ∧ v.core = n ∧ v.grid = g ∧ v.gidx = j ∧ v.cores.head? = some n ∧
          v.cores.length ≤ r.tsz.val + 1 ∧ ∀ m ∈ v.cores, dieOf m = dieOf n ∧ (m = n ∨ s.canPlace m r.ctx r.mx = true)) ∧
        (∀ r, (s.candidates n).find? (s.takable n) = some (.grid r) → Leads .dispatch s fun s' => ∃ j g,
          s'.dev.grids = s.dev.grids ++ [(j, g)] ∧ g.rcd = r ∧ g.next = 0 ∧ g.running = 0 ∧ g.count.toNat = r.gcount ∧
          (s'.core n).lanes[r.pri] = c.lanes[r.pri].erase r) ∧
        (∀ j g, (s.candidates n).find? (s.takable n) = some (.index j g) → Leads .dispatch s fun s' => ∃ t, s'.bank n b = some t ∧
          t.ctx = g.team.ctx ∧ t.startPhase = later ∧ t.grid = some j ∧ t.gidx = BitVec.ofNat 24 g.next ∧ t.pc.toNat = g.rcd.code.toNat / 16 % 2 ^ 52 * 16 ∧
          s'.dev.grids = s.dev.grids.map fun e => if e.1 = j then (j, { e.2 with next := e.2.next + 1, running := e.2.running + 1 }) else e)) ∧
    ∀ r, s.dev.reserving.find? (fun r => r.1 == dieOf n && r.2.cores.length == r.2.rcd.tsz.val + 1) = some r → r.2.cores.Nodup →
      (∀ m ∈ r.2.cores, s.canPlace m r.2.rcd.ctx r.2.rcd.mx = true) →
      Leads .teamStart s fun s' => s'.dev.reserving = s.dev.reserving.erase r ∧ ∃ team, ∃ cores : List CoreId, cores.Perm r.2.cores ∧
        cores.Pairwise (fun a b => a.val < b.val) ∧ ∀ k m, cores[k]? = some m → ∃ b t, (s.core m).banks[b] = none ∧ s'.bank m b = some t ∧
          t.member.val = k ∧ t.team = team ∧ t.paddock = cores ∧ t.ctx = r.2.rcd.ctx ∧ t.grid = r.2.grid ∧
          t.startPhase = some (if s.dev.phase.getLsbD 0 then s.dev.phase + 1 else s.dev.phase + 2)

/-- What happens around tasks that stand (R52, R350, R354, R374, R377, R389, R429 to R435): a bundle is decoded whole or traps; EFF follows
from the bases and the edges; a waiting task's core retests; an idle core asks another for work and is given the first record that it can
place; a record that waited too long asks for a truncation; a frozen task is switched out; and a switched task is restored. That a restore
is made from the model's data, in the lowest slots, at any turn of a compute phase is the model's choice (log entries 46, 47, 49). -/
def Obligations.TaskEvents : Prop :=
  ∀ (s : State), let n := s.on.core
    let c := s.core n
    let s1 : State := { s with cur := n }
    (∀ t pa, s1.live = some t → t.participates = true → t.image = 0 → t.waiting = none → t.pending = none →
      t.posts = [] → t.invalidating = [] → t.bundle = none → t.ctl.bkpt.getLsbD 0 = false → c.fetchOf t.tid (t.pc.toNat / 64 * 64) = none → s.codeAt n (s1.cctx t).asn t.pc.toNat = some pa →
      let bun := BitVec.ofNat 128 (s.dev.dram.num pa 16)
      (∀ l, decodeBundle bun = .ok l → Leads .bundleDecode s fun s' => s'.bank n c.cbank =
        some { t with bundle := some bun, skipBkpt := false, slot := firstSlot l t.slot }) ∧
      (∀ e i, decodeBundle bun = .error (e, i) → (s1.cctx t).tvec.getLsbD 63 = true → t.ctl.cause.getLsbD 63 = false →
        Leads .bundleDecode s fun s' => ∃ t', s'.bank n c.cbank = some t' ∧ t'.ctl.cause.getLsbD 63 = true ∧
          t'.ctl.cause.toNat / 2 ^ 48 % 256 = (match e with | .reservedMajor => 2 | _ => 1) ∧ t'.ctl.cause.toNat / 2 ^ 32 % 4 = i % 4 ∧
          t'.ctl.tpc.toNat = t.pc.toNat / 16 * 16)) ∧
    ((s.everyTask.map fun p => p.2.tid).Nodup →
      (s.dev.wf = [] → Leads .effRecompute s fun s' => ∀ (m : CoreId) b t, s.bank m b = some t →
        s'.bank m b = some { t with ctl := { t.ctl with eff := t.ctl.base } }) ∧
      (∀ e h w, s.dev.wf = [e] → e.record = false → e.okind = 0x03 → e.owner = .task h → e.tid = w → w ≠ h →
        Leads .effRecompute s fun s' => ∀ (m m2 : CoreId) b b2 t u, s.bank m b = some t → s.bank m2 b2 = some u → t.tid = h → t.ctx = e.ctx →
          u.tid = w → u.ctx = e.ctx → s'.bank m b = some { t with ctl := { t.ctl with eff := Max.max t.ctl.base u.ctl.base } } ∧
            s'.bank m2 b2 = some { u with ctl := { u.ctl with eff := u.ctl.base } })) ∧
    ((∃ p ∈ c.tasks, p.2.untethered = true ∧ p.2.waiting.isSome = true) →
      exec .untetheredRetest s = .next { s with turns := .core n :: s.turns }) ∧
    ((∃ p ∈ c.tasks, ∃ w, p.2.waiting = some w ∧ w.okind = 0x04) →
      exec .monitorNotify s = .next { s with turns := .core n :: s.turns }) ∧
    (s.dev.phase.getLsbD 0 = true → c.avail = true → c.freeBank ≠ none → (∀ r ∈ s.dev.reserving, n ∉ r.2.cores) → c.stealing = none → c.steals < 8 →
      (∀ q ∈ s.candidates n, s.takable n q = false ∧ ∀ r, q = .task r → r.stolen = true → s.canPlace n r.ctx r.mx = false) → Leads .stealRequest s fun s' =>
        (∀ v, (s'.core n).stealing = some v → v ≠ n ∧ (s.core v).avail = true ∧ (s'.core n).steals = c.steals + 1) ∧
        ((s'.core n).stealing = none → (s'.core n).steals = c.steals)) ∧
    (∀ v, s.dev.phase.getLsbD 0 = true → (∀ r ∈ s.dev.reserving, n ∉ r.2.cores) → c.stealing = some v → v ≠ n → Leads .stealAnswer s fun s' => (s'.core n).stealing = none ∧
      match (if c.queueFull then none else s.stolen n v) with
      | some r => (s'.core n).lanes[r.pri] = { r with stolen := true, entered := s.dev.now } :: c.lanes[r.pri] ∧
          (s'.core v).lanes[r.pri] = (s.core v).lanes[r.pri].erase r ∧ s.canPlace n r.ctx r.mx = true
      | none => (s'.core n).lanes = c.lanes ∧ (s'.core v).lanes = (s.core v).lanes) ∧
    (∀ r, c.freeBank = none → (n, r) ∉ s.dev.victims ++ s.dev.promised → (s.heads n).head? = some r →
      (let p := (s.ctxField r.ctx 2).toNat / 2 ^ 32 % 2 ^ 32; p ≠ 0 ∧ p < s.dev.now - r.entered) → c.slotSpare n = true →
      (∃ p ∈ c.tasks, p.2.ctx ≠ r.ctx ∧ p.2.ctl.eff.val < s.aged r ∧ ∀ m ∈ p.2.paddock, (s.core m).slotSpare m = true) →
      exec .preemptionRequest s = .next (s.modDev fun d => { d with trunc := true, victims := d.victims ++ [(n, r)] })) ∧
    (∀ t, s.bank n s.on.bank = some t → t.hold = .handler → s.saveReady n s.on.bank t t.drainedU = true →
      ((s.ctxOn n t.ctx).tvec.getLsbD 63 = false ∨ t.startPhase = none ∨ t.stuck = true) → Leads .deviceCtxsw s fun s' =>
        s'.bank n s.on.bank = none ∨ TakenFor s s' n s.on.bank ∨ ∃ t', s'.bank n s.on.bank = some t' ∧ t'.hold = .switched ∧ t'.regs = t.regs ∧
          (t.stuck = true → t'.ctl = t.ctl ∧ t'.pc = t.pc) ∧ (t.stuck = false → t.preempted = true → t'.ctl.cause.getLsbD 63 = false ∧
            t'.pc.toNat = t.ctl.tpc.toNat / 16 % 2 ^ 52 * 16) ∧ (t.stuck = false → t.preempted = false → t'.ctl = t.ctl ∧ t'.pc = t.pc)) ∧
    (∀ b t, s.dev.phase.getLsbD 0 = false → s.bank n b = some t → t.hold = .switched → s.restorable t = true → c.saved = [] →
      (∀ p ∈ c.tasks, p.2.hold = .switched ∨ p.2.tid = t.tid → p.1 = b) →
      (∀ p ∈ s.everyTask, p.2.team = t.team → p.2.job = t.job → p.2.hold = .switched → p = (n, t)) → s.everyTask.Nodup →
      Leads .contextRestore s fun s' => ∃ t', s'.bank n b = some t' ∧
        (t.stuck = true ∨ (s.ctxOn n t.ctx).tvec.getLsbD 63 = false → t'.hold = (if t.stuck then .unhandled else .none) ∧ t'.thaws = true ∧
          t'.pc = t.pc ∧ t'.slot = t.slot ∧ t'.regs = t.regs) ∧
        (t.stuck = false → (s.ctxOn n t.ctx).tvec.getLsbD 63 = true → t.ctl.cause.getLsbD 63 = false → t'.hold = .none ∧
          t'.ctl.cause.getLsbD 63 = true ∧ t'.ctl.cause.toNat / 2 ^ 40 % 2 ^ 16 = 0x0802 ∧
          t'.ctl.tpc.toNat = t.pc.toNat / 16 * 16 + t.slot.val))

/-- What the bytes of an element-wise copy's unit `u` become at its destination (R93, R98, R99, R101): the element read at its source address, or FILL
outside the extents, or zero under a clamp, converted with RNE; a block goes as it stands. -/
def unitBytes (s : State) (j : Job1) (u : Nat) : List Byte :=
  let fill := if j.src.ef = 0 then fillBlock j.src else leBytes j.src.unit (fillElem j.src)
  let bs := match j.srcAt u with
    | none => fill
    | some a => if outsideClamp j.src a then zeroBytes j.src.unit else (s.core j.agent.core).loft.read (j.ctx.base + a.toNat) j.src.unit
  if j.src.ef = 0 then bs else leBytes j.dst.unit (convElem (elemTy j.src.ef) (elemTy j.dst.ef) .rne (leNat bs)).1
where
  /-- The unit lies outside the bounds of a buffer side with BCM = clamp. -/
  outsideClamp (x : Side) (a : Int) : Bool :=
    decide (x.bcm = 2 ∧ x.layout = false ∧ ¬ ((x.base : Int) ≤ a ∧ a + x.unit ≤ (x.base : Int) + x.bext))

/-- What a granule delivery writes (R93, R99, R100, R101): an element-wise copy within its core's loft, with no region over it, moves on by at least
one unit, and the units it passes hold their converted bytes, each where no later one of them was written over it; the rest of the loft, but
for the 16 bytes of the command's own barrier, is as it was. -/
def granuleBytes : Prop :=
  ∀ (s r : State) (n : CoreId) (uid : Nat) (k : Cmd), (s.core n).cmd uid = some k → s.deliverUnit n uid = .ok r →
    let j := s.jobOf n k
    let w := j.dst.unit
    let off (a : Int) : Nat := j.ctx.base + a.toNat
    let bar := j.ctx.base + (barrierAt n k.barrier).2
    let clear (z : Nat) : Prop := k.barrier = 0 ∨ (barrierAt n k.barrier).1 ≠ n ∨ z < bar ∨ bar + 16 ≤ z
    let dropped (a : Int) : Prop := unitBytes.outsideClamp j.dst a = true
    j.plain = true → j.src.space = 1 → j.dst.space = 1 → (∀ g, j.ctx.regionOf g = none) → ((s.core n).cctx k.ctx).isSome = true →
    k.pos < j.walk.total → ∃ k', (r.core n).cmd uid = some k' ∧ k.pos < k'.pos ∧
      (∀ u a, k.pos ≤ u → u < k'.pos → j.dstAt u = some a → ¬ dropped a →
        (∀ v b, u < v → v < k'.pos → j.dstAt v = some b → b + w ≤ a ∨ a + w ≤ b) →
        ∀ i < w, clear (off a + i) → (r.core n).loft.get (off a + i) = (unitBytes s j u).getD i 0) ∧
      ∀ z, clear z → (∀ u a, k.pos ≤ u → u < k'.pos → j.dstAt u = some a → ¬ dropped a → z < off a ∨ off a + w ≤ z) →
        (r.core n).loft.get z = (s.core n).loft.get z

/-- The memory system (R77, R80, R83, R84, R169, R299 to R312): with no wait edge in the table, a walk that finds its entry fills the TLBs
and is over; a fill, a write-back, a fetch and a completion stamp whose address translates perform and are gone; a packet performs at its
home and leaves the network; a reduction is applied once; a remote access keeps its result; two reductions merge into one. That one
conversion unit of a command is in flight at a time is the model's choice (log entry 10). -/
def memorySteps : Prop :=
  ∀ (s : State), let n := s.on.core
    let c := s.core n
    let idx := s.on.index
    let x (k : Cmd) : CoreCtx := (c.cctx k.ctx).getD (.missing k.ctx)
    let gone (s' : State) (k : Cmd) : Prop := ∀ m ∈ (s'.core n).mapCmds, m.uid ≠ k.uid
    let plain (cells : List (Nat × Byte)) (pa : Nat) : Mem := s.dev.dram.put (cells.map fun q => (pa + q.1, q.2))
    (∀ w ws, s.dev.invs = [] → rotateBy s.dev.activeWalks idx = w :: ws →
      (∀ e sz, s.lookup w.asn (w.vpage * 4096) = .entry e sz → Leads .pageWalk s fun s' =>
        (w.die, tlbOf e sz w.asn (w.vpage * 4096)) ∈ s'.dev.tlb2 ∧ w ∉ s'.dev.walks ∧
        (dieOf w.core = w.die → tlbOf e sz w.asn (w.vpage * 4096) ∈ (s'.core w.core).tlb)) ∧
      (s.lookup w.asn (w.vpage * 4096) = .miss → Leads .pageWalk s fun s' => s'.dev.walks = s.dev.walks.erase w ∧ s'.dev.tlb2 = s.dev.tlb2)) ∧
    (s.dev.wf = [] →
      (∀ k ks pa, c.syncs = [] → c.mapActive .fill idx = k :: ks → s.resolve (k.agent n) 0 (recordBase k.src) false = .ok pa →
        k.imaged = false → (ownSlice n pa = true ∨ s.dev.phase.getLsbD 0 = true) → s.physMeets k.ctx (x k).sup false pa 64 = .ok →
        (x k).isResident k.gran = false → Leads .regionFill s fun s' => gone s' k ∧
          (s'.core n).loft.read ((x k).base + k.gran * 64) 64 = s.physRead k.ctx pa 64 ∧
          ∀ y, (s'.core n).cctx k.ctx = some y → y.isResident k.gran = true) ∧
      (∀ k ks pa, c.syncs = [] → c.mapActive .writeBack idx = k :: ks → k.imaged = false → k.inflight = 0 → k.pos = 0 →
        c.holdsWriteBack k ((x k).base / 64 + k.gran) = false → s.resolve (k.agent n) 0 (recordBase k.dst) true = .ok pa →
        ownSlice n pa = true → s.physMeets k.ctx (x k).sup true pa 64 = .ok → (∀ y ∈ c.ctxs, c.departed y.ctx = false) →
        Leads .writeBack s fun s' => gone s' k ∧
          s'.dev.dram = plain ((List.range 64).zip (c.loft.read ((x k).base + k.gran * 64) 64)) pa ∧
          ∀ y, (s'.core n).cctx k.ctx = some y → y.dirty.get k.gran = 0) ∧
      (∀ k ks pa e, c.mapActive .fetch idx = k :: ks → k.imaged = false → let va := recordBase k.src
        (va < 0x00F000000000 ∨ 0x00F200000000 ≤ va) → s.resolve (k.agent n) 0 va false = .ok pa →
        (c.tlb.find? (·.covers (s.asnOf n k.ctx) va) = some e ∨
          (c.tlb.find? (·.covers (s.asnOf n k.ctx) va) = none ∧
            s.dev.tlb2.find? (fun p => p.1 == dieOf n && p.2.covers (s.asnOf n k.ctx) va) = some (dieOf n, e))) →
        Leads .instructionFetch s fun s' => gone s' k ∧ e ∈ (s'.core n).tlb) ∧
      (∀ k ks pa, c.mapActive .stamp idx = k :: ks → (∀ m ∈ c.mapCmds, m.uid = k.uid → m = k) → k.inflight = 0 → k.stampSent = false → k.stamped = true →
        k.ctx ∉ s.dev.cancelled → s.dev.phase.getLsbD 0 = true → k.stampAddr.toNat % 8 = 0 → s.resolve (k.agent n) 0 k.stampAddr.toNat true = .ok pa →
        s.physMeets k.ctx (s.supOf n k.ctx) true pa 8 = .ok → ownSlice n pa = true → Leads .jobCompletionStamp s fun s' => gone s' k ∧
          s'.dev.dram = plain ((List.range 8).zip (leBytes 8 k.stampVal.toNat)) pa ∧
          ∀ j, j ∈ s'.dev.jobs ↔ j ∈ s.dev.jobs ∧ j.1 ≠ k.job)) ∧
    (∀ t k, s.bank n s.on.bank = some t → t.hold ≠ .switched → t.promotable s.on.engine = some k →
      (k.check (x k) = none → exec .commandActivate s =
        .next (s.modBank n s.on.bank fun t => t.modEng s.on.engine fun g => g.promote k)) ∧
      (∀ w, k.check (x k) = some w →
        Leads .commandActivate s fun s' => ∃ k', (s'.core n).cmd k.uid = some k' ∧ k'.status = .faulted ∧ k'.cause = w)) ∧
    (let turn := (s.choose 64).1
     let s1 := (s.choose 64).2
     ∀ u us k, c.mapActive .image turn = [] → c.served s.on.engine turn = u :: us → c.cmd u = some k → k.inflight = 0 → k.status = .active →
      let total := if k.kind = .signal then 0 else (walkerOf (sideOf k.sl k.src) (sideOf k.dl k.dst)).total
      let choice : Bool := (s1.jobOf n k).plain && decide (k.pos + 1 < total)
      let ahead := if choice then (s1.choose (total - k.pos)).1 else 0
      let s2 := if choice then (s1.choose (total - k.pos)).2 else s1
      let early := s2.deliverAhead n k (k.pos + ahead)
      let left : Prop := k.pos < total ∨ k.weights ≠ []
      (∀ r, ahead ≠ 0 → early = some r → exec .granuleDeliver s = .next r) ∧
      (ahead = 0 ∨ early = none →
        (∀ r, k.stampSent = false → left → (k.owed = [] ∨ ((barrierAt n k.barrier).1 ≠ n ∧ s.dev.phase.getLsbD 0 = false)) →
          (∀ e ∈ k.early, e.1 ≠ k.pos) → s2.deliverUnit n k.uid = .ok r → exec .granuleDeliver s = .next r) ∧
        (∀ r, k.stampSent = false → k.owed ≠ [] → ((barrierAt n k.barrier).1 = n ∨ s.dev.phase.getLsbD 0 = true ∨ ¬ left) →
          s2.arriveOwed n k.uid = .ok r → exec .granuleDeliver s = .next r) ∧
        (∀ e, k.stampSent = false → left → k.owed = [] → k.early.find? (·.1 == k.pos) = some e →
          exec .granuleDeliver s = .next (s2.countEarly n k.uid e)) ∧
        (k.stampSent = true ∨ (k.owed = [] ∧ ¬ left ∧ k.stamped = false) → Leads .granuleDeliver s fun s' =>
          (s'.core n).cmd k.uid = none ∧ ∀ e ∈ (s'.core n).sb, e.owner ≠ .cmd k.uid))) ∧
    (∀ p, s.ready (fun p => !p.red && p.sync.isNone && p.toWindow) = some p → s.packetMeets p = .ok → p.group = none → p.ids = [] →
      Leads .windowAccess s fun s' => s'.dev.net = s.dev.net.erase p ∧ ((s.core p.core).cmd p.uid = none → ∀ m o a, placeOf p.addr = .window m o →
        (partOf o = some (.loft, a) → (s'.core m).loft = ((s.core m).windowLoft p.ctx a p.cells p.tags).loft) ∧
        (partOf o = some (.acc, a) → (s'.core m).mx.acc = (s.core m).mx.acc.put (p.cells.map fun q => (a + q.1, q.2))))) ∧
    (∀ p, s.ready (fun p => !p.red && p.sync.isNone && !p.toWindow) = some p → p.group = none →
      (s.packetMeets p = .ok → Leads .sliceAccess s fun s' => s'.dev.net = s.dev.net.erase p ∧ s'.dev.dram = plain p.cells p.addr) ∧
      (∀ w k, s.packetMeets p = .fail w → p.ids = [] → (s.core p.core).cmd p.uid = some k → k.ahead = none → Leads .sliceAccess s fun s' => ∃ k',
        (s'.core p.core).cmd p.uid = some k' ∧ k'.status = .faulted ∧ k'.cause = w)) ∧
    (∀ p m o, s.ready (·.red) = some p → p.group = none → s.packetMeets p = .ok → placeOf p.addr = .dram m o →
      (∀ pb, p.beyond = some pb → ∃ m o, placeOf pb = .dram m o) →
      let old := s.dev.dram.read p.addr 64 ++ (match p.beyond with | some pb => s.dev.dram.read pb 64 | none => [])
      let cells := splitCells (redCells p.op p.ty.val old p.parts).1
      let keys := p.ids.map fun i => (dieOf m, i.2)
      ((∀ q ∈ keys, q ∈ s.dev.applied) → Leads .reductionApply s fun s' => s'.dev.net = s.dev.net.erase p ∧ s'.dev.dram = s.dev.dram) ∧
      ((∃ q ∈ keys, q ∉ s.dev.applied) → s.dev.filterUsed (dieOf m) + keys.length ≤ 8192 →
        Leads .reductionApply s fun s' => s'.dev.net = s.dev.net.erase p ∧
          s'.dev.applied = s.dev.applied ++ (p.ids.filter fun i => ((s.core i.1).cmd i.2.1).isSome).map (fun i => (dieOf m, i.2)) ∧
          s'.dev.dram = (match p.beyond with
            | some pb => (plain cells.1 p.addr).put (cells.2.map fun q => (pb + q.1, q.2))
            | none => plain cells.1 p.addr))) ∧
    (∀ p r q, s.ready (·.sync.isSome) = some p → p.sync = some r → (∀ a ∈ s.dev.kept, a.1 ≠ r.uid) → q ∈ s.everyTask → q.2.tid = p.tid →
      s.physMeets p.ctx (s.supOf p.core p.ctx) r.op.writes r.addr r.size = .ok →
      (∀ m o, r.op = .add → r.wide = true → placeOf r.addr = .dram m o → r.joint = false → Leads .remoteAtomic s fun s' =>
        let old := s.dev.dram.num r.addr 8
        s'.dev.net = s.dev.net.erase p ∧ s'.dev.dram.num r.addr 8 = (old + r.arg.toNat) % 2 ^ 64 ∧
        s'.dev.kept = if r.posted then s.dev.kept else s.dev.kept ++ (r.uid, .done (BitVec.ofNat 64 old) []) ::
          p.riders.map (fun q => (q.2.1, SyncReply.done (BitVec.ofNat 64 (old + q.2.2.toNat)) []))) ∧
      (r.joint = true → r.posted = false → p.riders = [] → Leads .remoteAtomic s fun s' => s'.dev.net = s.dev.net.erase p ∧
        s'.dev.kept = s.dev.kept ++ [(r.uid, .here)] ∧ s'.dev.dram = s.dev.dram)) ∧
    ∀ p q, s.on.flag = false → s.dev.net[idx]? = some p → s.dev.net[s.on.index2]? = some q → idx < s.on.index2 → p.meets q = true →
      p.resent = false → q.resent = false → p.red = true → q.red = true → p.ctx = q.ctx → p.beyond = q.beyond →
      p.addr = q.addr → p.op = q.op → p.ty = q.ty → p.ids.length + q.ids.length ≤ 8 → Leads .routerMerge s fun s' =>
        s'.dev.net.length + 1 = s.dev.net.length ∧ ∃ m ∈ s'.dev.net, m.ids = p.ids ++ q.ids ∧ m.addr = p.addr ∧ m.core = p.core ∧
          m.parts = mergeParts p.op p.ty.val p.parts q.parts

/-- The memory system, with the bytes that a granule delivery of an element-wise copy writes (R77, R80, R83, R84, R93, R99 to R101, R299 to R312).
What the granule order leaves open is an open choice of the model's, one unit being in flight at a time (log entries 10, 6). -/
def Obligations.MemoryEvents : Prop := memorySteps ∧ granuleBytes

/-! ## The ports -/

/-- Requests of a host (R456 to R460, R463). On a running device, a request that the pair does not serve is refused as invalid and one
outside the window as an access error; in an exchange phase, with nothing of its pair held before it, a write, a read and a send whose bytes
are all reached perform and are answered, and a launch packet is admitted or refused by the checks of R357 in any phase; a request that must
wait is held, or put off when the port holds 64 KiB. That a remote access error leaves its pair ready, what a port holds, and how far the
expected PSN advances are the model's readings (log entries 75 to 77, 81). -/
def hostRequests : Prop :=
  ∀ (s : State), s.dev.power = .running → s.on.flag = false →
    let q := s.pair
    let x := s.qpCtx q
    let bs := s.on.data
    let nak (i : Instr) (c : Nat) : Prop := exec i s = .next { s with outbox := s.outbox ++ [.nak q.val c] }
    let ready : Prop := s.dev.phase.getLsbD 0 = true ∧ s.qpServes q false = true ∧ s.qpPort q < 2 ∧ ∀ r ∈ s.dev.held, r.q ≠ q
    let reached (w : Bool) (a n : Nat) (ps : List (Nat × Nat)) : Prop := s.reach x w (runParts a n) = ⟨ps, true, false⟩
    let keyed : Prop := s.on.key = (s.qpWord q 1).setWidth 32
    let psn : BitVec 24 := s.on.value.setWidth 24
    let taken (r : State) (n : Nat) : State := r.setPsn q true (psn + BitVec.ofNat 24 (r.packets q n))
    (s.qpServes q false = false → (s.on.key ≠ 0 → nak .rdmaWrite 1) ∧ nak .rdmaRead 1 ∧ (bs.length ≤ 4032 → nak .send 1) ∧
      nak .invalidRequest 1) ∧
    (s.qpServes q false = true → ¬ keyed → (s.on.key ≠ 0 → nak .rdmaWrite 2) ∧ nak .rdmaRead 2) ∧
    (ready → keyed → (s.on.key ≠ 0 → s.inWindow q s.on.addr bs.length true = none → nak .rdmaWrite 2) ∧
      (s.inWindow q s.on.addr s.on.index false = none → nak .rdmaRead 2) ∧
      (∀ a ps, s.on.key ≠ 0 → s.inWindow q s.on.addr bs.length true = some a → reached true a bs.length ps →
        exec .rdmaWrite s = .next (taken ((s.portWrite x ps bs).emit (.ack q.val)) bs.length)) ∧
      (∀ a ps, s.inWindow q s.on.addr s.on.index false = some a → reached false a s.on.index ps →
        exec .rdmaRead s = .next (taken ((s.portRead x ps).2.emit (.readData q.val (ps.flatMap fun p => s.physRead x p.1 p.2))) s.on.index))) ∧
    (s.dev.phase.getLsbD 0 = false → s.qpServes q false = true → keyed → s.on.key ≠ 0 →
      (heldBytes s.dev.held (s.qpPort q) + bs.length ≤ 65536 → Leads .rdmaWrite s fun s' => s'.outbox = s.outbox ∧ ∃ r : HostReq,
        s'.dev.held = s.dev.held ++ [r] ∧ r.op = .write ∧ r.q = q ∧ r.addr = s.on.addr ∧ r.data = bs) ∧
      (65536 < heldBytes s.dev.held (s.qpPort q) + bs.length → nak .rdmaWrite 0)) ∧
    (let slot := s.qpRing q + s.qpSize q * 64 + (s.qp q).recv % s.qpSize q * 4096
     let words := leBytes 8 (2 ^ 56 + bs.length) ++ leBytes 8 psn.toNat ++ zeroBytes 48
     ready → bs.length ≤ 4032 → ∀ pa n ps, reached true slot 4096 ((pa, n) :: ps) →
      (leNat (s.physRead x pa n |>.take 8) / 2 ^ 56 ≠ 0 → nak .send 0) ∧
      (leNat (s.physRead x pa n |>.take 8) / 2 ^ 56 = 0 → exec .send s =
        .next (taken ((((s.portWrite x (s.reach x true (runParts (slot + 64) bs.length)).parts bs).portWrite x [(pa, n)] words).modQp q
          fun k => { k with recv := k.recv + 1 }).emit (.ack q.val)) bs.length))) ∧
    (4032 < bs.length → s.qpServes q false = true → exec .send s = .next ((s.refuse q 1).qpError q)) ∧
    (s.qpServes q false = true → exec .invalidRequest s = .next ((s.refuse q 1).qpError q)) ∧
    (s.qpServes q false = true → s.qpPort q < 2 → bs.length = 64 → s.on.addr.toNat % 64 = 0 → s.on.addr.toNat < 8192 →
      (∀ r ∈ s.dev.held, r.q = q → r.op = .launch ∨ r.op = .read) → ∀ s1 w, s.packetArrives (Fin.ofNat 128 (s.on.addr.toNat / 64)) false q.val bs = (s1, w) →
        exec .launchPacket s = .next (match w with | none => taken (s1.emit (.ack q.val)) 64 | some c => s1.answerLaunch q c)) ∧
    exec .ceMarkedPacket s = .next (s.emit (.cnp q.val)) ∧
    (Leads .cnp s fun s' => s'.qp q = { s.qp q with halved := (s.qp q).halved + 1 } ∧ ∀ p, p ≠ q → s'.qp p = s.qp p) ∧
    (Leads .rateRecovery s fun s' => s'.qp q = { s.qp q with halved := (s.qp q).halved - 1 } ∧ ∀ p, p ≠ q → s'.qp p = s.qp p)

/-- The send ring (R461 to R463, R465), in an exchange phase of a running device, for a pair that is ready: a doorbell whose count lies in
the ring is the new producer count, and another puts the pair in the error state; a valid request is sent part by part, as requests to the
host, which use up PSNs, or as frames to a peer, each with its R_Key, OPA and ring index; an invalid one ends with 0x83; and the end of a
request writes its status and moves the consumer count. One request at a time, the statuses of malformed ones, and how far PSNs advance are
the model's readings (log entries 78 to 81). -/
def sendRing : Prop :=
  ∀ (s : State), let q := s.pair
    let x := s.qpCtx q
    s.dev.power = .running → s.dev.phase.getLsbD 0 = true → s.qpValid q = true → s.qpSt q = 1 →
    (∀ pa, s.portPa x (s.qpWord q 5).toNat false = some pa →
      let v : BitVec 32 := BitVec.ofNat 32 (leNat (s.physRead x pa 8))
      if s.qpSize q < (v - s.qpCons q).toNat then exec .doorbell s = .next (s.qpError q)
      else exec .doorbell s = .next (s.modQp q fun k => { k with producer := some v })) ∧
    (∀ r, (s.qp q).taken = none → s.workReq q = some r →
      let k := s.qp q
      let at_ := (r.loc + k.pos)
      let asks (a : W64) (bs : List Byte) : Sent := .request q.val
        { op := r.op, opa := r.opa, addr := a, key := r.key, ring := (s.qpCons q).toNat % s.qpSize q, bytes := bs,
          psn := if s.qpPeer q then 0 else (s.qpWord q 9).setWidth 24 }
      let sent (n : Nat) (s' : State) : Prop := (s'.qp q).pos = k.pos + n ∧
        (s'.qp q).taken = (if r.len ≤ k.pos + n then some 0 else none)
      (r.ok (s.qpPeer q) = false → ∀ i ∈ ([.workRequestWrite, .workRequestRead, .workRequestSend, .peerWrite, .peerReduce, .peerLaunch] : List Instr),
        exec i s = .next (s.endsWith q 0x83)) ∧
      (r.ok (s.qpPeer q) = true →
        (∀ i op, (i = Instr.workRequestWrite ∧ op = 0x01 ∨ i = Instr.workRequestSend ∧ op = 0x03) → r.op = op →
          let n := Min.min (s.qpMtu q) (r.len - k.pos)
          ∀ ps, s.reach x false (runParts at_ n) = ⟨ps, true, false⟩ → Leads i s fun s' => sent n s' ∧ s'.qpPsn q false = s.qpPsn q false + 1 ∧ s'.outbox = s.outbox ++
            [asks (r.remote + BitVec.ofNat 64 k.pos) (ps.flatMap fun p => s.physRead x p.1 p.2)]) ∧
        (r.op = 0x02 → s.on.flag = false → k.asked = false → exec .workRequestRead s = .next
          (((s.emit (asks r.remote (leBytes 4 r.len))).setPsn q false (s.qpPsn q false + BitVec.ofNat 24 (s.packets q r.len))).modQp q
            fun k => { k with asked := true })) ∧
        (r.op = 0x02 → s.on.flag = false → k.asked = true → exec .workRequestRead s = .next s) ∧
        (r.op = 0x02 → s.on.flag = true →
          let n := Min.min s.on.data.length (r.len - k.pos)
          ∀ ps, s.reach x true (runParts at_ n) = ⟨ps, true, false⟩ →
            exec .workRequestRead s = .next ((s.portWrite x ps s.on.data).progress q r n)) ∧
        (∀ i op, (i = Instr.peerWrite ∧ op = 0x11 ∨ i = Instr.peerReduce ∧ op = 0x12 ∨ i = Instr.peerLaunch ∧ op = 0x13) → r.op = op →
          let p := linkOf (s.qpPort q)
          let l := s.dev.links[p]
          let n := Min.min (256 - (r.remote.toNat + k.pos) % 64) (r.len - k.pos)
          (l.down = true → exec i s = .next (s.endsWith q 0x85)) ∧
          ∀ ps, l.down = false → l.replay.length < 1024 → s.reach x false (runParts at_ n) = ⟨ps, true, false⟩ → Leads i s fun s' =>
            sent n s' ∧ (s'.qp q).last = some l.sendSeq ∧ s'.dev.links[p].sendSeq = l.sendSeq + 1 ∧
            ∃ f, s'.dev.links[p].replay = l.replay ++ [(l.sendSeq, f)] ∧ s'.outbox = s.outbox ++
              [asks (BitVec.ofNat 64 (r.remote.toNat + k.pos)) (ps.flatMap fun p => s.physRead x p.1 p.2), .frame p.val f]))) ∧
    (∀ st, s.qpIdle q = false → s.endStatus q = some st → Leads .workRequestEnd s fun s' => s'.qpCons q = s.qpCons q + 1 ∧
      (s'.qp q).pos = 0 ∧ (s'.qp q).taken = none ∧ (s'.qp q).asked = false ∧ (st ≠ 0x01 → s'.qpSt q = 2) ∧
      ∀ pa m o r, s.portPa x (s.reqVa q) true = some pa → placeOf pa = .dram m o → s.workReq q = some r → r.stamp = 0 →
        (pa + 7 < s.qpAt q ∨ s.qpAt q + 128 ≤ pa + 7) → s'.dev.dram.get (pa + 7) = st)

/-- Queue pairs: what a host asks, and what a send ring asks (R456 to R463). -/
def Obligations.QueuePairPorts : Prop := hostRequests ∧ sendRing

/-- Frames of a link that is up (R464, R465): a data frame in sequence is taken and acknowledged, its request admitted or refused; out of
sequence, or corrupt, it is answered by a replay request; every frame acknowledges what it names; a replay request has every frame that is
kept sent again, and after eight failures takes the link down. What a port does without room or with a link lost is the model's reading (log
entries 82, 83, 85). -/
def linkFrames : Prop :=
  ∀ (s : State), let p := s.link
    let l := s.dev.links[p]
    s.dev.power = .running → l.down = false →
    (frameHead s.on.data = none → exec .corruptFrame s = .next (s.sendControl p 2)) ∧
    ∀ h, frameHead s.on.data = some h →
      let type := h.toNat / 2 ^ 60
      let r := s.peerReq p h
      let l1 := l.acked (BitVec.ofNat 16 (h.toNat / 2 ^ 28 % 65536))
      let s1 := s.modLink p fun _ => l1
      (4 ≤ type → exec .corruptFrame s = .next (s.sendControl p 2)) ∧
      (type = 3 → exec .idleFrame s = .next s1) ∧
      (type = 1 → s.on.flag = false → exec .acknowledgementFrame s = .next s1) ∧
      (type = 0 → BitVec.ofNat 16 (h.toNat / 2 ^ 44 % 65536) ≠ l.expect → exec .dataFrame s = .next (s1.sendControl p 2)) ∧
      (type = 0 → BitVec.ofNat 16 (h.toNat / 2 ^ 44 % 65536) = l.expect → s.qpServes r.q true = false → Leads .dataFrame s fun s' =>
        s'.dev.links[p].expect = l.expect + 1 ∧ ∃ f, s'.outbox = s.outbox ++ [.nak r.q.val 1, .frame p.val f]) ∧
      (∀ s2, type = 0 → BitVec.ofNat 16 (h.toNat / 2 ^ 44 % 65536) = l.expect → s1.qpServes r.q true = true → s1.qpPort r.q = p.val →
        (s1.qpWord r.q 8).setWidth 16 = r.smod → r.op ≠ .launch → s1.arriveReq r = (s2, true) →
        exec .dataFrame s = .next ((s2.modLink p fun l => { l with expect := l.expect + 1 }).sendControl p 1)) ∧
      (type = 2 → l1.replay = [] → exec .replayRequest s = .next s1) ∧
      (type = 2 → l1.replay ≠ [] → l1.fails < 8 → Leads .replayRequest s fun s' => s'.dev.links[p] = { l1 with fails := l1.fails + 1 } ∧
        s'.outbox = s.outbox ++ l1.replay.map fun e => .frame p.val e.2) ∧
      (type = 2 → l1.replay ≠ [] → 8 ≤ l1.fails → Leads .replayRequest s fun s' => s'.dev.links[p] = { l1 with down := true, replay := [] } ∧
        s'.outbox = s.outbox)

/-- The management protocol (R466, R467, R484, R488, R492): a datagram that is malformed or whose tag is wrong is dropped and counted; the
last accepted request is answered again as it was; one in sequence is answered, and performs; `HELLO` needs no tag. What a stopped device
answers, the statuses of arguments out of range, that a running device answers `RETRY_START` with an open one, and that `HELLO` moves no number
are the model's readings (log entries 86 to 89). -/
def managementRequests : Prop :=
  ∀ (s : State), s.dev.power ≠ .off →
    let m := s.dev.mgmt
    let drop : State := s.modDev fun d => { d with mgmt := { m with refused := sat32 m.refused } }
    let ops : List (Instr × Nat) := [(.readStartUpReport, 1), (.retryStart, 2), (.resetRequest, 3), (.setModuleNumber, 4),
      (.setQueuePairTableBase, 5), (.requestBankRetirement, 6), (.readMeterPage, 7), (.readMonitor, 8), (.writeFlashImage, 9), (.commitFlashImage, 10)]
    (datagramOf s.on.data = none → exec .hello s = .next drop ∧ ∀ p ∈ ops, exec p.1 s = .next drop) ∧
    ∀ d, datagramOf s.on.data = some d →
      let signed : Prop := d.tag = s.mgmtTag d.signed
      let fresh : Prop := m.accepted = true → m.lastSeq.toNat < d.seq.toNat
      let a := d.arg0.toNat
      let answers (i : Instr) (r : Reply) : Prop := exec i s = .next (s.answer d r)
      let bad : Reply := ⟨s, 2, 0, [], none⟩
      (d.op = 0 → exec .hello s = .next (s.emit (.datagram (s.replyBytes d
        ⟨s, BitVec.ofNat 64 s.dev.flash.starts, BitVec.ofNat 64 (m.refused.toNat * 2 ^ 32 + m.lastSeq.toNat), [], none⟩)))) ∧
      (∀ p ∈ ops, d.op = p.2 → ¬ signed → exec p.1 s = .next drop) ∧
      (∀ p ∈ ops, d.op = p.2 → signed → m.accepted = true → d.seq = m.lastSeq → d.tag = m.lastTag →
        exec p.1 s = .next (s.emit (.datagram m.lastReply))) ∧
      (∀ p ∈ ops, d.op = p.2 → signed → m.accepted = true → d.seq.toNat ≤ m.lastSeq.toNat → (d.seq ≠ m.lastSeq ∨ d.tag ≠ m.lastTag) →
        exec p.1 s = .next drop) ∧
      (signed → fresh →
        (d.op = 1 → answers .readStartUpReport (if 1216 < a then bad else ⟨s, 0, 0, m.report.read a (Min.min 1024 (1216 - a)), none⟩)) ∧
        (d.op = 2 → s.dev.power ≠ .running → answers .retryStart ⟨s, 0, 0, [], some ()⟩) ∧
        (d.op = 2 → s.dev.power = .running → ∃ v : W64, v.toNat < 6 ∧ answers .retryStart ⟨{ s with free := s.free + 1 }, v, 0, [], none⟩) ∧
        (d.op = 3 → answers .resetRequest ⟨s, 0, 0, [], some ()⟩) ∧
        (d.op = 9 → answers .writeFlashImage
          ⟨s.modDev fun v => { v with flash := { v.flash with staged := v.flash.staged.write a d.payload } }, 0, 0, [], none⟩) ∧
        (d.op = 10 → let image := s.dev.flash.staged.slice 0 a
          answers .commitFlashImage (if Config.flashGood image a then
              ⟨s.modDev fun v => { v with flash := { v.flash with image := image, length := a } }, 0, 0, [],
                if s.dev.power = .running then none else some ()⟩
            else ⟨s, 5, 0, [], none⟩)) ∧
        (10 < d.op → s.dev.power = .running → answers .opNotKnown ⟨s, 1, 0, [], none⟩) ∧
        (s.dev.power ≠ .running → ∀ p ∈ ops, d.op = p.2 → 4 ≤ d.op → d.op ≤ 8 → answers p.1 ⟨s, 3, 0, [], none⟩) ∧
        (s.dev.power = .running →
          (d.op = 4 → answers .setModuleNumber (if a < 65536 then
            ⟨s.modDev fun v => { v with mgmt := { v.mgmt with modno := BitVec.ofNat 16 a } }, 0, 0, [], none⟩ else bad)) ∧
          (d.op = 5 → answers .setQueuePairTableBase (if a % 128 = 0 ∧ a < 0x003000000000 then
            ⟨s.modDev fun v => { v with mgmt := { v.mgmt with qpbase := BitVec.ofNat 40 a } }, 0, 0, [], none⟩ else bad)) ∧
          (d.op = 6 → a < 8192 → a / 128 % 2 = 0 → ∃ r : Reply, answers .requestBankRetirement r ∧ r.arg0 = 0 ∧ r.state.dev = s.dev ∧
            ∀ (n : CoreId) (b : Nat), b < 32 → (r.state.core n).pend.getLsbD b = ((s.core n).pend.getLsbD b ||
              (decide (n.val = a % 128 ∧ b = a / 256) && (s.core n).live.getLsbD b))) ∧
          (d.op = 7 → let page := (s.ctxField (d.arg0.setWidth 16) 6).toNat
            answers .readMeterPage (if a < 65536 ∧ page ≠ 0 then ⟨s, 0, 0, s.dev.dram.read page 256, none⟩ else bad)) ∧
          (d.op = 8 → d.arg1 = 0 → a < 1024 → a / 2 % 128 = 0 →
            answers .readMonitor ⟨s, 0, 0, (s.dev.monitors[monitorIdx (d.arg0.getLsbD 0) (Fin.ofNat 4 (a / 256))]).bytes, none⟩)))

/-- The link and the management port (R464 to R467). -/
def Obligations.LinkAndManagement : Prop := linkFrames ∧ managementRequests

/-! ## What instructions leave alone -/

/-- The scalar register that an instruction of a slot writes. -/
def scalarDest : Instr → Option SReg
  | .add d .. | .sub d .. | .mul d .. | .mulh d .. | .div d .. | .rem d .. | .and d .. | .or d .. | .xor d .. | .andn d .. | .sll d .. | .srl d ..
  | .sra d .. | .slt d .. | .min d .. | .max d .. | .adds d .. | .subs d .. | .shadd d .. | .clz d .. | .ctz d .. | .popc d .. | .addi d ..
  | .andi d .. | .ori d .. | .xori d .. | .slti d .. | .sltiu d .. | .muli d .. | .seqi d .. | .lui d .. | .adrb d .. | .slli d .. | .srli d ..
  | .srai d .. | .bfx d .. | .callr d .. | .loop d .. | .kcnt d .. | .kfind d .. | .rdc d .. | .setc d .. | .clrc d .. | .xchc d .. | .addc d ..
  | .rdcz d .. | .rdcr d .. | .phase d | .phaseC d | .phleft d | .phuntil d .. | .join d .. | .grow d .. | .launch d .. | .fqwait d | .fqpop d ..
  | .vmvs d .. | .vred d .. | .mgget d .. | .mggetN d | .mcall _ _ _ d | .mcallRty _ _ _ d | .mmodeRd d | .mcalRd d .. | .mdescRd d .. | .mpr d ..
  | .mucr d .. | .mstat d .. | .mstatClip d .. | .mtacc d .. | .ldScalar d .. | .ldScalarX d .. | .ldf d .. | .ldfp d .. | .tagrd d .. | .racqW d ..
  | .racqR d .. | .cpyg d .. | .recr d .. | .cpyxStat d .. | .aadd d .. | .aand d .. | .aor d .. | .axch d .. | .amax d .. | .amin d .. | .acas d ..
  | .ald d .. | .barv d .. | .mwaitGe d .. | .mwaitNe d .. | .teth d .. | .tethown d .. | .lkacq d .. | .lkacqTry d .. => some d
  | .call _ => some 1
  | _ => none

/-- The instruction may write a register file other than the scalar registers. -/
def writesOtherFile : Instr → Bool
  | .kand .. | .kor .. | .kxor .. | .kandn .. | .kset .. | .vcmp .. | .vfcmp .. | .vadd .. | .vadds .. | .vsub .. | .vsubs .. | .vmul .. | .vmulh ..
  | .vmin .. | .vmax .. | .vand .. | .vor .. | .vxor .. | .vsll .. | .vsr .. | .vsplat .. | .vfadd .. | .vfsub .. | .vfmul .. | .vfdiv .. | .vfsqrt ..
  | .vfrsqrt .. | .vfmin .. | .vfmax .. | .vfabs .. | .vfneg .. | .vfsplat .. | .vfscl .. | .vfsgnj .. | .vfmaF32 .. | .vfnmaF32 .. | .vfmaBf16 ..
  | .vfmaF16 .. | .vfmawBf16 .. | .vsel .. | .vcvt .. | .vbmax .. | .vqnt .. | .vdqnt .. | .vhad .. | .vfrnd .. | .vbhdr .. | .vfexp2 .. | .vperm ..
  | .vslideup .. | .vslidedn .. | .vscan .. | .vidx .. | .tdef .. | .tzero _ | .ttrn .. | .tcvt .. | .tgetr .. | .tputr .. | .mgset _ | .mgoff ..
  | .mgarm | .mpw .. | .mdrainA .. | .mdrainB .. | .mdrainU _ | .ldVector .. | .ldVectorX .. | .ldw .. | .ldwX .. | .ldg .. | .ldrec .. | .recw ..
  | .wrc .. | .setc .. | .clrc .. | .xchc .. | .addc .. | .rdcz .. | .writeCTdim | .uout => true
  | _ => false

/-- No instruction of a slot changes a scalar register other than the one it names as its destination (s1 for `call`), and none but those that
write a vector, tile, mask, record, parameter or manger register, or a control register, changes any register of those files. -/
def Obligations.OnlyDestinationsChange : Prop :=
  ∀ (s s' : State) (t : Task) (i : Instr), s.live = some t → i.isEvent = false → exec i s = .next s' → s'.wentOn →
    ∃ t', s'.live = some t' ∧ (∀ x, scalarDest i ≠ some x → t'.regs.s[x] = t.regs.s[x]) ∧
      (writesOtherFile i = false → SameRegsBut (scalarDest i).toList t.regs t'.regs)

/-- Instructions that act on their task's own registers, commands, calls and replays, on the scoreboard, and on no storage. -/
def keepsStorage : Instr → Bool
  | .cpy .. | .cpyr .. | .cpys .. | .cpyc _ | .cpyg .. | .cpyxStat .. | .recr .. | .recw .. | .xfer .. | .xredAdd .. | .xredMax .. | .xredMin ..
  | .xsig .. | .phase _ | .phaseC _ | .phuntil .. | .phleft _ | .mcall .. | .mcallRty .. | .mgarm | .mgdrop | .mcwait _ | .mcwaitAll | .mstat ..
  | .tlbinvPage .. | .tlbinvCtx _ | .tlbinvAll | .park | .fqwait _ | .grow .. | .fence _ | .drain _ | .drainE _ => true
  | _ => false

/-- Commands and calls as they are issued, arrivals at a phase, replays, translation maintenance and drains store nothing: every byte of DRAM,
of every loft with its tags and of every matrix unit, the tasks of every other bank, the special registers of every core and of the
device, and the flags, traps and priorities of the task are as before. -/
def Obligations.NonStoringFormsKeepTheRest : Prop :=
  ∀ (s s' : State) (t : Task) (i : Instr), s.live = some t → keepsStorage i = true → exec i s = .next s' → s'.wentOn →
    SameMemory s s' ∧ SameElsewhere s s' ∧ ∃ t', s'.live = some t' ∧ t'.ctl.vl = t.ctl.vl ∧ t'.ctl.base = t.ctl.base ∧ t'.ctl.eff = t.ctl.eff ∧
      t'.ctl.vflags = t.ctl.vflags ∧ t'.ctl.vcsr = t.ctl.vcsr ∧ t'.ctl.mflags = t.ctl.mflags ∧ t'.ctl.cause = t.ctl.cause ∧
      t'.ctl.tpc = t.ctl.tpc ∧ t'.ctl.tinfo = t.ctl.tinfo ∧ t'.ctl.tbun0 = t.ctl.tbun0 ∧ t'.ctl.tbun1 = t.ctl.tbun1 ∧ t'.ctl.bkpt = t.ctl.bkpt

/-- The address register, width and direction of the synchronising steps, for which `InHand` computes the address they act at; a barrier
instruction acts at its loft offset. -/
def syncPlace (t : Task) : Instr → Option (W64 × Nat × Bool)
  | .aadd _ a _ w _ | .aand _ a _ w _ | .aor _ a _ w _ | .axch _ a _ w _ | .amax _ a _ w _ | .amin _ a _ w _ | .acas _ a _ w _ | .ast a _ w _ =>
    some (t.getS a, if w then 8 else 4, true)
  | .ald _ a w _ => some (t.getS a, if w then 8 else 4, false)
  | .mwaitGe _ a _ _ | .mwaitNe _ a _ _ => some (t.getS a, 8, false)
  | .lkacq _ a _ | .lkacqTry _ a _ | .lkrel a _ => some (t.getS a, 8, true)
  | .barv _ a _ _ | .binit a | .bexp a _ => some (t.getS a, 16, true)
  | .bwait a | .bwaitPh a _ => some (t.getS a, 16, false)
  | _ => none

/-- An atomic, a monitor-wait, a lock or a barrier instruction stores to its word alone, and to nothing when it only reads: with its word in
hand at `pa`, and no task waiting, every other byte of DRAM and of every loft, every tag, and the storage of every matrix unit are as
the access found them. -/
def Obligations.SynchronisingStepsStoreTheirWordAlone : Prop :=
  ∀ (s s' r : State) (t : Task) (i : Instr) (v : W64) (n : Nat) (write : Bool) (pa : Nat), s.live = some t → t.granted = none → s.dev.wf = [] →
    syncPlace t i = some (v, n, write) → InHand s t write n v pa r → (n = 16 → v.toNat < 0x300000) → exec i s = .next s' → s'.wentOn →
    let apart (lo a : Nat) : Prop := write = false ∨ a < lo ∨ lo + n ≤ a
    let here := (s.cctx t).base
    (∀ a, apart pa a → s'.dev.dram.get a = r.dev.dram.get a) ∧
    (∀ (m : CoreId) (a : Nat), (s'.core m).tags.get a = (r.core m).tags.get a ∧
      (s'.core m).mx.array = (r.core m).mx.array ∧ (s'.core m).mx.acc = (r.core m).mx.acc ∧ (s'.core m).mx.bnd = (r.core m).mx.bnd) ∧
    (∀ m : CoreId, m ≠ s.cur → (s'.core m).loft = (r.core m).loft) ∧
    (match placeOf pa with
      | .window _ o => s'.dev.dram = r.dev.dram ∧ ∀ a, apart (here + o) a → (s'.core s.cur).loft.get a = (r.core s.cur).loft.get a
      | _ => (s'.core s.cur).loft = (r.core s.cur).loft)

/-! ## The whole machine -/

/-- The events and the requests that close a phase or start the device. -/
def movesPhase : Instr → Bool
  | .computeClose | .exchangeClose | .powerOn | .retryStart | .resetRequest | .commitFlashImage => true
  | _ => false

/-- The phase counter advances at a close and is 0 after a start, and nothing else changes it: no instruction, micro-word or other event
(R321, R323). -/
def Obligations.OnlyClosesAndStartsMoveThePhase : Prop :=
  ∀ (s s' : State) (i : Instr), exec i s = .next s' →
    (movesPhase i = false → s'.dev.phase = s.dev.phase) ∧
    (i = .computeClose ∨ i = .exchangeClose → s'.dev.phase = s.dev.phase ∨ s'.dev.phase = s.dev.phase + 1) ∧
    (s'.dev.phase = s.dev.phase ∨ s'.dev.phase = s.dev.phase + 1 ∨ s'.dev.phase = 0)

/-- After every step, the port keeps runtime only for queue pairs whose entries are valid and not in reset (R463). -/
def Obligations.EveryStepKeepsPairsLive : Prop := ∀ s s' : State, s.pairsLive → step s = .next s' → s'.pairsLive

/-- The machine after reset: no power, phase 0, no task, no context, every memory as the canonical empty one, nothing kept for any queue
pair, every macro uncalibrated and in storage mode with DIRTY clear (R244, R316, R463, R489). Values that the spec does not state
are the model's own (log entry 3). -/
def Obligations.ResetState : Prop :=
  let s := State.reset
  s.dev.power = .off ∧ s.dev.phase = 0 ∧ s.dev.dram = [] ∧ s.dev.net = [] ∧ s.dev.wf = [] ∧ s.dev.jobs = [] ∧ s.dev.grids = [] ∧
    s.pairsLive ∧ s.canonical ∧
    ∀ n : CoreId, (s.core n).tasks = [] ∧ (s.core n).ctxs = [] ∧ (s.core n).avail = false ∧ (s.core n).sb = [] ∧ (s.core n).mx.owner = none ∧
      (s.core n).lanes = Vector.replicate 8 [] ∧
      ∀ i : Fin 64, (s.core n).mx.macros[i].uncal = true ∧ (s.core n).mx.macros[i].compute = false ∧ (s.core n).mx.macros[i].dirty = false
end

