-- ==== Sys2Proof/Laws/Mem.lean ====
section
/-!
SUPPORT. The sparse memory: its canonical form said as an ordered list of nonzero bytes, kept by every memory operation, and what a
byte reads as after each of them.
-/
namespace Sys2Proof.Laws
open Machine

/-- Canonical, as a property of lists: addresses rise and no entry is zero. -/
def Canon (m : Mem) : Prop := m.Pairwise (fun p q => p.1 < q.1) ∧ ∀ c ∈ m, c.2 ≠ 0

/-- The check with a lower bound says that the list is canonical and lies above it. -/
theorem wfFrom_iff (m : Mem) : ∀ lo : Option Nat, Mem.wfFrom lo m = true ↔ Canon m ∧ ∀ l, lo = some l → ∀ c ∈ m, l < c.1 := by
  induction m with
  | nil => intro lo; simp [Mem.wfFrom, Canon]
  | cons c m ih =>
    intro lo
    obtain ⟨a, b⟩ := c
    simp only [Mem.wfFrom, Bool.and_eq_true, ih, Canon, List.pairwise_cons, List.mem_cons, forall_eq_or_imp, bne_iff_ne]
    cases lo with
    | none =>
      constructor
      · rintro ⟨⟨-, hb⟩, ⟨hp, hz⟩, hm⟩
        exact ⟨⟨⟨hm a rfl, hp⟩, hb, hz⟩, nofun⟩
      · rintro ⟨⟨⟨hm, hp⟩, hb, hz⟩, -⟩
        exact ⟨⟨rfl, hb⟩, ⟨hp, hz⟩, fun l h => by cases h; exact hm⟩
    | some l =>
      simp only [decide_eq_true_eq, Option.some.injEq, forall_eq']
      constructor
      · rintro ⟨⟨hl, hb⟩, ⟨hp, hz⟩, hm⟩
        exact ⟨⟨⟨hm, hp⟩, hb, hz⟩, hl, fun c hc => hl.trans (hm c hc)⟩
      · rintro ⟨⟨⟨hm, hp⟩, hb, hz⟩, hl, _⟩
        exact ⟨⟨hl, hb⟩, ⟨hp, hz⟩, hm⟩

/-- The check says exactly that the memory is canonical. -/
theorem wf_iff (m : Mem) : m.wf = true ↔ Canon m := by simp [Mem.wf, wfFrom_iff]

/-- What the entries of a run of bytes are. -/
theorem mem_cells (bs : List Byte) : ∀ a c, c ∈ Mem.cells a bs ↔ a ≤ c.1 ∧ c.2 ≠ 0 ∧ bs[c.1 - a]? = some c.2 := by
  induction bs with
  | nil => intro a c; simp [Mem.cells]
  | cons b bs ih =>
    intro a c
    obtain ⟨x, y⟩ := c
    have step : x = a ∨ x < a ∨ (a + 1 ≤ x ∧ x - a = (x - (a + 1)) + 1) := by omega
    by_cases hb : b = 0
    · simp only [Mem.cells, hb, if_true, ih]
      rcases step with rfl | h | ⟨h, e⟩
      · simp only [Nat.sub_self, List.getElem?_cons_zero, Option.some.injEq]
        constructor
        · rintro ⟨h, -⟩; omega
        · rintro ⟨-, h, e⟩; exact absurd e.symm h
      · constructor <;> (rintro ⟨h', -⟩; omega)
      · rw [e, List.getElem?_cons_succ]
        constructor <;> (rintro ⟨-, r⟩; exact ⟨by omega, r⟩)
    · simp only [Mem.cells, hb, if_false, List.mem_cons, ih, Prod.mk.injEq]
      rcases step with rfl | h | ⟨h, e⟩
      · simp only [Nat.sub_self, List.getElem?_cons_zero, Option.some.injEq, true_and]
        constructor
        · rintro (rfl | ⟨h, -⟩)
          · exact ⟨le_rfl, hb, rfl⟩
          · omega
        · rintro ⟨-, -, rfl⟩; exact .inl rfl
      · constructor
        · rintro (⟨h', -⟩ | ⟨h', -⟩) <;> omega
        · rintro ⟨h', -⟩; omega
      · rw [e, List.getElem?_cons_succ]
        constructor
        · rintro (⟨h', -⟩ | ⟨-, r⟩)
          · omega
          · exact ⟨by omega, r⟩
        · rintro ⟨-, r⟩; exact .inr ⟨h, r⟩

/-- The entries of a run of bytes are canonical. -/
theorem canon_cells (bs : List Byte) : ∀ a, Canon (Mem.cells a bs) := by
  induction bs with
  | nil => intro a; exact ⟨.nil, by simp [Mem.cells]⟩
  | cons b bs ih =>
    intro a
    by_cases hb : b = 0
    · simpa [Mem.cells, hb] using ih (a + 1)
    · refine ⟨?_, fun c hc => ((mem_cells _ _ _).1 hc).2.1⟩
      simp only [Mem.cells, hb, if_false, List.pairwise_cons]
      exact ⟨fun c hc => ((mem_cells _ _ _).1 hc).1, (ih (a + 1)).1⟩

/-- Part of a canonical memory is canonical. -/
theorem Canon.filter {m : Mem} (h : Canon m) (p : Host.Cell → Bool) : Canon (m.filter p) :=
  ⟨h.1.filter p, fun c hc => h.2 c (List.mem_of_mem_filter hc)⟩

/-- Canonical memories that lie one above the other, joined. -/
theorem Canon.append {m n : Mem} (hm : Canon m) (hn : Canon n) (h : ∀ p ∈ m, ∀ q ∈ n, p.1 < q.1) : Canon (m ++ n) :=
  ⟨List.pairwise_append.2 ⟨hm.1, hn.1, h⟩, fun c hc => (List.mem_append.1 hc).elim (hm.2 c) (hn.2 c)⟩

/-- A store keeps the canonical form. -/
theorem write_canon {m : Mem} (h : Canon m) (a : Nat) (bs : List Byte) : Canon (m.write a bs) := by
  refine ((h.filter _).append (canon_cells bs a) ?_).append (h.filter _) ?_
  · intro p hp q hq
    have := ((mem_cells _ _ _).1 hq).1
    simp only [List.mem_filter, decide_eq_true_eq] at hp
    omega
  · intro p hp q hq
    simp only [List.mem_filter, decide_eq_true_eq] at hq
    rcases List.mem_append.1 hp with hp | hp
    · simp only [List.mem_filter, decide_eq_true_eq] at hp; omega
    · obtain ⟨h1, -, h2⟩ := (mem_cells _ _ _).1 hp
      have := (List.getElem?_eq_some_iff.1 h2).1
      omega

/-- A store keeps the canonical form, as the check says it. -/
theorem write_wf {m : Mem} (h : m.wf = true) (a : Nat) (bs : List Byte) : (m.write a bs).wf = true :=
  (wf_iff _).2 (write_canon ((wf_iff _).1 h) a bs)

/-- Zeroing keeps the canonical form. -/
theorem zero_wf {m : Mem} (h : m.wf = true) (a n : Nat) : (m.zero a n).wf = true :=
  (wf_iff _).2 (((wf_iff _).1 h).filter _)

/-- Storing a number keeps the canonical form. -/
theorem setNum_wf {m : Mem} (h : m.wf = true) (a n v : Nat) : (m.setNum a n v).wf = true := write_wf h a _

/-- Storing single bytes keeps the canonical form. -/
theorem put_wf : ∀ (cs : List (Nat × Byte)) {m : Mem}, m.wf = true → (m.put cs).wf = true
  | [], _, h => h
  | (a, b) :: cs, _, h => put_wf cs (write_wf h a [b])

/-- A slice of a canonical memory is canonical. -/
theorem slice_wf {m : Mem} (h : m.wf = true) (a n : Nat) : (m.slice a n).wf = true := by
  obtain ⟨hp, hz⟩ := (wf_iff _).1 h
  refine (wf_iff _).2 ⟨?_, ?_⟩
  · refine List.pairwise_map.2 (List.Pairwise.imp_of_mem ?_ (hp.filter _))
    intro p q hp hq hlt
    simp only [List.mem_filter, Bool.and_eq_true, decide_eq_true_eq] at hp hq
    change p.1 - a < q.1 - a
    omega
  · intro c hc
    obtain ⟨d, hd, rfl⟩ := List.mem_map.1 hc
    exact hz d (List.mem_of_mem_filter hd)

/-- Replacing a run by a slice keeps the canonical form. -/
theorem splice_wf {m p : Mem} (h : m.wf = true) (hp : p.wf = true) (a n : Nat) : (m.splice a n p).wf = true := by
  obtain ⟨po, pz⟩ := (wf_iff _).1 hp
  have hm := (wf_iff _).1 h
  have mid : Canon ((p.filter fun c => c.1 < n).map fun c => (c.1 + a, c.2)) := by
    refine ⟨List.pairwise_map.2 ((po.filter _).imp ?_), ?_⟩
    · intro x y hxy
      change x.1 + a < y.1 + a
      omega
    · intro c hc
      obtain ⟨d, hd, rfl⟩ := List.mem_map.1 hc
      exact pz d (List.mem_of_mem_filter hd)
  refine (wf_iff _).2 (((hm.filter _).append mid ?_).append (hm.filter _) ?_)
  · intro x hx y hy
    obtain ⟨d, hd, rfl⟩ := List.mem_map.1 hy
    simp only [List.mem_filter, decide_eq_true_eq] at hx hd
    change x.1 < d.1 + a
    omega
  · intro x hx y hy
    simp only [List.mem_filter, decide_eq_true_eq] at hy
    rcases List.mem_append.1 hx with hx | hx
    · simp only [List.mem_filter, decide_eq_true_eq] at hx; omega
    · obtain ⟨d, hd, rfl⟩ := List.mem_map.1 hx
      simp only [List.mem_filter, decide_eq_true_eq] at hd
      change d.1 + a < y.1
      omega

/-- The empty memory is canonical. -/
theorem nil_wf : Mem.wf [] = true := rfl

/-! ## Reading after an operation -/

/-- An address without an entry reads zero. -/
theorem get_of_absent {m : Mem} {a : Nat} (h : ∀ c ∈ m, c.1 ≠ a) : m.get a = 0 := by
  have : m.lookup a = none := List.lookup_eq_none_iff.2 fun c hc => by simpa [beq_iff_eq] using (h c hc).symm
  simp [Mem.get, this]

/-- Reading in a joined memory: the first part decides where it has an entry. -/
theorem get_append (m n : Mem) (a : Nat) : Mem.get (m ++ n) a = ((m.lookup a).or (n.lookup a)).getD 0 := by
  simp [Mem.get, List.lookup_append]

/-- Reading in a part chosen by address. -/
theorem lookup_filter (p : Nat → Bool) (m : Mem) (a : Nat) :
    (m.filter fun c => p c.1).lookup a = if p a then m.lookup a else none := by
  induction m with
  | nil => simp
  | cons c m ih =>
    obtain ⟨x, b⟩ := c
    by_cases hx : p x = true <;> by_cases hax : a = x
    · subst hax; simp [hx]
    · have : (a == x) = false := by simpa using hax
      simp [hx, List.lookup_cons, this, ih]
    · subst hax; simp [hx, ih]
    · have : (a == x) = false := by simpa using hax
      simp [hx, List.lookup_cons, this, ih]

/-- Reading in a run of bytes. -/
theorem lookup_cells (bs : List Byte) : ∀ a x, (Mem.cells a bs).lookup x =
    if a ≤ x then (bs[x - a]?).filter (· != 0) else none := by
  induction bs with
  | nil => intro a x; simp [Mem.cells]
  | cons b bs ih =>
    intro a x
    have step : x = a ∨ x < a ∨ (a + 1 ≤ x ∧ x - a = (x - (a + 1)) + 1) := by omega
    by_cases hb : b = 0#8 <;> rcases step with rfl | h | ⟨h, e⟩
    · simp [Mem.cells, hb, ih, Option.filter]
    · simp [Mem.cells, hb, ih, show ¬ a + 1 ≤ x by omega, show ¬ a ≤ x by omega]
    · simp [Mem.cells, hb, ih, h, show a ≤ x by omega, e]
    · simp [Mem.cells, hb, Option.filter]
    · have : (x == a) = false := by simp; omega
      simp [Mem.cells, hb, ih, List.lookup_cons, this, show ¬ a + 1 ≤ x by omega, show ¬ a ≤ x by omega]
    · have : (x == a) = false := by simp; omega
      simp [Mem.cells, hb, ih, List.lookup_cons, this, h, show a ≤ x by omega, e]

/-- A byte after a store: the stored byte inside the run, and what was there outside it. -/
theorem get_write (m : Mem) (a : Nat) (bs : List Byte) (x : Nat) :
    (m.write a bs).get x = if a ≤ x ∧ x < a + bs.length then bs.getD (x - a) 0 else m.get x := by
  have h1 := lookup_filter (fun y => decide (y < a)) m x
  have h2 := lookup_filter (fun y => decide (a + bs.length ≤ y)) m x
  simp only [Mem.write, Mem.get, List.lookup_append, h1, h2, lookup_cells, decide_eq_true_eq]
  by_cases hlo : x < a
  · simp [hlo, show ¬ a ≤ x by omega, show ¬ a + bs.length ≤ x by omega]
  · by_cases hhi : x < a + bs.length
    · have hl : x - a < bs.length := by omega
      simp only [hlo, if_false, show a ≤ x by omega, if_true, show ¬ a + bs.length ≤ x by omega, hhi, and_self, Option.none_or,
        Option.or_none, List.getElem?_eq_getElem hl, List.getD_eq_getElem?_getD, Option.getD_some]
      by_cases hz : bs[x - a] = 0#8 <;> simp [Option.filter, hz]
    · have hn : bs[x - a]? = none := List.getElem?_eq_none (by omega)
      simp [hlo, show a ≤ x by omega, show a + bs.length ≤ x by omega, hhi, hn]

/-- A store leaves every byte outside its run. -/
theorem get_write_outside (m : Mem) (a : Nat) (bs : List Byte) (x : Nat) (h : x < a ∨ a + bs.length ≤ x) :
    (m.write a bs).get x = m.get x := by
  rw [get_write, if_neg (by omega)]

/-- Zeroed bytes read zero, and the others as before. -/
theorem get_zero (m : Mem) (a n x : Nat) : (m.zero a n).get x = if a ≤ x ∧ x < a + n then 0 else m.get x := by
  have h := lookup_filter (fun y => decide (y < a) || decide (a + n ≤ y)) m x
  simp only [Mem.zero, Mem.get, h, Bool.or_eq_true, decide_eq_true_eq]
  by_cases hx : a ≤ x ∧ x < a + n
  · rw [if_neg (by omega), if_pos hx]; rfl
  · rw [if_pos (by omega), if_neg hx]

/-- The bytes of a number: as many as asked for. -/
@[simp] theorem leBytes_length : ∀ n v, (leBytes n v).length = n
  | 0, _ => rfl
  | n + 1, v => by simp [leBytes, leBytes_length n]

/-- The bytes of a number give it back. -/
theorem leNat_leBytes : ∀ n v, leNat (leBytes n v) = v % 256 ^ n
  | 0, v => by simp [leBytes, leNat, Nat.mod_one]
  | n + 1, v => by
    rw [leBytes, leNat, leNat_leBytes n, BitVec.toNat_ofNat]
    have h := Nat.mod_mul (x := v) (a := 256) (b := 256 ^ n)
    have e : v % 256 ^ (n + 1) = v % (256 * 256 ^ n) := by rw [Nat.pow_succ']
    rw [e, h]

/-- A run of bytes reads back as it was stored. -/
theorem read_write (m : Mem) (a : Nat) (bs : List Byte) : (m.write a bs).read a bs.length = bs := by
  apply List.ext_getElem
  · simp [Mem.read]
  · intro i h1 h2
    simp only [Mem.read, List.getElem_map, List.getElem_range, get_write]
    rw [if_pos (by omega)]
    simp [List.getD_eq_getElem?_getD, h2]

/-- A number reads back as it was stored, in the low `n` bytes. -/
theorem num_setNum (m : Mem) (a n v : Nat) : (m.setNum a n v).num a n = v % 256 ^ n := by
  have h := read_write m a (leBytes n v)
  rw [leBytes_length] at h
  rw [Mem.num, Mem.setNum, h, leNat_leBytes]

/-- A run of bytes that a store does not touch reads as before. -/
theorem read_write_outside (m : Mem) (a : Nat) (bs : List Byte) (x n : Nat) (h : x + n ≤ a ∨ a + bs.length ≤ x) :
    (m.write a bs).read x n = m.read x n := by
  simp only [Mem.read]
  refine List.map_congr_left fun i hi => get_write_outside m a bs (x + i) ?_
  have := List.mem_range.1 hi
  omega

end Sys2Proof.Laws
end

