-- ==== Sys2Proof/Laws/State.lean ====
section
/-!
SUPPORT. What each update of the state leaves in each field, and what the shared operations over cores, banks and tasks do: the lemmas that
later proofs rewrite with, so that none of them opens a record update.
-/
namespace Sys2Proof.Laws
open Machine

/-! ## Updates of one core or of the device -/

@[simp] theorem setCore_dev (s : State) (n : CoreId) (c : Core) : (s.setCore n c).dev = s.dev := rfl
@[simp] theorem setCore_turns (s : State) (n : CoreId) (c : Core) : (s.setCore n c).turns = s.turns := rfl
@[simp] theorem setCore_joint (s : State) (n : CoreId) (c : Core) : (s.setCore n c).joint = s.joint := rfl
@[simp] theorem setCore_cur (s : State) (n : CoreId) (c : Core) : (s.setCore n c).cur = s.cur := rfl
@[simp] theorem setCore_slot (s : State) (n : CoreId) (c : Core) : (s.setCore n c).slot = s.slot := rfl
@[simp] theorem setCore_flow (s : State) (n : CoreId) (c : Core) : (s.setCore n c).flow = s.flow := rfl
@[simp] theorem setCore_on (s : State) (n : CoreId) (c : Core) : (s.setCore n c).on = s.on := rfl
@[simp] theorem setCore_free (s : State) (n : CoreId) (c : Core) : (s.setCore n c).free = s.free := rfl
@[simp] theorem setCore_serial (s : State) (n : CoreId) (c : Core) : (s.setCore n c).serial = s.serial := rfl
@[simp] theorem setCore_outbox (s : State) (n : CoreId) (c : Core) : (s.setCore n c).outbox = s.outbox := rfl
@[simp] theorem setCore_cyc (s : State) (n : CoreId) (c : Core) : (s.setCore n c).cyc = s.cyc := rfl

@[simp] theorem modCore_dev (s : State) (n : CoreId) (f : Core → Core) : (s.modCore n f).dev = s.dev := rfl
@[simp] theorem modCore_turns (s : State) (n : CoreId) (f : Core → Core) : (s.modCore n f).turns = s.turns := rfl
@[simp] theorem modCore_joint (s : State) (n : CoreId) (f : Core → Core) : (s.modCore n f).joint = s.joint := rfl
@[simp] theorem modCore_cur (s : State) (n : CoreId) (f : Core → Core) : (s.modCore n f).cur = s.cur := rfl
@[simp] theorem modCore_slot (s : State) (n : CoreId) (f : Core → Core) : (s.modCore n f).slot = s.slot := rfl
@[simp] theorem modCore_flow (s : State) (n : CoreId) (f : Core → Core) : (s.modCore n f).flow = s.flow := rfl
@[simp] theorem modCore_on (s : State) (n : CoreId) (f : Core → Core) : (s.modCore n f).on = s.on := rfl
@[simp] theorem modCore_free (s : State) (n : CoreId) (f : Core → Core) : (s.modCore n f).free = s.free := rfl
@[simp] theorem modCore_serial (s : State) (n : CoreId) (f : Core → Core) : (s.modCore n f).serial = s.serial := rfl
@[simp] theorem modCore_outbox (s : State) (n : CoreId) (f : Core → Core) : (s.modCore n f).outbox = s.outbox := rfl
@[simp] theorem modCore_cyc (s : State) (n : CoreId) (f : Core → Core) : (s.modCore n f).cyc = s.cyc := rfl

@[simp] theorem setBank_dev (s : State) (n : CoreId) (b : Fin 4) (t : Option Task) : (s.setBank n b t).dev = s.dev := rfl
@[simp] theorem setBank_turns (s : State) (n : CoreId) (b : Fin 4) (t : Option Task) : (s.setBank n b t).turns = s.turns := rfl
@[simp] theorem setBank_joint (s : State) (n : CoreId) (b : Fin 4) (t : Option Task) : (s.setBank n b t).joint = s.joint := rfl
@[simp] theorem setBank_cur (s : State) (n : CoreId) (b : Fin 4) (t : Option Task) : (s.setBank n b t).cur = s.cur := rfl
@[simp] theorem setBank_slot (s : State) (n : CoreId) (b : Fin 4) (t : Option Task) : (s.setBank n b t).slot = s.slot := rfl
@[simp] theorem setBank_flow (s : State) (n : CoreId) (b : Fin 4) (t : Option Task) : (s.setBank n b t).flow = s.flow := rfl
@[simp] theorem setBank_on (s : State) (n : CoreId) (b : Fin 4) (t : Option Task) : (s.setBank n b t).on = s.on := rfl
@[simp] theorem setBank_free (s : State) (n : CoreId) (b : Fin 4) (t : Option Task) : (s.setBank n b t).free = s.free := rfl
@[simp] theorem setBank_serial (s : State) (n : CoreId) (b : Fin 4) (t : Option Task) : (s.setBank n b t).serial = s.serial := rfl
@[simp] theorem setBank_outbox (s : State) (n : CoreId) (b : Fin 4) (t : Option Task) : (s.setBank n b t).outbox = s.outbox := rfl
@[simp] theorem setBank_cyc (s : State) (n : CoreId) (b : Fin 4) (t : Option Task) : (s.setBank n b t).cyc = s.cyc := rfl

@[simp] theorem modBank_dev (s : State) (n : CoreId) (b : Fin 4) (f : Task → Task) : (s.modBank n b f).dev = s.dev := rfl
@[simp] theorem modBank_turns (s : State) (n : CoreId) (b : Fin 4) (f : Task → Task) : (s.modBank n b f).turns = s.turns := rfl
@[simp] theorem modBank_joint (s : State) (n : CoreId) (b : Fin 4) (f : Task → Task) : (s.modBank n b f).joint = s.joint := rfl
@[simp] theorem modBank_cur (s : State) (n : CoreId) (b : Fin 4) (f : Task → Task) : (s.modBank n b f).cur = s.cur := rfl
@[simp] theorem modBank_slot (s : State) (n : CoreId) (b : Fin 4) (f : Task → Task) : (s.modBank n b f).slot = s.slot := rfl
@[simp] theorem modBank_flow (s : State) (n : CoreId) (b : Fin 4) (f : Task → Task) : (s.modBank n b f).flow = s.flow := rfl
@[simp] theorem modBank_on (s : State) (n : CoreId) (b : Fin 4) (f : Task → Task) : (s.modBank n b f).on = s.on := rfl
@[simp] theorem modBank_free (s : State) (n : CoreId) (b : Fin 4) (f : Task → Task) : (s.modBank n b f).free = s.free := rfl
@[simp] theorem modBank_serial (s : State) (n : CoreId) (b : Fin 4) (f : Task → Task) : (s.modBank n b f).serial = s.serial := rfl
@[simp] theorem modBank_outbox (s : State) (n : CoreId) (b : Fin 4) (f : Task → Task) : (s.modBank n b f).outbox = s.outbox := rfl
@[simp] theorem modBank_cyc (s : State) (n : CoreId) (b : Fin 4) (f : Task → Task) : (s.modBank n b f).cyc = s.cyc := rfl

@[simp] theorem setLive_dev (s : State) (t : Task) : (s.setLive t).dev = s.dev := rfl
@[simp] theorem setLive_turns (s : State) (t : Task) : (s.setLive t).turns = s.turns := rfl
@[simp] theorem setLive_joint (s : State) (t : Task) : (s.setLive t).joint = s.joint := rfl
@[simp] theorem setLive_cur (s : State) (t : Task) : (s.setLive t).cur = s.cur := rfl
@[simp] theorem setLive_slot (s : State) (t : Task) : (s.setLive t).slot = s.slot := rfl
@[simp] theorem setLive_flow (s : State) (t : Task) : (s.setLive t).flow = s.flow := rfl
@[simp] theorem setLive_on (s : State) (t : Task) : (s.setLive t).on = s.on := rfl
@[simp] theorem setLive_free (s : State) (t : Task) : (s.setLive t).free = s.free := rfl
@[simp] theorem setLive_serial (s : State) (t : Task) : (s.setLive t).serial = s.serial := rfl
@[simp] theorem setLive_outbox (s : State) (t : Task) : (s.setLive t).outbox = s.outbox := rfl
@[simp] theorem setLive_cyc (s : State) (t : Task) : (s.setLive t).cyc = s.cyc := rfl

@[simp] theorem modLive_dev (s : State) (f : Task → Task) : (s.modLive f).dev = s.dev := rfl
@[simp] theorem modLive_turns (s : State) (f : Task → Task) : (s.modLive f).turns = s.turns := rfl
@[simp] theorem modLive_joint (s : State) (f : Task → Task) : (s.modLive f).joint = s.joint := rfl
@[simp] theorem modLive_cur (s : State) (f : Task → Task) : (s.modLive f).cur = s.cur := rfl
@[simp] theorem modLive_slot (s : State) (f : Task → Task) : (s.modLive f).slot = s.slot := rfl
@[simp] theorem modLive_flow (s : State) (f : Task → Task) : (s.modLive f).flow = s.flow := rfl
@[simp] theorem modLive_on (s : State) (f : Task → Task) : (s.modLive f).on = s.on := rfl
@[simp] theorem modLive_free (s : State) (f : Task → Task) : (s.modLive f).free = s.free := rfl
@[simp] theorem modLive_serial (s : State) (f : Task → Task) : (s.modLive f).serial = s.serial := rfl
@[simp] theorem modLive_outbox (s : State) (f : Task → Task) : (s.modLive f).outbox = s.outbox := rfl
@[simp] theorem modLive_cyc (s : State) (f : Task → Task) : (s.modLive f).cyc = s.cyc := rfl

@[simp] theorem modCctx_dev (s : State) (t : Task) (f : CoreCtx → CoreCtx) : (s.modCctx t f).dev = s.dev := rfl
@[simp] theorem modCctx_turns (s : State) (t : Task) (f : CoreCtx → CoreCtx) : (s.modCctx t f).turns = s.turns := rfl
@[simp] theorem modCctx_joint (s : State) (t : Task) (f : CoreCtx → CoreCtx) : (s.modCctx t f).joint = s.joint := rfl
@[simp] theorem modCctx_cur (s : State) (t : Task) (f : CoreCtx → CoreCtx) : (s.modCctx t f).cur = s.cur := rfl
@[simp] theorem modCctx_slot (s : State) (t : Task) (f : CoreCtx → CoreCtx) : (s.modCctx t f).slot = s.slot := rfl
@[simp] theorem modCctx_flow (s : State) (t : Task) (f : CoreCtx → CoreCtx) : (s.modCctx t f).flow = s.flow := rfl
@[simp] theorem modCctx_on (s : State) (t : Task) (f : CoreCtx → CoreCtx) : (s.modCctx t f).on = s.on := rfl
@[simp] theorem modCctx_free (s : State) (t : Task) (f : CoreCtx → CoreCtx) : (s.modCctx t f).free = s.free := rfl
@[simp] theorem modCctx_serial (s : State) (t : Task) (f : CoreCtx → CoreCtx) : (s.modCctx t f).serial = s.serial := rfl
@[simp] theorem modCctx_outbox (s : State) (t : Task) (f : CoreCtx → CoreCtx) : (s.modCctx t f).outbox = s.outbox := rfl
@[simp] theorem modCctx_cyc (s : State) (t : Task) (f : CoreCtx → CoreCtx) : (s.modCctx t f).cyc = s.cyc := rfl

@[simp] theorem modDev_cores (s : State) (f : Device → Device) : (s.modDev f).cores = s.cores := rfl
@[simp] theorem modDev_turns (s : State) (f : Device → Device) : (s.modDev f).turns = s.turns := rfl
@[simp] theorem modDev_joint (s : State) (f : Device → Device) : (s.modDev f).joint = s.joint := rfl
@[simp] theorem modDev_cur (s : State) (f : Device → Device) : (s.modDev f).cur = s.cur := rfl
@[simp] theorem modDev_slot (s : State) (f : Device → Device) : (s.modDev f).slot = s.slot := rfl
@[simp] theorem modDev_flow (s : State) (f : Device → Device) : (s.modDev f).flow = s.flow := rfl
@[simp] theorem modDev_on (s : State) (f : Device → Device) : (s.modDev f).on = s.on := rfl
@[simp] theorem modDev_free (s : State) (f : Device → Device) : (s.modDev f).free = s.free := rfl
@[simp] theorem modDev_serial (s : State) (f : Device → Device) : (s.modDev f).serial = s.serial := rfl
@[simp] theorem modDev_outbox (s : State) (f : Device → Device) : (s.modDev f).outbox = s.outbox := rfl
@[simp] theorem modDev_cyc (s : State) (f : Device → Device) : (s.modDev f).cyc = s.cyc := rfl
@[simp] theorem modDev_dev (s : State) (f : Device → Device) : (s.modDev f).dev = f s.dev := rfl
@[simp] theorem modDev_core (s : State) (f : Device → Device) (n : CoreId) : (s.modDev f).core n = s.core n := rfl
@[simp] theorem flow_core (s : State) (f : Flow) (n : CoreId) : ({ s with flow := f } : State).core n = s.core n := rfl

/-! ## Reading a core, a bank or the live task after an update -/

/-- A core reads as it was set. -/
@[simp] theorem setCore_core_self (s : State) (n : CoreId) (c : Core) : (s.setCore n c).core n = c := by
  simp [State.setCore, State.core]

/-- Another core is left alone. -/
theorem setCore_core_ne (s : State) {n m : CoreId} (c : Core) (h : m ≠ n) : (s.setCore n c).core m = s.core m := by
  have : n.val ≠ m.val := fun e => h (Fin.ext e.symm)
  simp [State.setCore, State.core, Vector.getElem_set_ne, this]

/-- A changed core. -/
@[simp] theorem modCore_core_self (s : State) (n : CoreId) (f : Core → Core) : (s.modCore n f).core n = f (s.core n) := by
  simp [State.modCore]

/-- A core beside the changed one. -/
theorem modCore_core_ne (s : State) {n m : CoreId} (f : Core → Core) (h : m ≠ n) : (s.modCore n f).core m = s.core m :=
  setCore_core_ne s _ h

/-- What holds of a core through a change of some core: a projection that the change keeps. -/
theorem modCore_proj {α : Type} (g : Core → α) (s : State) (n m : CoreId) (f : Core → Core) (h : ∀ c, g (f c) = g c) :
    g ((s.modCore n f).core m) = g (s.core m) := by
  by_cases e : m = n
  · subst e; simp [h]
  · rw [modCore_core_ne s f e]

/-- A bank reads as it was set. -/
@[simp] theorem setBank_bank_self (s : State) (n : CoreId) (b : Fin 4) (t : Option Task) : (s.setBank n b t).bank n b = t := by
  simp [State.setBank, State.bank]

/-- The live bank's number survives a change of a bank. -/
@[simp] theorem setBank_cbank (s : State) (n m : CoreId) (b : Fin 4) (t : Option Task) :
    ((s.setBank n b t).core m).cbank = (s.core m).cbank := modCore_proj (·.cbank) s n m _ fun _ => rfl

/-- The live task replaced is the live task. -/
@[simp] theorem setLive_live (s : State) (t : Task) : (s.setLive t).live = some t := by
  simp [State.live, State.setLive]

/-- A bank that is not the live one is left alone. -/
theorem setLive_bank_ne (s : State) (t : Task) (n : CoreId) (b : Fin 4) (h : n ≠ s.cur ∨ b ≠ (s.core s.cur).cbank) :
    (s.setLive t).bank n b = s.bank n b := by
  unfold State.setLive State.setBank State.bank
  by_cases e : n = s.cur
  · subst e
    have hb : (s.core s.cur).cbank.val ≠ b.val := fun x => h.elim (· rfl) (· (Fin.ext x.symm))
    simp [Vector.getElem_set_ne, hb]
  · rw [modCore_core_ne s _ e]

/-- The live task changed. -/
@[simp] theorem modLive_live (s : State) (f : Task → Task) : (s.modLive f).live = s.live.map f := by
  simp [State.live, State.modLive, State.modBank, State.bank]

/-- A core's parts other than its banks survive a change of the live task. -/
theorem setLive_proj {α : Type} (g : Core → α) (s : State) (t : Task) (m : CoreId)
    (h : ∀ (c : Core) b, g { c with banks := b } = g c) : g ((s.setLive t).core m) = g (s.core m) :=
  modCore_proj g s _ m _ fun c => h c _

/-- The same for a change by a function. -/
theorem modLive_proj {α : Type} (g : Core → α) (s : State) (f : Task → Task) (m : CoreId)
    (h : ∀ (c : Core) b, g { c with banks := b } = g c) : g ((s.modLive f).core m) = g (s.core m) :=
  modCore_proj g s _ m _ fun c => h c _

/-! ## Registers of a task -/

/-- s0 reads zero. -/
@[simp] theorem getS_zero (t : Task) : t.getS 0 = 0 := rfl

/-- A scalar register after a write: s0 stays zero, the written register holds the value, the others are as before. -/
theorem getS_setS (t : Task) (d r : SReg) (v : W64) : (t.setS d v).getS r = if r = d ∧ d ≠ 0 then v else t.getS r := by
  unfold Task.setS Task.getS
  by_cases hd : d = 0
  · simp [hd]
  · by_cases hr : r = d
    · subst hr; simp [hd]
    · have : d.val ≠ r.val := fun e => hr (Fin.ext e.symm)
      simp [hd, hr, Vector.getElem_set_ne, this]

/-- A mask register after a write. -/
theorem getK_setK (t : Task) (d r : KReg) (v : BitVec 16384) : (t.setK d v).getK r = if r = d ∧ d ≠ 0 then v else t.getK r := by
  unfold Task.setK Task.getK
  by_cases hd : d = 0
  · simp [hd]
  · by_cases hr : r = d
    · subst hr; simp [hd]
    · have : d.val ≠ r.val := fun e => hr (Fin.ext e.symm)
      simp [hd, hr, Vector.getElem_set_ne, this]

@[simp] theorem setS_tid (t : Task) (d : SReg) (v : W64) : (t.setS d v).tid = t.tid := by
  unfold Task.setS; split <;> rfl
@[simp] theorem setS_ctx (t : Task) (d : SReg) (v : W64) : (t.setS d v).ctx = t.ctx := by
  unfold Task.setS; split <;> rfl
@[simp] theorem setS_job (t : Task) (d : SReg) (v : W64) : (t.setS d v).job = t.job := by
  unfold Task.setS; split <;> rfl
@[simp] theorem setS_ceil (t : Task) (d : SReg) (v : W64) : (t.setS d v).ceil = t.ceil := by
  unfold Task.setS; split <;> rfl
@[simp] theorem setS_ctl (t : Task) (d : SReg) (v : W64) : (t.setS d v).ctl = t.ctl := by
  unfold Task.setS; split <;> rfl
@[simp] theorem setS_gcount (t : Task) (d : SReg) (v : W64) : (t.setS d v).gcount = t.gcount := by
  unfold Task.setS; split <;> rfl
@[simp] theorem setS_gidx (t : Task) (d : SReg) (v : W64) : (t.setS d v).gidx = t.gidx := by
  unfold Task.setS; split <;> rfl
@[simp] theorem setS_grid (t : Task) (d : SReg) (v : W64) : (t.setS d v).grid = t.grid := by
  unfold Task.setS; split <;> rfl
@[simp] theorem setS_team (t : Task) (d : SReg) (v : W64) : (t.setS d v).team = t.team := by
  unfold Task.setS; split <;> rfl
@[simp] theorem setS_tsz (t : Task) (d : SReg) (v : W64) : (t.setS d v).tsz = t.tsz := by
  unfold Task.setS; split <;> rfl
@[simp] theorem setS_member (t : Task) (d : SReg) (v : W64) : (t.setS d v).member = t.member := by
  unfold Task.setS; split <;> rfl
@[simp] theorem setS_pc (t : Task) (d : SReg) (v : W64) : (t.setS d v).pc = t.pc := by
  unfold Task.setS; split <;> rfl
@[simp] theorem setS_slot (t : Task) (d : SReg) (v : W64) : (t.setS d v).slot = t.slot := by
  unfold Task.setS; split <;> rfl
@[simp] theorem setS_bundle (t : Task) (d : SReg) (v : W64) : (t.setS d v).bundle = t.bundle := by
  unfold Task.setS; split <;> rfl
@[simp] theorem setS_hold (t : Task) (d : SReg) (v : W64) : (t.setS d v).hold = t.hold := by
  unfold Task.setS; split <;> rfl
@[simp] theorem setS_waiting (t : Task) (d : SReg) (v : W64) : (t.setS d v).waiting = t.waiting := by
  unfold Task.setS; split <;> rfl
@[simp] theorem setS_untethered (t : Task) (d : SReg) (v : W64) : (t.setS d v).untethered = t.untethered := by
  unfold Task.setS; split <;> rfl
@[simp] theorem setS_claims (t : Task) (d : SReg) (v : W64) : (t.setS d v).claims = t.claims := by
  unfold Task.setS; split <;> rfl
@[simp] theorem setS_engines (t : Task) (d : SReg) (v : W64) : (t.setS d v).engines = t.engines := by
  unfold Task.setS; split <;> rfl
@[simp] theorem setS_calls (t : Task) (d : SReg) (v : W64) : (t.setS d v).calls = t.calls := by
  unfold Task.setS; split <;> rfl
@[simp] theorem setS_stats (t : Task) (d : SReg) (v : W64) : (t.setS d v).stats = t.stats := by
  unfold Task.setS; split <;> rfl
@[simp] theorem setS_replays (t : Task) (d : SReg) (v : W64) : (t.setS d v).replays = t.replays := by
  unfold Task.setS; split <;> rfl
@[simp] theorem setS_remote (t : Task) (d : SReg) (v : W64) : (t.setS d v).remote = t.remote := by
  unfold Task.setS; split <;> rfl
@[simp] theorem setS_regs_v (t : Task) (d : SReg) (v : W64) : (t.setS d v).regs.v = t.regs.v := by
  unfold Task.setS; split <;> rfl
@[simp] theorem setS_regs_k (t : Task) (d : SReg) (v : W64) : (t.setS d v).regs.k = t.regs.k := by
  unfold Task.setS; split <;> rfl
@[simp] theorem setS_regs_b (t : Task) (d : SReg) (v : W64) : (t.setS d v).regs.b = t.regs.b := by
  unfold Task.setS; split <;> rfl
@[simp] theorem setS_regs_l (t : Task) (d : SReg) (v : W64) : (t.setS d v).regs.l = t.regs.l := by
  unfold Task.setS; split <;> rfl
@[simp] theorem setS_regs_m (t : Task) (d : SReg) (v : W64) : (t.setS d v).regs.m = t.regs.m := by
  unfold Task.setS; split <;> rfl
@[simp] theorem setS_regs_o (t : Task) (d : SReg) (v : W64) : (t.setS d v).regs.o = t.regs.o := by
  unfold Task.setS; split <;> rfl
@[simp] theorem setS_regs_nest (t : Task) (d : SReg) (v : W64) : (t.setS d v).regs.nest = t.regs.nest := by
  unfold Task.setS; split <;> rfl
@[simp] theorem setS_regs_tdim (t : Task) (d : SReg) (v : W64) : (t.setS d v).regs.tdim = t.regs.tdim := by
  unfold Task.setS; split <;> rfl
@[simp] theorem setS_paddock (t : Task) (d : SReg) (v : W64) : (t.setS d v).paddock = t.paddock := by
  unfold Task.setS; split <;> rfl
@[simp] theorem setS_mx (t : Task) (d : SReg) (v : W64) : (t.setS d v).mx = t.mx := by
  unfold Task.setS; split <;> rfl
@[simp] theorem setS_cut (t : Task) (d : SReg) (v : W64) : (t.setS d v).cut = t.cut := by
  unfold Task.setS; split <;> rfl
@[simp] theorem setS_ahead (t : Task) (d : SReg) (v : W64) : (t.setS d v).ahead = t.ahead := by
  unfold Task.setS; split <;> rfl
@[simp] theorem setS_startPhase (t : Task) (d : SReg) (v : W64) : (t.setS d v).startPhase = t.startPhase := by
  unfold Task.setS; split <;> rfl
@[simp] theorem setS_pendFreeze (t : Task) (d : SReg) (v : W64) : (t.setS d v).pendFreeze = t.pendFreeze := by
  unfold Task.setS; split <;> rfl
@[simp] theorem setS_pendStrag (t : Task) (d : SReg) (v : W64) : (t.setS d v).pendStrag = t.pendStrag := by
  unfold Task.setS; split <;> rfl
@[simp] theorem setS_pendDeadlock (t : Task) (d : SReg) (v : W64) : (t.setS d v).pendDeadlock = t.pendDeadlock := by
  unfold Task.setS; split <;> rfl
@[simp] theorem setS_skipBkpt (t : Task) (d : SReg) (v : W64) : (t.setS d v).skipBkpt = t.skipBkpt := by
  unfold Task.setS; split <;> rfl
@[simp] theorem setS_drainedU (t : Task) (d : SReg) (v : W64) : (t.setS d v).drainedU = t.drainedU := by
  unfold Task.setS; split <;> rfl
@[simp] theorem setS_invalidating (t : Task) (d : SReg) (v : W64) : (t.setS d v).invalidating = t.invalidating := by
  unfold Task.setS; split <;> rfl
@[simp] theorem setS_image (t : Task) (d : SReg) (v : W64) : (t.setS d v).image = t.image := by
  unfold Task.setS; split <;> rfl
@[simp] theorem setS_wrapped (t : Task) (d : SReg) (v : W64) : (t.setS d v).wrapped = t.wrapped := by
  unfold Task.setS; split <;> rfl
@[simp] theorem setS_inner (t : Task) (d : SReg) (v : W64) : (t.setS d v).inner = t.inner := by
  unfold Task.setS; split <;> rfl
@[simp] theorem setS_granted (t : Task) (d : SReg) (v : W64) : (t.setS d v).granted = t.granted := by
  unfold Task.setS; split <;> rfl
@[simp] theorem setS_late (t : Task) (d : SReg) (v : W64) : (t.setS d v).late = t.late := by
  unfold Task.setS; split <;> rfl
@[simp] theorem setS_stuck (t : Task) (d : SReg) (v : W64) : (t.setS d v).stuck = t.stuck := by
  unfold Task.setS; split <;> rfl
@[simp] theorem setS_thaws (t : Task) (d : SReg) (v : W64) : (t.setS d v).thaws = t.thaws := by
  unfold Task.setS; split <;> rfl
@[simp] theorem setK_late (t : Task) (d : KReg) (v : BitVec 16384) : (t.setK d v).late = t.late := by
  unfold Task.setK; split <;> rfl
@[simp] theorem setK_stuck (t : Task) (d : KReg) (v : BitVec 16384) : (t.setK d v).stuck = t.stuck := by
  unfold Task.setK; split <;> rfl
@[simp] theorem setK_thaws (t : Task) (d : KReg) (v : BitVec 16384) : (t.setK d v).thaws = t.thaws := by
  unfold Task.setK; split <;> rfl
@[simp] theorem setK_ctl (t : Task) (d : KReg) (v : BitVec 16384) : (t.setK d v).ctl = t.ctl := by
  unfold Task.setK; split <;> rfl
@[simp] theorem setK_pc (t : Task) (d : KReg) (v : BitVec 16384) : (t.setK d v).pc = t.pc := by
  unfold Task.setK; split <;> rfl
@[simp] theorem setK_slot (t : Task) (d : KReg) (v : BitVec 16384) : (t.setK d v).slot = t.slot := by
  unfold Task.setK; split <;> rfl
@[simp] theorem setK_bundle (t : Task) (d : KReg) (v : BitVec 16384) : (t.setK d v).bundle = t.bundle := by
  unfold Task.setK; split <;> rfl
@[simp] theorem setK_hold (t : Task) (d : KReg) (v : BitVec 16384) : (t.setK d v).hold = t.hold := by
  unfold Task.setK; split <;> rfl
@[simp] theorem setK_waiting (t : Task) (d : KReg) (v : BitVec 16384) : (t.setK d v).waiting = t.waiting := by
  unfold Task.setK; split <;> rfl
@[simp] theorem setK_tid (t : Task) (d : KReg) (v : BitVec 16384) : (t.setK d v).tid = t.tid := by
  unfold Task.setK; split <;> rfl
@[simp] theorem setK_ctx (t : Task) (d : KReg) (v : BitVec 16384) : (t.setK d v).ctx = t.ctx := by
  unfold Task.setK; split <;> rfl
@[simp] theorem setK_regs_s (t : Task) (d : KReg) (v : BitVec 16384) : (t.setK d v).regs.s = t.regs.s := by
  unfold Task.setK; split <;> rfl
@[simp] theorem setK_regs_v (t : Task) (d : KReg) (v : BitVec 16384) : (t.setK d v).regs.v = t.regs.v := by
  unfold Task.setK; split <;> rfl
@[simp] theorem setK_regs_b (t : Task) (d : KReg) (v : BitVec 16384) : (t.setK d v).regs.b = t.regs.b := by
  unfold Task.setK; split <;> rfl
@[simp] theorem setK_regs_l (t : Task) (d : KReg) (v : BitVec 16384) : (t.setK d v).regs.l = t.regs.l := by
  unfold Task.setK; split <;> rfl
@[simp] theorem setK_regs_m (t : Task) (d : KReg) (v : BitVec 16384) : (t.setK d v).regs.m = t.regs.m := by
  unfold Task.setK; split <;> rfl
@[simp] theorem setK_regs_o (t : Task) (d : KReg) (v : BitVec 16384) : (t.setK d v).regs.o = t.regs.o := by
  unfold Task.setK; split <;> rfl
@[simp] theorem setK_regs_nest (t : Task) (d : KReg) (v : BitVec 16384) : (t.setK d v).regs.nest = t.regs.nest := by
  unfold Task.setK; split <;> rfl
@[simp] theorem setK_regs_tdim (t : Task) (d : KReg) (v : BitVec 16384) : (t.setK d v).regs.tdim = t.regs.tdim := by
  unfold Task.setK; split <;> rfl
@[simp] theorem setK_job (t : Task) (d : KReg) (v : BitVec 16384) : (t.setK d v).job = t.job := by
  unfold Task.setK; split <;> rfl
@[simp] theorem setK_ceil (t : Task) (d : KReg) (v : BitVec 16384) : (t.setK d v).ceil = t.ceil := by
  unfold Task.setK; split <;> rfl
@[simp] theorem setK_gcount (t : Task) (d : KReg) (v : BitVec 16384) : (t.setK d v).gcount = t.gcount := by
  unfold Task.setK; split <;> rfl
@[simp] theorem setK_gidx (t : Task) (d : KReg) (v : BitVec 16384) : (t.setK d v).gidx = t.gidx := by
  unfold Task.setK; split <;> rfl
@[simp] theorem setK_grid (t : Task) (d : KReg) (v : BitVec 16384) : (t.setK d v).grid = t.grid := by
  unfold Task.setK; split <;> rfl
@[simp] theorem setK_team (t : Task) (d : KReg) (v : BitVec 16384) : (t.setK d v).team = t.team := by
  unfold Task.setK; split <;> rfl
@[simp] theorem setK_tsz (t : Task) (d : KReg) (v : BitVec 16384) : (t.setK d v).tsz = t.tsz := by
  unfold Task.setK; split <;> rfl
@[simp] theorem setK_member (t : Task) (d : KReg) (v : BitVec 16384) : (t.setK d v).member = t.member := by
  unfold Task.setK; split <;> rfl
@[simp] theorem setK_paddock (t : Task) (d : KReg) (v : BitVec 16384) : (t.setK d v).paddock = t.paddock := by
  unfold Task.setK; split <;> rfl
@[simp] theorem setK_mx (t : Task) (d : KReg) (v : BitVec 16384) : (t.setK d v).mx = t.mx := by
  unfold Task.setK; split <;> rfl
@[simp] theorem setK_cut (t : Task) (d : KReg) (v : BitVec 16384) : (t.setK d v).cut = t.cut := by
  unfold Task.setK; split <;> rfl
@[simp] theorem setK_ahead (t : Task) (d : KReg) (v : BitVec 16384) : (t.setK d v).ahead = t.ahead := by
  unfold Task.setK; split <;> rfl
@[simp] theorem setK_startPhase (t : Task) (d : KReg) (v : BitVec 16384) : (t.setK d v).startPhase = t.startPhase := by
  unfold Task.setK; split <;> rfl
@[simp] theorem setK_pendFreeze (t : Task) (d : KReg) (v : BitVec 16384) : (t.setK d v).pendFreeze = t.pendFreeze := by
  unfold Task.setK; split <;> rfl
@[simp] theorem setK_pendStrag (t : Task) (d : KReg) (v : BitVec 16384) : (t.setK d v).pendStrag = t.pendStrag := by
  unfold Task.setK; split <;> rfl
@[simp] theorem setK_pendDeadlock (t : Task) (d : KReg) (v : BitVec 16384) : (t.setK d v).pendDeadlock = t.pendDeadlock := by
  unfold Task.setK; split <;> rfl
@[simp] theorem setK_skipBkpt (t : Task) (d : KReg) (v : BitVec 16384) : (t.setK d v).skipBkpt = t.skipBkpt := by
  unfold Task.setK; split <;> rfl
@[simp] theorem setK_drainedU (t : Task) (d : KReg) (v : BitVec 16384) : (t.setK d v).drainedU = t.drainedU := by
  unfold Task.setK; split <;> rfl
@[simp] theorem setK_invalidating (t : Task) (d : KReg) (v : BitVec 16384) : (t.setK d v).invalidating = t.invalidating := by
  unfold Task.setK; split <;> rfl
@[simp] theorem setK_image (t : Task) (d : KReg) (v : BitVec 16384) : (t.setK d v).image = t.image := by
  unfold Task.setK; split <;> rfl
@[simp] theorem setK_wrapped (t : Task) (d : KReg) (v : BitVec 16384) : (t.setK d v).wrapped = t.wrapped := by
  unfold Task.setK; split <;> rfl
@[simp] theorem setK_stats (t : Task) (d : KReg) (v : BitVec 16384) : (t.setK d v).stats = t.stats := by
  unfold Task.setK; split <;> rfl
@[simp] theorem setK_calls (t : Task) (d : KReg) (v : BitVec 16384) : (t.setK d v).calls = t.calls := by
  unfold Task.setK; split <;> rfl
@[simp] theorem setK_replays (t : Task) (d : KReg) (v : BitVec 16384) : (t.setK d v).replays = t.replays := by
  unfold Task.setK; split <;> rfl
@[simp] theorem setK_engines (t : Task) (d : KReg) (v : BitVec 16384) : (t.setK d v).engines = t.engines := by
  unfold Task.setK; split <;> rfl
@[simp] theorem setK_claims (t : Task) (d : KReg) (v : BitVec 16384) : (t.setK d v).claims = t.claims := by
  unfold Task.setK; split <;> rfl
@[simp] theorem setK_remote (t : Task) (d : KReg) (v : BitVec 16384) : (t.setK d v).remote = t.remote := by
  unfold Task.setK; split <;> rfl
@[simp] theorem setK_inner (t : Task) (d : KReg) (v : BitVec 16384) : (t.setK d v).inner = t.inner := by
  unfold Task.setK; split <;> rfl
@[simp] theorem setK_granted (t : Task) (d : KReg) (v : BitVec 16384) : (t.setK d v).granted = t.granted := by
  unfold Task.setK; split <;> rfl
@[simp] theorem setK_untethered (t : Task) (d : KReg) (v : BitVec 16384) : (t.setK d v).untethered = t.untethered := by
  unfold Task.setK; split <;> rfl

/-! ## Issue -/

/-- An instruction of a slot, given the live task. -/
theorem issue_live {s : State} {t : Task} (h : s.live = some t) (f : Task → Act) : issue s f = .next (s.settle t (f t)) := by
  simp [issue, h]

/-- An instruction that changes its task alone, given the live task. -/
theorem onTask_live {s : State} {t : Task} (h : s.live = some t) (f : Task → Task) :
    onTask s f = .next { (s.setLive (f t)).endWait with flow := .next } := by
  simp [onTask, issue_live h, State.settle]

/-- An instruction of a slot stops only without a live task. -/
theorem issue_next_iff (s : State) (f : Task → Act) : (∃ s', issue s f = .next s') ↔ s.live.isSome := by
  unfold issue; cases s.live <;> simp

/-! ## What the end of a wait does -/

/-- A release of entries changes of the device only the table and the monitors. -/
theorem release_proj {α : Type} (g : Device → α) (d : Device) (p : WfEntry → Bool) (h : ∀ (d : Device) w m, g { d with wf := w, monitors := m } = g d) :
    g (d.release p) = g d := by
  have fold : ∀ (es : List WfEntry) (d : Device), ∃ m,
      es.foldl (fun d e => d.sample (dieOf e.core) 1 (d.now - e.since)) d = { d with monitors := m } := by
    intro es
    induction es with
    | nil => exact fun d => ⟨d.monitors, rfl⟩
    | cons e es ih => exact fun d => ih _
  obtain ⟨m, e⟩ := fold (d.wf.filter fun e => p e && !e.record) d
  unfold Device.release
  dsimp only
  rw [e]
  exact h d _ m

/-- The table after a release. -/
@[simp] theorem release_wf (d : Device) (p : WfEntry → Bool) : (d.release p).wf = d.wf.filter fun e => !p e := rfl

/-- Releasing an edge leaves every core alone. -/
@[simp] theorem dropEdge_core (s : State) (t : Task) (n : CoreId) : (s.dropEdge t).core n = s.core n := rfl
@[simp] theorem dropEdge_cur (s : State) (t : Task) : (s.dropEdge t).cur = s.cur := rfl
@[simp] theorem dropEdge_dram (s : State) (t : Task) : (s.dropEdge t).dev.dram = s.dev.dram :=
  release_proj (·.dram) _ _ fun _ _ _ => rfl
@[simp] theorem dropEdge_phase (s : State) (t : Task) : (s.dropEdge t).dev.phase = s.dev.phase :=
  release_proj (·.phase) _ _ fun _ _ _ => rfl

/-- The end of a wait changes of a core only its banks and the order of those that wait. -/
theorem endWait_proj {α : Type} (g : Core → α) (s : State) (m : CoreId)
    (h : ∀ (c : Core) b q, g { c with banks := b, waitq := q } = g c) : g (s.endWait.core m) = g (s.core m) := by
  unfold State.endWait
  split
  · rfl
  · rw [modLive_proj g _ _ m (fun c b => h c b c.waitq), dropEdge_core]
    exact modCore_proj g s _ m _ fun c => h c c.banks _
@[simp] theorem endWait_cur (s : State) : s.endWait.cur = s.cur := by
  unfold State.endWait
  split
  · rfl
  · simp
@[simp] theorem endWait_dram (s : State) : s.endWait.dev.dram = s.dev.dram := by
  unfold State.endWait
  split
  · rfl
  · simp
@[simp] theorem endWait_phase (s : State) : s.endWait.dev.phase = s.dev.phase := by
  unfold State.endWait
  split
  · rfl
  · simp

/-- The live task when its wait has ended: itself, waiting for nothing. -/
theorem endWait_live (s : State) : s.endWait.live = s.live.map fun t => { t with waiting := none, untethered := false } := by
  unfold State.endWait
  split
  next h => simp [h]
  next t h =>
    rw [modLive_live]
    have hd : ∀ (q : State), (q.dropEdge t).live = q.live := fun q => by simp [State.live, State.bank]
    have hl : (s.modCore s.cur fun c =>
        { c with waitq := c.waitq.filter fun w => !(w.owner == .task t.tid && w.inner == t.inHandler) }).live = some t := by
      simpa [State.live, State.bank] using h
    rw [hd, hl, h]

end Sys2Proof.Laws
end

