-- ==== Sys2Proof/Laws/Ops.lean ====
section
/-!
SUPPORT. What each shared operation can do, said once: how an instruction settles, what taking a trap and registering a wait leave,
how an access fares, and what a micro-word does to its call.
-/
namespace Sys2Proof.Laws

open Sys2Proof.Machine

/-! ## Taking a trap (R423, R424) -/

theorem report_flow (s : State) (n : CoreId) (x : BitVec 16) (k : Nat) (tid : BitVec 16) (tr : List W64) (im : List Byte) :
    (s.report n x k tid tr im).flow = s.flow := by
  unfold State.report
  dsimp only
  repeat' split
  all_goals rfl

/-- Giving up loads asked for early: nothing changes without such a load, and with one its carriers and packets go. -/
theorem dropEarly_cases (s : State) (t : Task) :
    ((∀ r ∈ t.remote ++ t.inner, r.early = false) ∧ s.dropEarly t = (s, t)) ∨
    (∃ r rs, (t.remote ++ t.inner).filter (·.early) = r :: rs ∧
      s.dropEarly t = ((s.forgetRequests s.cur (r :: rs)).modLive fun t => t.straight, t.straight)) := by
  unfold State.dropEarly
  split
  next h => exact .inl ⟨by simpa [List.filter_eq_nil_iff, or_imp, forall_and] using h, rfl⟩
  next h =>
    obtain ⟨r, rs, e⟩ := List.exists_cons_of_ne_nil h
    exact .inr ⟨r, rs, e, by rw [e]⟩

@[simp] theorem dropEarly_flow (s : State) (t : Task) : (s.dropEarly t).1.flow = s.flow := by
  obtain ⟨-, e⟩ | ⟨r, rs, -, e⟩ := dropEarly_cases s t
  · rw [e]
  · rw [e]; rfl
@[simp] theorem dropEarly_cur (s : State) (t : Task) : (s.dropEarly t).1.cur = s.cur := by
  obtain ⟨-, e⟩ | ⟨r, rs, -, e⟩ := dropEarly_cases s t
  · rw [e]
  · rw [e]; rfl
@[simp] theorem dropEarly_inHandler (s : State) (t : Task) : (s.dropEarly t).2.inHandler = t.inHandler := by
  obtain ⟨-, e⟩ | ⟨r, rs, -, e⟩ := dropEarly_cases s t
  · rw [e]
  · rw [e]; rfl
@[simp] theorem dropEarly_ctx (s : State) (t : Task) : (s.dropEarly t).2.ctx = t.ctx := by
  obtain ⟨-, e⟩ | ⟨r, rs, -, e⟩ := dropEarly_cases s t
  · rw [e]
  · rw [e]; rfl

/-- A task without an early load drops none. -/
theorem dropEarly_none {s : State} {t : Task} (h : ∀ r ∈ t.remote ++ t.inner, r.early = false) : s.dropEarly t = (s, t) := by
  obtain ⟨-, e⟩ | ⟨r, rs, k, -⟩ := dropEarly_cases s t
  · exact e
  · have := List.mem_filter.mp (k ▸ List.mem_cons_self : r ∈ (t.remote ++ t.inner).filter (·.early))
    simp [h r this.1] at this

@[simp] theorem takeTrap_flow (s : State) (t : Task) (c : Trap) : (s.takeTrap t c).flow = .trapped c := by
  have e := dropEarly_flow { s with flow := .trapped c } t
  unfold State.takeTrap State.unhandled
  dsimp only
  repeat' split
  all_goals first | exact e | exact (report_flow ..).trans e

/-- Taking a trap has four outcomes: the handler is entered, a freeze is kept for `rett`, a freeze without a vector is left to the device, or the
task freezes unhandled. -/
theorem takeTrap_cases (s : State) (t : Task) (c : Trap) :
    let q := (({ s with flow := .trapped c } : State).dropEarly t).1
    let u := (({ s with flow := .trapped c } : State).dropEarly t).2
    let vec := (q.cctx u).tvec
    (t.inHandler = false ∧ vec.getLsbD 63 = true ∧ s.takeTrap t c = q.setLive (u.enter c vec (q.trapBundle u))) ∨
    (t.inHandler = true ∧ c.cls = 0x08 ∧ vec.getLsbD 63 = true ∧ s.takeTrap t c = q.setLive { u with pendFreeze := some c }) ∨
    (c.cls = 0x08 ∧ vec.getLsbD 63 = false ∧ s.takeTrap t c = q) ∨
    (c.cls ≠ 0x08 ∧ (t.inHandler = true ∨ vec.getLsbD 63 = false) ∧ s.takeTrap t c = q.unhandled u c) := by
  intro q u vec
  have e : s.takeTrap t c = if u.inHandler && c.cls != 0x08 then q.unhandled u c
      else if !vec.getLsbD 63 then (if c.cls == 0x08 then q else q.unhandled u c)
      else if u.inHandler then q.setLive { u with pendFreeze := some c } else q.setLive (u.enter c vec (q.trapBundle u)) := rfl
  have i : u.inHandler = t.inHandler := dropEarly_inHandler ..
  rw [e, i]
  clear e
  by_cases h : t.inHandler = true <;> by_cases k : c.cls = 8#8 <;> cases v : vec.getLsbD 63 <;> simp [h, k]

/-! ## How an instruction settles -/

/-- A wait leaves the instruction waiting, or in the trap of a deadlock or an overflow (R375 to R377). -/
theorem registerWait_flow (s : State) (t : Task) (w : Wait) :
    (s.registerWait t w).flow = .waiting w ∨ ∃ c, (s.registerWait t w).flow = .trapped c := by
  have drop : ∀ (q : State), (q.dropEdge t).flow = q.flow := fun _ => rfl
  have ovf : ∀ (q : State) (k : CoreCtx) (m : Bool → State → State), (∀ b r, (m b r).flow = r.flow) →
      (q.overflow t k m).flow = q.flow ∨ ∃ c, (q.overflow t k m).flow = .trapped c := by
    intro q k m hm
    unfold State.overflow
    split
    · left; rw [hm]; split <;> rfl
    · exact .inr ⟨_, takeTrap_flow ..⟩
  unfold State.registerWait
  dsimp only
  split
  · left; exact drop _
  · split
    · split
      · exact .inl rfl
      · split
        · exact .inl rfl
        · exact .inl rfl
        · exact .inr ⟨_, takeTrap_flow ..⟩
    · split
      · exact ovf _ _ _ fun _ _ => rfl
      · split
        · exact ovf _ _ _ fun _ _ => rfl
        · split
          · exact .inl rfl
          · exact .inl rfl
          · exact .inr ⟨_, takeTrap_flow ..⟩

/-- An instruction that went on performed, and its task goes on at the next instruction, at a target or at a return point. -/
theorem settle_wentOn {s : State} {t : Task} {a : Act} (h : (s.settle t a).wentOn) :
    (∃ r, a = .ok r ∧ s.settle t a = { r.endWait with flow := .next }) ∨
    (∃ r p, a = .jump r p ∧ s.settle t a = { r.endWait with flow := .jump p }) ∨
    (∃ r p k, a = .resume r p k ∧ s.settle t a = { r with flow := .resume p k }) ∨
    ∃ r, a = .entered r ∧ s.settle t a = r := by
  cases a with
  | ok r => exact .inl ⟨r, rfl, rfl⟩
  | jump r p => exact .inr (.inl ⟨r, p, rfl, rfl⟩)
  | resume r p k => exact .inr (.inr (.inl ⟨r, p, k, rfl, rfl⟩))
  | entered r => exact .inr (.inr (.inr ⟨r, rfl, rfl⟩))
  | ended r => exact h.elim
  | trap c => simp [State.settle, State.wentOn] at h
  | wait r w =>
    simp only [State.settle, State.wentOn] at h
    obtain e | ⟨c, e⟩ := registerWait_flow r t w <;> simp [e] at h

/-- What an instruction of a slot answers: nothing without a live task, and else the state that its act settles to. -/
theorem issue_cases {s s' : State} {f : Task → Act} (h : issue s f = .next s') : ∃ t, s.live = some t ∧ s' = s.settle t (f t) := by
  unfold issue at h
  split at h
  · cases h
  next t e => exact ⟨t, e, (Host.Outcome.next.inj h).symm⟩

theorem issue_goesOn (s : State) (f : Task → Act) : (∃ s', issue s f = .next s') ∨ (s.live = none ∧ issue s f = .fault .noTask) := by
  unfold issue
  split
  next h => exact .inr ⟨h, rfl⟩
  next t h => exact .inl ⟨_, rfl⟩

/-- A supervisor's instruction traps in any other context. -/
theorem supervised_live {s : State} {t : Task} (h : s.live = some t) (f : Task → Act) :
    supervised f s = .next (s.settle t (if (s.cctx t).sup then f t else s.bounds t (t.ctx.setWidth 64))) := by
  unfold supervised; exact issue_live h _

/-- A matrix instruction traps outside the unit's owner (R262). -/
theorem onUnit_live {s : State} {t : Task} (h : s.live = some t) (f : Task → Act) :
    onUnit f s = .next (s.settle t (if s.unit.owner = some t.ctx then f t else s.bounds t s.unit.ownWord)) := by
  unfold onUnit; exact issue_live h _

/-! ## Accesses (R145, R148, R281) -/

/-- An access to the partition waits for what holds it, or performs with its granules touched. -/
theorem access_cases (s : State) (t : Task) (spans : List (Nat × Nat)) (write tagged : Bool) (f : State → Act) :
    (∃ r w, s.holdFirst t (s.cctx t) write tagged spans (granules spans) = some (r, w) ∧ s.access t spans write tagged f = .wait r w) ∨
    (s.holdFirst t (s.cctx t) write tagged spans (granules spans) = none ∧ s.access t spans write tagged f = f (s.reached t spans write)) := by
  unfold State.access
  split
  next r w h => exact .inl ⟨r, w, h, rfl⟩
  next h => exact .inr ⟨h, rfl⟩

/-- An access to the unit's storage waits for what holds it, or performs. -/
theorem unitAccess_cases (s : State) (t : Task) (drain write : Bool) (ps : List (SbSpace × Nat × Nat)) (f : Act) :
    (∃ w, s.unitHold t drain write ps = some w ∧ s.unitAccess t drain write ps f = .wait s w) ∨
    (s.unitHold t drain write ps = none ∧ s.unitAccess t drain write ps f = f) := by
  unfold State.unitAccess
  split
  next w h => exact .inl ⟨w, h, rfl⟩
  next h => exact .inr ⟨h, rfl⟩

/-- A synchronising step at a word at hand performs, waits, is refused, or finds no entry for a lock where that traps (R377, R383). -/
theorem syncHere_cases (s : State) (t : Task) (op : SyncOp) (pa n : Nat) (v arg cmp : W64) (f : State → W64 → List Byte → Act) :
    (s.syncOverflows t (s.syncRoom t op) = true ∧
      s.syncHere t op pa n v arg cmp f = .trap (s.trapHere t 0x05 0 (s.dev.wfuse t.ctx))) ∨
    (∃ r w bs, s.perform t op pa n arg cmp = (r, .done w bs) ∧
      s.syncHere t op pa n v arg cmp f = f (r.countUntethered t (s.syncRoom t op)) w bs) ∨
    (∃ r a, s.perform t op pa n arg cmp = (r, a) ∧ (a = .here ∨ ∃ w, a = .retry w) ∧
      s.syncHere t op pa n v arg cmp f = r.syncWait t op pa) ∨
    (∃ r, s.perform t op pa n arg cmp = (r, .illegal) ∧ s.syncHere t op pa n v arg cmp f = s.bounds t v) := by
  unfold State.syncHere
  dsimp only
  split
  next h => exact .inl ⟨h, rfl⟩
  refine .inr ?_
  split
  next r w bs h => exact .inl ⟨r, w, bs, h, rfl⟩
  next r h => exact .inr (.inr ⟨r, h, rfl⟩)
  next r a hd hi h =>
    refine .inr (.inl ⟨r, a, h, ?_, rfl⟩)
    cases a with
    | done w bs => exact (hd w bs rfl).elim
    | illegal => exact (hi rfl).elim
    | retry w => exact .inr ⟨w, rfl⟩
    | here => exact .inl rfl

/-! ## Micro-words (R265, R266) -/

/-- A micro-operation finds its word in the running call, and then performs, stops the call with a code, or is held. -/
theorem micro_cases {s s' : State} {f : Call → MicroOp → Option MAct} (h : micro s f = .next s') : ∃ k w a,
    s.unit.running = some k ∧ k.word = some w ∧ f k w = some a ∧
    ((∃ r, a = .ok r ∧ s' = r.modRun fun k => { k with word := none }) ∨
      (∃ c, a = .fault c ∧ s' = s.modRun fun k => { k with word := none, fault := some c }) ∨ a = .hold s') := by
  unfold micro at h
  match hk : s.unit.running with
  | none => simp [hk] at h
  | some k =>
    match hw : k.word with
    | none => simp [hk, hw] at h
    | some w =>
      match hf : f k w with
      | none => simp [hk, hw, hf] at h
      | some a =>
        refine ⟨k, w, a, rfl, hw, hf, ?_⟩
        cases a with
        | ok r => simp only [hk, hw, hf, Option.bind_some, Host.Outcome.next.injEq] at h; exact .inl ⟨r, rfl, h.symm⟩
        | fault c => simp only [hk, hw, hf, Option.bind_some, Host.Outcome.next.injEq] at h; exact .inr (.inl ⟨c, rfl, h.symm⟩)
        | hold r => simp only [hk, hw, hf, Option.bind_some, Host.Outcome.next.injEq] at h; exact .inr (.inr (h ▸ rfl))

end Sys2Proof.Laws
end

