-- ==== Sys2Proof/Laws/PerInstr.lean ====
section
/-!
SUPPORT. Facts that hold of every instruction as syntax, one lemma per constructor. `EncodesWithinFields`: an encoded word leaves the
stop bit clear and its extension fits a header's nine bits (R35, R44, R47).
-/
namespace Sys2Proof.Laws

/-- The word of the instruction, where it has one, fits 31 bits and its extension 9. -/
def EncodesWithinFields.Statement (i : Instr) : Prop := ∀ e, encode i = some e → e.word < 2 ^ 31 ∧ e.ext < 2 ^ 9

/-- Format R keeps within its fields. -/
theorem encR_within {maj d a b op md : Nat} (hm : maj < 63) (hd : d < 128) (ha : a < 128) (hb : b < 128) (ho : op < 64)
    (hmd : md < 16) : ∀ e, some (encR maj d a b op md) = some e → e.word < 2 ^ 31 ∧ e.ext < 2 ^ 9 := by
  rintro _ ⟨⟩
  simp only [encR]
  omega

/-- Format R4 keeps within its fields. -/
theorem encR4_within {d a b c op : Nat} (hd : d < 128) (ha : a < 128) (hb : b < 128) (hc : c < 128) (ho : op < 32) :
    ∀ e, some (encR4 d a b c op) = some e → e.word < 2 ^ 31 ∧ e.ext < 2 ^ 9 := by
  rintro _ ⟨⟩
  simp only [encR4]
  omega

/-- Formats I and B keep within their fields. -/
theorem encI_within {maj d a f3 : Nat} {imm : BitVec 17} (hm : maj < 63) (hd : d < 128) (ha : a < 128) (hf : f3 < 8) :
    ∀ e, some (encI maj d a f3 imm) = some e → e.word < 2 ^ 31 ∧ e.ext < 2 ^ 9 := by
  rintro _ ⟨⟩
  simp only [encI]
  omega

/-- Format I with a raw field keeps within its fields. -/
theorem encI12_within {maj d a f3 imm : Nat} (hm : maj < 63) (hd : d < 128) (ha : a < 128) (hf : f3 < 8) (hi : imm < 4096) :
    ∀ e, some (encI12 maj d a f3 imm) = some e → e.word < 2 ^ 31 ∧ e.ext < 2 ^ 9 := by
  rintro _ ⟨⟩
  simp only [encI12]
  omega

/-- Format U keeps within its fields. -/
theorem encU_within {maj d : Nat} {imm : BitVec 27} (hm : maj < 63) (hd : d < 128) :
    ∀ e, some (encU maj d imm) = some e → e.word < 2 ^ 31 ∧ e.ext < 2 ^ 9 := by
  rintro _ ⟨⟩
  simp only [encU]
  omega

/-- Format J keeps within its fields. -/
theorem encJ_within {l : Nat} {imm : BitVec 33} (hl : l < 2) :
    ∀ e, some (encJ l imm) = some e → e.word < 2 ^ 31 ∧ e.ext < 2 ^ 9 := by
  rintro _ ⟨⟩
  simp only [encJ]
  omega

/-- Format C keeps within its fields. -/
theorem encC_within {i p n r d : Nat} (hi : i < 256) (hp : p < 16) (hn : n < 4) (hr : r < 2) (hd : d < 64) :
    ∀ e, some (encC i p n r d) = some e → e.word < 2 ^ 31 ∧ e.ext < 2 ^ 9 := by
  rintro _ ⟨⟩
  simp only [encC]
  omega

/-- The word of a loop keeps within its fields. -/
theorem encLoop_within {d k : Nat} (hd : d < 128) (hk : k < 1024) :
    ∀ e, some (encLoop d k) = some e → e.word < 2 ^ 31 ∧ e.ext < 2 ^ 9 := by
  rintro _ ⟨⟩
  simp only [encLoop]
  omega

/-- A truth value is a bit. -/
theorem bit_lt_two (b : Bool) : bit b < 2 := by cases b <;> decide

/-- `add`. -/
theorem EncodesWithinFields.add (d : SReg) (a : SReg) (b : SReg) : EncodesWithinFields.Statement (.add d a b) := by apply encR_within <;> omega

/-- `sub`. -/
theorem EncodesWithinFields.sub (d : SReg) (a : SReg) (b : SReg) : EncodesWithinFields.Statement (.sub d a b) := by apply encR_within <;> omega

/-- `mul`. -/
theorem EncodesWithinFields.mul (d : SReg) (a : SReg) (b : SReg) : EncodesWithinFields.Statement (.mul d a b) := by apply encR_within <;> omega

/-- `mulh`. -/
theorem EncodesWithinFields.mulh (d : SReg) (a : SReg) (b : SReg) (u : Bool) : EncodesWithinFields.Statement (.mulh d a b u) := by
  have := bit_lt_two u
  apply encR_within <;> omega

/-- `div`. -/
theorem EncodesWithinFields.div (d : SReg) (a : SReg) (b : SReg) (u : Bool) : EncodesWithinFields.Statement (.div d a b u) := by
  have := bit_lt_two u
  apply encR_within <;> omega

/-- `rem`. -/
theorem EncodesWithinFields.rem (d : SReg) (a : SReg) (b : SReg) (u : Bool) : EncodesWithinFields.Statement (.rem d a b u) := by
  have := bit_lt_two u
  apply encR_within <;> omega

/-- `and`. -/
theorem EncodesWithinFields.and (d : SReg) (a : SReg) (b : SReg) : EncodesWithinFields.Statement (.and d a b) := by apply encR_within <;> omega

/-- `or`. -/
theorem EncodesWithinFields.or (d : SReg) (a : SReg) (b : SReg) : EncodesWithinFields.Statement (.or d a b) := by apply encR_within <;> omega

/-- `xor`. -/
theorem EncodesWithinFields.xor (d : SReg) (a : SReg) (b : SReg) : EncodesWithinFields.Statement (.xor d a b) := by apply encR_within <;> omega

/-- `andn`. -/
theorem EncodesWithinFields.andn (d : SReg) (a : SReg) (b : SReg) : EncodesWithinFields.Statement (.andn d a b) := by apply encR_within <;> omega

/-- `sll`. -/
theorem EncodesWithinFields.sll (d : SReg) (a : SReg) (b : SReg) : EncodesWithinFields.Statement (.sll d a b) := by apply encR_within <;> omega

/-- `srl`. -/
theorem EncodesWithinFields.srl (d : SReg) (a : SReg) (b : SReg) : EncodesWithinFields.Statement (.srl d a b) := by apply encR_within <;> omega

/-- `sra`. -/
theorem EncodesWithinFields.sra (d : SReg) (a : SReg) (b : SReg) : EncodesWithinFields.Statement (.sra d a b) := by apply encR_within <;> omega

/-- `slt`. -/
theorem EncodesWithinFields.slt (d : SReg) (a : SReg) (b : SReg) (u : Bool) : EncodesWithinFields.Statement (.slt d a b u) := by
  have := bit_lt_two u
  apply encR_within <;> omega

/-- `min`. -/
theorem EncodesWithinFields.min (d : SReg) (a : SReg) (b : SReg) (u : Bool) : EncodesWithinFields.Statement (.min d a b u) := by
  have := bit_lt_two u
  apply encR_within <;> omega

/-- `max`. -/
theorem EncodesWithinFields.max (d : SReg) (a : SReg) (b : SReg) (u : Bool) : EncodesWithinFields.Statement (.max d a b u) := by
  have := bit_lt_two u
  apply encR_within <;> omega

/-- `adds`. -/
theorem EncodesWithinFields.adds (d : SReg) (a : SReg) (b : SReg) (u : Bool) : EncodesWithinFields.Statement (.adds d a b u) := by
  have := bit_lt_two u
  apply encR_within <;> omega

/-- `subs`. -/
theorem EncodesWithinFields.subs (d : SReg) (a : SReg) (b : SReg) (u : Bool) : EncodesWithinFields.Statement (.subs d a b u) := by
  have := bit_lt_two u
  apply encR_within <;> omega

/-- `clz`. -/
theorem EncodesWithinFields.clz (d : SReg) (a : SReg) : EncodesWithinFields.Statement (.clz d a) := by apply encR_within <;> omega

/-- `ctz`. -/
theorem EncodesWithinFields.ctz (d : SReg) (a : SReg) : EncodesWithinFields.Statement (.ctz d a) := by apply encR_within <;> omega

/-- `popc`. -/
theorem EncodesWithinFields.popc (d : SReg) (a : SReg) : EncodesWithinFields.Statement (.popc d a) := by apply encR_within <;> omega

/-- `shadd`. -/
theorem EncodesWithinFields.shadd (d : SReg) (a : SReg) (b : SReg) (k : Fin 16) : EncodesWithinFields.Statement (.shadd d a b k) := by apply encR_within <;> omega

/-- `addi`. -/
theorem EncodesWithinFields.addi (d : SReg) (a : SReg) (i : BitVec 17) : EncodesWithinFields.Statement (.addi d a i) := by apply encI_within <;> omega

/-- `andi`. -/
theorem EncodesWithinFields.andi (d : SReg) (a : SReg) (i : BitVec 17) : EncodesWithinFields.Statement (.andi d a i) := by apply encI_within <;> omega

/-- `ori`. -/
theorem EncodesWithinFields.ori (d : SReg) (a : SReg) (i : BitVec 17) : EncodesWithinFields.Statement (.ori d a i) := by apply encI_within <;> omega

/-- `xori`. -/
theorem EncodesWithinFields.xori (d : SReg) (a : SReg) (i : BitVec 17) : EncodesWithinFields.Statement (.xori d a i) := by apply encI_within <;> omega

/-- `slti`. -/
theorem EncodesWithinFields.slti (d : SReg) (a : SReg) (i : BitVec 17) : EncodesWithinFields.Statement (.slti d a i) := by apply encI_within <;> omega

/-- `sltiu`. -/
theorem EncodesWithinFields.sltiu (d : SReg) (a : SReg) (i : BitVec 17) : EncodesWithinFields.Statement (.sltiu d a i) := by apply encI_within <;> omega

/-- `muli`. -/
theorem EncodesWithinFields.muli (d : SReg) (a : SReg) (i : BitVec 17) : EncodesWithinFields.Statement (.muli d a i) := by apply encI_within <;> omega

/-- `seqi`. -/
theorem EncodesWithinFields.seqi (d : SReg) (a : SReg) (i : BitVec 17) : EncodesWithinFields.Statement (.seqi d a i) := by apply encI_within <;> omega

/-- `lui`. -/
theorem EncodesWithinFields.lui (d : SReg) (i : BitVec 27) : EncodesWithinFields.Statement (.lui d i) := by apply encU_within <;> omega

/-- `adrb`. -/
theorem EncodesWithinFields.adrb (d : SReg) (i : BitVec 27) : EncodesWithinFields.Statement (.adrb d i) := by apply encU_within <;> omega

/-- `slli`. -/
theorem EncodesWithinFields.slli (d : SReg) (a : SReg) (n : Fin 64) : EncodesWithinFields.Statement (.slli d a n) := by apply encI12_within <;> omega

/-- `srli`. -/
theorem EncodesWithinFields.srli (d : SReg) (a : SReg) (n : Fin 64) : EncodesWithinFields.Statement (.srli d a n) := by apply encI12_within <;> omega

/-- `srai`. -/
theorem EncodesWithinFields.srai (d : SReg) (a : SReg) (n : Fin 64) : EncodesWithinFields.Statement (.srai d a n) := by apply encI12_within <;> omega

/-- `bfx`. -/
theorem EncodesWithinFields.bfx (d : SReg) (a : SReg) (l : Fin 64) (n : Fin 64) : EncodesWithinFields.Statement (.bfx d a l n) := by apply encI12_within <;> omega

/-- `beq`. -/
theorem EncodesWithinFields.beq (a : SReg) (b : SReg) (i : BitVec 17) : EncodesWithinFields.Statement (.beq a b i) := by apply encI_within <;> omega

/-- `bne`. -/
theorem EncodesWithinFields.bne (a : SReg) (b : SReg) (i : BitVec 17) : EncodesWithinFields.Statement (.bne a b i) := by apply encI_within <;> omega

/-- `blt`. -/
theorem EncodesWithinFields.blt (a : SReg) (b : SReg) (i : BitVec 17) : EncodesWithinFields.Statement (.blt a b i) := by apply encI_within <;> omega

/-- `bge`. -/
theorem EncodesWithinFields.bge (a : SReg) (b : SReg) (i : BitVec 17) : EncodesWithinFields.Statement (.bge a b i) := by apply encI_within <;> omega

/-- `bltu`. -/
theorem EncodesWithinFields.bltu (a : SReg) (b : SReg) (i : BitVec 17) : EncodesWithinFields.Statement (.bltu a b i) := by apply encI_within <;> omega

/-- `bgeu`. -/
theorem EncodesWithinFields.bgeu (a : SReg) (b : SReg) (i : BitVec 17) : EncodesWithinFields.Statement (.bgeu a b i) := by apply encI_within <;> omega

/-- `br`. -/
theorem EncodesWithinFields.br (i : BitVec 33) : EncodesWithinFields.Statement (.br i) := by apply encJ_within <;> omega

/-- `call`. -/
theorem EncodesWithinFields.call (i : BitVec 33) : EncodesWithinFields.Statement (.call i) := by apply encJ_within <;> omega

/-- `jr`. -/
theorem EncodesWithinFields.jr (a : SReg) : EncodesWithinFields.Statement (.jr a) := by apply encR_within <;> omega

/-- `callr`. -/
theorem EncodesWithinFields.callr (d : SReg) (a : SReg) (c : Fin 16) : EncodesWithinFields.Statement (.callr d a c) := by apply encR_within <;> omega

/-- `loop`. -/
theorem EncodesWithinFields.loop (d : SReg) (i : Fin 1024) : EncodesWithinFields.Statement (.loop d i) := by apply encLoop_within <;> omega

/-- `ret`. -/
theorem EncodesWithinFields.ret (a : SReg) : EncodesWithinFields.Statement (.ret a) := by apply encR_within <;> omega

/-- `kand`. -/
theorem EncodesWithinFields.kand (d : KReg) (a : KReg) (b : KReg) : EncodesWithinFields.Statement (.kand d a b) := by apply encR_within <;> omega

/-- `kor`. -/
theorem EncodesWithinFields.kor (d : KReg) (a : KReg) (b : KReg) : EncodesWithinFields.Statement (.kor d a b) := by apply encR_within <;> omega

/-- `kxor`. -/
theorem EncodesWithinFields.kxor (d : KReg) (a : KReg) (b : KReg) : EncodesWithinFields.Statement (.kxor d a b) := by apply encR_within <;> omega

/-- `kandn`. -/
theorem EncodesWithinFields.kandn (d : KReg) (a : KReg) (b : KReg) : EncodesWithinFields.Statement (.kandn d a b) := by apply encR_within <;> omega

/-- `kset`. -/
theorem EncodesWithinFields.kset (d : KReg) (a : SReg) : EncodesWithinFields.Statement (.kset d a) := by apply encR_within <;> omega

/-- `kcnt`. -/
theorem EncodesWithinFields.kcnt (d : SReg) (a : KReg) : EncodesWithinFields.Statement (.kcnt d a) := by apply encR_within <;> omega

/-- `kfind`. -/
theorem EncodesWithinFields.kfind (d : SReg) (a : KReg) : EncodesWithinFields.Statement (.kfind d a) := by apply encR_within <;> omega

/-- `rdc`. -/
theorem EncodesWithinFields.rdc (d : SReg) (n : BitVec 12) : EncodesWithinFields.Statement (.rdc d n) := by apply encI12_within <;> omega

/-- `wrc`. -/
theorem EncodesWithinFields.wrc (a : SReg) (n : BitVec 12) : EncodesWithinFields.Statement (.wrc a n) := by apply encI12_within <;> omega

/-- `setc`. -/
theorem EncodesWithinFields.setc (d : SReg) (a : SReg) (n : BitVec 12) : EncodesWithinFields.Statement (.setc d a n) := by apply encI12_within <;> omega

/-- `clrc`. -/
theorem EncodesWithinFields.clrc (d : SReg) (a : SReg) (n : BitVec 12) : EncodesWithinFields.Statement (.clrc d a n) := by apply encI12_within <;> omega

/-- `xchc`. -/
theorem EncodesWithinFields.xchc (d : SReg) (a : SReg) (n : BitVec 12) : EncodesWithinFields.Statement (.xchc d a n) := by apply encI12_within <;> omega

/-- `addc`. -/
theorem EncodesWithinFields.addc (d : SReg) (a : SReg) (n : BitVec 12) : EncodesWithinFields.Statement (.addc d a n) := by apply encI12_within <;> omega

/-- `rdcz`. -/
theorem EncodesWithinFields.rdcz (d : SReg) (n : BitVec 12) : EncodesWithinFields.Statement (.rdcz d n) := by apply encI12_within <;> omega

/-- `rdcr`. -/
theorem EncodesWithinFields.rdcr (d : SReg) (a : SReg) : EncodesWithinFields.Statement (.rdcr d a) := by apply encI12_within <;> omega

/-- `writeCVl`. -/
theorem EncodesWithinFields.writeCVl (a : SReg) : EncodesWithinFields.Statement (.writeCVl a) := by apply encI12_within <;> omega

/-- `writeCPri`. -/
theorem EncodesWithinFields.writeCPri (a : SReg) : EncodesWithinFields.Statement (.writeCPri a) := by apply encI12_within <;> omega

/-- `tlbinvPage`. -/
theorem EncodesWithinFields.tlbinvPage (a : SReg) (b : SReg) (z : Fin 4) : EncodesWithinFields.Statement (.tlbinvPage a b z) := by apply encR_within <;> omega

/-- `tlbinvCtx`. -/
theorem EncodesWithinFields.tlbinvCtx (b : SReg) : EncodesWithinFields.Statement (.tlbinvCtx b) := by apply encR_within <;> omega

/-- `rgsyncWb`. -/
theorem EncodesWithinFields.rgsyncWb (a : SReg) (b : SReg) : EncodesWithinFields.Statement (.rgsyncWb a b) := by apply encR_within <;> omega

/-- `rgsyncFill`. -/
theorem EncodesWithinFields.rgsyncFill (a : SReg) (b : SReg) : EncodesWithinFields.Statement (.rgsyncFill a b) := by apply encR_within <;> omega

/-- `rgsyncEvict`. -/
theorem EncodesWithinFields.rgsyncEvict (a : SReg) (b : SReg) : EncodesWithinFields.Statement (.rgsyncEvict a b) := by apply encR_within <;> omega

/-- `rgsyncDiscard`. -/
theorem EncodesWithinFields.rgsyncDiscard (a : SReg) (b : SReg) : EncodesWithinFields.Statement (.rgsyncDiscard a b) := by apply encR_within <;> omega

/-- `phase`. -/
theorem EncodesWithinFields.phase (d : SReg) : EncodesWithinFields.Statement (.phase d) := by apply encR_within <;> omega

/-- `phaseC`. -/
theorem EncodesWithinFields.phaseC (d : SReg) : EncodesWithinFields.Statement (.phaseC d) := by apply encR_within <;> omega

/-- `phleft`. -/
theorem EncodesWithinFields.phleft (d : SReg) : EncodesWithinFields.Statement (.phleft d) := by apply encR_within <;> omega

/-- `phuntil`. -/
theorem EncodesWithinFields.phuntil (d : SReg) (a : SReg) : EncodesWithinFields.Statement (.phuntil d a) := by apply encR_within <;> omega

/-- `spawn`. -/
theorem EncodesWithinFields.spawn (a : SReg) : EncodesWithinFields.Statement (.spawn a) := by apply encR_within <;> omega

/-- `spawnt`. -/
theorem EncodesWithinFields.spawnt (a : SReg) (b : SReg) : EncodesWithinFields.Statement (.spawnt a b) := by apply encR_within <;> omega

/-- `join`. -/
theorem EncodesWithinFields.join (d : SReg) (a : SReg) : EncodesWithinFields.Statement (.join d a) := by apply encR_within <;> omega

/-- `grow`. -/
theorem EncodesWithinFields.grow (d : SReg) (a : SReg) : EncodesWithinFields.Statement (.grow d a) := by apply encR_within <;> omega

/-- `tendj`. -/
theorem EncodesWithinFields.tendj (a : SReg) : EncodesWithinFields.Statement (.tendj a) := by apply encR_within <;> omega

/-- `launch`. -/
theorem EncodesWithinFields.launch (d : SReg) (a : SReg) (b : SReg) : EncodesWithinFields.Statement (.launch d a b) := by apply encR_within <;> omega

/-- `trap`. -/
theorem EncodesWithinFields.trap (n : Fin 16) : EncodesWithinFields.Statement (.trap n) := by apply encR_within <;> omega

/-- `ckpt`. -/
theorem EncodesWithinFields.ckpt (a : SReg) : EncodesWithinFields.Statement (.ckpt a) := by apply encR_within <;> omega

/-- `fqwait`. -/
theorem EncodesWithinFields.fqwait (d : SReg) : EncodesWithinFields.Statement (.fqwait d) := by apply encR_within <;> omega

/-- `fqpop`. -/
theorem EncodesWithinFields.fqpop (d : SReg) (a : SReg) (b : SReg) : EncodesWithinFields.Statement (.fqpop d a b) := by apply encR_within <;> omega

/-- `ctxkill`. -/
theorem EncodesWithinFields.ctxkill (a : SReg) : EncodesWithinFields.Statement (.ctxkill a) := by apply encR_within <;> omega

/-- `ctxrel`. -/
theorem EncodesWithinFields.ctxrel (a : SReg) : EncodesWithinFields.Statement (.ctxrel a) := by apply encR_within <;> omega

/-- `vadd`. -/
theorem EncodesWithinFields.vadd (d : VReg) (a : VReg) (b : VReg) (t : Fin 16) : EncodesWithinFields.Statement (.vadd d a b t) := by apply encR_within <;> omega

/-- `vadds`. -/
theorem EncodesWithinFields.vadds (d : VReg) (a : VReg) (b : VReg) (t : Fin 16) : EncodesWithinFields.Statement (.vadds d a b t) := by apply encR_within <;> omega

/-- `vsub`. -/
theorem EncodesWithinFields.vsub (d : VReg) (a : VReg) (b : VReg) (t : Fin 16) : EncodesWithinFields.Statement (.vsub d a b t) := by apply encR_within <;> omega

/-- `vsubs`. -/
theorem EncodesWithinFields.vsubs (d : VReg) (a : VReg) (b : VReg) (t : Fin 16) : EncodesWithinFields.Statement (.vsubs d a b t) := by apply encR_within <;> omega

/-- `vmul`. -/
theorem EncodesWithinFields.vmul (d : VReg) (a : VReg) (b : VReg) (t : Fin 16) : EncodesWithinFields.Statement (.vmul d a b t) := by apply encR_within <;> omega

/-- `vmulh`. -/
theorem EncodesWithinFields.vmulh (d : VReg) (a : VReg) (b : VReg) (t : Fin 16) : EncodesWithinFields.Statement (.vmulh d a b t) := by apply encR_within <;> omega

/-- `vmin`. -/
theorem EncodesWithinFields.vmin (d : VReg) (a : VReg) (b : VReg) (t : Fin 16) : EncodesWithinFields.Statement (.vmin d a b t) := by apply encR_within <;> omega

/-- `vmax`. -/
theorem EncodesWithinFields.vmax (d : VReg) (a : VReg) (b : VReg) (t : Fin 16) : EncodesWithinFields.Statement (.vmax d a b t) := by apply encR_within <;> omega

/-- `vand`. -/
theorem EncodesWithinFields.vand (d : VReg) (a : VReg) (b : VReg) (t : Fin 16) : EncodesWithinFields.Statement (.vand d a b t) := by apply encR_within <;> omega

/-- `vor`. -/
theorem EncodesWithinFields.vor (d : VReg) (a : VReg) (b : VReg) (t : Fin 16) : EncodesWithinFields.Statement (.vor d a b t) := by apply encR_within <;> omega

/-- `vxor`. -/
theorem EncodesWithinFields.vxor (d : VReg) (a : VReg) (b : VReg) (t : Fin 16) : EncodesWithinFields.Statement (.vxor d a b t) := by apply encR_within <;> omega

/-- `vsll`. -/
theorem EncodesWithinFields.vsll (d : VReg) (a : VReg) (b : VReg) (t : Fin 16) : EncodesWithinFields.Statement (.vsll d a b t) := by apply encR_within <;> omega

/-- `vsr`. -/
theorem EncodesWithinFields.vsr (d : VReg) (a : VReg) (b : VReg) (t : Fin 16) : EncodesWithinFields.Statement (.vsr d a b t) := by apply encR_within <;> omega

/-- `vcmp`. -/
theorem EncodesWithinFields.vcmp (c : Fin 4) (k : KReg) (a : VReg) (b : VReg) (t : Fin 16) : EncodesWithinFields.Statement (.vcmp c k a b t) := by apply encR_within <;> omega

/-- `vsplat`. -/
theorem EncodesWithinFields.vsplat (d : VReg) (a : SReg) (t : Fin 16) : EncodesWithinFields.Statement (.vsplat d a t) := by apply encR_within <;> omega

/-- `vmvs`. -/
theorem EncodesWithinFields.vmvs (d : SReg) (a : VReg) (b : SReg) (t : Fin 16) : EncodesWithinFields.Statement (.vmvs d a b t) := by apply encR_within <;> omega

/-- `vfadd`. -/
theorem EncodesWithinFields.vfadd (d : VReg) (a : VReg) (b : VReg) (t : Fin 4) (r : Fin 4) : EncodesWithinFields.Statement (.vfadd d a b t r) := by apply encR_within <;> omega

/-- `vfsub`. -/
theorem EncodesWithinFields.vfsub (d : VReg) (a : VReg) (b : VReg) (t : Fin 4) (r : Fin 4) : EncodesWithinFields.Statement (.vfsub d a b t r) := by apply encR_within <;> omega

/-- `vfmul`. -/
theorem EncodesWithinFields.vfmul (d : VReg) (a : VReg) (b : VReg) (t : Fin 4) (r : Fin 4) : EncodesWithinFields.Statement (.vfmul d a b t r) := by apply encR_within <;> omega

/-- `vfdiv`. -/
theorem EncodesWithinFields.vfdiv (d : VReg) (a : VReg) (b : VReg) (t : Fin 4) (r : Fin 4) : EncodesWithinFields.Statement (.vfdiv d a b t r) := by apply encR_within <;> omega

/-- `vfsqrt`. -/
theorem EncodesWithinFields.vfsqrt (d : VReg) (a : VReg) (k : KReg) (t : Fin 4) (r : Fin 4) : EncodesWithinFields.Statement (.vfsqrt d a k t r) := by apply encR_within <;> omega

/-- `vfrsqrt`. -/
theorem EncodesWithinFields.vfrsqrt (d : VReg) (a : VReg) (k : KReg) (t : Fin 4) (r : Fin 4) : EncodesWithinFields.Statement (.vfrsqrt d a k t r) := by apply encR_within <;> omega

/-- `vfmin`. -/
theorem EncodesWithinFields.vfmin (d : VReg) (a : VReg) (b : VReg) (t : Fin 4) : EncodesWithinFields.Statement (.vfmin d a b t) := by apply encR_within <;> omega

/-- `vfmax`. -/
theorem EncodesWithinFields.vfmax (d : VReg) (a : VReg) (b : VReg) (t : Fin 4) : EncodesWithinFields.Statement (.vfmax d a b t) := by apply encR_within <;> omega

/-- `vfabs`. -/
theorem EncodesWithinFields.vfabs (d : VReg) (a : VReg) (k : KReg) (t : Fin 4) : EncodesWithinFields.Statement (.vfabs d a k t) := by apply encR_within <;> omega

/-- `vfneg`. -/
theorem EncodesWithinFields.vfneg (d : VReg) (a : VReg) (k : KReg) (t : Fin 4) : EncodesWithinFields.Statement (.vfneg d a k t) := by apply encR_within <;> omega

/-- `vfcmp`. -/
theorem EncodesWithinFields.vfcmp (c : Fin 4) (k : KReg) (a : VReg) (b : VReg) (t : Fin 4) : EncodesWithinFields.Statement (.vfcmp c k a b t) := by apply encR_within <;> omega

/-- `vfsplat`. -/
theorem EncodesWithinFields.vfsplat (d : VReg) (a : SReg) (t : Fin 4) (r : Fin 4) : EncodesWithinFields.Statement (.vfsplat d a t r) := by apply encR_within <;> omega

/-- `vfscl`. -/
theorem EncodesWithinFields.vfscl (d : VReg) (a : VReg) (b : VReg) (t : Fin 4) (r : Fin 4) : EncodesWithinFields.Statement (.vfscl d a b t r) := by apply encR_within <;> omega

/-- `vfsgnj`. -/
theorem EncodesWithinFields.vfsgnj (d : VReg) (a : VReg) (b : VReg) (t : Fin 4) : EncodesWithinFields.Statement (.vfsgnj d a b t) := by apply encR_within <;> omega

/-- `vfmaF32`. -/
theorem EncodesWithinFields.vfmaF32 (d : VReg) (a : VReg) (b : VReg) (c : VReg) : EncodesWithinFields.Statement (.vfmaF32 d a b c) := by apply encR4_within <;> omega

/-- `vfnmaF32`. -/
theorem EncodesWithinFields.vfnmaF32 (d : VReg) (a : VReg) (b : VReg) (c : VReg) : EncodesWithinFields.Statement (.vfnmaF32 d a b c) := by apply encR4_within <;> omega

/-- `vfmaBf16`. -/
theorem EncodesWithinFields.vfmaBf16 (d : VReg) (a : VReg) (b : VReg) (c : VReg) : EncodesWithinFields.Statement (.vfmaBf16 d a b c) := by apply encR4_within <;> omega

/-- `vfmaF16`. -/
theorem EncodesWithinFields.vfmaF16 (d : VReg) (a : VReg) (b : VReg) (c : VReg) : EncodesWithinFields.Statement (.vfmaF16 d a b c) := by apply encR4_within <;> omega

/-- `vfmawBf16`. -/
theorem EncodesWithinFields.vfmawBf16 (d : VReg) (a : VReg) (b : VReg) (c : VReg) : EncodesWithinFields.Statement (.vfmawBf16 d a b c) := by apply encR4_within <;> omega

/-- `vsel`. -/
theorem EncodesWithinFields.vsel (d : VReg) (a : VReg) (b : VReg) (w : Fin 4) (k : KReg) : EncodesWithinFields.Statement (.vsel d a b w k) := by apply encR4_within <;> omega

/-- `vcvt`. -/
theorem EncodesWithinFields.vcvt (d : VReg) (a : VReg) (q : Fin 16) (t : Fin 16) : EncodesWithinFields.Statement (.vcvt d a q t) := by apply encR_within <;> omega

/-- `vbmax`. -/
theorem EncodesWithinFields.vbmax (d : VReg) (a : VReg) (f : Fin 16) (t : Fin 4) : EncodesWithinFields.Statement (.vbmax d a f t) := by apply encR_within <;> omega

/-- `vqnt`. -/
theorem EncodesWithinFields.vqnt (d : VReg) (a : VReg) (f : Fin 16) (t : Fin 4) (o : Fin 4) : EncodesWithinFields.Statement (.vqnt d a f t o) := by apply encR_within <;> omega

/-- `vdqnt`. -/
theorem EncodesWithinFields.vdqnt (d : VReg) (a : VReg) (t : Fin 16) : EncodesWithinFields.Statement (.vdqnt d a t) := by apply encR_within <;> omega

/-- `vhad`. -/
theorem EncodesWithinFields.vhad (d : VReg) (a : VReg) (t : Fin 4) (g : Fin 4) : EncodesWithinFields.Statement (.vhad d a t g) := by apply encR_within <;> omega

/-- `vfrnd`. -/
theorem EncodesWithinFields.vfrnd (d : VReg) (a : VReg) (k : KReg) (t : Fin 4) (r : Fin 4) : EncodesWithinFields.Statement (.vfrnd d a k t r) := by apply encR_within <;> omega

/-- `vbhdr`. -/
theorem EncodesWithinFields.vbhdr (d : VReg) (a : VReg) : EncodesWithinFields.Statement (.vbhdr d a) := by apply encR_within <;> omega

/-- `vfexp2`. -/
theorem EncodesWithinFields.vfexp2 (d : VReg) (a : VReg) (k : KReg) (t : Fin 4) (r : Fin 4) : EncodesWithinFields.Statement (.vfexp2 d a k t r) := by apply encR_within <;> omega

/-- `vperm`. -/
theorem EncodesWithinFields.vperm (d : VReg) (a : VReg) (b : VReg) (t : Fin 16) : EncodesWithinFields.Statement (.vperm d a b t) := by apply encR_within <;> omega

/-- `vslideup`. -/
theorem EncodesWithinFields.vslideup (d : VReg) (a : VReg) (b : SReg) (t : Fin 16) : EncodesWithinFields.Statement (.vslideup d a b t) := by apply encR_within <;> omega

/-- `vslidedn`. -/
theorem EncodesWithinFields.vslidedn (d : VReg) (a : VReg) (b : SReg) (t : Fin 16) : EncodesWithinFields.Statement (.vslidedn d a b t) := by apply encR_within <;> omega

/-- `vred`. -/
theorem EncodesWithinFields.vred (d : SReg) (a : VReg) (o : Fin 4) (k : KReg) (t : Fin 16) : EncodesWithinFields.Statement (.vred d a o k t) := by apply encR_within <;> omega

/-- `vscan`. -/
theorem EncodesWithinFields.vscan (d : VReg) (a : VReg) (o : Fin 4) (k : KReg) (t : Fin 16) : EncodesWithinFields.Statement (.vscan d a o k t) := by apply encR_within <;> omega

/-- `vidx`. -/
theorem EncodesWithinFields.vidx (d : VReg) (t : Fin 16) : EncodesWithinFields.Statement (.vidx d t) := by apply encR_within <;> omega

/-- `tdef`. -/
theorem EncodesWithinFields.tdef (d : TReg) (a : SReg) : EncodesWithinFields.Statement (.tdef d a) := by apply encR_within <;> omega

/-- `tzero`. -/
theorem EncodesWithinFields.tzero (d : TReg) : EncodesWithinFields.Statement (.tzero d) := by apply encR_within <;> omega

/-- `ttrn`. -/
theorem EncodesWithinFields.ttrn (d : TReg) (a : TReg) : EncodesWithinFields.Statement (.ttrn d a) := by apply encR_within <;> omega

/-- `tcvt`. -/
theorem EncodesWithinFields.tcvt (d : TReg) (a : TReg) : EncodesWithinFields.Statement (.tcvt d a) := by apply encR_within <;> omega

/-- `tgetr`. -/
theorem EncodesWithinFields.tgetr (d : VReg) (a : TReg) (b : SReg) : EncodesWithinFields.Statement (.tgetr d a b) := by apply encR_within <;> omega

/-- `tputr`. -/
theorem EncodesWithinFields.tputr (d : TReg) (a : VReg) (b : SReg) : EncodesWithinFields.Statement (.tputr d a b) := by apply encR_within <;> omega

/-- `mgset`. -/
theorem EncodesWithinFields.mgset (a : SReg) : EncodesWithinFields.Statement (.mgset a) := by apply encR_within <;> omega

/-- `mgoff`. -/
theorem EncodesWithinFields.mgoff (d : OReg) (a : SReg) : EncodesWithinFields.Statement (.mgoff d a) := by apply encR_within <;> omega

/-- `mgget`. -/
theorem EncodesWithinFields.mgget (d : SReg) (a : OReg) : EncodesWithinFields.Statement (.mgget d a) := by apply encR_within <;> omega

/-- `mggetN`. -/
theorem EncodesWithinFields.mggetN (d : SReg) : EncodesWithinFields.Statement (.mggetN d) := by apply encR_within <;> omega

/-- `mcall`. -/
theorem EncodesWithinFields.mcall (i : Fin 256) (p : Fin 16) (w : Fin 4) (d : SReg) : EncodesWithinFields.Statement (.mcall i p w d) := by apply encC_within <;> omega

/-- `mcallRty`. -/
theorem EncodesWithinFields.mcallRty (i : Fin 256) (p : Fin 16) (w : Fin 4) (d : SReg) : EncodesWithinFields.Statement (.mcallRty i p w d) := by apply encC_within <;> omega

/-- `mmodeS`. -/
theorem EncodesWithinFields.mmodeS (a : SReg) : EncodesWithinFields.Statement (.mmodeS a) := by apply encR_within <;> omega

/-- `mmodeC`. -/
theorem EncodesWithinFields.mmodeC (a : SReg) : EncodesWithinFields.Statement (.mmodeC a) := by apply encR_within <;> omega

/-- `mmodeRd`. -/
theorem EncodesWithinFields.mmodeRd (d : SReg) : EncodesWithinFields.Statement (.mmodeRd d) := by apply encR_within <;> omega

/-- `mcal`. -/
theorem EncodesWithinFields.mcal (a : SReg) : EncodesWithinFields.Statement (.mcal a) := by apply encR_within <;> omega

/-- `mcalRd`. -/
theorem EncodesWithinFields.mcalRd (d : SReg) (a : SReg) : EncodesWithinFields.Statement (.mcalRd d a) := by apply encR_within <;> omega

/-- `mdescRd`. -/
theorem EncodesWithinFields.mdescRd (d : SReg) (a : SReg) : EncodesWithinFields.Statement (.mdescRd d a) := by apply encR_within <;> omega

/-- `mdescWr`. -/
theorem EncodesWithinFields.mdescWr (a : SReg) (b : SReg) : EncodesWithinFields.Statement (.mdescWr a b) := by apply encR_within <;> omega

/-- `mpw`. -/
theorem EncodesWithinFields.mpw (d : MReg) (a : SReg) : EncodesWithinFields.Statement (.mpw d a) := by apply encR_within <;> omega

/-- `mpr`. -/
theorem EncodesWithinFields.mpr (d : SReg) (a : MReg) : EncodesWithinFields.Statement (.mpr d a) := by apply encR_within <;> omega

/-- `mucw`. -/
theorem EncodesWithinFields.mucw (a : SReg) (b : SReg) : EncodesWithinFields.Statement (.mucw a b) := by apply encR_within <;> omega

/-- `mucr`. -/
theorem EncodesWithinFields.mucr (d : SReg) (a : SReg) : EncodesWithinFields.Statement (.mucr d a) := by apply encR_within <;> omega

/-- `mstat`. -/
theorem EncodesWithinFields.mstat (d : SReg) (a : SReg) : EncodesWithinFields.Statement (.mstat d a) := by apply encR_within <;> omega

/-- `mstatClip`. -/
theorem EncodesWithinFields.mstatClip (d : SReg) (a : SReg) (b : SReg) : EncodesWithinFields.Statement (.mstatClip d a b) := by apply encR_within <;> omega

/-- `mcwait`. -/
theorem EncodesWithinFields.mcwait (a : SReg) : EncodesWithinFields.Statement (.mcwait a) := by apply encR_within <;> omega

/-- `mdrainA`. -/
theorem EncodesWithinFields.mdrainA (d : VReg) (a : SReg) : EncodesWithinFields.Statement (.mdrainA d a) := by apply encR_within <;> omega

/-- `mdrainB`. -/
theorem EncodesWithinFields.mdrainB (d : VReg) (a : SReg) : EncodesWithinFields.Statement (.mdrainB d a) := by apply encR_within <;> omega

/-- `mdrainU`. -/
theorem EncodesWithinFields.mdrainU (d : VReg) : EncodesWithinFields.Statement (.mdrainU d) := by apply encR_within <;> omega

/-- `mrestA`. -/
theorem EncodesWithinFields.mrestA (d : VReg) (a : SReg) : EncodesWithinFields.Statement (.mrestA d a) := by apply encR_within <;> omega

/-- `mrestB`. -/
theorem EncodesWithinFields.mrestB (d : VReg) (a : SReg) : EncodesWithinFields.Statement (.mrestB d a) := by apply encR_within <;> omega

/-- `mrestU`. -/
theorem EncodesWithinFields.mrestU (d : VReg) : EncodesWithinFields.Statement (.mrestU d) := by apply encR_within <;> omega

/-- `mzero`. -/
theorem EncodesWithinFields.mzero (a : SReg) : EncodesWithinFields.Statement (.mzero a) := by apply encR_within <;> omega

/-- `mtacc`. -/
theorem EncodesWithinFields.mtacc (d : SReg) (a : SReg) (b : SReg) : EncodesWithinFields.Statement (.mtacc d a b) := by apply encR_within <;> omega

/-- `ldScalar`. -/
theorem EncodesWithinFields.ldScalar (d : SReg) (a : BReg) (i : BitVec 17) : EncodesWithinFields.Statement (.ldScalar d a i) := by apply encI_within <;> omega

/-- `stScalar`. -/
theorem EncodesWithinFields.stScalar (d : SReg) (a : BReg) (i : BitVec 17) : EncodesWithinFields.Statement (.stScalar d a i) := by apply encI_within <;> omega

/-- `ldVector`. -/
theorem EncodesWithinFields.ldVector (d : VReg) (a : BReg) (i : BitVec 17) : EncodesWithinFields.Statement (.ldVector d a i) := by apply encI_within <;> omega

/-- `stVector`. -/
theorem EncodesWithinFields.stVector (d : VReg) (a : BReg) (i : BitVec 17) : EncodesWithinFields.Statement (.stVector d a i) := by apply encI_within <;> omega

/-- `ldw`. -/
theorem EncodesWithinFields.ldw (d : VReg) (a : BReg) (i : BitVec 17) : EncodesWithinFields.Statement (.ldw d a i) := by apply encI_within <;> omega

/-- `stw`. -/
theorem EncodesWithinFields.stw (d : VReg) (a : BReg) (i : BitVec 17) : EncodesWithinFields.Statement (.stw d a i) := by apply encI_within <;> omega

/-- `ldrec`. -/
theorem EncodesWithinFields.ldrec (d : RecReg) (a : SReg) (i : BitVec 17) : EncodesWithinFields.Statement (.ldrec d a i) := by apply encI_within <;> omega

/-- `strec`. -/
theorem EncodesWithinFields.strec (d : RecReg) (a : SReg) (i : BitVec 17) : EncodesWithinFields.Statement (.strec d a i) := by apply encI_within <;> omega

/-- `ldScalarX`. -/
theorem EncodesWithinFields.ldScalarX (d : SReg) (a : BReg) (x : SReg) (f : Fin 16) : EncodesWithinFields.Statement (.ldScalarX d a x f) := by apply encR_within <;> omega

/-- `stScalarX`. -/
theorem EncodesWithinFields.stScalarX (d : SReg) (a : BReg) (x : SReg) (f : Fin 16) : EncodesWithinFields.Statement (.stScalarX d a x f) := by apply encR_within <;> omega

/-- `ldVectorX`. -/
theorem EncodesWithinFields.ldVectorX (d : VReg) (a : BReg) (x : SReg) (f : Fin 16) : EncodesWithinFields.Statement (.ldVectorX d a x f) := by apply encR_within <;> omega

/-- `stVectorX`. -/
theorem EncodesWithinFields.stVectorX (d : VReg) (a : BReg) (x : SReg) (f : Fin 16) : EncodesWithinFields.Statement (.stVectorX d a x f) := by apply encR_within <;> omega

/-- `ldwX`. -/
theorem EncodesWithinFields.ldwX (d : VReg) (a : BReg) (x : SReg) (f : Fin 16) : EncodesWithinFields.Statement (.ldwX d a x f) := by apply encR_within <;> omega

/-- `stwX`. -/
theorem EncodesWithinFields.stwX (d : VReg) (a : BReg) (x : SReg) (f : Fin 16) : EncodesWithinFields.Statement (.stwX d a x f) := by apply encR_within <;> omega

/-- `ldg`. -/
theorem EncodesWithinFields.ldg (d : VReg) (a : BReg) (x : VReg) (k : KReg) : EncodesWithinFields.Statement (.ldg d a x k) := by apply encR_within <;> omega

/-- `stg`. -/
theorem EncodesWithinFields.stg (d : VReg) (a : BReg) (x : VReg) (k : KReg) : EncodesWithinFields.Statement (.stg d a x k) := by apply encR_within <;> omega

/-- `ldf`. -/
theorem EncodesWithinFields.ldf (d : SReg) (a : SReg) (i : BitVec 17) : EncodesWithinFields.Statement (.ldf d a i) := by apply encI_within <;> omega

/-- `ldfp`. -/
theorem EncodesWithinFields.ldfp (d : SReg) (a : SReg) (i : BitVec 17) : EncodesWithinFields.Statement (.ldfp d a i) := by apply encI_within <;> omega

/-- `stf`. -/
theorem EncodesWithinFields.stf (d : SReg) (a : SReg) (i : BitVec 17) : EncodesWithinFields.Statement (.stf d a i) := by apply encI_within <;> omega

/-- `tagrd`. -/
theorem EncodesWithinFields.tagrd (d : SReg) (a : SReg) (i : BitVec 17) : EncodesWithinFields.Statement (.tagrd d a i) := by apply encI_within <;> omega

/-- `tagwF`. -/
theorem EncodesWithinFields.tagwF (d : SReg) (a : SReg) : EncodesWithinFields.Statement (.tagwF d a) := by apply encI12_within <;> omega

/-- `tagwE`. -/
theorem EncodesWithinFields.tagwE (d : SReg) (a : SReg) : EncodesWithinFields.Statement (.tagwE d a) := by apply encI12_within <;> omega

/-- `racqW`. -/
theorem EncodesWithinFields.racqW (d : SReg) (n : Fin 16) : EncodesWithinFields.Statement (.racqW d n) := by apply encI12_within <;> omega

/-- `racqR`. -/
theorem EncodesWithinFields.racqR (d : SReg) (n : Fin 16) : EncodesWithinFields.Statement (.racqR d n) := by apply encI12_within <;> omega

/-- `rrelW`. -/
theorem EncodesWithinFields.rrelW (n : Fin 16) : EncodesWithinFields.Statement (.rrelW n) := by apply encI12_within <;> omega

/-- `rrelR`. -/
theorem EncodesWithinFields.rrelR (n : Fin 16) : EncodesWithinFields.Statement (.rrelR n) := by apply encI12_within <;> omega

/-- `stfx`. -/
theorem EncodesWithinFields.stfx (d : SReg) (a : SReg) (i : BitVec 17) : EncodesWithinFields.Statement (.stfx d a i) := by apply encI_within <;> omega

/-- `cpy`. -/
theorem EncodesWithinFields.cpy (d : RecReg) (a : RecReg) (b : SReg) (e : Bool) : EncodesWithinFields.Statement (.cpy d a b e) := by
  have := bit_lt_two e
  apply encR_within <;> omega

/-- `cpyg`. -/
theorem EncodesWithinFields.cpyg (d : SReg) (e : Bool) : EncodesWithinFields.Statement (.cpyg d e) := by
  have := bit_lt_two e
  apply encR_within <;> omega

/-- `cpyc`. -/
theorem EncodesWithinFields.cpyc (e : Bool) : EncodesWithinFields.Statement (.cpyc e) := by
  have := bit_lt_two e
  apply encR_within <;> omega

/-- `cpyr`. -/
theorem EncodesWithinFields.cpyr (e : Bool) (o : Fin 4) : EncodesWithinFields.Statement (.cpyr e o) := by
  have := bit_lt_two e
  apply encR_within <;> omega

/-- `cpys`. -/
theorem EncodesWithinFields.cpys (a : SReg) (b : SReg) (e : Bool) (z : Fin 8) : EncodesWithinFields.Statement (.cpys a b e z) := by
  have := bit_lt_two e
  apply encR_within <;> omega

/-- `ctabw`. -/
theorem EncodesWithinFields.ctabw (a : SReg) (b : SReg) : EncodesWithinFields.Statement (.ctabw a b) := by apply encR_within <;> omega

/-- `recw`. -/
theorem EncodesWithinFields.recw (d : RecReg) (a : SReg) (w : Fin 16) : EncodesWithinFields.Statement (.recw d a w) := by apply encR_within <;> omega

/-- `recr`. -/
theorem EncodesWithinFields.recr (d : SReg) (a : RecReg) (w : Fin 16) : EncodesWithinFields.Statement (.recr d a w) := by apply encR_within <;> omega

/-- `cpyxStat`. -/
theorem EncodesWithinFields.cpyxStat (d : SReg) (e : Bool) : EncodesWithinFields.Statement (.cpyxStat d e) := by
  have := bit_lt_two e
  apply encR_within <;> omega

/-- `cpyxResume`. -/
theorem EncodesWithinFields.cpyxResume (a : SReg) (b : SReg) : EncodesWithinFields.Statement (.cpyxResume a b) := by apply encR_within <;> omega

/-- `cpyxAbort`. -/
theorem EncodesWithinFields.cpyxAbort (a : SReg) : EncodesWithinFields.Statement (.cpyxAbort a) := by apply encR_within <;> omega

/-- `xfer`. -/
theorem EncodesWithinFields.xfer (d : VReg) (a : SReg) (b : SReg) (e : Bool) (z : Fin 8) : EncodesWithinFields.Statement (.xfer d a b e z) := by
  have := bit_lt_two e
  apply encR_within <;> omega

/-- `xredAdd`. -/
theorem EncodesWithinFields.xredAdd (d : VReg) (a : SReg) (b : SReg) (t : Fin 16) : EncodesWithinFields.Statement (.xredAdd d a b t) := by apply encR_within <;> omega

/-- `xredMax`. -/
theorem EncodesWithinFields.xredMax (d : VReg) (a : SReg) (b : SReg) (t : Fin 16) : EncodesWithinFields.Statement (.xredMax d a b t) := by apply encR_within <;> omega

/-- `xredMin`. -/
theorem EncodesWithinFields.xredMin (d : VReg) (a : SReg) (b : SReg) (t : Fin 16) : EncodesWithinFields.Statement (.xredMin d a b t) := by apply encR_within <;> omega

/-- `xsig`. -/
theorem EncodesWithinFields.xsig (a : SReg) (b : SReg) (e : Bool) (z : Fin 8) : EncodesWithinFields.Statement (.xsig a b e z) := by
  have := bit_lt_two e
  apply encR_within <;> omega

/-- `aadd`. -/
theorem EncodesWithinFields.aadd (d : SReg) (a : SReg) (b : SReg) (w : Bool) (z : Fin 8) : EncodesWithinFields.Statement (.aadd d a b w z) := by
  have := bit_lt_two w
  apply encR_within <;> omega

/-- `aand`. -/
theorem EncodesWithinFields.aand (d : SReg) (a : SReg) (b : SReg) (w : Bool) (z : Fin 8) : EncodesWithinFields.Statement (.aand d a b w z) := by
  have := bit_lt_two w
  apply encR_within <;> omega

/-- `aor`. -/
theorem EncodesWithinFields.aor (d : SReg) (a : SReg) (b : SReg) (w : Bool) (z : Fin 8) : EncodesWithinFields.Statement (.aor d a b w z) := by
  have := bit_lt_two w
  apply encR_within <;> omega

/-- `axch`. -/
theorem EncodesWithinFields.axch (d : SReg) (a : SReg) (b : SReg) (w : Bool) (z : Fin 8) : EncodesWithinFields.Statement (.axch d a b w z) := by
  have := bit_lt_two w
  apply encR_within <;> omega

/-- `amax`. -/
theorem EncodesWithinFields.amax (d : SReg) (a : SReg) (b : SReg) (w : Bool) (z : Fin 8) : EncodesWithinFields.Statement (.amax d a b w z) := by
  have := bit_lt_two w
  apply encR_within <;> omega

/-- `amin`. -/
theorem EncodesWithinFields.amin (d : SReg) (a : SReg) (b : SReg) (w : Bool) (z : Fin 8) : EncodesWithinFields.Statement (.amin d a b w z) := by
  have := bit_lt_two w
  apply encR_within <;> omega

/-- `acas`. -/
theorem EncodesWithinFields.acas (d : SReg) (a : SReg) (b : SReg) (w : Bool) (z : Fin 8) : EncodesWithinFields.Statement (.acas d a b w z) := by
  have := bit_lt_two w
  apply encR_within <;> omega

/-- `ald`. -/
theorem EncodesWithinFields.ald (d : SReg) (a : SReg) (w : Bool) (z : Fin 8) : EncodesWithinFields.Statement (.ald d a w z) := by
  have := bit_lt_two w
  apply encR_within <;> omega

/-- `binit`. -/
theorem EncodesWithinFields.binit (a : SReg) : EncodesWithinFields.Statement (.binit a) := by apply encR_within <;> omega

/-- `bexp`. -/
theorem EncodesWithinFields.bexp (a : SReg) (b : SReg) : EncodesWithinFields.Statement (.bexp a b) := by apply encR_within <;> omega

/-- `barv`. -/
theorem EncodesWithinFields.barv (d : SReg) (a : SReg) (b : SReg) (z : Fin 8) : EncodesWithinFields.Statement (.barv d a b z) := by apply encR_within <;> omega

/-- `bwait`. -/
theorem EncodesWithinFields.bwait (a : SReg) : EncodesWithinFields.Statement (.bwait a) := by apply encR_within <;> omega

/-- `bwaitPh`. -/
theorem EncodesWithinFields.bwaitPh (a : SReg) (b : SReg) : EncodesWithinFields.Statement (.bwaitPh a b) := by apply encR_within <;> omega

/-- `mwaitGe`. -/
theorem EncodesWithinFields.mwaitGe (d : SReg) (a : SReg) (b : SReg) (z : Fin 8) : EncodesWithinFields.Statement (.mwaitGe d a b z) := by apply encR_within <;> omega

/-- `mwaitNe`. -/
theorem EncodesWithinFields.mwaitNe (d : SReg) (a : SReg) (b : SReg) (z : Fin 8) : EncodesWithinFields.Statement (.mwaitNe d a b z) := by apply encR_within <;> omega

/-- `drain`. -/
theorem EncodesWithinFields.drain (z : Fin 8) : EncodesWithinFields.Statement (.drain z) := by apply encR_within <;> omega

/-- `drainE`. -/
theorem EncodesWithinFields.drainE (z : Fin 8) : EncodesWithinFields.Statement (.drainE z) := by apply encR_within <;> omega

/-- `fence`. -/
theorem EncodesWithinFields.fence (z : Fin 8) : EncodesWithinFields.Statement (.fence z) := by apply encR_within <;> omega

/-- `ast`. -/
theorem EncodesWithinFields.ast (a : SReg) (b : SReg) (w : Bool) (z : Fin 8) : EncodesWithinFields.Statement (.ast a b w z) := by
  have := bit_lt_two w
  apply encR_within <;> omega

/-- `teth`. -/
theorem EncodesWithinFields.teth (d : SReg) (a : SReg) : EncodesWithinFields.Statement (.teth d a) := by apply encR_within <;> omega

/-- `tethown`. -/
theorem EncodesWithinFields.tethown (d : SReg) (a : SReg) : EncodesWithinFields.Statement (.tethown d a) := by apply encR_within <;> omega

/-- `unteth`. -/
theorem EncodesWithinFields.unteth (a : SReg) : EncodesWithinFields.Statement (.unteth a) := by apply encR_within <;> omega

/-- `untethO`. -/
theorem EncodesWithinFields.untethO (a : SReg) : EncodesWithinFields.Statement (.untethO a) := by apply encR_within <;> omega

/-- `lkacq`. -/
theorem EncodesWithinFields.lkacq (d : SReg) (a : SReg) (z : Fin 8) : EncodesWithinFields.Statement (.lkacq d a z) := by apply encR_within <;> omega

/-- `lkacqTry`. -/
theorem EncodesWithinFields.lkacqTry (d : SReg) (a : SReg) (z : Fin 8) : EncodesWithinFields.Statement (.lkacqTry d a z) := by apply encR_within <;> omega

/-- `lkrel`. -/
theorem EncodesWithinFields.lkrel (a : SReg) (z : Fin 8) : EncodesWithinFields.Statement (.lkrel a z) := by apply encR_within <;> omega

/-- `nop`. -/
theorem EncodesWithinFields.nop : EncodesWithinFields.Statement .nop := by
  rintro _ ⟨⟩
  decide

/-- `writeCTdim`. -/
theorem EncodesWithinFields.writeCTdim : EncodesWithinFields.Statement .writeCTdim := by rintro _ ⟨⟩

/-- `writeCRgva`. -/
theorem EncodesWithinFields.writeCRgva : EncodesWithinFields.Statement .writeCRgva := by rintro _ ⟨⟩

/-- `writeCRgloc`. -/
theorem EncodesWithinFields.writeCRgloc : EncodesWithinFields.Statement .writeCRgloc := by rintro _ ⟨⟩

/-- `writeCRngd`. -/
theorem EncodesWithinFields.writeCRngd : EncodesWithinFields.Statement .writeCRngd := by rintro _ ⟨⟩

/-- `writeCPtbase`. -/
theorem EncodesWithinFields.writeCPtbase : EncodesWithinFields.Statement .writeCPtbase := by rintro _ ⟨⟩

/-- `writeCPtlog`. -/
theorem EncodesWithinFields.writeCPtlog : EncodesWithinFields.Statement .writeCPtlog := by rintro _ ⟨⟩

/-- `writeCNsave`. -/
theorem EncodesWithinFields.writeCNsave : EncodesWithinFields.Statement .writeCNsave := by rintro _ ⟨⟩

/-- `writeCQueue`. -/
theorem EncodesWithinFields.writeCQueue : EncodesWithinFields.Statement .writeCQueue := by rintro _ ⟨⟩

/-- `writeCWfdl`. -/
theorem EncodesWithinFields.writeCWfdl : EncodesWithinFields.Statement .writeCWfdl := by rintro _ ⟨⟩

/-- `writeCPstat`. -/
theorem EncodesWithinFields.writeCPstat : EncodesWithinFields.Statement .writeCPstat := by rintro _ ⟨⟩

/-- `tlbinvAll`. -/
theorem EncodesWithinFields.tlbinvAll : EncodesWithinFields.Statement .tlbinvAll := by apply encR_within <;> omega

/-- `phreq`. -/
theorem EncodesWithinFields.phreq : EncodesWithinFields.Statement .phreq := by apply encR_within <;> omega

/-- `park`. -/
theorem EncodesWithinFields.park : EncodesWithinFields.Statement .park := by apply encR_within <;> omega

/-- `tend`. -/
theorem EncodesWithinFields.tend : EncodesWithinFields.Statement .tend := by apply encR_within <;> omega

/-- `rett`. -/
theorem EncodesWithinFields.rett : EncodesWithinFields.Statement .rett := by apply encR_within <;> omega

/-- `ctxsw`. -/
theorem EncodesWithinFields.ctxsw : EncodesWithinFields.Statement .ctxsw := by apply encR_within <;> omega

/-- `ctxswRel`. -/
theorem EncodesWithinFields.ctxswRel : EncodesWithinFields.Statement .ctxswRel := by apply encR_within <;> omega

/-- `mgarm`. -/
theorem EncodesWithinFields.mgarm : EncodesWithinFields.Statement .mgarm := by apply encR_within <;> omega

/-- `mgdrop`. -/
theorem EncodesWithinFields.mgdrop : EncodesWithinFields.Statement .mgdrop := by apply encR_within <;> omega

/-- `mcwaitAll`. -/
theorem EncodesWithinFields.mcwaitAll : EncodesWithinFields.Statement .mcwaitAll := by apply encR_within <;> omega

/-- `ctabc`. -/
theorem EncodesWithinFields.ctabc : EncodesWithinFields.Statement .ctabc := by apply encR_within <;> omega

/-- `untethA`. -/
theorem EncodesWithinFields.untethA : EncodesWithinFields.Statement .untethA := by apply encR_within <;> omega

/-- `unop`. -/
theorem EncodesWithinFields.unop : EncodesWithinFields.Statement .unop := by rintro _ ⟨⟩

/-- `uldi`. -/
theorem EncodesWithinFields.uldi : EncodesWithinFields.Statement .uldi := by rintro _ ⟨⟩

/-- `uldm`. -/
theorem EncodesWithinFields.uldm : EncodesWithinFields.Statement .uldm := by rintro _ ⟨⟩

/-- `uadd`. -/
theorem EncodesWithinFields.uadd : EncodesWithinFields.Statement .uadd := by rintro _ ⟨⟩

/-- `ulc`. -/
theorem EncodesWithinFields.ulc : EncodesWithinFields.Statement .ulc := by rintro _ ⟨⟩

/-- `ubr`. -/
theorem EncodesWithinFields.ubr : EncodesWithinFields.Statement .ubr := by rintro _ ⟨⟩

/-- `ufeed`. -/
theorem EncodesWithinFields.ufeed : EncodesWithinFields.Statement .ufeed := by rintro _ ⟨⟩

/-- `upass`. -/
theorem EncodesWithinFields.upass : EncodesWithinFields.Statement .upass := by rintro _ ⟨⟩

/-- `uzero`. -/
theorem EncodesWithinFields.uzero : EncodesWithinFields.Statement .uzero := by rintro _ ⟨⟩

/-- `uout`. -/
theorem EncodesWithinFields.uout : EncodesWithinFields.Statement .uout := by rintro _ ⟨⟩

/-- `uwin`. -/
theorem EncodesWithinFields.uwin : EncodesWithinFields.Statement .uwin := by rintro _ ⟨⟩

/-- `uspl`. -/
theorem EncodesWithinFields.uspl : EncodesWithinFields.Statement .uspl := by rintro _ ⟨⟩

/-- `ucal`. -/
theorem EncodesWithinFields.ucal : EncodesWithinFields.Statement .ucal := by rintro _ ⟨⟩

/-- `ustat`. -/
theorem EncodesWithinFields.ustat : EncodesWithinFields.Statement .ustat := by rintro _ ⟨⟩

/-- `instructionFetch`. -/
theorem EncodesWithinFields.instructionFetch : EncodesWithinFields.Statement .instructionFetch := by rintro _ ⟨⟩

/-- `bundleDecode`. -/
theorem EncodesWithinFields.bundleDecode : EncodesWithinFields.Statement .bundleDecode := by rintro _ ⟨⟩

/-- `effRecompute`. -/
theorem EncodesWithinFields.effRecompute : EncodesWithinFields.Statement .effRecompute := by rintro _ ⟨⟩

/-- `untetheredRetest`. -/
theorem EncodesWithinFields.untetheredRetest : EncodesWithinFields.Statement .untetheredRetest := by rintro _ ⟨⟩

/-- `monitorNotify`. -/
theorem EncodesWithinFields.monitorNotify : EncodesWithinFields.Statement .monitorNotify := by rintro _ ⟨⟩

/-- `commandActivate`. -/
theorem EncodesWithinFields.commandActivate : EncodesWithinFields.Statement .commandActivate := by rintro _ ⟨⟩

/-- `granuleDeliver`. -/
theorem EncodesWithinFields.granuleDeliver : EncodesWithinFields.Statement .granuleDeliver := by rintro _ ⟨⟩

/-- `pageWalk`. -/
theorem EncodesWithinFields.pageWalk : EncodesWithinFields.Statement .pageWalk := by rintro _ ⟨⟩

/-- `regionFill`. -/
theorem EncodesWithinFields.regionFill : EncodesWithinFields.Statement .regionFill := by rintro _ ⟨⟩

/-- `writeBack`. -/
theorem EncodesWithinFields.writeBack : EncodesWithinFields.Statement .writeBack := by rintro _ ⟨⟩

/-- `windowAccess`. -/
theorem EncodesWithinFields.windowAccess : EncodesWithinFields.Statement .windowAccess := by rintro _ ⟨⟩

/-- `sliceAccess`. -/
theorem EncodesWithinFields.sliceAccess : EncodesWithinFields.Statement .sliceAccess := by rintro _ ⟨⟩

/-- `routerMerge`. -/
theorem EncodesWithinFields.routerMerge : EncodesWithinFields.Statement .routerMerge := by rintro _ ⟨⟩

/-- `reductionApply`. -/
theorem EncodesWithinFields.reductionApply : EncodesWithinFields.Statement .reductionApply := by rintro _ ⟨⟩

/-- `remoteAtomic`. -/
theorem EncodesWithinFields.remoteAtomic : EncodesWithinFields.Statement .remoteAtomic := by rintro _ ⟨⟩

/-- `jobCompletionStamp`. -/
theorem EncodesWithinFields.jobCompletionStamp : EncodesWithinFields.Statement .jobCompletionStamp := by rintro _ ⟨⟩

/-- `callStart`. -/
theorem EncodesWithinFields.callStart : EncodesWithinFields.Statement .callStart := by rintro _ ⟨⟩

/-- `mtaccMember`. -/
theorem EncodesWithinFields.mtaccMember : EncodesWithinFields.Statement .mtaccMember := by rintro _ ⟨⟩

/-- `calibrationStart`. -/
theorem EncodesWithinFields.calibrationStart : EncodesWithinFields.Statement .calibrationStart := by rintro _ ⟨⟩

/-- `calibrationEnd`. -/
theorem EncodesWithinFields.calibrationEnd : EncodesWithinFields.Statement .calibrationEnd := by rintro _ ⟨⟩

/-- `temperatureSample`. -/
theorem EncodesWithinFields.temperatureSample : EncodesWithinFields.Statement .temperatureSample := by rintro _ ⟨⟩

/-- `ageStep`. -/
theorem EncodesWithinFields.ageStep : EncodesWithinFields.Statement .ageStep := by rintro _ ⟨⟩

/-- `powerLimitExceeded`. -/
theorem EncodesWithinFields.powerLimitExceeded : EncodesWithinFields.Statement .powerLimitExceeded := by rintro _ ⟨⟩

/-- `computeClose`. -/
theorem EncodesWithinFields.computeClose : EncodesWithinFields.Statement .computeClose := by rintro _ ⟨⟩

/-- `exchangeClose`. -/
theorem EncodesWithinFields.exchangeClose : EncodesWithinFields.Statement .exchangeClose := by rintro _ ⟨⟩

/-- `computeBudgetExpiry`. -/
theorem EncodesWithinFields.computeBudgetExpiry : EncodesWithinFields.Statement .computeBudgetExpiry := by rintro _ ⟨⟩

/-- `exchangeBudgetExpiry`. -/
theorem EncodesWithinFields.exchangeBudgetExpiry : EncodesWithinFields.Statement .exchangeBudgetExpiry := by rintro _ ⟨⟩

/-- `truncation`. -/
theorem EncodesWithinFields.truncation : EncodesWithinFields.Statement .truncation := by rintro _ ⟨⟩

/-- `dispatch`. -/
theorem EncodesWithinFields.dispatch : EncodesWithinFields.Statement .dispatch := by rintro _ ⟨⟩

/-- `preemptionRequest`. -/
theorem EncodesWithinFields.preemptionRequest : EncodesWithinFields.Statement .preemptionRequest := by rintro _ ⟨⟩

/-- `teamStart`. -/
theorem EncodesWithinFields.teamStart : EncodesWithinFields.Statement .teamStart := by rintro _ ⟨⟩

/-- `stealRequest`. -/
theorem EncodesWithinFields.stealRequest : EncodesWithinFields.Statement .stealRequest := by rintro _ ⟨⟩

/-- `stealAnswer`. -/
theorem EncodesWithinFields.stealAnswer : EncodesWithinFields.Statement .stealAnswer := by rintro _ ⟨⟩

/-- `launchPacket`. -/
theorem EncodesWithinFields.launchPacket : EncodesWithinFields.Statement .launchPacket := by rintro _ ⟨⟩

/-- `deviceCtxsw`. -/
theorem EncodesWithinFields.deviceCtxsw : EncodesWithinFields.Statement .deviceCtxsw := by rintro _ ⟨⟩

/-- `contextRestore`. -/
theorem EncodesWithinFields.contextRestore : EncodesWithinFields.Statement .contextRestore := by rintro _ ⟨⟩

/-- `uncorrectableError`. -/
theorem EncodesWithinFields.uncorrectableError : EncodesWithinFields.Statement .uncorrectableError := by rintro _ ⟨⟩

/-- `rdmaWrite`. -/
theorem EncodesWithinFields.rdmaWrite : EncodesWithinFields.Statement .rdmaWrite := by rintro _ ⟨⟩

/-- `rdmaRead`. -/
theorem EncodesWithinFields.rdmaRead : EncodesWithinFields.Statement .rdmaRead := by rintro _ ⟨⟩

/-- `send`. -/
theorem EncodesWithinFields.send : EncodesWithinFields.Statement .send := by rintro _ ⟨⟩

/-- `invalidRequest`. -/
theorem EncodesWithinFields.invalidRequest : EncodesWithinFields.Statement .invalidRequest := by rintro _ ⟨⟩

/-- `ceMarkedPacket`. -/
theorem EncodesWithinFields.ceMarkedPacket : EncodesWithinFields.Statement .ceMarkedPacket := by rintro _ ⟨⟩

/-- `cnp`. -/
theorem EncodesWithinFields.cnp : EncodesWithinFields.Statement .cnp := by rintro _ ⟨⟩

/-- `rateRecovery`. -/
theorem EncodesWithinFields.rateRecovery : EncodesWithinFields.Statement .rateRecovery := by rintro _ ⟨⟩

/-- `doorbell`. -/
theorem EncodesWithinFields.doorbell : EncodesWithinFields.Statement .doorbell := by rintro _ ⟨⟩

/-- `workRequestWrite`. -/
theorem EncodesWithinFields.workRequestWrite : EncodesWithinFields.Statement .workRequestWrite := by rintro _ ⟨⟩

/-- `workRequestRead`. -/
theorem EncodesWithinFields.workRequestRead : EncodesWithinFields.Statement .workRequestRead := by rintro _ ⟨⟩

/-- `workRequestSend`. -/
theorem EncodesWithinFields.workRequestSend : EncodesWithinFields.Statement .workRequestSend := by rintro _ ⟨⟩

/-- `peerWrite`. -/
theorem EncodesWithinFields.peerWrite : EncodesWithinFields.Statement .peerWrite := by rintro _ ⟨⟩

/-- `peerReduce`. -/
theorem EncodesWithinFields.peerReduce : EncodesWithinFields.Statement .peerReduce := by rintro _ ⟨⟩

/-- `peerLaunch`. -/
theorem EncodesWithinFields.peerLaunch : EncodesWithinFields.Statement .peerLaunch := by rintro _ ⟨⟩

/-- `workRequestEnd`. -/
theorem EncodesWithinFields.workRequestEnd : EncodesWithinFields.Statement .workRequestEnd := by rintro _ ⟨⟩

/-- `dataFrame`. -/
theorem EncodesWithinFields.dataFrame : EncodesWithinFields.Statement .dataFrame := by rintro _ ⟨⟩

/-- `acknowledgementFrame`. -/
theorem EncodesWithinFields.acknowledgementFrame : EncodesWithinFields.Statement .acknowledgementFrame := by rintro _ ⟨⟩

/-- `replayRequest`. -/
theorem EncodesWithinFields.replayRequest : EncodesWithinFields.Statement .replayRequest := by rintro _ ⟨⟩

/-- `idleFrame`. -/
theorem EncodesWithinFields.idleFrame : EncodesWithinFields.Statement .idleFrame := by rintro _ ⟨⟩

/-- `hello`. -/
theorem EncodesWithinFields.hello : EncodesWithinFields.Statement .hello := by rintro _ ⟨⟩

/-- `readStartUpReport`. -/
theorem EncodesWithinFields.readStartUpReport : EncodesWithinFields.Statement .readStartUpReport := by rintro _ ⟨⟩

/-- `retryStart`. -/
theorem EncodesWithinFields.retryStart : EncodesWithinFields.Statement .retryStart := by rintro _ ⟨⟩

/-- `resetRequest`. -/
theorem EncodesWithinFields.resetRequest : EncodesWithinFields.Statement .resetRequest := by rintro _ ⟨⟩

/-- `setModuleNumber`. -/
theorem EncodesWithinFields.setModuleNumber : EncodesWithinFields.Statement .setModuleNumber := by rintro _ ⟨⟩

/-- `setQueuePairTableBase`. -/
theorem EncodesWithinFields.setQueuePairTableBase : EncodesWithinFields.Statement .setQueuePairTableBase := by rintro _ ⟨⟩

/-- `requestBankRetirement`. -/
theorem EncodesWithinFields.requestBankRetirement : EncodesWithinFields.Statement .requestBankRetirement := by rintro _ ⟨⟩

/-- `readMeterPage`. -/
theorem EncodesWithinFields.readMeterPage : EncodesWithinFields.Statement .readMeterPage := by rintro _ ⟨⟩

/-- `readMonitor`. -/
theorem EncodesWithinFields.readMonitor : EncodesWithinFields.Statement .readMonitor := by rintro _ ⟨⟩

/-- `writeFlashImage`. -/
theorem EncodesWithinFields.writeFlashImage : EncodesWithinFields.Statement .writeFlashImage := by rintro _ ⟨⟩

/-- `commitFlashImage`. -/
theorem EncodesWithinFields.commitFlashImage : EncodesWithinFields.Statement .commitFlashImage := by rintro _ ⟨⟩

/-- `powerOn`. -/
theorem EncodesWithinFields.powerOn : EncodesWithinFields.Statement .powerOn := by rintro _ ⟨⟩

/-- `modulePowerWithinLimit`. -/
theorem EncodesWithinFields.modulePowerWithinLimit : EncodesWithinFields.Statement .modulePowerWithinLimit := by rintro _ ⟨⟩

/-- `opNotKnown`. -/
theorem EncodesWithinFields.opNotKnown : EncodesWithinFields.Statement .opNotKnown := by rintro _ ⟨⟩

/-- `corruptFrame`. -/
theorem EncodesWithinFields.corruptFrame : EncodesWithinFields.Statement .corruptFrame := by rintro _ ⟨⟩

end Sys2Proof.Laws
end

