-- ==== Sys2Proof/Tests/Slice0.lean ====
section
/-!
SUPPORT. Tests: words written out from the encodings of the spec, ill-formed terms that the checks refuse, one small step per family with its
result worked out from the spec by hand, and for every statement that has hypotheses states and operands that meet them.
-/

open Sys2Proof Sys2Proof.Machine
set_option Elab.async false

/-! ## Words (the examples of the spec's own encoding rules) -/

theorem test_words_scalar : decodeTableWord 32 0x84742400 = some (.add 7 8 9) ∧ decodeTableWord 32 0x86A50FFF = some (.addi 10 10 (-1)) ∧
    decodeTableWord 32 0x8E530FFE = some (.beq 5 6 (-2)) ∧ decodeTableWord 32 0x92148015 = some (.callr 1 9 5) ∧
    decodeTableWord 32 0x93400820 = some (.loop 20 2) ∧ decodeTableWord 32 0x96A00010 = some (.rdc 10 0x010) := by decide

theorem test_words_system : decodeTableWord 32 0x98029804 = some (.tlbinvPage 5 6 1) ∧ decodeTableWord 32 0x9A900000 = some (.phase 9) ∧
    decodeTableWord 32 0x9C048000 = some (.spawn 9) ∧ decodeTableWord 32 0x9E00000F = some (.trap 15) := by decide

theorem test_words_vector : decodeTableWord 32 0xA12214D3 = some (.vcmp 2 2 4 5 3) ∧ decodeTableWord 32 0xA2321400 = some (.vfadd 3 4 5 0 0) ∧
    decodeTableWord 32 0xA4A5B265 = some (.vsel 10 11 12 2 3) ∧ decodeTableWord 32 0xA6630070 = some (.vfexp2 6 6 0 0 0) ∧
    decodeTableWord 32 0xA8922039 = some (.vred 9 4 1 0 9) := by decide

theorem test_words_tile : decodeTableWord 32 0xAA228020 = some (.ttrn 2 5) ∧ decodeTableWord 32 0xAC000030 = some .mgarm ∧
    decodeTableWord 32 0xAC000031 = some .mgdrop ∧ decodeTableWord 32 0xAC148010 = some (.mgoff 1 9) := by decide

theorem test_words_matrix : decodeTableWord 32 0xAE810340 = some (.mcall 64 8 0 26) ∧ decodeTableWord 32 0xB0048001 = some (.mmodeC 9) ∧
    decodeTableWord 32 0xB0952CA0 = some (.mtacc 9 10 11) := by decide

theorem test_words_loft : decodeTableWord 32 0xB2918005 = some (.ldScalar 9 3 5) ∧ decodeTableWord 32 0xB4411C63 = some (.ldg 4 2 7 3) ∧
    decodeTableWord 32 0xB6530008 = some (.ldf 5 6 8) := by decide

theorem test_words_copy : decodeTableWord 32 0xB8592400 = some (.cpy 5 18 9 false) ∧ decodeTableWord 32 0xB8052C94 = some (.cpyxResume 10 11) ∧
    decodeTableWord 32 0xBA44AC03 = some (.xfer 4 9 11 false 3) := by decide

theorem test_words_sync : decodeTableWord 32 0xBC952C03 = some (.aadd 9 10 11 false 3) ∧
    decodeTableWord 32 0xBC952C6C = some (.acas 9 10 11 true 4) ∧ decodeTableWord 32 0xBE05A810 = some (.bexp 11 10) ∧
    decodeTableWord 32 0xBE058030 = some (.bwait 11) ∧ decodeTableWord 32 0xBE963443 = some (.mwaitGe 9 12 13 3) ∧
    decodeTableWord 32 0xBE00005B = some (.drainE 3) ∧ decodeTableWord 32 0xC0950000 = some (.teth 9 10) ∧
    decodeTableWord 32 0xC0950033 = some (.lkacq 9 10 3) ∧ decodeTableWord 32 0xC0050043 = some (.lkrel 10 3) := by decide

theorem test_word_micro : (match decodeMicro 0x7DA8010000000000 with
    | .ok w => w.op == .upass 3 2 4 0 0 true false false 0 && w.last && w.cons
    | .error _ => false) = true := by decide

/-! ## Terms that the checks refuse -/

theorem test_ill_formed : ([.shadd 1 2 3 5, .bfx 1 2 63 1, .rdc 1 0xFFF, .rdcz 1 0xFFF, .wrc 1 0x0FFF, .setc 1 2 0xFFF, .clrc 1 2 0xFFF,
    .xchc 1 2 0xFFF, .addc 1 2 0xFFF, .vadd 1 2 3 0, .vcmp 0 1 2 3 9, .vfadd 1 2 3 3 0, .vfcmp 0 1 2 3 3, .vcvt 1 2 0 1, .vbmax 1 2 0 0,
    .vqnt 1 2 9 0 0, .vdqnt 1 2 0, .vhad 1 2 0 0, .vperm 1 2 3 1, .vslideup 1 2 3 0, .vred 1 2 3 0 1, .vscan 1 2 0 0 0,
    .mcall 0 9 0 1, .mcallRty 0 9 0 1, .cpyr false 3, .cpys 1 2 false 5, .recw 0 1 4, .recr 1 16 12, .xfer 1 2 3 false 5,
    .xredAdd 1 2 3 0, .aadd 1 2 3 false 5, .ald 1 2 false 5, .barv 1 2 3 5, .drain 5, .lkacq 1 2 5, .lkrel 1 5] : List Instr).all
      (fun i => !i.wellFormed) = true := by decide

theorem test_ill_formed_micro : ([.uldm 0 0 false 1 0, .uldm 0 0 true 0 8, .ufeed 0 0 0 3 0 false 0, .ufeed 0 0 1 1 0 false 0,
    .ufeed 1 0 0 0 0 true 0, .upass 0 0 0 1 0 false false true 0, .upass 0 0 0 0 0 false false false 1, .uout 0 0 0 1 false true 0,
    .uout 0 0 0 0 false false 1] : List MicroOp).all (fun o => !o.wellFormed) = true := by decide

/-! ## A small machine -/

/-- Scalar registers with the given values. -/
def demoRegs (l : List (SReg × W64)) : Regs := l.foldl (fun r p => { r with s := r.s.set p.1 p.2 }) {}
/-- A task of context 1 with the given scalar registers. -/
def demoTask (l : List (SReg × W64)) : Task := { tid := 1, ctx := 1, regs := demoRegs l, pc := 0x10000 }
/-- A supervisor context with a partition of two units (196,608 bytes). -/
def demoCtx : CoreCtx := { ctx := 1, sup := true, asn := 1, ceil := 7, lsize := 2 }
/-- A core with one task in bank 0. -/
def demoCore (t : Task) (k : CoreCtx) : Core :=
  { avail := true, live := BitVec.allOnes 32, banks := Vector.ofFn fun b => if b = 0 then some t else none, ctxs := [k] }
/-- The device with `c` as core 0. -/
def demoOn (c : Core) (d : Device) : State := { State.reset with cores := State.reset.cores.set 0 c, dev := d, turns := [] }
/-- In a compute phase. -/
def demo (t : Task) : State := demoOn (demoCore t demoCtx) { power := .running }
/-- In an exchange phase. -/
def demoX (t : Task) : State := demoOn (demoCore t demoCtx) { power := .running, phase := 1 }
/-- In a compute phase, with core 0 changed. -/
def demoWith (t : Task) (f : Core → Core) : State := demoOn (f (demoCore t demoCtx)) { power := .running }
/-- In an exchange phase, with core 0 changed. -/
def demoXWith (t : Task) (f : Core → Core) : State := demoOn (f (demoCore t demoCtx)) { power := .running, phase := 1 }
/-- The task of a context that is no supervisor's. -/
def demoUser (t : Task) : State := demoOn (demoCore t { demoCtx with sup := false }) { power := .running }
/-- A context whose trap vector is set. -/
def demoVec : CoreCtx := { demoCtx with tvec := 0x8000000000020000 }

theorem live_demo (t : Task) : (demo t).live = some t := rfl
theorem live_demoX (t : Task) : (demoX t).live = some t := rfl
theorem live_demoUser (t : Task) : (demoUser t).live = some t := rfl

/-- A scalar register after an instruction. -/
def regAfter (i : Instr) (s : State) (d : SReg) : Option W64 :=
  match exec i s with | .next s' => s'.live.map fun t => t.getS d | _ => none
/-- What the issue unit is to do after an instruction. -/
def flowAfter (i : Instr) (s : State) : Option Flow := match exec i s with | .next s' => some s'.flow | _ => none
/-- An element of a vector register after an instruction. -/
def elemAfter (i : Instr) (s : State) (d : VReg) (w j : Nat) : Option Nat :=
  match exec i s with | .next s' => s'.live.map fun t => t.getV d w j | _ => none
/-- Something of the state after an instruction. -/
def after {α : Type} (i : Instr) (s : State) (f : State → α) : Option α := match exec i s with | .next s' => some (f s') | _ => none

/-! ## One small step per family (results by hand from the rules) -/

/-- R164: a sum wraps; s0 discards; R165: a quotient by zero is all ones. -/
theorem test_scalar : regAfter (.add 7 8 9) (demo (demoTask [(8, -1), (9, 3)])) 7 = some 2 ∧
    regAfter (.add 0 8 9) (demo (demoTask [(8, -1), (9, 3)])) 0 = some 0 ∧
    regAfter (.div 7 8 9 false) (demo (demoTask [(8, 5), (9, 0)])) 7 = some (-1) ∧
    regAfter (.mulh 7 8 9 false) (demo (demoTask [(8, -5), (9, 7)])) 7 = some (-1) := by decide

/-- R170, R172: displacements count bundles from the branch's own; `callr` checks the class of its pointer (R173). -/
theorem test_control : flowAfter (.beq 5 6 (-2)) (demo (demoTask [])) = some (.jump 0xFFE0) ∧
    flowAfter (.bne 5 6 (-2)) (demo (demoTask [])) = some .next ∧
    flowAfter (.callr 1 9 5) (demo (demoTask [(9, 0x20005)])) = some (.jump 0x20000) ∧
    regAfter (.callr 1 9 5) (demo (demoTask [(9, 0x20005)])) 1 = some 0x10010 := by decide

/-- R179: `c.vl` holds at most 16384; R316: `phase` gives the next phase. -/
theorem test_registers : regAfter (.rdc 10 0x010) (demo (demoTask [])) 10 = some 4096 ∧
    after (.writeCVl 9) (demo (demoTask [(9, 16385)])) (fun s => s.live.map (·.ctl.vl)) = some (some 16384) ∧
    regAfter (.phase 9) (demo (demoTask [])) 9 = some 1 := by decide

/-- A task with element 0 of v1 and v2 as given. -/
def demoLanes (w x y : Nat) : Task :=
  { demoTask [] with ctl := { vl := 1 }, regs := { v := (Mem.setNum [] 0x4000 w x).setNum 0x8000 w y } }

/-- R199, R202, R207: 200 + 100 saturates as n8; 1.5 + 2.25 = 3.75; 3.0 to i8 is 3. -/
theorem test_vector : elemAfter (.vadds 3 1 2 5) (demo (demoLanes 1 200 100)) 3 1 0 = some 255 ∧
    elemAfter (.vfadd 3 1 2 0 0) (demo (demoLanes 4 0x3FC00000 0x40100000)) 3 4 0 = some 0x40700000 ∧
    elemAfter (.vcvt 3 1 9 1) (demo (demoLanes 4 0x40400000 0)) 3 1 0 = some 3 := by decide

/-- R14 to R20: 1/3 in FP32, a subnormal operand read as zero, and the canonical NaN. -/
theorem test_rounding : elemAfter (.vfdiv 3 1 2 0 0) (demo (demoLanes 4 0x3F800000 0x40400000)) 3 4 0 = some 0x3EAAAAAB ∧
    elemAfter (.vfadd 3 1 2 0 0) (demo (demoLanes 4 1 0)) 3 4 0 = some 0 ∧
    elemAfter (.vfdiv 3 1 2 0 0) (demo (demoLanes 4 0 0)) 3 4 0 = some 0x7FC00000 := by decide

/-- A 2 × 2 tile of bytes in v1, and its shape word (R218): V, ET 1, 2 columns, 2 rows. -/
def demoTile : Task :=
  { demoTask [] with regs := { v := Mem.setNum [] 0x4000 4 0x04030201, tdim := (Vector.replicate 16 0).set 5 0x8001010000020002 |>.set 2 0x8002010000020002 } }

/-- R222: a transpose exchanges (0, 1) and (1, 0); an invalid shape traps. -/
theorem test_tile : elemAfter (.ttrn 2 5) (demo demoTile) 2 4 0 = some 0x04020301 ∧
    flowAfter (.tzero 3) (demo demoTile) = some (.trapped ⟨0x09, 0, 0, 0, 0x10000, 0⟩) := by decide

/-- A buffer record over n16 units from loft offset 64 (R92, R93). -/
def demoRec : BitVec 256 := BitVec.ofNat 256 (64 + 2 ^ 62 + 4096 * 2 ^ 96 + 6 * 2 ^ 192)

/-- R151: unit 5 lies at 64 + 5 × 2; an address past the partition traps. -/
theorem test_loft : regAfter (.ldScalar 9 3 5) (demoWith { demoTask [] with regs := { b := (Vector.replicate 16 0).set 3 demoRec } }
      fun c => { c with loft := Mem.setNum [] 74 2 0x1234 }) 9 = some 0x1234 ∧
    flowAfter (.ldScalarX 9 3 4 0) (demo { demoTask [] with regs := { demoRegs [(4, 98272)] with b := (Vector.replicate 16 0).set 3 demoRec } })
      = some (.trapped ⟨0x09, 0, 0, 0x30000, 0x10000, 0⟩) := by decide

/-- R386: `aadd.w` at loft offset 8 delivers the old word and leaves the sum; R393: an acquired lock names context and task. -/
theorem test_sync : regAfter (.aadd 9 10 11 false 3) (demoWith (demoTask [(10, 8), (11, 5)]) fun c => { c with loft := Mem.setNum [] 8 4 7 }) 9
      = some 7 ∧
    after (.aadd 9 10 11 false 3) (demoWith (demoTask [(10, 8), (11, 5)]) fun c => { c with loft := Mem.setNum [] 8 4 7 })
      (fun s => (s.core 0).loft.num 8 4) = some 12 ∧
    after (.lkacq 9 10 3) (demo (demoTask [(10, 16)])) (fun s => (s.core 0).loft.num 16 8) = some 0x8000000000010001 := by decide +kernel

/-- R125: `cpy` leaves a building command in the staged slot. -/
theorem test_copy : after (.cpy 5 6 0 false) (demo (demoTask [])) (fun s => s.live.map fun t => (t.engines[0].staged.map (·.status))) =
    some (some (some .building)) := by decide

/-- R281, R287: `mzero` clears rows; a task whose context does not own the unit traps with `c.mown` (R262, log entry 20). -/
theorem test_matrix : after (.mzero 9) (demoWith (demoTask []) fun c => { c with mx := { owner := some 1, acc := Mem.setNum [] 8 4 5 } })
      (fun s => (s.core 0).mx.acc) = some [] ∧
    flowAfter (.mpr 9 0) (demo (demoTask [])) = some (.trapped ⟨0x09, 0, 0, 0, 0x10000, 0⟩) := by decide

/-- A unit that runs a call about to perform `o`. -/
def demoCall (o : MicroOp) (k : Call) : State :=
  demoWith (demoTask []) fun c => { c with mx := { owner := some 1, running := some { k with handle := 1, ctx := 1, tid := 1, word := some o } } }

/-- R266: `uadd` sign-extends; R269: a window above 3 stops the call. -/
theorem test_micro : after (MicroOp.uadd 1 2 (-1)).instr (demoCall (.uadd 1 2 (-1)) {}) (fun s => (s.core 0).mx.running.map (·.a[1])) =
      some (some 0xFFFFFFFF) ∧
    after (MicroOp.uwin 1).instr (demoCall (.uwin 1) { a := (Vector.replicate 8 0).set 1 4 }) (fun s => (s.core 0).mx.running.map (·.fault)) =
      some (some (some 0x0C)) := by decide

/-- R423, R441, R442: `trap 15` enters the handler, and `rett` returns to the next bundle. -/
theorem test_traps : after (.trap 15) (demoOn (demoCore (demoTask []) demoVec) { power := .running })
      (fun s => s.live.map fun t => (t.pc, t.ctl.tpc, t.ctl.tinfo, t.ctl.cause)) = some (some (0x20000, 0x10010, 15, 0x800A010000000000)) ∧
    flowAfter .rett (demo { demoTask [] with ctl := { cause := 0x800A010000000000, tpc := 0x10010 } }) = some (.resume 0x10010 0) := by decide

/-- R323: an exchange closes once nothing is live, and the counter advances; before the 64 cycles are over it does nothing. -/
theorem test_phase_close : after .exchangeClose (demoOn { avail := true } { power := .running, phase := 1, now := 64 }) (·.dev.phase) = some 2 ∧
    after .exchangeClose (demoOn { avail := true } { power := .running, phase := 1, now := 63 }) (·.dev.phase) = some 1 := by decide +kernel

/-- R342: the machine after reset has no power; the first turn is its start. -/
theorem test_reset : State.reset.dev.power = .off ∧ State.reset.turns = [.event .powerOn {}] := by decide

/-! ## States and operands that meet the hypotheses of the statements -/

theorem witness_EncodeOfDecode : decodeSlot 0 (some 0) 0x04742400 = .ok (.add 7 8 9) ∧ decodeSlot 0 (some 0x1FF) 0x04742400 ≠ .ok (.add 7 8 9) ∧
    (0 : Nat) < 2 ^ 9 ∧ (0x04742400 : Nat) < 2 ^ 31 := by decide

theorem witness_slotWordsDecode : (Instr.addi 63 63 (-65536)).wellFormed = true ∧
    (encode (.addi 63 63 (-65536))).any (fun e => (e.cls.any fun c => c.allows 0)) = true ∧
    (Instr.vsel 127 127 127 3 7).wellFormed = true ∧
    (encode (.vsel 127 127 127 3 7)).any (fun e => (e.cls.any fun c => c.allows 2)) = true := by decide

theorem witness_microWordsDecode : (MicroOp.uldm 7 7 false 63 1).wellFormed = true ∧ (MicroOp.upass 0 1 2 0 0 false false true 7).wellFormed = true ∧
    (MicroOp.ufeed 0 1 2 0 0 true 7).wellFormed = true ∧ (MicroOp.uout 1 2 3 15 true false 0).wellFormed = true := by decide

/-- Operands at the edges: a zero, the most negative number, all ones. -/
def demoEdges : Task := demoTask [(8, 0), (9, 0x8000000000000000), (10, -1)]

theorem witness_ScalarFormsWriteTheirResult : (demo demoEdges).live = some demoEdges ∧
    (∀ i ∈ ([.add 7 9 9, .sub 7 8 9, .mul 7 9 10, .mulh 7 9 9 true, .mulh 7 9 10 false, .div 7 9 10 false, .div 7 9 8 true, .rem 7 9 8 false, .rem 7 9 10 true, .and 7 9 10, .or 7 9 10,
      .xor 7 9 10, .andn 7 9 10, .sll 7 9 10, .srl 7 9 10, .sra 7 9 10, .slt 7 9 8 false, .min 7 9 8 true, .max 7 9 8 false,
      .adds 7 9 9 false, .adds 7 10 10 true, .subs 7 9 10 false, .subs 7 8 10 true, .shadd 7 9 10 4, .addi 7 8 (-65536), .andi 7 9 65535,
      .ori 7 9 1, .xori 7 9 (-1), .slti 7 9 0, .sltiu 7 9 (-1), .muli 7 9 (-1), .seqi 7 9 0, .lui 7 (-1), .adrb 7 (-1),
      .slli 7 9 63, .srli 7 9 63, .srai 7 9 63, .bfx 7 9 0 63] : List Instr), (scalarValue demoEdges i).isSome = true) := by
  refine ⟨rfl, ?_⟩; decide

theorem witness_MaskFormsWriteEveryBit : (demo demoEdges).live = some demoEdges ∧
    (∀ i ∈ ([.kand 1 2 3, .kor 1 2 3, .kxor 1 2 0, .kandn 1 0 2, .kset 1 8, .kset 1 10, .kset 0 9] : List Instr),
      (maskResult demoEdges i).isSome = true) := by refine ⟨rfl, ?_⟩; decide

theorem witness_BitAndMaskCounts : (demo demoEdges).live = some demoEdges := rfl

theorem witness_ConstantRegistersDiscardWrites : (demo demoEdges).live = some demoEdges ∧
    (∃ v, scalarValue demoEdges (.add 0 8 9) = some (0, v)) ∧ ∃ f, maskResult demoEdges (.kset 0 9) = some (0, f) :=
  ⟨rfl, ⟨_, rfl⟩, ⟨_, rfl⟩⟩

theorem witness_ConditionalBranches : (demo demoEdges).live = some demoEdges ∧
    branchTaken demoEdges (.beq 8 8 (-65536)) = some (true, -65536) ∧ branchTaken demoEdges (.bltu 9 8 65535) = some (false, 65535) := by
  refine ⟨rfl, ?_⟩; decide

/-- For the class test of `callr` both outcomes, for the low bits of `ret` both, for `loop` the last turn and an earlier one. -/
theorem witness_TransfersAndLinks : (demo demoEdges).live = some demoEdges ∧ (demoEdges.getS 10).toNat % 16 = (15 : Fin 16).val ∧
    (demoEdges.getS 9).toNat % 16 ≠ (15 : Fin 16).val ∧ (demoEdges.getS 9).toNat % 16 = 0 ∧ (10 : SReg) ≠ 0 ∧
    (demoTask [(10, 1)]).getS 10 - 1 = 0 ∧ demoEdges.getS 10 - 1 ≠ 0 := by refine ⟨rfl, ?_⟩; decide

/-- The lowest and the highest register number, and a number between that names none. -/
theorem witness_ControlRegisterForms : (demo demoEdges).live = some demoEdges ∧
    ((demo demoEdges).readCtrl 0 demoCtx demoEdges 0x000).isSome = true ∧ ((demo demoEdges).readCtrl 0 demoCtx demoEdges 0x147).isSome = true ∧
    (demo demoEdges).readCtrl 0 demoCtx demoEdges ((demoEdges.getS 10).toNat % 4096) = none ∧ ctrlNamed 0x147 = true ∧
    ctrlAccess 0x100 = some .rs ∧ ((demoUser demoEdges).cctx demoEdges).sup = false ∧
    (∀ i ∈ ([.wrc 9 0x080, .setc 1 9 0x080, .clrc 1 9 0x080, .xchc 1 9 0x080, .addc 1 9 0x080, .rdcz 1 0x080] : List Instr),
      (writeForm demoEdges i).isSome = true) ∧
    (match (demo demoEdges).writeCtrl demoEdges 0x080 1 with | .done _ => true | _ => false) = true := by refine ⟨rfl, ?_⟩; decide

theorem witness_PlainRegistersReadBack : (demo demoEdges).live = some demoEdges ∧ ((demo demoEdges).core 0).cctx 1 = some demoCtx ∧
    (∀ n ∈ [0x010, 0x080, 0x081, 0x0C1, 0x0E3, 0x0E6, 0x100, 0x102, 0x105, 0x121, 0x125, 0x126, 0x12A],
      (plainWritten (demoEdges.getS 10) n).isSome = true ∧ (ctrlAccess n = some .rw ∨ demoCtx.sup = true)) ∧
    plainWritten 16384 0x010 = some 16384 ∧ plainWritten 16385 0x010 = some 16384 := by refine ⟨rfl, rfl, ?_⟩; decide

/-- The row of ring 3 is written while a committed command of engine 0 names it, and while none does. -/
def demoCmd : Cmd := { status := .active, ctx := 1, tid := 1, dst := BitVec.ofNat 768 (2 ^ 207 + 3 * 2 ^ 203) }
def demoRingCmd : Task := { demoTask [] with engines := (Vector.replicate 2 {}).set 0 { active := some demoCmd } }

theorem witness_ValidatedRegisterWrites : (demo demoRingCmd).live = some demoRingCmd ∧ ((demo demoRingCmd).core 0).cctx 1 = some demoCtx ∧
    ((demo demoRingCmd).core 0).regionBusy demoCtx 0 = false ∧ ((demo demoRingCmd).core 0).ringCmds 1 2 = [] ∧
    ((demo demoRingCmd).core 0).ringCmds 1 3 = [demoCmd] ∧ demoCtx.sup = true ∧ ({ demoCtx with sup := false } : CoreCtx).sup = false ∧
    (demoUser demoRingCmd).live = some demoRingCmd ∧ ((demoUser demoRingCmd).core 0).cctx 1 = some { demoCtx with sup := false } := by
  refine ⟨rfl, rfl, ?_, ?_, ?_, ?_, ?_, rfl, rfl⟩ <;> decide +kernel

theorem witness_VectorIntegerLanes : (demo demoEdges).live = some demoEdges ∧
    ∀ i ∈ ([.vadd 1 2 3 1, .vsub 1 2 3 8, .vmul 1 2 3 1, .vmulh 1 2 3 8, .vadds 1 2 3 5, .vsubs 1 2 3 5, .vmin 1 2 3 1, .vmax 1 2 3 8, .vand 1 2 3 1,
      .vor 1 2 3 8, .vxor 1 2 3 1, .vsll 1 2 3 8, .vsr 1 2 3 1, .vsplat 1 9 8, .vidx 1 1, .vperm 1 2 3 2, .vslideup 1 2 9 13,
      .vslidedn 1 2 9 1] : List Instr), i.wellFormed = true ∧ (intLane demoEdges i).isSome = true := by refine ⟨rfl, ?_⟩; decide

theorem witness_VectorCompareMoveSelect : (demo demoEdges).live = some demoEdges ∧ (Instr.vcmp 3 1 2 3 8).wellFormed = true ∧
    (Instr.vmvs 1 2 9 1).wellFormed = true := by refine ⟨rfl, ?_⟩; decide

theorem witness_VectorFloatLanes : (demo demoEdges).live = some demoEdges ∧
    (∀ i ∈ ([.vfadd 1 2 3 0 3, .vfsub 1 2 3 2 0, .vfmul 1 2 3 1 1, .vfdiv 1 2 3 0 0, .vfmin 1 2 3 0, .vfmax 1 2 3 2, .vfsgnj 1 2 3 0, .vfscl 1 2 3 0 0,
      .vfsplat 1 9 1 2] : List Instr), i.wellFormed = true ∧ (fltLane demoEdges i).isSome = true) ∧
    (∀ i ∈ ([.vfsqrt 1 2 1 0 0, .vfrsqrt 1 2 1 2 3, .vfabs 1 2 0 0, .vfneg 1 2 7 1, .vfexp2 1 2 0 0 0, .vfrnd 1 2 1 0 3] : List Instr),
      i.wellFormed = true ∧ (fltMasked i).isSome = true) ∧
    (∀ i ∈ ([.vfmaF32 1 2 3 4, .vfnmaF32 1 2 3 4, .vfmaBf16 1 2 3 4, .vfmaF16 1 2 3 4, .vfmawBf16 1 2 3 4] : List Instr),
      (fusedForm i).isSome = true) := by refine ⟨rfl, ?_⟩; decide

theorem witness_VectorConversionsAndBlocks : (demo demoEdges).live = some demoEdges ∧
    ∀ i ∈ ([.vcvt 1 2 9 1, .vcvt 1 2 13 8, .vfcmp 3 1 2 3 2, .vbmax 1 2 1 0, .vqnt 1 2 8 2 0, .vdqnt 1 2 13, .vhad 1 2 0 1, .vscan 1 2 2 0 1, .vscan 1 2 0 7 11] : List Instr),
      i.wellFormed = true := by refine ⟨rfl, ?_⟩; decide

theorem witness_VectorReductions : (demo demoEdges).live = some demoEdges ∧ 1 ≤ (1 : Fin 16).val ∧ (8 : Fin 16).val ≤ 8 ∧
    9 ≤ (9 : Fin 16).val ∧ (11 : Fin 16).val ≤ 11 ∧ (2 : Fin 4).val < 3 := by refine ⟨rfl, ?_⟩; decide

/-- The least normal and the greatest finite number of FP32, and a zero. -/
theorem witness_RoundingAndNans : ∀ b ∈ [0, 0x00800000, 0x7F7FFFFF, 0x80000000], b < 2 ^ FFmt.f32.width ∧ (FFmt.f32.value b).isFin = true ∧
    (FFmt.f32.read b).2 = false := by decide

/-- Tiles t5 (2 × 2 of bytes in v1), t2 (2 × 2 of bytes in v2), t6 of the same shape with another element type, t3 invalid; row numbers inside
and outside; the shape of t5 is accepted, one register past the last is not. -/
def demoTiles : Task :=
  { demoTask [(9, 1), (10, 2)] with regs := { demoRegs [(9, 1), (10, 2)] with
      tdim := (((Vector.replicate 16 0).set 5 0x8001010000020002).set 2 0x8002010000020002).set 6 0x8003020000020002 } }

theorem witness_tileForms : (demo demoTiles).live = some demoTiles ∧ demoTiles.shape 3 = none ∧ (∃ x y z, demoTiles.shape 5 = some x ∧
    demoTiles.shape 2 = some y ∧ demoTiles.shape 6 = some z ∧ x.rows = y.cols ∧ x.cols = y.rows ∧ x.w = y.w ∧ x.rows = z.rows ∧
    x.cols = z.cols ∧ x.et ≠ z.et ∧ (demoTiles.getS 9).toNat < x.rows ∧ x.rows ≤ (demoTiles.getS 10).toNat) ∧
    tileValid 0x8001010000020002 = true ∧ tileValid 0x817F010000020002 = false := by
  refine ⟨rfl, by decide, ⟨_, _, _, rfl, rfl, rfl, ?_⟩, ?_⟩ <;> decide

/-- A nest of one segment of 32 bytes over two rows, 32 bytes apart: it ends with the partition, or one band past it. -/
def demoNest (off : Nat) : Task :=
  { demoTask [] with regs := { nest := BitVec.ofNat 64 (32 * 2 ^ 41 + 1 * 2 ^ 10), o := (Vector.replicate 8 0).set 0 (BitVec.ofNat 64 (off + 32 * 2 ^ 22)) } }

theorem witness_mangerForms : (demo (demoNest 196544)).live = some (demoNest 196544) ∧ nestOk (demoTask []).regs.nest = false ∧
    nestOk (demoNest 0).regs.nest = true ∧ hull (nestOf (demoNest 196544).regs.nest) (demoNest 196544).regs.o = (196544, 196608) ∧
    hull (nestOf (demoNest 196545).regs.nest) (demoNest 196545).regs.o = (196545, 196609) ∧ (demoCtx.psize : Int) = 196608 ∧
    hull (nestOf (demoNest 0).regs.nest) ((Vector.replicate 8 0).set 0 0x0000000FF0000000) = (-64, 32) ∧
    ((demo (demoNest 0)).core 0).room 1 1 = true ∧ (demo (demoNest 0)).runsCallOf (demoNest 0) = false ∧
    (List.replicate 4 ({ nest := 0, o := Vector.replicate 8 0, row := 0, serial := 0 } : Replay)).length = 4 := by
  refine ⟨rfl, ?_⟩; decide

/-- A core whose matrix unit context 1 owns, changed. -/
def demoUnit (t : Task) (f : MatUnit → MatUnit) : State := demoWith t fun c => { c with mx := f { c.mx with owner := some 1 } }
/-- The same in an exchange phase. -/
def demoUnitX (t : Task) (f : MatUnit → MatUnit) : State := demoXWith t fun c => { c with mx := f { c.mx with owner := some 1 } }

theorem witness_ownerAlone : (demo demoEdges).live = some demoEdges ∧ ownerChecked (.mzero 8) = true ∧ ((demo demoEdges).core 0).mx.owner ≠ some 1 ∧
    (demoWith demoEdges fun c => { c with mx := { c.mx with owner := some 2 } }).live = some demoEdges := by refine ⟨rfl, ?_, ?_, rfl⟩ <;> decide

/-- The mask names macro 63; the unit runs nothing, and macro 63 is in storage mode in one state and computes in the other. The half of a
descriptor that [6] selects accepts 1 and refuses 2. -/
def demoMask : Task := demoTask [(8, 0x8000000000000000), (9, 127), (10, 1), (11, 2), (12, 63)]

theorem witness_macroForms : (demoUnit demoMask id).live = some demoMask ∧ ((demoUnit demoMask id).core 0).mx.owner = some 1 ∧
    macrosFree (demoUnit demoMask id) demoMask (demoMask.getS 8) ∧
    (∀ i : Fin 64, (demoMask.getS 8).getLsbD i.val = true → ((demoUnit demoMask id).core 0).mx.macros[i].busy = false ∧
        ∀ k ∈ ((demoUnit demoMask id).core 0).allCalls, k.uses i = true → k.modes.getLsbD i.val = false) ∧
    (demoUnit demoMask id).unitHold demoMask false false [macroSpan 63] = none ∧
    (demoUnit demoMask id).unitHold demoMask false true [macroSpan 63] = none ∧
    (demoMask.getS 9).getLsbD 6 = true ∧ (demoMask.getS 11).toNat / 2 ≠ 0 ∧ (demoMask.getS 10).toNat / 2 = 0 ∧
    ((demoUnit demoMask id).core 0).mx.macros[(63 : Fin 64)].compute = false ∧
    ((demoUnit demoMask fun u => { u with macros := u.macros.set 63 { compute := true } }).core 0).mx.macros[(63 : Fin 64)].compute = true := by
  refine ⟨rfl, rfl, ?_, ?_, rfl, rfl, ?_, ?_, ?_, rfl, rfl⟩ <;> (try unfold macrosFree) <;> decide +kernel

/-- Handles 1 (running), 2 (done) and 3 (not kept, though issued); no call is outstanding in one state, one is in the other. -/
def demoStats : Task :=
  { demoTask [(8, 1), (9, 2), (10, 3)] with ctl := { lasth := 3 }, stats := [{ handle := 1 }, { handle := 2, status := 0x8000000000000000 }] }

theorem witness_UnitRegistersAndStatus : (demoUnit demoStats id).live = some demoStats ∧ ((demoUnit demoStats id).core 0).mx.owner = some 1 ∧
    ((demoUnit demoStats id).cctx demoStats).sup = true ∧ ((demoUnit demoStats id).core 0).callsOutstanding = false ∧
    ((demoUnit demoStats fun u => { u with running := some { ctx := 1, tid := 1, handle := 1 } }).core 0).callsOutstanding = true ∧
    ((demoOn (demoCore demoStats { demoCtx with sup := false }) { power := .running }).cctx demoStats).sup = false ∧
    (∃ r, demoStats.stats.find? (·.handle == (demoStats.getS 8).setWidth 32) = some r ∧ r.status.getLsbD 63 = false) ∧
    (∀ r, demoStats.stats.find? (·.handle == (demoStats.getS 9).setWidth 32) = some r → r.status.getLsbD 63 = true) ∧
    (∀ r, demoStats.stats.find? (·.handle == (demoStats.getS 10).setWidth 32) = some r → r.status.getLsbD 63 = true) ∧
    ((demoUnit demoStats id).core 0).openCalls 1 = [] ∧
    ((demoUnit demoStats fun u => { u with running := some { ctx := 1, tid := 1, handle := 1 } }).core 0).openCalls 1 ≠ [] := by
  refine ⟨rfl, rfl, rfl, rfl, rfl, rfl, ⟨_, rfl, rfl⟩, ?_, ?_, rfl, ?_⟩ <;> decide

/-- Footprints: none declared; a loft range that ends with the partition, and one that runs a granule past it. Masks and rows of `mtacc` at
their limits. -/
def demoFoot (m6 m7 : W64) : Task :=
  { demoTask [(8, 1), (9, 0), (10, 0x0101), (11, 0x0001), (12, 2)] with regs :=
    { demoRegs [(8, 1), (9, 0), (10, 0x0101), (11, 0x0001), (12, 2)] with m := ((Vector.replicate 8 0).set 6 m6).set 7 m7 } }

theorem witness_MatrixCalls : (demoUnit (demoFoot 0 0) id).live = some (demoFoot 0 0) ∧ ((demoUnit (demoFoot 0 0) id).dev.phase.getLsbD 0 = false) ∧
    (demoX (demoFoot 0 0)).live = some (demoFoot 0 0) ∧ (demoX (demoFoot 0 0)).dev.phase.getLsbD 0 = true ∧
    ((demo (demoFoot 0 0)).core 0).mx.owner ≠ some 1 ∧ ((demoUnit (demoFoot 0 0) id).core 0).mx.owner = some 1 ∧
    (demoFoot 0 0).footFails demoCtx.psize = none ∧ (demoFoot 0x0BFF0BFE 8).footFails demoCtx.psize = none ∧
    (demoFoot 0x0C000BFE 8).footFails demoCtx.psize ≠ none ∧
    (((demoUnit (demoFoot 0 0) id).core 0).openCalls 1).length < 8 ∧
    ((demoUnit (demoFoot 0 0) id).core 0).room 1 (callEntries demoCtx (.call 1 1) (demoFoot 0 0).regs.m[7] (demoFoot 0 0).regs.m[6]).length = true ∧
    ((demoUnitX (demoFoot 0 0) id).core 0).room 1 2 = true ∧
    ((demoFoot 0 0).getS 11).toNat / 256 % 128 < ((demoFoot 0 0).getS 11).toNat % 128 ∧
    ((demoFoot 0 0).getS 10).toNat % 128 ≤ ((demoFoot 0 0).getS 10).toNat / 256 % 128 ∧
    2 ^ ((demoFoot 0 0).tsz.val + 1) ≤ ((demoFoot 0 0).getS 12).toNat % 65536 ∧
    ((demoFoot 0 0).getS 8).toNat % 65536 < 2 ^ ((demoFoot 0 0).tsz.val + 1) := by
  refine ⟨rfl, rfl, rfl, rfl, ?_, rfl, rfl, rfl, ?_, ?_, rfl, rfl, ?_, ?_, ?_, ?_⟩ <;> decide

/-- Rows: 8 and 16 are aligned, 1 is not; 112 is the last aligned pair of rows; ranges the wrong way round and right. -/
def demoRows : Task := demoTask [(8, 0), (9, 1), (10, 0x7F70), (11, 0x0001), (12, 120)]

theorem witness_DrainsAndRestores : (demoUnit demoRows id).live = some demoRows ∧ ((demoUnit demoRows id).core 0).mx.owner = some 1 ∧
    (demoRows.getS 9).toNat % 128 % 8 ≠ 0 ∧ (demoRows.getS 9).toNat % 128 % 16 ≠ 0 ∧ (demoRows.getS 12).toNat % 128 % 8 = 0 ∧
    (demoUnit demoRows id).unitHold demoRows true true [accSpan 120 127] = none ∧ (demoUnit demoRows id).unitHold demoRows true false [accSpan 120 127] = none ∧
    (demoUnit demoRows id).unitHold demoRows true true [bndSpan 112 127] = none ∧ (demoUnit demoRows id).unitHold demoRows true false [bndSpan 112 127] = none ∧
    (demoRows.getS 10).toNat % 128 % 16 = 0 ∧ (demoRows.getS 11).toNat / 256 % 128 < (demoRows.getS 11).toNat % 128 ∧
    (demoRows.getS 10).toNat % 128 ≤ (demoRows.getS 10).toNat / 256 % 128 ∧
    (demoUnit demoRows id).unitHold demoRows false true [accSpan 112 127, bndSpan 112 127] = none := by
  refine ⟨rfl, rfl, ?_, ?_, ?_, rfl, rfl, rfl, rfl, ?_, ?_, ?_, rfl⟩ <;> decide

/-- The image of a unit that runs nothing (R275), for `mrest.u`: accepted while the unit is frozen, refused while it is not. -/
def demoImage : Task := { demoTask [] with regs := { v := Mem.write [] 0 ((demoUnit (demoTask []) id).microImage 0 (demoTask [])) } }

theorem witness_mrestU : (demoUnit demoImage fun u => { u with frozen := true }).live = some demoImage ∧
    imageOk (demoImage.regs.v.read 0 8192) = true ∧ ((demoUnit demoImage fun u => { u with frozen := true }).core 0).mx.frozen = true ∧
    ((demoUnit demoImage fun u => { u with frozen := true }).core 0).callsOut demoImage = 0 ∧ ((demoUnit demoImage id).core 0).mx.frozen = false := by
  refine ⟨rfl, ?_, rfl, rfl, rfl⟩; decide +kernel

/-! ### The loft -/

/-- A record with the given BASE, EXT, BCM and ROWLEN over n16 units; register 3 is invalid. -/
def demoBuf (base ext bcm rowlen : Nat) : BitVec 256 :=
  BitVec.ofNat 256 (base + 2 ^ 62 + ext * 2 ^ 96 + 128 * 2 ^ 64 + rowlen * 2 ^ 128 + 6 * 2 ^ 192 + bcm * 2 ^ 200)
/-- Record 1 as given, `c.vl` = 2, s4 = -1, index 1 in lane 0 of v7. -/
def demoBufTask (r : BitVec 256) : Task :=
  { demoTask [(4, -1)] with ctl := { vl := 2 }, regs := { demoRegs [(4, -1)] with b := (Vector.replicate 16 0).set 1 r, v := Mem.setNum [] 0x1C000 4 1 } }
/-- Two n16 units in the partition, whole. -/
def demoFit : Task := demoBufTask (demoBuf 196604 4 1 2)

theorem witness_LoftAccessChecks : (demo demoFit).live = some demoFit ∧
    (∀ i ∈ ([.ldScalar 5 1 0, .stScalar 5 1 1, .ldVector 5 1 0, .stVector 5 1 0, .ldw 5 1 0, .stw 5 1 0, .ldScalarX 5 1 4 1, .stScalarX 5 1 4 2,
      .ldVectorX 5 1 4 1, .stVectorX 5 1 4 1, .ldwX 5 1 4 1, .stwX 5 1 4 1, .ldg 5 1 7 0, .stg 5 1 7 0] : List Instr), (loftUnits demoFit i).isSome = true) ∧
    bufOp demoFit.regs.b[(3 : BReg)] = none ∧ (∃ b, bufOp demoFit.regs.b[(1 : BReg)] = some b ∧ runFrom demoFit 0 b = some [196604, 196606] ∧
      runFrom demoFit 1 b = some [196606, 196608] ∧ windowFrom demoFit 0 b = some [196604, 196606] ∧
      b.check demoCtx.psize [196604, 196606] = .ok [some 196604, some 196606] ∧ b.check demoCtx.psize [196606, 196608] = .error 196608 ∧
      b.check demoCtx.psize [196602] = .error 196602) ∧
    (∃ b, bufOp (demoBuf 0 0 2 0) = some b ∧ windowFrom demoFit 0 b = none ∧ b.check demoCtx.psize [0] = .ok [none]) := by
  refine ⟨rfl, ?_, rfl, ⟨_, rfl, ?_⟩, ⟨_, rfl, ?_⟩⟩ <;> decide +kernel

/-- An entry of another operation over the last granule holds a write, and lets a read pass when it reads. -/
def demoHeld (w : Bool) : State := demoWith demoFit fun c => { c with sb := [⟨.loft, 3071, 3071, w, false, 1, .sync 9⟩] }

theorem witness_held : (demoHeld true).live = some demoFit ∧
    ((demoHeld true).holdFirst demoFit demoCtx true false [(196604, 4)] (granules [(196604, 4)])).isSome = true ∧
    ((demoHeld true).holdFirst demoFit demoCtx false false [(196604, 4)] (granules [(196604, 4)])).isSome = true ∧
    ((demoHeld false).holdFirst demoFit demoCtx false false [(196604, 4)] (granules [(196604, 4)])).isSome = false ∧
    ((demo demoFit).holdFirst demoFit demoCtx true false [(196604, 4)] (granules [(196604, 4)])).isSome = false := by
  refine ⟨rfl, ?_⟩; decide +kernel

theorem witness_LoftLoads : (demo demoFit).live = some demoFit ∧ loftUnits demoFit (.ldVector 5 1 0) = some (false, 1, runFrom demoFit 0) ∧
    ∃ b, bufOp demoFit.regs.b[(1 : BReg)] = some b ∧ runFrom demoFit 0 b = some [196604, 196606] ∧
      Unheld (demo demoFit) demoFit b [196604, 196606] [some 196604, some 196606] false :=
  ⟨rfl, rfl, _, rfl, by decide +kernel, by unfold Unheld; exact ⟨rfl, rfl⟩⟩

theorem witness_LoftStores : (demo demoFit).live = some demoFit ∧ loftUnits demoFit (.stw 5 1 0) = some (true, 1, windowFrom demoFit 0) ∧
    ∃ b, bufOp demoFit.regs.b[(1 : BReg)] = some b ∧ windowFrom demoFit 0 b = some [196604, 196606] ∧
      Unheld (demo demoFit) demoFit b [196604, 196606] [some 196604, some 196606] true :=
  ⟨rfl, rfl, _, rfl, by decide +kernel, by unfold Unheld; exact ⟨rfl, rfl⟩⟩

/-- Records at the last place that fits (196576), one past it, and out of line; record registers 15 and 16 are the last short and the first
long one. -/
theorem witness_RecordMoves : let t := demoTask [(8, 196576), (9, 196608), (10, 16), (11, 196512)]
    (demo t).live = some t ∧ (15 : RecReg).val < 16 ∧ ¬ (16 : RecReg).val < 16 ∧
    ((t.getS 8) + (0 : BitVec 17).signExtend 64 * 32).toNat % 32 = 0 ∧ ((t.getS 8) + (0 : BitVec 17).signExtend 64 * 32).toNat + 32 ≤ demoCtx.psize ∧
    ((t.getS 11) + (0 : BitVec 17).signExtend 64 * 32).toNat + 96 ≤ demoCtx.psize ∧
    demoCtx.psize < ((t.getS 8) + (1 : BitVec 17).signExtend 64 * 32).toNat + 32 ∧ ((t.getS 10) + (0 : BitVec 17).signExtend 64 * 32).toNat % 32 ≠ 0 ∧
    ((demo t).holdFirst t demoCtx true false [(196576, 32)] (granules [(196576, 32)])).isNone = true ∧
    ((demo t).holdFirst t demoCtx false false [(196512, 96)] (granules [(196512, 96)])).isNone = true ∧
    ((demoHeld true).holdFirst t demoCtx true false [(196576, 32)] (granules [(196576, 32)])).isSome = true := by
  refine ⟨rfl, ?_⟩; decide +kernel

/-- Offsets: the last word of the partition, the first past it, one out of line; the last 256-byte run for `tagrd`. -/
def demoTags : Task := demoTask [(8, 196604), (9, 196608), (10, 2), (11, 196352), (12, 1), (13, 196600)]
/-- The last word full in one state, empty in the other. -/
def demoTagged (full : Bool) : State := demoWith demoTags fun c => { c with tags := if full then [(49151, 1)] else [] }

theorem witness_taggedForms : (demoTagged true).live = some demoTags ∧ (demoTagged false).live = some demoTags ∧
    ([.ldf 5 8 0, .ldfp 5 8 0, .stf 5 8 0, .stfx 5 8 0] : List Instr).all (fun i => (taggedForm i).isSome) = true ∧
    (demoTags.getS 8).toNat % 4 = 0 ∧ (demoTags.getS 8).toNat + 4 ≤ demoCtx.psize ∧ demoCtx.psize < (demoTags.getS 9).toNat + 4 ∧
    (demoTags.getS 10).toNat % 4 ≠ 0 ∧ ((demoTagged true).core 0).tags.get 49151 = 1 ∧ ((demoTagged false).core 0).tags.get 49151 = 0 ∧
    (∀ w, ((demoTagged true).holdFirst demoTags demoCtx w true [(196604, 4)] (granules [(196604, 4)])).isNone = true) ∧
    (∀ b, ((demoTagged b).core 0).queued { ctx := 1, ring := false, obj := 196604, dir := b, owner := .task 1 } = false) ∧
    (demoTags.getS 11).toNat % 256 = 0 ∧ (demoTags.getS 11).toNat + 256 ≤ demoCtx.psize ∧ (demoTags.getS 8).toNat % 256 ≠ 0 ∧
    ((demoTagged true).holdFirst demoTags demoCtx false false [(196352, 256)] (granules [(196352, 256)])).isNone = true ∧
    (demoTags.getS 13).toNat + 4 * ((demoTags.getS 12).toNat % 2 ^ 32) ≤ demoCtx.psize ∧
    demoCtx.psize < (demoTags.getS 9).toNat + 4 * ((demoTags.getS 12).toNat % 2 ^ 32) ∧
    ((demoTagged true).holdFirst demoTags demoCtx false true [(196600, 4)] (granules [(196600, 4)])).isNone = true := by
  refine ⟨rfl, rfl, ?_⟩; decide +kernel

/-- Ring 2 of two slots, one free and one filled; ring 4 with neither; ring 6 invalid; the task holds a write claim on ring 2. -/
def demoRing (f g : Nat) : Ring := { desc := 0x8002000100010000, free := f, filled := g }
def demoRingCtx : CoreCtx := { demoCtx with rings := ((Vector.replicate 16 {}).set 2 (demoRing 1 1)).set 4 (demoRing 0 0) }
def demoClaims : Task := { demoTask [] with claims := [(2, true, 0)] }
def demoRings : State := demoOn (demoCore demoClaims demoRingCtx) { power := .running }

theorem witness_ringForms : demoRings.live = some demoClaims ∧ (demoRings.core 0).cctx 1 = some demoRingCtx ∧
    demoRingCtx.rings[(6 : Fin 16)].valid = false ∧ demoRingCtx.rings[(2 : Fin 16)].valid = true ∧ demoRingCtx.rings[(4 : Fin 16)].valid = true ∧
    (∀ w, (demoRings.core 0).queued { ctx := 1, ring := true, obj := 2, dir := w, owner := .task 1 } = false) ∧
    0 < demoRingCtx.rings[(2 : Fin 16)].free ∧ 0 < demoRingCtx.rings[(2 : Fin 16)].filled ∧ demoRingCtx.rings[(4 : Fin 16)].free = 0 ∧
    demoRingCtx.rings[(4 : Fin 16)].filled = 0 ∧ demoClaims.claims.find? (fun c => c.1 == 2 && c.2.1 == true) = some (2, true, 0) ∧
    demoClaims.claims.find? (fun c => c.1 == 2 && c.2.1 == false) = none := by
  refine ⟨rfl, rfl, ?_⟩; decide +kernel

/-- Engine 0 of a task: nothing staged, a building command, a committed one. -/
def demoStaged (k : Option Cmd) (other : Option Cmd) : Task :=
  { demoTask [(8, 64)] with engines := ((Vector.replicate 2 {}).set 0 { staged := k }).set 1 { staged := other } }

theorem witness_CopyStaging : (demo (demoStaged none none)).live = some (demoStaged none none) ∧
    (∀ k, (engOf (demoStaged none none) false).staged = some k → k.status = .building) ∧
    (engOf (demoStaged (some { status := .committed }) none) false).staged = some { status := .committed } ∧
    (engOf (demoStaged none none) false).staged.filter (·.status == .building) = none ∧
    (engOf (demoStaged (some {}) none) false).staged.filter (·.status == .building) = some {} ∧
    (engOf (demoStaged (some {}) none) true).staged = none ∧ (engOf (demoStaged (some {}) (some {})) true).staged = some {} ∧
    ((demo (demoStaged (some {}) none)).core 0).room 1 (({} : Cmd).entries 0 demoCtx).length = true ∧
    (({ demoCore (demoTask []) demoCtx with
        sb := List.replicate 64 ⟨.loft, 0, 0, false, false, 1, .sync 9⟩ } : Core).room 1
      (({ src := BitVec.ofNat 768 (2 ^ 62 + 64 * 2 ^ 64 + 64 * 2 ^ 96 + 2 ^ 128 + 2 ^ 144 + 2 ^ 192) } : Cmd).entries 0 demoCtx).length) = false := by
  refine ⟨rfl, ?_, ?_⟩
  · intro k h; exact absurd h (by simp [engOf, demoStaged])
  · decide +kernel

theorem witness_recordForms : (demo demoRingCmd).live = some demoRingCmd ∧ ((demo demoRingCmd).core 0).cctx 1 = some demoCtx ∧
    ((demo demoRingCmd).core 0).bankHolders 1 true = [] ∧ ((demo demoRingCmd).core 0).bankHolders 1 false ≠ [] := by
  refine ⟨rfl, rfl, ?_, ?_⟩ <;> decide +kernel

/-- Command 0x00000001 of core 0, faulted; an image at the last place that fits, one past it, one out of line. -/
def demoFaulted : Task := { demoTask [(8, 1), (9, 2), (10, 196352), (11, 196608), (12, 128)] with
  engines := (Vector.replicate 2 {}).set 0 { active := some { uid := 5, status := .faulted, handle := 1, ctx := 1, tid := 1 } } }

theorem witness_copyControl : (demo demoFaulted).live = some demoFaulted ∧ ((demo demoFaulted).cctx demoFaulted).sup = true ∧
    ((demoUser demoFaulted).cctx demoFaulted).sup = false ∧
    (demo demoFaulted).outstanding ((demoFaulted.getS 8).setWidth 32) =
      some (0, { uid := 5, status := .faulted, handle := 1, ctx := 1, tid := 1 }) ∧
    (demo demoFaulted).outstanding ((demoFaulted.getS 9).setWidth 32) = none ∧
    (demoFaulted.getS 10).toNat % 256 = 0 ∧ (demoFaulted.getS 10).toNat + 256 ≤ demoCtx.psize ∧
    demoCtx.psize < (demoFaulted.getS 11).toNat + 256 ∧ (demoFaulted.getS 12).toNat % 256 ≠ 0 ∧ demoFaulted.getS 10 ≠ 0 ∧
    ((demo demoFaulted).holdFirst demoFaulted demoCtx false false [(196352, 256)] (granules [(196352, 256)])).isNone = true := by
  refine ⟨rfl, ?_⟩; decide +kernel

/-- A full queue of register commands, an aligned address, one out of line. -/
def demoXfer (n : Nat) : Task := { demoTask [(8, 0x1000), (9, 0x1002)] with engines := Vector.replicate 2 { regs := List.replicate n {} } }

theorem witness_RegisterCommands : (demo (demoXfer 0)).live = some (demoXfer 0) ∧ (demoX (demoXfer 7)).live = some (demoXfer 7) ∧
    (∀ i ∈ ([.xfer 4 8 0 false 4, .xredAdd 4 8 0 9, .xredMax 4 8 0 1, .xredMin 4 8 0 11] : List Instr), (registerForm i).isSome = true ∧ i.wellFormed = true) ∧
    (demo (demoXfer 0)).dev.phase.getLsbD 0 = false ∧ (demoX (demoXfer 0)).dev.phase.getLsbD 0 = true ∧
    ((demoXfer 0).getS 8).toNat % 8 = 0 ∧ ((demoXfer 0).getS 9).toNat % 4 ≠ 0 ∧ Min.min (demoXfer 0).ctl.vl.toNat (16384 / 4) ≠ 0 ∧
    Min.min ({ demoXfer 0 with ctl := { vl := 0 } } : Task).ctl.vl.toNat (16384 / 4) = 0 ∧ 8 ≤ (engOf (demoXfer 8) false).regs.length ∧
    (engOf (demoXfer 7) true).regs.length < 8 ∧ ((demoX (demoXfer 7)).core 0).sb.length + 2 ≤ 64 ∧
    (((demoX (demoXfer 7)).core 0).sb.filter (·.ctx == (demoXfer 7).ctx)).length + 2 ≤ 64 - 8 * (((demoX (demoXfer 7)).core 0).residents - 1) := by
  refine ⟨rfl, rfl, ?_⟩; decide +kernel

/-! ### Synchronisation -/

/-- The page at virtual 0x400000: its frame lies in core 0's slice, or in core 1's. -/
def demoPage (frame : Nat) (x : Bool) (t : Task) (f : Core → Core) : State :=
  (demoOn (f { demoCore t demoCtx with tlb := [{ asn := 1, sz := 0, vpn := 0x400, frame := frame, w := true }] })
    { power := .running, phase := if x then 1 else 0 }).setCore 1 { avail := true, live := BitVec.allOnes 32 }
/-- Addresses: the last word of 8 bytes of the partition, one past it, one out of line, and the page. -/
def demoSync : Task := demoTask [(8, 196600), (9, 196608), (10, 4), (11, 0x400000), (12, 0x400004), (13, 7)]

theorem inHand_loft (w : Bool) : InHand (demo demoSync) demoSync w 8 196600 (windowBase 0 + 196600)
    ((demo demoSync).reached demoSync [(196600, 8)] w) := by
  unfold InHand; cases w <;> refine ⟨by decide, ⟨by decide, rfl, rfl⟩, by decide⟩

theorem inHand_slice (w : Bool) : InHand (demoPage 0x10 false demoSync id) demoSync w 8 0x400000 0x10000 (demoPage 0x10 false demoSync id) := by
  unfold InHand; cases w <;> refine ⟨by decide, by decide, rfl, by decide +kernel, .inl ⟨0x10000, by decide +kernel, rfl⟩⟩

theorem inHand_window (w : Bool) : InHand (demo demoSync) demoSync w 8 0xF000010000 0xF000010000
    ((demo demoSync).reached demoSync [(0x10000, 8)] w) := by
  unfold InHand
  cases w <;> refine ⟨by decide, by decide, rfl, by decide +kernel, .inr ⟨0x10000, by decide +kernel, by decide, by decide, rfl, rfl⟩⟩

theorem witness_AtomicSteps : (demo demoSync).live = some demoSync ∧ (demoPage 0x60000 false demoSync id).live = some demoSync ∧
    (∀ i ∈ ([.aadd 5 8 13 true 3, .aand 5 8 13 true 3, .aor 5 8 13 false 3, .axch 5 8 13 true 3, .amax 5 8 13 true 3, .amin 5 8 13 false 3,
      .acas 5 8 13 true 3, .ald 5 8 true 3, .ast 8 13 true 4] : List Instr), (atomicForm i).isSome = true) ∧
    (demoSync.getS 8).toNat % 8 = 0 ∧ (demoSync.getS 8).toNat + 8 ≤ demoCtx.psize ∧ demoCtx.psize < (demoSync.getS 9).toNat + 8 ∧
    (demoSync.getS 10).toNat % 8 ≠ 0 ∧ 0x300000 ≤ (demoSync.getS 12).toNat ∧ (demoSync.getS 12).toNat % 2 ^ 56 % 8 ≠ 0 ∧
    (demoPage 0x60000 false demoSync id).carrier demoSync 0x400000 = none ∧
    (demoPage 0x60000 false demoSync id).translate 0 1 0x400000 true = .pa 0x60000000 ∧ homeOf 0x60000000 ≠ some 0 ∧
    (demoPage 0x60000 false demoSync id).dev.phase.getLsbD 0 = false ∧ demoSync.requests = [] := by
  refine ⟨rfl, rfl, ?_⟩; decide +kernel

/-- The lock at 196600: free, held by another task, held by this one. -/
def demoLock (v : Nat) : State := demoWith demoSync fun c => { c with loft := Mem.setNum [] 196600 8 v }

theorem witness_LocksAndMonitorWaits : (demo demoSync).live = some demoSync ∧
    (∀ w, InHand (demo demoSync) demoSync w 8 196600 (windowBase 0 + 196600) ((demo demoSync).reached demoSync [(196600, 8)] w)) ∧
    demoSync.granted = none ∧ (demo demoSync).wfRoom 0 1 1 = true ∧ (∀ e ∈ (demo demoSync).dev.wf, e.record = true) ∧
    wordAt (demoLock 0) demoSync (windowBase 0 + 196600) 8 = 0 ∧
    wordAt (demoLock 0x8000000000010002) demoSync (windowBase 0 + 196600) 8 = 0x8000000000010002 ∧
    wordAt (demoLock 0x8000000000010001) demoSync (windowBase 0 + 196600) 8 = 0x8000000000010001 ∧ (demoLock 0).live = some demoSync ∧
    (demoSync.getS 13).toNat = 7 ∧ wordAt (demoLock 6) demoSync (windowBase 0 + 196600) 8 = 6 ∧
    wordAt (demoLock 7) demoSync (windowBase 0 + 196600) 8 = 7 := by
  refine ⟨rfl, inHand_loft, rfl, ?_, ?_, ?_, ?_, ?_, rfl, ?_, ?_, ?_⟩ <;> decide +kernel

/-- A barrier at the last place that fits: armed with the given count, or unarmed with the given credit. -/
def demoBar (armed : Bool) (pend credit : Nat) : State :=
  demoWith (demoTask [(8, 196592), (9, 196608), (10, 8), (11, 0x0FFFFFFFFF), (12, 0x1000000000), (13, 5)]) fun c =>
    { c with loft := (Mem.setNum [] 196592 8 (pend + if armed then 2 ^ 63 + 2 ^ 62 else 0)).setNum 196600 8 credit }
def demoBarTask : Task := demoTask [(8, 196592), (9, 196608), (10, 8), (11, 0x0FFFFFFFFF), (12, 0x1000000000), (13, 5)]

theorem witness_BarrierSteps : (demoBar true 5 0).live = some demoBarTask ∧ (demoBarTask.getS 8).toNat % 16 = 0 ∧
    (demoBarTask.getS 8).toNat + 16 ≤ demoCtx.psize ∧ demoCtx.psize < (demoBarTask.getS 9).toNat + 16 ∧ (demoBarTask.getS 10).toNat % 16 ≠ 0 ∧
    (∀ w, ((demoBar true 5 0).holdFirst demoBarTask demoCtx w false [(196592, 16)] (granules [(196592, 16)])).isNone = true) ∧
    (let w0 := fun s : State => (s.core 0).loft.num 196592 8
     let w1 := fun s : State => (s.core 0).loft.num 196600 8
     w0 (demoBar true 5 0) % 2 ^ 36 = 5 ∧ (w0 (demoBar true 5 0)).testBit 63 = true ∧ (w0 (demoBar false 0 5)).testBit 63 = false ∧
     (w0 (demoBar true 5 0)).testBit 62 = (demoBarTask.getS 13).getLsbD 0 ∧ (w0 (demoBar false 0 5)).testBit 62 ≠ (demoBarTask.getS 13).getLsbD 0 ∧
     w1 (demoBar false 0 5) % 2 ^ 36 < (demoBarTask.getS 11).toNat ∧
     2 ^ 36 - 1 - w0 (demoBar true 5 0) % 2 ^ 36 < (demoBarTask.getS 11).toNat - w1 (demoBar true 5 0) % 2 ^ 36 ∧
     (demoBarTask.getS 13).toNat ≤ w1 (demoBar false 0 5) % 2 ^ 36) ∧
    (demoBarTask.getS 11).toNat < 2 ^ 36 ∧ 2 ^ 36 ≤ (demoBarTask.getS 12).toNat := by
  refine ⟨rfl, ?_⟩; decide +kernel

/-- A committed command; a wait-for table at its limit under both policies (WFMAX of 1 and one entry). -/
def demoEdge (r : Bool) : WfEntry := ⟨0, r, true, 0x11, 5, 1, 1, 0, .unknown, 0, false⟩
def demoTether (pol : Bool) (wf : List WfEntry) : State :=
  demoOn (demoCore (demoTask [(8, 5)]) { demoCtx with wfcfg := if pol then 0x8000000000000001 else 1 }) { power := .running, wf := wf }

theorem witness_DrainsAndTethers : (demoTether true []).live = some (demoTask [(8, 5)]) ∧
    ((demoTether true []).core 0).cctx 1 = some { demoCtx with wfcfg := 0x8000000000000001 } ∧
    (∀ c ∈ (demoTask [(8, 5)]).cmds, c.status = .building) ∧ (∀ y ∈ ((demoTether true []).core 0).syncs, y.tid ≠ 1) ∧
    (∃ c ∈ demoRingCmd.cmds, c.status ≠ .building) ∧ (demoTether true [demoEdge true]).wfRoom 0 1 1 = false ∧
    (demoTether false [demoEdge true]).wfRoom 0 1 1 = false ∧ (demoTether true []).wfRoom 0 1 1 = true ∧ (demo (demoTask [])).wfRoom 0 1 1 = true ∧
    (demoTether true []).newOwner (demoTask [(8, 5)]) 0x11 5 ≠ .task 1 := by
  refine ⟨rfl, rfl, ?_⟩; decide +kernel

/-! ### Translation, regions, phases -/

/-- The context table with contexts 1 (a supervisor's) and 2, of address spaces 1 and 2, with two units of loft each (R338). -/
def demoTable : Mem := [(0, 1), (2, 1), (5, 2), (7, 0xC0), (64, 2), (66, 2), (69, 2), (71, 0x80)]
/-- The device with that table. -/
def demoCtxs (t : Task) (k : CoreCtx) (x : Bool) : State := demoOn (demoCore t k) { power := .running, dram := demoTable, phase := if x then 1 else 0 }

/-- The first and the last address of the window range, and the addresses beside it; context 2, and a context that is not active. -/
def demoInv : Task := demoTask [(8, 0x00F000000000), (9, 0x00F1FFFFFFFF), (10, 0x00EFFFFFFFFF), (11, 0x00F200000000), (12, 2), (13, 3)]

theorem witness_Invalidations : (demoCtxs demoInv demoCtx false).live = some demoInv ∧
    (demoCtxs demoInv demoCtx false).invAsn demoInv (demoInv.getS 13) = none ∧
    (demoCtxs demoInv demoCtx false).invAsn demoInv (demoInv.getS 12) = some 2 ∧
    0x00F000000000 ≤ (demoInv.getS 8).toNat % 2 ^ 56 ∧ (demoInv.getS 9).toNat % 2 ^ 56 < 0x00F200000000 ∧
    (demoInv.getS 10).toNat % 2 ^ 56 < 0x00F000000000 ∧ 0x00F200000000 ≤ (demoInv.getS 11).toNat % 2 ^ 56 ∧
    ((demoCtxs demoInv demoCtx false).cctx demoInv).sup = true ∧ ((demoUser demoInv).cctx demoInv).sup = false := by
  refine ⟨rfl, ?_⟩; decide +kernel

/-- Region 1 covers the last two granules of the partition, dirty, or clean; region 2 is invalid. Barriers: none, the last place that fits, one
past it, one out of line. -/
def demoRegion (dirty : Bool) : CoreCtx :=
  { demoCtx with rgva := (Vector.replicate 16 0).set 1 0x8000000000400000, rgloc := (Vector.replicate 16 0).set 1 0x00020BFE, dirty := if dirty then [(3070, 1)] else [] }
def demoSyncs : Task := demoTask [(8, 1), (9, 2), (10, 196592), (11, 196608), (12, 8)]

theorem witness_RegionMaintenance : (demoCtxs demoSyncs (demoRegion true) false).live = some demoSyncs ∧
    (demoRegion true).regionValid 1 = true ∧ (demoRegion true).regionValid 2 = false ∧
    (demoSyncs.getS 10).toNat % 16 = 0 ∧ (demoSyncs.getS 10).toNat < demoCtx.psize ∧ ¬ (demoSyncs.getS 11).toNat < demoCtx.psize ∧
    (demoSyncs.getS 12).toNat % 16 ≠ 0 ∧ ((demoCtxs demoSyncs (demoRegion true) false).core 0).room 1 1 = true ∧
    ({ demoCore demoSyncs demoCtx with sb := List.replicate 64 ⟨.loft, 0, 0, false, false, 1, .sync 9⟩ } : Core).room 1 1 = false ∧
    [3070, 3071].filter ((demoRegion true).syncNeeds 1 0) = [3070] ∧ [3070, 3071].filter ((demoRegion false).syncNeeds 1 0) = [] := by
  refine ⟨rfl, ?_⟩; decide +kernel

/-- `phuntil` of the present phase and of the next. -/
theorem witness_PhaseInstructions : (demoX (demoTask [(8, 1), (9, 2)])).live = some (demoTask [(8, 1), (9, 2)]) ∧
    ((demoX (demoTask [])).dev.phase.ult ((demoTask [(8, 1), (9, 2)]).getS 9)) = true ∧
    ((demoX (demoTask [])).dev.phase.ult ((demoTask [(8, 1), (9, 2)]).getS 8)) = false := ⟨rfl, by decide, by decide⟩

/-! ### Tasks, traps and contexts -/

/-- Records at the last place that fits, past it, out of line, and one that is not runnable (its CODE is no bundle address); cores 0 and 1. -/
def demoSpawn : Task := demoTask [(8, 196576), (9, 196608), (10, 8), (11, 32), (12, 1), (13, 196544)]
/-- Core 1 there as well, available, with a full queue or an empty one. -/
def demoSpawns (x full : Bool) : State :=
  let q : Vector (List QRec) 8 := if full then (Vector.replicate 8 []).set 0 [{ code := 0, frame := 0, join := 0, flags := 0, tp := 0 }] else Vector.replicate 8 []
  (demoOn { demoCore demoSpawn demoCtx with loft := Mem.setNum [] 32 8 1, lanes := q } { power := .running, dram := demoTable, phase := if x then 1 else 0 }).setCore 1 { avail := true, lanes := q }

theorem witness_spawnForms : (demoSpawns true false).live = some demoSpawn ∧ (demoSpawns false false).live = some demoSpawn ∧
    (demoSpawns false false).dev.phase.getLsbD 0 = false ∧ (demoSpawns true false).dev.phase.getLsbD 0 = true ∧
    (Fin.ofNat 128 ((demoSpawn.getS 12).toNat % 128) : CoreId) ≠ (demoSpawns false false).cur ∧
    (demoSpawn.getS 8).toNat % 32 = 0 ∧ (demoSpawn.getS 8).toNat + 32 ≤ demoCtx.psize ∧ ¬ (demoSpawn.getS 9).toNat + 32 ≤ demoCtx.psize ∧
    (demoSpawn.getS 10).toNat % 32 ≠ 0 ∧ (demoSpawn.getS 13).toNat % 64 = 0 ∧ (demoSpawn.getS 13).toNat + 64 ≤ demoCtx.psize ∧
    ((demoSpawns true false).reached demoSpawn [(196576, 32)] false).runnable 1
      (recOf (((demoSpawns true false).reached demoSpawn [(196576, 32)] false).loftRead demoSpawn 196576 32) 0) = true ∧
    ((demoSpawns true false).reached demoSpawn [(32, 32)] false).runnable 1
      (recOf (((demoSpawns true false).reached demoSpawn [(32, 32)] false).loftRead demoSpawn 32 32) 0) = false ∧
    ((demoSpawns true false).core 1).avail = true ∧ ((demoSpawns true false).core 2).avail = false ∧
    ((demoSpawns true false).core 1).queueFull = false ∧ ((demoSpawns true true).core 1).queueFull = true ∧
    ((demoSpawns true false).holdFirst demoSpawn demoCtx false false [(196576, 32)] (granules [(196576, 32)])).isNone = true ∧
    ((demoSpawns true false).holdFirst demoSpawn demoCtx false false [(32, 32)] (granules [(32, 32)])).isNone = true ∧
    ((demoSpawns true false).holdFirst demoSpawn demoCtx false false [(196544, 64)] (granules [(196544, 64)])).isNone = true := by
  refine ⟨rfl, rfl, ?_⟩; decide +kernel

/-- A launch is accepted when its packet says so (R356), and refused without a valid control word. -/
def demoPacket : List Byte := leBytes 24 0 ++ leBytes 8 0x0001000000000000 ++ leBytes 24 0 ++ leBytes 8 0x0100000000000003
def demoLaunch : State := (demoSpawns true false).modCore 0 fun c => { c with loft := c.loft.write 196544 demoPacket }
theorem witness_launch : demoLaunch.live = some demoSpawn ∧ (demoLaunch.reached demoSpawn [(196544, 64)] false).loftRead demoSpawn 196544 64 = demoPacket ∧
    (packetRec demoPacket).ctx = 1 ∧ (demoLaunch.reached demoSpawn [(196544, 64)] false).launchFails 1 demoPacket = none ∧
    (demoSpawns true false).launchFails 1 (demoPacket.take 56 ++ leBytes 8 0) = some 0x05 := by
  refine ⟨rfl, ?_⟩; decide +kernel

/-- A task of grid 3; one that holds a ring claim; one with an armed replay. -/
def demoGrid : Grid := ⟨{ code := 0, frame := 0, join := 0, flags := 0, tp := 0 }, 1, 0, 5, 1, 1, 0⟩
def demoGridTask : Task := { demoTask [(8, 64), (9, 0xFFFFFFFFFFFFFFFF)] with grid := some 3 }
def demoGrids : State := demoOn (demoCore demoGridTask demoCtx) { power := .running, dram := demoTable, grids := [(3, demoGrid)] }

theorem witness_endingForms : demoGrids.live = some demoGridTask ∧ (demoGrids.core 0).queueFull (some 1) = false ∧ ((demoSpawns true true).core 0).queueFull (some 1) = true ∧
    InHand demoGrids demoGridTask true 32 64 (windowBase 0 + 64) (demoGrids.reached demoGridTask [(64, 32)] true) ∧
    (demoGridTask.grid.bind fun g => demoGrids.dev.grids.lookup g) = some demoGrid ∧
    ((demoTask []).grid.bind fun g => demoGrids.dev.grids.lookup g) = none ∧
    demoGrids.endRefused demoGridTask = none ∧ demoRings.endRefused demoClaims = some 2 ∧ demoGrids.endWaits demoGridTask = none ∧
    (demo { demoTask [] with replays := [{ nest := 0, o := Vector.replicate 8 0, row := 0, serial := 0 }] }).endWaits
      { demoTask [] with replays := [{ nest := 0, o := Vector.replicate 8 0, row := 0, serial := 0 }] } ≠ none := by
  refine ⟨rfl, by decide +kernel, by decide +kernel, ?_, ?_⟩
  · unfold InHand; exact ⟨by decide, ⟨by decide, rfl, rfl⟩, by decide⟩
  · refine ⟨?_, ?_, ?_, ?_, ?_, ?_⟩ <;> decide +kernel

/-- In and out of a handler, with and without a vector; a freeze that is pending, and `c.tpc` in and out of form. -/
def demoHandler (x : Bool) (tpc : W64) : Task := { demoTask [] with ctl := { cause := if x then 0x8008010000000000 else 0, tpc := tpc } }
def demoFreeze : Trap := { cls := 0x08, detail := 0x01 }

theorem witness_TrapEntry : (demoOn (demoCore (demoHandler false 0) demoVec) { power := .running }).live = some (demoHandler false 0) ∧
    (demo (demoHandler true 0)).live = some (demoHandler true 0) ∧ (demoHandler false 0).ctl.cause.getLsbD 63 = false ∧
    (demoHandler true 0).ctl.cause.getLsbD 63 = true ∧ demoVec.tvec.getLsbD 63 = true ∧ demoCtx.tvec.getLsbD 63 = false ∧
    demoFreeze.cls = 0x08 ∧ ({ cls := 0x09 } : Trap).cls ≠ 0x08 ∧
    ({ demoHandler true 0 with pendFreeze := some demoFreeze } : Task).pendFreeze = some demoFreeze := by
  refine ⟨rfl, rfl, ?_⟩; decide +kernel

theorem witness_TrapAndReturn : (demo (demoHandler true 0x10013)).live = some (demoHandler true 0x10013) ∧
    (demoHandler true 0x10013).ctl.tpc.getLsbD 2 = false ∧ (demoHandler true 0x10013).ctl.tpc.getLsbD 3 = false ∧
    (demoHandler true 0x10014).ctl.tpc.getLsbD 2 = true ∧ (demoHandler true 0x10013).pendFreeze = none ∧
    (demoHandler false 0).ctl.cause.getLsbD 63 = false ∧
    (demoOn (demoCore { demoHandler true 0x10013 with pendFreeze := some demoFreeze } demoVec) { power := .running }).live =
      some { demoHandler true 0x10013 with pendFreeze := some demoFreeze } := by
  refine ⟨rfl, ?_, ?_, ?_, ?_, ?_, rfl⟩ <;> decide +kernel

/-- A fault record of context 2 on die 0, or none; loft places for it. -/
def demoFaultQ (n : Nat) : State :=
  demoOn (demoCore (demoTask [(8, 196096), (9, 2), (10, 196608), (11, 16), (12, 3)]) demoCtx)
    { power := .running, dram := demoTable, faultqs := if n = 0 then [] else [{ ctx := 2, dies := [(false, false, 1)] }] }
def demoFaultTask : Task := demoTask [(8, 196096), (9, 2), (10, 196608), (11, 16), (12, 3)]

theorem witness_contextForms : (demoFaultQ 1).live = some demoFaultTask ∧ ((demoFaultQ 1).core 0).cctx 1 = some demoCtx ∧ demoCtx.sup = true ∧
    ((demoUser demoFaultTask).core 0).cctx 1 = some { demoCtx with sup := false } ∧ (demoFaultTask.getS 8).toNat % 32 = 0 ∧
    (demoFaultTask.getS 11).toNat % 32 ≠ 0 ∧ ((demoFaultQ 1).dev.oldestFault (dieOf 0)).isSome = true ∧
    (demoFaultQ 0).dev.oldestFault (dieOf 0) = none ∧ (demoFaultTask.getS 8).toNat % 512 = 0 ∧ (demoFaultTask.getS 8).toNat + 512 ≤ demoCtx.psize ∧
    demoCtx.psize < (demoFaultTask.getS 10).toNat + 512 ∧ ((demoFaultQ 1).dev.faultq 2).dies ≠ [] ∧ ((demoFaultQ 1).dev.faultq 1).dies = [] ∧
    ((demoFaultQ 1).holdFirst demoFaultTask demoCtx true false [(196096, 512)] (granules [(196096, 512)])).isNone = true ∧
    (demoFaultQ 1).ctxEntry 2 = some 1 ∧ (demoFaultQ 1).ctxEntry 1 = some 0 ∧ (demoFaultQ 1).ctxEntry 3 = none := by
  refine ⟨rfl, rfl, ?_⟩; decide +kernel

/-- The handler of a pre-emption, with and without `mdrain.u`, with a packet of the context under way or none. -/
theorem witness_switchForms : (demo (demoHandler true 0)).live = some (demoHandler true 0) ∧
    (demoHandler true 0).ctl.cause.toNat / 2 ^ 40 % 2 ^ 16 = 0x0801 ∧ (demoHandler false 0).ctl.cause.getLsbD 63 = false ∧
    ((demo (demoHandler true 0)).core 0).mx.owner ≠ some 1 ∧ ((demoUnit (demoHandler true 0) id).core 0).mx.owner = some 1 ∧
    (demoHandler true 0).drainedU = false ∧ ({ demoHandler true 0 with drainedU := true } : Task).drainedU = true ∧
    (demo (demoHandler true 0)).saveReady 0 0 (demoHandler true 0) false = true ∧
    (demoOn (demoCore (demoHandler true 0) demoCtx) { net := [{ uid := 1, seq := 0, core := 0, ctx := 1, addr := 0 }] }).saveReady 0 0 (demoHandler true 0) false = false := by
  refine ⟨rfl, ?_⟩; decide +kernel

/-! ### The microsequencer -/

theorem running_demoCall (o : MicroOp) (k : Call) :
    (demoCall o k).unit.running = some { k with handle := 1, ctx := 1, tid := 1, word := some o } := rfl

/-- `uwin` and `uspl` at their limits and past them; a branch to 256 and to 255; macros inside and outside the footprint; a status to set. -/
theorem witness_MicroWords : (demoCall (.uwin 1) { a := (Vector.replicate 8 0).set 1 3 }).unit.running =
      some { a := (Vector.replicate 8 0).set 1 3, handle := 1, ctx := 1, tid := 1, word := some (.uwin 1) } ∧
    ¬ 3 < ((Vector.replicate 8 (3 : BitVec 32))[(1 : Fin 8)]).toNat ∧ 3 < ((Vector.replicate 8 (4 : BitVec 32))[(1 : Fin 8)]).toNat ∧
    8 < ((Vector.replicate 8 (9 : BitVec 32))[(1 : Fin 8)]).toNat ∧ ¬ (256 : Fin 8192).val < 256 ∧ (255 : Fin 8192).val < 256 ∧
    (let m7 : W64 := BitVec.ofNat 64 (5 * 2 ^ 26 + 6 * 2 ^ 20)
     m7.toNat / 2 ^ 26 % 64 = 5 ∧ m7.toNat / 2 ^ 20 % 64 = 6) ∧
    ((demoUnit { demoTask [] with stats := [{ handle := 1 }] } id).bank 0 0).any (fun t => t.tid == 1 && (t.statusOf 1).isSome) = true := by
  refine ⟨rfl, ?_⟩; decide +kernel

/-- A call that reads tile 5 (2 × 2 of i8 in v1), writes tile 2, and whose footprint holds rows 4 and 5, macros 5 and 6, and loft granules
16 to 19. -/
def demoFeed (ws : List (Fin 8 × BitVec 32)) (consumed : Bool) : Call :=
  { handle := 1, ctx := 1, tid := 1, consumed := consumed, a := ws.foldl (fun v p => v.set p.1 p.2) (Vector.replicate 8 0),
    m := ((Vector.replicate 8 0).set 6 0x00130010).set 7 (BitVec.ofNat 64 (2 ^ 3 + 2 ^ 4 + 5 * 2 ^ 5 + 4 * 2 ^ 12 + 6 * 2 ^ 20 + 5 * 2 ^ 26 + 2 ^ 37 + 2 ^ 50)),
    tdim := ((Vector.replicate 16 0).set 5 0x8001010000020002).set 2 0x8002010000020002 }
def demoFeedOn (o : MicroOp) (k : Call) (rs : List Replay) : State :=
  demoUnit { demoTask [] with replays := rs } fun u => { u with running := some { k with word := some o } }

theorem witness_MicroStorageWords :
    (demoFeedOn (.ufeed 0 0 0 0 5 false 0) (demoFeed [(0, 1)] false) []).unit.running = some { demoFeed [(0, 1)] false with word := some (.ufeed 0 0 0 0 5 false 0) } ∧
    (∃ x, shapeOf (demoFeed [] false).tdim[(5 : Fin 16)] = some x ∧ x.rows = 2 ∧ x.cols = 2 ∧ x.et = 1) ∧
    (demoFeed [] false).m[(7 : Fin 8)].getLsbD (32 + 5) = true ∧ (demoFeed [] false).m[(7 : Fin 8)].getLsbD (32 + 4) = false ∧
    (demoFeed [] false).m[(7 : Fin 8)].getLsbD (48 + 2) = true ∧ (demoFeed [] true).consumed = true ∧
    (let k := demoFeed [] false
     k.m[(7 : Fin 8)].getLsbD 4 = true ∧ k.m[(7 : Fin 8)].toNat / 2 ^ 12 % 128 = 4 ∧ k.m[(7 : Fin 8)].toNat / 2 ^ 5 % 128 = 5 ∧
     k.m[(7 : Fin 8)].toNat / 2 ^ 26 % 64 = 5 ∧ k.m[(7 : Fin 8)].toNat / 2 ^ 20 % 64 = 6 ∧ k.m[(7 : Fin 8)].getLsbD 3 = true ∧
     k.m[(7 : Fin 8)].getLsbD 19 = false ∧ k.m[(6 : Fin 8)].toNat % 2 ^ 16 = 16 ∧ k.m[(6 : Fin 8)].toNat / 2 ^ 16 % 2 ^ 16 = 16 + 3) ∧
    ((demoFeedOn .unop (demoFeed [] false) []).core 0).tasks.find? (fun p => p.2.tid == 1) = some (0, demoTask []) ∧
    (let s := demoFeedOn .unop (demoFeed [] false) []
     s.callHeld (demoFeed [] false) .sums = false ∧
     s.callHeld (demoFeed [] false) .array = false ∧ (demoFeed [] false).trace = [] ∧
     (([16, 17, 18, 19] : List Nat).foldlM (fun (s : State) g => s.loftReady ⟨0, 1, 1, 0, .call 1 1⟩ false false g) s).toOption.isSome = true) := by
  refine ⟨rfl, ⟨_, rfl, rfl, rfl, rfl⟩, ?_, ?_, ?_, ?_, ?_, ?_, ?_⟩ <;> decide +kernel

/-- A replay of two rows of 32 bytes whose rows are at hand. -/
theorem witness_mangerFeed : let r : Replay := { nest := (demoNest 0).regs.nest, o := (demoNest 0).regs.o, row := 1, serial := 7 }
    (((granules (feedSpans r)).foldlM (fun (s : State) g => s.loftReady ⟨0, 1, 1, 0, .replay 1 7⟩ false false g)
      (demoFeedOn .unop (demoFeed [] false) [r])).toOption.isSome = true) ∧ (nestOf r.nest).rows = 2 := by decide +kernel

/-- A pass without analog bits, INT8 by INT8. -/
theorem witness_DigitalPartialSumsAreExact : ∃ x : Drive, x.analog = 0 ∧ x.width = 8 := ⟨⟨{}, 0, {}, 8, 8, 256, none, 0⟩, rfl, rfl⟩

/-! ### What the device does by itself -/

/-- Store entry 0 names word 256; a call with that index, or one with an entry that is not valid. -/
def demoRoutine : Mem := Mem.setNum [] 0 8 0x8000000000000100
def demoCallTask (i : Fin 256) : Task := { demoTask [] with calls := [{ handle := 1, ctx := 1, tid := 1, idx := i }], stats := [{ handle := 1 }] }
def demoStart (i : Fin 256) : State := demoUnit (demoCallTask i) fun u => { u with ucode := demoRoutine }

/-- An `mtacc` of core 0 over row 3, its next member core 1: of the context, or gone. -/
def demoMt : MtAcc := { handle := 2, ctx := 1, tid := 1, first := 3, last := 3, todo := [(1, 1)] }
def demoMember (present : Bool) : State :=
  (demoUnitX (demoTask []) fun u => { u with mtaccs := [demoMt] }).setCore 1
    (if present then { demoCore { demoTask [] with tid := 2 } demoCtx with mx := { owner := some 1 } } else {})

/-- Macro 63: pending in compute mode, or busy. -/
def demoMacro (x : MacroSt) : State := { demoUnit (demoTask []) fun u => { u with macros := u.macros.set 63 x } with on := { index := 63 } }

theorem witness_unitEvents : ((demoStart 0).core 0).mx.running = none ∧ ((demoStart 0).core 0).mx.frozen = false ∧
    ((demoStart 0).core 0).callBank = some 0 ∧ ((demoStart 0).core 0).banks[(0 : Fin 4)] = some (demoCallTask 0) ∧
    routineStart (((demoStart 0).core 0).mx.word 0) = some 256 ∧ routineStart (((demoStart 255).core 0).mx.word 255) = none ∧
    routineStart 0x80000000000000FF = none ∧ (demoCallTask 0).statusOf 1 ≠ none ∧
    ((demoMember true).core 0).mx.mtaccs[(0 : Nat)]? = some demoMt ∧ (demoMember true).dev.phase.getLsbD 0 = true ∧
    (∀ p ∈ [accSpan 3 3, bndSpan 3 3], ∀ e ∈ ((demoMember true).core 0).olderThan (.call 1 2), e.meets p.1 p.2.1 p.2.2 = false) ∧
    (demoMember true).memberGone demoMt 1 1 = false ∧ (demoMember false).memberGone demoMt 1 1 = true ∧
    (∀ p ∈ [accSpan 3 3, bndSpan 3 3], ∀ e ∈ ((demoMember true).core 1).conflicts p.1 p.2.1 p.2.2 false, e.write = false) ∧
    ((demoMacro { pend := true, compute := true }).core 0).mx.macros[(63 : Fin 64)] = { pend := true, compute := true } ∧
    ((demoMacro { busy := true }).core 0).mx.macros[(63 : Fin 64)].busy = true ∧
    1840 ≤ (1840#16).toInt ∧ ¬ 1840 ≤ (1839#16).toInt := by
  refine ⟨rfl, rfl, ?_, rfl, ?_⟩ <;> decide +kernel

/-- An address in the first line of bank 31 of core 127, one error short of its limit; rows 0 and 255 of macro 63. -/
def demoError : State :=
  { (demo (demoTask [])).setCore 127 { live := BitVec.allOnes 32, corrected := (Vector.replicate 32 0).set 31 255 } with
    on := { flag := true, addr := BitVec.ofNat 64 (127 * 0x60000000 + 31 * 256) } }

theorem witness_powerEvents : State.reset.dev.power ≠ .running ∧ demoError.on.flag = true ∧
    placeOf demoError.on.addr.toNat = .dram 127 (31 * 256) ∧ (((demoError.core 127).bankPlace (31 * 256)).map fun p => p.bank) = some 31 ∧
    ({ demo (demoTask []) with on := { engine := true, index := 63, index2 := 255 } } : State).on.engine = true ∧
    ((demo (demoTask [])).core 0).cctx 1 = some demoCtx := by
  refine ⟨by decide, rfl, ?_, ?_, rfl, rfl⟩ <;> decide +kernel

/-- A device whose phase began 64 cycles ago, or 63: with a task that has arrived, or a task that has not; transfers are live, or not. -/
def demoPhase (x arrived : Bool) (now : Nat) : State :=
  demoOn (demoCore { demoTask [] with ctl := { arr := arrived, tgt := 2 } } demoCtx) { power := .running, phase := if x then 1 else 0, now := now }
def demoStamp : Cmd := { uid := 9, kind := .stamp, status := .active, ctx := 1, stampAddr := 0x400000 }
def demoLive : State := demoOn { demoCore { demoTask [] with ctl := { arr := true, tgt := 2 } } demoCtx with mapCmds := [demoStamp] } { power := .running, phase := 1, now := 64 }

theorem witness_PhaseEvents : (demoPhase false true 64).dev.power = .running ∧ (demoPhase false true 64).dev.phase.getLsbD 0 = false ∧
    (demoPhase true true 64).dev.phase.getLsbD 0 = true ∧ 64 ≤ (demoPhase false true 64).dev.now - (demoPhase false true 64).dev.phaseStart ∧
    (demoPhase false true 63).dev.now - (demoPhase false true 63).dev.phaseStart < 64 ∧
    (∀ p ∈ (demoPhase false true 64).tasks, p.2.2.participates = false) ∧ (demoPhase false true 64).tasks ≠ [] ∧
    ¬ (∀ p ∈ (demoPhase false false 64).tasks, p.2.2.participates = false) ∧
    (demoPhase true true 64).transfersLive = false ∧ demoLive.transfersLive = true ∧ (demoPhase true true 64).dev.net = [] ∧
    ((demoPhase false true 4096).core 0).cctx 1 = some demoCtx ∧
    Max.max (demoCtx.sbudget.toNat % 2 ^ 32) 4096 ≤ (demoPhase false true 4096).elap ∧
    ¬ Max.max (demoCtx.sbudget.toNat % 2 ^ 32) 4096 ≤ (demoPhase false true 4095).elap ∧
    (demoOn {} { trunc := true }).dev.trunc = true ∧ (demoOn {} { trunc := true }).dev.victims = [] := by
  refine ⟨rfl, rfl, rfl, ?_⟩; decide +kernel

/-- A record of context 2: a task, a team of two, a grid of three. -/
def demoRecord (flags : W64) : QRec := { code := 0x20000, frame := 7, join := 0, flags := flags, tp := 64 }
def demoPlace (flags : W64) : State :=
  demoOn { demoCore (demoTask []) demoCtx with lanes := (Vector.replicate 8 []).set 0 [demoRecord flags] } { power := .running, dram := demoTable }
/-- Four banks taken. -/
def demoFull (flags : W64) : State :=
  demoOn { demoCore (demoTask []) demoCtx with banks := Vector.replicate 4 (some (demoTask [])), lanes := (Vector.replicate 8 []).set 0 [demoRecord flags] }
    { power := .running, dram := demoTable }
/-- The grid of three is open. -/
def demoOpen : Grid := ⟨demoRecord 0x0002000040000003, 2, 0, 3, 2, 0, 5⟩
def demoIndex : State := demoOn (demoCore (demoTask []) demoCtx) { power := .running, dram := demoTable, grids := [(4, demoOpen)] }
/-- A team of two for context 2 that has its two cores. -/
def demoReserve : Bool × Reserve := (false, ⟨demoRecord 0x0002000100000000, 1, [1, 0], none, 0⟩)
def demoTeam : State :=
  (demoOn (demoCore (demoTask []) demoCtx) { power := .running, dram := demoTable, reserving := [demoReserve] }).setCore 1 { avail := true }

theorem witness_PlacementEvents : (demoPlace 0x0002000000000000).dev.power = .running ∧
    ((demoPlace 0x0002000000000000).endGrid 0).isNone = true ∧ ((demoPlace 0x0002000000000000).joinReserve 0).isNone = true ∧
    (demoPlace 0x0002000000000000).restoreFirst 0 = false ∧ ((demoPlace 0x0002000000000000).core 0).freeBank = some 1 ∧
    ((demoFull 0x0002000000000000).core 0).freeBank = none ∧
    ((demoPlace 0x0002000000000000).candidates 0).find? ((demoPlace 0x0002000000000000).takable 0) = some (.task (demoRecord 0x0002000000000000)) ∧
    ((demoPlace 0x0002000100000000).candidates 0).find? ((demoPlace 0x0002000100000000).takable 0) = some (.team (demoRecord 0x0002000100000000) none 0) ∧
    ((demoPlace 0x0002000040000003).candidates 0).find? ((demoPlace 0x0002000040000003).takable 0) = some (.grid (demoRecord 0x0002000040000003)) ∧
    (demoIndex.candidates 0).find? (demoIndex.takable 0) = some (.index 4 demoOpen) ∧ (demoIndex.endGrid 0).isNone = true ∧
    demoTeam.dev.reserving.find? (fun r => r.1 == dieOf 0 && r.2.cores.length == r.2.rcd.tsz.val + 1) = some demoReserve ∧
    demoReserve.2.cores.Nodup ∧ (∀ m ∈ demoReserve.2.cores, demoTeam.canPlace m demoReserve.2.rcd.ctx demoReserve.2.rcd.mx = true) := by
  decide +kernel

/-- The next bundle of the live task is at hand, and is one of NOPs, or of a word that no instruction has. -/
def demoBundle (w : Nat) (k : CoreCtx) : State :=
  demoOn { demoCore (demoTask []) k with tlb := [{ asn := 1, sz := 0, vpn := 0x10, frame := 0x10, w := true }] }
    { power := .running, dram := Mem.write [] 0x10000 (leBytes 16 w) }
/-- A task that stands as its device step finds it, in bank 0. -/
def demoStand (f : Task → Task) (d : Device) : State := demoOn { demoCore (f (demoTask [])) demoCtx with opening := true } d
def demoWaiting (kind : BitVec 5) : Task := { demoTask [] with waiting := some { okind := kind, obj := 64 }, untethered := true }
/-- Core 0 idle in an exchange phase; core 5 hands a record over, or has none. -/
def demoSteal : State :=
  demoOn { demoCore (demoTask []) demoCtx with stealing := some 5, stealX := 1 } { power := .running, phase := 1, dram := demoTable }
/-- A record of context 2 has waited longer than its context allows (5 cycles), all banks are taken, and a save slot is free. -/
def demoPreempt : State :=
  let c := demoCore (demoTask []) demoCtx
  demoOn { c with banks := Vector.replicate 4 (some (demoTask [])), nsave := 1, lanes := (Vector.replicate 8 []).set 1 [demoRecord 0x0002001000000000] }
    { power := .running, now := 6, dram := demoTable.setNum 80 8 (5 * 2 ^ 32) }

theorem witness_TaskEvents_decode : let s := demoBundle (tableBundle 0x84742400).toNat demoVec
    s.live = some (demoTask []) ∧ (s.core 0).fetchOf 1 0x10000 = none ∧ (demoTask []).participates = true ∧ (demoTask []).image = 0 ∧
    (demoTask []).ctl.bkpt.getLsbD 0 = false ∧ s.codeAt 0 (s.cctx (demoTask [])).asn 0x10000 = some 0x10000 ∧
    ((s.cctx (demoTask [])).tvec.getLsbD 63 = true) ∧ (demoTask []).ctl.cause.getLsbD 63 = false ∧
    (decodeBundle (tableBundle 0x84742400)).toOption.isSome = true ∧ (decodeBundle 0).toOption.isNone = true := by
  refine ⟨rfl, ?_⟩; decide +kernel

theorem witness_TaskEvents :
    ((demo (demoTask [])).everyTask.map fun p => p.2.tid).Nodup ∧ (demo (demoTask [])).dev.wf = [] ∧
    (let e : WfEntry := ⟨0, false, false, 0x03, 64, 1, 1, 0, .task 2, 0, false⟩
     e.record = false ∧ e.okind = 0x03 ∧ e.owner = .task 2 ∧ e.tid = 1 ∧ (1 : BitVec 16) ≠ 2) ∧
    (∃ p ∈ ((demo (demoWaiting 0x04)).core 0).tasks, p.2.untethered = true ∧ p.2.waiting.isSome = true) ∧
    (∃ p ∈ ((demo (demoWaiting 0x04)).core 0).tasks, ∃ w, p.2.waiting = some w ∧ w.okind = 0x04) ∧
    (let s := demoSteal
     s.dev.phase.getLsbD 0 = true ∧ (s.core 0).avail = true ∧ (s.core 0).freeBank ≠ none ∧ (s.core 0).stealing = some 5 ∧ (5 : CoreId) ≠ 0 ∧
     ((demoX (demoTask [])).core 0).stealing = none ∧ (s.core 0).steals < 8 ∧ (∀ q ∈ s.candidates 0, s.takable 0 q = false)) ∧
    (let s := demoPreempt
     let r := demoRecord 0x0002001000000000
     (s.core 0).freeBank = none ∧ (∀ v ∈ s.dev.victims, v.1 ≠ 0) ∧ (s.heads 0).head? = some r ∧
     (s.ctxField 2 2).toNat / 2 ^ 32 % 2 ^ 32 = 5 ∧ 5 < s.dev.now - r.entered ∧ (s.core 0).slotSpare 0 = true ∧
     (demoTask []).ctx ≠ r.ctx ∧ (demoTask []).ctl.eff.val < s.aged r ∧ (demoTask []).paddock = []) := by
  refine ⟨by decide +kernel, rfl, by decide +kernel, ⟨(0, demoWaiting 0x04), ?_, rfl, rfl⟩, ⟨(0, demoWaiting 0x04), ?_, _, rfl, rfl⟩, ?_, ?_⟩ <;> decide +kernel

theorem witness_TaskEvents_switch :
    (demoStand (fun t => { t with hold := .handler }) {}).bank 0 0 = some { demoTask [] with hold := .handler } ∧
    (demoStand (fun t => { t with hold := .handler }) {}).saveReady 0 0 { demoTask [] with hold := .handler } (demoTask []).drainedU = true ∧
    ((demoStand (fun t => { t with hold := .handler }) {}).ctxOn 0 1).tvec.getLsbD 63 = false ∧ demoVec.tvec.getLsbD 63 = true ∧
    (demoStand (fun t => { t with hold := .switched }) {}).restorable { demoTask [] with hold := .switched } = true ∧
    ((demoStand (fun t => { t with hold := .switched }) {}).core 0).saved = [] ∧
    (∀ p ∈ ((demoStand (fun t => { t with hold := .switched }) {}).core 0).tasks, p.2.hold = .switched ∨ p.2.tid = 1 → p.1 = 0) ∧
    (∀ p ∈ (demoStand (fun t => { t with hold := .switched }) {}).everyTask, p = (0, { demoTask [] with hold := .switched })) ∧
    (demoStand (fun t => { t with hold := .switched }) {}).everyTask.Nodup := by
  refine ⟨rfl, ?_⟩; decide +kernel

/-! ### The memory system -/

/-- Where a map-unit command acts: the page 0x400 of core 0's own slice. -/
def demoMap (k : Cmd) (f : CoreCtx → CoreCtx) : State :=
  demoOn { demoCore (demoTask []) (f demoCtx) with tlb := [{ asn := 1, sz := 0, vpn := 0x400, frame := 0x10, w := true }], mapCmds := [k] } { power := .running, phase := 1 }
def demoFill : Cmd := { uid := 9, kind := .fill, status := .active, ctx := 1, tid := 1, gran := 3071, src := BitVec.ofNat 768 0x400000, dst := BitVec.ofNat 768 0x400000 }
def demoWalk : Walk := ⟨false, 1, 0x400, 0, 1⟩
/-- A page table of 2^20 buckets at 1 GiB whose entry for page 0x400 of address space 1 is in its home bucket, or is not there. -/
def demoWalks (found : Bool) : State :=
  demoOn (demoCore (demoTask []) demoCtx) { power := .running, walks := [demoWalk], usedPtlog := 20, usedPtbase := 0x40000000, dram := if found then Mem.setNum [] (0x40000000 + homeBucket 20 1 0 0x400 * 64) 8 (0x8000000000000001 + 2 ^ 53 + 0x10 * 2 ^ 3) else [] }

theorem witness_MemoryEvents_walk : (demoWalks true).dev.invs = [] ∧ rotateBy (demoWalks true).dev.activeWalks 0 = [demoWalk] ∧
    (∃ e, (demoWalks true).lookup 1 0x400000 = .entry e 0) ∧ (demoWalks false).lookup 1 0x400000 = .miss := by
  refine ⟨rfl, by decide +kernel, ⟨0x8000000000000001 + 2 ^ 53 + 0x10 * 2 ^ 3, ?_⟩, ?_⟩ <;> decide +kernel

theorem witness_MemoryEvents_map :
    (let s := demoMap demoFill fun x => { x with absent := [(3071, 1)] }
     s.dev.wf = [] ∧ (s.core 0).syncs = [] ∧ (s.core 0).mapActive .fill 0 = [demoFill] ∧
     (s.resolve (demoFill.agent 0) 0 (recordBase demoFill.src) false).toOption = some 0x10000 ∧ ownSlice 0 0x10000 = true ∧
     s.physMeets 1 true false 0x10000 64 = .ok ∧ ({ demoCtx with absent := [(3071, 1)] } : CoreCtx).isResident 3071 = false) ∧
    (let k := { demoFill with kind := .writeBack }
     let s := demoMap k id
     (s.core 0).mapActive .writeBack 0 = [k] ∧ k.inflight = 0 ∧ k.pos = 0 ∧ (s.core 0).holdsWriteBack k 3071 = false ∧
     (s.resolve (k.agent 0) 0 (recordBase k.dst) true).toOption = some 0x10000 ∧ s.physMeets 1 true true 0x10000 64 = .ok ∧
     (∀ y ∈ (s.core 0).ctxs, (s.core 0).departed y.ctx = false)) ∧
    (let k := { demoFill with kind := .fetch }
     let s := demoMap k id
     (s.core 0).mapActive .fetch 0 = [k] ∧ recordBase k.src < 0x00F000000000 ∧ (s.resolve (k.agent 0) 0 0x400000 false).toOption = some 0x10000 ∧
     (s.core 0).tlb.find? (·.covers (s.asnOf 0 1) 0x400000) = some { asn := 1, sz := 0, vpn := 0x400, frame := 0x10, w := true }) ∧
    (let k := { demoFill with kind := .stamp, stampAddr := 0x400008 }
     let s := demoMap k id
     (s.core 0).mapActive .stamp 0 = [k] ∧ (∀ m ∈ (s.core 0).mapCmds, m.uid = k.uid → m = k) ∧ k.stampSent = false ∧ k.ctx ∉ s.dev.cancelled ∧
     s.dev.phase.getLsbD 0 = true ∧ k.stampAddr.toNat % 8 = 0 ∧ (s.resolve (k.agent 0) 0 0x400008 true).toOption = some 0x10008 ∧
     s.physMeets 1 (s.supOf 0 1) true 0x10008 8 = .ok ∧ ownSlice 0 0x10008 = true) := by
  decide +kernel

/-- A copy of 64 bytes from the loft to that page, active; the same with a ring that does not exist. -/
def demoCopyCmd : Cmd :=
  { uid := 9, status := .active, ctx := 1, tid := 1, handle := 1,
    src := BitVec.ofNat 768 (2 ^ 62 + 64 * 2 ^ 96 + 64 * 2 ^ 128 + 2 ^ 144 + 2 ^ 192), dst := BitVec.ofNat 768 (0x400000 + 64 * 2 ^ 96 + 64 * 2 ^ 128 + 2 ^ 144 + 2 ^ 192) }
def demoCopy (k : Cmd) : State :=
  demoOn { demoCore { demoTask [] with engines := (Vector.replicate 2 {}).set 0 { active := some k } } demoCtx with
    tlb := [{ asn := 1, sz := 0, vpn := 0x400, frame := 0x10, w := true }] } { power := .running, phase := 1 }
def demoQueued (k : Cmd) : Task := { demoTask [] with engines := (Vector.replicate 2 {}).set 0 { staged := some { k with status := .committed } } }

theorem witness_MemoryEvents_copy :
    ((demo (demoQueued demoCopyCmd)).bank 0 0 = some (demoQueued demoCopyCmd)) ∧ (demoQueued demoCopyCmd).hold ≠ .switched ∧
    (demoQueued demoCopyCmd).promotable false = some { demoCopyCmd with status := .committed } ∧
    ({ demoCopyCmd with status := .committed } : Cmd).check demoCtx = none ∧ ({ demoCopyCmd with dst := 1 } : Cmd).check demoCtx ≠ none ∧
    ((demo (demoTask [])).choose 64).1 < 64 ∧ (∀ turn < 64, ((demoCopy demoCopyCmd).core 0).mapActive .image turn = [] ∧
      ((demoCopy demoCopyCmd).core 0).served false turn = [9]) ∧ ((demoCopy demoCopyCmd).core 0).cmd 9 = some demoCopyCmd ∧
    (walkerOf (sideOf demoCopyCmd.sl demoCopyCmd.src) (sideOf demoCopyCmd.dl demoCopyCmd.dst)).total = 64 ∧
    ((demoCopy demoCopyCmd).deliverUnit 0 9).toOption.isSome = true ∧ demoCopyCmd.stampSent = false ∧ demoCopyCmd.owed = [] ∧
    (64 ≤ ({ demoCopyCmd with pos := 64 } : Cmd).pos) ∧
    ({ demoCopyCmd with owed := [1], barrier := 0x3F0 } : Cmd).owed ≠ [] ∧ (barrierAt 0 0x3F0).1 = 0 ∧
    ((demoCopy { demoCopyCmd with owed := [1], barrier := 0x3F0 }).arriveOwed 0 9).toOption.isSome = true := by
  refine ⟨rfl, ?_, ?_, ?_, ?_, Nat.mod_lt _ (by decide), ?_, ?_, ?_, ?_, ?_, ?_, ?_, ?_, ?_, ?_⟩ <;> decide +kernel

/-- Packets: to core 0's loft, to its slice, to a hole, a reduction that is new or known, an atomic; two reductions of one granule. -/
def demoPacketTo (a : Nat) : Packet := { uid := 9, seq := 0, core := 0, ctx := 1, tid := 1, addr := a, cells := [(0, 7)] }
def demoRed (seq : Nat) : Packet := { uid := 9, seq := seq, core := 0, ctx := 1, tid := 1, addr := 0x10000, ids := [(0, 9, seq)], red := true, ty := 7, parts := [(0, 5)] }
def demoAsk : Remote := { uid := 11, pc := 0, slot := 0, op := .add, addr := 0x10000, wide := true, arg := 5, cmp := 0 }
def demoNet (ps : List Packet) (known : List (Bool × Nat × Nat)) : State :=
  demoOn (demoCore (demoTask []) demoCtx) { power := .running, phase := 1, net := ps, applied := known }

theorem witness_MemoryEvents_net :
    (let p := demoPacketTo 0xF000000000
     (demoNet [p] []).ready (fun p => !p.red && p.sync.isNone && p.toWindow) = some p ∧ (demoNet [p] []).packetMeets p = .ok ∧ p.group = none ∧ p.ids = [] ∧
     ((demoNet [p] []).core 0).cmd 9 = none ∧ placeOf 0xF000000000 = .window 0 0 ∧ partOf 0 = some (.loft, 0)) ∧
    (let p := demoPacketTo 0x10000
     (demoNet [p] []).ready (fun p => !p.red && p.sync.isNone && !p.toWindow) = some p ∧ (demoNet [p] []).packetMeets p = .ok) ∧
    (let p := demoPacketTo 0x3000000000
     (demoCopy demoCopyCmd).packetMeets p = .fail 0x09 ∧ ((demoCopy demoCopyCmd).core 0).cmd p.uid = some demoCopyCmd ∧
     ({ demoCopy demoCopyCmd with dev := { (demoCopy demoCopyCmd).dev with net := [p] } } : State).ready (fun p => !p.red && p.sync.isNone && !p.toWindow) = some p) ∧
    (let p := demoRed 0
     (demoNet [p] []).ready (·.red) = some p ∧ (demoNet [p] []).packetMeets p = .ok ∧ placeOf p.addr = .dram 0 0x10000 ∧
     (∀ q ∈ p.ids.map fun i => (dieOf 0, i.2), q ∈ (demoNet [p] [(false, 9, 0)]).dev.applied) ∧
     ¬ (∀ q ∈ p.ids.map fun i => (dieOf 0, i.2), q ∈ (demoNet [p] []).dev.applied) ∧
     (demoNet [p] []).dev.filterUsed (dieOf 0) + 1 ≤ 8192) ∧
    (let p : Packet := { demoPacketTo 0x10000 with cells := [], sync := some demoAsk }
     (demoNet [p] []).ready (·.sync.isSome) = some p ∧ (∀ a ∈ (demoNet [p] []).dev.kept, a.1 ≠ 11) ∧ (0, demoTask []) ∈ (demoNet [p] []).everyTask ∧
     placeOf demoAsk.addr = .dram 0 0x10000 ∧ (demoNet [p] []).retired 0x10000 = false) ∧
    (demoRed 0).meets (demoRed 1) = true ∧ (demoRed 0).resent = false ∧ (demoNet [demoRed 0, demoRed 1] []).dev.net[(0 : Nat)]? = some (demoRed 0) ∧ (demoNet [demoRed 0, demoRed 1] []).dev.net[(1 : Nat)]? = some (demoRed 1) ∧
    (demoRed 0).ids.length + (demoRed 1).ids.length ≤ 8 := by
  decide +kernel

/-! ### The ports -/

/-- The context table with context 1, and the queue-pair table at 0x8000 with pair 0: ready, port 0 to a host or port 3 to a peer, context 1,
R_Key 0x55, a writable window of 4096 bytes at core 0's loft, its rings of four entries at 0x1000 of that loft, its doorbell at 0x8000 of it. -/
def demoPairs (peer : Bool) : Mem :=
  [(0, 1), (2, 1), (5, 2), (7, 0xC0), (0x8000, 1)] ++ (if peer then [(0x8006, 3), (0x8007, 0xD0)] else [(0x8007, 0x90)]) ++
    [(0x8008, 0x55), (0x8014, 0xF0), (0x8019, 0x10), (0x801F, 0x80), (0x8020, 2), (0x8021, 0x10), (0x8024, 0xF0), (0x8029, 0x80), (0x802C, 0xF0)]
/-- A running device with that table, for a subject, with the loft as given. -/
def demoPort (peer x : Bool) (loft : Mem) (on : Subject) (k : Qp) : State :=
  let d : Device := { power := .running, phase := if x then 1 else 0, dram := demoPairs peer, mgmt := { qpbase := 0x8000 }, qps := [(0, k)] }
  { demoOn { demoCore (demoTask []) demoCtx with loft := loft } d with on := on }
/-- A request of `n` bytes at address `a` of pair `q`. -/
def demoAskAt (q a n : Nat) : Subject := { queue := q, key := 0x55, addr := BitVec.ofNat 64 a, index := n, data := List.replicate n 7 }

theorem demoPort_ctx : (demoPort false true [] {} {}).ctxEntry 1 = some 0 ∧ (demoPort true true [] {} {}).ctxEntry 1 = some 0 := by decide +kernel

theorem demoPort_isSome (peer x : Bool) (loft : Mem) (on : Subject) (k : Qp) : ((demoPort peer x loft on k).ctxEntry 1).isSome = true := by
  have h : (demoPort peer x loft on k).ctxEntry 1 = (demoPort peer true [] {} {}).ctxEntry 1 := rfl
  rw [h]
  cases peer
  · rw [demoPort_ctx.1]; rfl
  · rw [demoPort_ctx.2]; rfl

/-- An address of the windows is its own physical address. -/
theorem portPa_window (s : State) (x : BitVec 16) (w : Bool) (h : (s.ctxEntry x).isSome = true) (va : Nat) (h1 : 0x00F000000000 ≤ va)
    (h2 : va < 0x00F200000000) : s.portPa x va w = some va := by
  have m : va % 2 ^ 56 = va := Nat.mod_eq_of_lt (by omega)
  simp only [State.portPa, State.translateDirect, Option.isNone_iff_eq_none, m]
  rw [if_neg (by simpa [← Option.isSome_iff_ne_none] using h), if_pos ⟨h1, h2⟩]
  rfl

/-- Parts of the windows that meet no objection are reached. -/
theorem reach_window (s : State) (x : BitVec 16) (w : Bool) (h : (s.ctxEntry x).isSome = true) : ∀ ps : List (Nat × Nat),
    (∀ p ∈ ps, 0x00F000000000 ≤ p.1 ∧ p.1 < 0x00F200000000 ∧ ∀ b, s.physMeets x b w p.1 p.2 = .ok) → s.reach x w ps = ⟨ps, true, false⟩
  | [], _ => rfl
  | (va, n) :: ps, hp => by
    obtain ⟨h1, h2, h3⟩ := hp (va, n) (List.mem_cons_self ..)
    have e := portPa_window s x w h va h1 h2
    have r := reach_window s x w h ps fun p q => hp p (List.mem_cons_of_mem _ q)
    simp only [State.reach, e, h3 _, r]

theorem witness_hostRequests :
    (let s := demoPort false true [] (demoAskAt 0 0xF000000FFF 1) {}
     s.dev.power = .running ∧ s.on.flag = false ∧ s.dev.phase.getLsbD 0 = true ∧ s.qpServes s.pair false = true ∧ s.qpPort s.pair < 2 ∧
     (∀ r ∈ s.dev.held, r.q ≠ s.pair) ∧ s.on.key = (s.qpWord s.pair 1).setWidth 32 ∧ s.on.key ≠ 0 ∧
     s.inWindow s.pair s.on.addr s.on.data.length true = some 0xF000000FFF ∧ s.inWindow s.pair s.on.addr s.on.index false = some 0xF000000FFF ∧
     s.qpCtx s.pair = 1 ∧ s.on.data.length ≤ 4032 ∧ heldBytes s.dev.held (s.qpPort s.pair) + s.on.data.length ≤ 65536) ∧
    (let s := demoPort false true [] (demoAskAt 0 0xF000000FFF 2) {}
     s.inWindow s.pair s.on.addr s.on.data.length true = none ∧ s.inWindow s.pair s.on.addr s.on.index false = none) ∧
    (demoPort false true [] (demoAskAt 1 0 1) {}).qpServes 1 false = false ∧ (demoPort true true [] (demoAskAt 0 0 1) {}).qpServes 0 false = false ∧
    ({ demoAskAt 0 0 1 with key := 0x54 } : Subject).key ≠ ((demoPort false true [] {} {}).qpWord 0 1).setWidth 32 ∧
    (demoPort false false [] (demoAskAt 0 0xF000000FFF 1) {}).dev.phase.getLsbD 0 = false := by
  decide +kernel

theorem witness_hostRequests_reached (w : Bool) :
    (demoPort false true [] (demoAskAt 0 0xF000000FFF 1) {}).reach 1 w (runParts 0xF000000FFF 1) = ⟨[(0xF000000FFF, 1)], true, false⟩ := by
  rw [show runParts 0xF000000FFF 1 = [(0xF000000FFF, 1)] from rfl]
  refine reach_window _ _ _ (demoPort_isSome ..) _ ?_
  cases w <;> decide +kernel

theorem witness_hostRequests_long : 4032 < (demoAskAt 0 0 4033).data.length := by
  rw [demoAskAt, List.length_replicate]; decide

/-- The first receive slot (0x1100 of the loft) free, or not; a launch packet of 64 bytes for core 127. -/
def demoSlot (free : Bool) : State := demoPort false true (if free then [] else [(0x1107, 1)]) (demoAskAt 0 0 8) {}

theorem witness_hostRequests_send :
    ((demoSlot true).qpRing 0 + (demoSlot true).qpSize 0 * 64 + ((demoSlot true).qp 0).recv % (demoSlot true).qpSize 0 * 4096 = 0xF000001100 ∧
      leNat ((demoSlot true).physRead 1 0xF000001100 64 |>.take 8) / 2 ^ 56 = 0) ∧
    ((demoSlot false).qpRing 0 + (demoSlot false).qpSize 0 * 64 + ((demoSlot false).qp 0).recv % (demoSlot false).qpSize 0 * 4096 = 0xF000001100 ∧
      leNat ((demoSlot false).physRead 1 0xF000001100 64 |>.take 8) / 2 ^ 56 ≠ 0) ∧
    (let on : Subject := demoAskAt 0 8128 64
     on.data.length = 64 ∧ on.addr.toNat % 64 = 0 ∧ on.addr.toNat < 8192) := by
  decide +kernel

theorem witness_hostRequests_slot (free : Bool) : (demoSlot free).reach 1 true (runParts 0xF000001100 4096) =
    ⟨runParts 0xF000001100 4096, true, false⟩ ∧ (runParts 0xF000001100 4096).head? = some (0xF000001100, 64) := by
  refine ⟨reach_window _ _ _ (demoPort_isSome ..) _ ?_, by decide +kernel⟩
  cases free <;> decide +kernel

/-- Pair 0 has been asked for one request, whose entry is at 0x1000 of the loft: of `len` bytes from 0x2000, done up to `pos`; its doorbell says 5. -/
def demoRequest (peer : Bool) (op : Byte) (len pos : Nat) : State :=
  demoPort peer true [(0x1000, op), (0x1009, 0x20), (0x100C, 0xF0), (0x101C, BitVec.ofNat 8 len), (0x8000, 5)] {} { producer := some 1, pos := pos }

theorem demoRequest_taken (peer : Bool) (op : Byte) (len pos : Nat) : (demoRequest peer op len pos).workReq 0 =
    some (workReqOf ((demoRequest peer op len pos).physRead 1 0xF000001000 64)) := by
  have c : (demoRequest peer op len pos).qpCons 0 ≠ 1 := by
    change (demoPort peer true [] {} {}).qpCons 0 ≠ 1
    cases peer <;> decide +kernel
  have x : (demoRequest peer op len pos).qpCtx 0 = 1 := by
    change (demoPort peer true [] {} {}).qpCtx 0 = 1
    cases peer <;> decide +kernel
  have a : (demoRequest peer op len pos).reqVa 0 = 0xF000001000 := by
    change (demoPort peer true [] {} {}).reqVa 0 = 0xF000001000
    cases peer <;> decide +kernel
  have p : (demoRequest peer op len pos).qpIdle 0 = false := by
    rw [State.qpIdle, show ((demoRequest peer op len pos).qp 0).producer = some 1 from rfl]
    simpa using fun h => c h.symm
  rw [State.workReq, p, if_neg Bool.false_ne_true, x, a, portPa_window (demoRequest peer op len pos) 1 true (demoPort_isSome ..) _ (by omega) (by omega), Option.map_some]

/-- What the entry asks for. -/
def demoWork (peer : Bool) (op : Byte) (len pos : Nat) : WorkReq := workReqOf ((demoRequest peer op len pos).physRead 1 0xF000001000 64)

theorem witness_sendRing :
    (let s := demoRequest false 1 64 32
     s.dev.power = .running ∧ s.dev.phase.getLsbD 0 = true ∧ s.qpValid s.pair = true ∧ s.qpSt s.pair = 1 ∧ s.qpCtx s.pair = 1 ∧
     (s.qpWord s.pair 5).toNat = 0xF000008000 ∧ leNat (s.physRead 1 0xF000008000 8) = 5 ∧ s.qpSize 0 = 4 ∧
     ¬ s.qpSize 0 < ((BitVec.ofNat 32 4 : BitVec 32) - s.qpCons 0).toNat ∧ s.qpSize 0 < ((BitVec.ofNat 32 5 : BitVec 32) - s.qpCons 0).toNat ∧
     (s.qp 0).taken = none ∧ s.qpIdle 0 = false ∧ ({ s with on := { value := 0x82 } } : State).endStatus 0 = some 0x82) ∧
    (demoWork false 1 64 32).ok false = true ∧ (demoWork false 1 64 32).op = 1 ∧ (demoWork false 1 64 32).loc + 32 = 0xF000002020 ∧
    (demoWork false 1 64 32).len = 64 ∧ (demoWork false 2 1 0).ok false = true ∧ (demoWork false 3 64 0).ok false = true ∧
    (demoWork false 0x11 64 0).ok false = false ∧ (demoWork false 1 0 0).ok false = false := by
  decide +kernel

theorem witness_sendRing_peer :
    (let s := demoRequest true 0x11 64 0
     s.qpValid 0 = true ∧ s.qpSt 0 = 1 ∧ s.qpPeer 0 = true ∧ linkOf (s.qpPort 0) = 3 ∧ (s.dev.links[linkOf (s.qpPort 0)]).down = false ∧
     (s.dev.links[linkOf (s.qpPort 0)]).replay.length < 1024) ∧
    (∀ op ∈ ([0x11, 0x13] : List Byte), (demoWork true op 64 0).ok true = true ∧ (demoWork true op 64 0).op = op.toNat) ∧
    (workReqOf (0x12 :: 7 :: ((demoRequest true 0x12 64 0).physRead 1 0xF000001000 64).drop 2)).ok true = true ∧
    ({ down := true } : Link).down = true := by
  decide +kernel

theorem witness_sendRing_reached (peer : Bool) :
    (demoRequest peer 1 64 32).reach 1 false (runParts 0xF000002020 32) = ⟨[(0xF000002020, 32)], true, false⟩ := by
  rw [show runParts 0xF000002020 32 = [(0xF000002020, 32)] from rfl]
  refine reach_window _ _ _ (demoPort_isSome ..) _ ?_
  cases peer <;> decide +kernel

/-! ### The link and the management port -/

/-- A frame of header `n` with no payload, closed by its check word. -/
def demoFrame (n : Nat) : List Byte := leBytes 8 n ++ leBytes 4 (Config.crc32 (leBytes 8 n)).toNat

/-- A frame without payload is read back. -/
theorem demoFrame_head (n : Nat) (h : W64.fld (BitVec.ofNat 64 n) 9 3 = 0) : frameHead (demoFrame n) = some (BitVec.ofNat 64 n) := by
  have e : w64 (leNat (leBytes 8 n)) = BitVec.ofNat 64 n := by
    apply BitVec.eq_of_toNat_eq
    simp [w64, Laws.leNat_leBytes]
  have t : (demoFrame n).take 8 = leBytes 8 n := by simp [demoFrame, leBytes]
  have d : (demoFrame n).drop 8 = leBytes 4 (Config.crc32 (leBytes 8 n)).toNat := by simp [demoFrame, leBytes]
  have l : (demoFrame n).length = 12 := by simp [demoFrame, leBytes]
  have c : BitVec.ofNat 32 (leNat (leBytes 4 (Config.crc32 (leBytes 8 n)).toNat)) = Config.crc32 (leBytes 8 n) := by
    rw [Laws.leNat_leBytes]
    apply BitVec.eq_of_toNat_eq
    simpa using (Config.crc32 (leBytes 8 n)).isLt
  simp [frameHead, t, e, h, d, l, c]

/-- A frame arrives at link 3 of a device whose pair 0 serves module 0 there; as type `type` with SEQ `seq`. -/
def demoLinkOn (type seq : Nat) (x : Bool) (l : Link) : State :=
  let s := demoPort true x [] { queue := 3, data := demoFrame (type * 2 ^ 60 + seq * 2 ^ 44), index := 0x11 } {}
  s.modDev fun d => { d with links := d.links.set 3 l }

/-- Every type of frame, in sequence and out of it. -/
theorem witness_linkFrames_heads : ∀ type ∈ [0, 1, 2, 3, 4], ∀ seq ∈ [0, 1],
    frameHead (demoLinkOn type seq true {}).on.data = some (BitVec.ofNat 64 (type * 2 ^ 60 + seq * 2 ^ 44)) ∧
      (BitVec.ofNat 64 (type * 2 ^ 60 + seq * 2 ^ 44)).toNat / 2 ^ 60 = type ∧
      (BitVec.ofNat 16 ((BitVec.ofNat 64 (type * 2 ^ 60 + seq * 2 ^ 44)).toNat / 2 ^ 44 % 65536) = ({} : Link).expect ↔ seq = 0) := by
  intro type ht seq hs
  refine ⟨demoFrame_head _ ?_, ?_⟩
  · revert type seq; decide
  · revert type seq; decide

theorem witness_linkFrames : (frameHead []).isNone = true ∧ ({} : Link).down = false ∧ (demoLinkOn 0 0 false {}).dev.power = .running ∧
    (let s := demoLinkOn 0 0 false {}
     let r := s.peerReq s.link 0
     r.op ≠ .launch ∧ s.link = 3 ∧ r.q = 0 ∧ s.qpServes 0 true = true ∧ s.qpPort 0 = 3 ∧ (s.qpWord 0 8).setWidth 16 = r.smod ∧ (s.arriveReq r).2 = true) ∧
    ((demoPort false false [] {} {}).qpServes 0 true = false) ∧
    (({} : Link).acked 0).replay = [] ∧
    (∀ n ∈ [7, 8], let l : Link := { replay := [(5, [])], fails := n }
      (l.acked 4).replay ≠ [] ∧ (l.acked 4).fails = n ∧ (l.acked 5).replay = l.replay ∧ (l.acked 6).replay = []) := by
  decide +kernel

/-- A datagram of `op` with sequence number 1, argument 0 `a` and no payload, before its tag. -/
def demoSigned (op a : Nat) : List Byte := leBytes 8 (2 ^ 48 + op * 2 ^ 40 + 1) ++ leBytes 8 a ++ List.replicate 16 0

/-- A datagram with a tag of 16 bytes is read back. -/
theorem datagramOf_demo (op a : Nat) (g : List Byte) (hg : g.length = 16) (ho : op < 12) : ∃ d, datagramOf (demoSigned op a ++ g) = some d ∧
    d.op = op ∧ d.seq = 1 ∧ d.tag = g ∧ d.signed = demoSigned op a ∧ d.arg0 = BitVec.ofNat 64 a ∧ d.arg1 = 0 := by
  have p : w64 (leNat ((demoSigned op a ++ g).take 8)) = BitVec.ofNat 64 (2 ^ 48 + op * 2 ^ 40 + 1) := by
    rw [show (demoSigned op a ++ g).take 8 = leBytes 8 (2 ^ 48 + op * 2 ^ 40 + 1) by simp [demoSigned, leBytes], Laws.leNat_leBytes]
    apply BitVec.eq_of_toNat_eq
    simp [w64]
  have q : w64 (leNat (((demoSigned op a ++ g).drop 8).take 8)) = BitVec.ofNat 64 a := by
    rw [show ((demoSigned op a ++ g).drop 8).take 8 = leBytes 8 a by simp [demoSigned, leBytes], Laws.leNat_leBytes]
    apply BitVec.eq_of_toNat_eq
    simp [w64]
  have z : ((demoSigned op a ++ g).drop 16).take 8 = List.replicate 8 0 := by simp [demoSigned, leBytes]
  have y : ((demoSigned op a ++ g).drop 24).take 8 = List.replicate 8 0 := by simp [demoSigned, leBytes]
  have l : (demoSigned op a ++ g).length = 48 := by simp [demoSigned, leBytes, hg]
  have t : (demoSigned op a ++ g).take 32 = demoSigned op a := by simp [demoSigned, leBytes]
  have u : (demoSigned op a ++ g).drop 32 = g := by simp [demoSigned, leBytes]
  have v : ∀ op < 12, W64.fld (BitVec.ofNat 64 (2 ^ 48 + op * 2 ^ 40 + 1)) 48 16 = 1 ∧ W64.fld (BitVec.ofNat 64 (2 ^ 48 + op * 2 ^ 40 + 1)) 32 8 = 0 ∧
      W64.fld (BitVec.ofNat 64 (2 ^ 48 + op * 2 ^ 40 + 1)) 40 8 = op ∧
      (BitVec.ofNat 64 (2 ^ 48 + op * 2 ^ 40 + 1)).setWidth 32 = (1 : BitVec 32) := by decide
  have w : W64.fld (w64 (leNat (List.replicate 8 0))) 0 16 = 0 ∧ W64.fld (w64 (leNat (List.replicate 8 0))) 16 48 = 0 ∧
      w64 (leNat (List.replicate 8 0)) = 0 := by decide
  have v := v op ho
  simp only [datagramOf, Nat.mul_zero, List.drop_zero, p, Nat.mul_one, q, Nat.reduceMul, z, y, l, w.1, w.2.1, v.1, v.2.1, v.2.2.1, v.2.2.2, Nat.add_zero, t, u]
  exact ⟨_, if_pos ⟨trivial, trivial, trivial, by omega, .inl trivial⟩, rfl, rfl, rfl, rfl, rfl, w.2.2⟩

/-- The tag of the management port has 16 bytes. -/
theorem mgmtTag_length (s : State) (bs : List Byte) : (s.mgmtTag bs).length = 16 := by simp [State.mgmtTag, hmac, sha256, beBytes]

/-- Requests that are signed, and that are not (their tag is one byte off); nothing accepted before, or a request of the same number, or a later one. -/
theorem witness_managementRequests (s : State) : ∀ op < 12, ∀ a,
    (∃ d, datagramOf (demoSigned op a ++ s.mgmtTag (demoSigned op a)) = some d ∧ d.op = op ∧ d.tag = s.mgmtTag d.signed ∧ d.arg0.toNat = a % 2 ^ 64 ∧
      d.seq.toNat = 1 ∧ d.arg1 = 0) ∧
    (∃ d, datagramOf (demoSigned op a ++ (s.mgmtTag (demoSigned op a)).map (· + 1)) = some d ∧ d.op = op ∧ d.tag ≠ s.mgmtTag d.signed) := by
  intro op ho a
  obtain ⟨d, h, h1, h2, h3, h4, h5, h6⟩ := datagramOf_demo op a _ (mgmtTag_length s (demoSigned op a)) ho
  obtain ⟨e, k, k1, k2, k3, k4, k5, k6⟩ := datagramOf_demo op a ((s.mgmtTag (demoSigned op a)).map (· + 1)) (by simp [mgmtTag_length]) ho
  refine ⟨⟨d, h, h1, h4 ▸ h3, ?_, ?_, h6⟩, ⟨e, k, k1, ?_⟩⟩
  · rw [h5]; simp
  · rw [h2]; rfl
  · rw [k3, k4]
    have l := mgmtTag_length s (demoSigned op a)
    match hm : s.mgmtTag (demoSigned op a) with
    | [] => simp [hm] at l
    | b :: bs => simp

theorem witness_managementRequests_states : (datagramOf []).isNone = true ∧ State.reset.dev.power = .off ∧ (demo (demoTask [])).dev.power = .running ∧
    ({ power := .minimal } : Device).power ≠ .off ∧ ({} : Mgmt).accepted = false ∧ ({ accepted := true, lastSeq := 1 } : Mgmt).lastSeq = 1 ∧
    (8063 : Nat) < 8192 ∧ (8063 : Nat) / 128 % 2 = 0 ∧ (769 : Nat) < 1024 ∧ (769 : Nat) / 2 % 128 = 0 ∧ (0x2FFFFFFF80 : Nat) % 128 = 0 ∧
    (0x2FFFFFFF80 : Nat) < 0x003000000000 := by
  decide

/-! ### What instructions leave alone, and the whole machine -/

/-- The instruction goes on to a next state, which neither waited nor trapped. -/
def goesOn (i : Instr) (s : State) : Bool :=
  match exec i s with | .next s' => (match s'.flow with | .next | .jump _ | .resume .. => true | _ => false) | _ => false

theorem goesOn_iff {i : Instr} {s : State} (h : goesOn i s = true) : ∃ s', exec i s = .next s' ∧ s'.wentOn := by
  unfold goesOn at h
  match e : exec i s with
  | .next s' =>
    refine ⟨s', rfl, ?_⟩
    rw [e] at h
    unfold State.wentOn
    cases f : s'.flow <;> simp_all
  | .fault _ => simp [e] at h
  | .refused _ => simp [e] at h

theorem witness_OnlyDestinationsChange : (demo demoEdges).live = some demoEdges ∧
    ([.add 7 8 9, .call 16, .callr 1 8 0, .addi 0 8 1, .kcnt 7 1, .wrc 8 0x141] : List Instr).all (fun i => !i.isEvent && goesOn i (demo demoEdges)) = true ∧
    Instr.upass.isEvent = false := by
  refine ⟨rfl, ?_⟩; decide +kernel

theorem witness_NonStoringFormsKeepTheRest : (demo (demoTask [])).live = some (demoTask []) ∧
    ([.mgdrop, .fence 0, .drain 0, .phleft 7] : List Instr).all (fun i => keepsStorage i && goesOn i (demo (demoTask []))) = true ∧
    goesOn (.cpyc false) (demo (demoStaged (some {}) none)) = true := by
  refine ⟨rfl, ?_⟩; decide +kernel

theorem witness_SynchronisingStepsStoreTheirWordAlone : (demo demoSync).live = some demoSync ∧ demoSync.granted = none ∧ (demo demoSync).dev.wf = [] ∧
    (∀ w, InHand (demo demoSync) demoSync w 8 196600 (windowBase 0 + 196600) ((demo demoSync).reached demoSync [(196600, 8)] w)) ∧
    ([.aadd 7 8 10 true 0, .ald 7 8 true 0, .ast 8 10 true 0] : List Instr).all (fun i =>
      (syncPlace demoSync i).any (fun p => p.1 == 196600 && p.2.1 == 8) && goesOn i (demo demoSync)) = true ∧
    (demoBar true 5 0).live = some demoBarTask ∧ syncPlace demoBarTask (.binit 8) = some (196592, 16, true) ∧
    goesOn (.binit 8) (demoBar true 5 0) = true := by
  refine ⟨rfl, rfl, rfl, inHand_loft, ?_⟩; decide +kernel

theorem witness_OnlyClosesAndStartsMoveThePhase : movesPhase (.add 7 8 9) = false ∧ goesOn (.add 7 8 9) (demo demoEdges) = true ∧
    (∃ s', exec .computeClose (demo (demoTask [])) = .next s') := ⟨rfl, by decide, _, rfl⟩

theorem witness_EveryStepKeepsPairsLive : State.reset.pairsLive ∧ (∃ s', step State.reset = .next s') :=
  ⟨fun _ h => absurd h (List.not_mem_nil), _, rfl⟩

/-- The bundle of one `add 7, 8, 9` with a NOP in every other slot, where core 0 is to fetch. -/
def demoFetch : State := State.reset.withFetchWord 32 0x84742400

theorem witness_groupsRun : demoFetch.turns = .core 0 :: [.event .powerOn {}] ∧
    (let s := turnOfCore demoFetch 0 [.event .powerOn {}]
     let t := readyTask none
     s.dev.power = .running ∧ (s.core 0).avail = true ∧ (s.core 0).running = true ∧ (s.core 0).yield = false ∧ s.live = some t ∧ t.mayIssue = true ∧
     t.waiting = none ∧ t.image = 0 ∧ t.pending = none ∧ t.invalidating = [] ∧ t.thaws = false ∧ t.posting = false ∧ t.bundle = none ∧ t.ctl.bkpt.getLsbD 0 = false ∧
     (s.core 0).fetchOf t.tid (t.pc.toNat / 64 * 64) = none) ∧
    (let s := turnOfCore demoFetch 0 [.event .powerOn {}]
     s.codeAt 0 (s.cctx (readyTask none)).asn (readyTask none).pc.toNat = some 0x10000 ∧
     BitVec.ofNat 128 (s.dev.dram.num 0x10000 16) = tableBundle 0x84742400 ∧
     (match decodeBundle (tableBundle 0x84742400) with
      | .ok l => (groupAt l (firstSlot l 0)).all fun p => p.instr.wellFormed && !(s.core 0).interlocked (readyTask none) [p.instr]
      | .error _ => false) = true) := by
  refine ⟨rfl, ⟨rfl, rfl, rfl, rfl, ?_⟩, ?_⟩
  · decide +kernel
  · decide +kernel

theorem witness_EveryStepGoesOn : (demo (demoTask [])).live = some (demoTask []) ∧
    ∀ i ∈ ([.vfadd 5 6 7 0 0, .loop 20 2, .phreq, .untethA] : List Instr), i.wellFormed = true ∧ alwaysCompletes i = true := by
  refine ⟨rfl, ?_⟩; decide

theorem witness_unitsAndEventsRun :
    (let s : State := { demoUnit (demoTask []) fun u => { u with running := some { handle := 1, ctx := 1, tid := 1, pc := 256 }, ucode := Mem.setNum [] 2048 8 0x7DA8010000000000 }
       with turns := [.unit 0] }
     let s1 : State := { ({ s with turns := [] } : State).elapse none with cur := 0 }
     s1.dev.power = .running ∧ (s1.core 0).avail = true ∧ (match s1.beforeWord with | some (.inr _) => true | _ => false) = true) ∧
    (let s : State := { demo (demoTask []) with turns := [.event .computeClose {}] }
     Instr.computeClose.isEvent = true ∧ (({ s with turns := [] } : State).elapse none).dev.power = .running) := by
  refine ⟨⟨rfl, rfl, ?_⟩, rfl, rfl⟩
  decide +kernel

/-! ### Clauses at their edges -/

/-- A bundle that the task has entered is in hand. -/
theorem witness_groupsRun_entered : let t : Task := { demoTask [] with bundle := some (tableBundle 0x84742400) }
    (demo t).live = some t ∧ bundleInHand (demo t) t (tableBundle 0x84742400) (demo t) ∧ Unhindered t ∧ t.mayIssue = true := by
  refine ⟨rfl, .inl ⟨rfl, rfl⟩, ?_, by decide⟩
  unfold Unhindered; decide

/-- `c.mflags` is among the plain registers; region 1 is being filled, or synchronised; a task holds a claim on ring 2, which no command names. -/
theorem witness_registers_more : (plainWritten (demoEdges.getS 10) 0x0A0).isSome = true ∧ ctrlAccess 0x0A0 = some .rw ∧
    (let c := { demoCore (demoTask []) (demoRegion false) with mapCmds := [{ kind := .fill, ctx := 1, gran := 3071 }] }
     c.regionBusy (demoRegion false) 1 = true ∧ c.regionBusy (demoRegion false) 2 = false) ∧
    ({ demoCore (demoTask []) (demoRegion false) with syncs := [⟨9, 1, 1, 1, 0, 0, [3070], 0, none, false⟩] } : Core).regionBusy (demoRegion false) 1 = true ∧
    (demoRings.core 0).ringCmds 1 2 = [] ∧ demoClaims.claims ≠ [] := by
  decide +kernel

/-- Blocks with and without a rotation, integer and floating-point scans, and a value below zero for both roots. -/
theorem witness_vector_more : (∀ i ∈ ([.vqnt 1 2 8 1 1, .vbmax 1 2 8 2, .vhad 1 2 2 1, .vdqnt 1 2 8, .vscan 1 2 1 7 8, .vscan 1 2 2 7 9] : List Instr),
    i.wellFormed = true) ∧ blkMalformed (zeroBytes 64) = false ∧
    blockYields (fun _ => zeroBytes 64) 0 = 62 := by
  decide

/-- Tile t7 has one column of two rows: neither a transpose nor a conversion of t5 fits it. -/
theorem witness_tileForms_shapes : let t : Task := { demoTiles with regs := { demoTiles.regs with tdim := demoTiles.regs.tdim.set 7 0x8001070000010002 } }
    ∃ x y, t.shape 5 = some x ∧ t.shape 7 = some y ∧ ¬ (y.rows = x.cols ∧ y.cols = x.rows ∧ y.w = x.w) ∧ ¬ (y.rows = x.rows ∧ y.cols = x.cols) :=
  ⟨_, _, rfl, rfl, by decide, by decide⟩

/-- `mucw` outside a supervisor context, by a task that does not own the unit, with no call outstanding, and with one of the owner's. -/
theorem witness_UnitRegisters_others : (demoUser demoStats).live = some demoStats ∧ ((demoUser demoStats).cctx demoStats).sup = false ∧
    ((demo demoStats).core 0).mx.owner ≠ some 1 ∧ ((demo demoStats).cctx demoStats).sup = true ∧ ((demo demoStats).core 0).callsOutstanding = false ∧
    (let s := demoWith demoStats fun c => { c with mx := { owner := some 2, running := some { ctx := 2, tid := 2, handle := 1 } } }
     s.live = some demoStats ∧ (s.core 0).mx.owner ≠ some 1 ∧ (s.core 0).callsOutstanding = true) := by
  refine ⟨rfl, ?_, ?_, ?_, ?_, rfl, ?_, ?_⟩ <;> decide +kernel

/-- The lock at 196600 is held by this task, and two tasks wait for it; the wait-for table has no room, under both policies. -/
def demoWaiter (i : Fin 4096) (tid : BitVec 16) : WfEntry := ⟨i, false, false, 0x02, BitVec.ofNat 48 (windowBase 0 + 196600), tid, 1, 0, .task 1, 0, false⟩
def demoHandOver : State :=
  demoOn { demoCore demoSync demoCtx with loft := Mem.setNum [] 196600 8 0x8000000000010001 } { power := .running, wf := [demoWaiter 3 2, demoWaiter 4 3] }
def demoNoRoom (pol held : Bool) : State :=
  demoOn { demoCore demoSync { demoCtx with wfcfg := if pol then 0x8000000000000001 else 1 } with loft := if held then Mem.setNum [] 196600 8 0x8000000000010002 else [] }
    { power := .running, wf := [demoEdge true] }

theorem inHand_handOver : InHand demoHandOver demoSync true 8 196600 (windowBase 0 + 196600) (demoHandOver.reached demoSync [(196600, 8)] true) := by
  unfold InHand; exact ⟨by decide, ⟨by decide, rfl, rfl⟩, by decide⟩

theorem inHand_noRoom (pol held : Bool) : InHand (demoNoRoom pol held) demoSync true 8 196600 (windowBase 0 + 196600)
    ((demoNoRoom pol held).reached demoSync [(196600, 8)] true) := by
  unfold InHand; cases pol <;> cases held <;> exact ⟨by decide, ⟨by decide, rfl, rfl⟩, by decide⟩

theorem witness_Locks_more : demoHandOver.live = some demoSync ∧ (demoHandOver.core 0).cctx 1 = some demoCtx ∧
    demoHandOver.lockWaiters 1 (windowBase 0 + 196600) = [demoWaiter 3 2, demoWaiter 4 3] ∧
    (∀ e ∈ demoHandOver.dev.wf, e.record = true ∨ e ∈ demoHandOver.lockWaiters 1 (windowBase 0 + 196600)) ∧
    ((demoHandOver.lockWaiters 1 (windowBase 0 + 196600)).map (·.tid)).Nodup ∧
    wordAt demoHandOver demoSync (windowBase 0 + 196600) 8 = 0x8000000000010001 ∧
    (∀ pol held, (demoNoRoom pol held).live = some demoSync ∧ (∀ e ∈ (demoNoRoom pol held).dev.wf, e.record = true) ∧
      (demoNoRoom pol held).wfRoom 0 1 1 = false ∧
      wordAt (demoNoRoom pol held) demoSync (windowBase 0 + 196600) 8 = (if held then 0x8000000000010002 else 0) ∧
      ((demoNoRoom pol held).ctxOn 0 1).wfcfg.getLsbD 63 = pol) ∧ demoSync.untethered = false ∧ demoSync.granted = none := by
  refine ⟨rfl, rfl, ?_, ?_, ?_, ?_, ?_, rfl, rfl⟩
  · decide +kernel
  · decide +kernel
  · decide +kernel
  · decide +kernel
  · intro pol held
    cases pol <;> cases held <;> refine ⟨rfl, ?_⟩ <;> decide +kernel

/-- Places of `barv`: out of line, in the DRAM of a slice, past the loft of a window, and past the partition. -/
theorem witness_barv : (4 : Nat) % 16 ≠ 0 ∧ (∀ m x, placeOf (0x300000 % 2 ^ 56) = .window m x → 0x300000 ≤ x) ∧
    (placeOf (0xF000300000 % 2 ^ 56) = .window 0 0x300000) ∧ demoCtx.psize < 196608 + 16 ∧ 196608 < 0x300000 ∧ (196608 : Nat) % 16 = 0 := by
  refine ⟨by decide, ?_, by decide +kernel, by decide, by decide, by decide⟩
  intro m x h
  exact absurd h (by rw [show placeOf (0x300000 % 2 ^ 56) = .dram 0 0x300000 by decide +kernel]; simp)

/-- A store on its way to another home. -/
def demoPosting : Task := { demoTask [] with remote := [{ uid := 7, pc := 0x10000, slot := 3, op := .store, addr := 0x60000000, wide := true, arg := 1, cmp := 0, posted := true }] }

theorem witness_posting : (demo demoPosting).live = some demoPosting ∧ demoPosting.posting = true ∧ (demoTask []).posting = false := ⟨rfl, by decide, by decide⟩

/-- Region 1 as before, with a barrier in its own last granule: resident, or absent and filled from memory. -/
def demoAbsent : CoreCtx := { demoRegion false with absent := [(3071, 1)] }

theorem witness_RegionMaintenance_ready : FreshSerial (demoCtxs demoSyncs demoAbsent false) ∧
    (let k := demoRegion false
     ∀ j, k.regionOf (196592 / 64) = some j → k.isResident (196592 / 64) = true ∨ k.regionFill j = 2) ∧
    demoAbsent.regionOf (196592 / 64) = some 1 ∧ demoAbsent.isResident (196592 / 64) = false ∧ demoAbsent.regionFill 1 ≠ 2 := by
  refine ⟨?_, ?_, ?_, ?_, ?_⟩
  · unfold FreshSerial; decide +kernel
  · decide +kernel
  · decide +kernel
  · decide +kernel
  · decide +kernel

/-- A record of COUNT 1 that is runnable, and one that is not. -/
def demoLast (bad : Bool) : State := demoGrids.modCore 0 fun c => { c with loft := (Mem.setNum [] 80 4 1).setNum 64 8 (if bad then 1 else 0) }

theorem witness_endingForms_last (bad : Bool) : (demoLast bad).live = some demoGridTask ∧
    InHand (demoLast bad) demoGridTask true 32 64 (windowBase 0 + 64) ((demoLast bad).reached demoGridTask [(64, 32)] true) ∧
    ((demoLast bad).core 0).queueFull (some 1) = false := by
  unfold InHand; cases bad <;> exact ⟨rfl, ⟨by decide, ⟨by decide, rfl, rfl⟩, by decide⟩, rfl⟩

theorem witness_endingForms_last_values : wordAt (demoLast false) demoGridTask (windowBase 0 + 80) 4 = 1 ∧
    (let bs (s : State) := (s.physRead 1 (windowBase 0 + 64) 32).take 16 ++ zeroBytes 4 ++ (s.physRead 1 (windowBase 0 + 64) 32).drop 20
     ((demoLast false).putWord64 1 (windowBase 0 + 80) 4 0).runnable 1 (recOf (bs (demoLast false)) (BitVec.ofNat 64 (windowBase 0 + 64))) = true ∧
     ((demoLast true).putWord64 1 (windowBase 0 + 80) 4 0).runnable 1 (recOf (bs (demoLast true)) (BitVec.ofNat 64 (windowBase 0 + 64))) = false) := by
  decide +kernel

/-- The context of the subject has a partition, and no other does. -/
theorem witness_holdsContext : ({ demo (demoTask []) with on := { ctx := 1 } } : State).holdsContext 1 = true ∧
    (demo (demoTask [])).holdsContext 2 = false ∧ (demoTask []).stuck = false ∧ (demo (demoTask [])).dev.promised = [] := by
  decide +kernel

/-- A feed of the loft without a footprint; a feed of the manger and of the loft once the operands are consumed; INT4 activations; a word held by an
older entry over the accumulators. -/
theorem witness_MicroStorage_more :
    (demoFeed [(0, 1)] false).a[(0 : Fin 8)].toNat < 2 ∧ (demoFeed [(0, 2)] false).a[(0 : Fin 8)].toNat = 2 ∧
    ({ demoFeed [] false with m := Vector.replicate 8 0 } : Call).m[(7 : Fin 8)].getLsbD 3 = false ∧
    narrow { demoFeed [] false with m := (demoFeed [] false).m.set 7 (2 ^ 19) } = true ∧ narrow (demoFeed [] false) = false ∧
    rowsOk (demoFeed [] false) 4 2 ∧ ¬ rowsOk (demoFeed [] false) 4 3 ∧ ¬ rowsOk (demoFeed [] false) 3 1 ∧
    (let s := demoFeedOn (.uzero 1 2) (demoFeed [] false) []
     let r : State := s.modCore 0 fun c => { c with sb := [⟨.sums, 0, 0xFFFFF, true, false, 1, .sync 9⟩, ⟨.sums, 0x40080, 0x400BF, true, false, 1, .call 1 1⟩] }
     s.callHeld (demoFeed [] false) .sums = false ∧ r.callHeld (demoFeed [] false) .sums = true) ∧
    ((demoFeedOn (.uout 0 1 2 2 false false 0) (demoFeed [] false) []).bank 0 0).any (·.tid == (demoFeed [] false).tid) = true := by
  refine ⟨by decide, by decide, by decide, by decide, by decide, ?_, ?_, ?_, ?_, ?_⟩ <;> (try unfold rowsOk) <;> decide +kernel

/-- A `upass` over macro 5 into row 4, macro 5 computing or not; past the macros, past the rows, and of a wrong shape. -/
theorem witness_passWords : let k := demoFeed [(0, 5), (1, 4), (2, 0), (3, 7), (4, 400)] false
    let o : MicroOp := .upass 0 1 2 0 0 true false false 0
    let s := demoFeedOn o k []
    s.unit.running = some { k with word := some o } ∧
    (k.m[(7 : Fin 8)].toNat / 2 ^ 26 % 64 ≤ k.a[(0 : Fin 8)].toNat ∧ k.a[(0 : Fin 8)].toNat + 0 ≤ k.m[(7 : Fin 8)].toNat / 2 ^ 20 % 64) ∧
    ¬ (k.a[(3 : Fin 8)].toNat + 0 ≤ k.m[(7 : Fin 8)].toNat / 2 ^ 20 % 64) ∧ rowsOk k k.a[(1 : Fin 8)].toNat 1 ∧
    (1 % 2 ^ 0 = 0 ∧ 0 + 1 / 2 ^ 0 * (s.unit.macros[(5 : Fin 64)]).outputs ≤ 512) ∧ ¬ (1 % 2 ^ 1 = 0) ∧
    (s.unit.macros[(5 : Fin 64)]).busy = false ∧ s.callHeld k .array = false ∧ s.callHeld k .sums = false ∧ k.modes.getLsbD 5 = false ∧ k.trace = [] ∧
    (demoFeed [] true).consumed = true := by
  refine ⟨rfl, ?_, ?_, ?_, ?_, ?_, ?_, ?_, ?_, ?_, ?_, ?_⟩ <;> (try unfold rowsOk) <;> decide +kernel

/-- An `mtacc` of one member, of one more, and one whose member's row would overflow; a bound that is +∞. -/
theorem witness_mtacc : demoMt.todo = (1, 1) :: [] ∧ ({ demoMt with todo := [(1, 1), (2, 2)] } : MtAcc).todo = (1, 1) :: [(2, 2)] ∧ demoMt.first ≤ demoMt.last ∧
    (Mem.setNum [] 0 2 0x7F80).num 0 2 = FFmt.bf16.infBits ∧ ({ demoTask [] with stats := [{ handle := 2 }] } : Task).statusOf demoMt.handle ≠ none := by
  decide +kernel

/-- A task whose next bundle may be decoded, one the device may switch out, and a record for which nobody has left yet. -/
theorem witness_TaskEvents_more : (demoTask []).posts = [] ∧ (demoTask []).invalidating = [] ∧ (demoTask []).startPhase = none ∧
    (let r := demoRecord 0x0002001000000000
     (0, r) ∉ demoPreempt.dev.victims ++ demoPreempt.dev.promised) ∧
    demoSteal.candidates 0 = [] ∧
    (∀ r ∈ demoSteal.dev.reserving, (0 : CoreId) ∉ r.2.cores) := by
  decide +kernel

/-- A copy of two granules of n8 units from the loft to the page, whose second granule may go ahead of its first. -/
def demoTwo : Cmd :=
  { demoCopyCmd with
    src := BitVec.ofNat 768 (2 ^ 62 + 128 * 2 ^ 96 + 128 * 2 ^ 128 + 2 ^ 144 + 2 ^ 192)
    dst := BitVec.ofNat 768 (0x400000 + 128 * 2 ^ 96 + 128 * 2 ^ 128 + 2 ^ 144 + 2 ^ 192) }
/-- A copy of two granules within the loft, from offset 64 to offset 128. -/
def demoNear : Cmd :=
  { demoCopyCmd with
    src := BitVec.ofNat 768 (64 + 2 ^ 62 + 64 * 2 ^ 96 + 64 * 2 ^ 128 + 2 ^ 144 + 2 ^ 192)
    dst := BitVec.ofNat 768 (128 + 2 ^ 62 + 64 * 2 ^ 96 + 64 * 2 ^ 128 + 2 ^ 144 + 2 ^ 192) }

theorem witness_granuleDeliver_orders :
    ((demoCopy demoTwo).deliverAhead 0 demoTwo 64).isSome = true ∧ (∀ u < 64, ((demoCopy demoCopyCmd).deliverAhead 0 demoCopyCmd u).isNone = true) ∧
    ((demoCopy demoTwo).jobOf 0 demoTwo).plain = true ∧
    ({ demoCopyCmd with early := [(0, 64, [])] } : Cmd).early.find? (·.1 == 0) = some (0, 64, []) ∧ (∀ e ∈ demoCopyCmd.early, e.1 ≠ demoCopyCmd.pos) := by
  decide +kernel

theorem witness_granuleBytes : let s := demoCopy demoNear
    let j := s.jobOf 0 demoNear
    (s.core 0).cmd 9 = some demoNear ∧ (s.deliverUnit 0 9).toOption.isSome = true ∧ j.plain = true ∧ j.src.space = 1 ∧ j.dst.space = 1 ∧
    j.ctx.rgva = Vector.replicate 16 0 ∧ ((s.core 0).cctx 1).isSome = true ∧ demoNear.pos < j.walk.total ∧ j.dstAt 0 = some 128 ∧ j.srcAt 63 = some 127 := by
  decide +kernel

/-- No granule is in a region of a context whose regions are all invalid. -/
theorem witness_granuleBytes_regions (g : Nat) : ((demoCopy demoNear).jobOf 0 demoNear).ctx.regionOf g = none := by
  have h : ((demoCopy demoNear).jobOf 0 demoNear).ctx = demoCtx := by decide +kernel
  have v : ∀ i : Fin 16, demoCtx.regionValid i = false := by decide
  rw [h]
  simp [CoreCtx.regionOf, v]

/-- A stamp that its home takes; a reduction over two granules; a remote access of a group, and of a single instruction. -/
theorem witness_memorySteps_more :
    (let k := { demoFill with kind := .stamp, stampAddr := 0x400008, stamped := true }
     k.inflight = 0 ∧ k.imaged = false ∧ k.stampSent = false ∧ ((demoMap k id).core 0).mapActive .stamp 0 = [k]) ∧
    (let p := { demoRed 0 with beyond := some 0x10040 }
     (demoNet [p] []).ready (·.red) = some p ∧ placeOf 0x10040 = .dram 0 0x10040) ∧
    (let p : Packet := { demoPacketTo 0x10000 with cells := [], sync := some { demoAsk with joint := true } }
     (demoNet [p] []).ready (·.sync.isSome) = some p ∧ p.riders = [] ∧ demoAsk.posted = false ∧ demoAsk.joint = false) ∧
    (demoNet [] []).physMeets 1 ((demoNet [] []).supOf 0 1) demoAsk.op.writes demoAsk.addr demoAsk.size = .ok ∧ demoCopyCmd.ahead = none := by
  decide +kernel

/-- The port holds 64 KiB of pair 0 already; a READ that has been asked for; a retry of a start on a device that runs. -/
theorem witness_ports_more :
    (let s := demoPort false false [] (demoAskAt 0 0xF000000FFF 1) {}
     65536 < heldBytes [{ port := 0, q := 1, op := .write, addr := 0, len := 65536 }] (s.qpPort s.pair) + s.on.data.length) ∧
    (demoWork false 2 64 0).ok false = true ∧ (demoWork false 2 64 0).op = 2 ∧
    (let s := ({ demoRequest false 2 64 0 with on := { value := 0x82 } } : State).modQp 0 fun k => { k with asked := true }
     (s.qp 0).asked = true ∧ s.endStatus 0 = some 0x82) := by
  decide +kernel
end

section
/-!
PROOFS. The numbers of R14 to R20: the finite encodings as values on the grid of their format, what rounding gives of them, and the range of
what it delivers. Settles O20.
-/
namespace Sys2Proof.Proofs
open Machine

/-- An encoding is its sign, its exponent field and its mantissa field (R14). -/
theorem encoding_eq_fields (f : FFmt) {b : Nat} (h : b < 2 ^ f.width) :
    b = f.sgn (bits b (f.mb + f.eb) 1 == 1) + (bits b f.mb f.eb * 2 ^ f.mb + bits b 0 f.mb) := by
  cases f <;> simp only [FFmt.width, FFmt.mb, FFmt.eb, FFmt.sgn, bits, beq_iff_eq, Nat.reduceAdd, Nat.reducePow] at * <;> split <;> omega

/-- The finite encodings (R14): a subnormal or a zero, or a normal number no greater than the largest finite one. -/
theorem value_of_isFin {f : FFmt} {b : Nat} (h : (f.value b).isFin = true) :
    let m := bits b 0 f.mb
    let e := bits b f.mb f.eb
    let neg := bits b (f.mb + f.eb) 1 == 1
    (e = 0 ∧ f.value b = .fin neg m f.qmin false) ∨
      (0 < e ∧ e * 2 ^ f.mb + m ≤ f.maxFin ∧ f.value b = .fin neg (2 ^ f.mb + m) ((e : Int) - 1 + f.qmin) false) := by
  have hm : bits b 0 f.mb < 2 ^ f.mb := Nat.mod_lt _ (by positivity)
  have he : bits b f.mb f.eb < 2 ^ f.eb := Nat.mod_lt _ (by positivity)
  simp only [FFmt.value] at h ⊢
  generalize bits b 0 f.mb = m at *
  generalize bits b f.mb f.eb = e at *
  split at h
  · split at h <;> cases h
  next htop =>
    split at h
    · cases h
    next hnan =>
      split at h
      next h0 => exact .inl ⟨h0, by rw [if_neg htop, if_neg hnan, if_pos h0]⟩
      next h0 =>
        refine .inr ⟨by omega, ?_, by rw [if_neg htop, if_neg hnan, if_neg h0]⟩
        cases f <;> simp [FFmt.hasInf, FFmt.mb, FFmt.eb, FFmt.maxFin] at * <;> omega

/-- A number already on the grid is kept, and exactly. -/
@[simp] theorem roundNat_zero_exact (neg : Bool) (num : Nat) (rm : RM) : roundNat neg num 0 false rm = (num, false) := by
  cases rm <;> simp [roundNat, Nat.mod_one]

/-- A finite value on the grid of its own format rounds to its code, without a condition (R20). -/
theorem roundF_on_grid (f : FFmt) (neg : Bool) (num : Nat) (e : Int) (rm : RM) (h0 : num ≠ 0)
    (hq : max (e + (Nat.log2 num : Int) - f.mb) f.qmin = e) (hmax : (e - f.qmin).toNat * 2 ^ f.mb + num ≤ f.maxFin)
    (hfl : f.flushes = true → 2 ^ f.mb ≤ (e - f.qmin).toNat * 2 ^ f.mb + num) :
    roundF (.fin neg num e false) f rm = (f.sgn neg + ((e - f.qmin).toNat * 2 ^ f.mb + num), .none) := by
  simp only [roundF, hq, h0, false_and, if_false, le_refl, if_true, sub_self, Int.toNat_zero, roundNat_zero_exact]
  rw [if_neg (by omega), if_neg (by simp; intro h; exact hfl h)]
  rfl

/-- Every finite encoding that R15 does not flush is its own rounding (R14, R20). -/
theorem roundF_value {f : FFmt} {b : Nat} (rm : RM) (hb : b < 2 ^ f.width) (hf : (f.value b).isFin = true)
    (hr : (f.read b).2 = false) : roundF (f.value b) f rm = (b, .none) := by
  have hm : bits b 0 f.mb < 2 ^ f.mb := Nat.mod_lt _ (by positivity)
  have hcode := encoding_eq_fields f hb
  obtain ⟨h0, hv⟩ | ⟨hpos, hmax, hv⟩ := value_of_isFin hf
  · rw [h0, Nat.zero_mul, Nat.zero_add] at hcode
    by_cases hz : bits b 0 f.mb = 0
    · rw [hv, hz]
      simpa [roundF, hz] using hcode.symm
    · have hfl : f.flushes = false := by
        by_contra hfl
        rw [Bool.not_eq_false] at hfl
        simp [FFmt.read, h0, hz, hfl] at hr
      have hlog : Nat.log2 (bits b 0 f.mb) < f.mb := (Nat.log2_lt hz).2 hm
      have hmax : 2 ^ f.mb ≤ f.maxFin := by cases f <;> decide
      rw [hv, roundF_on_grid f _ _ _ rm hz (max_eq_right (by omega)) (by simp; omega) (by simp [hfl])]
      simpa using hcode.symm
  · have hlog : Nat.log2 (2 ^ f.mb + bits b 0 f.mb) = f.mb := by
      rw [Nat.log2_eq_iff (by positivity)]
      constructor
      · omega
      · rw [Nat.pow_succ]; omega
    have hexp : ((bits b f.mb f.eb : Int) - 1 + f.qmin - f.qmin).toNat = bits b f.mb f.eb - 1 := by omega
    have hnum : (bits b f.mb f.eb - 1) * 2 ^ f.mb + (2 ^ f.mb + bits b 0 f.mb) = bits b f.mb f.eb * 2 ^ f.mb + bits b 0 f.mb := by
      rw [← Nat.add_assoc, ← Nat.succ_mul, Nat.succ_eq_add_one, Nat.sub_add_cancel hpos]
    rw [hv, roundF_on_grid f _ _ _ rm (by positivity), hexp, hnum, ← hcode]
    · rw [hlog]; omega
    · rwa [hexp, hnum]
    · intro _; rw [hexp]; omega

/-- What rounding delivers fits the format. -/
theorem roundF_lt (x : Ex) (f : FFmt) (rm : RM) : (roundF x f rm).1 < 2 ^ f.width := by
  have hcode (neg : Bool) {c : Nat} (hc : c ≤ Max.max f.infBits f.maxFin) : f.sgn neg + c < 2 ^ f.width := by
    cases f <;> cases neg <;> simp [FFmt.sgn, FFmt.eb, FFmt.mb, FFmt.width, FFmt.infBits, FFmt.maxFin] at hc ⊢ <;> omega
  have hlimit (p : Bool) : (if p then f.infBits else f.maxFin) ≤ Max.max f.infBits f.maxFin := by split <;> omega
  have hover (neg : Bool) : overflowBits f neg rm < 2 ^ f.width := hcode neg (hlimit _)
  have hfin (neg : Bool) (code : Nat) (p : Prop) [Decidable p] (c c' c'' : Cond) :
      (if f.maxFin < code then (overflowBits f neg rm, c) else if p then (f.sgn neg, c') else (f.sgn neg + code, c'')).1 < 2 ^ f.width := by
    split
    · exact hover neg
    · split
      · exact hcode neg (Nat.zero_le _)
      · exact hcode neg (by omega)
  unfold roundF
  split
  next => cases f <;> decide
  next neg => split <;> exact hcode neg (by omega)
  next neg num e more =>
    split
    · exact hcode neg (Nat.zero_le _)
    · dsimp only
      split <;> exact hfin ..

/-- The low bits of an integer fit. -/
theorem bitsOfInt_lt (n : Nat) (i : Int) : bitsOfInt n i < 2 ^ n := by
  have h0 : 0 ≤ i % (2 ^ n : Int) := Int.emod_nonneg _ (by positivity)
  have h1 : i % (2 ^ n : Int) < 2 ^ n := Int.emod_lt_of_pos _ (by positivity)
  have h2 : ((2 ^ n : Nat) : Int) = 2 ^ n := by push_cast; rfl
  unfold bitsOfInt
  omega

theorem bitsOfInt_lt_bytes (b : Nat) (i : Int) : bitsOfInt (8 * b) i < 256 ^ b := by
  have := bitsOfInt_lt (8 * b) i
  rwa [Nat.pow_mul] at this

/-! ## NaN operands on the right -/

theorem add_nan_right (x : Ex) (rm : RM) : Ex.add x .nan rm = (.nan, false) := by cases x <;> rfl
theorem mul_nan_right (x : Ex) : Ex.mul x .nan = (.nan, false) := by cases x <;> rfl
theorem div_nan_right (x : Ex) : Ex.div x .nan = (.nan, false) := by cases x <;> rfl

/-- NaNs are canonical, and the undefined operations are Invalid (R16, R202). -/
theorem nansAreCanonical_holds : nansAreCanonical := by
  intro f rm x n p q
  refine ⟨⟨rfl, add_nan_right x rm, rfl, mul_nan_right x, rfl, div_nan_right x, rfl, rfl⟩,
    ⟨rfl, rfl, ?_, rfl, rfl, rfl⟩, ?_, ⟨rfl, rfl, rfl, rfl⟩, rfl⟩
  · cases n <;> rfl
  · intro m e more hm
    simp [Ex.sqrt, Ex.rsqrt, hm]

/-- Settles O20: a finite encoding lies on the grid of its own format, and the NaN rules are the branches of the operations. -/
theorem roundingAndNans : Obligations.RoundingAndNans :=
  ⟨fun _ _ rm hb hf hr => roundF_value rm hb hf hr, nansAreCanonical_holds⟩
end Sys2Proof.Proofs
end

section
/-!
PROOFS. Bytes and little-endian numbers: how large a number is, what a slice holds, and a stored run of bytes read back piece by piece (R12).
-/
namespace Sys2Proof.Proofs
open Machine Laws

/-! ## Little-endian numbers -/

/-- The number of some bytes fits them. -/
theorem leNat_lt : ∀ bs : List Byte, leNat bs < 256 ^ bs.length
  | [] => by simp [leNat]
  | b :: bs => by
    have ih := leNat_lt bs
    have hb := b.isLt
    simp only [leNat, List.length_cons, Nat.pow_succ]
    omega

@[simp] theorem read_length (m : Mem) (a n : Nat) : (m.read a n).length = n := by simp [Mem.read]

/-- A number of `n` bytes fits them. -/
theorem num_lt (m : Mem) (a n : Nat) : m.num a n < 256 ^ n := by
  simpa [Mem.num] using leNat_lt (m.read a n)

/-- An element of a vector register fits its width. -/
theorem getV_lt (t : Task) (r : VReg) (w j : Nat) : t.getV r w j < 256 ^ w := num_lt ..

/-- A byte of a slice is the byte of the memory that the slice begins at. -/
theorem get_slice (m : Mem) (a n x : Nat) : (m.slice a n).get x = if x < n then m.get (a + x) else 0 := by
  have hf := lookup_filter (fun y => decide (a ≤ y) && decide (y < a + n)) m (a + x)
  have hmap : ∀ l : Mem, (∀ c ∈ l, a ≤ c.1) → (l.map fun c => (c.1 - a, c.2)).lookup x = l.lookup (a + x) := by
    intro l
    induction l with
    | nil => intro _; rfl
    | cons c l ih =>
      intro h
      obtain ⟨y, b⟩ := c
      obtain ⟨hc, hl⟩ := List.forall_mem_cons.1 h
      have : (x == y - a) = (a + x == y) := by rw [Bool.eq_iff_iff, beq_iff_eq, beq_iff_eq]; simp only at hc; omega
      simp only [List.map_cons, List.lookup_cons, ih hl, this]
  rw [Mem.slice, Mem.get, hmap, hf]
  · by_cases h : x < n <;> simp [Mem.get, h]
  · intro c hc
    simp only [List.mem_filter, Bool.and_eq_true, decide_eq_true_eq] at hc
    exact hc.2.1

/-- A run of bytes of a slice is the run of the memory. -/
theorem read_slice (m : Mem) {a n x k : Nat} (h : x + k ≤ n) : (m.slice a n).read x k = m.read (a + x) k := by
  refine List.map_congr_left fun i hi => ?_
  rw [get_slice, if_pos (by have := List.mem_range.1 hi; omega), Nat.add_assoc]

/-- Part of a run of bytes. -/
theorem take_drop_read (m : Mem) {a n x k : Nat} (h : x + k ≤ n) : ((m.read a n).drop x).take k = m.read (a + x) k := by
  apply List.ext_getElem
  · simp; omega
  · intro i h1 h2
    simp [Mem.read, Nat.add_assoc]

/-- A run of bytes that lies within a stored one. -/
theorem read_write_within (m : Mem) (a : Nat) (bs : List Byte) {x k : Nat} (h : x + k ≤ bs.length) :
    (m.write a bs).read (a + x) k = (bs.drop x).take k := by
  rw [← take_drop_read _ h, read_write]

/-- The `j`-th of some runs of bytes of one length, in their concatenation. -/
theorem take_drop_flatten {α : Type} {w : Nat} : ∀ (bss : List (List α)) (j : Nat) (hj : j < bss.length), (∀ b ∈ bss, b.length = w) →
    (bss.flatten.drop (j * w)).take w = bss[j]
  | b :: bss, 0, _, h => by simp [← h b]
  | b :: bss, j + 1, hj, h => by
    obtain ⟨hb, h⟩ := List.forall_mem_cons.1 h
    have e : (j + 1) * w = b.length + j * w := by rw [hb]; ring
    rw [List.flatten_cons, e, List.drop_length_add_append, List.getElem_cons_succ, take_drop_flatten bss j _ h]

theorem length_flatten_of {α : Type} {w : Nat} (bss : List (List α)) (h : ∀ b ∈ bss, b.length = w) :
    bss.flatten.length = bss.length * w := by
  rw [List.length_flatten, List.map_congr_left h]; simp

/-- The `j`-th of the runs of `w` bytes stored one after the other. -/
theorem num_write_flatten (m : Mem) (a : Nat) {w j : Nat} (bss : List (List Byte)) (h : ∀ b ∈ bss, b.length = w) (hj : j < bss.length) :
    (m.write a bss.flatten).num (a + j * w) w = leNat bss[j] := by
  have hle : j * w + w ≤ bss.flatten.length := by
    rw [length_flatten_of bss h, ← Nat.succ_mul]; exact Nat.mul_le_mul_right w hj
  rw [Mem.num, read_write_within m a _ hle, take_drop_flatten bss j hj h]
end Sys2Proof.Proofs
end

section
/-!
PROOFS. Conditions that accumulate (R19, R194), the elements of a vector register, and the one way in which a lane-wise form writes its lanes
(R191, R192).
-/
namespace Sys2Proof.Proofs
open Machine

/-! ## Conditions accumulate -/

@[simp] theorem condOr_none (c : Cond) : c.or .none = c := by simp [Cond.or, Cond.none]
@[simp] theorem none_condOr (c : Cond) : Cond.none.or c = c := by simp [Cond.or, Cond.none]
@[simp] theorem condOr_self (c : Cond) : c.or c = c := by simp [Cond.or]
theorem condOr_comm (a b : Cond) : a.or b = b.or a := by simp [Cond.or, Bool.or_comm]
theorem condOr_assoc (a b c : Cond) : (a.or b).or c = a.or (b.or c) := by simp [Cond.or, Bool.or_assoc]
theorem condOr_left_comm (a b c : Cond) : a.or (b.or c) = b.or (a.or c) := by
  rw [← condOr_assoc, condOr_comm a b, condOr_assoc]

/-- Everything that the members of a list raise. -/
def orAll {β : Type} (g : β → Cond) : List β → Cond
  | [] => .none
  | b :: l => (g b).or (orAll g l)

/-- Accumulating along a list, from some conditions on, adds what its members raise. -/
theorem foldl_or {β : Type} (g : β → Cond) : ∀ (l : List β) (c : Cond), l.foldl (fun c b => c.or (g b)) c = c.or (orAll g l)
  | [], c => by simp [orAll]
  | b :: l, c => by rw [List.foldl_cons, foldl_or g l, orAll, condOr_assoc]

theorem condsOf_eq_orAll (rs : List (Nat × Cond)) : condsOf rs = orAll (·.2) rs := by
  rw [condsOf, foldl_or, none_condOr]

theorem orAll_map {β γ : Type} (g : γ → Cond) (f : β → γ) : ∀ l, orAll g (l.map f) = orAll (fun b => g (f b)) l
  | [] => rfl
  | b :: l => by rw [List.map_cons, orAll, orAll_map g f l, orAll]

/-- Two conditions of each member can be gathered apart. -/
theorem orAll_or {β : Type} (g h : β → Cond) : ∀ l, orAll (fun b => (g b).or (h b)) l = (orAll g l).or (orAll h l)
  | [] => rfl
  | b :: l => by rw [orAll, orAll_or g h l, orAll, orAll, condOr_assoc, condOr_assoc, condOr_left_comm (h b)]

@[simp] theorem orAll_none {β : Type} : ∀ l : List β, orAll (fun _ => Cond.none) l = .none
  | [] => rfl
  | _ :: l => by rw [orAll, orAll_none l, condOr_none]

/-- What every member raises alike is raised once. -/
theorem orAll_const {β : Type} (c : Cond) : ∀ l : List β, l ≠ [] → orAll (fun _ => c) l = c
  | [_], _ => by simp [orAll]
  | _ :: b :: l, _ => by rw [orAll, orAll_const c (b :: l) (by simp), condOr_self]

/-- What is raised beside each member, alike, is raised once, and not where there is no member. -/
theorem orAll_or_const {β : Type} (g : β → Cond) {l : List β} {c : Cond} (h : l = [] → c = .none) :
    orAll (fun b => (g b).or c) l = (orAll g l).or c := by
  rw [orAll_or]
  by_cases hl : l = []
  · rw [h hl, orAll_none]
  · rw [orAll_const c l hl]

theorem orAll_flush {β : Type} (p : β → Bool) : ∀ l, orAll (fun b => { flush := p b }) l = { flush := l.any p }
  | [] => rfl
  | b :: l => by rw [orAll, orAll_flush p l]; simp [Cond.or]

/-- The conditions of lanes, gathered. -/
theorem condsOf_map {β : Type} (f : β → Nat × Cond) (l : List β) : condsOf (l.map f) = orAll (fun b => (f b).2) l := by
  rw [condsOf_eq_orAll, orAll_map]

theorem bits_or (a b : Cond) : (a.or b).bits = a.bits ||| b.bits := by
  obtain ⟨a1, a2, a3, a4⟩ := a
  obtain ⟨b1, b2, b3, b4⟩ := b
  revert a1 a2 a3 a4 b1 b2 b3 b4
  decide

@[simp] theorem raise_none (t : Task) : t.raise .none = t := by
  have h : Cond.none.bits = 0 := rfl
  simp [Task.raise, h]

/-- The flags are sticky: conditions added one after the other are added together. -/
theorem raise_raise (t : Task) (a b : Cond) : (t.raise a).raise b = t.raise (a.or b) := by
  simp [Task.raise, bits_or, BitVec.or_assoc]

/-! ## Elements -/

/-- The first elements of a vector register. -/
theorem elems_eq_map (t : Task) (r : VReg) (w n : Nat) : t.elems r w n = (List.range n).map (t.getV r w) := by
  refine List.map_congr_left fun k hk => ?_
  have hle : k * w + w ≤ n * w := by
    rw [← Nat.succ_mul]; exact Nat.mul_le_mul_right w (List.mem_range.1 hk)
  rw [Task.getV, Mem.num, Mem.num, read_slice _ hle]

/-- The model's n of R191 is that of the statements. -/
theorem vlen_eq_lanesOf (t : Task) (w : Nat) : t.vlen w = lanesOf t w := rfl

/-- The elements of a vector register beside their numbers. -/
theorem zip_range_map {α : Type} (h : Nat → α) (n : Nat) : (List.range n).zip ((List.range n).map h) = (List.range n).map fun j => (j, h j) := by
  simpa using List.zip_map' (f := id) (g := h) (l := List.range n)

/-- A format's encodings fill its bytes. -/
theorem pow_bytes (f : FFmt) : 256 ^ f.bytes = 2 ^ f.width := by cases f <;> rfl

/-- What rounding delivers fits the bytes of the format. -/
theorem roundF_lt_bytes (x : Ex) (f : FFmt) (rm : RM) : (roundF x f rm).1 < 256 ^ f.bytes := by
  rw [pow_bytes]; exact roundF_lt x f rm

/-! ## Writing lanes -/

section
variable {i : Instr} {s : State} {t : Task} {d : VReg} {w n : Nat} {lane : Nat → Nat × Cond} {f : Task → Task}

/-- An instruction that changes its task alone. -/
theorem exec_of_onTask (hs : s.live = some t) (hx : exec i s = onTask s f) : exec i s = .next (s.thenTask (f t)) :=
  hx.trans (Laws.onTask_live hs f)

/-- An instruction that stores one run of bytes for each lane, and raises what the lanes raise. -/
theorem writesLanes_of_blocks {c : Cond} (hs : s.live = some t) (hx : exec i s = onTask s f) (bss : List (List Byte))
    (hf : f t = (t.setVBytes d bss.flatten).raise c) (hn : bss.length = n) (hw : ∀ b ∈ bss, b.length = w)
    (hv : ∀ j (hj : j < bss.length), leNat bss[j] = (lane j).1) (hc : c = condsOf ((List.range n).map lane)) :
    WritesLanes i s t d w n lane := by
  refine ⟨t.regs.v.write (d.val * 16384) bss.flatten, ?_, ?_, ?_⟩
  · intro j hj
    rw [num_write_flatten _ _ bss hw (hn ▸ hj), hv]
  · intro x hx
    exact Laws.get_write_outside _ _ _ _ (by rwa [length_flatten_of bss hw, hn])
  · rw [exec_of_onTask hs hx, hf, hc]
    rfl

/-- An instruction that stores one element for each lane, and raises what the lanes raise. -/
theorem writesLanes_of_elems {c : Cond} {vs : List Nat} (hs : s.live = some t) (hx : exec i s = onTask s f)
    (hf : f t = (t.putElems d w vs).raise c) (hvs : vs = (List.range n).map fun j => (lane j).1)
    (hc : c = condsOf ((List.range n).map lane)) (hb : ∀ j < n, (lane j).1 < 256 ^ w) : WritesLanes i s t d w n lane := by
  refine writesLanes_of_blocks hs hx (vs.map (leBytes w)) ?_ (by simp [hvs]) (by simp) ?_ hc
  · rw [hf, Task.putElems, List.flatMap_def]
  · intro j hj
    have hj : j < n := by simpa [hvs] using hj
    simp [hvs, Laws.leNat_leBytes, Nat.mod_eq_of_lt (hb j hj)]

/-- An instruction that puts the results of its lanes. -/
theorem writesLanes_of_results (hs : s.live = some t) (hx : exec i s = onTask s f)
    (hf : f t = t.putResults d w ((List.range n).map lane)) (hb : ∀ j < n, (lane j).1 < 256 ^ w) :
    WritesLanes i s t d w n lane := by
  refine writesLanes_of_elems hs hx (hf.trans rfl) ?_ rfl hb
  rw [List.map_map]
  rfl

theorem writesLanes_congr {lane' : Nat → Nat × Cond} (h : WritesLanes i s t d w n lane) (he : ∀ j, lane j = lane' j) :
    WritesLanes i s t d w n lane' := funext he ▸ h

/-- A lane-wise operation of two sources. -/
theorem writesLanes_vec2 {g : Nat → Nat → Nat × Cond} {a b : VReg} (hs : s.live = some t) (hx : exec i s = vec2 w g d a b s)
    (hb : ∀ x y, (g x y).1 < 256 ^ w) : WritesLanes i s t d w (lanesOf t w) fun j => g (t.getV a w j) (t.getV b w j) := by
  refine writesLanes_of_results hs hx ?_ fun _ _ => hb _ _
  simp only [elems_eq_map, List.zipWith_map, List.zipWith_self]
  rfl

/-- A lane-wise operation of one source under a mask (R192). -/
theorem writesLanes_vec1m {g : Nat → Nat × Cond} {a : VReg} {k : KReg} (hs : s.live = some t) (hx : exec i s = vec1m w g d a k s)
    (hb : ∀ x, (g x).1 < 256 ^ w) :
    WritesLanes i s t d w (lanesOf t w) fun j => if (t.getK k).getLsbD j then g (t.getV a w j) else (t.getV d w j, .none) := by
  refine writesLanes_of_results hs hx ?_ fun j _ => ?_
  · simp only [elems_eq_map, List.zip_map', zip_range_map, List.map_map]
    rfl
  · split
    · exact hb _
    · exact getV_lt ..
end

end Sys2Proof.Proofs
end

section
/-!
PROOFS. The floating-point and the fused forms (R202, R204, R212). Settles O17.
-/
namespace Sys2Proof.Proofs
open Machine

theorem fop1_lt (f : FFmt) (rm : RM) (op : Ex → Ex × Bool) (x : Nat) : (fop1 f rm op x).1 < 256 ^ f.bytes := roundF_lt_bytes ..

/-- The two-operand form of the model is the lane of R15, R19 and R20. -/
theorem fop2_eq_lane2 (f : FFmt) (rm : RM) (op : Ex → Ex → Ex × Bool) (x y : Nat) : fop2 f rm op x y = lane2 f rm op x y := by
  simp [fop2, lane2, Cond.or]

theorem lane2_lt (f : FFmt) (rm : RM) (op : Ex → Ex → Ex × Bool) (x y : Nat) : (lane2 f rm op x y).1 < 256 ^ f.bytes := roundF_lt_bytes ..

section
variable {i : Instr} {s : State} {t : Task} {d a b : VReg}

/-- A floating-point form of two sources. -/
theorem writesLanes_vflt2 {op : RM → Ex → Ex → Ex × Bool} {ty r : Fin 4} (hs : s.live = some t) (hx : exec i s = vflt2 op d a b ty r s) :
    WritesLanes i s t d (fmt2 ty).bytes (lanesOf t (fmt2 ty).bytes) fun j =>
      lane2 (fmt2 ty) (.ofCode r) (op (.ofCode r)) (t.getV a (fmt2 ty).bytes j) (t.getV b (fmt2 ty).bytes j) := by
  have hg : fop2 (fmt2 ty) (.ofCode r) (op (.ofCode r)) = lane2 (fmt2 ty) (.ofCode r) (op (.ofCode r)) := by
    funext x y; exact fop2_eq_lane2 ..
  exact writesLanes_vec2 hs (hx.trans (by rw [← hg]; rfl)) fun _ _ => lane2_lt ..

/-- `vfscl`. -/
theorem writesLanes_vfscl {ty r : Fin 4} (hs : s.live = some t) :
    WritesLanes (.vfscl d a b ty r) s t d (fmt2 ty).bytes (lanesOf t (fmt2 ty).bytes) fun j =>
      fop1 (fmt2 ty) (.ofCode r) (fun x => (x.scale (Max.max (-1000) (Min.min 1000
        (intOf true (fmt2 ty).width (t.getV b (fmt2 ty).bytes j)))), false)) (t.getV a (fmt2 ty).bytes j) :=
  writesLanes_vec2 (g := fun x y => fop1 (fmt2 ty) (.ofCode r) (fun v => (v.scale (Max.max (-1000) (Min.min 1000
    (intOf true (fmt2 ty).width y))), false)) x) hs rfl fun _ _ => fop1_lt ..

/-- `vfsplat`. -/
theorem writesLanes_vfsplat {r : SReg} {ty m : Fin 4} (hs : s.live = some t) :
    WritesLanes (.vfsplat d r ty m) s t d (fmt2 ty).bytes (lanesOf t (fmt2 ty).bytes) fun _ =>
      let x := FFmt.f32.read ((t.getS r).toNat % 2 ^ 32)
      let v := roundF x.1 (fmt2 ty) (.ofCode m)
      (v.1, { v.2 with flush := v.2.flush || x.2 }) := by
  refine writesLanes_of_results hs rfl ?_ fun _ _ => roundF_lt_bytes ..
  have hfld : (t.getS r).fld 0 32 = (t.getS r).toNat % 2 ^ 32 := by simp [W64.fld, bits]
  simp only [hfld, List.map_const', List.length_range, Cond.or, Bool.or_false]
  rfl

/-- The floating-point forms without a mask. -/
theorem writesLanes_fltLane {f : FFmt} {lane : Nat → Nat × Cond} (hs : s.live = some t) (h : fltLane t i = some (d, f, lane)) :
    WritesLanes i s t d f.bytes (lanesOf t f.bytes) lane := by
  unfold fltLane at h
  split at h <;> cases h
  case h_1 => exact writesLanes_vflt2 (op := fun rm x y => x.add y rm) hs rfl
  case h_2 => exact writesLanes_vflt2 (op := fun rm x y => x.add y.neg rm) hs rfl
  case h_3 => exact writesLanes_vflt2 (op := fun _ => Ex.mul) hs rfl
  case h_4 => exact writesLanes_vflt2 (op := fun _ => Ex.div) hs rfl
  case h_5 => exact writesLanes_vflt2 (op := fun _ x y => (x.fmin y, false)) (r := 0) hs rfl
  case h_6 => exact writesLanes_vflt2 (op := fun _ x y => (x.fmax y, false)) (r := 0) hs rfl
  case h_7 => exact writesLanes_vflt2 (op := fun _ x y => (x.sgnj y, false)) (r := 0) hs rfl
  case h_8 => exact writesLanes_vfscl hs
  case h_9 => exact writesLanes_vfsplat hs

/-- The floating-point forms under a mask. -/
theorem writesLanes_fltMasked {k : KReg} {f : FFmt} {op : Nat → Nat × Cond} (hs : s.live = some t) (h : fltMasked i = some (d, a, k, f, op)) :
    WritesLanes i s t d f.bytes (lanesOf t f.bytes) fun j =>
      if (t.getK k).getLsbD j then op (t.getV a f.bytes j) else (t.getV d f.bytes j, .none) := by
  have hx : exec i s = vec1m f.bytes op d a k s := by
    unfold fltMasked at h
    split at h <;> cases h <;> rfl
  have hb : ∀ x, (op x).1 < 256 ^ f.bytes := by
    unfold fltMasked at h
    split at h <;> cases h <;> exact fun _ => roundF_lt_bytes ..
  exact writesLanes_vec1m hs hx hb
end

/-- The lane of a fused form. -/
theorem fmaOp_eq (f g : FFmt) (neg : Bool) (rm : RM) (x y z : Nat) : fmaOp f g neg rm x y z =
    let a := f.read x
    let b := f.read y
    let c := g.read z
    let p := a.1.mul b.1
    let q := (if neg then p.1.neg else p.1).add c.1 rm
    let r := roundF q.1 g rm
    (r.1, { invalid := r.2.invalid || ((p.2 && c.1 != .nan) || q.2), overflow := r.2.overflow,
            flush := r.2.flush || (a.2 || b.2 || c.2), inexact := r.2.inexact }) := by
  simp [fmaOp, Cond.or]

/-- A fused form. -/
theorem writesLanes_vfma {i : Instr} {s : State} {t : Task} {d a b c : VReg} {f g : FFmt} {neg : Bool} (hs : s.live = some t)
    (hx : exec i s = vfma f g neg d a b c s) : WritesLanes i s t d g.bytes (lanesOf t g.bytes) fun j =>
      fmaOp f g neg (RM.ofCode t.ctl.vcsr.toNat) (t.getV a f.bytes j) (t.getV b f.bytes j) (t.getV c g.bytes j) := by
  refine writesLanes_of_results hs hx ?_ fun _ _ => roundF_lt_bytes ..
  simp only [elems_eq_map, List.zip_map', List.zipWith_map, List.zipWith_self]
  rfl

theorem fusedLanes_hold : fusedLanes := by
  intro s t i d a b c f g neg hs h
  have hx : exec i s = vfma f g neg d a b c s := by
    unfold fusedForm at h
    split at h <;> cases h <;> rfl
  simpa only [fmaOp_eq] using writesLanes_vfma hs hx

/-- Settles O17: every form but `vfsplat` is a `vec2`, a `vec1m` or a `vfma` over the lane that its rule gives. -/
theorem vectorFloatLanes : Obligations.VectorFloatLanes :=
  ⟨fun _ _ _ hs _ => ⟨fun _ _ _ h => writesLanes_fltLane hs h, fun _ _ _ _ _ h => writesLanes_fltMasked hs h⟩, fusedLanes_hold⟩

end Sys2Proof.Proofs
end

section
/-!
PROOFS. Masks and element types; conversions, comparisons and block headers (R203, R207, R213).
-/
namespace Sys2Proof.Proofs
open Machine

/-! ## Masks -/

/-- The number whose bits below `n` are those of `f`. -/
theorem foldl_bits (f : Nat → Bool) (n : Nat) :
    let v := (List.range n).foldl (fun v j => if f j then v + 2 ^ j else v) 0
    v < 2 ^ n ∧ ∀ j, v.testBit j = (decide (j < n) && f j) := by
  induction n with
  | zero => simp
  | succ n ih =>
    obtain ⟨hlt, hbit⟩ := ih
    simp only [List.range_succ, List.foldl_append, List.foldl_cons, List.foldl_nil]
    generalize (List.range n).foldl (fun v j => if f j then v + 2 ^ j else v) 0 = v at hlt hbit
    constructor
    · rw [Nat.pow_succ]; split <;> omega
    · intro j
      obtain hj | rfl | hj := Nat.lt_trichotomy j n
      · have hs : j < n + 1 := by omega
        split
        · rw [Nat.add_comm, Nat.testBit_two_pow_add_gt hj, hbit]; simp [hj, hs]
        · rw [hbit]; simp [hj, hs]
      · have hz : v.testBit j = false := Nat.testBit_lt_two_pow hlt
        cases hf : f j <;> simp [hz, Nat.add_comm v, Nat.testBit_two_pow_add_eq]
      · have hs : ¬ j < n + 1 := by omega
        have hz : ∀ u < 2 ^ (n + 1), u.testBit j = false := fun u hu =>
          Nat.testBit_lt_two_pow (hu.trans_le (Nat.pow_le_pow_right (by omega) hj))
        simp only [hs, decide_false, Bool.false_and]
        apply hz
        rw [Nat.pow_succ]; split <;> omega

/-- A mask holds the bits it was made of. -/
theorem getLsbD_maskOf (n : Nat) (f : Nat → Bool) {j : Nat} (hj : j < 16384) : (maskOf n f).getLsbD j = (decide (j < n) && f j) := by
  rw [maskOf, BitVec.getLsbD_ofNat, (foldl_bits f n).2]
  simp [hj]

/-! ## Element types -/

/-- The bytes of an element type. -/
def elemBytes : ElemTy → Nat
  | .int _ b => b
  | .flt f => f.bytes

theorem elemBytes_elemTy {ty : Fin 16} (h : tyReg ty.val = true) : elemBytes (elemTy ty) = tyWidth ty := by
  revert ty; decide

theorem elemTy_int {ty : Fin 16} (h1 : 1 ≤ ty.val) (h8 : ty.val ≤ 8) : elemTy ty = .int (tySigned ty) (tyWidth ty) := by
  revert ty; decide

/-- The floating-point types of R214. -/
theorem elemTy_flt {ty : Fin 16} (h9 : 9 ≤ ty.val) (h11 : ty.val ≤ 11) :
    elemTy ty = .flt (if ty.val = 9 then .f32 else if ty.val = 10 then .bf16 else .f16) := by
  revert ty; decide

/-- A converted element fits its type. -/
theorem convElem_lt (src : ElemTy) (rm : RM) (v : Nat) {ty : Fin 16} (h : tyReg ty.val = true) :
    (convElem src (elemTy ty) rm v).1 < 256 ^ tyWidth ty := by
  rw [← elemBytes_elemTy h]
  cases src <;> cases elemTy ty
  · exact bitsOfInt_lt_bytes ..
  · exact roundF_lt_bytes ..
  · exact bitsOfInt_lt_bytes ..
  · exact roundF_lt_bytes ..

/-! ## The forms -/

section
variable {s : State} {t : Task} {d a b : VReg}

/-- `vcvt` (R207). -/
theorem writesLanes_vcvt {q ty : Fin 16} (hs : s.live = some t) (hw : (Instr.vcvt d a q ty).wellFormed = true) :
    WritesLanes (.vcvt d a q ty) s t d (tyWidth ty) (lanesOf t (Max.max (tyWidth q) (tyWidth ty))) fun j =>
      let v := t.getV a (tyWidth q) j
      if q = ty ∧ q.val ≠ 9 ∧ q.val ≠ 10 then (v, .none) else convElem (elemTy q) (elemTy ty) (.ofCode t.ctl.vcsr.toNat) v := by
  have hty : tyReg ty.val = true := by
    simp only [Instr.wellFormed, Bool.and_eq_true] at hw
    exact hw.2
  refine writesLanes_of_results hs rfl ?_ fun j _ => ?_
  · have hcvt : ∀ v, cvtElem ty q (.ofCode t.ctl.vcsr.toNat) v = if q = ty ∧ q.val ≠ 9 ∧ q.val ≠ 10 then (v, .none)
        else convElem (elemTy q) (elemTy ty) (.ofCode t.ctl.vcsr.toNat) v := fun v => by
      rw [cvtElem]
      refine if_congr ?_ rfl rfl
      rw [Fin.ext_iff]
      omega
    simp only [elems_eq_map, List.map_map, Function.comp_def, hcvt, ← Nat.max_def]
    rfl
  · dsimp only
    split
    next h => rw [← h.1]; exact getV_lt ..
    next => exact convElem_lt _ _ _ hty

/-- `vfcmp` (R203). -/
theorem exec_vfcmp (c : Fin 4) (k : KReg) (ty : Fin 4) (hs : s.live = some t) : ∃ m : BitVec 16384, ∃ fl : Bool,
    let f := fmt2 ty
    exec (.vfcmp c k a b ty) s = .next (s.thenTask ((t.setK k m).raise { flush := fl })) ∧
    (∀ j < 16384, m.getLsbD j = (decide (j < lanesOf t f.bytes) &&
      fcondHolds c (f.read (t.getV a f.bytes j)).1 (f.read (t.getV b f.bytes j)).1)) ∧
    (fl = true ↔ ∃ j < lanesOf t f.bytes, (f.read (t.getV a f.bytes j)).2 = true ∨ (f.read (t.getV b f.bytes j)).2 = true) := by
  let f := fmt2 ty
  let ls := (List.range (t.vlen f.bytes)).map fun j => (f.read (t.getV a f.bytes j), f.read (t.getV b f.bytes j))
  let bs := ls.map fun p => fcondHolds c p.1.1 p.2.1
  refine ⟨maskOf bs.length fun j => bs.getD j false, ls.any fun p => p.1.2 || p.2.2, ?_, ?_, ?_⟩
  · refine (exec_of_onTask hs rfl).trans ?_
    simp only [elems_eq_map, List.zipWith_map, List.zipWith_self]
    rfl
  · intro j hj
    have hlen : bs.length = lanesOf t f.bytes := by simp [bs, ls]; rfl
    rw [getLsbD_maskOf _ _ hj, hlen]
    by_cases h : j < lanesOf t f.bytes
    · have h' : j < t.vlen f.bytes := h
      simp [bs, ls, h', f]
    · simp [h, f]
  · simp [ls, f, lanesOf, Task.vlen]

/-- `vbhdr` (R213). -/
theorem writesLanes_vbhdr (hs : s.live = some t) : WritesLanes (.vbhdr d a) s t d 2 (Min.min t.ctl.vl.toNat 256) fun j =>
    (t.regs.v.num (a.val * 16384 + j * 64) 2, .none) := by
  have hnum : ∀ x, leNat [t.regs.v.get x, t.regs.v.get (x + 1)] = t.regs.v.num x 2 := fun _ => rfl
  refine writesLanes_of_elems hs rfl (raise_none _).symm ?_ ?_ fun _ _ => num_lt ..
  · simp only [hnum]
  · rw [condsOf_map, orAll_none]
end

theorem conversions_hold : conversions := fun _ _ hs =>
  ⟨fun _ _ _ _ hw => writesLanes_vcvt hs hw, fun c k _ _ ty _ => exec_vfcmp c k ty hs, fun _ _ => writesLanes_vbhdr hs⟩

end Sys2Proof.Proofs
end

section
/-!
PROOFS. Blocks, quantisation and the rotation (R24 to R30, R208, R209, R211).
-/
namespace Sys2Proof.Proofs
open Machine

/-! ## Lists cut into runs -/

theorem chunks_eq_map {α : Type} (w : Nat) : ∀ (n : Nat) (l : List α), chunks w n l = (List.range n).map fun j => (l.drop (j * w)).take w
  | 0, _ => rfl
  | n + 1, l => by
    rw [chunks, chunks_eq_map w n, List.range_succ_eq_map]
    simp [List.map_map, Function.comp_def, Nat.succ_mul, Nat.add_comm]

theorem cut_eq_map {α : Type} (w : Nat) (l : List α) :
    cut w l = (List.range ((l.length + w - 1) / w)).map fun j => (l.drop (j * w)).take w := chunks_eq_map ..

theorem flatten_chunks {α : Type} (w : Nat) : ∀ (n : Nat) (l : List α), (chunks w n l).flatten = l.take (n * w)
  | 0, _ => by simp [chunks]
  | n + 1, l => by rw [chunks, List.flatten_cons, flatten_chunks w n, Nat.succ_mul, Nat.add_comm, List.take_add]

/-- The runs of a list make it up. -/
theorem flatten_cut {α : Type} {w : Nat} (hw : 0 < w) (l : List α) : (cut w l).flatten = l := by
  have := Nat.lt_div_mul_add (a := l.length + w - 1) hw
  rw [cut, flatten_chunks, List.take_of_length_le (by omega)]

theorem length_le_of_mem_cut {α : Type} {w : Nat} {l g : List α} (h : g ∈ cut w l) : g.length ≤ w := by
  rw [cut_eq_map] at h
  obtain ⟨j, -, rfl⟩ := List.mem_map.1 h
  exact List.length_take_le ..

theorem cut_nil {α : Type} {w : Nat} (hw : 0 < w) : cut w ([] : List α) = [] := by
  simp [cut, chunks, Nat.div_eq_of_lt (show w - 1 < w by omega)]

/-- A list as its elements by number. -/
theorem map_eq_map_getD {α β : Type} (g : α → β) (l : List α) (x : α) : l.map g = (List.range l.length).map fun j => g (l.getD j x) := by
  apply List.ext_getElem
  · simp
  · intro i h1 h2
    have h : i < l.length := by simpa using h1
    simp [h]

theorem take_eq_map_getD {α : Type} (m : Nat) (l : List α) (x : α) :
    l.take m = (List.range (Min.min m l.length)).map fun j => l.getD j x := by
  apply List.ext_getElem
  · simp
  · intro i h1 h2
    have h : i < l.length := by simp at h1; omega
    simp [h]

theorem orAll_eq_orAll_getD {α : Type} (g : α → Cond) (l : List α) (x : α) :
    orAll g l = orAll (fun j => g (l.getD j x)) (List.range l.length) := by
  have h := map_eq_map_getD id l x
  rw [List.map_id] at h
  conv_lhs => rw [h, orAll_map]
  rfl

/-! ## The rotation keeps the number of elements (R30, R31) -/

@[simp] theorem hadStage_length (h : Nat) (a : List Nat) : (hadStage h a).length = a.length := by simp [hadStage]

theorem hadStages_length : ∀ (hs a : List Nat) (c : Cond), (hadStages hs a c).1.length = a.length
  | [], _, _ => rfl
  | h :: hs, a, c => by rw [hadStages, hadStages_length hs]; simp

@[simp] theorem hadamard_length (n : Nat) (xs : List Nat) : (hadamard n xs).1.length = xs.length := by
  simp [hadamard, hadStages_length]

theorem rotSize_pos (o : Nat) : 0 < rotSize o := by unfold rotSize; split <;> decide

theorem rotate_length {n : Nat} (hn : 0 < n) (xs : List Ex) : (rotate n xs).1.length = xs.length := by
  conv_rhs => rw [← flatten_cut hn xs]
  simp only [rotate, List.length_flatMap, List.length_flatten, List.map_map]
  congr 1
  refine List.map_congr_left fun g hg => ?_
  have := length_le_of_mem_cut hg
  simp [this]

theorem rotate_nil {n : Nat} (hn : 0 < n) : rotate n [] = ([], .none) := by simp [rotate, cut_nil hn]

/-! ## The forms -/

theorem blkCount_pos {q : Fin 16} (h1 : 1 ≤ q.val) (h8 : q.val ≤ 8) : 0 < blkCount q.val := by
  revert q; decide

@[simp] theorem quantise_length (fmt rot : Nat) (rm : RM) (xs : List Ex) : (quantise fmt rot rm xs).1.length = 64 := by
  simp [quantise]

theorem elems_map_read (t : Task) (f : FFmt) (a : VReg) (n : Nat) : (t.elems a f.bytes n).map f.read = readsOf t f a n := by
  rw [elems_eq_map, List.map_map]; rfl

@[simp] theorem readsOf_length (t : Task) (f : FFmt) (a : VReg) (n : Nat) : (readsOf t f a n).length = n := by simp [readsOf]

section
variable {s : State} {t : Task} {d a : VReg} {q : Fin 16} {ty o : Fin 4}

/-- `vbmax` (R208). -/
theorem writesLanes_vbmax (hs : s.live = some t) :
    let f := fmt2 ty
    let e := blkCount q.val
    let n := lanesOf t f.bytes
    WritesLanes (.vbmax d a q ty) s t d 4 ((n + e - 1) / e) fun j =>
      let group := ((readsOf t f a n).drop (j * e)).take e
      ((roundF (largestFinite (group.map (·.1))) .f32 .rne).1, { flush := group.any (·.2) }) := by
  intro f e n
  refine writesLanes_of_results hs rfl ?_ fun _ _ => roundF_lt_bytes _ .f32 _
  simp only [elems_map_read, cut_eq_map, List.map_map, readsOf_length]
  rfl

/-- The values that `vqnt` quantises: the elements, or what the rotation makes of them. -/
def qntValues (o : Fin 4) (xs : List (Ex × Bool)) : List Ex :=
  if o = 0 then xs.map (·.1) else (rotate (rotSize o.val) (xs.map (·.1))).1.map fun v => (FFmt.f32.read v).1

/-- What reading and rotating the elements of `vqnt` raises. -/
def qntConds (o : Fin 4) (xs : List (Ex × Bool)) : Cond :=
  ({ flush := xs.any (·.2) } : Cond).or (if o = 0 then .none else (rotate (rotSize o.val) (xs.map (·.1))).2)

@[simp] theorem qntValues_length (o : Fin 4) (xs : List (Ex × Bool)) : (qntValues o xs).length = xs.length := by
  unfold qntValues
  split <;> simp [rotate_length (rotSize_pos _)]

theorem qntConds_nil (o : Fin 4) : qntConds o [] = .none := by
  simp [qntConds, rotate_nil (rotSize_pos _)]
  rfl

/-- `vqnt` quantises its values run by run. -/
theorem exec_vqnt : exec (.vqnt d a q ty o) s = onTask s fun t =>
    let xs := readsOf t (fmt2 ty) a (Min.min (lanesOf t (fmt2 ty).bytes) (256 * blkCount q.val))
    let bs := (cut (blkCount q.val) (qntValues o xs)).map (quantise q.val o.val .rne)
    (t.setVBytes d (bs.map (·.1)).flatten).raise ((qntConds o xs).or (orAll (·.2) bs)) := by
  refine congrArg (onTask s) (funext fun t => ?_)
  simp only [elems_map_read, ← List.flatMap_def, foldl_or, qntValues, qntConds]
  by_cases ho : o = 0 <;> simp only [ho, if_true, if_false] <;> rfl

/-- `vqnt` (R209). -/
theorem writesLanes_vqnt (hs : s.live = some t) (he : 0 < blkCount q.val) :
    let e := blkCount q.val
    let m := Min.min (lanesOf t (fmt2 ty).bytes) (256 * e)
    let xs := readsOf t (fmt2 ty) a m
    WritesLanes (.vqnt d a q ty o) s t d 64 ((m + e - 1) / e) fun j =>
      let b := quantise q.val o.val .rne (((qntValues o xs).drop (j * e)).take e)
      (leNat b.1, b.2.or (qntConds o xs)) := by
  intro e m xs
  have hcut : cut e (qntValues o xs) = (List.range ((m + e - 1) / e)).map fun j => ((qntValues o xs).drop (j * e)).take e := by
    rw [cut_eq_map, qntValues_length, readsOf_length]
  have hnil : List.range ((m + e - 1) / e) = [] → qntConds o xs = .none := by
    intro h
    have hm : m = 0 := by
      have := (Nat.div_eq_zero_iff_lt he).1 (List.range_eq_nil.1 h)
      omega
    have : xs = [] := by simp [xs, hm, readsOf]
    rw [this, qntConds_nil]
  refine writesLanes_of_blocks hs exec_vqnt (((cut e (qntValues o xs)).map (quantise q.val o.val .rne)).map (·.1)) rfl ?_ ?_ ?_ ?_
  · simp [hcut]
  · simp
  · intro j hj
    simp [hcut]
  · rw [hcut, orAll_map, orAll_map, condsOf_map, orAll_or_const _ hnil, condOr_comm]

/-- `vhad` rounds what the rotation makes of its elements. -/
theorem exec_vhad : exec (.vhad d a ty o) s = onTask s fun t =>
    let xs := readsOf t (fmt2 ty) a (lanesOf t (fmt2 ty).bytes)
    let r := rotate (rotSize o.val) (xs.map (·.1))
    let y (v : Nat) := roundF (FFmt.f32.read v).1 (fmt2 ty) .rne
    (t.putElems d (fmt2 ty).bytes (r.1.map fun v => (y v).1)).raise
      ((orAll (fun v => (y v).2) r.1).or (r.2.or { flush := xs.any (·.2) })) := by
  refine congrArg (onTask s) (funext fun t => ?_)
  simp only [elems_map_read, Task.putResults, raise_raise, condsOf_map, List.map_map]
  rfl

/-- `vhad` (R211). -/
theorem writesLanes_vhad (hs : s.live = some t) :
    let f := fmt2 ty
    let n := lanesOf t f.bytes
    let r := rotate (rotSize o.val) ((readsOf t f a n).map (·.1))
    WritesLanes (.vhad d a ty o) s t d f.bytes n fun j =>
      let y := roundF (FFmt.f32.read (r.1.getD j 0)).1 f .rne
      (y.1, y.2.or (r.2.or { flush := (readsOf t f a n).any (·.2) })) := by
  intro f n r
  have hlen : r.1.length = n := by simp [r, rotate_length (rotSize_pos _)]
  have hnil : List.range n = [] → r.2.or { flush := (readsOf t f a n).any (·.2) } = .none := by
    intro h
    have hn : n = 0 := List.range_eq_nil.1 h
    have : readsOf t f a n = [] := by simp [hn, readsOf]
    simp [r, this, rotate_nil (rotSize_pos _)]
    rfl
  refine writesLanes_of_elems hs exec_vhad rfl ?_ ?_ fun _ _ => roundF_lt_bytes ..
  · rw [map_eq_map_getD _ _ 0, hlen]
  · rw [condsOf_map, orAll_or_const _ hnil, orAll_eq_orAll_getD _ _ 0, hlen]
end

theorem quantising_hold : quantising := by
  intro s t d a q ty o hs f e n fl rotated
  refine ⟨fun _ => writesLanes_vbmax hs, fun hw => ?_, fun _ => writesLanes_vhad hs⟩
  simp only [Instr.wellFormed, Bool.and_eq_true, decide_eq_true_eq] at hw
  obtain ⟨-, h1, h8⟩ := hw
  exact writesLanes_vqnt hs (blkCount_pos h1 h8)

end Sys2Proof.Proofs
end

section
/-!
PROOFS. Decoding of blocks (R210).
-/
namespace Sys2Proof.Proofs
open Machine

/-! ## The elements of one block -/

@[simp] theorem chunks_length {α : Type} (w n : Nat) (l : List α) : (chunks w n l).length = n := by simp [chunks_eq_map]

/-- A well-formed block other than ZERO yields as many elements as R25 counts. -/
theorem blkValues_length (row : Nat → Nat) {b : List Byte} (hb : b.length = 64) (hm : blkMalformed b = false) (h0 : blkFmt b ≠ 0) :
    (blkValues row b).length = blkCount (blkFmt b) := by
  have h9 : blkFmt b ≤ 9 := by
    simp only [blkMalformed, Bool.or_eq_false_iff, decide_eq_false_iff_not, not_lt] at hm
    exact hm.1.1
  have hcb : ∀ i, (cbHalves row i).length = 8 := fun i => by simp [cbHalves]
  interval_cases hf : blkFmt b
  all_goals simp [blkValues, blkRaw, hf, hb, hcb, blkCount, Function.comp_def] at h0 ⊢

/-- An element of a block delivered in the destination's type (R210). -/
def blkOut (ty : ElemTy) (v : Ex × Bool) : Nat × Cond :=
  match ty with
  | .int sg b => (bitsOfInt (8 * b) (roundI v.1 sg (8 * b) .rne).1, (roundI v.1 sg (8 * b) .rne).2.or { flush := v.2 })
  | .flt f => ((roundF v.1 f .rne).1, (roundF v.1 f .rne).2.or { flush := v.2 })

theorem blkOut_lt (ty : ElemTy) (v : Ex × Bool) : (blkOut ty v).1 < 256 ^ elemBytes ty := by
  cases ty
  · exact bitsOfInt_lt_bytes ..
  · exact roundF_lt_bytes ..

/-- What a block delivers, `c` being the count that a ZERO or malformed block yields. -/
def blkElems (row : Nat → Nat) (ty : ElemTy) (c : Nat) (b : List Byte) : List (Nat × Cond) :=
  if blkMalformed b then List.replicate c (0, .inv)
  else if blkFmt b = 0 then List.replicate c (0, .none)
  else (blkValues row b).map (blkOut ty)

/-- The count of a block, `c` being the one before it. -/
def yieldAfter (c : Nat) (b : List Byte) : Nat := if blkMalformed b || blkFmt b == 0 then c else blkCount (blkFmt b)

theorem blkElems_length (row : Nat → Nat) (ty : ElemTy) (c : Nat) {b : List Byte} (hb : b.length = 64) :
    (blkElems row ty c b).length = yieldAfter c b := by
  unfold blkElems yieldAfter
  by_cases hm : blkMalformed b = true
  · simp [hm]
  · by_cases h0 : blkFmt b = 0
    · simp [hm, h0]
    · simp [hm, h0, blkValues_length row hb]

theorem blkElems_lt (row : Nat → Nat) (ty : ElemTy) (c : Nat) (b : List Byte) : ∀ r ∈ blkElems row ty c b, r.1 < 256 ^ elemBytes ty := by
  intro r hr
  unfold blkElems at hr
  split at hr
  · rw [List.eq_of_mem_replicate hr]; positivity
  · split at hr
    · rw [List.eq_of_mem_replicate hr]; positivity
    · obtain ⟨v, -, rfl⟩ := List.mem_map.1 hr
      exact blkOut_lt ty v

/-- Element `i` of a block. -/
theorem blkElems_getD (row : Nat → Nat) (ty : ElemTy) {c i : Nat} {b : List Byte} (hb : b.length = 64) (hi : i < yieldAfter c b) :
    (blkElems row ty c b).getD i (0, .none) = if blkMalformed b then (0, .inv) else if blkFmt b = 0 then (0, .none)
      else blkOut ty ((blkValues row b).getD i (.zero false, false)) := by
  rw [← blkElems_length row ty c hb] at hi
  rw [List.getD_eq_getElem _ _ hi]
  unfold blkElems at hi ⊢
  split
  · simp
  · split
    · simp
    next hm h0 =>
      simp only [hm, h0] at hi
      have hv : i < (blkValues row b).length := by simpa using hi
      simp [hv]

/-! ## The elements of a sequence of blocks -/

/-- The blocks' elements, one block after the other. -/
def blksElems (row : Nat → Nat) (ty : ElemTy) : List (List Byte) → Nat → List (Nat × Cond)
  | [], _ => []
  | b :: bs, c => blkElems row ty c b ++ blksElems row ty bs (yieldAfter c b)

/-- Decoding delivers the blocks' elements, as far as there is room. -/
theorem decodeBlocks_eq_take (row : Nat → Nat) (ty : ElemTy) : ∀ (bs : List (List Byte)) (n c : Nat),
    decodeBlocks row ty bs n c = (blksElems row ty bs c).take n
  | [], n, c => by simp [decodeBlocks, blksElems]
  | b :: bs, n, c => by
    by_cases hn : n = 0
    · simp [decodeBlocks, hn]
    · have he : decodeBlocks row ty (b :: bs) n c = (blkElems row ty c b).take n ++
          decodeBlocks row ty bs (n - (blkElems row ty c b).length) (yieldAfter c b) := by
        rw [decodeBlocks, if_neg hn]
        cases ty <;> rfl
      rw [he, decodeBlocks_eq_take row ty bs, blksElems, List.take_append]

/-- The count in force before block `j`: 62 before the first. -/
def heldYield (blk : Nat → List Byte) : Nat → Nat
  | 0 => 62
  | j + 1 => blockYields blk j

theorem blockYields_eq (blk : Nat → List Byte) (j : Nat) : blockYields blk j = yieldAfter (heldYield blk j) (blk j) := by
  cases j <;> rfl

/-- Blocks numbered from `k` on. -/
theorem blksElems_range' (row : Nat → Nat) (ty : ElemTy) (blk : Nat → List Byte) : ∀ n k,
    blksElems row ty ((List.range' k n).map blk) (heldYield blk k) = (List.range' k n).flatMap fun j => blkElems row ty (heldYield blk j) (blk j)
  | 0, _ => rfl
  | n + 1, k => by
    rw [List.range'_succ, List.map_cons, blksElems, ← blockYields_eq, List.flatMap_cons, ← blksElems_range' row ty blk n (k + 1)]
    rfl

/-- Element `i` of the `j`-th of some lists, in their concatenation. -/
theorem getD_flatMap_range {α : Type} (x : α) : ∀ (n j i : Nat) (F : Nat → List α), j < n → i < (F j).length →
    ((List.range n).flatMap F).getD (((List.range j).map fun k => (F k).length).sum + i) x = (F j).getD i x
  | n + 1, 0, i, F, _, hi => by
    rw [List.range_succ_eq_map, List.flatMap_cons, List.range_zero, List.map_nil, List.sum_nil, Nat.zero_add, List.getD_append _ _ _ _ hi]
  | n + 1, j + 1, i, F, hj, hi => by
    rw [List.range_succ_eq_map, List.range_succ_eq_map, List.flatMap_cons, List.map_cons, List.sum_cons, Nat.add_assoc,
      List.getD_append_right _ _ _ _ (Nat.le_add_right ..), Nat.add_sub_cancel_left, List.map_map, List.flatMap_map]
    exact getD_flatMap_range x n j i (fun k => F (k + 1)) (by omega) hi

section
variable (row : Nat → Nat) (ty : ElemTy) (blk : Nat → List Byte)

/-- The elements of the blocks below number `n`, in order. -/
def numberedElems (n : Nat) : List (Nat × Cond) := (List.range n).flatMap fun j => blkElems row ty (heldYield blk j) (blk j)

theorem numberedElems_lt (n : Nat) : ∀ r ∈ numberedElems row ty blk n, r.1 < 256 ^ elemBytes ty := by
  intro r hr
  obtain ⟨j, -, hj⟩ := List.mem_flatMap.1 hr
  exact blkElems_lt _ _ _ _ _ hj

variable {blk} (hblk : ∀ j, (blk j).length = 64)
include hblk

theorem blkElems_held_length (j : Nat) : (blkElems row ty (heldYield blk j) (blk j)).length = blockYields blk j := by
  rw [blockYields_eq, blkElems_length _ _ _ (hblk j)]

theorem numberedElems_length (n : Nat) : (numberedElems row ty blk n).length = ((List.range n).map (blockYields blk)).sum := by
  simp only [numberedElems, List.length_flatMap, blkElems_held_length row ty hblk]

/-- Element `i` of block `j` stands after the elements of the blocks before it. -/
theorem numberedElems_getD {n j i : Nat} (hj : j < n) (hi : i < blockYields blk j) :
    (numberedElems row ty blk n).getD (((List.range j).map (blockYields blk)).sum + i) (0, .none) =
      if blkMalformed (blk j) then (0, .inv) else if blkFmt (blk j) = 0 then (0, .none)
      else blkOut ty ((blkValues row (blk j)).getD i (.zero false, false)) := by
  have h := getD_flatMap_range (0, Cond.none) n j i (fun j => blkElems row ty (heldYield blk j) (blk j)) hj
    (by rwa [blkElems_held_length row ty hblk])
  simp only [blkElems_held_length row ty hblk] at h
  rw [numberedElems, h, blkElems_getD _ _ (hblk j) (hi.trans_eq (blockYields_eq blk j))]

/-- Decoding numbered blocks delivers their elements by number. -/
theorem decodeBlocks_numbered (n m : Nat) : decodeBlocks row ty ((List.range n).map blk) m 62 =
    (List.range (Min.min m ((List.range n).map (blockYields blk)).sum)).map fun j => (numberedElems row ty blk n).getD j (0, .none) := by
  have h : blksElems row ty ((List.range n).map blk) 62 = numberedElems row ty blk n := by
    rw [numberedElems, List.range_eq_range']
    exact blksElems_range' row ty blk n 0
  rw [decodeBlocks_eq_take, h, take_eq_map_getD _ _ (0, .none), numberedElems_length row ty hblk]
end

/-! ## The form -/

/-- The blocks of a vector register. -/
theorem chunks_getVBytes (t : Task) (a : VReg) : chunks 64 256 (t.getVBytes a 16384) =
    (List.range 256).map fun j => t.regs.v.read (a.val * 16384 + j * 64) 64 := by
  rw [chunks_eq_map]
  refine List.map_congr_left fun j hj => take_drop_read _ ?_
  have := List.mem_range.1 hj
  omega

/-- A row of the active bank (R33). -/
theorem codeRow_codeBank (k : CoreCtx) : k.codeRow k.codeBank = fun r => k.code.num ((if k.codeBank then 1024 else 0) + r * 4) 4 := by
  funext r
  cases k.codeBank <;> simp [CoreCtx.codeRow, bit]

/-- `vdqnt` (R210). -/
theorem dequantising_hold : dequantising := by
  intro s t d a ty hs hw w k blk before n out
  have hblk : ∀ j, (blk j).length = 64 := fun j => read_length ..
  let row := k.codeRow k.codeBank
  let lane (j : Nat) : Nat × Cond := (numberedElems row (elemTy ty) blk 256).getD j (0, .none)
  have hdec : decodeBlocks row (elemTy ty) (chunks 64 256 (t.getVBytes a 16384)) (t.vlen w) 62 = (List.range n).map lane := by
    rw [chunks_getVBytes]
    exact decodeBlocks_numbered row (elemTy ty) hblk 256 (t.vlen w)
  refine ⟨lane, writesLanes_of_results hs rfl (congrArg (t.putResults d w) hdec) ?_, ?_⟩
  · intro j hj
    have hlen : j < (numberedElems row (elemTy ty) blk 256).length := by
      rw [numberedElems_length _ _ hblk]
      exact hj.trans_le (Nat.min_le_right ..)
    have := numberedElems_lt row (elemTy ty) blk 256 (lane j) (by simp only [lane, List.getD_eq_getElem _ _ hlen, List.getElem_mem])
    rwa [elemBytes_elemTy hw] at this
  · intro j hj i hi hn
    rw [← codeRow_codeBank]
    exact numberedElems_getD row (elemTy ty) hblk hj hi

end Sys2Proof.Proofs
end

section
/-!
PROOFS. Inclusive scans (R216), and O18 put together.
-/
namespace Sys2Proof.Proofs
open Machine

/-! ## What a scan delivers at each lane -/

section
variable {α : Type} (f : α → α → α × Cond) (out : α → Nat × Cond) (p : Nat → Option α) (old : Nat → Nat)

/-- An active lane combined with what has been accumulated before it. -/
def scanStep : Option α → α → α × Cond
  | some x, y => f x y
  | none, y => (y, .none)

theorem scanStep_snd_of_none (g : α → α → α) (x : Option α) (y : α) : (scanStep (fun x y => (g x y, Cond.none)) x y).2 = .none := by
  cases x <;> rfl

/-- What has been accumulated before lane `k`. -/
def scanAcc : Nat → Option α
  | 0 => none
  | k + 1 =>
    match p k with
    | none => scanAcc k
    | some y => some (scanStep f (scanAcc k) y).1

/-- What lane `j` receives. -/
def scanLane (j : Nat) : Nat × Cond :=
  match p j with
  | none => (old j, .none)
  | some y =>
    let v := scanStep f (scanAcc f p j) y
    ((out v.1).1, v.2.or (out v.1).2)

variable {p} in
theorem scanLane_of_none {j : Nat} (hp : p j = none) : scanLane f out p old j = (old j, .none) := by simp [scanLane, hp]

variable {p} in
/-- An active lane receives what has been accumulated up to it. -/
theorem scanLane_of_some {j : Nat} {y : α} (hp : p j = some y) (x : α) : scanLane f out p old j =
    ((out ((scanAcc f p (j + 1)).getD x)).1, (scanStep f (scanAcc f p j) y).2.or (out ((scanAcc f p (j + 1)).getD x)).2) := by
  simp [scanLane, scanAcc, hp]

/-- The scan of the lanes from `k` on. -/
theorem scanLanes_range' : ∀ n k, scanLanes f out ((List.range' k n).map fun j => (p j, old j)) (scanAcc f p k) =
    (List.range' k n).map (scanLane f out p old)
  | 0, _ => rfl
  | n + 1, k => by
    rw [List.range'_succ, List.map_cons, List.map_cons, ← scanLanes_range' n (k + 1)]
    cases hp : p k with
    | none => simp [scanLanes, scanLane, scanAcc, hp]
    | some y => cases ha : scanAcc f p k <;> simp [scanLanes, scanLane, scanAcc, scanStep, hp, ha]

theorem scanLanes_range (n : Nat) : scanLanes f out ((List.range n).map fun j => (p j, old j)) none =
    (List.range n).map (scanLane f out p old) := by
  rw [List.range_eq_range']
  exact scanLanes_range' f out p old n 0
end

/-- The accumulation of R216 as the statement gives it. -/
theorem scanOf_eq_scanAcc (f : Nat → Nat → Nat × Cond) (p : Nat → Option Nat) : ∀ k, scanOf (fun x y => (f x y).1) p k = scanAcc f p k
  | 0 => rfl
  | k + 1 => by
    rw [scanOf, scanAcc, scanOf_eq_scanAcc f p k]
    cases p k <;> cases scanAcc f p k <;> rfl

/-! ## Integer scans -/

/-- The combination of some integers, taken in order. -/
def foldInt (o : Fin 4) (l : List Int) : Int :=
  match o with
  | 0 => l.sum
  | 1 => l.foldl Max.max (l.headD 0)
  | _ => l.foldl Min.min (l.headD 0)

/-- One more integer is combined with those before it, and stands alone where there is none. -/
theorem foldInt_concat (o : Fin 4) (l : List Int) (y : Int) : foldInt o (l ++ [y]) = if l = [] then y else combInt o (foldInt o l) y := by
  cases l with
  | nil => unfold foldInt; split <;> simp
  | cons x l =>
    rw [if_neg (by simp)]
    unfold foldInt combInt
    split <;> simp [List.foldl_append, max_def, min_def, add_assoc]

/-- Before lane `k` an integer scan has accumulated the combination of the active lanes below `k`. -/
theorem scanAcc_combInt (o : Fin 4) (on : Nat → Bool) (v : Nat → Int) : ∀ k,
    let lanes := ((List.range k).filter on).map v
    scanAcc (fun x y => (combInt o x y, Cond.none)) (fun j => if on j then some (v j) else none) k =
      if lanes = [] then none else some (foldInt o lanes)
  | 0 => rfl
  | k + 1 => by
    have ih := scanAcc_combInt o on v k
    simp only [List.range_succ, List.filter_append, List.map_append, scanAcc] at ih ⊢
    cases hk : on k with
    | false => simpa [hk] using ih
    | true =>
      simp only [hk, if_true, ih, List.filter_cons_of_pos, List.filter_nil, List.map_cons, List.map_nil, foldInt_concat]
      split <;> simp_all [scanStep]

section
variable {s : State} {t : Task} {d a : VReg} {o : Fin 4} {k : KReg} {ty : Fin 16}

/-- The active lanes of a source. -/
theorem activeLanes_eq_map (t : Task) (a : VReg) (k : KReg) (w : Nat) : t.activeLanes a k w =
    (List.range (lanesOf t w)).map fun j => if (t.getK k).getLsbD j then some (t.getV a w j) else none := by
  simp only [Task.activeLanes, elems_eq_map, zip_range_map, List.map_map]
  rfl

theorem any_ite_some {β : Type} (g : β → Bool) (c : Bool) (x : β) : Option.any g (if c then some x else none) = (c && g x) := by
  cases c <;> rfl

/-- `vscan` of an integer type, lane by lane. -/
theorem exec_vscan_int {b : Nat} {sg : Bool} (hty : elemTy ty = .int sg b) : exec (.vscan d a o k ty) s = onTask s fun t =>
    let w := tyWidth ty
    t.putResults d w ((List.range (lanesOf t w)).map (scanLane (fun x y => (combInt o x y, .none)) (fun v => (bitsOfInt (8 * w) v, .none))
      (fun j => if (t.getK k).getLsbD j then some (intOf sg (8 * w) (t.getV a w j)) else none) (t.getV d w))) := by
  refine congrArg (onTask s) (funext fun t => ?_)
  simp only [hty, activeLanes_eq_map, elems_eq_map, vlen_eq_lanesOf, List.map_map, Function.comp_def, Option.map_if, List.zip_map', scanLanes_range]

/-- How a floating-point scan delivers what it has accumulated. -/
def scanOutFlt (f : FFmt) (v : Nat) : Nat × Cond := if f = .f32 then (v, .none) else roundF (FFmt.f32.read v).1 f .rne

/-- `vscan` of a floating-point type, lane by lane. -/
theorem exec_vscan_flt {f : FFmt} (hty : elemTy ty = .flt f) : exec (.vscan d a o k ty) s = onTask s fun t =>
    let w := tyWidth ty
    let on (j : Nat) : Bool := (t.getK k).getLsbD j
    let lane := scanLane (combFlt o) (scanOutFlt f)
      (fun j => if on j then some (roundF (f.read (t.getV a w j)).1 .f32 .rne).1 else none) (t.getV d w)
    (t.putElems d w ((List.range (lanesOf t w)).map fun j => (lane j).1)).raise
      (orAll (fun j => (lane j).2.or { flush := on j && (f.read (t.getV a w j)).2 }) (List.range (lanesOf t w))) := by
  refine congrArg (onTask s) (funext fun t => ?_)
  simp only [hty, activeLanes_eq_map, elems_eq_map, vlen_eq_lanesOf, List.map_map, Task.putResults, raise_raise, Function.comp_def,
    Option.map_if, any_ite_some, List.any_map, List.zip_map', scanLanes_range, condsOf_map, orAll_or, orAll_flush]
  rfl

/-- `vscan` of an integer type (R216). -/
theorem writesLanes_vscan_int (hs : s.live = some t) (h1 : 1 ≤ ty.val) (h8 : ty.val ≤ 8) :
    let w := tyWidth ty
    let on (j : Nat) : Bool := (t.getK k).getLsbD j
    WritesLanes (.vscan d a o k ty) s t d w (lanesOf t w) fun j =>
      (if on j then (foldInt o (((List.range (j + 1)).filter on).map (laneInt t ty a)) % 2 ^ (8 * w)).toNat else t.getV d w j, .none) := by
  intro w on
  have hty : elemTy ty = .int (tySigned ty) w := elemTy_int h1 h8
  have hlane : ∀ j, scanLane (fun x y => (combInt o x y, .none)) (fun v => (bitsOfInt (8 * w) v, .none))
      (fun j => if on j then some (laneInt t ty a j) else none) (t.getV d w) j =
      (if on j then bitsOfInt (8 * w) (foldInt o (((List.range (j + 1)).filter on).map (laneInt t ty a))) else t.getV d w j, .none) := by
    intro j
    have hacc := scanAcc_combInt o on (laneInt t ty a) (j + 1)
    cases hj : on j with
    | false => simp [scanLane, hj]
    | true =>
      simp only [scanAcc, hj, if_true] at hacc
      split at hacc
      next => cases hacc
      next => simp [scanLane, hj, scanStep_snd_of_none, Option.some.inj hacc]
  refine writesLanes_of_results hs (exec_vscan_int hty) ?_ fun j _ => ?_
  · exact congrArg (t.putResults d w) (List.map_congr_left fun j _ => hlane j)
  · dsimp only
    split
    · exact bitsOfInt_lt_bytes ..
    · exact getV_lt ..

theorem combFlt_lt (o : Fin 4) (x y : Nat) : (combFlt o x y).1 < 256 ^ FFmt.f32.bytes := by
  unfold combFlt
  split <;> exact roundF_lt_bytes ..

/-- What a floating-point scan delivers fits its type. -/
theorem scanLane_flt_lt (o : Fin 4) (f : FFmt) (on : Nat → Bool) (v : Nat → Ex) (old : Nat → Nat) (j : Nat) (hold : old j < 256 ^ f.bytes) :
    (scanLane (combFlt o) (scanOutFlt f)
      (fun j => if on j then some (roundF (v j) .f32 .rne).1 else none) old j).1 < 256 ^ f.bytes := by
  cases hj : on j with
  | false => simpa [scanLane, hj] using hold
  | true =>
    simp only [scanLane, hj, if_true, scanOutFlt]
    split
    next hf =>
      subst hf
      cases scanAcc (combFlt o) (fun j => if on j then some (roundF (v j) .f32 .rne).1 else none) j with
      | none => exact roundF_lt_bytes ..
      | some x => exact combFlt_lt ..
    next => exact roundF_lt_bytes ..

/-- `vscan` of a floating-point type (R216). -/
theorem writesLanes_vscan_flt {f : FFmt} (hs : s.live = some t) (hty : elemTy ty = .flt f) (hw : f.bytes = tyWidth ty)
    (hf : f = .f32 ↔ ty.val = 9) :
    let w := tyWidth ty
    let on (j : Nat) : Bool := (t.getK k).getLsbD j
    let p (j : Nat) : Option Nat := if on j then some (roundF (f.read (t.getV a w j)).1 .f32 .rne).1 else none
    let acc := scanOf (fun x y => (combFlt o x y).1) p
    WritesLanes (.vscan d a o k ty) s t d w (lanesOf t w) fun j =>
      match p j with
      | none => (t.getV d w j, .none)
      | some y =>
        let c := match acc j with | some x => (combFlt o x y).2 | none => .none
        let v := (acc (j + 1)).getD 0
        let r := if ty.val = 9 then (v, Cond.none) else roundF (FFmt.f32.read v).1 f .rne
        (r.1, (c.or r.2).or { flush := (f.read (t.getV a w j)).2 }) := by
  intro w on p acc
  let lane := scanLane (combFlt o) (scanOutFlt f) p (t.getV d w)
  have hacc : ∀ m, acc m = scanAcc (combFlt o) p m := scanOf_eq_scanAcc _ _
  have hout : ∀ v, scanOutFlt f v = if ty.val = 9 then (v, Cond.none) else roundF (FFmt.f32.read v).1 f .rne :=
    fun v => if_congr hf rfl rfl
  refine writesLanes_congr (lane := fun j => ((lane j).1, (lane j).2.or { flush := on j && (f.read (t.getV a w j)).2 })) ?_ fun j => ?_
  · refine writesLanes_of_elems hs (exec_vscan_flt hty) rfl rfl (by rw [condsOf_map]) fun j _ => ?_
    have := scanLane_flt_lt o f on (fun j => (f.read (t.getV a w j)).1) (t.getV d w) j (hw ▸ getV_lt ..)
    rwa [hw] at this
  · cases hj : on j with
    | false =>
      have hp : p j = none := by simp [p, hj]
      simp only [lane, scanLane_of_none _ _ _ hp, hp]
      rfl
    | true =>
      have hp : p j = some (roundF (f.read (t.getV a w j)).1 .f32 .rne).1 := by simp [p, hj]
      simp only [lane, scanLane_of_some _ _ _ hp 0, hp, hacc, hout, Bool.true_and]
      cases scanAcc (combFlt o) p j <;> rfl
end

theorem scans_hold : scans := by
  intro s t d a o k ty hs _ w on
  refine ⟨writesLanes_vscan_int hs, fun h9 h11 => ?_⟩
  have hty := elemTy_flt h9 h11
  refine writesLanes_vscan_flt hs hty ?_ ?_
  · rw [← elemBytes_elemTy (ty := ty) (by simp [tyReg]; omega), hty]
    rfl
  · by_cases h : ty.val = 9
    · simp [h]
    · simp only [h, if_false, iff_false]
      split <;> simp

/-- Settles O18: every form puts the lanes that its rule gives; a scan is followed lane by lane, a decoding block by block. -/
theorem vectorConversionsAndBlocks : Obligations.VectorConversionsAndBlocks :=
  ⟨conversions_hold, quantising_hold, dequantising_hold, scans_hold⟩

end Sys2Proof.Proofs
end

section
/-!
PROOFS. The words of slots, from the decoder to the encoder (R45 to R49): what the decoder of each major answers is encoded by the word that
it read. Settles O1 and O2.
-/
namespace Sys2Proof.Proofs
open Machine

/-- Settles O1: the words are literal, and the decoder is run on them. -/
theorem specWordsDecode : Obligations.SpecWordsDecode := by
  unfold Obligations.SpecWordsDecode
  decide

@[simp] theorem fin?_eq_some {n k : Nat} {i : Fin n} : fin? n k = some i ↔ k = i.val := by
  unfold fin?
  split
  next h => simp [Fin.ext_iff]
  next h => simpa using fun (e : k = i.val) => h (e ▸ i.isLt)

@[simp] theorem zero?_eq_some {n : Nat} {u : Unit} : zero? n = some u ↔ n = 0 := by
  unfold zero?; split <;> simp_all

/-- Every instruction that a decoder answers is encoded by `e`. -/
def EncodedBy (e : EncWord) (o : Option Instr) : Prop := ∀ i, o = some i → encode i = some e

section
variable {e : EncWord}

@[simp] theorem encodedBy_none : EncodedBy e none := nofun
@[simp] theorem encodedBy_some {i : Instr} : EncodedBy e (some i) ↔ encode i = some e := by simp [EncodedBy]
@[simp] theorem encodedBy_bind {α : Type} {o : Option α} {g : α → Option Instr} :
    EncodedBy e (o.bind g) ↔ ∀ v, o = some v → EncodedBy e (g v) := by
  cases o <;> simp
@[simp] theorem encodedBy_map {α : Type} {o : Option α} {g : α → Instr} :
    EncodedBy e (o.map g) ↔ ∀ v, o = some v → encode (g v) = some e := by
  cases o <;> simp
@[simp] theorem encodedBy_ite {c : Prop} [Decidable c] {o : Option Instr} :
    EncodedBy e (if c then o else none) ↔ (c → EncodedBy e o) := by
  split <;> simp_all
@[simp] theorem encodedBy_ite_not {c : Prop} [Decidable c] {o : Option Instr} :
    EncodedBy e (if c then none else o) ↔ (¬c → EncodedBy e o) := by
  split <;> simp_all
@[simp] theorem encodedBy_md0 {r : RFields} {o : Option Instr} : EncodedBy e (md0 r o) ↔ (r.md = 0 → EncodedBy e o) := encodedBy_ite

@[simp] theorem encodedBy_mk3 {f : SReg → SReg → SReg → Instr} {r : RFields} :
    EncodedBy e (mk3 f r) ↔ ∀ d a b : SReg, r.d = d → r.a = a → r.b = b → encode (f d a b) = some e := by
  simp [mk3]; tauto
@[simp] theorem encodedBy_mk2 {f : SReg → SReg → Instr} {r : RFields} :
    EncodedBy e (mk2 f r) ↔ ∀ d a : SReg, r.d = d → r.a = a → r.b = 0 → encode (f d a) = some e := by
  simp [mk2]; tauto
@[simp] theorem encodedBy_mkD {f : SReg → Instr} {r : RFields} :
    EncodedBy e (mkD f r) ↔ ∀ d : SReg, r.d = d → r.a = 0 → r.b = 0 → encode (f d) = some e := by
  simp [mkD]; tauto
@[simp] theorem encodedBy_mkA {f : SReg → Instr} {r : RFields} :
    EncodedBy e (mkA f r) ↔ ∀ a : SReg, r.d = 0 → r.a = a → r.b = 0 → encode (f a) = some e := by
  simp [mkA]; tauto
@[simp] theorem encodedBy_mkAB {f : SReg → SReg → Instr} {r : RFields} :
    EncodedBy e (mkAB f r) ↔ ∀ a b : SReg, r.d = 0 → r.a = a → r.b = b → encode (f a b) = some e := by
  simp [mkAB]; tauto
@[simp] theorem encodedBy_mk0 {i : Instr} {r : RFields} :
    EncodedBy e (mk0 i r) ↔ (r.d = 0 → r.a = 0 → r.b = 0 → encode i = some e) := by
  simp [mk0]

end

/-- A modifier whose top bit is a flag. -/
theorem flag_cases {n : Nat} (h : n < 16) : ∃ (e : Bool) (z : Nat), z < 8 ∧ n = 8 * bit e + z :=
  ⟨n / 8 == 1, n % 8, Nat.mod_lt _ (by decide), by
    obtain h | h : n / 8 = 0 ∨ n / 8 = 1 := by omega
    all_goals simp only [h, bit, Nat.reduceBEq, Bool.false_eq_true, if_true, if_false]; omega⟩

theorem flag_mod (e : Bool) {z : Nat} (h : z < 8) : (8 * bit e + z) % 8 = z := by cases e <;> simp [bit] <;> omega

theorem flag_div (e : Bool) {z : Nat} (h : z < 8) : (8 * bit e + z) / 8 = bit e := by cases e <;> simp [bit] <;> omega

@[simp] theorem bit_beq (e : Bool) : (bit e == 1) = e := by cases e <;> rfl

@[simp] theorem bit_eq_one (e : Bool) : (bit e = 1) = (e = true) := by cases e <;> simp [bit]

theorem bit_beq_one {n : Nat} (h : n ≤ 1) : bit (n == 1) = n := by
  obtain rfl | rfl : n = 0 ∨ n = 1 := by omega
  all_goals rfl

theorem encodedBy_mk3u {f : SReg → SReg → SReg → Bool → Instr} {maj op : Nat}
    (hf : ∀ d a b u, encode (f d a b u) = some (encR maj d a b op (bit u))) (r : RFields) :
    EncodedBy (encR maj r.d r.a r.b op r.md) (mk3u f r) := by
  simp only [mk3u, encodedBy_ite, encodedBy_bind, Option.bind_eq_bind, fin?_eq_some, encodedBy_some]
  rintro h d hd a ha b hb
  rw [hf, bit_beq_one h, hd, ha, hb]

theorem encodedBy_mkV {ok : Nat → Bool} {f : VReg → VReg → VReg → Fin 16 → Instr} {maj op : Nat}
    (hf : ∀ d a b t, encode (f d a b t) = some (encR maj d a b op t)) (r : RFields) :
    EncodedBy (encR maj r.d r.a r.b op r.md) (mkV ok f r) := by
  simp only [mkV, encodedBy_ite, encodedBy_bind, Option.bind_eq_bind, fin?_eq_some, encodedBy_some]
  rintro h d hd a ha b hb t ht
  rw [hf, hd, ha, hb, ht]

theorem encodedBy_mkF {f : VReg → VReg → VReg → Fin 4 → Fin 4 → Instr} {maj op : Nat}
    (hf : ∀ d a b t m, encode (f d a b t m) = some (encR maj d a b op (t * 4 + m))) (r : RFields) :
    EncodedBy (encR maj r.d r.a r.b op r.md) (mkF f r) := by
  simp only [mkF, encodedBy_ite, encodedBy_bind, Option.bind_eq_bind, fin?_eq_some, encodedBy_some]
  rintro h d hd a ha b hb t ht m hm
  rw [hf, hd, ha, hb, ← ht, ← hm, Nat.div_add_mod']

theorem encodedBy_mkFn {f : VReg → VReg → VReg → Fin 4 → Instr} {maj op : Nat}
    (hf : ∀ d a b t, encode (f d a b t) = some (encR maj d a b op (t * 4))) (r : RFields) :
    EncodedBy (encR maj r.d r.a r.b op r.md) (mkFn f r) := by
  simp only [mkFn, encodedBy_ite, Option.bind_eq_bind, encodedBy_bind, fin?_eq_some, zero?_eq_some, encodedBy_some]
  rintro - hm h d hd a ha b hb t ht
  rw [hf, hd, ha, hb, ← ht, Nat.div_mul_cancel (Nat.dvd_of_mod_eq_zero hm)]

theorem encodedBy_mkU {f : VReg → VReg → KReg → Fin 4 → Fin 4 → Instr} {maj op : Nat}
    (hf : ∀ d a k t m, encode (f d a k t m) = some (encR maj d a k op (t * 4 + m))) (r : RFields) :
    EncodedBy (encR maj r.d r.a r.b op r.md) (mkU f r) := by
  simp only [mkU, encodedBy_ite, encodedBy_bind, Option.bind_eq_bind, fin?_eq_some, encodedBy_some]
  rintro h d hd a ha b hb t ht m hm
  rw [hf, hd, ha, hb, ← ht, ← hm, Nat.div_add_mod']

theorem encodedBy_mkUn {f : VReg → VReg → KReg → Fin 4 → Instr} {maj op : Nat}
    (hf : ∀ d a k t, encode (f d a k t) = some (encR maj d a k op (t * 4))) (r : RFields) :
    EncodedBy (encR maj r.d r.a r.b op r.md) (mkUn f r) := by
  simp only [mkUn, encodedBy_ite, Option.bind_eq_bind, encodedBy_bind, fin?_eq_some, zero?_eq_some, encodedBy_some]
  rintro - hm h d hd a ha b hb t ht
  rw [hf, hd, ha, hb, ← ht, Nat.div_mul_cancel (Nat.dvd_of_mod_eq_zero hm)]

theorem bits_lt (w lo n : Nat) : bits w lo n < 2 ^ n := Nat.mod_lt _ (Nat.two_pow_pos n)

/-- The low `n + m` bits are the `m` above the low `n`, and those. -/
theorem bits_append (w n m : Nat) : bits w 0 (n + m) = bits w n m * 2 ^ n + bits w 0 n := by
  simp only [bits, Nat.pow_add, Nat.mod_mul, Nat.pow_zero, Nat.div_one]
  ring

theorem bits_all {w n : Nat} (h : w < 2 ^ n) : bits w 0 n = w := by simpa [bits] using Nat.mod_eq_of_lt h

/-- The number of a register: five bits in the word, two in the extension. -/
theorem widen_mod {a : Nat} (h : a < 32) (b : Nat) : (a + 32 * b) % 32 = a := by omega
theorem widen_div {a : Nat} (h : a < 32) (b : Nat) : (a + 32 * b) / 32 = b := by omega

theorem word_head {w : Nat} (h : w < 2 ^ 31) : w = bits w 25 6 * 2 ^ 25 + bits w 20 5 * 2 ^ 20 + bits w 0 20 := by
  conv_lhs => rw [← bits_all h, bits_append w 25 6, bits_append w 20 5]
  omega

theorem ext_head {x : Nat} (h : x < 2 ^ 9) : x = bits x 7 2 * 128 + bits x 5 2 * 32 + bits x 0 5 := by
  conv_lhs => rw [← bits_all h, bits_append x 7 2, bits_append x 5 2]
  omega

theorem encR_rFields {w x maj : Nat} {r : RFields} (hm : bits w 25 6 = maj) (hw : w < 2 ^ 31) (hx : x < 2 ^ 9) (h : rFields w x = some r) :
    encR maj r.d r.a r.b r.op r.md = ⟨w, x⟩ := by
  unfold rFields at h
  split at h
  next h0 =>
    cases h
    simp only [encR, EncWord.mk.injEq, widen_mod (bits_lt _ _ 5), widen_div (bits_lt _ _ 5), ← hm]
    constructor
    · have h1 := word_head hw
      have h2 : bits w 0 20 = _ := bits_append w 15 5
      have h3 : bits w 0 15 = _ := bits_append w 10 5
      have h4 : bits w 0 10 = _ := bits_append w 4 6
      omega
    · have h1 := ext_head hx
      have h2 : bits x 0 5 = _ := bits_append x 3 2
      have h3 : bits x 0 3 = x % 8 := by simp [bits]
      omega
  next => cases h

theorem encI_iFields {w x maj : Nat} (hm : bits w 25 6 = maj) (hw : w < 2 ^ 31) (hx : x < 2 ^ 9) :
    encI maj (iFields w (some x)).d (iFields w (some x)).a (iFields w (some x)).f3 (iFields w (some x)).imm = ⟨w, x⟩ := by
  have hl := bits_lt w 0 12
  have hh := bits_lt x 0 5
  have hi : (bits w 0 12 + 4096 * bits x 0 5) % 2 ^ 17 = bits w 0 12 + 4096 * bits x 0 5 := Nat.mod_eq_of_lt (by omega)
  simp only [encI, iFields, EncWord.mk.injEq, BitVec.toNat_ofNat, Option.getD_some, widen_mod (bits_lt _ _ 5), widen_div (bits_lt _ _ 5), ← hm, hi]
  constructor
  · have h1 := word_head hw
    have h2 : bits w 0 20 = _ := bits_append w 15 5
    have h3 : bits w 0 15 = _ := bits_append w 12 3
    omega
  · have h1 := ext_head hx
    omega

theorem encI12_iFields {w x maj : Nat} (hm : bits w 25 6 = maj) (hw : w < 2 ^ 31) (hx : x < 2 ^ 9) (h0 : bits x 0 5 = 0) :
    encI12 maj (iFields w (some x)).d (iFields w (some x)).a (iFields w (some x)).f3 (bits w 0 12) = ⟨w, x⟩ := by
  rw [← encI_iFields hm hw hx]
  have hl := bits_lt w 0 12
  simp only [encI12, encI, iFields, h0, EncWord.mk.injEq, BitVec.toNat_ofNat]
  omega

theorem encU_uImm {w x maj : Nat} (hm : bits w 25 6 = maj) (hw : w < 2 ^ 31) (hx : x < 2 ^ 9) :
    encU maj (iFields w (some x)).d (uImm w (some x)) = ⟨w, x⟩ := by
  have hl := bits_lt w 0 20
  have hh := bits_lt x 0 7
  have hi : (bits w 0 20 + 2 ^ 20 * bits x 0 7) % 2 ^ 27 = bits w 0 20 + 2 ^ 20 * bits x 0 7 := Nat.mod_eq_of_lt (by omega)
  simp only [encU, iFields, uImm, EncWord.mk.injEq, BitVec.toNat_ofNat, Option.getD_some, widen_mod (bits_lt _ _ 5), widen_div (bits_lt _ _ 5), ← hm, hi]
  constructor
  · have h1 := word_head hw
    omega
  · have h1 := ext_head hx
    have h2 : bits x 0 7 = _ := bits_append x 5 2
    omega

theorem encJ_jImm {w x : Nat} (hm : bits w 25 6 = 8) (hw : w < 2 ^ 31) (hx : x < 2 ^ 9) :
    encJ (bits w 24 1) (jImm w (some x)) = ⟨w, x⟩ := by
  have hl := bits_lt w 0 24
  have hi : (bits w 0 24 + 2 ^ 24 * bits x 0 9) % 2 ^ 33 = bits w 0 24 + 2 ^ 24 * x := by
    rw [bits_all hx]
    exact Nat.mod_eq_of_lt (by omega)
  simp only [encJ, jImm, EncWord.mk.injEq, BitVec.toNat_ofNat, hi]
  constructor
  · have h1 : bits w 0 31 = _ := bits_append w 25 6
    have h2 : bits w 0 25 = _ := bits_append w 24 1
    rw [bits_all hw] at h1
    omega
  · omega

/-! What the decoder of a major answers, the encoder writes with the fields it came from (R45 to R49). -/

theorem encode_dec02 (r : RFields) : EncodedBy (encR 2 r.d r.a r.b r.op r.md) (dec02 r) := by
  obtain ⟨d, a, b, op, md⟩ := r
  unfold dec02
  dsimp only
  split
  case h_4 | h_5 | h_6 | h_14 | h_15 | h_16 | h_17 | h_18 => exact encodedBy_mk3u (fun _ _ _ _ => rfl) ⟨d, a, b, _, md⟩
  case h_19 => split <;> simp <;> (intros; subst_vars; rfl)
  all_goals simp <;> (intros; subst_vars; rfl)

theorem encode_dec03 (f : IFields) : EncodedBy (encI 3 f.d f.a f.f3 f.imm) (dec03 f) := by
  obtain ⟨d, a, f3, imm⟩ := f
  unfold dec03
  simp
  rintro d rfl a rfl
  split <;> simp <;> rfl

@[simp] theorem imm12?_eq_some {w x i : Nat} : imm12? w (some x) = some i ↔ bits x 0 5 = 0 ∧ bits w 0 12 = i := by
  unfold imm12?
  split <;> simp_all

theorem encode_dec06 {w x : Nat} {f : IFields} {e : EncWord} (he : bits x 0 5 = 0 → encI12 6 f.d f.a f.f3 (bits w 0 12) = e) :
    EncodedBy e (dec06 w (some x) f) := by
  obtain ⟨d, a, f3, imm⟩ := f
  unfold dec06
  simp
  rintro d rfl a rfl h0 l hl n hn
  have hi : bits w 0 12 = l * 64 + n := by
    have := bits_lt w 0 12
    simp only [← hl, ← hn]
    simp only [bits] at this ⊢
    omega
  rw [← he h0, hi]
  split <;> simp
  case h_4 => intro; rfl
  all_goals rintro rfl; simp; rfl

theorem encode_decWrc {a : SReg} {c : BitVec 12} : EncodedBy (encI12 11 0 a 1 c.toNat) (decWrc a c.toNat) := by
  unfold decWrc
  split
  next h => rw [h]; simp; rfl
  split
  next h => rw [h]; simp; rfl
  · simp
    intro; rfl

theorem encode_dec0B {w x : Nat} {f : IFields} {e : EncWord} (he : bits x 0 5 = 0 → encI12 11 f.d f.a f.f3 (bits w 0 12) = e) :
    EncodedBy e (dec0B w (some x) f) := by
  obtain ⟨d, a, f3, imm⟩ := f
  unfold dec0B
  simp
  rintro d rfl a rfl h0
  obtain ⟨c, hc⟩ : ∃ c : BitVec 12, bits w 0 12 = c.toNat := ⟨BitVec.ofNat 12 _, (Nat.mod_eq_of_lt (bits_lt w 0 12)).symm⟩
  rw [← he h0, hc]
  split
  case h_2 => simp; intro h; simpa [h] using encode_decWrc
  case h_8 => simp; intro h; simp [h]; rfl
  all_goals simp
  case h_1 | h_7 => intro h _; rw [h]; rfl
  all_goals intro; rfl

theorem encode_dec07 (f : IFields) : EncodedBy (encI 7 f.d f.a f.f3 f.imm) (dec07 f) := by
  obtain ⟨d, a, f3, imm⟩ := f
  unfold dec07
  simp
  rintro d rfl a rfl
  split <;> simp <;> rfl

theorem encode_dec09 {w : Nat} {r : RFields} (hr : r.a < 32 → r.b < 32 → bits w 10 10 = r.a * 32 + r.b) :
    EncodedBy (encR 9 r.d r.a r.b r.op r.md) (dec09 w r) := by
  obtain ⟨d, a, b, op, md⟩ := r
  dsimp only at hr ⊢
  unfold dec09
  dsimp only
  split
  case h_3 =>
    simp
    rintro rfl ha hb d rfl i hi
    have he : encLoop d i = encR 9 d a b 2 0 := by
      have := hr ha hb
      simp only [encLoop, encR, EncWord.mk.injEq]
      omega
    rw [← he]
    rfl
  all_goals simp <;> (intros; subst_vars; rfl)

theorem encode_dec0A (r : RFields) : EncodedBy (encR 10 r.d r.a r.b r.op r.md) (dec0A r) := by
  obtain ⟨d, a, b, op, md⟩ := r
  unfold dec0A
  dsimp only
  split
  case h_6 =>
    simp
    rintro rfl d rfl a rfl
    split <;> simp <;> rfl
  all_goals simp <;> (intros; subst_vars; rfl)

theorem encode_dec0C (r : RFields) : EncodedBy (encR 12 r.d r.a r.b r.op r.md) (dec0C r) := by
  obtain ⟨d, a, b, op, md⟩ := r
  unfold dec0C
  dsimp only
  split
  case h_3 => simp
  case h_2 => split <;> simp <;> (intros; subst_vars; rfl)
  case h_1 =>
    split
    case h_3 =>
      simp
      rintro hm rfl a rfl b rfl z hz
      rw [← Nat.mul_div_cancel' (Nat.dvd_of_mod_eq_zero hm), hz]
      rfl
    all_goals
      simp
      intros
      subst_vars
      rfl

theorem encode_dec0D (r : RFields) : EncodedBy (encR 13 r.d r.a r.b r.op r.md) (dec0D r) := by
  obtain ⟨d, a, b, op, md⟩ := r
  unfold dec0D
  dsimp only
  split <;> simp <;> (intros; subst_vars; rfl)

theorem encode_dec0E (r : RFields) : EncodedBy (encR 14 r.d r.a r.b r.op r.md) (dec0E r) := by
  obtain ⟨d, a, b, op, md⟩ := r
  unfold dec0E
  dsimp only
  split <;> simp <;> (intros; subst_vars; rfl)

theorem encode_dec0F (r : RFields) : EncodedBy (encR 15 r.d r.a r.b r.op r.md) (dec0F r) := by
  obtain ⟨d, a, b, op, md⟩ := r
  unfold dec0F
  dsimp only
  split <;> simp <;> (intros; subst_vars; rfl)

theorem encode_dec10 (r : RFields) : EncodedBy (encR 16 r.d r.a r.b r.op r.md) (dec10 r) := by
  obtain ⟨d, a, b, op, md⟩ := r
  unfold dec10
  dsimp only
  split
  case h_14 =>
    simp
    rintro t rfl - c hc k hk a rfl b rfl
    rw [← Nat.div_add_mod' d 8, hc, hk]
    rfl
  case h_15 | h_16 | h_17 => simp <;> (intros; subst_vars; rfl)
  all_goals exact encodedBy_mkV (fun _ _ _ _ => rfl) ⟨d, a, b, _, md⟩

theorem encode_dec11 (r : RFields) : EncodedBy (encR 17 r.d r.a r.b r.op r.md) (dec11 r) := by
  obtain ⟨d, a, b, op, md⟩ := r
  unfold dec11
  dsimp only
  split
  case h_1 | h_2 | h_3 | h_4 | h_13 => exact encodedBy_mkF (fun _ _ _ _ _ => rfl) ⟨d, a, b, _, md⟩
  case h_5 | h_6 => exact encodedBy_mkU (fun _ _ _ _ _ => rfl) ⟨d, a, b, _, md⟩
  case h_7 | h_8 | h_14 => exact encodedBy_mkFn (fun _ _ _ _ => rfl) ⟨d, a, b, _, md⟩
  case h_9 | h_10 => exact encodedBy_mkUn (fun _ _ _ _ => rfl) ⟨d, a, b, _, md⟩
  case h_11 =>
    simp
    rintro hm h c hc k hk a rfl b rfl t ht
    rw [← Nat.div_add_mod' d 8, ← Nat.div_mul_cancel (Nat.dvd_of_mod_eq_zero hm), hc, hk, ht]
    rfl
  case h_12 =>
    simp
    rintro rfl h d rfl a rfl t ht m hm
    rw [← Nat.div_add_mod' md 4, ht, hm]
    rfl
  case h_15 => simp

theorem encode_dec12 {w x : Nat} (hm : bits w 25 6 = 18) (hw : w < 2 ^ 31) (hx : x < 2 ^ 9) : EncodedBy ⟨w, x⟩ (dec12 w x) := by
  unfold dec12
  simp
  intro h0 d hd a ha b hb c hc
  have he : encR4 d a b c (bits w 0 5) = ⟨w, x⟩ := by
    simp only [encR4, ← hd, ← ha, ← hb, ← hc, EncWord.mk.injEq, widen_mod (bits_lt _ _ 5), widen_div (bits_lt _ _ 5)]
    constructor
    · have h1 := word_head hw
      have h2 : bits w 0 20 = _ := bits_append w 15 5
      have h3 : bits w 0 15 = _ := bits_append w 10 5
      have h4 : bits w 0 10 = _ := bits_append w 5 5
      omega
    · have h1 := ext_head hx
      have h2 : bits x 0 5 = _ := bits_append x 3 2
      have h3 : bits x 0 3 = _ := bits_append x 1 2
      have h4 : bits x 0 1 = x % 2 := by simp [bits]
      omega
  rw [← he]
  generalize bits w 0 5 = op
  split
  case h_6 =>
    simp
    rintro f hf k hk
    rw [← Nat.div_add_mod' c.val 8, hf, hk]
    rfl
  all_goals simp <;> rfl

theorem encode_dec17 {w x : Nat} (hm : bits w 25 6 = 23) (hw : w < 2 ^ 31) (hx : x < 2 ^ 9) : EncodedBy ⟨w, x⟩ (dec17 w x) := by
  unfold dec17
  simp
  intro h0 h1 i hi p hp n hn d hd _
  have he : encC i p n (bits w 10 1) d = ⟨w, x⟩ := by
    simp only [encC, ← hi, ← hp, ← hn, ← hd, EncWord.mk.injEq, widen_mod (bits_lt _ _ 5), widen_div (bits_lt _ _ 5)]
    constructor
    · have h2 : bits w 0 31 = _ := bits_append w 25 6
      have h3 : bits w 0 25 = _ := bits_append w 17 8
      have h4 : bits w 0 17 = _ := bits_append w 13 4
      have h5 : bits w 0 13 = _ := bits_append w 11 2
      have h6 : bits w 0 11 = _ := bits_append w 10 1
      have h7 : bits w 0 10 = _ := bits_append w 5 5
      rw [bits_all hw] at h2
      omega
    · have h2 : bits x 0 9 = _ := bits_append x 8 1
      have h3 : bits x 0 8 = x % 256 := by simp [bits]
      rw [bits_all hx] at h2
      omega
  rw [← he]
  have := bits_lt w 10 1
  split
  next h => rw [h]; rfl
  next h => rw [show bits w 10 1 = 0 by omega]; rfl

theorem encode_dec13 (r : RFields) : EncodedBy (encR 19 r.d r.a r.b r.op r.md) (dec13 r) := by
  obtain ⟨d, a, b, op, md⟩ := r
  unfold dec13
  simp
  rintro d rfl a rfl f hf lo hlo t ht
  have hmd := Nat.div_add_mod' md 4
  rw [hf, hlo] at hmd
  split
  case h_1 | h_4 | h_9 => simp <;> (intros; subst_vars; rfl)
  case h_6 | h_8 => exact encodedBy_mkU (fun _ _ _ _ _ => rfl) ⟨d, a, b, _, md⟩
  case h_7 => simp; rintro rfl hm; rw [hm]; rfl
  case h_2 =>
    simp
    rintro m rfl - hm - -
    rw [← hmd, ← hlo, hm]
    rfl
  case h_3 | h_5 =>
    rw [← hmd]
    simp
    intros
    subst_vars
    rfl

theorem encode_dec14 (r : RFields) : EncodedBy (encR 20 r.d r.a r.b r.op r.md) (dec14 r) := by
  obtain ⟨d, a, b, op, md⟩ := r
  unfold dec14
  dsimp only
  split
  case h_1 => exact encodedBy_mkV (fun _ _ _ _ => rfl) ⟨d, a, b, _, md⟩
  case h_4 | h_5 =>
    simp
    rintro - - d rfl a rfl o ho k hk t rfl
    rw [← Nat.div_add_mod' b 8, ho, hk]
    rfl
  all_goals simp <;> (intros; subst_vars; rfl)

theorem encode_dec15 (r : RFields) : EncodedBy (encR 21 r.d r.a r.b r.op r.md) (dec15 r) := by
  obtain ⟨d, a, b, op, md⟩ := r
  unfold dec15
  dsimp only
  split <;> simp <;> (intros; subst_vars; rfl)

theorem encode_dec16 (r : RFields) : EncodedBy (encR 22 r.d r.a r.b r.op r.md) (dec16 r) := by
  obtain ⟨d, a, b, op, md⟩ := r
  unfold dec16
  dsimp only
  split <;> simp <;> (intros; subst_vars; rfl)

theorem encode_dec18 (r : RFields) : EncodedBy (encR 24 r.d r.a r.b r.op r.md) (dec18 r) := by
  obtain ⟨d, a, b, op, md⟩ := r
  unfold dec18
  dsimp only
  split <;> simp <;> (intros; subst_vars; rfl)

theorem encode_dec19 (f : IFields) : EncodedBy (encI 25 f.d f.a f.f3 f.imm) (dec19 f) := by
  obtain ⟨d, a, f3, imm⟩ := f
  unfold dec19
  dsimp only
  split <;> simp <;> (intros; subst_vars; rfl)

theorem encode_dec1A (r : RFields) : EncodedBy (encR 26 r.d r.a r.b r.op r.md) (dec1A r) := by
  obtain ⟨d, a, b, op, md⟩ := r
  unfold dec1A
  dsimp only
  split <;> simp <;> (intros; subst_vars; rfl)

theorem encode_dec1B {w x : Nat} {f : IFields} {e : EncWord} (hi : encI 27 f.d f.a f.f3 f.imm = e)
    (he : bits x 0 5 = 0 → encI12 27 f.d f.a f.f3 (bits w 0 12) = e) : EncodedBy e (dec1B w (some x) f) := by
  obtain ⟨d, a, f3, imm⟩ := f
  unfold dec1B
  dsimp only at *
  split
  case h_5 =>
    simp
    rintro h0 d rfl a rfl
    rw [← he h0]
    split
    next h => simp only [h]; simp; rfl
    next h => simp only [h]; simp; rfl
    next => simp
  case h_6 =>
    simp
    rintro h0 rfl h1 d rfl n hn
    rw [← he h0]
    split
    next h => rw [show bits w 0 12 = 16 + n by omega]; rfl
    next h => rw [show bits w 0 12 = n by omega]; rfl
  case h_7 =>
    simp
    rintro h0 rfl rfl h1 n hn
    rw [← he h0]
    split
    next h => rw [show bits w 0 12 = 16 + n by omega]; rfl
    next h => rw [show bits w 0 12 = n by omega]; rfl
  all_goals
    rw [← hi]
    simp <;> (intros; subst_vars; rfl)

theorem encode_dec1C (r : RFields) (h : r.md < 16) : EncodedBy (encR 28 r.d r.a r.b r.op r.md) (dec1C r) := by
  obtain ⟨d, a, b, op, md⟩ := r
  unfold dec1C
  dsimp only
  split
  case h_10 => split <;> simp <;> (intros; subst_vars; rfl)
  case h_6 | h_7 | h_8 | h_9 | h_11 => simp <;> (intros; subst_vars; rfl)
  all_goals
    obtain ⟨e, z, hz, rfl⟩ := flag_cases h
    simp [flag_mod e hz, flag_div e hz]
    intros
    subst_vars
    rfl

theorem encode_dec1D (r : RFields) (h : r.md < 16) : EncodedBy (encR 29 r.d r.a r.b r.op r.md) (dec1D r) := by
  obtain ⟨d, a, b, op, md⟩ := r
  unfold dec1D
  dsimp only
  split
  case h_1 | h_5 =>
    obtain ⟨e, z, hz, rfl⟩ := flag_cases h
    simp [flag_mod e hz, flag_div e hz]
    intros
    subst_vars
    rfl
  all_goals simp <;> (intros; subst_vars; rfl)

theorem encode_dec1E (r : RFields) (h : r.md < 16) : EncodedBy (encR 30 r.d r.a r.b r.op r.md) (dec1E r) := by
  obtain ⟨d, a, b, op, md⟩ := r
  obtain ⟨e, z, hz, rfl⟩ := flag_cases h
  unfold dec1E
  simp [flag_mod e hz, flag_div e hz]
  intro
  split <;> simp <;> (intros; subst_vars; rfl)

theorem encode_dec1F (r : RFields) (h : r.md < 16) : EncodedBy (encR 31 r.d r.a r.b r.op r.md) (dec1F r) := by
  obtain ⟨d, a, b, op, md⟩ := r
  unfold dec1F
  dsimp only
  split
  case h_1 | h_2 | h_9 => simp <;> (intros; subst_vars; rfl)
  case h_4 => split <;> simp <;> (intros; subst_vars; rfl)
  case h_3 | h_7 =>
    simp
    intro hm
    rw [Nat.mod_eq_of_lt (by omega)]
    intros; subst_vars; rfl
  case h_5 | h_6 =>
    obtain ⟨e, z, hz, rfl⟩ := flag_cases h
    simp [flag_mod e hz, flag_div e hz]
    cases e <;> simp [bit] <;> (intros; subst_vars; rfl)
  case h_8 =>
    obtain ⟨e, z, hz, rfl⟩ := flag_cases h
    simp [flag_mod e hz, flag_div e hz]
    intros; subst_vars; rfl

theorem encode_dec20 (r : RFields) (h : r.md < 16) : EncodedBy (encR 32 r.d r.a r.b r.op r.md) (dec20 r) := by
  obtain ⟨d, a, b, op, md⟩ := r
  unfold dec20
  dsimp only
  split
  case h_3 => split <;> simp <;> (intros; subst_vars; rfl)
  case h_4 =>
    obtain ⟨e, z, hz, rfl⟩ := flag_cases h
    simp [flag_mod e hz, flag_div e hz]
    cases e <;> simp [bit] <;> (intros; subst_vars; rfl)
  all_goals simp <;> (intros; subst_vars; rfl)

/-- The decoders of format R: each answers only what the fields of the word encode. -/
theorem encodedBy_rFields {w x maj : Nat} {dec : RFields → Option Instr} (hm : bits w 25 6 = maj) (hw : w < 2 ^ 31) (hx : x < 2 ^ 9)
    (h : ∀ r, rFields w x = some r → EncodedBy (encR maj r.d r.a r.b r.op r.md) (dec r)) : EncodedBy ⟨w, x⟩ ((rFields w x).bind dec) := by
  simp only [encodedBy_bind]
  intro r hr
  rw [← encR_rFields hm hw hx hr]
  exact h r hr

theorem rFields_md {w x : Nat} {r : RFields} (h : rFields w x = some r) : r.md < 16 := by
  unfold rFields at h
  split at h <;> cases h
  exact bits_lt w 0 4

theorem rFields_ab {w x : Nat} {r : RFields} (h : rFields w x = some r) (ha : r.a < 32) (hb : r.b < 32) :
    bits w 10 10 = r.a * 32 + r.b := by
  unfold rFields at h
  split at h <;> cases h
  simp only [bits] at *
  omega

/-- A word under a header decodes to what the word and the extension encode, in every major (R45 to R49). -/
theorem encode_decFields {w x : Nat} (hw : w < 2 ^ 31) (hx : x < 2 ^ 9) : EncodedBy ⟨w, x⟩ (decFields (bits w 25 6) w (some x)) := by
  generalize hm : bits w 25 6 = maj
  have hI := encI_iFields hm hw hx
  have hI12 := encI12_iFields hm hw hx
  unfold decFields
  dsimp only [Option.getD_some]
  split
  case h_1 =>
    simp
    intro h0 h1
    have : bits w 0 31 = _ := bits_append w 25 6
    rw [bits_all hw, h0, hm] at this
    simp only [this, h1]
    rfl
  case h_3 => exact hI ▸ encode_dec03 _
  case h_4 | h_5 =>
    rw [← encU_uImm hm hw hx]
    simp
    intro d hd
    rw [hd]
    rfl
  case h_6 => exact encode_dec06 hI12
  case h_7 => exact hI ▸ encode_dec07 _
  case h_8 =>
    rw [← encJ_jImm hm hw hx]
    have := bits_lt w 24 1
    simp
    split
    next h => rw [h]; rfl
    next h => rw [show bits w 24 1 = 0 by omega]; rfl
  case h_9 => exact encodedBy_rFields hm hw hx fun r h => encode_dec09 (rFields_ab h)
  case h_11 => exact encode_dec0B hI12
  case h_18 => exact encode_dec12 hm hw hx
  case h_23 => exact encode_dec17 hm hw hx
  case h_25 => exact hI ▸ encode_dec19 _
  case h_27 => exact encode_dec1B hI hI12
  case h_33 => simp
  case h_28 => exact encodedBy_rFields hm hw hx fun r h => encode_dec1C r (rFields_md h)
  case h_29 => exact encodedBy_rFields hm hw hx fun r h => encode_dec1D r (rFields_md h)
  case h_30 => exact encodedBy_rFields hm hw hx fun r h => encode_dec1E r (rFields_md h)
  case h_31 => exact encodedBy_rFields hm hw hx fun r h => encode_dec1F r (rFields_md h)
  case h_32 => exact encodedBy_rFields hm hw hx fun r h => encode_dec20 r (rFields_md h)
  case h_2 => exact encodedBy_rFields hm hw hx fun r _ => encode_dec02 r
  case h_10 => exact encodedBy_rFields hm hw hx fun r _ => encode_dec0A r
  case h_12 => exact encodedBy_rFields hm hw hx fun r _ => encode_dec0C r
  case h_13 => exact encodedBy_rFields hm hw hx fun r _ => encode_dec0D r
  case h_14 => exact encodedBy_rFields hm hw hx fun r _ => encode_dec0E r
  case h_15 => exact encodedBy_rFields hm hw hx fun r _ => encode_dec0F r
  case h_16 => exact encodedBy_rFields hm hw hx fun r _ => encode_dec10 r
  case h_17 => exact encodedBy_rFields hm hw hx fun r _ => encode_dec11 r
  case h_19 => exact encodedBy_rFields hm hw hx fun r _ => encode_dec13 r
  case h_20 => exact encodedBy_rFields hm hw hx fun r _ => encode_dec14 r
  case h_21 => exact encodedBy_rFields hm hw hx fun r _ => encode_dec15 r
  case h_22 => exact encodedBy_rFields hm hw hx fun r _ => encode_dec16 r
  case h_24 => exact encodedBy_rFields hm hw hx fun r _ => encode_dec18 r
  case h_26 => exact encodedBy_rFields hm hw hx fun r _ => encode_dec1A r

theorem decodeSlot_eq_ok {slot w : Nat} {x : Option Nat} {i : Instr} : decodeSlot slot x w = .ok i ↔
    (majorClass (bits w 25 6)).any (fun c => c.allows slot) = true ∧ decFields (bits w 25 6) w x = some i := by
  unfold decodeSlot
  dsimp only
  split
  next c hc =>
    rw [hc]
    split
    next ha => split <;> simp_all
    next ha => simp [ha]
  next hc => split <;> simp [hc]

/-- Settles O2: each decoder reads every bit of the fields, so the fields of what it answers are the word. -/
theorem encodeOfDecode : Obligations.EncodeOfDecode := by
  unfold Obligations.EncodeOfDecode
  intro i slot x w hx hw h
  exact encode_decFields hw hx i (decodeSlot_eq_ok.1 h).2

end Sys2Proof.Proofs
end

section
/-!
PROOFS. The words of slots, from the encoder to the decoder (R35, R36, R45 to R52): for each form of words, the decoder reads back the fields
that the encoder wrote.
-/
namespace Sys2Proof.Proofs
open Machine

@[simp] theorem fin?_val {n : Nat} (i : Fin n) : fin? n i.val = some i := fin?_eq_some.2 rfl

/-- A field with what stands above and below it. -/
theorem bits_eq {w lo n m : Nat} (h l : Nat) (hw : w = (h * 2 ^ n + m) * 2 ^ lo + l) (hl : l < 2 ^ lo) (hm : m < 2 ^ n) : bits w lo n = m := by
  rw [bits, hw, Nat.mul_comm _ (2 ^ lo), Nat.mul_add_div (Nat.two_pow_pos lo), Nat.div_eq_of_lt hl, Nat.add_zero, Nat.mul_comm h,
    Nat.mul_add_mod, Nat.mod_eq_of_lt hm]

/-- The word and the extension decode to the instruction, whatever the slot. -/
def Decodes (i : Instr) (e : EncWord) : Prop := decFields (bits e.word 25 6) e.word (some e.ext) = some i

section
variable {i : Instr} {maj d a b op md f3 n : Nat}

theorem decodes_encR {dec : Nat → RFields → Option Instr}
    (h : ∀ w x, decFields maj w x = (rFields w (x.getD 0)).bind (dec w)) (hi : dec (encR maj d a b op md).word ⟨d, a, b, op, md⟩ = some i)
    (hm : maj < 64 := by omega) (hd : d < 128 := by omega) (ha : a < 128 := by omega) (hb : b < 128 := by omega)
    (ho : op < 64 := by omega) (hmd : md < 16 := by omega) : Decodes i (encR maj d a b op md) := by
  unfold Decodes
  rw [← hi]
  generalize he : encR maj d a b op md = e
  have hmaj : bits e.word 25 6 = maj := by simp only [bits, ← he, encR]; omega
  have hr : rFields e.word e.ext = some ⟨d, a, b, op, md⟩ := by
    have h1 : bits e.word 20 5 = d % 32 :=
      bits_eq maj (a % 32 * 2 ^ 15 + b % 32 * 2 ^ 10 + op * 16 + md) (by simp only [← he, encR]; omega) (by omega) (by omega)
    have h2 : bits e.word 15 5 = a % 32 :=
      bits_eq (maj * 2 ^ 5 + d % 32) (b % 32 * 2 ^ 10 + op * 16 + md) (by simp only [← he, encR]; omega) (by omega) (by omega)
    have h3 : bits e.word 10 5 = b % 32 :=
      bits_eq (maj * 2 ^ 10 + d % 32 * 2 ^ 5 + a % 32) (op * 16 + md) (by simp only [← he, encR]; omega) (by omega) (by omega)
    have h4 : bits e.word 4 6 = op :=
      bits_eq (maj * 2 ^ 15 + d % 32 * 2 ^ 10 + a % 32 * 2 ^ 5 + b % 32) md (by simp only [← he, encR]; omega) (by omega) (by omega)
    have h5 : bits e.word 0 4 = md := by simp only [bits, ← he, encR]; omega
    have h6 : bits e.ext 7 2 = d / 32 := bits_eq 0 (a / 32 * 32 + b / 32 * 8) (by simp only [← he, encR]; omega) (by omega) (by omega)
    have h7 : bits e.ext 5 2 = a / 32 := bits_eq (d / 32) (b / 32 * 8) (by simp only [← he, encR]; omega) (by omega) (by omega)
    have h8 : bits e.ext 3 2 = b / 32 := bits_eq (d / 32 * 4 + a / 32) 0 (by simp only [← he, encR]; omega) (by omega) (by omega)
    have h9 : e.ext % 8 = 0 := by simp only [← he, encR]; omega
    simp [rFields, h1, h2, h3, h4, h5, h6, h7, h8, h9, Nat.mod_add_div]
  rw [hmaj, h, Option.getD_some, hr]
  rfl

theorem iFields_encI {imm : BitVec 17} (hm : maj < 64) (hd : d < 128) (ha : a < 128) (hf : f3 < 8) : let e := encI maj d a f3 imm
    bits e.word 25 6 = maj ∧ iFields e.word (some e.ext) = ⟨d, a, f3, imm⟩ := by
  intro e
  have hl := imm.isLt
  refine ⟨by simp only [bits, e, encI]; omega, ?_⟩
  have h1 : bits e.word 20 5 = d % 32 :=
    bits_eq maj (a % 32 * 2 ^ 15 + f3 * 4096 + imm.toNat % 4096) (by simp only [e, encI]; omega) (by omega) (by omega)
  have h2 : bits e.word 15 5 = a % 32 :=
    bits_eq (maj * 2 ^ 5 + d % 32) (f3 * 4096 + imm.toNat % 4096) (by simp only [e, encI]; omega) (by omega) (by omega)
  have h3 : bits e.word 12 3 = f3 :=
    bits_eq (maj * 2 ^ 10 + d % 32 * 2 ^ 5 + a % 32) (imm.toNat % 4096) (by simp only [e, encI]; omega) (by omega) (by omega)
  have h4 : bits e.word 0 12 = imm.toNat % 4096 := by simp only [bits, e, encI]; omega
  have h5 : bits e.ext 7 2 = d / 32 := bits_eq 0 (a / 32 * 32 + imm.toNat / 4096) (by simp only [e, encI]; omega) (by omega) (by omega)
  have h6 : bits e.ext 5 2 = a / 32 := bits_eq (d / 32) (imm.toNat / 4096) (by simp only [e, encI]; omega) (by omega) (by omega)
  have h7 : bits e.ext 0 5 = imm.toNat / 4096 := by simp only [bits, e, encI]; omega
  simp [iFields, h1, h2, h3, h4, h5, h6, h7, Nat.mod_add_div]

theorem decodes_encI {imm : BitVec 17} {dec : Nat → Option Nat → IFields → Option Instr}
    (h : ∀ w x, decFields maj w x = dec w x (iFields w x)) (hi : ∀ w x, dec w x ⟨d, a, f3, imm⟩ = some i)
    (hm : maj < 64 := by omega) (hd : d < 128 := by omega) (ha : a < 128 := by omega) (hf : f3 < 8 := by omega) :
    Decodes i (encI maj d a f3 imm) := by
  obtain ⟨h1, h2⟩ := iFields_encI (imm := imm) hm hd ha hf
  unfold Decodes
  rw [h1, h, h2, hi]

/-- A raw field of 12 bits is an immediate whose bits in the extension are zero. -/
theorem encI12_eq_encI (hn : n < 4096) : encI12 maj d a f3 n = encI maj d a f3 (BitVec.ofNat 17 n) := by
  simp only [encI12, encI, BitVec.toNat_ofNat, EncWord.mk.injEq]
  omega

theorem decodes_encI12 {dec : Nat → Option Nat → IFields → Option Instr}
    (h : ∀ w x, decFields maj w x = dec w x (iFields w x))
    (hi : ∀ w x, imm12? w x = some n → dec w x ⟨d, a, f3, BitVec.ofNat 17 n⟩ = some i)
    (hm : maj < 64 := by omega) (hd : d < 128 := by omega) (ha : a < 128 := by omega) (hf : f3 < 8 := by omega) (hn : n < 4096 := by omega) :
    Decodes i (encI12 maj d a f3 n) := by
  obtain ⟨h1, h2⟩ := iFields_encI (imm := BitVec.ofNat 17 n) hm hd ha hf
  rw [← encI12_eq_encI hn] at h1 h2
  unfold Decodes
  rw [h1, h, h2, hi]
  simp only [imm12?_eq_some, bits, encI12]
  omega

theorem decodes_encU {imm : BitVec 27} {mk : SReg → BitVec 27 → Instr} {d : SReg}
    (h : ∀ w x, decFields maj w x = (fin? 64 (iFields w x).d).map fun d => mk d (uImm w x)) (hm : maj < 64 := by omega) :
    Decodes (mk d imm) (encU maj d imm) := by
  unfold Decodes
  generalize he : encU maj d imm = e
  have hl := imm.isLt
  have hmaj : bits e.word 25 6 = maj := by simp only [bits, ← he, encU]; omega
  have h1 : bits e.word 20 5 = d % 32 := bits_eq maj (imm.toNat % 2 ^ 20) (by simp only [← he, encU]; omega) (by omega) (by omega)
  have h2 : bits e.ext 7 2 = d / 32 := bits_eq 0 (imm.toNat / 2 ^ 20) (by simp only [← he, encU]; omega) (by omega) (by omega)
  have h3 : bits e.word 0 20 = imm.toNat % 2 ^ 20 := by simp only [bits, ← he, encU]; omega
  have h4 : bits e.ext 0 7 = imm.toNat / 2 ^ 20 := by simp only [bits, ← he, encU]; omega
  have hf : (iFields e.word (some e.ext)).d = d := by simp [iFields, h1, h2, Nat.mod_add_div]
  have hu : uImm e.word (some e.ext) = imm := by simp only [uImm, h3, h4, Nat.mod_add_div, BitVec.ofNat_toNat, BitVec.setWidth_eq]
  rw [hmaj, h, hf, hu, fin?_val]
  rfl

theorem decodes_encJ {imm : BitVec 33} (l : Bool) : Decodes (if l then .call imm else .br imm) (encJ (bit l) imm) := by
  unfold Decodes
  generalize he : encJ (bit l) imm = e
  have hl := imm.isLt
  have hb : bit l < 2 := by cases l <;> decide
  have hmaj : bits e.word 25 6 = 8 := by simp only [bits, ← he, encJ]; omega
  have h1 : bits e.word 24 1 = bit l := bits_eq 8 (imm.toNat % 2 ^ 24) (by simp only [← he, encJ]; omega) (by omega) (by omega)
  have h2 : bits e.word 0 24 = imm.toNat % 2 ^ 24 := by simp only [bits, ← he, encJ]; omega
  have h3 : bits e.ext 0 9 = imm.toNat / 2 ^ 24 := by simp only [bits, ← he, encJ]; omega
  have hj : jImm e.word (some e.ext) = imm := by simp only [jImm, h2, h3, Nat.mod_add_div, BitVec.ofNat_toNat, BitVec.setWidth_eq]
  rw [hmaj]
  unfold decFields
  simp only [h1, hj]
  cases l <;> rfl

theorem decodes_encC {m : Fin 256} {p : Fin 16} {k : Fin 4} {d : SReg} (r : Bool) (hp : p.val ≤ 8) :
    Decodes (if r then .mcallRty m p k d else .mcall m p k d) (encC m p k (bit r) d) := by
  unfold Decodes
  generalize he : encC m p k (bit r) d = e
  have hb : bit r < 2 := by cases r <;> decide
  have hmaj : bits e.word 25 6 = 23 := by simp only [bits, ← he, encC]; omega
  have h1 : bits e.word 17 8 = m :=
    bits_eq 23 (p.val * 2 ^ 13 + k.val * 2 ^ 11 + bit r * 2 ^ 10 + d.val % 32 * 32) (by simp only [← he, encC]; omega) (by omega) (by omega)
  have h2 : bits e.word 13 4 = p :=
    bits_eq (23 * 2 ^ 8 + m) (k.val * 2 ^ 11 + bit r * 2 ^ 10 + d.val % 32 * 32) (by simp only [← he, encC]; omega) (by omega) (by omega)
  have h3 : bits e.word 11 2 = k :=
    bits_eq (23 * 2 ^ 12 + m * 2 ^ 4 + p) (bit r * 2 ^ 10 + d.val % 32 * 32) (by simp only [← he, encC]; omega) (by omega) (by omega)
  have h4 : bits e.word 10 1 = bit r :=
    bits_eq (23 * 2 ^ 14 + m * 2 ^ 6 + p * 2 ^ 2 + k) (d.val % 32 * 32) (by simp only [← he, encC]; omega) (by omega) (by omega)
  have h5 : bits e.word 5 5 = d % 32 :=
    bits_eq (23 * 2 ^ 15 + m * 2 ^ 7 + p * 2 ^ 3 + k * 2 + bit r) 0 (by simp only [← he, encC]; omega) (by omega) (by omega)
  have h6 : bits e.word 0 5 = 0 := by simp only [bits, ← he, encC]; omega
  have h7 : bits e.ext 8 1 = d / 32 := bits_eq 0 0 (by simp only [← he, encC]; omega) (by omega) (by omega)
  have h8 : e.ext % 256 = 0 := by simp only [← he, encC]; omega
  rw [hmaj]
  simp [decFields, dec17, zero?, h1, h2, h3, h4, h5, h6, h7, h8, Nat.mod_add_div, hp]

theorem decodes_encR4 {c : Nat}
    (hi : ∀ w x, bits w 0 5 = op → x % 2 = 0 → bits w 20 5 + 32 * bits x 7 2 = d → bits w 15 5 + 32 * bits x 5 2 = a →
      bits w 10 5 + 32 * bits x 3 2 = b → bits w 5 5 + 32 * bits x 1 2 = c → dec12 w x = some i)
    (hd : d < 128 := by omega) (ha : a < 128 := by omega) (hb : b < 128 := by omega) (hc : c < 128 := by omega) (hop : op < 32 := by omega) : Decodes i (encR4 d a b c op) := by
  unfold Decodes
  generalize he : encR4 d a b c op = e
  have hmaj : bits e.word 25 6 = 18 := by simp only [bits, ← he, encR4]; omega
  have h1 : bits e.word 20 5 = d % 32 :=
    bits_eq 18 (a % 32 * 2 ^ 15 + b % 32 * 2 ^ 10 + c % 32 * 32 + op) (by simp only [← he, encR4]; omega) (by omega) (by omega)
  have h2 : bits e.word 15 5 = a % 32 :=
    bits_eq (18 * 2 ^ 5 + d % 32) (b % 32 * 2 ^ 10 + c % 32 * 32 + op) (by simp only [← he, encR4]; omega) (by omega) (by omega)
  have h3 : bits e.word 10 5 = b % 32 :=
    bits_eq (18 * 2 ^ 10 + d % 32 * 2 ^ 5 + a % 32) (c % 32 * 32 + op) (by simp only [← he, encR4]; omega) (by omega) (by omega)
  have h4 : bits e.word 5 5 = c % 32 :=
    bits_eq (18 * 2 ^ 15 + d % 32 * 2 ^ 10 + a % 32 * 2 ^ 5 + b % 32) op (by simp only [← he, encR4]; omega) (by omega) (by omega)
  have h5 : bits e.word 0 5 = op := by simp only [bits, ← he, encR4]; omega
  have h6 : bits e.ext 7 2 = d / 32 := bits_eq 0 (a / 32 * 32 + b / 32 * 8 + c / 32 * 2) (by simp only [← he, encR4]; omega) (by omega) (by omega)
  have h7 : bits e.ext 5 2 = a / 32 := bits_eq (d / 32) (b / 32 * 8 + c / 32 * 2) (by simp only [← he, encR4]; omega) (by omega) (by omega)
  have h8 : bits e.ext 3 2 = b / 32 := bits_eq (d / 32 * 4 + a / 32) (c / 32 * 2) (by simp only [← he, encR4]; omega) (by omega) (by omega)
  have h9 : bits e.ext 1 2 = c / 32 := bits_eq (d / 32 * 16 + a / 32 * 4 + b / 32) 0 (by simp only [← he, encR4]; omega) (by omega) (by omega)
  rw [hmaj]
  refine hi e.word e.ext h5 (by simp only [← he, encR4]; omega) (by omega) (by omega) (by omega) (by omega)

theorem decodes_encLoop {d : SReg} {n : Fin 1024} : Decodes (.loop d n) (encLoop d n) := by
  have he : encLoop d n = encR 9 d (n / 32) (n % 32) 2 0 := by
    simp only [encLoop, encR, EncWord.mk.injEq]
    omega
  have hk : bits (encLoop d n).word 10 10 = n := bits_eq (9 * 2 ^ 5 + d % 32) 32 (by simp only [encLoop]; omega) (by omega) (by omega)
  rw [he] at hk ⊢
  refine decodes_encR (dec := dec09) (fun _ _ => rfl) ?_
  have h : n.val / 32 < 32 ∧ n.val % 32 < 32 := by omega
  simp [dec09, md0, hk, h]

theorem bit_le (u : Bool) : bit u ≤ 1 := by cases u <;> decide

@[simp] theorem fields4_div (t r : Fin 4) : (t.val * 4 + r.val) / 4 = t := by omega
@[simp] theorem fields4_mod (t r : Fin 4) : (t.val * 4 + r.val) % 4 = r := by omega
@[simp] theorem fields8_div {n : Nat} (t : Fin n) (r : Fin 8) : (t.val * 8 + r.val) / 8 = t := by omega
@[simp] theorem fields8_mod {n : Nat} (t : Fin n) (r : Fin 8) : (t.val * 8 + r.val) % 8 = r := by omega

@[simp] theorem field4_mod (r : Fin 4) : r.val % 4 = r := Nat.mod_eq_of_lt r.isLt
@[simp] theorem field8_mod (r : Fin 8) : r.val % 8 = r := Nat.mod_eq_of_lt r.isLt
@[simp] theorem zero?_zero : zero? 0 = some () := rfl
@[simp] theorem fin?_zero {n : Nat} [NeZero n] : fin? n 0 = some 0 := fin?_eq_some.2 rfl

theorem flag_lt (u : Bool) (z : Fin 8) : 8 * bit u + z.val < 16 := by have := bit_le u; omega

/-- A register number read back, and the rest of the decoder after it. -/
theorem bind_val {α : Type} {n : Nat} {k : Fin n} {g : Fin n → Option α} {o : Option α} (h : g k = o) : (fin? n k.val).bind g = o := by
  rw [fin?_val, Option.bind_some, h]

/-! The operands of a shape of words, read back from their fields. -/

theorem mk3_val {f : SReg → SReg → SReg → Instr} {d a b : SReg} {op md : Nat} : mk3 f ⟨d, a, b, op, md⟩ = some (f d a b) := by simp [mk3]
theorem mk3u_val {f : SReg → SReg → SReg → Bool → Instr} {d a b : SReg} {u : Bool} {op : Nat} :
    mk3u f ⟨d, a, b, op, bit u⟩ = some (f d a b u) := by
  cases u <;> simp [mk3u, bit]
theorem mk2_val {f : SReg → SReg → Instr} {d a : SReg} {op md : Nat} : mk2 f ⟨d, a, 0, op, md⟩ = some (f d a) := by simp [mk2, zero?]
theorem mkD_val {f : SReg → Instr} {d : SReg} {op md : Nat} : mkD f ⟨d, 0, 0, op, md⟩ = some (f d) := by simp [mkD, zero?]
theorem mkA_val {f : SReg → Instr} {a : SReg} {op md : Nat} : mkA f ⟨0, a, 0, op, md⟩ = some (f a) := by simp [mkA, zero?]
theorem mkAB_val {f : SReg → SReg → Instr} {a b : SReg} {op md : Nat} : mkAB f ⟨0, a, b, op, md⟩ = some (f a b) := by simp [mkAB, zero?]
theorem mkV_val {ok : Nat → Bool} {f : VReg → VReg → VReg → Fin 16 → Instr} {d a b : VReg} {t : Fin 16} {op : Nat} (h : ok t = true) :
    mkV ok f ⟨d, a, b, op, t⟩ = some (f d a b t) := by
  simp [mkV, h]
theorem mkF_val {f : VReg → VReg → VReg → Fin 4 → Fin 4 → Instr} {d a b : VReg} {t r : Fin 4} {op : Nat} (h : t.val ≠ 3) :
    mkF f ⟨d, a, b, op, t * 4 + r⟩ = some (f d a b t r) := by
  simp only [mkF, fields4_div, fields4_mod, fin?_val, ne_eq, h, not_false_eq_true, if_true]
  rfl
theorem mkU_val {f : VReg → VReg → KReg → Fin 4 → Fin 4 → Instr} {d a : VReg} {k : KReg} {t r : Fin 4} {op : Nat} (h : t.val ≠ 3) :
    mkU f ⟨d, a, k, op, t * 4 + r⟩ = some (f d a k t r) := by
  simp only [mkU, fields4_div, fields4_mod, fin?_val, ne_eq, h, not_false_eq_true, if_true]
  rfl
theorem mkFn_val {f : VReg → VReg → VReg → Fin 4 → Instr} {d a b : VReg} {t : Fin 4} {op : Nat} (h : t.val ≠ 3) :
    mkFn f ⟨d, a, b, op, t * 4⟩ = some (f d a b t) := by
  simp [mkFn, h, zero?]
theorem mkUn_val {f : VReg → VReg → KReg → Fin 4 → Instr} {d a : VReg} {k : KReg} {t : Fin 4} {op : Nat} (h : t.val ≠ 3) :
    mkUn f ⟨d, a, k, op, t * 4⟩ = some (f d a k t) := by
  simp [mkUn, h, zero?]

/-- The form of its words decides every instruction: its fields hold its operands, and the major and the operation name it. -/
theorem decodes_encode {e : EncWord} (hw : i.wellFormed = true) (he : encode i = some e) : Decodes i e := by
  cases i with
  | add | sub | mul | and | or | xor | andn | sll | srl | sra | launch | fqpop | mstatClip | mtacc =>
    cases he; exact decodes_encR (fun _ _ => rfl) mk3_val
  | mulh _ _ _ u | div _ _ _ u | rem _ _ _ u | slt _ _ _ u | min _ _ _ u | max _ _ _ u | adds _ _ _ u | subs _ _ _ u =>
    cases he
    have := bit_le u
    exact decodes_encR (fun _ _ => rfl) mk3u_val
  | clz | ctz | popc | phuntil | join | grow | mcalRd | mdescRd | mucr | mstat | teth | tethown =>
    cases he; exact decodes_encR (fun _ _ => rfl) mk2_val
  | phase | phaseC | phleft | fqwait | mggetN | mmodeRd => cases he; exact decodes_encR (fun _ _ => rfl) mkD_val
  | jr | ret => cases he; exact decodes_encR (dec := dec09) (fun _ _ => rfl) mkA_val
  | spawn | tendj | ckpt | ctxkill | ctxrel | mgset | mmodeS | mmodeC | mcal | mcwait | mzero | cpyxAbort | binit | bwait | unteth | untethO =>
    cases he; exact decodes_encR (fun _ _ => rfl) mkA_val
  | rgsyncWb | rgsyncFill | rgsyncEvict | rgsyncDiscard | spawnt | mdescWr | mucw | ctabw | cpyxResume | bexp | bwaitPh =>
    cases he; exact decodes_encR (fun _ _ => rfl) mkAB_val
  | tlbinvAll | phreq | park | tend | rett | ctxsw | ctxswRel | mgarm | mgdrop | mcwaitAll | ctabc | untethA =>
    cases he; exact decodes_encR (fun _ _ => rfl) rfl
  | vadd | vadds | vsub | vsubs | vmul | vmulh | vmin | vmax | vand | vor | vxor | vsll | vsr =>
    cases he; exact decodes_encR (fun _ _ => rfl) (mkV_val hw)
  | vfadd | vfsub | vfmul | vfdiv | vfscl => cases he; exact decodes_encR (fun _ _ => rfl) (mkF_val (of_decide_eq_true hw))
  | vfsqrt | vfrsqrt => cases he; exact decodes_encR (fun _ _ => rfl) (mkU_val (of_decide_eq_true hw))
  | vfmin | vfmax | vfsgnj => cases he; exact decodes_encR (fun _ _ => rfl) (mkFn_val (of_decide_eq_true hw))
  | vfabs | vfneg => cases he; exact decodes_encR (fun _ _ => rfl) (mkUn_val (of_decide_eq_true hw))
  | vperm => cases he; exact decodes_encR (fun _ _ => rfl) (mkV_val (ok := fun t => tyReg t && 2 ≤ tyWidth t) hw)
  | shadd =>
    cases he
    simp only [Instr.wellFormed, decide_eq_true_eq] at hw
    exact decodes_encR (fun _ _ => rfl) (by simp [dec02, hw])
  | addi | andi | ori | xori | slti | sltiu | muli | seqi =>
    cases he; exact decodes_encI (dec := fun _ _ => dec03) (fun _ _ => rfl) fun _ _ => bind_val (bind_val rfl)
  | beq | bne | blt | bge | bltu | bgeu => cases he; exact decodes_encI (dec := fun _ _ => dec07) (fun _ _ => rfl) fun _ _ => bind_val (bind_val rfl)
  | ldScalar | stScalar | ldVector | stVector | ldw | stw | ldrec | strec =>
    cases he; exact decodes_encI (dec := fun _ _ => dec19) (fun _ _ => rfl) fun _ _ => bind_val (bind_val rfl)
  | ldf | ldfp | stf | tagrd | stfx => cases he; exact decodes_encI (dec := dec1B) (fun _ _ => rfl) fun _ _ => bind_val (bind_val rfl)
  | lui | adrb => cases he; exact decodes_encU fun _ _ => rfl
  | br => cases he; exact decodes_encJ false
  | call => cases he; exact decodes_encJ true
  | mcall => cases he; exact decodes_encC false (of_decide_eq_true hw)
  | mcallRty => cases he; exact decodes_encC true (of_decide_eq_true hw)
  | loop => cases he; exact decodes_encLoop
  | nop => cases he; rfl
  | slli _ _ n | srli _ _ n | srai _ _ n =>
    cases he
    refine decodes_encI12 (dec := dec06) (fun _ _ => rfl) fun w x h => ?_
    have h0 : bits n 6 6 = 0 := by simp only [bits]; omega
    have h1 : bits n 0 6 = n := by simp only [bits]; omega
    simp [dec06, h, h0, h1]
  | bfx _ _ l n =>
    cases he
    simp only [Instr.wellFormed, decide_eq_true_eq] at hw
    refine decodes_encI12 (dec := dec06) (fun _ _ => rfl) fun w x h => ?_
    have h0 : bits (l * 64 + n) 6 6 = l := by simp only [bits]; omega
    have h1 : bits (l * 64 + n) 0 6 = n := by simp only [bits]; omega
    simp [dec06, h, h0, h1, hw]
  | rdc _ n | rdcz _ n | setc _ _ n | clrc _ _ n | xchc _ _ n | addc _ _ n =>
    cases he
    simp only [Instr.wellFormed] at hw
    exact decodes_encI12 (dec := dec0B) (fun _ _ => rfl) fun w x h => by simp [dec0B, h, hw, zero?]
  | wrc _ n =>
    cases he
    simp only [Instr.wellFormed, Bool.and_eq_true] at hw
    refine decodes_encI12 (dec := dec0B) (fun _ _ => rfl) fun w x h => ?_
    have h0 : n.toNat ≠ 0x10 ∧ n.toNat ≠ 0x11 := by
      constructor <;> intro h <;> simp [h, ctrlOwnRow] at hw
    simp [dec0B, h, hw, zero?, decWrc, h0]
  | rdcr | writeCVl | writeCPri =>
    cases he
    exact decodes_encI12 (dec := dec0B) (fun _ _ => rfl) fun w x h => by simp [dec0B, h, zero?, decWrc]
  | callr => cases he; exact decodes_encR (dec := dec09) (fun _ _ => rfl) (bind_val (bind_val (bind_val rfl)))
  | kand | kor | kxor | kandn | tgetr | tputr => cases he; exact decodes_encR (fun _ _ => rfl) (bind_val (bind_val (bind_val rfl)))
  | kset | kcnt | kfind | tdef | ttrn | tcvt | mgoff | mgget | mpw | mpr | mdrainA | mdrainB | mrestA | mrestB =>
    cases he; exact decodes_encR (fun _ _ => rfl) (bind_val (bind_val rfl))
  | tzero | mdrainU | mrestU | tlbinvCtx | trap =>
    cases he; exact decodes_encR (fun _ _ => rfl) (by simp [dec15, dec18, dec0C, dec0F, md0, zero?])
  | ldScalarX | stScalarX | ldVectorX | stVectorX | ldwX | stwX | ldg | stg =>
    cases he; exact decodes_encR (fun _ _ => rfl) (bind_val (bind_val (bind_val (bind_val rfl))))
  | tlbinvPage _ _ z =>
    cases he
    refine decodes_encR (fun _ _ => rfl) ?_
    simp [dec0C, zero?]
    split
    · omega
    · omega
    · rfl
  | vcmp | vsplat | vmvs =>
    cases he
    simp only [Instr.wellFormed] at hw
    exact decodes_encR (fun _ _ => rfl) (by simp [dec10, hw, zero?])
  | vfcmp | vfsplat =>
    cases he
    have := of_decide_eq_true hw
    exact decodes_encR (fun _ _ => rfl) (by simp [dec11, this, zero?])
  | vsel _ _ _ m k =>
    cases he
    have h32 : fin? 128 (m.val * 8 + k) = some ⟨m * 8 + k, by omega⟩ := fin?_eq_some.2 rfl
    exact decodes_encR4 fun w x ho hx hd ha hb hc => by simp [dec12, ho, hx, hd, ha, hb, hc, h32, zero?]
  | vfmaF32 | vfnmaF32 | vfmaBf16 | vfmaF16 | vfmawBf16 =>
    cases he; exact decodes_encR4 fun w x ho hx hd ha hb hc => by simp [dec12, ho, hx, hd, ha, hb, hc, zero?]
  | vcvt _ _ _ t | vdqnt _ _ t =>
    cases he
    simp only [Instr.wellFormed, Bool.and_eq_true] at hw
    obtain ⟨f, hf⟩ : ∃ f : Fin 4, t.val / 4 = f := ⟨⟨t / 4, by omega⟩, rfl⟩
    obtain ⟨r, hr⟩ : ∃ r : Fin 4, t.val % 4 = r := ⟨⟨t % 4, by omega⟩, rfl⟩
    exact decodes_encR (fun _ _ => rfl) (by simp [dec13, hf, hr, hw, zero?])
  | vbmax _ _ _ t =>
    cases he
    simp [Instr.wellFormed] at hw
    have h4 : fin? 16 (t.val * 4) = some ⟨t * 4, by omega⟩ := fin?_eq_some.2 rfl
    exact decodes_encR (fun _ _ => rfl) (by simp [dec13, h4, hw])
  | vqnt _ _ _ t r | vhad _ _ t r =>
    cases he
    simp [Instr.wellFormed] at hw
    have h4 : fin? 16 (t.val * 4 + r) = some ⟨t * 4 + r, by omega⟩ := fin?_eq_some.2 rfl
    exact decodes_encR (fun _ _ => rfl) (by simp [dec13, h4, hw, zero?])
  | vbhdr => cases he; exact decodes_encR (fun _ _ => rfl) (by simp [dec13, zero?])
  | vfrnd _ _ _ t r | vfexp2 _ _ _ t r =>
    cases he
    have h4 : fin? 16 (t.val * 4 + r) = some ⟨t * 4 + r, by omega⟩ := fin?_eq_some.2 rfl
    exact decodes_encR (fun _ _ => rfl) (by simp [dec13, h4, mkU_val (of_decide_eq_true hw)])
  | vred _ _ o | vscan _ _ o =>
    cases he
    simp [Instr.wellFormed] at hw
    have ho : o.val < 3 := by omega
    exact decodes_encR (fun _ _ => rfl) (by simp [dec14, hw, ho])
  | vslideup | vslidedn | vidx =>
    cases he
    simp only [Instr.wellFormed] at hw
    exact decodes_encR (fun _ _ => rfl) (by simp [dec14, hw, zero?])
  | tagwF | tagwE => cases he; exact decodes_encI12 (dec := dec1B) (fun _ _ => rfl) fun w x h => by simp [dec1B, h]
  | racqW _ n | rrelW n =>
    cases he
    have h0 : zero? (n.val / 32) = some () := by rw [zero?_eq_some]; omega
    have h1 : n.val / 16 ≠ 1 ∧ n.val % 16 = n := by omega
    exact decodes_encI12 (dec := dec1B) (fun _ _ => rfl) fun w x h => by simp [dec1B, h, h0, h1]
  | racqR _ n | rrelR n =>
    cases he
    have h0 : zero? ((16 + n.val) / 32) = some () := by rw [zero?_eq_some]; omega
    have h1 : (16 + n.val) / 16 = 1 ∧ (16 + n.val) % 16 = n := by omega
    exact decodes_encI12 (dec := dec1B) (fun _ _ => rfl) fun w x h => by simp only [dec1B, h, h0, h1, fin?_val, zero?_zero, Option.bind_eq_bind, Option.bind_some, if_true]
  | cpy _ _ _ f | cpyg _ f | cpyc f | cpyxStat _ f =>
    cases he
    cases f <;> exact decodes_encR (fun _ _ => rfl) (by simp [dec1C, bit, zero?]) (hmd := by decide)
  | cpyr f z =>
    cases he
    have hz : z.val < 8 := by omega
    have h3 : z.val < 3 := by
      have : z.val ≠ 3 := of_decide_eq_true hw
      omega
    exact decodes_encR (fun _ _ => rfl) (by simp [dec1C, zero?, flag_mod f hz, flag_div f hz, h3]) (hmd := flag_lt f ⟨z, hz⟩)
  | cpys _ _ f z =>
    cases he
    simp [Instr.wellFormed] at hw
    exact decodes_encR (fun _ _ => rfl) (by simp [dec1C, zero?, flag_mod f z.isLt, flag_div f z.isLt, hw]) (hmd := flag_lt f z)
  | recw | recr =>
    cases he
    simp [Instr.wellFormed] at hw
    exact decodes_encR (fun _ _ => rfl) (by simp [dec1C, zero?, hw])
  | xfer _ _ _ f z | xsig _ _ f z =>
    cases he
    simp [Instr.wellFormed] at hw
    exact decodes_encR (fun _ _ => rfl) (by simp [dec1D, zero?, flag_mod f z.isLt, flag_div f z.isLt, hw]) (hmd := flag_lt f z)
  | xredAdd | xredMax | xredMin =>
    cases he
    simp only [Instr.wellFormed] at hw
    exact decodes_encR (fun _ _ => rfl) (by simp [dec1D, hw])
  | aadd _ _ _ f z | aand _ _ _ f z | aor _ _ _ f z | axch _ _ _ f z | amax _ _ _ f z | amin _ _ _ f z | acas _ _ _ f z | ald _ _ f z =>
    cases he
    simp [Instr.wellFormed] at hw
    exact decodes_encR (fun _ _ => rfl) (by simp [dec1E, zero?, flag_mod f z.isLt, flag_div f z.isLt, hw]) (hmd := flag_lt f z)
  | ast _ _ f z =>
    cases he
    simp [Instr.wellFormed] at hw
    exact decodes_encR (fun _ _ => rfl) (by simp [dec1F, zero?, flag_mod f z.isLt, flag_div f z.isLt, hw]) (hmd := flag_lt f z)
  | barv _ _ _ z | mwaitGe _ _ _ z | mwaitNe _ _ _ z | drain z | drainE z | fence z =>
    cases he
    simp [Instr.wellFormed] at hw
    have h1 : z.val / 8 = 0 := by omega
    have h2 : (8 + z.val) / 8 = 1 := by omega
    exact decodes_encR (fun _ _ => rfl) (by simp [dec1F, zero?, hw, h1, h2])
  | lkacq _ _ z | lkacqTry _ _ z | lkrel _ z =>
    cases he
    simp [Instr.wellFormed] at hw
    have h1 : z.val / 8 = 0 := by omega
    have h2 : (8 + z.val) / 8 = 1 := by omega
    exact decodes_encR (fun _ _ => rfl) (by simp [dec20, zero?, hw, h1, h2])
  | _ => cases he
end

/-- Every word and extension of an instruction decode to it, in a slot of its class (R36). -/
theorem slotWordsDecode_holds : slotWordsDecode := fun _ _ _ hw he hc => decodeSlot_eq_ok.2 ⟨hc, decodes_encode hw he⟩

end Sys2Proof.Proofs
end

section
/-!
PROOFS. The words of micro-operations (R266, R496): a word is its operation, LAST, CONS and its fields, one under the other. Settles O3.
-/
namespace Sys2Proof.Proofs
open Machine

/-- A word made of fields: each is its lowest bit, its width and its value. -/
def packed : List (Nat × Nat × Nat) → Nat
  | [] => 0
  | (lo, _, x) :: fs => x * 2 ^ lo + packed fs

/-- The fields lie below bit `top`, one under the other, and hold their values. -/
def Fits : Nat → List (Nat × Nat × Nat) → Prop
  | _, [] => True
  | top, (lo, n, x) :: fs => lo + n ≤ top ∧ x < 2 ^ n ∧ Fits lo fs

theorem packed_lt : ∀ {fs : List (Nat × Nat × Nat)} {top : Nat}, Fits top fs → packed fs < 2 ^ top
  | [], _, _ => Nat.two_pow_pos _
  | (lo, n, x) :: fs, top, ⟨ht, hx, h⟩ => by
    have h1 := packed_lt h
    calc x * 2 ^ lo + packed fs < x * 2 ^ lo + 2 ^ lo := by omega
      _ = (x + 1) * 2 ^ lo := by ring
      _ ≤ 2 ^ n * 2 ^ lo := Nat.mul_le_mul_right _ hx
      _ = 2 ^ (lo + n) := by rw [Nat.pow_add, Nat.mul_comm]
      _ ≤ 2 ^ top := Nat.pow_le_pow_right (by decide) ht

theorem Fits.le : ∀ {fs : List (Nat × Nat × Nat)} {top : Nat}, Fits top fs → ∀ f ∈ fs, f.1 + f.2.1 ≤ top
  | _ :: _, _, ⟨ht, _, h⟩, _, hf => by
    rcases List.mem_cons.1 hf with rfl | hf
    · exact ht
    · have := h.le _ hf
      omega

/-- What stands above a field does not change it. -/
theorem bits_add_above {lo n top : Nat} (h : lo + n ≤ top) (x v : Nat) : bits (x * 2 ^ top + v) lo n = bits v lo n := by
  obtain ⟨k, rfl⟩ := Nat.exists_eq_add_of_le h
  have e : x * 2 ^ (lo + n + k) + v = 2 ^ lo * (2 ^ n * (x * 2 ^ k)) + v := by
    rw [Nat.pow_add, Nat.pow_add]
    ring
  rw [bits, bits, e, Nat.mul_add_div (Nat.two_pow_pos lo), Nat.mul_add_mod]

theorem bits_packed : ∀ {fs : List (Nat × Nat × Nat)} {top : Nat}, Fits top fs → ∀ f ∈ fs, bits (packed fs) f.1 f.2.1 = f.2.2
  | (lo, n, x) :: fs, _, ⟨_, hx, h⟩, _, hf => by
    rcases List.mem_cons.1 hf with rfl | hf
    · exact bits_eq 0 (packed fs) (by simp [packed]) (packed_lt h) hx
    · rw [packed, bits_add_above (h.le _ hf), bits_packed h _ hf]

theorem bits_of_low {w v lo n top : Nat} (h : bits w 0 top = v) (hl : lo + n ≤ top) : bits w lo n = bits v lo n := by
  conv_lhs => rw [← Nat.div_add_mod' w (2 ^ top)]
  rw [bits_add_above hl, ← h, bits, bits, bits, Nat.pow_zero, Nat.div_one]

/-- A word whose low 58 bits are the fields of `fs` holds them, and nothing else. -/
theorem onlyFields_of_packed {w : Nat} {fs : List (Nat × Nat × Nat)} (h : Fits 58 fs) (hw : bits w 0 58 = packed fs) :
    (∀ f ∈ fs, bits w f.1 f.2.1 = f.2.2) ∧ onlyFields w (fs.map fun f => (f.1, f.2.1)) = true := by
  have hf : ∀ f ∈ fs, bits w f.1 f.2.1 = f.2.2 := fun f hf => by rw [bits_of_low hw (h.le f hf), bits_packed h f hf]
  refine ⟨hf, ?_⟩
  have hs : ∀ gs : List (Nat × Nat × Nat), (∀ f ∈ gs, bits w f.1 f.2.1 = f.2.2) →
      ((gs.map fun f => (f.1, f.2.1)).map fun p => bits w p.1 p.2 * 2 ^ p.1).sum = packed gs := by
    intro gs
    induction gs with
    | nil => intro; rfl
    | cons f gs ih =>
      intro hg
      simp only [List.map_cons, List.sum_cons, packed, hg f (List.mem_cons_self ..), ih fun f hf => hg f (List.mem_cons_of_mem _ hf)]
  rw [onlyFields, hw, hs fs hf, beq_self_eq_true]

/-- The operation, LAST and CONS of a word, and what stands below them. -/
theorem microWord_parts {op v : Nat} (ho : op < 16) (hv : v < 2 ^ 58) (last cons : Bool) :
    let w := (BitVec.ofNat 64 (op * 2 ^ 60 + (if last then 2 ^ 59 else 0) + (if cons then 2 ^ 58 else 0) + v)).toNat
    bits w 60 4 = op ∧ (bits w 59 1 == 1) = last ∧ (bits w 58 1 == 1) = cons ∧ bits w 0 58 = v := by
  intro w
  have hl : (if last then 2 ^ 59 else 0) = bit last * 2 ^ 59 := by cases last <;> rfl
  have hc : (if cons then 2 ^ 58 else 0) = bit cons * 2 ^ 58 := by cases cons <;> rfl
  have bl := bit_le last
  have bc := bit_le cons
  have hw : w = op * 2 ^ 60 + bit last * 2 ^ 59 + bit cons * 2 ^ 58 + v := by
    simp only [w, hl, hc, BitVec.toNat_ofNat]
    exact Nat.mod_eq_of_lt (by omega)
  clear_value w
  have hb : bits w 60 4 = op ∧ bits w 59 1 = bit last ∧ bits w 58 1 = bit cons ∧ bits w 0 58 = v :=
    ⟨bits_eq 0 (bit last * 2 ^ 59 + bit cons * 2 ^ 58 + v) (by rw [hw]; ring) (by omega) (by omega),
      bits_eq op (bit cons * 2 ^ 58 + v) (by rw [hw]; ring) (by omega) (by omega),
      bits_eq (op * 2 + bit last) v (by rw [hw]; ring) (by omega) (by omega),
      bits_eq (op * 4 + bit last * 2 + bit cons) 0 (by rw [hw]; ring) (by omega) (by omega)⟩
  obtain ⟨h60, h59, h58, hv⟩ := hb
  exact ⟨h60, by rw [h59, bit_beq], by rw [h58, bit_beq], hv⟩

/-- The fields of a micro-operation's word below its CONS bit (R266, R496). -/
def microFields : MicroOp → List (Nat × Nat × Nat)
  | .unop => []
  | .uldi x i => [(55, 3, x), (0, 32, i.toNat)]
  | .uldm x m h p g => [(55, 3, x), (52, 3, m), (51, 1, bit h), (45, 6, p), (39, 6, g)]
  | .uadd x y i => [(55, 3, x), (52, 3, y), (0, 24, i.toNat)]
  | .ulc k y => [(56, 2, k), (52, 3, y)]
  | .ubr c k y t => [(56, 2, c), (54, 2, k), (51, 3, y), (0, 13, t)]
  | .ufeed sl y z q t ind w => [(55, 3, sl), (52, 3, y), (49, 3, z), (47, 2, q), (43, 4, t), (42, 1, bit ind), (39, 3, w)]
  | .upass x y z nm fan set nort ind w =>
    [(55, 3, x), (52, 3, y), (49, 3, z), (43, 6, nm), (41, 2, fan), (40, 1, bit set), (39, 1, bit nort), (38, 1, bit ind), (35, 3, w)]
  | .uzero x y => [(55, 3, x), (52, 3, y)]
  | .uout x y z t bnd ind w => [(55, 3, x), (52, 3, y), (49, 3, z), (45, 4, t), (44, 1, bit bnd), (43, 1, bit ind), (40, 3, w)]
  | .uwin y => [(52, 3, y)]
  | .uspl y => [(52, 3, y)]
  | .ucal x y z => [(55, 3, x), (52, 3, y), (49, 3, z)]
  | .ustat x i => [(55, 3, x), (0, 8, i.toNat)]

/-- The number of a micro-operation. -/
def microCode : MicroOp → Nat
  | .unop => 0 | .uldi .. => 1 | .uldm .. => 2 | .uadd .. => 3 | .ulc .. => 4 | .ubr .. => 5 | .ufeed .. => 6 | .upass .. => 7
  | .uzero .. => 8 | .uout .. => 9 | .uwin .. => 10 | .uspl .. => 11 | .ucal .. => 12 | .ustat .. => 13

theorem microFields_fit (o : MicroOp) : Fits 58 (microFields o) := by
  cases o <;> simp [microFields, Fits, bit_le] <;> omega

theorem ite_pow_eq (u : Bool) (k : Nat) : (if u then 2 ^ k else 0) = bit u * 2 ^ k := by cases u <;> simp [bit]

theorem encodeMicro_eq (o : MicroOp) (last cons : Bool) : encodeMicro o last cons =
    BitVec.ofNat 64 (microCode o * 2 ^ 60 + (if last then 2 ^ 59 else 0) + (if cons then 2 ^ 58 else 0) + packed (microFields o)) := by
  cases o <;> simp only [encodeMicro, microCode, microFields, packed, ite_pow_eq, zero_mul, zero_add, add_zero, add_assoc, pow_zero, mul_one]

theorem microCode_lt (o : MicroOp) : microCode o < 16 := by cases o <;> simp [microCode]

theorem microWordsDecode_holds : microWordsDecode := by
  intro o last cons hwf
  rw [encodeMicro_eq]
  have hfit := microFields_fit o
  have hparts := microWord_parts (microCode_lt o) (packed_lt hfit) last cons
  generalize BitVec.ofNat 64 _ = w at hparts ⊢
  obtain ⟨h60, h59, h58, h0⟩ := hparts
  obtain ⟨hf, ho⟩ := onlyFields_of_packed hfit h0
  clear hfit h0
  cases o with
  | ufeed sl y z q t ind k =>
    have hq : q.val ≠ 3 := by simp [MicroOp.wellFormed] at hwf; omega
    simp only [microFields, microCode, List.forall_mem_cons, List.map_cons, List.map_nil] at hf ho h60
    simp [decodeMicro, h60, h59, h58, ho, mf, hf, hq, hwf, bit_beq]
  | _ =>
    simp only [microFields, microCode, List.forall_mem_cons, List.map_cons, List.map_nil] at hf ho h60
    simp [decodeMicro, h60, h59, h58, ho, mf, hf, hwf, bit_beq]

/-- Settles O3: a field of the word is a digit of it, so the decoder reads back what the encoder put in; a slot's word form by form, a micro-word field by field. -/
theorem decodeOfEncode : Obligations.DecodeOfEncode := ⟨slotWordsDecode_holds, microWordsDecode_holds⟩

end Sys2Proof.Proofs
end

section
/-!
PROOFS. What a step runs (R38, R39, R52, R169, R265, R348): the group of a ready task whose bundle is in hand, the micro-word of a running call,
an event. Settles O4.
-/
namespace Sys2Proof.Proofs
open Machine Laws

theorem posts_eq_nil {t : Task} (h : t.posting = false) : t.posts = [] := by
  simp only [Task.posting, List.any_eq_false] at h
  simp only [Task.posts, List.filter_eq_nil_iff]
  intro r hr
  apply h
  split at hr
  · exact List.mem_append_right _ hr
  · exact hr

theorem repost_of_posts_nil {s : State} {t : Task} (h : t.posts = []) : s.repost t = (s, t) := by rw [State.repost, h]; rfl

theorem postFault_of_posts_nil {s : State} {t : Task} (h : t.posts = []) : s.postFault t = none := by rw [State.postFault, h]; rfl

theorem prepare_of_unhindered {s : State} {t : Task} (h : Unhindered t) : s.prepare t = ({ s with slot := t.slot } : State).fetchAt t := by
  obtain ⟨-, -, hpend, hinv, -, hpost⟩ := h
  have hp := posts_eq_nil hpost
  simp only [State.prepare, repost_of_posts_nil hp, hpend, postFault_of_posts_nil hp, hinv]

theorem setLive_setLive (s : State) (t t' : Task) : (s.setLive t).setLive t' = s.setLive t' := by
  have hc : ((s.setLive t).core s.cur).cbank = (s.core s.cur).cbank := setBank_cbank s s.cur s.cur _ _
  rw [State.setLive, setLive_cur, hc]
  simp [State.setLive, State.setBank, State.modCore, State.setCore, State.core]

theorem readBeat_slot (s : State) (k : Fin 4) (pa : Nat) : ({ s with slot := k } : State).readBeat pa = { s.readBeat pa with slot := k } := by
  unfold State.readBeat
  split <;> rfl

theorem countFetch_slot (s : State) (t : Task) (k : Fin 4) : ({ s with slot := k } : State).countFetch t = { s.countFetch t with slot := k } := by
  unfold State.countFetch
  split <;> rfl

theorem moveFetch_slot (s : State) (t : Task) (k : Fin 4) (pa : Nat) :
    ({ s with slot := k } : State).moveFetch t pa = { s.moveFetch t pa with slot := k } := by
  unfold State.moveFetch
  split
  · rfl
  · rw [readBeat_slot]
    rfl

theorem decodeAt_of_ok {s : State} {t : Task} {bun : BitVec 128} {entered : Bool} {l : List Slot} (hd : decodeBundle bun = .ok l)
    (hk : entered = true ∨ t.ctl.bkpt.getLsbD 0 = false) :
    let t2 : Task := { t with skipBkpt := false, slot := firstSlot l t.slot }
    s.decodeAt t bun entered = .go (({ s with slot := t2.slot } : State).setLive t2) t2 l := by
  unfold State.decodeAt
  rw [if_neg (by obtain rfl | hk := hk <;> simp_all), hd]

/-- The bundle in hand decodes: the task's next group is of it, and the state is that of the fetch (R169). -/
theorem fetchAt_of_inHand {s r : State} {t : Task} {bun : BitVec 128} {l : List Slot} (h : bundleInHand s t bun r) (hd : decodeBundle bun = .ok l) :
    let t2 : Task := { t with bundle := some bun, skipBkpt := false, slot := firstSlot l t.slot }
    ({ s with slot := t.slot } : State).fetchAt t = .go (({ r with slot := t2.slot } : State).setLive t2) t2 l := by
  intro t2
  obtain ⟨hb, rfl⟩ | ⟨hb, hk, hf, pa, hc, rfl, rfl⟩ := h
  · have ht : { t with bundle := some bun } = t := by rw [← hb]
    unfold State.fetchAt
    rw [hb]
    exact (decodeAt_of_ok hd (.inl rfl)).trans (by rw [← ht])
  · let t1 : Task := { t with bundle := some (BitVec.ofNat 128 (s.dev.dram.num pa 16)) }
    have e : ({ s with slot := t.slot } : State).fetchAt t
        = (((({ s with slot := t.slot } : State).countFetch t).moveFetch t pa).setLive t1).decodeAt t1 (t1.bundle.getD 0) false := by
      unfold State.fetchAt
      rw [hb]
      dsimp only
      rw [show (({ s with slot := t.slot } : State).core s.cur).fetchOf t.tid (t.pc.toNat / 64 * 64) = none from hf]
      dsimp only
      rw [show ({ s with slot := t.slot } : State).codeAt s.cur (({ s with slot := t.slot } : State).cctx t).asn t.pc.toNat = some pa from hc]
      rfl
    have hd1 : decodeBundle (t1.bundle.getD 0) = .ok l := hd
    rw [e, countFetch_slot, moveFetch_slot, decodeAt_of_ok (t := t1) hd1 (.inr hk)]
    exact congrArg (fun q => Prep.go q t2 l) (setLive_setLive ({ (s.countFetch t).moveFetch t pa with slot := t2.slot } : State) t1 t2)

theorem thawOnIssue_of_not_thaws {s : State} {t : Task} (h : t.thaws = false) : s.thawOnIssue t = (s, t) := by simp [State.thawOnIssue, h]

/-- The turn of a core whose running task is ready is that task's (R348). -/
theorem coreTurn_of_ready {s : State} {t : Task} (hp : s.dev.power = .running) (ha : (s.core s.cur).avail = true)
    (hr : (s.core s.cur).running = true) (hy : (s.core s.cur).yield = false) (hl : s.live = some t) (hm : t.mayIssue = true)
    (hw : t.waiting = none) : s.coreTurn s.cur = s.runTask := by
  unfold State.coreTurn
  dsimp only
  rw [if_neg (by simp [hp, ha]), hl]
  exact if_pos (by simp [hr, hy, hm, hw])

theorem bundleInHand_cur {s r : State} {t : Task} {bun : BitVec 128} (h : bundleInHand s t bun r) : r.cur = s.cur := by
  obtain ⟨-, rfl⟩ | ⟨-, -, -, pa, -, -, rfl⟩ := h
  · rfl
  · unfold State.moveFetch State.countFetch State.readBeat
    split
    · rfl
    · split <;> rfl

/-- Nothing hinders the task: its turn is the group that follows in the bundle in hand. -/
theorem runTask_of_inHand {s r : State} {t : Task} {bun : BitVec 128} {l : List Slot} (hl : s.live = some t) (hu : Unhindered t)
    (h : bundleInHand s t bun r) (hd : decodeBundle bun = .ok l) :
    let t2 : Task := { t with bundle := some bun, skipBkpt := false, slot := firstSlot l t.slot }
    s.runTask = (({ r with slot := t2.slot } : State).setLive t2).charged t2
      fun q => chargeGroup t2 s.cur (groupOccupancy t2 (groupAt l t2.slot)) (q.runGroup t2 l (groupAt l t2.slot)) := by
  intro t2
  have hp := (prepare_of_unhindered (s := s) hu).trans (fetchAt_of_inHand h hd)
  obtain ⟨-, himg, -, -, ht, -⟩ := hu
  have he : { t with image := 0 } = t := by rw [← himg]
  unfold State.runTask
  rw [hl]
  dsimp only
  rw [if_pos himg]
  dsimp only
  rw [he, hp]
  dsimp only
  rw [thawOnIssue_of_not_thaws (t := t2) ht]

theorem lookAhead_of_not_ald {s : State} {t : Task} {l g : List Slot} {p : Slot} (hg : g = [p]) (h : ∀ d a w z, p.instr ≠ .ald d a w z) (o : Out) :
    s.lookAhead t l g o = o := by
  subst hg
  unfold State.lookAhead
  split
  · split
    next e _ _ =>
      cases e
      split
      next e _ => exact absurd e (h _ _ _ _)
      · rfl
    · rfl
  · rfl

/-- A group of one instruction issues it alone, with what a load may send ahead of it (R39, R401). -/
theorem runGroup_singleton {s : State} {t : Task} {l : List Slot} {p : Slot} (hi : (s.core s.cur).interlocked t [p.instr] = false)
    (hp : t.posting = false) :
    s.runGroup t l [p] = s.lookAhead t l [p] (advanceOut l [p] (exec p.instr { s with slot := Fin.ofNat 4 p.slot, joint := false })) := by
  unfold State.runGroup
  simp [hi, hp, State.runOne, State.slotActs]

theorem groupsRun_holds : groupsRun := by
  intro s r n ts t bun l g hts s1 hpow hav hrun hy hl hm hu hb hd hg t2 s2 run
  obtain ⟨hwait, -, -, -, -, hposting⟩ := id hu
  have hstep : step s = settled (s1.runTask) := by
    unfold step
    rw [hts]
    exact congrArg settled (coreTurn_of_ready (s := s1) hpow hav hrun hy hl hm hwait)
  have hcur : s1.cur = n := rfl
  refine ⟨?_, ?_⟩
  · rw [hstep, runTask_of_inHand hl hu hb hd, hcur, ← hg]
    rfl
  · intro p q hp hq hi alone
    have hc : q.cur = n := by
      have h2 : s2.cur = n := bundleInHand_cur hb
      obtain rfl | rfl := hq
      · exact h2
      · exact h2
    subst hp
    have e := runGroup_singleton (t := t2) (l := l) (hc ▸ hi) hposting
    exact ⟨e, fun hn => e.trans (lookAhead_of_not_ald rfl hn _)⟩

theorem unitTurn_of_beforeWord {s s' : State} {w : MicroWord} (hp : s.dev.power = .running) (ha : (s.core s.cur).avail = true)
    (hw : s.beforeWord = some (.inr (s', w))) : s.unitTurn s.cur = endWord w (exec w.op.instr s') := by
  unfold State.unitTurn
  dsimp only
  rw [if_neg (by simp [hp, ha]), hw]

theorem unitsAndEventsRun_holds : unitsAndEventsRun := by
  refine ⟨?_, ?_⟩
  · intro s s' n ts w hts s1 hp ha hw
    unfold step
    rw [hts]
    exact congrArg settled (unitTurn_of_beforeWord (s := s1) hp ha hw)
  · intro s e on ts hts he hp
    unfold step
    rw [hts]
    refine congrArg settled ?_
    unfold State.eventTurn
    rw [if_pos (by simp [he, hp])]

/-- Settles O4: the turn at the head of the list is followed down to what it runs. -/
theorem stepRunsTheDecoded : Obligations.StepRunsTheDecoded := ⟨groupsRun_holds, unitsAndEventsRun_holds⟩

end Sys2Proof.Proofs
end

section
/-!
PROOFS. What an instruction, a group and a turn answer (R39, R52, R265, R348; log entry 93): a next state, whatever the state. Settles O5.
-/
namespace Sys2Proof.Proofs
open Machine Laws

/-! ## What an instruction answers -/

/-- The machine goes on. -/
def GoesOn (o : Out) : Prop := ∃ s', o = .next s'

/-- The operations of a matrix unit's micro-words (R266). -/
def isMicro : Instr → Bool
  | .unop | .uldi | .uldm | .uadd | .ulc | .ubr | .ufeed | .upass | .uzero | .uout | .uwin | .uspl | .ucal | .ustat => true
  | _ => false

/-- The instructions of slots: neither a micro-operation nor an event. -/
def isSlot (i : Instr) : Bool := !isMicro i && !i.isEvent

/-- An instruction is a micro-operation, or an event, which has a next state whether it can happen or not (log entry 93), or it issues for the live task. -/
theorem exec_cases (i : Instr) (s : State) : isMicro i = true ∨ (i.isEvent = true ∧ GoesOn (exec i s)) ∨
    (i.isEvent = false ∧ ∃ f, exec i s = issue s f) := by
  cases i with
  | unop | uldi | uldm | uadd | ulc | ubr | ufeed | upass | uzero | uout | uwin | uspl | ucal | ustat => exact .inl rfl
  | instructionFetch | bundleDecode | effRecompute | untetheredRetest | monitorNotify | commandActivate | granuleDeliver | pageWalk
    | regionFill | writeBack | windowAccess | sliceAccess | routerMerge | reductionApply | remoteAtomic | jobCompletionStamp | callStart
    | mtaccMember | calibrationStart | calibrationEnd | temperatureSample | ageStep | powerLimitExceeded | computeClose | exchangeClose
    | computeBudgetExpiry | exchangeBudgetExpiry | truncation | dispatch | preemptionRequest | teamStart | stealRequest | stealAnswer
    | launchPacket | deviceCtxsw | contextRestore | uncorrectableError | rdmaWrite | rdmaRead | send | invalidRequest | ceMarkedPacket
    | cnp | rateRecovery | doorbell | workRequestWrite | workRequestRead | workRequestSend | peerWrite | peerReduce | peerLaunch
    | workRequestEnd | dataFrame | acknowledgementFrame | replayRequest | idleFrame | hello | readStartUpReport | retryStart | resetRequest
    | setModuleNumber | setQueuePairTableBase | requestBankRetirement | readMeterPage | readMonitor | writeFlashImage | commitFlashImage
    | powerOn | modulePowerWithinLimit | opNotKnown | corruptFrame =>
    exact .inr (.inl ⟨rfl, _, rfl⟩)
  | _ => exact .inr (.inr ⟨rfl, _, rfl⟩)

theorem goesOn_exec_slot {i : Instr} {s : State} (h : isSlot i = true) (hl : s.live.isSome = true) : GoesOn (exec i s) := by
  simp only [isSlot, Bool.and_eq_true, Bool.not_eq_true'] at h
  rcases exec_cases i s with hm | ⟨he, -⟩ | ⟨-, f, hf⟩
  · exact absurd (h.1.symm.trans hm) Bool.false_ne_true
  · exact absurd (h.2.symm.trans he) Bool.false_ne_true
  · rw [hf]
    exact (issue_next_iff s f).2 hl

theorem isMicro_of_isEvent {e : Instr} (h : e.isEvent = true) : isMicro e = false := by
  cases e with
  | unop | uldi | uldm | uadd | ulc | ubr | ufeed | upass | uzero | uout | uwin | uspl | ucal | ustat => cases h
  | _ => rfl

theorem goesOn_exec_event {e : Instr} (h : e.isEvent = true) (s : State) : GoesOn (exec e s) := by
  rcases exec_cases e s with hm | ⟨-, he⟩ | ⟨hn, -⟩
  · exact absurd ((isMicro_of_isEvent h).symm.trans hm) Bool.false_ne_true
  · exact he
  · exact absurd (hn.symm.trans h) Bool.false_ne_true

theorem modRun_running (s : State) (f : Call → Call) : (s.modRun f).unit.running = s.unit.running.map f := by
  simp [State.modRun, State.unit, State.modUnit]

theorem goesOn_micro {s : State} {f : Call → MicroOp → Option MAct} {k : Call} {o : MicroOp} (hr : s.unit.running = some k)
    (hw : k.word = some o) (hf : (f k o).isSome = true) : GoesOn (micro s f) := by
  obtain ⟨a, ha⟩ := Option.isSome_iff_exists.1 hf
  unfold micro
  rw [hr, Option.bind_some, hw, Option.bind_some, ha]
  cases a <;> exact ⟨_, rfl⟩

/-- The unit that runs a call at a micro-word performs the word, holds it, or stops the call. -/
theorem goesOn_exec_micro {s : State} {k : Call} {o : MicroOp} (hr : s.unit.running = some k) (hw : k.word = some o) :
    GoesOn (exec o.instr s) := by
  cases o with
  | ubr c n y t =>
    refine goesOn_micro hr hw ?_
    dsimp only
    split <;> split <;> rfl
  | _ => exact goesOn_micro hr hw rfl

theorem beforeWord_word {s s' : State} {w : MicroWord} (h : s.beforeWord = some (.inr (s', w))) :
    ∃ k, s'.unit.running = some k ∧ k.word = some w.op := by
  unfold State.beforeWord at h
  split at h
  · cases h
  next k hk =>
    split at h
    · cases h
    split at h
    · cases h
    split at h
    · cases h
    split at h <;> cases h
    exact ⟨{ k with word := some w.op, fault := none, nextPc := none }, by rw [modRun_running, hk]; rfl, rfl⟩

theorem goesOn_settled {o : Out} (h : GoesOn o) : GoesOn (settled o) := by
  obtain ⟨s', rfl⟩ := h
  exact ⟨_, rfl⟩

theorem goesOn_unitTurn (s : State) (n : CoreId) : GoesOn (s.unitTurn n) := by
  unfold State.unitTurn
  dsimp only
  split
  · exact ⟨_, rfl⟩
  split
  · exact ⟨_, rfl⟩
  · exact ⟨_, rfl⟩
  next s' w hw =>
    obtain ⟨k, hr, hk⟩ := beforeWord_word hw
    obtain ⟨r, hr⟩ := goesOn_exec_micro hr hk
    rw [hr]
    exact ⟨_, rfl⟩

theorem goesOn_eventTurn (s : State) (e : Instr) (on : Subject) : GoesOn (s.eventTurn e on) := by
  unfold State.eventTurn
  split
  next h => exact goesOn_exec_event (Bool.and_eq_true_iff.1 h).1 _
  · exact ⟨_, rfl⟩

/-! ## A group -/

/-- Every slot of the list holds an instruction of a slot. -/
def SlotsOnly (l : List Slot) : Prop := ∀ p ∈ l, isSlot p.instr = true

theorem goesOn_slotActs {s : State} {p : Slot} (hp : isSlot p.instr = true) (hl : s.live.isSome = true) : GoesOn (s.slotActs p) :=
  goesOn_exec_slot hp hl

theorem goesOn_advanceOut {l g : List Slot} {o : Out} (h : GoesOn o) : GoesOn (advanceOut l g o) := by
  obtain ⟨s', rfl⟩ := h
  exact ⟨_, rfl⟩

theorem groupActs_ok {s : State} (hl : s.live.isSome = true) {g : List Slot} (hg : SlotsOnly g) : ∃ l, s.groupActs g = .ok l := by
  induction g with
  | nil => exact ⟨[], rfl⟩
  | cons p ps ih =>
    obtain ⟨s', hs⟩ := goesOn_slotActs (hg p (List.mem_cons_self ..)) hl
    obtain ⟨l, h⟩ := ih fun q hq => hg q (List.mem_cons_of_mem _ hq)
    exact ⟨(p, s') :: l, by rw [State.groupActs, hs, h]⟩

theorem goesOn_actsOn {s0 s : State} {p : Slot} (hp : isSlot p.instr = true) (hl : s.live.isSome = true) : GoesOn (s0.actsOn s p) := by
  unfold State.actsOn
  split
  · exact (issue_next_iff _ _).2 hl
  · exact goesOn_slotActs hp hl

theorem goesOn_performGroup (s0 : State) (t : Task) {g : List Slot} (hg : SlotsOnly g) (s : State) (f : Flow) : GoesOn (s0.performGroup t s f g) := by
  induction g generalizing s f with
  | nil => exact ⟨_, rfl⟩
  | cons p ps ih =>
    have hps : SlotsOnly ps := fun q hq => hg q (List.mem_cons_of_mem _ hq)
    unfold State.performGroup
    split
    · exact ⟨_, rfl⟩
    next hl =>
      obtain ⟨s', hs⟩ := goesOn_actsOn (s0 := s0) (hg p (List.mem_cons_self ..)) (s := s) (by simpa [Option.isSome_iff_ne_none] using hl)
      rw [hs]
      dsimp only
      split
      · exact ⟨_, rfl⟩
      · split
        · exact ⟨_, rfl⟩
        · exact ih hps _ _
      · exact ih hps _ _

theorem slotsOnly_parted {p : Slot} (h : isSlot p.instr = true) : SlotsOnly (parted p) := by
  intro q hq
  unfold parted at hq
  split at hq
  · simp only [List.mem_cons, List.not_mem_nil, or_false] at hq
    obtain rfl | rfl := hq <;> rfl
  · rwa [List.mem_singleton.1 hq]

theorem slotsOnly_groupOrder {g : List Slot} (h : SlotsOnly g) : SlotsOnly (groupOrder g) := by
  have hg : SlotsOnly (g.flatMap parted) := fun q hq => by
    obtain ⟨p, hp, hq⟩ := List.mem_flatMap.1 hq
    exact slotsOnly_parted (h p hp) q hq
  intro p hp
  apply hg p
  simp only [groupOrder, List.mem_append] at hp
  rcases hp with (((((hp | hp) | hp) | hp) | hp) | hp) | hp
  case inr => exact List.mem_of_mem_filter (List.mem_of_mem_take hp)
  all_goals exact List.mem_of_mem_filter hp

theorem goesOn_runMany {s : State} (t : Task) (l : List Slot) {g : List Slot} (hl : s.live.isSome = true) (hg : SlotsOnly g) :
    GoesOn (s.runMany t l g) := by
  unfold State.runMany
  dsimp only
  obtain ⟨acts, ha⟩ := groupActs_ok (s := { s with joint := decide (2 ≤ (g.filter fun (p : Slot) => touches p.instr).length) }) hl hg
  rw [ha]
  dsimp only
  split
  · exact ⟨_, rfl⟩
  · exact goesOn_advanceOut (goesOn_performGroup _ t (slotsOnly_groupOrder hg) _ _)

theorem goesOn_lookAhead {s0 : State} {t : Task} {l g : List Slot} {o : Out} (h : GoesOn o) : GoesOn (s0.lookAhead t l g o) := by
  obtain ⟨s, rfl⟩ := h
  unfold State.lookAhead
  dsimp only
  split
  · split
    · split <;> exact ⟨_, rfl⟩
    · exact ⟨_, rfl⟩
  · exact ⟨_, rfl⟩

theorem goesOn_runGroup {s : State} (t : Task) (l : List Slot) {g : List Slot} (hl : s.live.isSome = true) (hg : SlotsOnly g) :
    GoesOn (s.runGroup t l g) := by
  unfold State.runGroup
  split
  · exact ⟨_, rfl⟩
  split
  next p _ => exact goesOn_lookAhead (goesOn_advanceOut (goesOn_slotActs (hg p (List.mem_singleton_self p)) hl))
  · exact goesOn_runMany t l hl hg

/-! ## The next group of a task -/

theorem slotsOnly_groupAt {l : List Slot} (h : SlotsOnly l) (k : Nat) : SlotsOnly (groupAt l k) := by
  intro p hp
  rcases List.mem_append.1 hp with hp | hp
  · exact h p (List.mem_of_mem_filter ((List.takeWhile_sublist _).subset hp))
  · exact h p (List.mem_of_mem_filter ((List.dropWhile_sublist _).subset (List.mem_of_mem_take hp)))

/-- A decoder answers instructions of slots only. -/
def AnswersSlot (o : Option Instr) : Prop := ∀ i, o = some i → isSlot i = true

@[simp] theorem answersSlot_none : AnswersSlot none := nofun
@[simp] theorem answersSlot_some {i : Instr} : AnswersSlot (some i) ↔ isSlot i = true := by simp [AnswersSlot]

theorem answersSlot_bind {α : Type} {o : Option α} {g : α → Option Instr} (h : ∀ v, AnswersSlot (g v)) : AnswersSlot (o.bind g) := by
  cases o with
  | none => exact answersSlot_none
  | some v => exact h v

theorem answersSlot_map {α : Type} {o : Option α} {g : α → Instr} (h : ∀ v, isSlot (g v) = true) : AnswersSlot (o.map g) := by
  cases o with
  | none => exact answersSlot_none
  | some v => exact answersSlot_some.2 (h v)

theorem answersSlot_ite {c : Prop} [Decidable c] {o o' : Option Instr} (h : AnswersSlot o) (h' : AnswersSlot o') : AnswersSlot (if c then o else o') := by
  split <;> assumption

/-- A decoder is a tree of binds and branches; its leaves are instructions of slots, or nothing. -/
theorem answersSlot_decFields (maj w : Nat) (x : Option Nat) : AnswersSlot (decFields maj w x) := by
  unfold decFields
  dsimp only
  split
  all_goals
    repeat' with_reducible first
      | exact answersSlot_none
      | refine answersSlot_some.2 ?_
      | refine answersSlot_map fun _ => ?_
      | refine answersSlot_bind fun _ => ?_
      | refine answersSlot_ite ?_ ?_
      | simp only [dec02, dec03, dec06, dec07, dec09, dec0A, decWrc, dec0B, dec0C, dec0D, dec0E, dec0F, dec10, dec11, dec12, dec13, dec14, dec15,
          dec16, dec17, dec18, dec19, dec1A, dec1B, dec1C, dec1D, dec1E, dec1F, dec20, md0, mk3, mk3u, mk2, mkD, mkA, mkAB, mk0, mkV, mkF, mkFn, mkU,
          mkUn, Option.bind_eq_bind, Option.pure_def]
      | split
  all_goals rfl

theorem slotsOnly_decodeFrom {bun : BitVec 128} {hdr : Bool} {n k : Nat} {seen : Bool} {l : List Slot} (h : decodeFrom bun hdr n k seen = .ok l) :
    SlotsOnly l := by
  induction n generalizing k seen l with
  | zero =>
    cases h
    exact fun _ hp => absurd hp List.not_mem_nil
  | succ n ih =>
    unfold decodeFrom at h
    dsimp only at h
    split at h
    · cases h
    next i hi =>
      split at h
      · cases h
      split at h <;> cases h
      next r hr =>
        intro p hp
        rcases List.mem_cons.1 hp with rfl | hp
        · exact answersSlot_decFields _ _ _ i (decodeSlot_eq_ok.1 hi).2
        · exact ih hr p hp

theorem slotsOnly_decodeBundle {bun : BitVec 128} {l : List Slot} (h : decodeBundle bun = .ok l) : SlotsOnly l := by
  unfold decodeBundle at h
  split at h <;> exact slotsOnly_decodeFrom h

theorem decodeAt_go {s s' : State} {t t' : Task} {bun : BitVec 128} {entered : Bool} {l : List Slot} (h : s.decodeAt t bun entered = .go s' t' l) :
    s'.live = some t' ∧ SlotsOnly l := by
  unfold State.decodeAt at h
  dsimp only at h
  split at h
  · cases h
  split at h
  · cases h
  next hd =>
    cases h
    exact ⟨setLive_live _ _, slotsOnly_decodeBundle hd⟩

theorem fetchAt_go {s s' : State} {t t' : Task} {l : List Slot} (h : s.fetchAt t = .go s' t' l) : s'.live = some t' ∧ SlotsOnly l := by
  unfold State.fetchAt at h
  dsimp only at h
  split at h
  · exact decodeAt_go h
  split at h
  · cases h
  split at h
  · exact decodeAt_go h
  · cases h

/-- A task whose bundle is in hand is the live task, and its slots hold instructions of slots (R52). -/
theorem prepare_go {s s' : State} {t t' : Task} {l : List Slot} (h : s.prepare t = .go s' t' l) : s'.live = some t' ∧ SlotsOnly l := by
  unfold State.prepare at h
  dsimp only at h
  split at h
  · cases h
  split at h
  · cases h
  split at h
  · exact fetchAt_go h
  split at h
  · exact fetchAt_go h
  · cases h

theorem live_modCore {s : State} {n : CoreId} {f : Core → Core} (hb : ∀ c, (f c).banks = c.banks) (hc : ∀ c, (f c).cbank = c.cbank) :
    (s.modCore n f).live = s.live := by
  have h1 := modCore_proj (·.banks) s n s.cur f hb
  have h2 := modCore_proj (·.cbank) s n s.cur f hc
  simp only [State.live, State.bank, modCore_cur] at *
  simp only [h1, h2]

theorem thawOnIssue_live {s : State} {t : Task} (h : s.live = some t) : (s.thawOnIssue t).1.live = some (s.thawOnIssue t).2 := by
  unfold State.thawOnIssue
  split
  · exact (live_modCore (by intro; rfl) (by intro; rfl)).trans (setLive_live _ _)
  · exact h

theorem charge_live (s : State) (n : CoreId) (x : BitVec 16) (i : Fin 8) (amount tenths : Nat) : (s.charge n x i amount tenths).live = s.live :=
  live_modCore (by intro; split <;> rfl) (by intro; split <;> rfl)

theorem chargeTurn_live (s : State) (t : Task) : (s.chargeTurn t).live = s.live :=
  (live_modCore (by intro; rfl) (by intro; rfl)).trans (charge_live s _ _ _ _ _)

theorem goesOn_charged {s : State} {t : Task} {run : State → Out} (h : ∀ r : State, r.live = s.live → GoesOn (run r)) : GoesOn (s.charged t run) := by
  unfold State.charged
  split
  · exact h s rfl
  · exact h _ (chargeTurn_live s t)

theorem goesOn_chargeGroup {t : Task} {n : CoreId} {cyc : Nat} {o : Out} (h : GoesOn o) : GoesOn (chargeGroup t n cyc o) := by
  obtain ⟨s, rfl⟩ := h
  unfold chargeGroup
  dsimp only
  split <;> exact ⟨_, rfl⟩

theorem goesOn_runTask (s : State) : GoesOn s.runTask := by
  unfold State.runTask
  split
  · exact ⟨_, rfl⟩
  next t hl =>
    split
    · exact ⟨_, rfl⟩
    dsimp only
    split
    · exact ⟨_, rfl⟩
    next s' t' l hp =>
      obtain ⟨hl', hs⟩ := prepare_go hp
      have hlive := thawOnIssue_live hl'
      refine goesOn_charged fun r hr => goesOn_chargeGroup (goesOn_runGroup _ _ (by rw [hr, hlive]; rfl) (slotsOnly_groupAt hs _))

theorem goesOn_chooseTask (s : State) : GoesOn s.chooseTask := by
  unfold State.chooseTask
  dsimp only
  split
  · exact goesOn_runTask _
  · exact goesOn_runTask _
  · split
    next p _ =>
      obtain ⟨r, hr⟩ := goesOn_runTask (((s.choose _).2.modCore (s.choose _).2.cur fun c => { c with cbank := p.1, running := true, yield := false }))
      rw [State.attempt, hr]
      exact ⟨_, rfl⟩
    · exact ⟨_, rfl⟩

theorem goesOn_coreTurn (s : State) (n : CoreId) : GoesOn (s.coreTurn n) := by
  unfold State.coreTurn
  dsimp only
  split
  · exact ⟨_, rfl⟩
  split
  · split
    · exact goesOn_runTask _
    · exact goesOn_chooseTask _
  · exact goesOn_chooseTask _

theorem goesOn_turn (s : State) (u : Turn) : GoesOn (s.turn u) := by
  cases u with
  | core n => exact goesOn_settled (goesOn_coreTurn _ n)
  | unit n => exact goesOn_settled (goesOn_unitTurn _ n)
  | event e on => exact goesOn_settled (goesOn_eventTurn _ e on)

theorem goesOn_step (s : State) : GoesOn (step s) := by
  unfold step
  split <;> exact goesOn_turn _ _

/-! ## The forms without a condition -/

theorem wentOn_ok {s : State} {t : Task} {f : Task → State} (h : s.live = some t) :
    ∃ s', issue s (fun t => .ok (f t)) = .next s' ∧ s'.wentOn := ⟨_, issue_live h _, trivial⟩

theorem wentOn_jump {s : State} {t : Task} {f : Task → State} {a : Task → BitVec 56} (h : s.live = some t) :
    ∃ s', issue s (fun t => .jump (f t) (a t)) = .next s' ∧ s'.wentOn := ⟨_, issue_live h _, trivial⟩

theorem registerFormsComplete_holds : registerFormsComplete := by
  intro s t i hl _ h
  cases i with
  | loop =>
    refine ⟨_, issue_live hl _, ?_⟩
    dsimp only
    split <;> trivial
  | beq | bne | blt | bge | bltu | bgeu | cpyc | phreq =>
    refine ⟨_, issue_live hl _, ?_⟩
    split <;> trivial
  | br | call | jr => exact wentOn_jump hl
  | add | sub | mul | mulh | div | rem | and | or | xor | andn | sll | srl | sra | slt | min | max | adds | subs | clz | ctz | popc | shadd
    | addi | andi | ori | xori | slti | sltiu | muli | seqi | lui | adrb | slli | srli | srai | bfx | nop | kand | kor | kxor | kandn
    | kset | kcnt | kfind | vadd | vadds | vsub | vsubs | vmul | vmulh | vmin | vmax | vand | vor | vxor | vsll | vsr | vcmp | vsplat
    | vmvs | vfadd | vfsub | vfmul | vfdiv | vfsqrt | vfrsqrt | vfmin | vfmax | vfabs | vfneg | vfcmp | vfsplat | vfscl | vfsgnj | vfmaF32
    | vfnmaF32 | vfmaBf16 | vfmaF16 | vfmawBf16 | vsel | vcvt | vbmax | vqnt | vdqnt | vhad | vfrnd | vbhdr | vfexp2 | vperm | vslideup
    | vslidedn | vred | vscan | vidx | tdef | mgset | mgoff | mgget | mggetN | recw | recr | cpyr | cpys | cpyxStat | ctabw | phase
    | phaseC | phuntil | phleft | park | unteth | untethO | untethA => exact wentOn_ok hl
  | _ => cases h

/-- Settles O5: an instruction of a slot issues for the live task that a core's turn has, a micro-word acts on the call that runs it, and an
event always has a next state. -/
theorem everyStepGoesOn : Obligations.EveryStepGoesOn := ⟨goesOn_step, registerFormsComplete_holds⟩

end Sys2Proof.Proofs
end

section
/-!
PROOFS. A task's registers through its own core's window (R69, R70): a synchronising store to the register range. Settles O55.
-/
namespace Sys2Proof.Proofs
open Machine Laws

/-- A task whose joint `ast` of slot 0 stores 1 at offset 0x800000 of the window of its own core: the first bytes of v0 (R69, R70). -/
def windowStoreTask : Task :=
  { tid := 1, ctx := 1, pc := 0x10000, regs := { s := ((Vector.replicate 64 0).set 8 0xF000800000).set 9 1 },
    remote := [{ uid := 1, pc := 0x10000, slot := 0, op := .store, addr := 0xF000800000, wide := true, arg := 1, cmp := 0, joint := true }] }

/-- The store has reached its home, in an exchange, and waits there for its group (R399). -/
def windowStoreState : State :=
  { State.reset with
    cores := State.reset.cores.set 0
      { avail := true, live := BitVec.allOnes 32, banks := #v[some windowStoreTask, none, none, none], ctxs := [{ ctx := 1, asn := 1, lsize := 2 }] },
    dev := { power := .running, phase := 1, kept := [(1, .here)] }, turns := [], joint := true }

/-- What an outcome leaves to the issue unit, and the first byte of v0 of the live task. -/
def flowAndByte : Out → Option (Flow × Option Byte)
  | .next s => some (s.flow, s.live.map fun t => t.regs.v.get 0)
  | _ => none

theorem windowStore_flowAndByte : flowAndByte (exec (.ast 8 9 true 0) windowStoreState) = some (.next, some 1) := by decide +kernel

/-- Refutes O55: a core's window holds the vector registers of the context's running task, so a synchronising store of that task to its own core's
window writes them: `ast` names no destination, and v0 changes. -/
theorem not_onlyDestinationsChange : ¬ Obligations.OnlyDestinationsChange := by
  unfold Obligations.OnlyDestinationsChange
  intro h
  have hl : windowStoreState.live = some windowStoreTask := rfl
  obtain ⟨s', hs⟩ := goesOn_exec_slot (i := .ast 8 9 true 0) rfl (Option.isSome_of_eq_some hl)
  have hb := windowStore_flowAndByte
  rw [hs] at hb
  obtain ⟨hf, hv⟩ : s'.flow = .next ∧ (s'.live.map fun t => t.regs.v.get 0) = some 1 := by simpa [flowAndByte] using hb
  obtain ⟨t', ht, -, hr⟩ := h _ s' _ _ hl rfl hs (by rw [State.wentOn, hf]; trivial)
  obtain ⟨-, hregs, -⟩ := hr rfl
  rw [ht, Option.map_some, hregs] at hv
  exact absurd hv (by decide)

end Sys2Proof.Proofs
end

section
/-!
PROOFS. The owner of a tag edge when EFF is recomputed (R373, R374). Settles O51.
-/
namespace Sys2Proof.Proofs
open Machine Laws

/-- Two tasks of context 1: one of base priority 1, which an edge names as owner, and one of base priority 3, which waits. -/
def edgeOwner : Task := { tid := 1, ctx := 1, pc := 0, ctl := { base := 1, eff := 1 } }
def edgeWaiter : Task := { tid := 2, ctx := 1, pc := 0, ctl := { base := 3, eff := 3 } }

/-- The tag edge of the waiter, which names the other task. -/
def tagEdge : WfEntry := { idx := 0, record := false, expl := false, okind := 0x03, obj := 0, tid := 2, ctx := 1, core := 0, owner := .task 1 }

/-- A core whose scoreboard holds no entry, of the owner or of another, while the table holds the edge. -/
def tagEdgeState : State :=
  { State.reset with
    cores := State.reset.cores.set 0 { avail := true, banks := #v[some edgeOwner, some edgeWaiter, none, none] },
    dev := { power := .running, wf := [tagEdge] }, turns := [] }

/-- The owner of such an edge stands only while its core's scoreboard holds an entry of it (R373), so the edge has none and gives no priority. -/
theorem tagEdge_gives_no_priority :
    ((tagEdgeState.rewire.recomputeEff.bank 0 0).map fun t => t.ctl.eff) = some 1 := by decide +kernel

/-- Refutes O51: recomputing EFF first names the owners anew, and a task that holds no entry of the scoreboard is the owner of a tag edge no longer; the task
that the edge named keeps its base priority. -/
theorem not_taskEvents : ¬ Obligations.TaskEvents := by
  unfold Obligations.TaskEvents
  intro h
  obtain ⟨-, heff, -⟩ := h tagEdgeState
  obtain ⟨-, hedge⟩ := heff (by decide +kernel)
  obtain ⟨s', hs, hbanks⟩ := hedge tagEdge 1 2 rfl rfl rfl rfl rfl (by decide)
  have hs' : tagEdgeState.rewire.recomputeEff = s' := Host.Outcome.next.inj hs
  obtain ⟨hb, -⟩ := hbanks 0 0 0 1 edgeOwner edgeWaiter rfl rfl rfl rfl rfl rfl
  have he := tagEdge_gives_no_priority
  rw [hs', hb] at he
  exact absurd he (by decide)

end Sys2Proof.Proofs
end

section
/-!
PROOFS. Writes of the control registers whose rules validate them: what each register's rule does with a write, and what is left of the claims
on a ring (R68, R75, R82, R141, R177, R219, R358, R379). Settles O14.
-/
namespace Sys2Proof.Proofs
open Machine Laws

/-- What the current core holds for a task's context that is resident there. -/
theorem cctx_of_resident {s : State} {t : Task} {k : CoreCtx} (h : (s.core s.cur).cctx t.ctx = some k) : s.cctx t = k := by
  rw [State.cctx, h, Option.getD_some]

/-! ## The write of one register -/

section
variable {i : Instr} {s : State} {t : Task} (n : Nat) (v : Task → W64)

/-- A write that performs. -/
theorem exec_of_written {s' : State} (hs : s.live = some t) (hx : exec i s = writeRow n v s) (hw : s.writeCtrl t n (v t) = .done s') :
    exec i s = .next s'.goesOn := by
  rw [hx, writeRow, issue_live hs, hw]; rfl

/-- A write that its register's rule holds back waits without an edge. -/
theorem exec_of_held (hs : s.live = some t) (hx : exec i s = writeRow n v s) (hw : s.writeCtrl t n (v t) = .hold) :
    exec i s = .next (s.registerWait t { okind := 0, obj := 0, edge := false }) := by
  rw [hx, writeRow, issue_live hs, hw]; rfl

/-- A write that waits for what its register's rule names. -/
theorem exec_of_waits {w : Wait} (hs : s.live = some t) (hx : exec i s = writeRow n v s) (hw : s.writeCtrl t n (v t) = .wait w) :
    exec i s = .next (s.registerWait t w) := by
  rw [hx, writeRow, issue_live hs, hw]; rfl

end

/-! ## What each validated register does with a write -/

section
variable (s : State) (t : Task) (v : W64)

/-- The supervisor's registers discard the write of another context (R177). -/
theorem writeCtrl_discards {n : Nat} (ha : ctrlAccess n = some .rs) (hk : (s.cctx t).sup = false) : s.writeCtrl t n v = .done s :=
  if_pos ⟨ha, hk⟩

/-- The registers of tile shapes, regions and rings are open to every context (R178). -/
theorem ctrlAccess_indexed {n : Nat} (h : n ≤ 0x00F ∨ (0x030 ≤ n ∧ n ≤ 0x05F)) : ctrlAccess n = some .rw := by
  unfold ctrlAccess
  rcases h with h | h
  · rw [if_pos (by omega)]
  · rw [if_neg (by omega), if_neg (by omega), if_neg (by omega), if_neg (by omega), if_pos h]

theorem not_discarded {n : Nat} (ha : ctrlAccess n = some .rw) (b : Bool) : ¬ (ctrlAccess n = some .rs ∧ b = false) := by
  simp [ha]

/-- The index of a register in its file of 16 is what its number ends in. -/
theorem ofNat_base_add {b x : Nat} (hb : b % 16 = 0) : Fin.ofNat 16 (b + x % 16) = Fin.ofNat 16 x :=
  Fin.ext (by simp only [Fin.ofNat]; omega)

theorem writeCtrl_tdim {n : Nat} (h : n ≤ 0x00F) : s.writeCtrl t n v = .done (s.setLive (t.setTdim (Fin.ofNat 16 n) v)) := by
  unfold State.writeCtrl
  dsimp only
  rw [if_neg (not_discarded (ctrlAccess_indexed (.inl h)) _), if_pos h]

/-- A context with a region's base written (R82): validated, or with V clear. -/
def regionBased (i : Fin 16) (v : W64) (k : CoreCtx) : CoreCtx :=
  let q := k.dropRegion i
  if v.getLsbD 63 && q.regionOk i v q.rgloc[i] then q.validated i v else { q with rgva := q.rgva.set i (clearV v) }

/-- A context with a region's locator written (R82). -/
def regionLocated (i : Fin 16) (v : W64) (k : CoreCtx) : CoreCtx :=
  { k.dropRegion i with rgloc := (k.dropRegion i).rgloc.set i v }

theorem writeCtrl_rgva {n : Nat} (h : 0x030 ≤ n ∧ n ≤ 0x03F) : s.writeCtrl t n v =
    if (s.core s.cur).regionBusy (s.cctx t) (Fin.ofNat 16 n) then .hold else .done (s.modCctx t (regionBased (Fin.ofNat 16 n) v)) := by
  unfold State.writeCtrl
  dsimp only
  rw [if_neg (not_discarded (ctrlAccess_indexed (.inr (by omega))) _), if_neg (by omega), if_pos h]
  rfl

theorem writeCtrl_rgloc {n : Nat} (h : 0x040 ≤ n ∧ n ≤ 0x04F) : s.writeCtrl t n v =
    if (s.core s.cur).regionBusy (s.cctx t) (Fin.ofNat 16 n) then .hold else .done (s.modCctx t (regionLocated (Fin.ofNat 16 n) v)) := by
  unfold State.writeCtrl
  dsimp only
  rw [if_neg (not_discarded (ctrlAccess_indexed (.inr (by omega))) _), if_neg (by omega), if_neg (by omega), if_pos h]
  rfl

/-- The state with a ring descriptor written, and every claim on the ring discarded (R141). -/
def ringRenewed (s : State) (t : Task) (i : Fin 16) (v : W64) : State :=
  (s.modCctx t fun k => { k with rings := k.rings.set i (ringWritten k.psize v) }).modCore s.cur (·.dropClaims t.ctx i)

/-- The wait for the oldest command that names a ring (R141). -/
def ringWait (s : State) (i : Fin 16) (m : Cmd) : Wait :=
  { okind := 0x05, obj := BitVec.ofNat 48 (s.cur.val + i.val * 256), owner := m.wfOwner }

theorem writeCtrl_rngd_free {n : Nat} (h : 0x050 ≤ n ∧ n ≤ 0x05F) (hf : (s.core s.cur).ringCmds t.ctx (Fin.ofNat 16 n) = []) :
    s.writeCtrl t n v = .done (ringRenewed s t (Fin.ofNat 16 n) v) := by
  unfold State.writeCtrl
  dsimp only
  rw [if_neg (not_discarded (ctrlAccess_indexed (.inr (by omega))) _), if_neg (by omega), if_neg (by omega), if_neg (by omega), if_pos h, hf]
  rfl

theorem writeCtrl_rngd_named {n : Nat} {m : Cmd} {ms : List Cmd} (h : 0x050 ≤ n ∧ n ≤ 0x05F)
    (hm : (s.core s.cur).ringCmds t.ctx (Fin.ofNat 16 n) = m :: ms) : s.writeCtrl t n v = .wait (ringWait s (Fin.ofNat 16 n) m) := by
  unfold State.writeCtrl
  dsimp only
  rw [if_neg (not_discarded (ctrlAccess_indexed (.inr (by omega))) _), if_neg (by omega), if_neg (by omega), if_neg (by omega), if_pos h, hm]
  rfl

theorem writeCtrl_vl : s.writeCtrl t 0x010 v =
    .done (s.setLive { t with ctl := { t.ctl with vl := BitVec.ofNat 15 (Min.min v.toNat 16384) } }) := rfl

theorem writeCtrl_pri : s.writeCtrl t 0x011 v =
    let b : Fin 8 := if v.fld 0 3 < t.ceil.val then Fin.ofNat 8 (v.fld 0 3) else t.ceil
    .done (s.setLive { t with ctl := { t.ctl with base := b, eff := if t.ctl.eff.val < b.val then b else t.ctl.eff } }) := rfl

theorem writeCtrl_pstat : s.writeCtrl t 0x0C2 v =
    .done (s.setLive { t with ctl := { t.ctl with strg := t.ctl.strg && v.getLsbD 62 } }) := rfl

theorem writeCtrl_wfdl : s.writeCtrl t 0x101 v = .done (s.modCctx t fun q =>
    let w := maskedW v 0x800000000000FFFF
    { q with wfdl := if (w.fld 0 16 + 17) * 64 ≤ q.psize then w else clearV w }) := rfl

theorem writeCtrl_ptbase (hk : (s.cctx t).sup = true) : s.writeCtrl t 0x022 v = .done (if v.fld 0 40 % (2 ^ s.dev.ptlog.toNat * 64) = 0 then
    s.modDev fun d => { d with ptbase := v.setWidth 40 } else s) := by
  simp only [State.writeCtrl, hk, Nat.reduceLeDiff, reduceCtorEq, and_false, false_and, if_false]
  split <;> rfl

theorem writeCtrl_ptlog (hk : (s.cctx t).sup = true) : s.writeCtrl t 0x023 v = .done (
    if 20 ≤ v.fld 0 5 ∧ v.fld 0 5 ≤ 27 ∧ s.dev.ptbase.toNat % (2 ^ v.fld 0 5 * 64) = 0 then
      s.modDev fun d => { d with ptlog := v.setWidth 5 } else s) := by
  simp only [State.writeCtrl, hk, Nat.reduceLeDiff, reduceCtorEq, and_false, false_and, if_false]
  split <;> rfl

theorem writeCtrl_nsave (hk : (s.cctx t).sup = true) : s.writeCtrl t 0x021 v = .done (
    if v.fld 0 6 ≤ 32 ∧ v.fld 0 6 * 0x800000 ≤ (s.core s.cur).capacity then
      s.modCore s.cur fun c => { c with nsave := Fin.ofNat 64 (v.fld 0 6) } else s) := by
  simp only [State.writeCtrl, hk, Nat.reduceLeDiff, reduceCtorEq, and_false, false_and, if_false]
  split <;> rfl

theorem writeCtrl_queue (hk : (s.cctx t).sup = true) : s.writeCtrl t 0x0E4 v = .done (
    if (s.core s.cur).queueOk s.cur v then
      s.modCore s.cur fun c => { c with qlog := Fin.ofNat 16 (v.fld 52 4), qbase := BitVec.ofNat 34 (v.fld 6 34) } else s) := by
  simp only [State.writeCtrl, hk, Nat.reduceLeDiff, reduceCtorEq, and_false, if_false]
  split <;> rfl

end

/-! ## What is left of a ring's claims -/

/-- A task of a core stands in its bank. -/
theorem mem_tasks {c : Core} {p : Fin 4 × Task} (h : p ∈ c.tasks) : c.banks[p.1] = some p.2 := by
  obtain ⟨b, -, hb⟩ := List.mem_filterMap.1 h
  obtain ⟨t, ht, rfl⟩ := Option.map_eq_some_iff.1 hb
  exact ht

/-- What a change of one bank keeps of every task. -/
theorem modBank_bank_map {α : Type} (g : Task → α) {f : Task → Task} (hg : ∀ t, g (f t) = g t) (s : State) (n m : CoreId) (b c : Fin 4) :
    ((s.modBank n b f).bank m c).map g = (s.bank m c).map g := by
  refine modCore_proj (fun k : Core => (k.banks[c]).map g) s n m _ fun k => ?_
  by_cases h : b = c
  · subst h
    simp [Function.comp_def, hg]
  · have hv : b.val ≠ c.val := fun e => h (Fin.ext e)
    simp [Vector.getElem_set_ne, hv]

/-- The end of a wait changes of a task only that it waits no more. -/
theorem endWait_bank_map {α : Type} (g : Task → α) (hg : ∀ t, g { t with waiting := none, untethered := false } = g t) (s : State) (n : CoreId)
    (b : Fin 4) : (s.endWait.bank n b).map g = (s.bank n b).map g := by
  unfold State.endWait
  split
  · rfl
  · refine (modBank_bank_map g hg ..).trans ?_
    refine (congrArg (fun k : Core => (k.banks[b]).map g) (dropEdge_core ..)).trans ?_
    exact modCore_proj (fun k : Core => (k.banks[b]).map g) s s.cur n _ fun _ => rfl

/-- A task has no claim on a ring of its context. -/
def Unclaimed (x : BitVec 16) (i : Fin 16) (t : Task) : Prop := t.ctx = x → ∀ q ∈ t.claims, q.1 ≠ i

theorem unclaimed_congr {x : BitVec 16} {i : Fin 16} {t u : Task} (h : (t.ctx, t.claims) = (u.ctx, u.claims)) :
    Unclaimed x i t ↔ Unclaimed x i u := by
  obtain ⟨hx, hc⟩ := Prod.mk.inj h
  rw [Unclaimed, Unclaimed, hx, hc]

/-- Once the claims of a context on a ring are discarded, no resident task of it has one, and none of its spilled tasks. -/
theorem dropClaims_unclaimed (c : Core) (x : BitVec 16) (i : Fin 16) :
    (∀ (b : Fin 4) t, (c.dropClaims x i).banks[b] = some t → Unclaimed x i t) ∧
    ∀ v ∈ (c.dropClaims x i).saved, ∀ t, v.task = some t → Unclaimed x i t := by
  have hd : ∀ u : Task, Unclaimed x i (if u.ctx == x then { u with claims := u.claims.filter fun p => p.1 != i } else u) := by
    intro u hu q hq
    split at hq
    next h => simpa using (List.mem_filter.1 hq).2
    next h => rw [if_neg h] at hu; exact absurd (beq_iff_eq.2 hu) h
  constructor
  · intro b t ht
    simp only [Core.dropClaims, Fin.getElem_fin, Vector.getElem_map, Option.map_eq_some_iff] at ht
    obtain ⟨u, -, rfl⟩ := ht
    exact hd u
  · intro v hv t ht
    obtain ⟨w, -, rfl⟩ := List.mem_map.1 hv
    obtain ⟨u, -, rfl⟩ := Option.map_eq_some_iff.1 ht
    exact hd u

/-- What a core holds for a context after that is changed. -/
theorem cctx_modCtx (c : Core) (x : BitVec 16) {f : CoreCtx → CoreCtx} (hf : ∀ k, (f k).ctx = k.ctx) :
    (c.modCtx x f).cctx x = (c.cctx x).map f := by
  have hp : ((fun k : CoreCtx => k.ctx == x) ∘ fun k => if k.ctx == x then f k else k) = fun k => k.ctx == x := by
    funext k
    simp only [Function.comp_apply]
    split <;> simp [hf]
  unfold Core.cctx Core.modCtx
  rw [List.find?_map, hp]
  cases h : c.ctxs.find? fun k => k.ctx == x with
  | none => rfl
  | some k =>
    have hk : (k.ctx == x) = true := List.find?_some (p := fun k : CoreCtx => k.ctx == x) h
    exact congrArg some (if_pos hk)

/-- The write of a ring's descriptor (R141): the ring is new, and nothing of the context claims it any more. -/
theorem ringRenewed_goesOn {s : State} {t : Task} {k : CoreCtx} (hk : (s.core s.cur).cctx t.ctx = some k) (i : Fin 16) (v : W64) :
    let s' := (ringRenewed s t i v).goesOn
    ((s'.core s.cur).cctx t.ctx).map (·.rings[i]) = some (ringWritten k.psize v) ∧
      (∀ p ∈ (s'.core s.cur).tasks, Unclaimed t.ctx i p.2) ∧ ∀ m ∈ (s'.core s.cur).saved, ∀ u, m.task = some u → Unclaimed t.ctx i u := by
  intro s'
  have hcore : (ringRenewed s t i v).core s.cur = ((s.core s.cur).modCtx t.ctx fun k =>
      { k with rings := k.rings.set i (ringWritten k.psize v) }).dropClaims t.ctx i := by
    simp [ringRenewed, State.modCctx]
  obtain ⟨hbank, hsaved⟩ := dropClaims_unclaimed ((s.core s.cur).modCtx t.ctx fun k =>
      { k with rings := k.rings.set i (ringWritten k.psize v) }) t.ctx i
  refine ⟨?_, fun p hp => ?_, ?_⟩
  · have h : (s'.core s.cur).cctx t.ctx = ((ringRenewed s t i v).core s.cur).cctx t.ctx := endWait_proj (·.cctx t.ctx) _ _ fun _ _ _ => rfl
    rw [h, hcore]
    have hd : ∀ c : Core, (c.dropClaims t.ctx i).cctx t.ctx = c.cctx t.ctx := fun _ => rfl
    rw [hd, cctx_modCtx, hk]
    simp
    intro; rfl
  · have h := endWait_bank_map (fun t => (t.ctx, t.claims)) (fun _ => rfl) (ringRenewed s t i v) s.cur p.1
    have hb : (ringRenewed s t i v).endWait.bank s.cur p.1 = some p.2 := mem_tasks hp
    rw [hb] at h
    obtain ⟨u, hu, he⟩ := Option.map_eq_some_iff.1 h.symm
    exact (unclaimed_congr he).1 (hbank p.1 u (by rw [← hcore]; exact hu))
  · have h : (s'.core s.cur).saved = ((ringRenewed s t i v).core s.cur).saved := endWait_proj (·.saved) _ _ fun _ _ _ => rfl
    rw [h, hcore]
    exact hsaved

/-! ## O14 -/

/-- The base that a write of `c.pri` sets (R180). -/
def priBase (t : Task) (v : W64) : Fin 8 := if v.fld 0 3 < t.ceil.val then Fin.ofNat 8 (v.fld 0 3) else t.ceil

theorem fld_zero (v : W64) (n : Nat) : v.fld 0 n = v.toNat % 2 ^ n := by rw [W64.fld, bits, pow_zero, Nat.div_one]

/-- The granule of a deadlock area is in the bits that `c.wfdl` keeps (R379). -/
theorem fld_deadlockArea (v : W64) : (maskedW v 0x800000000000FFFF).fld 0 16 = v.toNat % 65536 := by
  rw [fld_zero, maskedW, BitVec.toNat_and, Nat.and_mod_two_pow]
  exact (Nat.and_two_pow_sub_one_eq_mod _ 16).trans (Nat.mod_mod ..)

theorem priBase_val (t : Task) (v : W64) : (priBase t v).val = Min.min (v.toNat % 8) t.ceil.val := by
  have h : v.fld 0 3 = v.toNat % 8 := fld_zero v 3
  unfold priBase
  split
  · simp only [Fin.ofNat]; omega
  · omega

theorem validatedWrites_hold : validatedWrites := by
  intro s t k a hs hk v i c
  have hc := cctx_of_resident hk
  have hi (b : Nat) (hb : b % 16 = 0) : Fin.ofNat 16 (b + s.on.index % 16) = i := ofNat_base_add hb
  refine ⟨?_, ?_, ?_, fun hb => ?_, fun hb => ?_, fun hb e he => ?_, fun hf => ?_, fun m ms hm => ?_, ?_, ?_⟩
  · have hm : Min.min (t.getS a).toNat 16384 = if 16384 < (t.getS a).toNat then 16384 else (t.getS a).toNat := by split <;> omega
    rw [exec_of_written 0x010 (·.getS a) hs rfl (writeCtrl_vl s t (t.getS a)), hm]
    rfl
  · have hp := priBase_val t (t.getS a)
    refine ⟨_, exec_of_written 0x011 (·.getS a) hs rfl (writeCtrl_pri s t (t.getS a)), ?_⟩
    refine ⟨_, (endWait_live _).trans (congrArg _ (setLive_live ..)), rfl, hp, ?_⟩
    change (if t.ctl.eff.val < (priBase t (t.getS a)).val then priBase t (t.getS a) else t.ctl.eff).val =
      Max.max t.ctl.eff.val (priBase t (t.getS a)).val
    split <;> omega
  · rw [exec_of_written _ (fun _ => v) hs rfl (writeCtrl_tdim s t v (Nat.le_of_lt_succ (Nat.mod_lt _ (by decide)))),
      show Fin.ofNat 16 (s.on.index % 16) = i from Fin.ext (Nat.mod_mod ..)]
    rfl
  · rw [exec_of_written (0x030 + s.on.index % 16) (fun _ => v) hs rfl ((writeCtrl_rgva s t v (by omega)).trans
      (if_neg (by rw [hi _ rfl, hc, hb]; decide))), hi _ rfl]
    rfl
  · rw [exec_of_written (0x040 + s.on.index % 16) (fun _ => v) hs rfl ((writeCtrl_rgloc s t v (by omega)).trans
      (if_neg (by rw [hi _ rfl, hc, hb]; decide))), hi _ rfl]
    rfl
  · simp only [List.mem_cons, List.not_mem_nil, or_false] at he
    rcases he with rfl | rfl
    · exact exec_of_held (0x030 + s.on.index % 16) (fun _ => v) hs rfl ((writeCtrl_rgva s t v (by omega)).trans
        (if_pos (by rw [hi _ rfl, hc]; exact hb)))
    · exact exec_of_held (0x040 + s.on.index % 16) (fun _ => v) hs rfl ((writeCtrl_rgloc s t v (by omega)).trans
        (if_pos (by rw [hi _ rfl, hc]; exact hb)))
  · refine ⟨_, exec_of_written (0x050 + s.on.index % 16) (fun _ => v) hs rfl (writeCtrl_rngd_free s t v (by omega)
      (by rw [hi _ rfl]; exact hf)), ?_⟩
    rw [hi _ rfl]
    exact ringRenewed_goesOn hk i v
  · rw [exec_of_waits (0x050 + s.on.index % 16) (fun _ => v) hs rfl (writeCtrl_rngd_named s t v (by omega)
      (by rw [hi _ rfl]; exact hm)), hi _ rfl]
    rfl
  · rw [exec_of_written 0x101 (fun _ => v) hs rfl (writeCtrl_wfdl s t v)]
    simp only [fld_deadlockArea]
    rfl
  · rw [exec_of_written 0x0C2 (fun _ => v) hs rfl (writeCtrl_pstat s t v)]
    rfl

theorem supervisorWrites_hold : supervisorWrites := by
  intro s t k hs hk v c
  have hc := cctx_of_resident hk
  refine ⟨fun hu => ?_, fun hu => ?_⟩
  · have hd (n : Nat) (ha : ctrlAccess n = some .rs) := writeCtrl_discards s t v ha (hc ▸ hu)
    exact ⟨exec_of_written 0x022 (fun _ => v) hs rfl (hd _ rfl), exec_of_written 0x023 (fun _ => v) hs rfl (hd _ rfl),
      exec_of_written 0x021 (fun _ => v) hs rfl (hd _ rfl), exec_of_written 0x0E4 (fun _ => v) hs rfl (hd _ rfl)⟩
  · rw [← hc] at hu
    refine ⟨?_, ?_, ?_, ?_⟩
    · rw [exec_of_written 0x022 (fun _ => v) hs rfl (writeCtrl_ptbase s t v hu), fld_zero]
    · rw [exec_of_written 0x023 (fun _ => v) hs rfl (writeCtrl_ptlog s t v hu), fld_zero]
      rfl
    · rw [exec_of_written 0x021 (fun _ => v) hs rfl (writeCtrl_nsave s t v hu), fld_zero]
      rfl
    · rw [exec_of_written 0x0E4 (fun _ => v) hs rfl (writeCtrl_queue s t v hu)]
      rfl

/-- Settles O14: each register's write, by the one equation that says what the register's rule does with it. -/
theorem validatedRegisterWrites : Obligations.ValidatedRegisterWrites := ⟨validatedWrites_hold, supervisorWrites_hold⟩

end Sys2Proof.Proofs
end

section
/-!
PROOFS. The matrix unit by itself: how a call starts and completes, what an `mtacc` adds, calibration, AGE and temperatures (R245, R246, R259,
R264, R269, R274, R275, R279).
-/
namespace Sys2Proof.Proofs
open Machine Laws

/-! ## A unit or the resident task of a TID changed -/

@[simp] theorem withCur_core (s : State) (n m : CoreId) : ({ s with cur := n } : State).core m = s.core m := rfl

@[simp] theorem modUnit_core_self (s : State) (n : CoreId) (f : MatUnit → MatUnit) :
    (s.modUnit n f).core n = { s.core n with mx := f (s.core n).mx } := modCore_core_self ..

/-- A change of a unit leaves every bank alone. -/
@[simp] theorem modUnit_bank (s : State) (n m : CoreId) (b : Fin 4) (f : MatUnit → MatUnit) : (s.modUnit n f).bank m b = s.bank m b :=
  modCore_proj (fun c : Core => c.banks[b]) s n m _ fun _ => rfl

@[simp] theorem modUnit_cur (s : State) (n : CoreId) (f : MatUnit → MatUnit) : (s.modUnit n f).cur = s.cur := rfl

@[simp] theorem modBank_bank_self (s : State) (n : CoreId) (b : Fin 4) (f : Task → Task) : (s.modBank n b f).bank n b = (s.bank n b).map f := by
  simp [State.modBank, State.bank]

/-- A change of a bank leaves its core's unit alone. -/
@[simp] theorem modBank_mx (s : State) (n m : CoreId) (b : Fin 4) (f : Task → Task) : ((s.modBank n b f).core m).mx = (s.core m).mx :=
  modCore_proj (·.mx) s n m _ fun _ => rfl

theorem modTid_bank {c : Core} {b : Fin 4} {t : Task} {tid : BitVec 16} (h : c.banks[b] = some t) (ht : t.tid = tid) (f : Task → Task) :
    (c.modTid tid f).banks[b] = some (f t) := by
  simp only [Fin.getElem_fin] at h
  simp [Core.modTid, h, ht]

/-! ## Status words (R275) -/

/-- Bits set in the status of a handle, as the handle's status then reads. -/
theorem statusOf_modStat {t : Task} {h : BitVec 32} {r : CallStatus} (hr : t.statusOf h = some r) (v : W64) :
    (t.modStat h (·.set v)).statusOf h = some (r.set v) := by
  have hk : (r.handle == h) = true := List.find?_some (p := fun r : CallStatus => r.handle == h) hr
  have hp : ((fun r : CallStatus => r.handle == h) ∘ fun r => if r.handle == h then r.set v else r) = fun r => r.handle == h := by
    funext q
    simp only [Function.comp_apply]
    split <;> rfl
  unfold Task.statusOf Task.modStat at *
  rw [List.find?_map, hp, hr]
  exact congrArg some (if_pos hk)

@[simp] theorem statusOf_raiseM (t : Task) (w : W64) (h : BitVec 32) : (t.raiseM w).statusOf h = t.statusOf h := rfl

@[simp] theorem modStatus_cur (s : State) (k : Call) (f : CallStatus → CallStatus) : (s.modStatus k f).cur = s.cur := rfl

/-! ## A call starts (R264, R274), or completes (R269, R275) -/

/-- DONE, with ERR and the error code of a call that stops (R275). -/
def doneBits (errc : Option (Fin 64)) : W64 := (1#64 <<< 63) ||| (match errc with | some c => (1#64 <<< 62) ||| (w64 c.val <<< 56) | none => 0)

/-- A completed call no longer runs. -/
theorem finishCall_running (s : State) (k : Call) (errc : Option (Fin 64)) : ((s.finishCall k errc).core s.cur).mx.running = none := by
  simp [State.finishCall, MatUnit.startHeld, State.modStatus]

/-- The issuer of a completed call finds the call's code in its status, and keeps its queue. -/
theorem finishCall_bank {s : State} {k : Call} {b : Fin 4} {t : Task} {r : CallStatus} (hb : s.bank s.cur b = some t) (ht : k.tid = t.tid)
    (hr : t.statusOf k.handle = some r) (errc : Option (Fin 64)) :
    ∃ t' r', (s.finishCall k errc).bank s.cur b = some t' ∧ t'.statusOf k.handle = some r' ∧ t'.calls = t.calls ∧
      r'.status = r.status ||| doneBits errc := by
  have hs : (s.modStatus k (·.set (doneBits errc))).bank s.cur b = some (t.modStat k.handle (·.set (doneBits errc))) := by
    rw [State.modStatus, State.bank, modCore_core_self, modTid_bank hb ht.symm]
  refine ⟨_, _, ?_, (statusOf_raiseM _ ((s.modStatus k (·.set (doneBits errc))).runStatus k) _).trans (statusOf_modStat hr _), rfl, rfl⟩
  have hf := modTid_bank hs (f := (·.raiseM ((s.modStatus k (·.set (doneBits errc))).runStatus k))) ht.symm
  unfold State.finishCall
  dsimp only
  rw [modUnit_bank, State.bank, modStatus_cur, modCore_core_self]
  exact hf

/-- A call that an idle unit takes from its queue. -/
def callTaken (s : State) (b : Fin 4) : State :=
  (({ s with cur := s.on.core } : State).modBank s.on.core b fun t => { t with calls := t.calls.drop 1 }).modUnit s.on.core
    fun u => { u with lastBank := b }

section
variable {s : State} {b : Fin 4} {t : Task} {k : Call}

/-- What an idle unit does with the oldest call of the bank served next. -/
theorem exec_callStart (hi : (s.core s.on.core).mx.running = none) (hz : (s.core s.on.core).mx.frozen = false)
    (hc : (s.core s.on.core).callBank = some b) (hb : (s.core s.on.core).banks[b] = some t) (hk : t.calls.head? = some k) (hp : k.pc = 0) :
    (∀ p, routineStart ((s.core s.on.core).mx.word k.idx.val) = some p → exec .callStart s = .next
      ((callTaken s b).modUnit s.on.core fun u => { u with running := some { k with pc := p, curSplit := k.split, curWin := k.win } })) ∧
    (routineStart ((s.core s.on.core).mx.word k.idx.val) = none → exec .callStart s = .next
      (((callTaken s b).modUnit s.on.core fun u => { u with running := some k }).finishCall k (some 0x0B))) := by
  have hw : (callTaken s b).unit.word k.idx.val = (s.core s.on.core).mx.word k.idx.val := by
    simp [callTaken, State.unit, MatUnit.word]
  have he : exec .callStart s = execCallStart s := rfl
  have ho : ((s.core s.on.core).banks[b]).bind (fun t => t.calls.head?) = some k := by rw [hb]; exact hk
  simp only [callTaken] at hw ⊢
  rw [he]
  unfold execCallStart
  simp only [withCur_core, hi, hz, hc, ho, Option.isSome_none, Bool.or_self, Bool.false_eq_true, if_false, hp, ne_eq, not_true_eq_false]
  constructor
  · intro p hr
    rw [hw, hr]
    rfl
  · intro hr
    rw [hw, hr]
    rfl

theorem callTaken_bank (hb : (s.core s.on.core).banks[b] = some t) :
    (callTaken s b).bank s.on.core b = some { t with calls := t.calls.drop 1 } := by
  rw [callTaken, modUnit_bank, modBank_bank_self]
  exact congrArg (Option.map _) hb
end

/-! ## An `mtacc` (R279) -/

/-- A number in a memory that is written elsewhere. -/
theorem num_write_outside (m : Mem) (a : Nat) (bs : List Byte) (x n : Nat) (h : x + n ≤ a ∨ a + bs.length ≤ x) :
    (m.write a bs).num x n = m.num x n := by
  rw [Mem.num, Mem.num, read_write_outside m a bs x n h]

/-- Numbers of `w` bytes that are stored one after the other, read back. -/
theorem num_write_leBytes {α : Type} (m : Mem) (a w : Nat) (f : α → Nat) (vs : List α) {j : Nat} (hj : j < vs.length) :
    (m.write a (vs.flatMap fun v => leBytes w (f v))).num (a + j * w) w = f vs[j] % 256 ^ w := by
  rw [List.flatMap_def, num_write_flatten m a _ (by simp) (by simpa using hj), List.getElem_map, leNat_leBytes]

theorem length_flatMap_leBytes {α : Type} (w : Nat) (f : α → Nat) (vs : List α) : (vs.flatMap fun v => leBytes w (f v)).length = vs.length * w := by
  rw [List.flatMap_def, length_flatten_of (w := w) _ (by simp), List.length_map]

/-- The whole of a row stored, the rows being `r` bytes: its columns hold the new numbers, those of other rows stay. -/
theorem num_write_row {α : Type} (m : Mem) {w r i row col : Nat} (hr : r = 512 * w) (f : α → Nat) {vs : List α} (hv : vs.length = 512)
    (hc : col < 512) : (m.write (i * r + 0 * w) (vs.flatMap fun v => leBytes w (f v))).num (row * r + col * w) w =
      if row = i then f (vs[col]'(hv ▸ hc)) % 256 ^ w else m.num (row * r + col * w) w := by
  rw [Nat.zero_mul, Nat.add_zero]
  split
  next h => subst h; exact num_write_leBytes ..
  next h =>
    have hcw : col * w + w ≤ r := by rw [← Nat.succ_mul, hr]; exact Nat.mul_le_mul_right w hc
    refine num_write_outside _ _ _ _ _ ?_
    rw [length_flatMap_leBytes, hv, ← hr]
    rcases Nat.lt_or_gt_of_ne h with h | h
    · have := Nat.mul_le_mul_right r (Nat.succ_le_of_lt h)
      rw [Nat.succ_mul] at this
      omega
    · have := Nat.mul_le_mul_right r (Nat.succ_le_of_lt h)
      rw [Nat.succ_mul] at this
      omega

/-- The value and the bound that an `mtacc` gives an element of its own row, from the member's. -/
def joined (u v : MatUnit) (row col : Nat) : Nat × Nat :=
  let x := (f32Add (u.acc.num (accAt row col) 4) (v.acc.num (accAt row col) 4)).1
  (x, if wildF32 x then FFmt.bf16.infBits
    else boundF ((FFmt.bf16.value (u.bnd.num (bndAt row col) 2)).add (FFmt.bf16.value (v.bnd.num (bndAt row col) 2)) .rne).1 .bf16)

theorem joined_snd (u v : MatUnit) (row col : Nat) : (joined u v row col).2 =
    if (FFmt.f32.value (joined u v row col).1).isFin then
      boundF ((FFmt.bf16.value (u.bnd.num (bndAt row col) 2)).add (FFmt.bf16.value (v.bnd.num (bndAt row col) 2)) .rne).1 .bf16
    else FFmt.bf16.infBits := by
  have he : (joined u v row col).2 = if !(FFmt.f32.value (joined u v row col).1).isFin then FFmt.bf16.infBits else
    boundF ((FFmt.bf16.value (u.bnd.num (bndAt row col) 2)).add (FFmt.bf16.value (v.bnd.num (bndAt row col) 2)) .rne).1 .bf16 := rfl
  rw [he]
  cases (FFmt.f32.value (joined u v row col).1).isFin <;> rfl

/-- A row of a member added. -/
def addRow (v u : MatUnit) (row : Nat) : MatUnit := u.putRow row 0 ((List.range 512).map (joined u v row))

theorem addRows_eq (u v : MatUnit) (f l : Nat) : u.addRows v f l = (List.range (l - f + 1)).foldl (fun u i => addRow v u (f + i)) u := rfl

theorem joined_congr {u u' : MatUnit} (v : MatUnit) {row col : Nat} (ha : u'.acc.num (accAt row col) 4 = u.acc.num (accAt row col) 4)
    (hb : u'.bnd.num (bndAt row col) 2 = u.bnd.num (bndAt row col) 2) : joined u' v row col = joined u v row col := by
  rw [joined, joined, ha, hb]

/-- A bound fits the bytes of BF16: what exceeds the largest finite value is +∞. -/
theorem boundF_bf16_lt (x : Ex) : boundF x .bf16 < 256 ^ 2 := by
  have key (code : Nat) : (if code < 2 ^ FFmt.bf16.mb then 2 ^ FFmt.bf16.mb else if FFmt.bf16.maxFin < code then FFmt.bf16.infBits else code)
      < 256 ^ 2 := by
    have hm : FFmt.bf16.maxFin < 256 ^ 2 := by decide
    by_cases h1 : code < 2 ^ FFmt.bf16.mb
    · rw [if_pos h1]; decide
    · by_cases h2 : FFmt.bf16.maxFin < code
      · rw [if_neg h1, if_pos h2]; decide
      · rw [if_neg h1, if_neg h2]; omega
  have hinf : FFmt.bf16.infBits < 256 ^ 2 := by decide
  cases x with
  | nan => exact hinf
  | inf _ => exact hinf
  | fin _ num e more =>
    unfold boundF
    dsimp only
    split
    · exact Nat.two_pow_pos 16
    · exact key _

theorem joined_lt (u v : MatUnit) (row col : Nat) : (joined u v row col).1 < 256 ^ 4 ∧ (joined u v row col).2 < 256 ^ 2 := by
  refine ⟨roundF_lt_bytes _ .f32 .rne, ?_⟩
  unfold joined
  dsimp only
  split
  · decide
  · exact boundF_bf16_lt _

theorem addRow_num (u v : MatUnit) (i row : Nat) {col : Nat} (hc : col < 512) :
    (addRow v u i).acc.num (accAt row col) 4 = (if row = i then (joined u v row col).1 else u.acc.num (accAt row col) 4) ∧
    (addRow v u i).bnd.num (bndAt row col) 2 = (if row = i then (joined u v row col).2 else u.bnd.num (bndAt row col) 2) := by
  have hl : ((List.range 512).map (joined u v i)).length = 512 := by simp
  have ha := num_write_row u.acc (w := 4) (r := 2048) (i := i) (row := row) rfl Prod.fst hl hc
  have hb := num_write_row u.bnd (w := 2) (r := 1024) (i := i) (row := row) rfl Prod.snd hl hc
  simp only [List.getElem_map, List.getElem_range, Nat.mod_eq_of_lt (joined_lt u v i col).1, Nat.mod_eq_of_lt (joined_lt u v i col).2] at ha hb
  constructor
  · refine ha.trans ?_
    split
    next h => subst h; rfl
    next h => rfl
  · refine hb.trans ?_
    split
    next h => subst h; rfl
    next h => rfl

/-- The rows of a member added: those from the first to the last alone. -/
theorem addRows_num (u v : MatUnit) {f l : Nat} (hfl : f ≤ l) (row : Nat) {col : Nat} (hc : col < 512) :
    (u.addRows v f l).acc.num (accAt row col) 4 = (if f ≤ row ∧ row ≤ l then (joined u v row col).1 else u.acc.num (accAt row col) 4) ∧
    (u.addRows v f l).bnd.num (bndAt row col) 2 = (if f ≤ row ∧ row ≤ l then (joined u v row col).2 else u.bnd.num (bndAt row col) 2) := by
  have hn : ∀ n, let w := (List.range n).foldl (fun u i => addRow v u (f + i)) u
      w.acc.num (accAt row col) 4 = (if f ≤ row ∧ row < f + n then (joined u v row col).1 else u.acc.num (accAt row col) 4) ∧
      w.bnd.num (bndAt row col) 2 = (if f ≤ row ∧ row < f + n then (joined u v row col).2 else u.bnd.num (bndAt row col) 2) := by
    intro n
    induction n with
    | zero => exact ⟨(if_neg (by omega)).symm, (if_neg (by omega)).symm⟩
    | succ n ih =>
      obtain ⟨ha, hb⟩ := ih
      intro w
      have hw : w = addRow v ((List.range n).foldl (fun u i => addRow v u (f + i)) u) (f + n) := by
        simp only [w, List.range_succ, List.foldl_append, List.foldl_cons, List.foldl_nil]
      obtain ⟨ha', hb'⟩ := addRow_num ((List.range n).foldl (fun u i => addRow v u (f + i)) u) v (f + n) row hc
      by_cases hr : row = f + n
      · rw [if_neg (by omega)] at ha hb
        rw [hw, ha', hb', joined_congr v ha hb, if_pos hr, if_pos hr, if_pos (by omega), if_pos (by omega)]
        exact ⟨rfl, rfl⟩
      · have hiff : (f ≤ row ∧ row < f + (n + 1)) ↔ (f ≤ row ∧ row < f + n) := by omega
        rw [hw, ha', hb', if_neg hr, if_neg hr, ha, hb]
        simp only [hiff, and_self]
  obtain ⟨ha, hb⟩ := hn (l - f + 1)
  have hiff : (f ≤ row ∧ row < f + (l - f + 1)) ↔ (f ≤ row ∧ row ≤ l) := by omega
  rw [addRows_eq, ha, hb]
  simp only [hiff, and_self]

/-- A bound of the rows from `f` to `l` is +∞. -/
theorem infRows_eq (u : MatUnit) {f l : Nat} (hfl : f ≤ l) :
    u.infRows f l = (List.range (l + 1)).any fun row => (List.range 512).any fun col => decide (f ≤ row ∧
      u.bnd.num (row * 1024 + col * 2) 2 = FFmt.bf16.infBits) := by
  rw [Bool.eq_iff_iff]
  simp only [MatUnit.infRows, List.any_eq_true, List.mem_range, beq_iff_eq, decide_eq_true_eq]
  constructor
  · rintro ⟨j, hj, h⟩
    refine ⟨f + j / 512, by omega, j % 512, by omega, by omega, ?_⟩
    rwa [show (f + j / 512) * 1024 + j % 512 * 2 = f * 1024 + 2 * j by omega]
  · rintro ⟨row, hrow, col, hcol, hf, h⟩
    refine ⟨(row - f) * 512 + col, by omega, ?_⟩
    rwa [show f * 1024 + 2 * ((row - f) * 512 + col) = row * 1024 + col * 2 by omega]

/-! ### How an `mtacc` ends -/

/-- INF of a status word (R275). -/
def infBit (x : Bool) : W64 := if x then 0x0001000000000000 else 0

theorem finishMtacc_mx (s : State) (n : CoreId) (op : MtAcc) (v : W64) :
    ((s.finishMtacc n op v).core n).mx = { (s.core n).mx with mtaccs := (s.core n).mx.mtaccs.erase op } := by
  rw [State.finishMtacc, modCore_core_self]
  rfl

/-- The issuer of an `mtacc` that ends finds DONE, and the bits it ends with, in its status. -/
theorem finishMtacc_bank {s : State} {n : CoreId} {op : MtAcc} {b : Fin 4} {t : Task} {r : CallStatus} (hb : s.bank n b = some t)
    (ht : t.tid = op.tid) (hr : t.statusOf op.handle = some r) (v : W64) : ∃ t' r', (s.finishMtacc n op v).bank n b = some t' ∧
      t'.statusOf op.handle = some r' ∧ r'.status = r.status ||| (v ||| infBit op.inf) ||| 0x8000000000000000 := by
  have hv : (if op.inf then v ||| (1#64 <<< 48) else v) = v ||| infBit op.inf := by
    cases op.inf with
    | true => rfl
    | false => exact BitVec.or_zero.symm
  refine ⟨_, _, ?_, (statusOf_raiseM _ (v ||| infBit op.inf) _).trans (statusOf_modStat hr (v ||| infBit op.inf ||| (1#64 <<< 63))), ?_⟩
  · rw [State.finishMtacc, State.bank, modCore_core_self]
    simp only [hv]
    exact modTid_bank hb ht _
  · exact (BitVec.or_assoc ..).symm

/-- The bits of a member that cannot be pulled (R275). -/
theorem srchBits_eq (j : Nat) : srchBits j = 0x0000400000000000 ||| (BitVec.ofNat 64 (j % 16) <<< 42) := by
  have h : w64 (j % 16 * 2 ^ 42) = BitVec.ofNat 64 (j % 16) <<< 42 := by
    apply BitVec.eq_of_toNat_eq
    simp [w64, Nat.shiftLeft_eq]
  rw [srchBits, h]
  rfl

/-! ### The next member -/

/-- The rows that an `mtacc` of core `n` writes are held by no older entry. -/
def Reached (s : State) (n : CoreId) (op : MtAcc) : Prop :=
  ∀ p ∈ [accSpan op.first op.last, bndSpan op.first op.last], ∀ e ∈ (s.core n).olderThan (.call op.tid op.handle), e.meets p.1 p.2.1 p.2.2 = false

/-- The rows of a member are being written by nothing. -/
def Readable (s : State) (m : CoreId) (op : MtAcc) : Prop :=
  ∀ p ∈ [accSpan op.first op.last, bndSpan op.first op.last], ∀ e ∈ (s.core m).conflicts p.1 p.2.1 p.2.2 false, e.write = false

/-- An `mtacc` with one member fewer to add. -/
def memberAdded (s : State) (n m : CoreId) (op : MtAcc) (rest : List (Nat × CoreId)) : MtAcc :=
  { op with todo := rest, inf := op.inf || ((s.core n).mx.addRows (s.core m).mx op.first op.last).infRows op.first op.last }

/-- The state with a member's rows added. -/
def withMember (s : State) (n m : CoreId) (op : MtAcc) (rest : List (Nat × CoreId)) : State :=
  s.modUnit n fun u => { (s.core n).mx.addRows (s.core m).mx op.first op.last with
    mtaccs := u.mtaccs.map fun o => if o == op then memberAdded s n m op rest else o }

section
variable {s : State} {op : MtAcc} {j : Nat} {m : CoreId} {rest : List (Nat × CoreId)}

/-- What an `mtacc` does with its next member: one that cannot be pulled ends it, and one whose rows are at hand is added. -/
theorem exec_mtaccMember (ho : (s.core s.on.core).mx.mtaccs[s.on.index]? = some op) (hx : s.dev.phase.getLsbD 0 = true)
    (ht : op.todo = (j, m) :: rest) (hr : Reached s s.on.core op) :
    (s.memberGone op j m = true → exec .mtaccMember s = .next (s.finishMtacc s.on.core op (srchBits j))) ∧
    (s.memberGone op j m = false → Readable s m op → exec .mtaccMember s = .next (if rest.isEmpty then
      (withMember s s.on.core m op rest).finishMtacc s.on.core (memberAdded s s.on.core m op rest) 0 else withMember s s.on.core m op rest)) := by
  have hh : ([accSpan op.first op.last, bndSpan op.first op.last].any fun p =>
      ((s.core s.on.core).olderThan (.call op.tid op.handle)).any fun e => e.meets p.1 p.2.1 p.2.2) = false := by
    simpa only [List.any_eq_false, Bool.not_eq_true, Reached] using hr
  have he : exec .mtaccMember s = execMtaccMember s := rfl
  rw [he]
  unfold execMtaccMember
  simp only [ho, hh, State.exchange, hx, ht, Bool.not_true, Bool.or_self, Bool.false_eq_true, if_false]
  refine ⟨fun hg => by rw [if_pos hg], fun hg hc => ?_⟩
  have hw : ([accSpan op.first op.last, bndSpan op.first op.last].any fun p =>
      ((s.core m).conflicts p.1 p.2.1 p.2.2 false).any (·.write)) = false := by
    simpa only [List.any_eq_false, Bool.not_eq_true, Readable] using hc
  rw [if_neg (by rw [hg]; decide), if_neg (by rw [hw]; decide)]
  rfl

end

/-- An `mtacc` of core `n` has ended with the bits `v`: it is one fewer, and its issuer finds them, with DONE, in its status. -/
def MtaccEnds (s : State) (n : CoreId) (op : MtAcc) (v : W64) (s' : State) : Prop :=
  (s'.core n).mx.mtaccs.length + 1 = (s.core n).mx.mtaccs.length ∧
    ∀ b t r, s.bank n b = some t → t.tid = op.tid → t.statusOf op.handle = some r → ∃ t' r', s'.bank n b = some t' ∧
      t'.statusOf op.handle = some r' ∧ r'.status = r.status ||| v ||| 0x8000000000000000

theorem finishMtacc_ends {s : State} {n : CoreId} {op : MtAcc} (ho : op ∈ (s.core n).mx.mtaccs) (v : W64) :
    MtaccEnds s n op (v ||| infBit op.inf) (s.finishMtacc n op v) := by
  refine ⟨?_, fun b t r hb ht hr => finishMtacc_bank hb ht hr v⟩
  rw [finishMtacc_mx, List.length_erase_of_mem ho]
  exact Nat.sub_add_cancel (List.length_pos_of_mem ho)

/-- The last member added ends the `mtacc`, with INF when it has written a bound of +∞. -/
theorem withMember_ends {s : State} {n m : CoreId} {op : MtAcc} (ho : op ∈ (s.core n).mx.mtaccs) (rest : List (Nat × CoreId)) :
    MtaccEnds s n op (infBit (memberAdded s n m op rest).inf)
      ((withMember s n m op rest).finishMtacc n (memberAdded s n m op rest) 0) := by
  have hm : memberAdded s n m op rest ∈ ((withMember s n m op rest).core n).mx.mtaccs := by
    rw [withMember, modUnit_core_self]
    exact List.mem_map.2 ⟨op, ho, if_pos (beq_self_eq_true op)⟩
  obtain ⟨hl, hb⟩ := finishMtacc_ends hm 0
  have h0 (w : W64) : 0 ||| w = w := BitVec.zero_or
  simp only [h0] at hb
  refine ⟨hl.trans ?_, fun b t r h => hb b t r ((modUnit_bank ..).trans h)⟩
  rw [withMember, modUnit_core_self]
  exact List.length_map ..

/-! ## Calibration, AGE and temperatures (R245, R246, R259) -/

theorem startHeld_macros (m : MatUnit) (j : Fin 64) : m.startHeld.macros[j] = heldStarts m.running j m.macros[j] := by
  simp [MatUnit.startHeld, heldStarts]

theorem modMacro_macros_self (m : MatUnit) (i : Fin 64) (f : MacroSt → MacroSt) : (m.modMacro i f).macros[i] = f m.macros[i] := by
  simp [MatUnit.modMacro]

theorem modMacro_macros_ne (m : MatUnit) {i j : Fin 64} (h : j ≠ i) (f : MacroSt → MacroSt) : (m.modMacro i f).macros[j] = m.macros[j] := by
  have hv : i.val ≠ j.val := fun e => h (Fin.ext e.symm)
  simp [MatUnit.modMacro, Vector.getElem_set_ne, hv]

/-- An offset that a calibration leaves. -/
theorem clampOffset_mem (v : Int) : -16 ≤ (BitVec.ofInt 8 (clampOffset v)).toInt ∧ (BitVec.ofInt 8 (clampOffset v)).toInt ≤ 15 := by
  have h : -16 ≤ clampOffset v ∧ clampOffset v ≤ 15 := by unfold clampOffset; omega
  rw [BitVec.toInt_ofInt, Int.bmod_eq_of_le (by omega) (by omega)]
  exact h

/-- What the end of a calibration leaves (R245): the one it ran for is calibrated, with offsets of −16 to 15, or has failed and keeps its offsets. -/
theorem endCalibration_spec (m : MatUnit) (i : Fin 64) (tnow : BitVec 16) (seed : Nat) :
    let u := m.endCalibration i tnow seed
    (∀ j : Fin 64, j ≠ i → u.macros[j] = m.macros[j]) ∧
    let x := u.macros[i]
    x.busy = false ∧ x.tcal = tnow ∧ x.age = 0 ∧ (x.fail = true → x.uncal = true ∧ u.offs = m.offs) ∧
    (x.fail = false → x.uncal = false ∧ x.stale = false ∧ ∀ col < 512, -16 ≤ u.off i col ∧ u.off i col ≤ 15) := by
  unfold MatUnit.endCalibration
  split
  · refine ⟨fun j hj => modMacro_macros_ne m hj _, ?_⟩
    rw [modMacro_macros_self]
    exact ⟨rfl, rfl, rfl, fun _ => ⟨rfl, rfl⟩, nofun⟩
  · dsimp only
    refine ⟨fun j hj => modMacro_macros_ne m hj _, ?_⟩
    rw [modMacro_macros_self]
    refine ⟨rfl, rfl, rfl, nofun, fun _ => ⟨rfl, rfl, fun col hc => ?_⟩⟩
    unfold MatUnit.off
    dsimp only
    rw [get_write, if_pos (by rw [List.length_map, List.length_range]; omega)]
    have hg : col % 512 < ((List.range 512).map fun c => BitVec.ofInt 8 (clampOffset (Config.calibration (seed + c)))).length := by simp; omega
    rw [Nat.add_sub_cancel_left, List.getD_eq_getElem _ _ hg, List.getElem_map]
    exact clampOffset_mem _

theorem recheck_macros (c : Core) (f : MacroSt → MacroSt) (j : Fin 64) : (c.recheck f).mx.macros[j] = (f c.mx.macros[j]).recheck c.tnow := by
  simp [Core.recheck]

/-- What a re-evaluation sets in each entry, as the statement writes it (R246, R247). -/
theorem recheck_eq (x : MacroSt) (tnow : BitVec 16) : x.recheck tnow =
    { x with stale := x.stale || !(!x.fail && (tnow.toInt - x.tcal.toInt).natAbs ≤ 128 && x.age < 0x100000),
             uncal := x.uncal || (640 < (tnow.toInt - x.tcal.toInt).natAbs || x.age == 0xFFFFFF) } := by
  simp only [MacroSt.recheck, Bool.or_assoc]

/-- A device that trips has failed, or is in minimal mode (R493). -/
theorem trip_power (s : State) : s.trip.dev.power = .failed ∨ s.trip.dev.power = .minimal := by
  unfold State.trip
  dsimp only [modDev_dev]
  split
  · exact .inr rfl
  · exact .inl rfl

/-- A core as a sample of a temperature leaves it: one of the subject's die takes it (R246). -/
def sampledCore (s : State) (m : Fin 128) : Core :=
  if dieOf m = dieOf s.on.core then ({ s.cores[m] with tnow := s.on.value.setWidth 16 } : Core).recheck id else s.cores[m]

/-- The state that a sample leaves where no device trips (R246, R487). -/
def sampledState (s : State) : State :=
  ({ s with cores := Vector.ofFn (sampledCore s) } : State).modDev fun d =>
    d.sample (dieOf s.on.core) 3 ((s.on.value.setWidth 16).toInt + 1024).toNat

theorem sampledState_core (s : State) (m : CoreId) : (sampledState s).core m = sampledCore s m :=
  Vector.getElem_ofFn ..

theorem exec_temperatureSample (s : State) : exec .temperatureSample s =
    .next (if 1840 ≤ (s.on.value.setWidth 16).toInt ∧ s.dev.power = .running then (sampledState s).trip else sampledState s) := rfl

/-- A sample trips the device, or leaves it as it was and the cores of its die with the sample (R246, R493). -/
theorem temperatureSample_cases (s : State) :
    ((1840 ≤ (s.on.value.setWidth 16).toInt ∧ s.dev.power = .running) ∧ ∃ s', exec .temperatureSample s = .next s' ∧
      (s'.dev.power = .failed ∨ s'.dev.power = .minimal)) ∨
    (¬ (1840 ≤ (s.on.value.setWidth 16).toInt ∧ s.dev.power = .running) ∧ exec .temperatureSample s = .next (sampledState s) ∧
      ∀ m, (sampledState s).core m = sampledCore s m) := by
  rw [exec_temperatureSample]
  by_cases ht : 1840 ≤ (s.on.value.setWidth 16).toInt ∧ s.dev.power = .running
  · rw [if_pos ht]
    exact .inl ⟨ht, _, rfl, trip_power _⟩
  · rw [if_neg ht]
    exact .inr ⟨ht, rfl, sampledState_core s⟩

/-- A millisecond older (R246). -/
def older (x : MacroSt) : MacroSt := { x with age := if x.age < 0xFFFFFF then x.age + 1 else x.age }

theorem exec_ageStep (s : State) :
    exec .ageStep s = .next { s with cores := s.cores.map fun (c : Core) => c.recheck older } := rfl

theorem withCores_core (s : State) (f : Core → Core) (m : CoreId) : ({ s with cores := s.cores.map f } : State).core m = f (s.core m) :=
  Vector.getElem_map ..

/-! ## The statement's clauses -/

/-- An idle unit starts the oldest call of the bank served next, or completes it with code 0x0B. -/
theorem callStart_spec {s : State} {b : Fin 4} {t : Task} {k : Call} (hi : (s.core s.on.core).mx.running = none)
    (hz : (s.core s.on.core).mx.frozen = false) (hc : (s.core s.on.core).callBank = some b) (hb : (s.core s.on.core).banks[b] = some t)
    (hk : t.calls.head? = some k) (hp : k.pc = 0) :
    (∀ p, routineStart ((s.core s.on.core).mx.word k.idx.val) = some p → Leads .callStart s fun s' =>
      (s'.core s.on.core).mx.running = some { k with pc := p, curSplit := k.split, curWin := k.win } ∧ (s'.core s.on.core).mx.lastBank = b ∧
      s'.bank s.on.core b = some { t with calls := t.calls.drop 1 }) ∧
    (routineStart ((s.core s.on.core).mx.word k.idx.val) = none → ∀ r, k.tid = t.tid → t.statusOf k.handle = some r →
      Leads .callStart s fun s' => (s'.core s.on.core).mx.running = none ∧ ∃ t' r', s'.bank s.on.core b = some t' ∧
        t'.statusOf k.handle = some r' ∧ t'.calls = t.calls.drop 1 ∧ r'.status = r.status ||| 0xCB00000000000000) := by
  obtain ⟨hstart, hinvalid⟩ := exec_callStart hi hz hc hb hk hp
  refine ⟨fun p hr => ⟨_, hstart p hr, ?_, ?_, (modUnit_bank ..).trans (callTaken_bank hb)⟩, fun hr r ht hst => ⟨_, hinvalid hr, ?_, ?_⟩⟩
  · rw [modUnit_core_self]
  · simp [callTaken]
  · exact finishCall_running ((callTaken s b).modUnit s.on.core fun u => { u with running := some k }) k (some 0x0B)
  · exact finishCall_bank (s := (callTaken s b).modUnit s.on.core fun u => { u with running := some k })
      ((modUnit_bank ..).trans (callTaken_bank hb)) ht hst (some 0x0B)

/-- The next member of an `mtacc` ends it, or is added. -/
theorem mtaccMember_spec {s : State} {op : MtAcc} {j : Nat} {m : CoreId} {rest : List (Nat × CoreId)}
    (ho : (s.core s.on.core).mx.mtaccs[s.on.index]? = some op) (hx : s.dev.phase.getLsbD 0 = true)
    (ht : op.todo = (j, m) :: rest) (hr : Reached s s.on.core op) :
    (s.memberGone op j m = true → Leads .mtaccMember s fun s' =>
      (s'.core s.on.core).mx.mtaccs = (s.core s.on.core).mx.mtaccs.erase op ∧ (s'.core s.on.core).mx.acc = (s.core s.on.core).mx.acc ∧
      (s'.core s.on.core).mx.bnd = (s.core s.on.core).mx.bnd ∧
      MtaccEnds s s.on.core op (0x0000400000000000 ||| (BitVec.ofNat 64 (j % 16) <<< 42) ||| infBit op.inf) s') ∧
    (s.memberGone op j m = false → op.first ≤ op.last → Readable s m op → Leads .mtaccMember s fun s' =>
      let u := (s.core s.on.core).mx
      let inf : Bool := op.inf || (s'.core s.on.core).mx.infRows op.first op.last
      (rest ≠ [] → (s'.core s.on.core).mx.mtaccs = u.mtaccs.map fun o => if o = op then { op with todo := rest, inf := inf } else o) ∧
      (rest = [] → MtaccEnds s s.on.core op (infBit inf) s') ∧
      (s'.core s.on.core).mx.acc = (u.addRows (s.core m).mx op.first op.last).acc ∧
      (s'.core s.on.core).mx.bnd = (u.addRows (s.core m).mx op.first op.last).bnd) := by
  obtain ⟨hgone, hadd⟩ := exec_mtaccMember ho hx ht hr
  have hmem := List.mem_of_getElem? ho
  refine ⟨fun hg => ⟨_, hgone hg, ?_⟩, fun hg hfl hc => ⟨_, hadd hg hc, ?_⟩⟩
  · have hmx := finishMtacc_mx s s.on.core op (srchBits j)
    refine ⟨congrArg (·.mtaccs) hmx, congrArg (·.acc) hmx, congrArg (·.bnd) hmx, ?_⟩
    rw [← srchBits_eq]
    exact finishMtacc_ends hmem _
  · have hmx : ((withMember s s.on.core m op rest).core s.on.core).mx = { (s.core s.on.core).mx.addRows (s.core m).mx op.first op.last with
        mtaccs := (s.core s.on.core).mx.mtaccs.map fun o => if o == op then memberAdded s s.on.core m op rest else o } := by
      rw [withMember, modUnit_core_self]
    cases rest with
    | nil =>
      simp only [List.isEmpty_nil, if_true, finishMtacc_mx, hmx]
      exact ⟨fun h => absurd rfl h, fun _ => withMember_ends hmem [], trivial, trivial⟩
    | cons p ps =>
      simp only [List.isEmpty_cons, Bool.false_eq_true, if_false, hmx]
      refine ⟨fun _ => ?_, nofun, trivial, trivial⟩
      simp only [beq_iff_eq]
      rfl

theorem unitEvents_hold : unitEvents := by
  intro s n c i checked
  refine ⟨fun b t k hi hz hc hb hk hp => callStart_spec hi hz hc hb hk hp, fun op j m rest ho hx ht hr => ?_, ?_,
    fun hb => ?_, ⟨_, exec_ageStep s, fun m j => ?_⟩, ?_⟩
  · obtain ⟨hgone, hadd⟩ := mtaccMember_spec ho hx ht hr
    refine ⟨hgone, fun hg hfl hc => ?_⟩
    obtain ⟨s', hs, hkept, hends, hacc, hbnd⟩ := hadd hg hfl hc
    refine ⟨s', hs, ?_⟩
    rw [infRows_eq _ hfl] at hkept hends
    refine ⟨hkept, hends, fun row col hcol => ?_⟩
    obtain ⟨ha, hb⟩ := addRows_num c.mx (s.core m).mx hfl row hcol
    rw [joined_snd] at hb
    exact ⟨(congrArg (fun a : Mem => a.num (accAt row col) 4) hacc).trans ha, (congrArg (fun a : Mem => a.num (bndAt row col) 2) hbnd).trans hb⟩
  · have h : ((s.modUnit n MatUnit.startHeld).core n).mx = c.mx.startHeld := congrArg (·.mx) (modUnit_core_self ..)
    refine ⟨_, rfl, fun j => ?_⟩
    rw [h]
    exact startHeld_macros ..
  · have he : exec .calibrationEnd s = .next (({ s with free := s.free + 512 } : State).modUnit n (·.endCalibration i c.tnow s.free)) :=
      congrArg Host.Outcome.next (if_pos hb)
    have h : ((({ s with free := s.free + 512 } : State).modUnit n (·.endCalibration i c.tnow s.free)).core n).mx =
      c.mx.endCalibration i c.tnow s.free := congrArg (·.mx) (modUnit_core_self ..)
    refine ⟨_, he, ?_⟩
    dsimp only
    rw [h]
    exact endCalibration_spec c.mx i c.tnow s.free
  · rw [withCores_core, recheck_macros, recheck_eq]
    rfl
  · rcases temperatureSample_cases s with ⟨ht, s', hs, hp⟩ | ⟨ht, hs, hm⟩
    · refine ⟨s', hs, ?_⟩
      dsimp only
      rw [if_pos ht]
      exact hp
    · refine ⟨_, hs, ?_⟩
      dsimp only
      rw [if_neg ht]
      refine ⟨rfl, fun m => ?_⟩
      rw [hm, sampledCore]
      split
      · refine ⟨rfl, fun j => ?_⟩
        rw [recheck_macros, recheck_eq]
        rfl
      · rfl

end Sys2Proof.Proofs
end

section
/-!
PROOFS. Power and errors by themselves: start-up, corrected errors, parity mismatches, and the destruction of a context (R63, R64, R438, R489,
R491, R493, R494). Settles O48.
-/
namespace Sys2Proof.Proofs
open Machine Laws

/-! ## Start-up (R489, R491) -/

/-- A start that fails counts, and the third in a row leaves the device in minimal mode. -/
theorem failStart_dev (s : State) (reason : Nat) (v : Findings) : let d := (s.failStart reason v).dev
    d.power = (if 3 ≤ s.dev.flash.fails + 1 then .minimal else .failed) ∧ d.flash = { s.dev.flash with fails := s.dev.flash.fails + 1 } := by
  refine ⟨?_, rfl⟩
  change (if decide (3 ≤ s.dev.flash.fails + 1) = true then Power.minimal else Power.failed) = _
  simp only [decide_eq_true_eq]

/-- How a start ends that found the flash `f`: as a failed one, or with the device running in phase 0 on cores of which at least one is
available. -/
def StartEnds (f : Flash) (s : State) : Prop :=
  (s.dev.power = (if 3 ≤ f.fails + 1 then .minimal else .failed) ∧ s.dev.flash = { f with fails := f.fails + 1 }) ∨
  (s.dev.power = .running ∧ s.dev.phase = 0 ∧ s.dev.flash = { f with fails := 0 } ∧ ∃ m, (s.core m).avail = true)

theorem startEnds_failStart {s : State} {f : Flash} (h : s.dev.flash = f) (reason : Nat) (v : Findings) : StartEnds f (s.failStart reason v) := by
  subst h
  exact .inl (failStart_dev s reason v)

/-- A start that a trip or a reset stops has failed. -/
theorem startEnds_stopsStart {s k : State} {f : Flash} (h : s.dev.flash = f) (hk : StartEnds f k) (seed step : Nat) (v : Findings) :
    StartEnds f (s.stopsStart seed step v k) := by
  unfold State.stopsStart
  split
  · split
    · exact startEnds_failStart h _ _
    · exact hk
  · exact hk

theorem writeBackRec_core (s : State) (n : CoreId) (r : QRec) (m : CoreId) : (s.writeBackRec n r).core m = s.core m := by
  unfold State.writeBackRec
  dsimp only
  split <;> rfl

theorem writeBackRec_phase (s : State) (n : CoreId) (r : QRec) : (s.writeBackRec n r).dev.phase = s.dev.phase := by
  unfold State.writeBackRec
  dsimp only
  split <;> rfl

@[simp] theorem choose_dev (s : State) (k : Nat) : (s.choose k).2.dev = s.dev := rfl
@[simp] theorem choose_core (s : State) (k : Nat) (m : CoreId) : (s.choose k).2.core m = s.core m := rfl

/-- Bringing up the first context ends with a record in a queue; before it the phase and the cores are as they were. -/
theorem boot_eq_push (s : State) (n : CoreId) :
    ∃ (q : State) (r : QRec), s.boot n = q.push n r ∧ q.dev.phase = s.dev.phase ∧ ∀ m, q.core m = s.core m := by
  unfold State.boot
  dsimp only
  refine ⟨_, _, rfl, ?_, fun m => ?_⟩
  · simp only [modDev_dev, choose_dev, State.writeDram]
  · simp only [modDev_core, choose_core, State.writeDram]

/-- Bringing up the first context starts no phase, and leaves every core as available as it was. -/
theorem boot_keeps (s : State) (n : CoreId) :
    (s.boot n).dev.phase = s.dev.phase ∧ ∀ m, ((s.boot n).core m).avail = (s.core m).avail := by
  obtain ⟨q, r, he, hp, hc⟩ := boot_eq_push s n
  rw [he, State.push]
  refine ⟨(writeBackRec_phase ..).trans hp, fun m => (modCore_proj (·.avail) _ _ _ _ ?_).trans ?_⟩
  · exact fun _ => rfl
  · rw [writeBackRec_core, hc]

/-- A device on which a core is available runs once its first context is there. -/
theorem startEnds_running {q : State} {f : Flash} (hp : q.dev.phase = 0) (hm : ∃ m, (q.core m).avail = true) (n : CoreId) (rep : Mem) :
    StartEnds f ((q.boot n).modDev fun d => { d with power := .running, flash := { f with fails := 0 }, mgmt := { d.mgmt with report := rep } }) := by
  obtain ⟨hphase, havail⟩ := boot_keeps q n
  obtain ⟨m, hm⟩ := hm
  exact .inr ⟨rfl, hphase.trans hp, rfl, m, (havail m).trans hm⟩

theorem startEnds_start (s : State) : StartEnds s.cleared.dev.flash s.start := by
  unfold State.start
  dsimp only
  split
  · exact startEnds_failStart rfl _ _
  refine startEnds_stopsStart rfl ?_ _ _ _
  have hd (cs : Vector Core 128) : ({ s.cleared with cores := cs } : State).dev = s.cleared.dev := rfl
  replace hd := hd (Vector.ofFn fun n : Fin 128 => startCore s.cleared.dev.flash.retired n (s.free + 65536 * n.val))
  generalize ({ s.cleared with
    cores := Vector.ofFn fun n : Fin 128 => startCore s.cleared.dev.flash.retired n (s.free + 65536 * n.val) } : State) = q at hd ⊢
  have hf : q.dev.flash = s.cleared.dev.flash := congrArg (·.flash) hd
  split
  · exact startEnds_failStart hf _ _
  split
  · exact startEnds_failStart hf _ _
  next hup =>
    refine startEnds_stopsStart hf (startEnds_stopsStart hf ?_ _ _ _) _ _ _
    split
    · exact startEnds_failStart hf _ _
    · obtain ⟨m, hm⟩ := List.exists_mem_of_length_pos (Nat.lt_of_lt_of_le (by decide) (Nat.le_of_not_lt hup))
      exact startEnds_running (congrArg (·.phase) hd) ⟨m, (List.mem_filter.1 hm).2⟩ _ _

/-- `POWER_ON` of a device that does not run. -/
theorem powerOn_spec {s : State} (h : s.dev.power ≠ .running) : Leads .powerOn s fun s' =>
    s'.dev.flash.starts = Min.min (s.dev.flash.starts + 1) (2 ^ 32 - 1) ∧
    (if s'.dev.power = .running then s'.dev.phase = 0 ∧ s'.dev.flash.fails = 0 ∧ (∃ m : CoreId, (s'.core m).avail = true)
      else s'.dev.flash.fails = s.dev.flash.fails + 1 ∧ s'.dev.power = if 3 ≤ s.dev.flash.fails + 1 then .minimal else .failed) := by
  refine ⟨s.start, congrArg Host.Outcome.next (if_neg h), ?_⟩
  rcases startEnds_start s with ⟨hp, hf⟩ | ⟨hp, hphase, hf, hm⟩
  · have hn : s.start.dev.power ≠ .running := by rw [hp]; split <;> decide
    rw [if_neg hn, hf, hp]
    exact ⟨rfl, rfl, rfl⟩
  · rw [if_pos hp, hf]
    exact ⟨rfl, hphase, rfl, hm⟩

/-! ## Errors (R494) -/

/-- A word with one bit set. -/
theorem getLsbD_oneBit {w b j : Nat} (hj : j < w) : (1#w <<< b).getLsbD j = decide (j = b) := by
  have h := BitVec.getLsbD_twoPow (w := w) b j
  rw [BitVec.twoPow_eq] at h
  rw [h, Bool.eq_iff_iff]
  simp only [Bool.and_eq_true, decide_eq_true_eq]
  omega

/-- A corrected error counts for its bank, which is to be retired at the 256th. -/
theorem correct_spec (c : Core) (b : Fin 32) : let x := c.correct b
    x.corrected[b] = c.corrected[b] + 1 ∧ (∀ j : Fin 32, j ≠ b → x.corrected[j] = c.corrected[j]) ∧
    ∀ j < 32, x.pend.getLsbD j = (c.pend.getLsbD j || (decide (j = b.val ∧ 256 ≤ c.corrected[b] + 1) && c.live.getLsbD j)) := by
  refine ⟨by simp [Core.correct], fun j hj => ?_, fun j hj => ?_⟩
  · have hv : b.val ≠ j.val := fun e => hj (Fin.ext e.symm)
    simp [Core.correct, Vector.getElem_set_ne, hv]
  · change (if 256 ≤ c.corrected[b] + 1 ∧ c.live.getLsbD b.val = true then c.pend ||| (1#32 <<< b.val) else c.pend).getLsbD j = _
    by_cases hk : 256 ≤ c.corrected[b] + 1 ∧ c.live.getLsbD b.val = true
    · obtain ⟨h256, hlive⟩ := hk
      rw [if_pos ⟨h256, hlive⟩, BitVec.getLsbD_or, getLsbD_oneBit hj]
      by_cases hb : j = b.val
      · rw [hb, hlive, decide_eq_true (⟨rfl, h256⟩ : b.val = b.val ∧ 256 ≤ c.corrected[b] + 1), decide_eq_true rfl, Bool.and_self]
      · rw [decide_eq_false hb, decide_eq_false fun h => hb h.1, Bool.false_and]
    · rw [if_neg hk]
      have hz : (decide (j = b.val ∧ 256 ≤ c.corrected[b] + 1) && c.live.getLsbD j) = false := by
        rw [Bool.and_eq_false_iff, decide_eq_false_iff_not]
        by_contra hn
        obtain ⟨h, hl⟩ := not_or.1 hn
        obtain ⟨rfl, h256⟩ := not_not.1 h
        exact hk ⟨h256, by simpa using hl⟩
      rw [hz, Bool.or_false]

/-- A parity mismatch marks its row, and changes no byte of another. -/
theorem corruptRow_spec (m : MatUnit) (i : Fin 64) (row : Nat) (bs : List Byte) : let u := m.corruptRow i row bs
    (∀ j < 256, u.macros[i].parity.getLsbD j = (decide (j = row) || m.macros[i].parity.getLsbD j)) ∧
    ∀ z, z < i.val * 0x4000 + row * 64 ∨ i.val * 0x4000 + row * 64 + 64 ≤ z → u.array.get z = m.array.get z := by
  refine ⟨fun j hj => ?_, fun z hz => get_write_outside _ _ _ _ ?_⟩
  · have h : (m.corruptRow i row bs).macros[i].parity = m.macros[i].parity ||| (1#256 <<< row) := by simp [MatUnit.corruptRow]
    rw [h, BitVec.getLsbD_or, getLsbD_oneBit hj, Bool.or_comm]
  · rw [List.length_take]; omega

/-! ## Destruction of a context (R438) -/

/-- A fold over a list keeps what its every step keeps. -/
theorem foldl_keeps {σ α β : Type} {f : σ → α → σ} (g : σ → β) (h : ∀ s a, g (f s a) = g s) : ∀ (l : List α) (s : σ), g (l.foldl f s) = g s
  | [], _ => rfl
  | a :: l, s => (foldl_keeps g h l (f s a)).trans (h s a)

/-- The contexts whose partitions and tasks a core holds, and its records. -/
abbrev Holdings := List (BitVec 16) × Vector (Option (BitVec 16)) 4 × Vector (List QRec) 8

/-- What a core holds of contexts. -/
def holdings (c : Core) : Holdings := (c.ctxs.map (·.ctx), c.banks.map (Option.map (·.ctx)), c.lanes)

/-- What a device has logged and sent, its jobs, and what its cores hold of contexts. -/
def standing (s : State) : List (BitVec 16) × List Sent × List (Nat × Job) × (CoreId → Holdings) :=
  (s.dev.log, s.outbox, s.dev.jobs, fun m => holdings (s.core m))

theorem standing_cur (s : State) (n : CoreId) : standing { s with cur := n } = standing s := rfl

theorem standing_modDev {s : State} {f : Device → Device} (hl : (f s.dev).log = s.dev.log) (hj : (f s.dev).jobs = s.dev.jobs) :
    standing (s.modDev f) = standing s := by
  simp only [standing, modDev_dev, hl, hj]
  rfl

theorem standing_modCore {s : State} {n : CoreId} {f : Core → Core} (h : ∀ c, holdings (f c) = holdings c) : standing (s.modCore n f) = standing s := by
  have hc : (fun m => holdings ((s.modCore n f).core m)) = fun m => holdings (s.core m) := funext fun m => modCore_proj holdings s n m f h
  simp only [standing, hc]
  rfl

/-- The release of entries touches the wait-for table and the monitors alone. -/
theorem standing_release (s : State) (p : WfEntry → Bool) : standing (s.modDev (·.release p)) = standing s :=
  standing_modDev (release_proj (·.log) _ _ fun _ _ _ => rfl) (release_proj (·.jobs) _ _ fun _ _ _ => rfl)

theorem standing_writeDram (s : State) (a : Nat) (bs : List Byte) : standing (s.writeDram a bs) = standing s := standing_modDev rfl rfl

theorem holdings_modCtx (c : Core) (x : BitVec 16) {f : CoreCtx → CoreCtx} (hf : ∀ k, (f k).ctx = k.ctx) :
    holdings (c.modCtx x f) = holdings c := by
  have h : (c.ctxs.map fun k => if k.ctx == x then f k else k).map (·.ctx) = c.ctxs.map (·.ctx) := by
    rw [List.map_map]
    refine List.map_congr_left fun k _ => ?_
    simp only [Function.comp_apply]
    split
    · exact hf k
    · rfl
  exact congrArg (fun l => (l, _, _)) h

theorem holdings_modCtxAny (c : Core) (x : BitVec 16) {f : CoreCtx → CoreCtx} (hf : ∀ k, (f k).ctx = k.ctx) :
    holdings (c.modCtxAny x f) = holdings c := holdings_modCtx c x hf

theorem standing_fold (s : State) (n : CoreId) (x : BitVec 16) : standing (s.fold n x) = standing s := by
  unfold State.fold
  split
  · rfl
  · dsimp only
    split
    · exact standing_modCore fun c => holdings_modCtx c x fun _ => rfl
    · exact (standing_writeDram ..).trans (standing_modCore fun c => holdings_modCtx c x fun _ => rfl)

theorem standing_writeDeadlock (s : State) (t : Task) (path : List WfEntry) : standing (s.writeDeadlock t path).1 = standing s := by
  unfold State.writeDeadlock
  dsimp only
  split
  · split
    · exact standing_modCore fun _ => rfl
    · rfl
  · split
    · exact standing_writeDram ..
    · rfl
  · rfl

theorem standing_modAnywhere (s : State) (tid : BitVec 16) {f : Task → Task} (hf : ∀ t, (f t).ctx = t.ctx) :
    standing (s.modAnywhere tid f) = standing s := by
  have hc : (fun m => holdings ((s.modAnywhere tid f).core m)) = fun m => holdings (s.core m) := by
    funext m
    rw [State.modAnywhere, withCores_core]
    have hfix : (Option.map (·.ctx)) ∘ (Option.map fun t : Task => if t.tid == tid then f t else t) = Option.map (·.ctx) := by
      funext o
      cases o with
      | none => rfl
      | some t =>
        simp only [Function.comp_apply, Option.map_some]
        split
        · rw [hf]
        · rfl
    simp only [holdings, Vector.map_map, hfix]
  simp only [standing, hc]
  rfl

theorem standing_pendDeadlock (s : State) (e : WfEntry) (path : List WfEntry) : standing (s.pendDeadlock e path) = standing s := by
  have hr := standing_release s (·.idx == e.idx)
  unfold State.pendDeadlock
  dsimp only
  generalize s.modDev (·.release (·.idx == e.idx)) = q at hr ⊢
  split
  · exact hr
  · rw [standing_modAnywhere, standing_cur, standing_writeDeadlock, standing_cur, hr]
    exact fun _ => rfl

theorem standing_rewireEdge (s : State) (e : WfEntry) : standing (s.rewireEdge e) = standing s := by
  unfold State.rewireEdge
  dsimp only
  split
  · rfl
  have h : standing (s.modDev fun d => { d with wf := d.wf.map fun x => if x.idx == e.idx then { e with owner := s.ownerOf e } else x }) =
    standing s := standing_modDev rfl rfl
  generalize s.modDev _ = q at h ⊢
  split
  · exact h
  · rw [standing_modCore fun c => holdings_modCtxAny c e.ctx _, h]
    exact fun _ _ => rfl
  · exact (standing_pendDeadlock ..).trans h

theorem standing_rewire (s : State) : standing s.rewire = standing s :=
  foldl_keeps standing (fun s e => by split; exacts [standing_rewireEdge .., rfl]) _ _

theorem standing_disown (s : State) (tid : BitVec 16) : standing (s.disown tid) = standing s := standing_modDev rfl rfl

/-- What a destroyed context leaves standing (R438): no job of its own, and of each core what that core forgets to. -/
theorem standing_destroy (s : State) (x : BitVec 16) : standing (s.destroy x) =
    (s.dev.log, s.outbox, s.dev.jobs.filter (·.2.ctx != x), fun m => holdings (((allCores.foldl (fun s n => s.fold n x) s).core m).forget x)) := by
  have hfold := foldl_keeps standing (fun s n => standing_fold s n x) allCores s
  unfold State.destroy
  dsimp only
  rw [standing_rewire, foldl_keeps standing standing_disown]
  generalize allCores.foldl (fun s n => s.fold n x) s = q at hfold ⊢
  obtain ⟨hlog, hout, hjobs, -⟩ : q.dev.log = s.dev.log ∧ q.outbox = s.outbox ∧ q.dev.jobs = s.dev.jobs ∧ _ := by
    simpa only [standing, Prod.mk.injEq] using hfold
  rw [← hlog, ← hout, ← hjobs]
  refine Prod.ext ?_ (Prod.ext rfl (Prod.ext rfl (funext fun m => ?_)))
  · exact release_proj (·.log) q.dev (·.ctx == x) fun _ _ _ => rfl
  · exact congrArg holdings (withCores_core q (·.forget x) m)

/-- A core that has forgotten a context holds nothing of it. -/
theorem nothing_of_forgotten {c d : Core} {x : BitVec 16} (h : holdings c = holdings (d.forget x)) :
    c.cctx x = none ∧ (∀ p ∈ c.tasks, p.2.ctx ≠ x) ∧ ∀ (p : Fin 8) r, r ∈ c.lanes[p] → r.ctx ≠ x := by
  obtain ⟨hctxs, hbanks, hlanes⟩ : c.ctxs.map (·.ctx) = (d.forget x).ctxs.map (·.ctx) ∧
      c.banks.map (Option.map (·.ctx)) = (d.forget x).banks.map (Option.map (·.ctx)) ∧ c.lanes = (d.forget x).lanes := by
    simpa only [holdings, Prod.mk.injEq] using h
  refine ⟨?_, fun p hp hx => ?_, fun p r hr => ?_⟩
  · refine List.find?_eq_none.2 fun k hk hx => ?_
    have hm : k.ctx ∈ (d.forget x).ctxs.map (·.ctx) := hctxs ▸ List.mem_map_of_mem hk
    obtain ⟨q, hq, he⟩ := List.mem_map.1 hm
    have hn := (List.mem_filter.1 hq).2
    rw [he] at hn
    exact absurd (beq_iff_eq.1 hx) (bne_iff_ne.1 hn)
  · have hb := congrArg (fun v : Vector (Option (BitVec 16)) 4 => v[p.1]) hbanks
    have ht : c.banks[p.1.val] = some p.2 := mem_tasks hp
    simp only [Fin.getElem_fin, Vector.getElem_map, ht, Core.forget, Option.map_some] at hb
    obtain ⟨u, hu, he⟩ := Option.map_eq_some_iff.1 hb.symm
    obtain ⟨-, hn⟩ := Option.filter_eq_some_iff.1 hu
    rw [he, hx] at hn
    exact absurd rfl (bne_iff_ne.1 hn)
  · rw [hlanes] at hr
    simp only [Core.forget, Fin.getElem_fin, Vector.getElem_map] at hr
    exact bne_iff_ne.1 (List.mem_filter.1 hr).2

/-- The destruction of a context leaves nothing of it on any core, and no job (R438). -/
theorem destroy_spec (s : State) (x : BitVec 16) : (s.destroy x).dev.log = s.dev.log ∧ (s.destroy x).outbox = s.outbox ∧
    (∀ j ∈ (s.destroy x).dev.jobs, j.2.ctx ≠ x) ∧ ∀ m, ((s.destroy x).core m).cctx x = none ∧
      (∀ p ∈ ((s.destroy x).core m).tasks, p.2.ctx ≠ x) ∧ ∀ (p : Fin 8) r, r ∈ ((s.destroy x).core m).lanes[p] → r.ctx ≠ x := by
  have h := standing_destroy s x
  generalize s.destroy x = q at h ⊢
  obtain ⟨hlog, hout, hjobs, hcores⟩ : q.dev.log = s.dev.log ∧ q.outbox = s.outbox ∧ q.dev.jobs = s.dev.jobs.filter (·.2.ctx != x) ∧ _ := by
    simpa only [standing, Prod.mk.injEq] using h
  refine ⟨hlog, hout, fun j hj => ?_, fun m => nothing_of_forgotten (congrFun hcores m)⟩
  rw [hjobs] at hj
  exact bne_iff_ne.1 (List.mem_filter.1 hj).2

/-- The loss of a context is logged on the management port (R494). -/
def logged (s : State) (x : BitVec 16) : State :=
  let s' := s.modDev fun d => { d with log := d.log ++ [x] }
  { s' with outbox := s'.outbox ++ [.log x] }

theorem logged_log (s : State) (x : BitVec 16) : (logged s x).dev.log = s.dev.log ++ [x] := rfl
theorem logged_outbox (s : State) (x : BitVec 16) : (logged s x).outbox = s.outbox ++ [.log x] := rfl
theorem logged_jobs (s : State) (x : BitVec 16) : (logged s x).dev.jobs = s.dev.jobs := rfl
theorem logged_core (s : State) (x : BitVec 16) (m : CoreId) : (logged s x).core m = s.core m := rfl

section
variable {s : State}

theorem exec_uncorrectableError (s : State) : exec .uncorrectableError s = execUncorrectableError s := rfl

/-- The bank of an address has one more corrected error. The place of an offset is given by name, as a function `g`: the kernel is not to
evaluate its arithmetic. -/
theorem correctAt_bank {g : Core → Nat → Option BankPlace} (hg : Core.bankPlace = g) {a : Nat} {m : CoreId} {o : Nat} {p : BankPlace}
    (hp : placeOf a = .dram m o) (hb : g (s.core m) o = some p) : s.correctAt a = s.modCore m fun c => c.correct (Fin.ofNat 32 p.bank) := by
  unfold State.correctAt
  rw [hg, hp]
  dsimp only
  rw [hb]

/-- An error that SEC-DED corrects counts for the bank of its address. -/
theorem exec_corrected {m : CoreId} {o : Nat} {p : BankPlace} (hf : s.on.flag = true) (hp : placeOf s.on.addr.toNat = .dram m o)
    (hb : (s.core m).bankPlace o = some p) :
    exec .uncorrectableError s = .next (s.modCore m fun c => c.correct (Fin.ofNat 32 p.bank)) := by
  rw [exec_uncorrectableError]
  unfold execUncorrectableError
  rw [if_pos hf, correctAt_bank rfl hp hb]

/-- A parity mismatch in a row of the array. -/
theorem exec_mismatch (hf : s.on.flag = false) (he : s.on.engine = true) : exec .uncorrectableError s =
    .next (s.modUnit s.on.core fun u => u.corruptRow (Fin.ofNat 64 s.on.index) (s.on.index2 % 256) s.on.data) := by
  rw [exec_uncorrectableError]
  unfold execUncorrectableError State.modUnit
  rw [if_neg (by rw [hf]; decide), if_pos he]

/-- An uncorrectable error destroys the context that it hits, where the device holds something of it. -/
theorem exec_contextLost (hf : s.on.flag = false) (he : s.on.engine = false) (hx : s.holdsContext s.on.ctx = true) :
    exec .uncorrectableError s = .next (logged (s.destroy s.on.ctx) s.on.ctx) := by
  rw [exec_uncorrectableError]
  unfold execUncorrectableError logged
  rw [if_neg (by rw [hf]; decide), if_neg (by rw [he]; decide), if_pos hx]

end

theorem powerEvents_hold : powerEvents := by
  intro s n i row
  refine ⟨rfl, rfl, powerOn_spec, fun m o p hf hp hb => ?_, fun hf he => ?_, fun hf he hx => ?_⟩
  · refine ⟨_, exec_corrected hf hp hb, ?_⟩
    dsimp only
    rw [modCore_core_self]
    obtain ⟨hself, hother, hpend⟩ := correct_spec (s.core m) (Fin.ofNat 32 p.bank)
    exact ⟨hself, hother, rfl, hpend⟩
  · refine ⟨_, exec_mismatch hf he, rfl, ?_⟩
    rw [modUnit_core_self]
    exact corruptRow_spec (s.core n).mx i row s.on.data
  · obtain ⟨hlog, hout, hjobs, hcores⟩ := destroy_spec s s.on.ctx
    refine ⟨_, exec_contextLost hf he hx, ?_⟩
    dsimp only
    rw [logged_log, logged_outbox, logged_jobs, hlog, hout]
    exact ⟨rfl, rfl, hjobs, fun m => by rw [logged_core]; exact hcores m⟩

/-- Settles O48: the clauses of the matrix unit, and those of power and errors, each from what its event does. -/
theorem unitAndPowerEvents : Obligations.UnitAndPowerEvents := ⟨unitEvents_hold, powerEvents_hold⟩

end Sys2Proof.Proofs
end

section
/-!
PROOFS. Translation maintenance (R89): what an invalidation drops from the TLBs of the device. Settles O38.
-/
namespace Sys2Proof.Proofs
open Machine Laws

/-- The end of a wait changes of the device only the table and the monitors. -/
theorem endWait_dev_proj {α : Type} (g : Device → α) (s : State) (h : ∀ (d : Device) w m, g { d with wf := w, monitors := m } = g d) :
    g s.endWait.dev = g s.dev := by
  unfold State.endWait
  split
  · rfl
  · exact release_proj g _ _ h

/-- An instruction of a slot that performs, given the live task. -/
theorem issue_ok {s s' : State} {t : Task} {f : Task → Act} (hl : s.live = some t) (hf : f t = .ok s') : issue s f = .next s'.goesOn := by
  rw [issue_live hl, hf]; rfl

/-- What an invalidation of what `p` names leaves when its instruction goes on (R89): the TLBs without those entries, and an invalidation that the
task awaits. -/
theorem invalidate_goesOn {s : State} {t : Task} (asn : Option (BitVec 8)) (p : TlbEntry → Bool) :
    let s' := (s.invalidate t asn p).goesOn
    ∃ t', s'.live = some t' ∧ s'.wentOn ∧ t'.regs = t.regs ∧ t'.invalidating = t.invalidating ++ [s.serial] ∧
      s'.dev.invs = s.dev.invs ++ [{ uid := s.serial, asn := asn }] ∧
      (∀ n e, e ∈ (s'.core n).tlb ↔ e ∈ (s.core n).tlb ∧ ¬ p e = true) ∧ ∀ q, q ∈ s'.dev.tlb2 ↔ q ∈ s.dev.tlb2 ∧ ¬ p q.2 = true := by
  intro s'
  have hlive : s'.live = (s.invalidate t asn p).live.map fun t => { t with waiting := none, untethered := false } := endWait_live _
  have hinvs : s'.dev.invs = (s.invalidate t asn p).dev.invs := endWait_dev_proj (·.invs) _ fun _ _ _ => rfl
  have htlb2 : s'.dev.tlb2 = (s.invalidate t asn p).dev.tlb2 := endWait_dev_proj (·.tlb2) _ fun _ _ _ => rfl
  have htlb (n : CoreId) : (s'.core n).tlb = (s.core n).tlb.filter fun e => !p e :=
    calc (s'.core n).tlb = ((s.invalidate t asn p).core n).tlb := endWait_proj (·.tlb) _ n fun _ _ _ => rfl
      _ = ((s.dropTlbs p).core n).tlb := setLive_proj (·.tlb) _ _ n fun _ _ => rfl
      _ = (s.core n).tlb.filter fun e => !p e := by simp [State.core, State.dropTlbs]
  refine ⟨_, hlive.trans (congrArg _ (setLive_live ..)), trivial, rfl, rfl, hinvs, fun n e => ?_, fun q => ?_⟩
  · rw [htlb, List.mem_filter, Bool.not_eq_true', Bool.not_eq_true]
  · rw [htlb2]
    change q ∈ s.dev.tlb2.filter (fun e => !p e.2) ↔ _
    rw [List.mem_filter, Bool.not_eq_true', Bool.not_eq_true]

/-- Settles O38: each form either performs nothing or invalidates what it names, according to the address space and the page. -/
theorem invalidations : Obligations.Invalidations := by
  unfold Obligations.Invalidations
  intro s t a b z hl va k drops
  have named {i : Instr} {f : Task → Act} {asn : Option (BitVec 8)} {p : TlbEntry → Bool} {P : TlbEntry → Prop} (hi : exec i s = issue s f)
      (hf : f t = .ok (s.invalidate t asn p)) (hp : ∀ e, p e = true ↔ P e) : drops i asn P := by
    obtain rfl : P = fun e => p e = true := funext fun e => propext (hp e).symm
    exact ⟨_, hi.trans (issue_ok hl hf), invalidate_goesOn asn p⟩
  refine ⟨fun hn => ⟨issue_ok hl ?_, issue_ok hl ?_⟩, fun hlo hhi => issue_ok hl ?_, fun asn hs => ⟨fun hv => ?_, ?_⟩, fun hk => ?_, fun hk => ?_⟩
  · simp only [hn]
  · simp only [hn]
  · split
    · rfl
    · exact if_pos ⟨hlo, hhi⟩
  · refine named rfl (p := fun e => e.sz == z && e.covers asn va) ?_ fun e => by simp
    simp only [hs]
    exact if_neg (by omega)
  · refine named rfl (p := fun e => e.asn == asn) ?_ fun e => beq_iff_eq
    simp only [hs]
  · exact named rfl (if_pos hk) fun e => iff_of_true rfl trivial
  · exact named rfl (if_neg (Bool.eq_false_iff.1 hk)) fun e => beq_iff_eq

end Sys2Proof.Proofs
end

section
/-!
PROOFS. Region maintenance (R83, R90): an `rgsync` that begins, what its barrier's granule allows, and the arrivals it makes. Settles O39.
-/
namespace Sys2Proof.Proofs
open Machine Laws

/-! ## A core whose scoreboard alone differs -/

/-- A core with other entries and other `rgsync`s. -/
def onBoard (b : List SbEntry) (y : List RgSync) (c : Core) : Core := { c with sb := b, syncs := y }

/-- The second state is the first with other entries and `rgsync`s on core `n`. -/
def BoardOnly (n : CoreId) (b : List SbEntry) (y : List RgSync) (s q : State) : Prop :=
  ∀ m, q.core m = if m = n then onBoard b y (s.core m) else s.core m

theorem BoardOnly.self {n : CoreId} {b : List SbEntry} {y : List RgSync} {s q : State} (h : BoardOnly n b y s q) : q.core n = onBoard b y (s.core n) := by
  simpa using h n

/-- The touch of granules depends on no entry and changes none. -/
theorem touch_onBoard (b : List SbEntry) (y : List RgSync) (c : Core) (x : BitVec 16) (spans : List (Nat × Nat)) (write : Bool) :
    (onBoard b y c).touch x spans write = onBoard b y (c.touch x spans write) := by
  refine List.foldl_hom (onBoard b y) fun c g => ?_
  have hc : (onBoard b y c).cctx x = c.cctx x := rfl
  rw [hc]
  split
  · rfl
  · split
    · rfl
    · dsimp only
      split <;> split <;> rfl

/-! ## Arrivals (R108, R381) -/

/-- A core after an arrival at a physical loft offset. -/
def arriveCore (a bytes : Nat) (c : Core) : Core :=
  let w := barArrive (w64 (c.loft.num a 8)) (w64 (c.loft.num (a + 8) 8)) bytes
  { c with loft := (c.loft.setNum a 8 w.1.toNat).setNum (a + 8) 8 w.2.toNat }

theorem arriveAt_eq (s : State) (n : CoreId) (a bytes : Nat) : s.arriveAt n a bytes = s.modCore n (arriveCore a bytes) := rfl

/-- A core after a command's arrival at the barrier at an offset of a context's partition: the barrier's granule is touched first. -/
def arrivedCore (x : BitVec 16) (o bytes : Nat) (c : Core) : Core :=
  arriveCore (((c.cctx x).getD (.missing x)).base + o) bytes (c.touch x [(o, 16)] true)

theorem arrivedCore_onBoard (b : List SbEntry) (y : List RgSync) (x : BitVec 16) (o bytes : Nat) (c : Core) :
    arrivedCore x o bytes (onBoard b y c) = onBoard b y (arrivedCore x o bytes c) := by
  rw [arrivedCore, touch_onBoard]; rfl

theorem arrival_none (s : State) (n : CoreId) (x : BitVec 16) (bytes : Nat) : s.arrival n x 0 bytes = s := if_pos (.inl rfl)

theorem arrival_core {v : W64} {bytes : Nat} (hv : v ≠ 0) (hb : bytes ≠ 0) (s : State) (n m : CoreId) (x : BitVec 16) :
    (s.arrival n x v bytes).core m =
      if m = (barrierAt n v).1 then arrivedCore x (barrierAt n v).2 bytes (s.core m) else s.core m := by
  rw [State.arrival, if_neg (by tauto)]
  dsimp only
  rw [arriveAt_eq]
  split
  next h => subst h; rw [modCore_core_self, modCore_core_self]; rfl
  next h => rw [modCore_core_ne _ _ h, modCore_core_ne _ _ h]

/-- An arrival does not depend on what is on a scoreboard, and leaves it. -/
theorem BoardOnly.arrival {n : CoreId} {b : List SbEntry} {y : List RgSync} {s q : State} (h : BoardOnly n b y s q) (k : CoreId) (x : BitVec 16)
    (v : W64) {bytes : Nat} (hb : bytes ≠ 0) : BoardOnly n b y (s.arrival k x v bytes) (q.arrival k x v bytes) := by
  by_cases hv : v = 0
  · rwa [hv, arrival_none, arrival_none]
  intro m
  rw [arrival_core hv hb, arrival_core hv hb, h m]
  split <;> split
  · exact arrivedCore_onBoard ..
  · rfl
  · rfl
  · rfl

/-- As many arrivals of one granule. -/
def arrivalsOf (n : CoreId) (x : BitVec 16) (v : W64) (m : Nat) (s : State) : State := (List.range m).foldl (fun q _ => q.arrival n x v 64) s

theorem arrivalsOf_succ (n : CoreId) (x : BitVec 16) (v : W64) (m : Nat) (s : State) :
    arrivalsOf n x v (m + 1) s = arrivalsOf n x v m (s.arrival n x v 64) := by
  rw [arrivalsOf, List.range_succ_eq_map, List.foldl_cons, List.foldl_map]; rfl

theorem arrivalsOf_none (n : CoreId) (x : BitVec 16) (m : Nat) (s : State) : arrivalsOf n x 0 m s = s :=
  foldl_keeps id (fun q _ => arrival_none q n x 64) _ s

theorem BoardOnly.arrivals {n : CoreId} {b : List SbEntry} {y : List RgSync} (k : CoreId) (x : BitVec 16) (v : W64) :
    ∀ (m : Nat) {s q : State}, BoardOnly n b y s q → BoardOnly n b y (arrivalsOf k x v m s) (arrivalsOf k x v m q)
  | 0, _, _, h => h
  | m + 1, _, _, h => by
    rw [arrivalsOf_succ, arrivalsOf_succ]
    exact BoardOnly.arrivals k x v m (h.arrival k x v (by decide))

/-! ## The first touch of a barrier's granule (R83) -/

theorem granules_barrier {o : Nat} (h : o % 16 = 0) : granules [(o, 16)] = [o / 64] := by
  have hg : (o + 15) / 64 - o / 64 + 1 = 1 := by omega
  simp [granules, hg, List.eraseDups_cons]

theorem not_coversGranule_barrier (o g : Nat) : coversGranule [(o, 16)] g = false := by
  rw [Bool.eq_false_iff]
  intro h
  simp only [coversGranule, List.any_cons, List.any_nil, Bool.or_false, Bool.or_eq_true, Bool.and_eq_true, decide_eq_true_eq, List.all_eq_true,
    List.mem_range] at h
  obtain h | h := h
  · omega
  · have h0 := h 0 (by decide)
    have h63 := h 63 (by decide)
    omega

/-- The touch of a barrier's granule in a region: its first touch under FILL = 0b10 if that is due, and dirt (R83). -/
theorem touch_barrier {c : Core} {x : BitVec 16} {k : CoreCtx} {i : Fin 16} {o : Nat} (ho : o % 16 = 0) (hk : c.cctx x = some k)
    (hi : k.regionOf (o / 64) = some i) : c.touch x [(o, 16)] true =
      (if !k.isResident (o / 64) && k.regionFill i == 2 then c.touchZero k i (o / 64) else c).modCtx x fun k =>
        if k.regionWb i != 0 then k.soil (o / 64) else k := by
  simp [Core.touch, granules_barrier ho, hk, hi, not_coversGranule_barrier]

theorem arrive_isResident (k : CoreCtx) (g : Nat) : (k.arrive g).isResident g = true := by
  simp [CoreCtx.isResident, CoreCtx.arrive, get_write]

/-- A first touch that an arrival would make itself changes nothing of what the arrival leaves. -/
theorem arrivedCore_touchZero {c : Core} {x : BitVec 16} {k : CoreCtx} {i : Fin 16} {o : Nat} (ho : o % 16 = 0) (hk : c.cctx x = some k)
    (hi : k.regionOf (o / 64) = some i) (hr : k.isResident (o / 64) = false) (hf : k.regionFill i = 2) (bytes : Nat) :
    arrivedCore x o bytes (c.touchZero k i (o / 64)) = arrivedCore x o bytes c := by
  have hx : k.ctx = x := by simpa using List.find?_some hk
  have hz : (c.touchZero k i (o / 64)).cctx x = some (k.arrive (o / 64)) := by
    have h := cctx_modCtx { c with loft := c.loft.zero (k.base + o / 64 * 64) 64,
                                   tags := if k.regionTagf i then fillTags c.tags k.base (o / 64) else c.tags } x
      (f := fun k => k.arrive (o / 64)) fun _ => rfl
    rw [← hx] at h hk ⊢
    exact h.trans (congrArg (Option.map _) hk)
  have ht : (c.touchZero k i (o / 64)).touch x [(o, 16)] true = c.touch x [(o, 16)] true := by
    rw [touch_barrier ho hz hi, touch_barrier ho hk hi, arrive_isResident, hr, hf]; rfl
  rw [arrivedCore, arrivedCore, ht, hz, hk]; rfl

/-! ## The granule of the barrier (R83, R148) -/

/-- A context that a core does not hold has no region. -/
theorem regionOf_none {k : CoreCtx} (h : k.rgva = Vector.replicate 16 0) (g : Nat) : k.regionOf g = none := by
  simp [CoreCtx.regionOf, CoreCtx.regionValid, h]

/-- A context of which a region covers a granule is held by the core. -/
theorem cctx_of_ctxOn_regionOf {s : State} {n : CoreId} {x : BitVec 16} {g : Nat} {i : Fin 16} (h : (s.ctxOn n x).regionOf g = some i) :
    (s.core n).cctx x = some (s.ctxOn n x) := by
  unfold State.ctxOn at h ⊢
  split at h
  next k hk => simp only [hk]
  next hk => rw [regionOf_none rfl] at h; cases h

theorem cctx_of_cctx_regionOf {s : State} {t : Task} {g : Nat} {i : Fin 16} (h : (s.cctx t).regionOf g = some i) :
    (s.core s.cur).cctx t.ctx = some (s.cctx t) := by
  unfold State.cctx at h ⊢
  cases hk : (s.core s.cur).cctx t.ctx with
  | some k => rfl
  | none => rw [hk, Option.getD_none, regionOf_none rfl] at h; cases h

/-- An agent that has no entry is held by none (R145). -/
theorem olderHolds_of_no_entry {s : State} {a : Agent} (h : ∀ e ∈ (s.core a.core).sb, e.owner ≠ a.owner) (sp : SbSpace) :
    s.olderHolds a sp = false := by
  have hn : ((s.core a.core).sb.filter fun e => e.owner == a.owner && e.space == sp) = [] :=
    List.filter_eq_nil_iff.2 fun e he => by simp [h e he]
  simp [State.olderHolds, Core.heldIn, hn]

/-- A granule that is in no region, or resident, is ready for an agent that has no entry. -/
theorem loftReady_resident {s : State} {a : Agent} {g : Nat} (h : ∀ e ∈ (s.core a.core).sb, e.owner ≠ a.owner)
    (hr : ∀ i, (s.agentCtx a).regionOf g = some i → (s.agentCtx a).isResident g = true) : s.loftReady a true false g = .ok s := by
  simp only [State.loftReady, olderHolds_of_no_entry h, Bool.false_eq_true, if_false]
  split
  · rfl
  next i hi => simp [hr i hi]

/-- A granule that is absent under FILL = 0b10 is ready after its first touch. -/
theorem loftReady_zero {s : State} {a : Agent} {g : Nat} {i : Fin 16} (h : ∀ e ∈ (s.core a.core).sb, e.owner ≠ a.owner)
    (hi : (s.agentCtx a).regionOf g = some i) (hr : (s.agentCtx a).isResident g = false) (hf : (s.agentCtx a).regionFill i = 2) :
    s.loftReady a true false g = .ok (s.modCore a.core fun c => c.touchZero (s.agentCtx a) i g) := by
  simp [State.loftReady, olderHolds_of_no_entry h, hi, hr, hf]

/-- The start of a fill leaves the loft and the `rgsync`s of every core. -/
theorem startFill_core_proj {α : Type} (f : Core → α) (hf : ∀ (c : Core) b k q, f { c with sb := b, mapCmds := k, mapSeq := q } = f c) (s : State)
    (n m : CoreId) (k : CoreCtx) (g : Nat) (tid : BitVec 16) : f ((s.startFill n k g tid).2.core m) = f (s.core m) := by
  unfold State.startFill State.mapCommand State.fresh
  dsimp only
  by_cases h : m = n
  · subst h
    rw [modCore_core_self, setCore_core_self]
    exact hf (s.core m) _ _ _
  · rw [modCore_core_ne _ _ h, setCore_core_ne _ _ h]; rfl

/-- A granule that is absent and filled from memory is waited for, by an agent that fills nothing itself; its fill may begin. -/
theorem loftReady_absent {s : State} {a : Agent} {g : Nat} {i : Fin 16} (h : ∀ e ∈ (s.core a.core).sb, e.owner ≠ a.owner)
    (hm : ∀ m ∈ (s.core a.core).mapCmds, m.uid ≠ a.uid) (hi : (s.agentCtx a).regionOf g = some i) (hr : (s.agentCtx a).isResident g = false)
    (hf : (s.agentCtx a).regionFill i ≠ 2) : ∃ q, s.loftReady a true false g = .error (.held q) ∧
      ∀ m, (q.core m).loft = (s.core m).loft ∧ (q.core m).syncs = (s.core m).syncs := by
  have hfill : ((s.core a.core).fillOf a.ctx g).any (·.uid == a.uid) = false := by
    cases hk : (s.core a.core).fillOf a.ctx g with
    | none => rfl
    | some m => simp [hm m (List.mem_of_find?_eq_some hk)]
  simp only [State.loftReady, olderHolds_of_no_entry h, hi, hr, hf, hfill, Bool.false_eq_true, if_false, Bool.and_false, Bool.or_false]
  split
  · exact ⟨s, rfl, fun _ => ⟨rfl, rfl⟩⟩
  · split
    · exact ⟨s, rfl, fun _ => ⟨rfl, rfl⟩⟩
    · exact ⟨_, rfl, fun m => ⟨startFill_core_proj (·.loft) (fun _ _ _ _ => rfl) .., startFill_core_proj (·.syncs) (fun _ _ _ _ => rfl) ..⟩⟩

/-! ## The arrivals an `rgsync` owes -/

/-- The agent that makes the arrivals of an `rgsync`. -/
def barrierAgent (n : CoreId) (r : RgSync) : Agent := { core := n, ctx := r.ctx, tid := r.tid, uid := r.uid, owner := .cmd r.uid }

/-- A core on which an `rgsync` owes nothing any more. -/
def paidCore (uid : Nat) (c : Core) : Core := c.modSync uid fun q => { q with owed := 0 }

theorem syncArrive_of_ok {s q : State} {n : CoreId} {r : RgSync} (ho : r.owed ≠ 0) (hb : r.barrier ≠ 0)
    (h : s.loftReady (barrierAgent n r) true false (r.barrier.toNat / 64) = .ok q) :
    s.syncArrive n r = (arrivalsOf n r.ctx r.barrier r.owed q).modCore n (paidCore r.uid) := by
  rw [barrierAgent] at h
  rw [State.syncArrive, if_neg ho]
  dsimp only
  rw [if_neg hb, h]; rfl

theorem syncArrive_of_held {s q : State} {n : CoreId} {r : RgSync} (ho : r.owed ≠ 0) (hb : r.barrier ≠ 0)
    (h : s.loftReady (barrierAgent n r) true false (r.barrier.toNat / 64) = .error (.held q)) : s.syncArrive n r = q := by
  rw [barrierAgent] at h
  rw [State.syncArrive, if_neg ho]
  dsimp only
  rw [if_neg hb, h]

/-- An `rgsync` that stands last, and whose number is its own, pays. -/
theorem BoardOnly.paid {n : CoreId} {b : List SbEntry} {ys : List RgSync} {r : RgSync} {s q : State} (h : BoardOnly n b (ys ++ [r]) s q)
    (hy : ∀ y ∈ ys, y.uid ≠ r.uid) : BoardOnly n b (ys ++ [{ r with owed := 0 }]) s (q.modCore n (paidCore r.uid)) := by
  have hm : (ys ++ [r]).map (fun y => if y.uid = r.uid then { y with owed := 0 } else y) = ys ++ [{ r with owed := 0 }] := by
    rw [List.map_append, List.map_congr_left fun y hys => if_neg (hy y hys), List.map_id'']
    · simp
    · exact fun _ => rfl
  intro m
  split
  next e =>
    subst e
    rw [modCore_core_self, h.self, ← hm]; rfl
  next e => rw [modCore_core_ne _ _ e, h m, if_neg e]

/-- When its barrier's granule is no obstacle, an `rgsync` that stands last makes the arrivals that it owes. -/
theorem BoardOnly.syncArrive {n : CoreId} {b : List SbEntry} {ys : List RgSync} {r : RgSync} {s q : State} (h : BoardOnly n b (ys ++ [r]) s q)
    (hy : ∀ y ∈ ys, y.uid ≠ r.uid) (hr : r.owed ≠ 0 → r.barrier ≠ 0 →
      ∃ p, q.loftReady (barrierAgent n r) true false (r.barrier.toNat / 64) = .ok p ∧
        BoardOnly n b (ys ++ [r]) (arrivalsOf n r.ctx r.barrier r.owed s) (arrivalsOf n r.ctx r.barrier r.owed p)) :
    BoardOnly n b (ys ++ [{ r with owed := 0 }]) (arrivalsOf n r.ctx r.barrier r.owed s) (q.syncArrive n r) := by
  by_cases ho : r.owed = 0
  · have hq : q.syncArrive n r = q := if_pos ho
    have hs : arrivalsOf n r.ctx r.barrier r.owed s = s := by rw [ho]; rfl
    rw [hq, hs, ← ho]; exact h
  by_cases hb : r.barrier = 0
  · have hq : q.syncArrive n r = q.modCore n (paidCore r.uid) := by
      rw [State.syncArrive, if_neg ho]
      exact if_pos hb
    have hs : arrivalsOf n r.ctx r.barrier r.owed s = s := by rw [hb, arrivalsOf_none]
    rw [hq, hs]
    exact h.paid hy
  obtain ⟨p, hp, hpa⟩ := hr ho hb
  rw [syncArrive_of_ok ho hb hp]
  exact hpa.paid hy

theorem regionOf_lt {k : CoreCtx} {g : Nat} {i : Fin 16} (h : k.regionOf g = some i) : g < 2 ^ 17 := by
  have hi := List.find?_some h
  simp only [Bool.and_eq_true, decide_eq_true_eq] at hi
  have hlo : k.regionLo i < 2 ^ 16 := Nat.mod_lt _ (by decide)
  have hlen : k.regionLen i < 2 ^ 16 := Nat.mod_lt _ (by decide)
  omega

/-- A barrier in a region's granule is the core's own. -/
theorem barrierAt_own (n : CoreId) {v : W64} (h : v.toNat / 64 < 2 ^ 17) : barrierAt n v = (n, v.toNat) := by
  have hm : v.toNat % 2 ^ 56 = v.toNat := Nat.mod_eq_of_lt (by omega)
  simp only [barrierAt, hm, placeOf, if_pos (show v.toNat < 0x003000000000 by omega)]

/-- The granule of a barrier that lies in no region, is resident or is zero-filled is no obstacle to arrivals; its first touch is one that the first of
them would make. -/
theorem loftReady_barrier {s q : State} {t : Task} {b : List SbEntry} {y : List RgSync} {r : RgSync} (h : BoardOnly s.cur b y s q)
    (hb : ∀ e ∈ b, e.owner ≠ .cmd r.uid) (hx : r.ctx = t.ctx) (hv : r.barrier.toNat % 16 = 0) (ho : r.owed ≠ 0) (hn : r.barrier ≠ 0)
    (hr : ∀ j, (s.cctx t).regionOf (r.barrier.toNat / 64) = some j →
      (s.cctx t).isResident (r.barrier.toNat / 64) = true ∨ (s.cctx t).regionFill j = 2) :
    ∃ p, q.loftReady (barrierAgent s.cur r) true false (r.barrier.toNat / 64) = .ok p ∧
      BoardOnly s.cur b y (arrivalsOf s.cur r.ctx r.barrier r.owed s) (arrivalsOf s.cur r.ctx r.barrier r.owed p) := by
  have hq := h.self
  have hown : ∀ e ∈ (q.core s.cur).sb, e.owner ≠ .cmd r.uid := by rw [hq]; exact hb
  by_cases hz : ∀ i, (q.ctxOn s.cur r.ctx).regionOf (r.barrier.toNat / 64) = some i → (q.ctxOn s.cur r.ctx).isResident (r.barrier.toNat / 64) = true
  · exact ⟨q, loftReady_resident (a := barrierAgent s.cur r) hown hz, h.arrivals _ _ _ _⟩
  push Not at hz
  obtain ⟨i, hi, hres⟩ := hz
  rw [Ne, Bool.not_eq_true] at hres
  have hk : (s.core s.cur).cctx r.ctx = some (q.ctxOn s.cur r.ctx) := by
    have := cctx_of_ctxOn_regionOf hi
    rwa [hq] at this
  have hkt : s.cctx t = q.ctxOn s.cur r.ctx := cctx_of_resident (hx ▸ hk)
  have hf : (q.ctxOn s.cur r.ctx).regionFill i = 2 := by
    have := hr i (by rwa [hkt])
    rw [hkt, hres] at this
    simpa using this
  refine ⟨q.modCore s.cur fun c => c.touchZero (q.ctxOn s.cur r.ctx) i (r.barrier.toNat / 64),
    loftReady_zero (a := barrierAgent s.cur r) hown hi hres hf, ?_⟩
  obtain ⟨m, hm⟩ := Nat.exists_eq_succ_of_ne_zero ho
  rw [hm, arrivalsOf_succ, arrivalsOf_succ]
  refine BoardOnly.arrivals _ _ _ _ fun j => ?_
  rw [arrival_core hn (by decide), arrival_core hn (by decide), barrierAt_own _ (regionOf_lt hi)]
  by_cases hj : j = s.cur
  · subst hj
    simp only [if_true]
    rw [modCore_core_self, hq, arrivedCore_touchZero (c := onBoard b y (s.core s.cur)) hv hk hi hres hf]
    exact arrivedCore_onBoard ..
  · simp only [if_neg hj]
    rw [modCore_core_ne _ _ hj, h j, if_neg hj]

/-! ## An `rgsync` begins, and ends when nothing is left -/

/-- A core from which an `rgsync` with nothing more to do has gone. -/
def settledCore (uid : Nat) (c : Core) : Core :=
  if c.syncs.any fun q => q.uid == uid && q.todo.isEmpty && q.owed == 0 then
    { c.release (.sync uid) with syncs := c.syncs.filter (·.uid != uid) }
  else c

theorem syncSettle_last {q : State} {n : CoreId} {ys : List RgSync} {r : RgSync} (h : (q.core n).syncs = ys ++ [r]) (hy : ∀ y ∈ ys, y.uid ≠ r.uid) :
    q.syncSettle n r.uid = (q.syncArrive n r).modCore n (settledCore r.uid) := by
  have hf : (q.core n).syncs.find? (·.uid == r.uid) = some r := by
    rw [h, List.find?_append, List.find?_eq_none.2 fun y hys => by simp [hy y hys]]
    simp
  rw [State.syncSettle, hf]; rfl

/-- An `rgsync` that stands last and has nothing left goes, with its entries; one that has something left stays. -/
theorem settledCore_last {c : Core} {ys : List RgSync} {r : RgSync} (h : c.syncs = ys ++ [r]) (hy : ∀ y ∈ ys, y.uid ≠ r.uid) :
    settledCore r.uid c = if r.todo = [] ∧ r.owed = 0 then { c.release (.sync r.uid) with syncs := ys } else c := by
  have hany : (c.syncs.any fun q => q.uid == r.uid && q.todo.isEmpty && q.owed == 0) = decide (r.todo = [] ∧ r.owed = 0) := by
    rw [h, List.any_append, List.any_eq_false.2 fun y hys => by simp [hy y hys], Bool.eq_iff_iff]
    simp
  have hfil : c.syncs.filter (·.uid != r.uid) = ys := by
    rw [h, List.filter_append, List.filter_eq_self.2 fun y hys => by simp [hy y hys]]
    simp
  simp only [settledCore, hany, hfil, decide_eq_true_eq]

/-- An instruction that goes on leaves the loft, the entries and the `rgsync`s that it made. -/
theorem goesOn_board (s : State) (n : CoreId) :
    (s.goesOn.core n).loft = (s.core n).loft ∧ (s.goesOn.core n).sb = (s.core n).sb ∧ (s.goesOn.core n).syncs = (s.core n).syncs :=
  ⟨endWait_proj (·.loft) _ _ fun _ _ _ => rfl, endWait_proj (·.sb) _ _ fun _ _ _ => rfl, endWait_proj (·.syncs) _ _ fun _ _ _ => rfl⟩

/-- The `rgsync` of a form over a region, with a barrier and the granules still to do, as the live task issues it. -/
def syncOf (s : State) (t : Task) (g : Fin 16) (f : Fin 4) (v : W64) (todo : List Nat) : RgSync :=
  { uid := s.serial, ctx := t.ctx, tid := t.tid, region := g, form := f, barrier := v, todo := todo, owed := (s.cctx t).regionLen g - todo.length }

/-- The entries of the current core once an `rgsync` has begun: its own stands last, if it has granules to do. -/
def entriesWith (s : State) (t : Task) (r : RgSync) : List SbEntry :=
  if r.todo.isEmpty then (s.core s.cur).sb else (s.core s.cur).sb ++ [(s.cctx t).syncEntry r.region r.form r.uid]

/-- The current core has taken an `rgsync`. -/
def withSync (s : State) (t : Task) (r : RgSync) : State :=
  ({ s with serial := s.serial + 1 } : State).modCore s.cur fun c => { c with sb := entriesWith s t r, syncs := c.syncs ++ [r] }

theorem boardOnly_withSync (s : State) (t : Task) (r : RgSync) :
    BoardOnly s.cur (entriesWith s t r) ((s.core s.cur).syncs ++ [r]) s (withSync s t r) := by
  intro m
  split
  next h => subst h; exact modCore_core_self ..
  next h => exact modCore_core_ne _ _ h

/-- The granules of a region in which a form has work, or which an older entry holds (R90, R145). -/
def syncTodo (s : State) (t : Task) (g : Fin 16) (f : Fin 4) : List Nat :=
  let k := s.cctx t
  ((List.range (k.regionLen g)).map (k.regionLo g + ·)).filter fun x => k.syncNeeds g f x ||
    (s.core s.cur).sb.any fun e => e.meets .loft (k.base / 64 + x) (k.base / 64 + x) && (f != 0 || e.write)

section
variable {s : State} {t : Task} {a b : SReg} {f : Fin 4} (hl : s.live = some t)
include hl

theorem rgsync_barrier_refused (h : (t.getS b).toNat % 16 ≠ 0 ∨ (t.getS b ≠ 0 ∧ (s.cctx t).psize ≤ (t.getS b).toNat)) :
    rgsync f a b s = .next (s.traps t 0x09 0 (t.getS b)) := by
  rw [rgsync, issue_live hl]
  dsimp only
  rw [if_pos h]; rfl

theorem rgsync_without_room (h : ¬ ((t.getS b).toNat % 16 ≠ 0 ∨ (t.getS b ≠ 0 ∧ (s.cctx t).psize ≤ (t.getS b).toNat)))
    (hg : (s.cctx t).regionValid (Fin.ofNat 16 (t.getS a).toNat) = true) (hr : (s.core s.cur).room t.ctx 1 = false) :
    rgsync f a b s = .next (s.registerWait t (s.boardWait t)) := by
  rw [rgsync, issue_live hl]
  dsimp only
  rw [if_neg h, if_pos (by rw [hg, hr]; rfl)]; rfl

theorem rgsync_begins (h : ¬ ((t.getS b).toNat % 16 ≠ 0 ∨ (t.getS b ≠ 0 ∧ (s.cctx t).psize ≤ (t.getS b).toNat))) {g : Fin 16}
    (hg : g = Fin.ofNat 16 (t.getS a).toNat) (hr : (s.cctx t).regionValid g = true → (s.core s.cur).room t.ctx 1 = true) :
    let r := syncOf s t g f (t.getS b) (if (s.cctx t).regionValid g then syncTodo s t g f else [])
    rgsync f a b s = .next ((withSync s t r).syncSettle s.cur r.uid).goesOn := by
  subst hg
  intro r
  rw [rgsync, issue_live hl]
  dsimp only
  rw [if_neg h, if_neg (by simpa using hr)]
  have ht : r.todo = List.filter (fun x => (s.cctx t).syncNeeds (Fin.ofNat 16 (t.getS a).toNat) f x ||
      (s.core s.cur).sb.any fun e => e.meets .loft ((s.cctx t).base / 64 + x) ((s.cctx t).base / 64 + x) && (f != 0 || e.write))
      (if (s.cctx t).regionValid (Fin.ofNat 16 (t.getS a).toNat) then
        (List.range ((s.cctx t).regionLen (Fin.ofNat 16 (t.getS a).toNat))).map ((s.cctx t).regionLo (Fin.ofNat 16 (t.getS a).toNat) + ·) else []) := by
    simp only [r, syncOf]
    split <;> rfl
  rw [← ht]; rfl

end

/-- No entry of a core that an `rgsync` has just joined is one of a command under its number. -/
theorem entriesWith_owner {s : State} {t : Task} {r : RgSync} (h : ∀ e ∈ (s.core s.cur).sb, e.owner ≠ .cmd r.uid) :
    ∀ e ∈ entriesWith s t r, e.owner ≠ .cmd r.uid := by
  unfold entriesWith
  split
  · exact h
  · intro e he
    obtain he | he := List.mem_append.1 he
    · exact h e he
    · rw [List.mem_singleton.1 he]; nofun

section
variable {s : State} {t : Task} {r : RgSync} (hfresh : FreshSerial s) (hu : r.uid = s.serial) (hx : r.ctx = t.ctx)
include hfresh hu hx

/-- An `rgsync` whose barrier is ready arrives there for the granules that it need not wait for, and goes on with the others (R90). -/
theorem withSync_goesOn_ready (hv : r.barrier.toNat % 16 = 0) (hr : r.barrier = 0 ∨ r.owed = 0 ∨ ∀ j, (s.cctx t).regionOf (r.barrier.toNat / 64) = some j →
      (s.cctx t).isResident (r.barrier.toNat / 64) = true ∨ (s.cctx t).regionFill j = 2) :
    let c := s.core s.cur
    let c' := (((withSync s t r).syncSettle s.cur r.uid).goesOn).core s.cur
    c'.loft = ((arrivalsOf s.cur r.ctx r.barrier r.owed s).core s.cur).loft ∧
      if r.todo = [] then c'.sb = c.sb ∧ c'.syncs = c.syncs
      else c'.sb = c.sb ++ [(s.cctx t).syncEntry r.region r.form r.uid] ∧ c'.syncs = c.syncs ++ [{ r with owed := 0 }] := by
  intro c c'
  obtain ⟨hsb, -, hsy⟩ := hfresh
  rw [← hu] at hsb hsy
  have hboard := boardOnly_withSync s t r
  have harr := hboard.syncArrive hsy fun ho hn => loftReady_barrier hboard (entriesWith_owner fun e he => (hsb e he).1) hx hv ho hn
    ((hr.resolve_left hn).resolve_left ho)
  have hcore : ((withSync s t r).syncSettle s.cur r.uid).core s.cur =
      settledCore r.uid (onBoard (entriesWith s t r) (c.syncs ++ [{ r with owed := 0 }]) ((arrivalsOf s.cur r.ctx r.barrier r.owed s).core s.cur)) := by
    rw [syncSettle_last (congrArg Core.syncs hboard.self) hsy, modCore_core_self, harr.self]
  have hset := settledCore_last (r := { r with owed := 0 })
    (c := onBoard (entriesWith s t r) (c.syncs ++ [{ r with owed := 0 }]) ((arrivalsOf s.cur r.ctx r.barrier r.owed s).core s.cur)) rfl hsy
  obtain ⟨hloft, hsb', hsy'⟩ : c'.loft = _ ∧ c'.sb = _ ∧ c'.syncs = _ := goesOn_board _ _
  rw [hloft, hsb', hsy', hcore, hset]
  by_cases ht : r.todo = []
  · have he : entriesWith s t r = c.sb := by rw [entriesWith, ht]; rfl
    simp only [ht, true_and, if_true]
    refine ⟨rfl, ?_, rfl⟩
    rw [he]
    exact List.filter_eq_self.2 fun e hec => by simp [(hsb e hec).2]
  · have he : entriesWith s t r = c.sb ++ [(s.cctx t).syncEntry r.region r.form r.uid] := if_neg (by simpa using ht)
    simp only [ht, false_and, if_false]
    exact ⟨rfl, he, rfl⟩

/-- An `rgsync` whose barrier's granule is absent and filled from memory owes its arrivals (R83, R148). -/
theorem withSync_goesOn_absent (hn : r.barrier ≠ 0) (ho : r.owed ≠ 0) {j : Fin 16} (hj : (s.cctx t).regionOf (r.barrier.toNat / 64) = some j)
    (hres : (s.cctx t).isResident (r.barrier.toNat / 64) = false) (hf : (s.cctx t).regionFill j ≠ 2) :
    let c' := (((withSync s t r).syncSettle s.cur r.uid).goesOn).core s.cur
    c'.loft = (s.core s.cur).loft ∧ c'.syncs = (s.core s.cur).syncs ++ [r] := by
  intro c'
  obtain ⟨hsb, hmap, hsy⟩ := hfresh
  rw [← hu] at hsb hmap hsy
  have hself := (boardOnly_withSync s t r).self
  have hk : (s.core s.cur).cctx t.ctx = some (s.cctx t) := cctx_of_cctx_regionOf hj
  have hagent : (withSync s t r).agentCtx (barrierAgent s.cur r) = s.cctx t := by
    have h : ((withSync s t r).core s.cur).cctx r.ctx = some (s.cctx t) := by rw [hself, hx]; exact hk
    simp only [State.agentCtx, State.ctxOn, barrierAgent, h]
  obtain ⟨q, hq, hkeeps⟩ := loftReady_absent (s := withSync s t r) (a := barrierAgent s.cur r)
    (by change ∀ e ∈ ((withSync s t r).core s.cur).sb, _; rw [hself]; exact entriesWith_owner fun e he => (hsb e he).1)
    (by change ∀ m ∈ ((withSync s t r).core s.cur).mapCmds, _; rw [hself]; exact hmap)
    (hagent ▸ hj) (hagent ▸ hres) (hagent ▸ hf)
  obtain ⟨hql, hqy⟩ := hkeeps s.cur
  rw [hself] at hql hqy
  have hcore : ((withSync s t r).syncSettle s.cur r.uid).core s.cur = q.core s.cur := by
    rw [syncSettle_last (congrArg Core.syncs hself) hsy, modCore_core_self, syncArrive_of_held ho hn hq, settledCore_last hqy hsy,
      if_neg fun h => ho h.2]
  obtain ⟨hloft, -, hsync⟩ : c'.loft = _ ∧ _ ∧ c'.syncs = _ := goesOn_board _ _
  rw [hloft, hsync, hcore]
  exact ⟨hql, hqy⟩

end

/-- Settles O39: an `rgsync` is refused, waits for room, or begins; one that begins arrives at its barrier or owes the arrivals. -/
theorem regionMaintenance : Obligations.RegionMaintenance := by
  unfold Obligations.RegionMaintenance
  intro s t a b f i hl hfresh hi k v g all older todo m c ready arrived op fits
  have hexec : exec i s = rgsync f a b s := by subst hi; match f with | 0 | 1 | 2 | 3 => rfl
  have hg : g = Fin.ofNat 16 (t.getS a).toNat := Fin.ext (Nat.mod_mod _ 16)
  have hfits : fits ↔ ¬ (v.toNat % 16 ≠ 0 ∨ (v ≠ 0 ∧ k.psize ≤ v.toNat)) := by
    simp only [fits, ← not_lt]; tauto
  have hop : syncOf s t g f v (if k.regionValid g then syncTodo s t g f else []) = op m := by
    have hm : m = k.regionLen g - (if k.regionValid g then todo else []).length := by
      simp only [m]; split <;> rfl
    simp only [syncOf, op, hm]; rfl
  refine ⟨fun h => ?_, fun h hv hr => ?_, fun h hroom => ?_⟩
  · rw [hexec]
    exact rgsync_barrier_refused hl (not_not.1 (mt hfits.2 h))
  · rw [hexec]
    exact rgsync_without_room hl (hfits.1 h) (hg ▸ hv) hr
  · have hbegins := hexec.trans (rgsync_begins hl (hfits.1 h) hg hroom)
    rw [hop] at hbegins
    refine ⟨fun hready => ⟨_, hbegins, trivial, withSync_goesOn_ready hfresh rfl rfl h.1 hready⟩, fun hready => ?_⟩
    simp only [ready, not_or, not_forall, Bool.not_eq_true] at hready
    obtain ⟨hn, ho, j, hj, hres, hf⟩ := hready
    exact ⟨_, hbegins, trivial, withSync_goesOn_absent hfresh rfl rfl hn ho hj hres hf⟩

end Sys2Proof.Proofs
end

section
/-!
PROOFS. An atomic at its home whose carrier is done (R312, R373, R376): the wait-for table names its owners anew, and a deadlock found there is
recorded in memory. Settles O52.
-/
namespace Sys2Proof.Proofs
open Machine Laws

/-- A task of context 1 in the save slot at DRAM address 0, whose context's deadlock area begins the loft part of the slot, at 0x380000. -/
def spilledTask : Task := { tid := 1, ctx := 1, pc := 0x10000 }
def spilledSlot : Saved :=
  { base := 0, ctx := 1, tid := 1, bank := 0, task := some spilledTask, cctx := some { ctx := 1, wfdl := 0x8000000000000000 }, entries := [],
    unitState := false, released := false, macros := Vector.replicate 64 {} }

/-- The task awaits object 5, which by the record is its own (R392); the edge names no owner yet. -/
def selfEdge : WfEntry := { idx := 0, record := false, expl := true, okind := 0x11, obj := 5, tid := 1, ctx := 1, core := 0, owner := .unknown }
def selfRecord : WfEntry := { selfEdge with idx := 1, record := true }

/-- An `add` of 5, for which the task does not wait, to the word at 0x380000, and the command that carries it. -/
def postedAdd : Remote := { uid := 11, pc := 0x10000, slot := 0, op := .add, addr := 0x380000, wide := true, arg := 5, cmp := 0, posted := true }
def postedPacket : Packet := { uid := 11, seq := 0, core := 0, ctx := 1, tid := 1, addr := 0x380000, sync := some postedAdd }

/-- An exchange in which the packet of the `add` is at its home. -/
def postedState : State :=
  { State.reset with
    cores := State.reset.cores.set 0
      { avail := true, live := BitVec.allOnes 32, saved := [spilledSlot],
        mapCmds := [{ uid := 11, kind := .remote, status := .active, ctx := 1, tid := 1 }] },
    dev := { power := .running, phase := 1, net := [postedPacket], wf := [selfEdge, selfRecord] }, turns := [] }

/-- The word at 0x380000 after an outcome. -/
def recordedWord : Out → Option Nat
  | .next s => some (s.dev.dram.num 0x380000 8)
  | _ => none

/-- The carrier's removal gives the edge its owner, which is the waiter, and word 0 of the deadlock record (R376) stands where the sum stood. -/
theorem remoteAtomic_recordedWord : recordedWord (exec .remoteAtomic postedState) = some 0x0001010000000001 := by decide +kernel

/-- Refutes O52: the sum of a posted `add` need not stand in its word when the event is over. Its carrier is removed, the owners of the wait-for
table are named anew, and the record of a cycle found then is written over the word. -/
theorem not_memoryEvents : ¬ Obligations.MemoryEvents := by
  unfold Obligations.MemoryEvents memorySteps
  rintro ⟨h, -⟩
  obtain ⟨-, -, -, -, -, -, -, hatomic, -⟩ := h postedState
  obtain ⟨hadd, -⟩ := hatomic postedPacket postedAdd (0, spilledTask) (by decide +kernel) rfl (by decide +kernel) (by decide +kernel) rfl (by decide +kernel)
  obtain ⟨s', hs, -, hsum, -⟩ := hadd 0 0x380000 rfl rfl (by decide +kernel) rfl
  have hw := remoteAtomic_recordedWord
  rw [hs] at hw
  have hold : postedState.dev.dram.num postedAdd.addr 8 = 0 := by decide +kernel
  rw [hold] at hsum
  exact absurd (hsum.symm.trans (Option.some.inj hw)) (by decide)

end Sys2Proof.Proofs
end

section
/-!
PROOFS. The commands of the copy engines while they are staged (R107, R110, R125 to R129): what a change of an engine's slot leaves, and what
the instruction that goes on leaves in the live bank. Settles O31.
-/
namespace Sys2Proof.Proofs
open Machine Laws

/-! ## The task of an instruction that goes on -/

/-- The task when any wait of it has ended. -/
def unwaiting (t : Task) : Task := { t with waiting := none, untethered := false }

theorem goesOn_live (s : State) : s.goesOn.live = s.live.map unwaiting := endWait_live s

theorem thenTask_live (s : State) (t : Task) : (s.thenTask t).live = some (unwaiting t) := by
  rw [State.thenTask, goesOn_live, setLive_live]; rfl

/-- A task that goes on changes of a core only its banks and the order of those that wait. -/
theorem thenTask_core_proj {α : Type} (g : Core → α) (s : State) (t : Task) (n : CoreId)
    (h : ∀ (c : Core) b q, g { c with banks := b, waitq := q } = g c) : g ((s.thenTask t).core n) = g (s.core n) :=
  (endWait_proj g _ n h).trans (setLive_proj g s t n fun c b => h c b c.waitq)

/-- An instruction of a slot that waits, given the live task. -/
theorem issue_waits {s s' : State} {t : Task} {f : Task → Act} {w : Wait} (hl : s.live = some t) (hf : f t = .wait s' w) :
    issue s f = .next (s'.registerWait t w) := by
  rw [issue_live hl, hf]; rfl

/-! ## The engine slots of a task -/

@[simp] theorem engOf_modEng_self (t : Task) (e : Bool) (f : EngSlot → EngSlot) : engOf (t.modEng e f) e = f (engOf t e) := by
  cases e <;> simp [engOf, Task.modEng, engIdx]
@[simp] theorem engOf_modEng_not (t : Task) (e : Bool) (f : EngSlot → EngSlot) : engOf (t.modEng e f) (!e) = engOf t (!e) := by
  cases e <;> simp [engOf, Task.modEng, engIdx]
@[simp] theorem engOf_not_modEng (t : Task) (e : Bool) (f : EngSlot → EngSlot) : engOf (t.modEng (!e) f) e = engOf t e := by
  cases e <;> simp [engOf, Task.modEng, engIdx]
@[simp] theorem engOf_setS (t : Task) (d : SReg) (v : W64) (e : Bool) : engOf (t.setS d v) e = engOf t e := by simp [engOf]
theorem engOf_unwaiting (t : Task) (e : Bool) : engOf (unwaiting t) e = engOf t e := rfl

theorem setS_modEng_regs (t : Task) (e : Bool) (f : EngSlot → EngSlot) (d : SReg) (v : W64) :
    ((t.modEng e f).setS d v).regs = (t.setS d v).regs := by
  unfold Task.setS; split <;> rfl

theorem unchain_regs (t : Task) (e : Bool) : (t.unchain e).regs = t.regs := by
  unfold Task.unchain; split <;> rfl

theorem modBuilding_none {t : Task} {e : Bool} (h : t.building e = none) (f : Cmd → Cmd) : t.modBuilding e f = t := by
  rw [Task.modBuilding, h]

theorem modBuilding_some {t : Task} {e : Bool} {k : Cmd} (h : t.building e = some k) (f : Cmd → Cmd) :
    t.modBuilding e f = t.modEng e fun g => { g with staged := some (f k) } := by
  rw [Task.modBuilding, h]

/-! ## The forms -/

/-- The command that `cpy` begins to build: copies of its records, scope `.dev`, and no other setting (R125). -/
def builtCmd (s : State) (t : Task) (d a : RecReg) (b : SReg) (e : Bool) : Cmd :=
  { uid := s.serial, ctx := t.ctx, tid := t.tid, eng := e, dst := t.getRec d, src := t.getRec a, dl := 16 ≤ d.val, sl := 16 ≤ a.val,
    barrier := t.getS b }

/-- The wait of `cpy` behind the committed command of its engine (R370). -/
def engineWait (s : State) (t : Task) (e : Bool) : Wait :=
  { okind := 0x07, obj := engObj s.cur e, owner := match (engOf t e).active with | some k => k.wfOwner | none => .unknown }

/-- The command that `cpyg` commits, with its handle and the code bank of its context (R107, R126). -/
def committedCmd (s : State) (t : Task) (e : Bool) (k : Cmd) : Cmd :=
  { k with age := s.serial, status := .committed, handle := ((s.core s.cur).takeHandle s.cur e).1, codeBank := (s.cctx t).codeBank }

/-- The current core has given a handle of engine `e` and taken the entries `es`. -/
def commitCore (s : State) (e : Bool) (es : List SbEntry) : State :=
  let c := ((s.core s.cur).takeHandle s.cur e).2
  ({ s with serial := s.serial + 1 } : State).setCore s.cur { c with sb := c.sb ++ es }

/-- The command `q` with `p` among those that hold it, once (R110). -/
def heldByAlso (q p : Cmd) : Cmd := { q with heldBy := if q.heldBy.contains p.uid then q.heldBy else q.heldBy ++ [p.uid] }

theorem mem_heldByAlso (q p : Cmd) (u : Nat) : u ∈ (heldByAlso q p).heldBy ↔ u ∈ q.heldBy ∨ u = p.uid := by
  unfold heldByAlso
  by_cases h : q.heldBy.contains p.uid = true
  · have hp : p.uid ∈ q.heldBy := by simpa using h
    rw [if_pos h]
    exact ⟨.inl, fun h => h.elim id fun e => e ▸ hp⟩
  · rw [if_neg h, List.mem_append, List.mem_singleton]

/-- The command with the scope and the stamp that `cpys` gives (R129). -/
def stampedCmd (t : Task) (b x : SReg) (z : Fin 8) (k : Cmd) : Cmd :=
  { k with scope := z, stamped := b != 0, stampAddr := if b = 0 then 0 else w64 ((t.getS b).fld 0 56), stampVal := if b = 0 then 0 else t.getS x }

/-- The low 56 bits of a word. -/
theorem w64_fld_address (v : W64) : w64 (v.fld 0 56) = v &&& 0x00FFFFFFFFFFFFFF := by
  apply BitVec.eq_of_toNat_eq
  rw [w64, fld_zero, BitVec.toNat_ofNat, BitVec.toNat_and, show BitVec.toNat (0x00FFFFFFFFFFFFFF : W64) = 2 ^ 56 - 1 from rfl,
    Nat.and_two_pow_sub_one_eq_mod]
  omega

section
variable {s : State} {t : Task} {d a : RecReg} {b x : SReg} {e : Bool} (hl : s.live = some t)
include hl

theorem cpy_builds (h : ∀ k, (engOf t e).staged = some k → k.status = .building) : exec (.cpy d a b e) s =
    .next (({ s with serial := s.serial + 1 } : State).thenTask
      ((t.unchain e).modEng e fun g => { g with staged := some (builtCmd s t d a b e) })) := by
  have hn : (t.engines[engIdx e]).staged.filter (·.status != .building) = none := Option.filter_eq_none_iff.2 fun k hk => by simp [h k hk]
  refine issue_ok hl ?_
  simp only [hn]; rfl

theorem cpy_waits {k : Cmd} (hk : (engOf t e).staged = some k) (h : k.status ≠ .building) :
    ∃ w : Wait, w.okind = 0x07 ∧ exec (.cpy d a b e) s = .next (s.registerWait t w) := by
  have hs : (t.engines[engIdx e]).staged.filter (·.status != .building) = some k := Option.filter_eq_some_iff.2 ⟨hk, by simpa using h⟩
  exact ⟨engineWait s t e, rfl, issue_waits hl (by simp only [hs]; rfl)⟩

theorem cpyg_none (h : t.building e = none) : exec (.cpyg x e) s = .next (s.thenTask (t.setS x 0)) :=
  issue_ok hl (by simp only [h])

theorem cpyg_commits {k : Cmd} (h : t.building e = some k) (hr : (s.core s.cur).room t.ctx (k.entries s.cur (s.cctx t)).length = true) :
    exec (.cpyg x e) s = .next ((commitCore s e (k.entries s.cur (s.cctx t))).thenTask
      ((t.modEng e fun g => { g with staged := some (committedCmd s t e k) }).setS x ((committedCmd s t e k).handle.setWidth 64))) :=
  issue_ok hl (by simp only [h, hr]; rfl)

theorem cpyg_waits {k : Cmd} (h : t.building e = some k) (hr : (s.core s.cur).room t.ctx (k.entries s.cur (s.cctx t)).length = false) :
    exec (.cpyg x e) s = .next (s.registerWait t (s.boardWait t)) :=
  issue_waits hl (by simp only [h, hr]; rfl)

theorem cpyc_none (h : t.building e = none) : exec (.cpyc e) s = .next s.goesOn :=
  issue_ok hl (by simp only [h])

theorem cpyc_alone (h : (engOf t (!e)).staged = none) : exec (.cpyc e) s = .next s.goesOn := by
  have hn : (t.engines[engIdx (!e)]).staged = none := h
  refine issue_ok hl ?_
  simp only [hn]
  cases t.building e <;> rfl

theorem cpyc_links {k q : Cmd} (h : t.building e = some k) (hq : (engOf t (!e)).staged = some q) : exec (.cpyc e) s =
    .next (s.thenTask ((t.modEng e fun g => { g with staged := some { k with link := true } }).modEng (!e) fun g =>
      { g with staged := some (heldByAlso q k) })) := by
  have hs : (t.engines[engIdx (!e)]).staged = some q := hq
  refine issue_ok hl ?_
  simp only [h, hs, modBuilding_some h]; rfl

end

/-! ## The scoreboard after a commit -/

theorem commitCore_thenTask_sb (s : State) (t : Task) (e : Bool) (es : List SbEntry) :
    (((commitCore s e es).thenTask t).core s.cur).sb = (s.core s.cur).sb ++ es := by
  rw [thenTask_core_proj (·.sb) _ _ _ fun _ _ _ => rfl, commitCore, setCore_core_self]; rfl

/-- Settles O31: each form by what its engine has staged. -/
theorem copyStaging : Obligations.CopyStaging := by
  unfold Obligations.CopyStaging
  intro s t d a b x e o z hl g building
  refine ⟨fun h => ?_, fun k hk hn => cpy_waits hl hk hn, fun hn => ?_, fun k hk => ?_⟩
  · exact ⟨_, cpy_builds hl h, _, builtCmd s t d a b e, thenTask_live .., trivial, unchain_regs t e, by rw [engOf_unwaiting, engOf_modEng_self],
      rfl, rfl, rfl, rfl, rfl, rfl, rfl, rfl, rfl, rfl, rfl⟩
  · have hb : t.building e = none := hn
    refine ⟨cpyg_none hl hb, ?_, ?_, cpyc_none hl hb⟩
    · exact (exec_of_onTask hl rfl).trans (by rw [modBuilding_none hb])
    · exact (exec_of_onTask hl rfl).trans (by rw [modBuilding_none hb])
  · have hb : t.building e = some k := hk
    intro es
    refine ⟨fun hr => ?_, cpyg_waits hl hb, ?_, ?_, cpyc_alone hl, fun q hq => ?_⟩
    · refine ⟨_, cpyg_commits hl hb hr, _, committedCmd s t e k, thenTask_live .., trivial, ?_, rfl, rfl, rfl, rfl, rfl, ?_, ?_⟩
      · rw [engOf_unwaiting, engOf_setS, engOf_modEng_self]
      · exact setS_modEng_regs ..
      · exact commitCore_thenTask_sb ..
    · exact (exec_of_onTask hl rfl).trans (by rw [modBuilding_some hb])
    · refine ⟨_, exec_of_onTask hl rfl, _, stampedCmd t b x z k, thenTask_live .., trivial, ?_, rfl, ?_⟩
      · rw [engOf_unwaiting, modBuilding_some hb, engOf_modEng_self]; rfl
      · split
        next h => subst h; rfl
        next h => exact ⟨bne_iff_ne.2 h, (if_neg h).trans (w64_fld_address _), if_neg h⟩
    · refine ⟨_, cpyc_links hl hb hq, _, heldByAlso q k, thenTask_live .., trivial, ?_, ?_, mem_heldByAlso q k⟩
      · rw [engOf_unwaiting, engOf_not_modEng, engOf_modEng_self]
      · rw [engOf_unwaiting, engOf_modEng_self]

end Sys2Proof.Proofs
end

section
/-!
PROOFS. Records word by word, the rows of the code tables and their banks, and the control of the engines (R121, R123, R130 to R132). Settles O32.
-/
namespace Sys2Proof.Proofs
open Machine Laws

/-! ## Words of a record (R131) -/

/-- The digit of a number in base `2 ^ 64`. -/
def digit (r j : Nat) : Nat := r / 2 ^ (64 * j) % 2 ^ 64

/-- A number with a digit replaced, as `recw` computes it. -/
def withDigit (r w x : Nat) : Nat := r - bits r (64 * w) 64 * 2 ^ (64 * w) + x * 2 ^ (64 * w)

/-- The replaced digit stands between what is above and what is below it. -/
theorem withDigit_eq (r w x : Nat) :
    withDigit r w x = r % 2 ^ (64 * w) + 2 ^ (64 * w) * (x + 2 ^ 64 * (r / 2 ^ (64 * w) / 2 ^ 64)) := by
  have h1 := Nat.div_add_mod r (2 ^ (64 * w))
  have h2 := Nat.div_add_mod (r / 2 ^ (64 * w)) (2 ^ 64)
  rw [withDigit, bits]
  generalize 2 ^ (64 * w) = p at *
  generalize r / p / 2 ^ 64 = hi at *
  generalize r / p % 2 ^ 64 = m at *
  rw [← h2] at h1
  rw [Nat.mul_add] at h1 ⊢
  rw [Nat.mul_comm m p, Nat.mul_comm x p]
  omega

/-- The digits below a power of the base are those of the remainder. -/
theorem digit_mod (r : Nat) {j n : Nat} (h : 64 * j + 64 ≤ n) : digit (r % 2 ^ n) j = digit r j := by
  obtain ⟨k, rfl⟩ := Nat.exists_eq_add_of_le h
  rw [digit, digit, Nat.add_assoc, Nat.pow_add, Nat.mod_mul_right_div_self, Nat.pow_add, Nat.mod_mul_right_mod]

theorem digit_withDigit (r w x j : Nat) (hx : x < 2 ^ 64) : digit (withDigit r w x) j = if j = w then x else digit r j := by
  have hp : 0 < 2 ^ (64 * w) := Nat.two_pow_pos _
  have hdiv : withDigit r w x / 2 ^ (64 * w) = x + 2 ^ 64 * (r / 2 ^ (64 * w) / 2 ^ 64) := by
    rw [withDigit_eq, Nat.add_mul_div_left _ _ hp, Nat.div_eq_of_lt (Nat.mod_lt _ hp), Nat.zero_add]
  have hmod : withDigit r w x % 2 ^ (64 * w) = r % 2 ^ (64 * w) := by
    rw [withDigit_eq, Nat.add_mul_mod_self_left, Nat.mod_mod]
  rcases lt_trichotomy j w with hj | rfl | hj
  · have hn : 64 * j + 64 ≤ 64 * w := by omega
    rw [if_neg hj.ne, ← digit_mod _ hn, hmod, digit_mod _ hn]
  · rw [if_pos rfl, digit, hdiv, Nat.add_mul_mod_self_left, Nat.mod_eq_of_lt hx]
  · have habove (q : Nat) : q / 2 ^ (64 * j) = q / 2 ^ (64 * w) / 2 ^ 64 / 2 ^ (64 * (j - w - 1)) := by
      rw [Nat.div_div_eq_div_mul, Nat.div_div_eq_div_mul, ← Nat.pow_add, ← Nat.pow_add, show 64 * w + (64 + 64 * (j - w - 1)) = 64 * j by omega]
    have hhi : withDigit r w x / 2 ^ (64 * w) / 2 ^ 64 = r / 2 ^ (64 * w) / 2 ^ 64 := by
      rw [hdiv, Nat.add_mul_div_left _ _ (Nat.two_pow_pos 64), Nat.div_eq_of_lt hx, Nat.zero_add]
    rw [if_neg hj.ne', digit, digit, habove, hhi, ← habove]

/-- A word of a record is a digit of its number. -/
theorem word_toNat {n : Nat} (v : BitVec n) (j : Nat) : ((v >>> (64 * j)).setWidth 64).toNat = digit v.toNat j := by
  rw [BitVec.toNat_setWidth, BitVec.toNat_ushiftRight, Nat.shiftRight_eq_div_pow, digit]

theorem word_ofNat {n j : Nat} (r : Nat) (h : 64 * j + 64 ≤ n) : ((BitVec.ofNat n r >>> (64 * j)).setWidth 64).toNat = digit r j := by
  rw [word_toNat, BitVec.toNat_ofNat, digit_mod r h]

/-- A record with a word replaced (R131). -/
def withWord (v : BitVec 768) (w : Nat) (x : W64) : BitVec 768 := BitVec.ofNat 768 (withDigit v.toNat w x.toNat)

/-- The words of a record of which `recw` replaced one; there are 12, and a number beyond them names none. -/
theorem word_withWord (v : BitVec 768) (x : W64) (w : Nat) {j : Nat} (hj : j < 12) :
    (withWord v w x >>> (64 * j)).setWidth 64 = if j = w then x else (v >>> (64 * j)).setWidth 64 := by
  apply BitVec.eq_of_toNat_eq
  rw [withWord, word_ofNat _ (by omega), digit_withDigit _ _ _ _ x.isLt]
  split
  · rfl
  · rw [word_toNat]

/-! ## The code tables (R123, R130) -/

/-- A row of a code table after another or the same was written. -/
theorem num_setNum_row (m : Mem) (r q v : Nat) : (m.setNum (q * 4) 4 v).num (r * 4) 4 = if r = q then v % 2 ^ 32 else m.num (r * 4) 4 := by
  split
  next h => rw [h, num_setNum]; rfl
  next h =>
    refine num_write_outside _ _ _ _ _ ?_
    rw [leBytes_length]
    omega

/-- What the current core holds of a context once an instruction that changed it has gone on. -/
theorem modCctx_goesOn_cctx {s : State} {t : Task} {k : CoreCtx} (hk : (s.core s.cur).cctx t.ctx = some k) {f : CoreCtx → CoreCtx}
    (hf : ∀ k, (f k).ctx = k.ctx) : ((s.modCctx t f).goesOn.core s.cur).cctx t.ctx = some (f k) := by
  have h : ((s.modCctx t f).goesOn.core s.cur).cctx t.ctx = ((s.modCctx t f).core s.cur).cctx t.ctx :=
    endWait_proj (·.cctx t.ctx) _ _ fun _ _ _ => rfl
  rw [h, State.modCctx, modCore_core_self, cctx_modCtx _ _ hf, hk, Option.map_some]

theorem oldestCmd_nonempty {ks : List Cmd} (h : ks ≠ []) : ∃ k, oldestCmd ks = some k := by
  obtain ⟨k, qs, rfl⟩ := List.exists_cons_of_ne_nil h
  unfold oldestCmd
  rw [List.foldl_cons]
  dsimp only
  clear h
  induction qs generalizing k with
  | nil => exact ⟨k, rfl⟩
  | cons q qs ih =>
    rw [List.foldl_cons]
    dsimp only
    split
    · exact ih q
    · exact ih k

/-- The row of the code tables that `ctabw` writes: one of the idle bank (R130). -/
def idleRow (bank : Bool) (v : W64) : Nat := (if bank then 0 else 256) + v.toNat % 256

theorem idleRow_offset (bank : Bool) (v : W64) : bit (!bank) * 1024 + v.fld 0 8 * 4 = idleRow bank v * 4 := by
  rw [fld_zero, idleRow]
  cases bank
  · simp [bit]; omega
  · simp [bit]

theorem exec_recw {s : State} {t : Task} {r : RecReg} {a : SReg} {w : Fin 16} (hl : s.live = some t) :
    exec (.recw r a w) s = .next (s.thenTask (t.setRec r (withWord (t.getRec r) w.val (t.getS a)))) := by
  refine (exec_of_onTask hl rfl).trans ?_
  rw [withWord, withDigit]

theorem exec_recr {s : State} {t : Task} {r : RecReg} {d : SReg} {w : Fin 16} (hl : s.live = some t) :
    exec (.recr d r w) s = .next (s.thenTask (t.setS d ((t.getRec r >>> (64 * w.val)).setWidth 64))) := by
  have hw : (t.getRec r >>> (64 * w.val)).setWidth 64 = w64 (bits (t.getRec r).toNat (64 * w.val) 64) := by
    apply BitVec.eq_of_toNat_eq
    rw [word_toNat, w64, BitVec.toNat_ofNat, bits, Nat.mod_mod, digit]
  exact (exec_of_onTask hl rfl).trans (by rw [hw])

theorem recordForms_hold : recordForms := by
  intro s t k r a b d w hl hk word
  have hx : s.cctx t = k := cctx_of_resident hk
  refine ⟨⟨withWord (t.getRec r) w.val (t.getS a), fun j hj => ?_, ?_⟩, ?_, ?_, fun h => ?_, fun h => ?_⟩
  · exact word_withWord _ _ _ hj
  · exact exec_recw hl
  · exact exec_recr hl
  · refine ⟨_, issue_ok hl rfl, trivial, _, modCctx_goesOn_cctx hk fun _ => rfl, rfl, fun row _ => ?_⟩
    dsimp only
    rw [idleRow_offset, num_setNum_row, fld_zero, Nat.mod_mod]; rfl
  · refine ⟨_, issue_ok (s' := s.modCctx t fun k => { k with codeBank := !k.codeBank }) hl ?_, trivial, _,
      modCctx_goesOn_cctx hk fun _ => rfl, rfl, rfl⟩
    dsimp only
    rw [hx, h]; rfl
  · obtain ⟨m, hm⟩ := oldestCmd_nonempty h
    refine ⟨{ okind := 0x09, obj := BitVec.ofNat 48 s.cur.val, owner := m.wfOwner }, rfl, issue_waits hl ?_⟩
    dsimp only
    rw [hx, hm]

/-! ## Status, resumption and abort (R121, R132) -/

/-- The flags are the low six bits of an engine's status. -/
theorem engineStatus_flags (s : State) (n : CoreId) (g : EngSlot) : (s.engineStatus n g).setWidth 6 = g.flags := by
  apply BitVec.eq_of_toNat_eq
  have hf := g.flags.isLt
  unfold State.engineStatus
  dsimp only
  rw [BitVec.toNat_setWidth, w64, BitVec.toNat_ofNat]
  generalize g.flags.toNat = f at *
  omega

/-- The state in which a faulted command that the handle names continues, with the settings of an image if there is one; unchanged when the
handle names none. -/
def resumedAt (s : State) (h : BitVec 32) (image : Option (List Byte)) : State :=
  match s.outstanding h with
  | some (n, k) => if k.status = CmdStatus.faulted then s.resumeCmd n k image else s
  | none => s

theorem resumedAt_none {s : State} {h : BitVec 32} (ho : s.outstanding h = none) (image : Option (List Byte)) : resumedAt s h image = s := by
  rw [resumedAt, ho]

theorem resumedAt_goesOn {s : State} {h : BitVec 32} {n : CoreId} {k : Cmd} (ho : s.outstanding h = some (n, k)) (image : Option (List Byte)) :
    (resumedAt s h image).goesOn = if k.status = CmdStatus.faulted then (s.resumeCmd n k image).goesOn else s.goesOn := by
  rw [resumedAt, ho]
  dsimp only
  split <;> rfl

theorem ofNat_fld_handle (v : W64) : BitVec.ofNat 32 (v.fld 0 32) = v.setWidth 32 := by
  apply BitVec.eq_of_toNat_eq
  rw [fld_zero, BitVec.toNat_ofNat, BitVec.toNat_setWidth, Nat.mod_mod]

/-- An instruction of a slot that traps, given the live task. -/
theorem issue_traps {s : State} {t : Task} {f : Task → Act} {c : Trap} (hl : s.live = some t) (hf : f t = .trap c) :
    issue s f = .next (s.takeTrap t c) := by
  rw [issue_live hl, hf]; rfl

/-- What `cpyx.resume` does with its handle and image. -/
theorem resume_eq_resumedAt (s : State) (v : W64) (image : Option (List Byte)) :
    (match s.outstanding (BitVec.ofNat 32 (v.fld 0 32)) with
      | some (n, k) => if k.status == CmdStatus.faulted then Act.ok (s.resumeCmd n k image) else .ok s
      | none => .ok s) = .ok (resumedAt s (v.setWidth 32) image) := by
  rw [ofNat_fld_handle, resumedAt]
  cases s.outstanding (v.setWidth 32) with
  | none => rfl
  | some p =>
    dsimp only
    simp only [beq_iff_eq]
    split <;> rfl

section
variable {s : State} {t : Task} {a b : SReg} (hl : s.live = some t)
include hl

theorem cpyxAbort_user (hk : (s.cctx t).sup = false) : exec (.cpyxAbort a) s = .next s.goesOn :=
  issue_ok hl (if_pos (by rw [hk]; rfl))

theorem cpyxAbort_none (hk : (s.cctx t).sup = true) (ho : s.outstanding ((t.getS a).setWidth 32) = none) :
    exec (.cpyxAbort a) s = .next s.goesOn := by
  refine issue_ok hl ((if_neg (by rw [hk]; decide)).trans ?_)
  rw [ofNat_fld_handle, ho]

theorem cpyxAbort_some {n : CoreId} {k : Cmd} (hk : (s.cctx t).sup = true) (ho : s.outstanding ((t.getS a).setWidth 32) = some (n, k)) :
    exec (.cpyxAbort a) s = .next (s.abortCmd n k.uid).goesOn := by
  refine issue_ok hl ((if_neg (by rw [hk]; decide)).trans ?_)
  rw [ofNat_fld_handle, ho]

theorem cpyxResume_user (hk : (s.cctx t).sup = false) : exec (.cpyxResume a b) s = .next s.goesOn :=
  issue_ok hl (if_pos (by rw [hk]; rfl))

theorem cpyxResume_bare (hk : (s.cctx t).sup = true) :
    exec (.cpyxResume a 0) s = .next (resumedAt s ((t.getS a).setWidth 32) none).goesOn := by
  refine issue_ok hl ((if_neg (by rw [hk]; decide)).trans ((if_pos rfl).trans ?_))
  exact resume_eq_resumedAt ..

/-- The image must lie in line within the partition. -/
theorem cpyxResume_refused (hk : (s.cctx t).sup = true) (hb : b ≠ 0)
    (hv : (t.getS b).toNat % 256 ≠ 0 ∨ (s.cctx t).psize < (t.getS b).toNat + 256) :
    exec (.cpyxResume a b) s = .next (s.traps t 0x09 0 (t.getS b)) := by
  have ha : loftAddr (s.cctx t).psize (t.getS b) 256 256 = none := if_neg (by omega)
  refine issue_traps hl ((if_neg (by rw [hk]; decide)).trans ((if_neg hb).trans ?_))
  rw [ha]; rfl

theorem cpyxResume_image (hk : (s.cctx t).sup = true) (hb : b ≠ 0) (hv : (t.getS b).toNat % 256 = 0)
    (hp : (t.getS b).toNat + 256 ≤ (s.cctx t).psize)
    (hh : s.holdFirst t (s.cctx t) false false [((t.getS b).toNat, 256)] (granules [((t.getS b).toNat, 256)]) = none) :
    let r := s.reached t [((t.getS b).toNat, 256)] false
    exec (.cpyxResume a b) s = .next (resumedAt r ((t.getS a).setWidth 32) (some (r.loftRead t (t.getS b).toNat 256))).goesOn := by
  have ha : loftAddr (s.cctx t).psize (t.getS b) 256 256 = some (t.getS b).toNat := if_pos ⟨hv, hp⟩
  refine issue_ok hl ((if_neg (by rw [hk]; decide)).trans ((if_neg hb).trans ?_))
  rw [ha]
  dsimp only
  rw [State.access, hh]
  exact resume_eq_resumedAt ..

end

theorem copyControl_holds : copyControl := by
  intro s t d a b e hl h v
  refine ⟨engineStatus_flags .., issue_ok hl rfl, fun hk => ⟨cpyxResume_user hl hk, cpyxAbort_user hl hk⟩,
    fun hk => ⟨fun ho => ?_, fun n k ho => ?_, cpyxResume_refused hl hk, fun hb hv hp hh => ?_⟩⟩
  · exact ⟨cpyxAbort_none hl hk ho, (cpyxResume_bare hl hk).trans (by rw [resumedAt_none ho])⟩
  · exact ⟨cpyxAbort_some hl hk ho, (cpyxResume_bare hl hk).trans (by rw [resumedAt_goesOn ho])⟩
  · intro r
    have hx := cpyxResume_image (a := a) hl hk hb hv hp hh
    exact ⟨fun ho => hx.trans (by rw [resumedAt_none ho]), fun n k ho => hx.trans (by rw [resumedAt_goesOn ho])⟩

/-- Settles O32: records and code tables, and the control of the engines. -/
theorem recordsAndCopyControl : Obligations.RecordsAndCopyControl := ⟨recordForms_hold, copyControl_holds⟩

end Sys2Proof.Proofs
end

section
/-!
PROOFS. The forms that store nothing (R107, R227, R273, R302, R319): what they leave of the machine, said of the updates that they are made of,
then of each form. Settles O56.
-/
namespace Sys2Proof.Proofs
open Machine Laws

/-! ## What is left of a core, of the device and of a task -/

/-- The storage and the special registers of a core: all of it that the forms leave alone, but for the banks. -/
def coreRest (c : Core) : (Mem × Mem × MatUnit) × List CoreCtx × Fin 64 × Fin 4 × Fin 16 × BitVec 34 × Vector (List QRec) 8 :=
  ((c.loft, c.tags, c.mx), c.ctxs, c.nsave, c.cbank, c.qlog, c.qbase, c.lanes)

/-- The storage and the special registers of the device. -/
def devRest (d : Device) : Mem × W64 × BitVec 40 × BitVec 5 × BitVec 40 × BitVec 40 × BitVec 12 :=
  (d.dram, d.phase, d.ptbase, d.ptlog, d.ctxtab, d.acl, d.wfsel)

/-- The control registers of a task but for what an arrival and a call write: the arrival with its target, and the last handle. -/
def ctlRest (k : Ctl) : (BitVec 15 × Fin 8 × Fin 8 × BitVec 4 × BitVec 2 × W64) × W64 × W64 × W64 × W64 × W64 × W64 :=
  ((k.vl, k.base, k.eff, k.vflags, k.vcsr, k.mflags), k.cause, k.tpc, k.tinfo, k.tbun0, k.tbun1, k.bkpt)

/-- Everything but the live task, the scoreboards, the sequence counters, the waits and the translations is as before. -/
structure KeepsRest (s s' : State) : Prop where
  cur : s'.cur = s.cur
  dev : devRest s'.dev = devRest s.dev
  core (n : CoreId) : coreRest (s'.core n) = coreRest (s.core n)
  bank (n : CoreId) (b : Fin 4) (h : n ≠ s.cur ∨ b ≠ (s.core s.cur).cbank) : s'.bank n b = s.bank n b

namespace KeepsRest
variable {s r q : State}

theorem refl (s : State) : KeepsRest s s := ⟨rfl, rfl, fun _ => rfl, fun _ _ _ => rfl⟩

theorem cbank (h : KeepsRest s r) (n : CoreId) : (r.core n).cbank = (s.core n).cbank := congrArg (·.2.2.2.1) (h.core n)

theorem trans (h : KeepsRest s r) (k : KeepsRest r q) : KeepsRest s q where
  cur := k.cur.trans h.cur
  dev := k.dev.trans h.dev
  core n := (k.core n).trans (h.core n)
  bank n b hb := (k.bank n b (by rwa [h.cur, h.cbank])).trans (h.bank n b hb)

theorem sameMemory (h : KeepsRest s r) : SameMemory s r := by
  refine ⟨fun a => congrArg (fun d => d.1.get a) h.dev, fun n a => ?_⟩
  have hc := h.core n
  simp only [coreRest, Prod.mk.injEq] at hc
  obtain ⟨⟨hloft, htags, hmx⟩, -⟩ := hc
  rw [hloft, htags, hmx]
  exact ⟨rfl, rfl, rfl, rfl, rfl, rfl⟩

theorem sameElsewhere (h : KeepsRest s r) : SameElsewhere s r := by
  have hd := h.dev
  simp only [devRest, Prod.mk.injEq] at hd
  refine ⟨h.bank, fun n => ?_, hd.2⟩
  have hc := h.core n
  simp only [coreRest, Prod.mk.injEq] at hc
  obtain ⟨⟨-, -, hmx⟩, hctxs, hnsave, hcbank, hqlog, hqbase, hlanes⟩ := hc
  exact ⟨hctxs, hnsave, hcbank, hqlog, hqbase, hlanes, hmx⟩

/-! ## The updates that the forms are made of -/

theorem fresh (s : State) : KeepsRest s s.fresh.2 := ⟨rfl, rfl, fun _ => rfl, fun _ _ _ => rfl⟩

theorem modDev (s : State) {f : Device → Device} (h : devRest (f s.dev) = devRest s.dev) : KeepsRest s (s.modDev f) :=
  ⟨rfl, h, fun _ => rfl, fun _ _ _ => rfl⟩

theorem setCore (s : State) (n : CoreId) {c : Core} (h : coreRest c = coreRest (s.core n)) (hb : c.banks = (s.core n).banks) :
    KeepsRest s (s.setCore n c) := by
  have proj {α : Type} (g : Core → α) (hg : g c = g (s.core n)) (m : CoreId) : g ((s.setCore n c).core m) = g (s.core m) := by
    by_cases hm : m = n
    · rw [hm, setCore_core_self, hg]
    · rw [setCore_core_ne s c hm]
  exact ⟨rfl, rfl, proj coreRest h, fun m b _ => proj (fun c => c.banks[b]) (by rw [hb]) m⟩

theorem modCore (s : State) (n : CoreId) {f : Core → Core} (h : coreRest (f (s.core n)) = coreRest (s.core n))
    (hb : (f (s.core n)).banks = (s.core n).banks) : KeepsRest s (s.modCore n f) := setCore s n h hb

theorem setLive (s : State) (t : Task) : KeepsRest s (s.setLive t) :=
  ⟨rfl, rfl, fun n => setLive_proj coreRest s t n fun _ _ => rfl, setLive_bank_ne s t⟩

theorem modLive (s : State) (f : Task → Task) : KeepsRest s (s.modLive f) := by
  refine ⟨rfl, rfl, fun n => modLive_proj coreRest s f n fun _ _ => rfl, fun n b h => ?_⟩
  unfold State.modLive State.modBank State.bank
  by_cases e : n = s.cur
  · subst e
    have hb : (s.core s.cur).cbank.val ≠ b.val := fun x => h.elim (· rfl) (· (Fin.ext x.symm))
    simp [Vector.getElem_set_ne, hb]
  · rw [modCore_core_ne s _ e]

theorem dropEdge (s : State) (t : Task) : KeepsRest s (s.dropEdge t) := modDev s (release_proj devRest _ _ fun _ _ _ => rfl)

theorem endWait (s : State) : KeepsRest s s.endWait := by
  unfold State.endWait
  split
  · exact refl s
  · exact ((modCore s s.cur rfl rfl).trans (dropEdge _ _)).trans (modLive _ _)

theorem goesOn (s : State) : KeepsRest s s.goesOn := ⟨(endWait s).cur, (endWait s).dev, (endWait s).core, (endWait s).bank⟩

theorem dropTlbs (s : State) (p : TlbEntry → Bool) : KeepsRest s (s.dropTlbs p) := by
  have hcore (n : CoreId) : (s.dropTlbs p).core n = { s.core n with tlb := (s.core n).tlb.filter fun e => !p e } := by
    simp [State.core, State.dropTlbs]
  exact ⟨rfl, rfl, fun n => by rw [hcore]; rfl, fun n b _ => by rw [State.bank, hcore]; rfl⟩

end KeepsRest

/-- The live task is untouched by a change of a core that keeps its banks. -/
theorem modCore_live (s : State) (n : CoreId) {f : Core → Core} (h : ∀ c, (f c).banks = c.banks ∧ (f c).cbank = c.cbank) :
    (s.modCore n f).live = s.live :=
  modCore_proj (fun c => c.banks[c.cbank]) s n s.cur f fun c => by simp only [(h c).1, (h c).2]

/-! ## Acts -/

/-- When the act performs and goes on, it leaves the rest of the machine alone, and of the task's control registers what `ctlRest` names. -/
def ActKeepsRest (s : State) (t : Task) : Act → Prop
  | .ok r => KeepsRest s r ∧ ∃ u, r.live = some u ∧ ctlRest u.ctl = ctlRest t.ctl
  | .jump .. | .resume .. | .entered _ => False
  | .ended _ | .trap _ | .wait .. => True

/-- An instruction that answers with such an act and went on. -/
theorem ActKeepsRest.settle {s : State} {t : Task} {a : Act} (h : ActKeepsRest s t a) (hw : (s.settle t a).wentOn) :
    KeepsRest s (s.settle t a) ∧ ∃ u, (s.settle t a).live = some u ∧ ctlRest u.ctl = ctlRest t.ctl := by
  obtain ⟨r, rfl, -⟩ | ⟨r, p, rfl, -⟩ | ⟨r, p, k, rfl, -⟩ | ⟨r, rfl, -⟩ := settle_wentOn hw
  · obtain ⟨hr, u, hu, hc⟩ := h
    exact ⟨hr.trans (.goesOn r), unwaiting u, (goesOn_live r).trans (by rw [hu]; rfl), hc⟩
  · exact h.elim
  · exact h.elim
  · exact h.elim

namespace ActKeepsRest
variable {s r : State} {t u : Task}

/-- The act changes the live task last. -/
theorem setLive (h : KeepsRest s r) (hc : ctlRest u.ctl = ctlRest t.ctl) : ActKeepsRest s t (.ok (r.setLive u)) :=
  ⟨h.trans (.setLive r u), u, setLive_live r u, hc⟩

/-- The act changes the live task, and then the scoreboard of its core. -/
theorem board (h : KeepsRest s r) (hc : ctlRest u.ctl = ctlRest t.ctl) (n : CoreId) (g : Core → List SbEntry) :
    ActKeepsRest s t (.ok ((r.setLive u).modCore n fun c => { c with sb := g c })) :=
  ⟨(h.trans (.setLive r u)).trans (.modCore _ n rfl rfl), u,
    (modCore_live _ n (f := fun c => { c with sb := g c }) fun _ => ⟨rfl, rfl⟩).trans (setLive_live r u), hc⟩

/-- The act performs nothing. -/
theorem nothing (hl : s.live = some t) : ActKeepsRest s t (.ok s) := ⟨.refl s, t, hl, rfl⟩

end ActKeepsRest

/-! ## What the forms do to their task -/

theorem setS_ctlRest (t : Task) (d : SReg) (v : W64) : ctlRest (t.setS d v).ctl = ctlRest t.ctl := by rw [setS_ctl]

theorem setRec_ctl (t : Task) (r : RecReg) (v : BitVec 768) : (t.setRec r v).ctl = t.ctl := by
  unfold Task.setRec; split <;> rfl

theorem modBuilding_ctl (t : Task) (e : Bool) (f : Cmd → Cmd) : (t.modBuilding e f).ctl = t.ctl := by
  unfold Task.modBuilding; split <;> rfl

theorem unchain_ctl (t : Task) (e : Bool) : (t.unchain e).ctl = t.ctl := by
  unfold Task.unchain; split <;> rfl

/-- An arrival writes the target and the note that it was made (R319). -/
theorem arrive_ctlRest (t : Task) (d : SReg) (v : W64) : ctlRest (t.arrive d v).ctl = ctlRest t.ctl := setS_ctlRest _ d v

/-! ## Acts of several forms -/

namespace ActKeepsRest
variable {s : State} {t : Task}

/-- A register or signal command that is queued takes a name, a handle and its entries (R303). -/
theorem queueReg (k : Cmd) : ActKeepsRest s t (s.queueReg t k) := by
  have add (c : Core) (hc : c = s.core s.cur) (g : EngSlot) : ActKeepsRest s t (State.queueReg.add s t k c (s.cctx t) g) := by
    subst hc
    unfold State.queueReg.add
    dsimp only
    split
    · trivial
    · exact setLive (.trans (.fresh s) (.setCore _ _ rfl rfl)) rfl
  unfold State.queueReg
  dsimp only
  split
  · split
    · trivial
    · exact add _ rfl _
  · exact add _ rfl _

/-- An invalidation drops translations, and makes the task wait (R89). -/
theorem invalidate (asn : Option (BitVec 8)) (p : TlbEntry → Bool) : ActKeepsRest s t (.ok (s.invalidate t asn p)) :=
  setLive (((KeepsRest.dropTlbs s p).trans (.fresh _)).trans (.modDev _ rfl)) rfl

end ActKeepsRest

/-! ## The forms -/

/-- An instruction of a slot whose act for the live task leaves the rest alone. -/
def IssuesKeepingRest (s : State) (t : Task) (o : Out) : Prop := ∃ f, o = issue s f ∧ ActKeepsRest s t (f t)

theorem IssuesKeepingRest.of_issue {s : State} {t : Task} {f : Task → Act} (h : ActKeepsRest s t (f t)) : IssuesKeepingRest s t (issue s f) :=
  ⟨f, rfl, h⟩

namespace IssuesKeepingRest
variable {s : State} {t : Task}

theorem cpy (d a : RecReg) (b : SReg) (e : Bool) : IssuesKeepingRest s t (execCpy d a b e s) := by
  refine .of_issue ?_
  dsimp only
  split
  · trivial
  · exact .setLive (.fresh s) (congrArg ctlRest (unchain_ctl t e))

theorem cpyg (d : SReg) (e : Bool) : IssuesKeepingRest s t (execCpyg d e s) := by
  refine .of_issue ?_
  dsimp only
  split
  · exact .setLive (.refl s) (setS_ctlRest ..)
  · split
    · trivial
    · exact .setLive (.trans (.fresh s) (.setCore _ _ rfl rfl)) (setS_ctlRest ..)

theorem cpyc (hl : s.live = some t) (e : Bool) : IssuesKeepingRest s t (execCpyc e s) := by
  refine .of_issue ?_
  split
  · exact .setLive (.refl s) (congrArg ctlRest (modBuilding_ctl ..))
  · exact .nothing hl

theorem onTask {f : Task → Task} (h : ctlRest (f t).ctl = ctlRest t.ctl) : IssuesKeepingRest s t (Machine.onTask s f) :=
  .of_issue (.setLive (.refl s) h)

theorem regCommand (hl : s.live = some t) (d : VReg) (a b : SReg) (ef : Nat) (e : Bool) (z : Fin 8) (red : Option (Fin 4)) :
    IssuesKeepingRest s t (Machine.regCommand d a b ef e z red s) := by
  refine .of_issue ?_
  dsimp only
  split
  · trivial
  · split
    · trivial
    · split
      · exact .nothing hl
      · exact .queueReg _

theorem xsig (a b : SReg) (e : Bool) (z : Fin 8) : IssuesKeepingRest s t (execXsig a b e z s) := by
  refine .of_issue ?_
  dsimp only
  split
  · trivial
  · split
    · trivial
    · exact .queueReg _

theorem phuntil (d a : SReg) : IssuesKeepingRest s t (execPhuntil d a s) := by
  refine onTask ?_
  dsimp only
  split
  · exact setS_ctlRest ..
  · exact arrive_ctlRest ..

theorem matrixCall (i : Fin 256) (p : Fin 16) (w : Fin 4) (d : SReg) (rty : Bool) :
    IssuesKeepingRest s t (Machine.matrixCall i p w d rty s) := by
  refine .of_issue ?_
  dsimp only
  split
  · trivial
  · split
    · trivial
    · split
      · trivial
      · split
        · trivial
        · split
          · trivial
          · exact .board (.fresh s) (setS_ctlRest ..) _ _

theorem mgarm : IssuesKeepingRest s t (execMgarm s) := by
  refine .of_issue ?_
  dsimp only
  split
  · trivial
  · split
    · trivial
    · split
      · trivial
      · split
        · trivial
        · exact .board (.fresh s) rfl _ _

theorem mgdrop : IssuesKeepingRest s t (execMgdrop s) := by
  refine .of_issue ?_
  split
  · trivial
  · exact .board (.refl s) rfl _ _

/-- A matrix instruction either traps outside the unit's owner or does what it does. -/
theorem onUnit {f : Task → Act} (h : ActKeepsRest s t (f t)) : IssuesKeepingRest s t (Machine.onUnit f s) := by
  refine .of_issue ?_
  split
  · exact h
  · trivial

theorem mcwait (hl : s.live = some t) (a : SReg) : IssuesKeepingRest s t (execMcwait a s) := by
  refine onUnit ?_
  dsimp only
  split
  · split
    · exact .nothing hl
    · trivial
  · exact .nothing hl

theorem mcwaitAll (hl : s.live = some t) : IssuesKeepingRest s t (execMcwaitAll s) := by
  refine onUnit ?_
  split
  · trivial
  · exact .nothing hl

theorem tlbinvPage (hl : s.live = some t) (a b : SReg) (z : Fin 4) : IssuesKeepingRest s t (execTlbinvPage a b z s) := by
  refine .of_issue ?_
  dsimp only
  split
  · exact .nothing hl
  · split
    · exact .nothing hl
    · exact .invalidate ..

theorem tlbinvCtx (hl : s.live = some t) (b : SReg) : IssuesKeepingRest s t (execTlbinvCtx b s) := by
  refine .of_issue ?_
  split
  · exact .nothing hl
  · exact .invalidate ..

theorem tlbinvAll : IssuesKeepingRest s t (execTlbinvAll s) := by
  refine .of_issue ?_
  dsimp only
  split
  · exact .invalidate ..
  · exact .invalidate ..

theorem park (hl : s.live = some t) : IssuesKeepingRest s t (execPark s) :=
  .of_issue ⟨.modCore s _ rfl rfl, t, (modCore_live s _ (f := fun c => { c with yield := true }) fun _ => ⟨rfl, rfl⟩).trans hl, rfl⟩

theorem fqwait (d : SReg) : IssuesKeepingRest s t (execFqwait d s) := by
  refine .of_issue ?_
  dsimp only
  split
  · split
    · exact .setLive (.modDev s rfl) (setS_ctlRest ..)
    · trivial
  · trivial

theorem grow (d a : SReg) : IssuesKeepingRest s t (execGrow d a s) := by
  refine .of_issue ?_
  dsimp only
  split
  · trivial
  · exact .setLive (.modDev s rfl) (setS_ctlRest ..)

end IssuesKeepingRest

/-- Each of the forms issues an act that leaves the rest of the machine alone. -/
theorem issuesKeepingRest_of_keepsStorage {s : State} {t : Task} {i : Instr} (hl : s.live = some t) (h : keepsStorage i = true) :
    IssuesKeepingRest s t (exec i s) := by
  cases i with
  | cpy => exact IssuesKeepingRest.cpy ..
  | cpyg => exact IssuesKeepingRest.cpyg ..
  | cpyc => exact IssuesKeepingRest.cpyc hl _
  | cpyr | cpys => exact IssuesKeepingRest.onTask (congrArg ctlRest (modBuilding_ctl ..))
  | cpyxStat => exact .of_issue (.setLive (.refl s) (setS_ctlRest ..))
  | recr | phleft => exact IssuesKeepingRest.onTask (setS_ctlRest ..)
  | recw => exact IssuesKeepingRest.onTask (congrArg ctlRest (setRec_ctl ..))
  | xfer | xredAdd | xredMax | xredMin => exact IssuesKeepingRest.regCommand hl ..
  | xsig => exact IssuesKeepingRest.xsig ..
  | phase | phaseC => exact IssuesKeepingRest.onTask (arrive_ctlRest ..)
  | phuntil => exact IssuesKeepingRest.phuntil ..
  | mcall | mcallRty => exact IssuesKeepingRest.matrixCall ..
  | mgarm => exact IssuesKeepingRest.mgarm
  | mgdrop => exact IssuesKeepingRest.mgdrop
  | mcwait => exact IssuesKeepingRest.mcwait hl _
  | mcwaitAll => exact IssuesKeepingRest.mcwaitAll hl
  | mstat => exact IssuesKeepingRest.onUnit (.setLive (.refl s) (setS_ctlRest ..))
  | tlbinvPage => exact IssuesKeepingRest.tlbinvPage hl ..
  | tlbinvCtx => exact IssuesKeepingRest.tlbinvCtx hl _
  | tlbinvAll => exact IssuesKeepingRest.tlbinvAll
  | park => exact IssuesKeepingRest.park hl
  | fqwait => exact IssuesKeepingRest.fqwait _
  | grow => exact IssuesKeepingRest.grow ..
  | fence | drain | drainE =>
    refine .of_issue ?_
    split
    · trivial
    · exact .nothing hl
  | _ => cases h

/-- Settles O56: the forms are made of updates of the live task, of the scoreboard and the counters of its core, and of parts of the device that
hold no storage and no special register, and the end of a wait is no more. -/
theorem nonStoringFormsKeepTheRest : Obligations.NonStoringFormsKeepTheRest := by
  unfold Obligations.NonStoringFormsKeepTheRest
  intro s s' t i hl hi hx hw
  obtain ⟨f, hf, hact⟩ := issuesKeepingRest_of_keepsStorage hl hi
  obtain rfl : s.settle t (f t) = s' := Host.Outcome.next.inj ((issue_live hl f).symm.trans (hf.symm.trans hx))
  obtain ⟨hrest, u, hu, hc⟩ := hact.settle hw
  simp only [ctlRest, Prod.mk.injEq] at hc
  obtain ⟨⟨hvl, hbase, heff, hvflags, hvcsr, hmflags⟩, htrap⟩ := hc
  exact ⟨hrest.sameMemory, hrest.sameElsewhere, u, hu, hvl, hbase, heff, hvflags, hvcsr, hmflags, htrap⟩

end Sys2Proof.Proofs
end

section
/-!
PROOFS. Accesses to a context's partition (R83, R145, R148): what the touch of their granules keeps, and runs of bytes stored one after the other.
-/
namespace Sys2Proof.Proofs
open Machine Laws

/-! ## Updates of one core -/

theorem setCore_self (s : State) (n : CoreId) : s.setCore n (s.core n) = s := by
  simp [State.setCore, State.core]

/-- Two changes of one core are one. -/
theorem modCore_modCore (s : State) (n : CoreId) (f g : Core → Core) : (s.modCore n f).modCore n g = s.modCore n fun c => g (f c) := by
  simp [State.modCore, State.setCore, State.core]

theorem modLive_eq_setLive {s : State} {t : Task} (hl : s.live = some t) (f : Task → Task) : s.modLive f = s.setLive (f t) := by
  have hb : (s.core s.cur).banks[(s.core s.cur).cbank] = some t := hl
  simp only [State.modLive, State.setLive, State.modBank, State.setBank, State.modCore, hb, Option.map_some]

/-! ## The touch of granules (R83) -/

/-- A change of a context's part of a core that marks granules as resident or dirty. -/
def MarksGranules (f : CoreCtx → CoreCtx) : Prop := ∀ k, ∃ a d, f k = { k with absent := a, dirty := d }

/-- What first touches and marks keep, the touch of granules keeps. -/
theorem touch_induction {P : Core → Prop} (hz : ∀ c k i g, P c → P (c.touchZero k i g)) (hm : ∀ c x f, MarksGranules f → P c → P (c.modCtx x f))
    {c : Core} (hc : P c) (x : BitVec 16) (spans : List (Nat × Nat)) (write : Bool) : P (c.touch x spans write) := by
  unfold Core.touch
  induction granules spans generalizing c with
  | nil => exact hc
  | cons g gs ih =>
    refine ih ?_
    dsimp only
    split
    · exact hc
    next k hk =>
      split
      · exact hc
      next i hi =>
        have hz' (b : Bool) : P (if b then c.touchZero k i g else c) := by
          cases b
          · exact hc
          · exact hz c k i g hc
        split
        · refine hm _ _ _ (fun k => ?_) (hz' _)
          split <;> split <;> exact ⟨_, _, rfl⟩
        · exact hz' _

theorem marksGranules_arrive (g : Nat) : MarksGranules fun k => k.arrive g := fun _ => ⟨_, _, rfl⟩

theorem touch_banks (c : Core) (x : BitVec 16) (spans : List (Nat × Nat)) (write : Bool) :
    (c.touch x spans write).banks = c.banks ∧ (c.touch x spans write).cbank = c.cbank :=
  touch_induction (P := fun d => d.banks = c.banks ∧ d.cbank = c.cbank) (fun _ _ _ _ h => h) (fun _ _ _ _ h => h) ⟨rfl, rfl⟩ ..

/-- The partition of a context on a core. -/
def partitionOf (c : Core) (y : BitVec 16) : Option Nat := (c.cctx y).map (·.base)

theorem partitionOf_modCtx (c : Core) (x y : BitVec 16) {f : CoreCtx → CoreCtx} (hf : MarksGranules f) :
    partitionOf (c.modCtx x f) y = partitionOf c y := by
  have hkeep (k : CoreCtx) : (if k.ctx == x then f k else k).ctx = k.ctx ∧ (if k.ctx == x then f k else k).base = k.base := by
    obtain ⟨a, d, e⟩ := hf k
    split
    · rw [e]; exact ⟨rfl, rfl⟩
    · exact ⟨rfl, rfl⟩
  have hp : ((fun k : CoreCtx => k.ctx == y) ∘ fun k => if k.ctx == x then f k else k) = fun k => k.ctx == y :=
    funext fun k => congrArg (· == y) (hkeep k).1
  unfold partitionOf Core.cctx Core.modCtx
  rw [List.find?_map, hp, Option.map_map]
  exact congrArg (Option.map · _) (funext fun k => (hkeep k).2)

theorem touch_partitionOf (c : Core) (x y : BitVec 16) (spans : List (Nat × Nat)) (write : Bool) :
    partitionOf (c.touch x spans write) y = partitionOf c y :=
  touch_induction (P := fun d => partitionOf d y = partitionOf c y)
    (fun d k _ g h => (partitionOf_modCtx { d with loft := _, tags := _ } k.ctx y (marksGranules_arrive g)).trans h)
    (fun d x _ hf h => (partitionOf_modCtx d x y hf).trans h) rfl ..

/-- A word that is full stays full when granules are touched: a first touch only fills (R83, R137). -/
theorem touch_full {c : Core} {w : Nat} (h : c.tags.get w = 1) (x : BitVec 16) (spans : List (Nat × Nat)) (write : Bool) :
    (c.touch x spans write).tags.get w = 1 := by
  refine touch_induction (P := fun d => d.tags.get w = 1) (fun d k i g h => ?_) (fun _ _ _ _ h => h) h x spans write
  have hd : (d.touchZero k i g).tags = if k.regionTagf i then fillTags d.tags k.base g else d.tags := rfl
  rw [hd]
  split
  · rw [fillTags, get_write, h, List.length_replicate]
    split
    next hw =>
      rw [List.getD_eq_getElem?_getD, List.getElem?_replicate, if_pos (by omega), Option.getD_some]
    · rfl
  · exact h

/-! ## The state that an access reaches -/

@[simp] theorem reached_cur (s : State) (t : Task) (spans : List (Nat × Nat)) (write : Bool) : (s.reached t spans write).cur = s.cur := rfl

theorem reached_live (s : State) (t : Task) (spans : List (Nat × Nat)) (write : Bool) : (s.reached t spans write).live = s.live := by
  rw [State.reached, modCore_live _ _ fun c => touch_banks c t.ctx spans write]

/-- The base of a context's partition is what the core has for it. -/
theorem cctx_base_eq (s : State) (t : Task) : (s.cctx t).base = (partitionOf (s.core s.cur) t.ctx).getD 0 := by
  unfold State.cctx partitionOf
  cases (s.core s.cur).cctx t.ctx with
  | some k => rfl
  | none => exact Nat.zero_mul _

@[simp] theorem reached_base (s : State) (t u : Task) (spans : List (Nat × Nat)) (write : Bool) :
    ((s.reached t spans write).cctx u).base = (s.cctx u).base := by
  rw [cctx_base_eq, cctx_base_eq, State.reached, modCore_cur, modCore_core_self, touch_partitionOf]

/-- The touch of an access leaves the tag of a full word. -/
theorem reached_full {s : State} {w : Nat} (h : (s.core s.cur).tags.get w = 1) (t : Task) (spans : List (Nat × Nat)) (write : Bool) :
    ((s.reached t spans write).core s.cur).tags.get w = 1 := by
  rw [State.reached, modCore_core_self]
  exact touch_full h ..

/-- An access that nothing holds performs on the state that it reaches. -/
theorem access_performs {s : State} {t : Task} {spans : List (Nat × Nat)} {write tagged : Bool}
    (h : s.holdFirst t (s.cctx t) write tagged spans (granules spans) = none) (f : State → Act) :
    s.access t spans write tagged f = f (s.reached t spans write) := by
  rw [State.access, h]; rfl

/-- An access that is held waits for what holds it. -/
theorem access_waits {s : State} {t : Task} {spans : List (Nat × Nat)} {write tagged : Bool} {q : State × Wait}
    (h : s.holdFirst t (s.cctx t) write tagged spans (granules spans) = some q) (f : State → Act) :
    s.access t spans write tagged f = .wait q.1 q.2 := by
  rw [State.access, h]

/-! ## Runs of bytes stored one after the other -/

/-- A memory after runs of bytes are stored in order, each at its address; a run without one is dropped. -/
def storeRuns (m : Mem) : List (Option Nat × List Byte) → Mem
  | [] => m
  | (some a, bs) :: r => storeRuns (m.write a bs) r
  | (none, _) :: r => storeRuns m r

/-- A byte in none of the runs is left. -/
theorem get_storeRuns_outside {x : Nat} : ∀ (l : List (Option Nat × List Byte)) (m : Mem),
    (∀ a bs, (some a, bs) ∈ l → x < a ∨ a + bs.length ≤ x) → (storeRuns m l).get x = m.get x
  | [], _, _ => rfl
  | (some a, bs) :: r, m, h =>
    (get_storeRuns_outside r _ fun b cs hb => h b cs (.tail _ hb)).trans (get_write_outside m a bs x (h a bs (.head _)))
  | (none, _) :: r, m, h => get_storeRuns_outside r m fun b cs hb => h b cs (.tail _ hb)

/-- A run that shares no byte with a later one stands. -/
theorem num_storeRuns {a : Nat} {bs : List Byte} : ∀ {l : List (Option Nat × List Byte)} {j : Nat} (m : Mem), l[j]? = some (some a, bs) →
    (∀ k b cs, j < k → l[k]? = some (some b, cs) → b + cs.length ≤ a ∨ a + bs.length ≤ b) → (storeRuns m l).num a bs.length = leNat bs
  | (o, cs) :: r, j + 1, m, hj, hd => by
    have hr (m : Mem) : (storeRuns m r).num a bs.length = leNat bs := num_storeRuns m hj fun k b ds hk => hd (k + 1) b ds (Nat.succ_lt_succ hk)
    cases o with
    | none => exact hr m
    | some b => exact hr _
  | (o, cs) :: r, 0, m, hj, hd => by
    cases hj
    have hout : ∀ x, a ≤ x → x < a + bs.length → (storeRuns (m.write a bs) r).get x = (m.write a bs).get x := fun x hlo hhi => by
      refine get_storeRuns_outside r _ fun b ds hb => ?_
      obtain ⟨k, hk⟩ := List.getElem?_of_mem hb
      have := hd (k + 1) b ds (Nat.succ_pos k) hk
      omega
    have hread : (storeRuns (m.write a bs) r).read a bs.length = (m.write a bs).read a bs.length :=
      List.map_congr_left fun i hi => hout _ (Nat.le_add_right ..) (Nat.add_lt_add_left (List.mem_range.1 hi) a)
    exact congrArg leNat (hread.trans (read_write m a bs))

end Sys2Proof.Proofs
end

section
/-!
PROOFS. Record accesses of the loft: the checks of a record and of its units, and the addresses that each form computes (R150 to R154).
Settles O26.
-/
namespace Sys2Proof.Proofs
open Machine Laws

/-! ## The checks of a record access (R150) -/

/-- What `BufOp.check` asks of a unit: in range, and under BCM = 0b01 in bounds. -/
def UnitOk (b : BufOp) (p : Nat) (u : Int) : Prop := b.inRange p u = true ∧ (b.bcm = 1 → b.inBounds u = true)

theorem unitOk_iff (b : BufOp) (p : Nat) (u : Int) :
    UnitOk b p u ↔ 0 ≤ u ∧ u % b.unit = 0 ∧ u + b.unit ≤ p ∧ (b.bcm = 1 → b.base ≤ u ∧ u + b.unit ≤ b.base + b.ext) := by
  simp only [UnitOk, BufOp.inRange, BufOp.inBounds, Bool.and_eq_true, decide_eq_true_eq, beq_iff_eq, and_assoc]

/-- The check passes when the first unit is as it must be and the others pass. -/
theorem check_cons (b : BufOp) (p : Nat) (u : Int) (us : List Int) :
    (UnitOk b p u ∧ ∃ o, b.check p (u :: us) = (b.check p us).map (o :: ·)) ∨ (¬ UnitOk b p u ∧ b.check p (u :: us) = .error u) := by
  rw [UnitOk, BufOp.check]
  by_cases hr : b.inRange p u = true
  · by_cases hb : b.bcm = 1 ∧ b.inBounds u = false
    · exact .inr ⟨by simp [hb], by simp [hr, hb]⟩
    · refine .inl ⟨⟨hr, fun h => by simpa [h] using hb⟩, if b.bcm = 2 ∧ !b.inBounds u then none else some u.toNat, ?_⟩
      rw [if_neg (by simp [hr]), if_neg (by simpa using hb)]
      cases b.check p us <;> rfl
  · exact .inr ⟨fun h => hr h.1, if_pos (by simpa using hr)⟩

theorem check_ok_iff (b : BufOp) (p : Nat) : ∀ us, (∃ as, b.check p us = .ok as) ↔ ∀ u ∈ us, UnitOk b p u
  | [] => by simp [BufOp.check]
  | u :: us => by
    rw [List.forall_mem_cons, ← check_ok_iff b p us]
    obtain ⟨hu, o, h⟩ | ⟨hu, h⟩ := check_cons b p u us
    · rw [h]
      cases b.check p us <;> simp [Except.map, hu]
    · simp [h, hu]

/-- The address that fails is one of those checked. -/
theorem mem_of_check_error {b : BufOp} {p : Nat} {e : Int} : ∀ {us : List Int}, b.check p us = .error e → e ∈ us
  | u :: us, h => by
    obtain ⟨-, o, hc⟩ | ⟨-, hc⟩ := check_cons b p u us
    · rw [hc] at h
      cases hr : b.check p us with
      | ok as => rw [hr] at h; cases h
      | error e' =>
        rw [hr] at h
        cases h
        exact .tail _ (mem_of_check_error hr)
    · rw [hc] at h
      cases h
      exact .head _

theorem length_of_check_ok {b : BufOp} {p : Nat} : ∀ {us : List Int} {as : List (Option Nat)}, b.check p us = .ok as → as.length = us.length
  | [], _, h => by cases h; rfl
  | u :: us, as, h => by
    obtain ⟨-, o, hc⟩ | ⟨-, hc⟩ := check_cons b p u us
    · rw [hc] at h
      cases hr : b.check p us with
      | ok bs =>
        rw [hr] at h
        cases h
        exact congrArg (· + 1) (length_of_check_ok hr)
      | error e => rw [hr] at h; cases h
    · rw [hc] at h; cases h

/-! ## How a record access fares -/

section
variable {s : State} {t : Task} {a : BReg} {adr : Task → BufOp → Option (List Int)} {w : Bool} {b : BufOp} {us : List Int} {as : List (Option Nat)}
  {f : Task → BufOp → List (Option Nat) → State → Act} (hl : s.live = some t)
include hl

theorem recAccess_no_record (hb : bufOp t.regs.b[a] = none) :
    recAccess a adr w f s = .next (s.traps t 0x09 0 (t.regs.b[a].setWidth 64)) := by
  rw [recAccess, issue_live hl, hb]
  have h : w64 (t.regs.b[a].toNat % 2 ^ 64) = t.regs.b[a].setWidth 64 := BitVec.eq_of_toNat_eq (by simp [w64])
  exact congrArg (fun v => Host.Outcome.next (s.traps t 0x09 0 v)) h

theorem recAccess_no_addresses (hb : bufOp t.regs.b[a] = some b) (ha : adr t b = none) :
    recAccess a adr w f s = .next (s.traps t 0x09 0 0) := by
  rw [recAccess, issue_live hl]
  simp only [hb, ha]
  rfl

theorem recAccess_bad_unit (hb : bufOp t.regs.b[a] = some b) (ha : adr t b = some us) {e : Int}
    (hc : b.check (s.cctx t).psize us = .error e) : recAccess a adr w f s = .next (s.traps t 0x09 0 (BitVec.ofInt 64 e)) := by
  rw [recAccess, issue_live hl]
  simp only [hb, ha, hc]
  rfl

theorem recAccess_checked (hb : bufOp t.regs.b[a] = some b) (ha : adr t b = some us) (hc : b.check (s.cctx t).psize us = .ok as) :
    recAccess a adr w f s = .next (s.settle t (s.access t (b.spans as) w false (f t b as))) := by
  rw [recAccess, issue_live hl]
  simp only [hb, ha, hc]

end

/-! ## The addresses of the forms (R151 to R154) -/

theorem adrImm_eq (i : BitVec 17) (t : Task) (b : BufOp) : adrImm i t b = b.base + i.toInt * b.unit := by
  rw [adrImm, BufOp.at, immI, BitVec.toInt_signExtend_of_le (by decide)]

theorem adrIdx_eq (x : SReg) (f : Fin 16) (t : Task) (b : BufOp) : adrIdx x f t b = b.base + ((t.getS x).toInt + f.val) * b.unit := rfl

theorem runAt_eq {adr : Task → BufOp → Int} {t : Task} {b : BufOp} {e : Int} (h : adr t b = b.base + e * b.unit) :
    runAt adr t b = runFrom t e b := by
  simp only [runAt, h, BufOp.run, runFrom, bind_pure_comp, List.map_eq_map, List.map_map]
  rfl

theorem windowAt_eq {adr : Task → BufOp → Int} {t : Task} {b : BufOp} {e : Int} (h : adr t b = b.base + e * b.unit) :
    windowAt adr t b = windowFrom t e b := by
  rw [windowAt, h]; rfl

/-- The active lanes of the model are those of the statements. -/
theorem gatherLanes_eq (t : Task) (b : BufOp) (k : KReg) : t.gatherLanes b k = activeLanes t b k := rfl

theorem gatherAt_eq (x : VReg) (k : KReg) (t : Task) (b : BufOp) :
    gatherAt x k t b = some ((activeLanes t b k).map fun j => b.base + intOf true 32 (t.getV x 4 j) * b.unit) := by
  refine congrArg some (List.map_congr_left fun j hj => ?_)
  have hlt : j < t.gatherLen b.unit := List.mem_range.1 (List.mem_of_mem_filter hj)
  simp [elems_eq_map, hlt]

/-- What a record access of a form leaves once its units are checked and nothing holds it. -/
def unitsMoved : Instr → Task → BufOp → List (Option Nat) → State → State
  | .ldScalar d _ _ | .ldScalarX d _ _ _ => fun t b us s =>
    s.modLive fun t' => t'.setS d (b.deliver (leNat (s.unitBytes t b.unit (us.headD none))))
  | .ldVector d _ _ | .ldVectorX d _ _ _ | .ldw d _ _ | .ldwX d _ _ _ => fun t b us s =>
    s.modLive fun t' => t'.setVBytes d (us.flatMap (s.unitBytes t b.unit))
  | .ldg d _ _ k => fun t b us s => s.modLive fun t' =>
    ((t.gatherLanes b k).zip us).foldl (fun t' p => t'.setV d b.unit p.1 (leNat (s.unitBytes t b.unit p.2))) t'
  | .stScalar d _ _ | .stScalarX d _ _ _ => fun t b us s => s.storeUnits t b.unit [(us.headD none, leBytes b.unit (t.getS d).toNat)]
  | .stVector d _ _ | .stVectorX d _ _ _ | .stw d _ _ | .stwX d _ _ _ => fun t b us s =>
    s.storeUnits t b.unit (us.zip (chunks b.unit us.length (t.getVBytes d (us.length * b.unit))))
  | .stg d _ _ k => fun t b us s =>
    s.storeUnits t b.unit (us.zip ((t.gatherLanes b k).map fun j => leBytes b.unit (t.getV d b.unit j)))
  | _ => fun _ _ _ s => s

/-- Every form of R151 to R154 is a record access at the addresses that its rule gives. -/
theorem exec_eq_recAccess {t : Task} {i : Instr} {w : Bool} {a : BReg} {adr : BufOp → Option (List Int)} (h : loftUnits t i = some (w, a, adr)) :
    ∃ adr', (∀ b, adr' t b = adr b) ∧ ∀ s, exec i s = recAccess a adr' w (fun t b us s => .ok (unitsMoved i t b us s)) s := by
  unfold loftUnits at h
  split at h <;> cases h
  case h_1 | h_2 => exact ⟨fun t b => some [adrImm _ t b], fun b => congrArg (fun v => some [v]) (adrImm_eq ..), fun _ => rfl⟩
  case h_3 | h_4 => exact ⟨_, fun b => runAt_eq (adrImm_eq ..), fun _ => rfl⟩
  case h_5 | h_6 => exact ⟨_, fun b => windowAt_eq (adrImm_eq ..), fun _ => rfl⟩
  case h_7 | h_8 => exact ⟨fun t b => some [adrIdx _ _ t b], fun b => congrArg (fun v => some [v]) (adrIdx_eq ..), fun _ => rfl⟩
  case h_9 | h_10 => exact ⟨_, fun b => runAt_eq (adrIdx_eq ..), fun _ => rfl⟩
  case h_11 | h_12 => exact ⟨_, fun b => windowAt_eq (adrIdx_eq ..), fun _ => rfl⟩
  case h_13 | h_14 => exact ⟨_, fun b => gatherAt_eq .., fun _ => rfl⟩

/-- An access of units that are checked and that nothing holds moves them. -/
theorem exec_moves_units {s : State} {t : Task} {i : Instr} {w : Bool} {a : BReg} {adr : BufOp → Option (List Int)} {b : BufOp} {us : List Int}
    {as : List (Option Nat)} (hl : s.live = some t) (hi : loftUnits t i = some (w, a, adr)) (hb : bufOp t.regs.b[a] = some b)
    (ha : adr b = some us) (hu : Unheld s t b us as w) :
    exec i s = .next (State.goesOn (unitsMoved i t b as (s.reached t (b.spans as) w))) := by
  obtain ⟨adr', hadr, hx⟩ := exec_eq_recAccess hi
  obtain ⟨hc, hh⟩ := hu
  rw [hx, recAccess_checked hl hb ((hadr b).trans ha) hc, access_performs hh]
  rfl

/-- Settles O26: the forms are record accesses, and a record access goes through its checks in order. -/
theorem loftAccessChecks : Obligations.LoftAccessChecks := by
  unfold Obligations.LoftAccessChecks
  intro s t i w a adr hl hi
  obtain ⟨adr', hadr, hx⟩ := exec_eq_recAccess hi
  rw [hx]
  refine ⟨recAccess_no_record hl, fun b hb => ⟨fun hn => recAccess_no_addresses hl hb ((hadr b).trans hn), fun us hus => ?_⟩⟩
  have ha := (hadr b).trans hus
  refine ⟨?_, fun e he => ⟨mem_of_check_error he, recAccess_bad_unit hl hb ha he⟩, fun as has => ⟨length_of_check_ok has, fun q hq => ?_⟩⟩
  · simp only [check_ok_iff, unitOk_iff]
  · rw [recAccess_checked hl hb ha has, access_waits hq]; rfl

end Sys2Proof.Proofs
end

section
/-!
PROOFS. What a record access delivers and what it stores (R150 to R154). Settles O27 and O28.
-/
namespace Sys2Proof.Proofs
open Machine Laws

/-! ## The bytes of a unit -/

theorem leNat_replicate_zero : ∀ n, leNat (List.replicate n 0) = 0
  | 0 => rfl
  | n + 1 => by rw [List.replicate_succ, leNat, leNat_replicate_zero n]; rfl

@[simp] theorem unitBytes_length (s : State) (t : Task) (u : Nat) (o : Option Nat) : (s.unitBytes t u o).length = u := by
  cases o with
  | none => exact List.length_replicate ..
  | some a => exact read_length ..

theorem leNat_unitBytes (s : State) (t : Task) (u : Nat) (o : Option Nat) : leNat (s.unitBytes t u o) = unitAt s t u o := by
  cases o with
  | none => exact leNat_replicate_zero u
  | some a => rfl

theorem unitAt_lt (s : State) (t : Task) (u : Nat) (o : Option Nat) : unitAt s t u o < 256 ^ u := by
  have h := leNat_lt (s.unitBytes t u o)
  rwa [unitBytes_length, leNat_unitBytes] at h

/-- The value that a scalar load delivers (R150). -/
theorem deliver_eq (b : BufOp) (v : Nat) :
    b.deliver v = if tySigned b.ef then BitVec.ofInt 64 (intOf true (8 * b.unit) v) else BitVec.ofNat 64 v := rfl

/-! ## Loads -/

theorem goesOn_modLive {s : State} {t : Task} (hl : s.live = some t) (f : Task → Task) : (s.modLive f).goesOn = s.thenTask (f t) := by
  rw [modLive_eq_setLive hl]; rfl

/-- The run of bytes of lane `p.1` of a gather that delivers `v p.2` there. -/
def gatheredRun (d : VReg) (w : Nat) (v : Option Nat → Nat) (p : Nat × Option Nat) : Option Nat × List Byte :=
  (some (d.val * 16384 + p.1 * w), leBytes w (v p.2))

/-- The elements of a vector register stored one after the other, as runs of bytes. -/
theorem foldl_setV (d : VReg) (w : Nat) (v : Option Nat → Nat) : ∀ (ps : List (Nat × Option Nat)) (t : Task),
    ps.foldl (fun t p => t.setV d w p.1 (v p.2)) t =
      { t with regs := { t.regs with v := storeRuns t.regs.v (ps.map (gatheredRun d w v)) } }
  | [], _ => rfl
  | p :: ps, t => by rw [List.foldl_cons, foldl_setV d w v ps]; rfl

/-- The active lanes rise. -/
theorem activeLanes_pairwise (t : Task) (b : BufOp) (k : KReg) : (activeLanes t b k).Pairwise (· < ·) :=
  List.pairwise_lt_range.filter _

section
variable {r : State} {t : Task} {b : BufOp} {as : List (Option Nat)} (hl : r.live = some t)
include hl

theorem scalar_delivered (d : SReg) (o : Option Nat) :
    (r.modLive fun t' => t'.setS d (b.deliver (leNat (r.unitBytes t b.unit o)))).goesOn = r.thenTask (t.setS d
      (if tySigned b.ef then BitVec.ofInt 64 (intOf true (8 * b.unit) (unitAt r t b.unit o)) else BitVec.ofNat 64 (unitAt r t b.unit o))) := by
  rw [goesOn_modLive hl, leNat_unitBytes, deliver_eq]

theorem vector_delivered (d : VReg) : ∃ m : Mem, (∀ k < as.length, m.num (d.val * 16384 + k * b.unit) b.unit = unitAt r t b.unit (as.getD k none)) ∧
    (∀ z, z < d.val * 16384 ∨ d.val * 16384 + as.length * b.unit ≤ z → m.get z = t.regs.v.get z) ∧
    (r.modLive fun t' => t'.setVBytes d (as.flatMap (r.unitBytes t b.unit))).goesOn = r.thenTask { t with regs := { t.regs with v := m } } := by
  let bss := as.map (r.unitBytes t b.unit)
  have hw : ∀ bs ∈ bss, bs.length = b.unit := by simp [bss]
  have hn : bss.length = as.length := List.length_map ..
  refine ⟨t.regs.v.write (d.val * 16384) bss.flatten, fun k hk => ?_, fun z hz => ?_, ?_⟩
  · rw [num_write_flatten _ _ bss hw (hn ▸ hk), List.getElem_map, leNat_unitBytes, List.getD_eq_getElem _ _ hk]
  · exact get_write_outside _ _ _ _ (by rwa [length_flatten_of bss hw, hn])
  · rw [goesOn_modLive hl, List.flatMap_def]; rfl

theorem gather_delivered (d : VReg) (k : KReg) (hn : as.length = (activeLanes t b k).length) :
    let js := activeLanes t b k
    ∃ m : Mem, (∀ p < js.length, m.num (d.val * 16384 + js.getD p 0 * b.unit) b.unit = unitAt r t b.unit (as.getD p none)) ∧
      (∀ z, (∀ j ∈ js, z < d.val * 16384 + j * b.unit ∨ d.val * 16384 + j * b.unit + b.unit ≤ z) → m.get z = t.regs.v.get z) ∧
      (r.modLive fun t' => (js.zip as).foldl (fun t' p => t'.setV d b.unit p.1 (leNat (r.unitBytes t b.unit p.2))) t').goesOn =
        r.thenTask { t with regs := { t.regs with v := m } } := by
  intro js
  have hrun {p : Nat} (hp : p < js.length) : ((js.zip as).map (gatheredRun d b.unit (unitAt r t b.unit)))[p]? =
      some (gatheredRun d b.unit (unitAt r t b.unit) (js[p], as[p]'(hn ▸ hp))) := by
    simp [hp, hn ▸ hp]
  refine ⟨storeRuns t.regs.v ((js.zip as).map (gatheredRun d b.unit (unitAt r t b.unit))), fun p hp => ?_, fun z hz => ?_, ?_⟩
  · have hp' : p < as.length := hn ▸ hp
    have h := num_storeRuns t.regs.v (hrun hp) fun q c cs hq hc => ?_
    · rw [leBytes_length, leNat_leBytes, Nat.mod_eq_of_lt (unitAt_lt ..)] at h
      rw [List.getD_eq_getElem _ _ hp, List.getD_eq_getElem _ _ hp']
      exact h
    · have hql : q < js.length := by
        have := (List.getElem?_eq_some_iff.1 hc).1
        rw [List.length_map, List.length_zip] at this
        omega
      rw [hrun hql] at hc
      cases hc
      have hlt : js[p] < js[q] := List.pairwise_iff_getElem.1 (activeLanes_pairwise t b k) p q hp hql hq
      have hle : js[p] * b.unit + b.unit ≤ js[q] * b.unit := by rw [← Nat.succ_mul]; exact Nat.mul_le_mul_right _ hlt
      simp only [leBytes_length]
      omega
  · refine get_storeRuns_outside _ _ fun c cs hc => ?_
    obtain ⟨⟨j, o⟩, hj, he⟩ := List.mem_map.1 hc
    cases he
    rw [leBytes_length]
    exact hz j (List.of_mem_zip hj).1
  · rw [goesOn_modLive hl]
    simp only [leNat_unitBytes]
    rw [foldl_setV d b.unit (unitAt r t b.unit)]

end

/-- Settles O27: a load performs on the state that its access reaches, and what it moves there is what its form delivers. -/
theorem loftLoads : Obligations.LoftLoads := by
  unfold Obligations.LoftLoads
  intro s t i a adr b us as hl hi hb ha hu r
  have hx := exec_moves_units hl hi hb ha hu
  have hr : r.live = some t := (reached_live ..).trans hl
  rw [hx]
  have hn := length_of_check_ok hu.1
  unfold loftUnits at hi
  split at hi <;> cases hi
  case h_1 | h_7 => exact congrArg _ (scalar_delivered hr ..)
  case h_3 | h_5 | h_9 | h_11 =>
    obtain ⟨m, hnum, hout, he⟩ := vector_delivered (b := b) (as := as) hr _
    exact ⟨m, hnum, hout, congrArg _ he⟩
  case h_13 =>
    cases ha
    obtain ⟨m, hnum, hout, he⟩ := gather_delivered (b := b) (as := as) hr _ _ (by simpa using hn)
    exact ⟨m, hnum, hout, congrArg _ he⟩

/-! ## Stores -/

/-- A store into the partition leaves what the core has for every context. -/
theorem modCore_loft_cctx (s : State) (t : Task) (f : Core → Mem) : (s.modCore s.cur fun c => { c with loft := f c }).cctx t = s.cctx t := by
  rw [State.cctx, modCore_cur, modCore_core_self]; rfl

/-- The runs of bytes that a store of units makes, at their places in the loft (R150). -/
def storedAt (base u : Nat) (p : Option Nat × List Byte) : Option Nat × List Byte := (p.1.map (base + ·), p.2.take u)

/-- Units stored in order are runs of bytes stored in order, in the loft of the current core. -/
theorem storeUnits_eq (t : Task) (u : Nat) : ∀ (l : List (Option Nat × List Byte)) (s : State),
    s.storeUnits t u l = s.modCore s.cur fun c => { c with loft := storeRuns c.loft (l.map (storedAt (s.cctx t).base u)) }
  | [], s => (setCore_self s s.cur).symm
  | (some a, bs) :: r, s => by
    rw [State.storeUnits, storeUnits_eq t u r, State.loftWrite, modCore_loft_cctx, modCore_cur, modCore_modCore]; rfl
  | (none, _) :: r, s => storeUnits_eq t u r s

/-- The bytes that a store form writes to its units, unit by unit. -/
def storedRuns (t : Task) (b : BufOp) (n : Nat) : Instr → List (List Byte)
  | .stScalar d _ _ | .stScalarX d _ _ _ => [leBytes b.unit (t.getS d).toNat]
  | .stVector d _ _ | .stVectorX d _ _ _ | .stw d _ _ | .stwX d _ _ _ => chunks b.unit n (t.getVBytes d (n * b.unit))
  | .stg d _ _ k => (activeLanes t b k).map fun j => leBytes b.unit (t.getV d b.unit j)
  | _ => []

theorem chunks_getElem_getVBytes (t : Task) (d : VReg) {u n k : Nat} (hk : k < n) :
    (chunks u n (t.getVBytes d (n * u)))[k]? = some (t.regs.v.read (d.val * 16384 + k * u) u) := by
  have hle : k * u + u ≤ n * u := by rw [← Nat.succ_mul]; exact Nat.mul_le_mul_right u hk
  rw [chunks_eq_map, List.getElem?_map, List.getElem?_range hk, Option.map_some, Task.getVBytes, take_drop_read _ hle]

/-- A store form has the bytes of its source for each of its units. -/
theorem storedRuns_getElem {t : Task} {i : Instr} {a : BReg} {adr : BufOp → Option (List Int)} {b : BufOp} {us : List Int} {k : Nat}
    (hi : loftUnits t i = some (true, a, adr)) (ha : adr b = some us) (hk : k < us.length) :
    ∃ bs, (storedRuns t b us.length i)[k]? = some bs ∧ bs.length = b.unit ∧ leNat bs = storedUnit t b k i := by
  unfold loftUnits at hi
  split at hi <;> cases hi
  case h_2 | h_8 =>
    cases ha
    obtain rfl : k = 0 := by simpa using hk
    exact ⟨_, rfl, leBytes_length .., leNat_leBytes ..⟩
  case h_4 | h_6 | h_10 | h_12 => exact ⟨_, chunks_getElem_getVBytes _ _ hk, read_length .., rfl⟩
  case h_14 d x m =>
    cases ha
    rw [List.length_map] at hk
    refine ⟨leBytes b.unit (t.getV d b.unit (activeLanes t b m)[k]), by simp [storedRuns, hk], leBytes_length .., ?_⟩
    rw [leNat_leBytes, Nat.mod_eq_of_lt (getV_lt ..), storedUnit, List.getD_eq_getElem _ _ hk]

/-- A store form stores the bytes of its source, each run at its unit. -/
theorem unitsMoved_store {t : Task} {i : Instr} {a : BReg} {adr : BufOp → Option (List Int)} {b : BufOp} {us : List Int} {as : List (Option Nat)}
    (hi : loftUnits t i = some (true, a, adr)) (ha : adr b = some us) (hn : as.length = us.length) (s : State) :
    unitsMoved i t b as s = s.storeUnits t b.unit (as.zip (storedRuns t b us.length i)) := by
  unfold loftUnits at hi
  split at hi <;> cases hi
  case h_2 | h_8 =>
    cases ha
    obtain ⟨o, rfl⟩ := List.length_eq_one_iff.1 hn
    rfl
  case h_4 | h_6 | h_10 | h_12 => rw [← hn]; rfl
  case h_14 => rfl

section
variable {t : Task} {i : Instr} {a : BReg} {adr : BufOp → Option (List Int)} {b : BufOp} {us : List Int} {as : List (Option Nat)}
  (hi : loftUnits t i = some (true, a, adr)) (ha : adr b = some us) (hn : as.length = us.length) (base : Nat)
include hi ha hn

/-- Each unit has its run of bytes among those that a store form makes. -/
theorem storedAt_of_unit {k : Nat} {o : Option Nat} (ho : as[k]? = some o) : ∃ bs,
    ((as.zip (storedRuns t b us.length i)).map (storedAt base b.unit))[k]? = some (o.map (base + ·), bs) ∧
      bs.length = b.unit ∧ leNat bs = storedUnit t b k i := by
  obtain ⟨bs, hbs, hlen, hval⟩ := storedRuns_getElem hi ha (hn ▸ (List.getElem?_eq_some_iff.1 ho).1)
  refine ⟨bs, ?_, hlen, hval⟩
  rw [List.getElem?_map, (List.getElem?_zip_eq_some (z := (o, bs))).2 ⟨ho, hbs⟩, Option.map_some, storedAt, List.take_of_length_le hlen.le]

/-- Each run of bytes that is stored is that of a unit. -/
theorem unit_of_storedAt {k x : Nat} {bs : List Byte}
    (h : ((as.zip (storedRuns t b us.length i)).map (storedAt base b.unit))[k]? = some (some x, bs)) :
    ∃ o, as[k]? = some (some o) ∧ x = base + o ∧ bs.length = b.unit := by
  have hk : k < as.length := by
    have := (List.getElem?_eq_some_iff.1 h).1
    rw [List.length_map, List.length_zip] at this
    omega
  obtain ⟨cs, hcs, hlen, -⟩ := storedAt_of_unit hi ha hn base (List.getElem?_eq_getElem hk)
  obtain ⟨hadr, rfl⟩ := Prod.mk.inj (Option.some.inj (hcs.symm.trans h))
  obtain ⟨o, ho, rfl⟩ := Option.map_eq_some_iff.1 hadr
  exact ⟨o, (List.getElem?_eq_getElem hk).trans (congrArg some ho), rfl, hlen⟩

end

/-- Settles O28: a store performs on the state that its access reaches, where it stores its runs of bytes in order. -/
theorem loftStores : Obligations.LoftStores := by
  unfold Obligations.LoftStores
  intro s t i a adr b us as hl hi hb ha hu r base
  have hn := length_of_check_ok hu.1
  have hbase : (r.cctx t).base = base := reached_base ..
  refine ⟨storeRuns (r.core s.cur).loft ((as.zip (storedRuns t b us.length i)).map (storedAt base b.unit)), fun k o ho hlast => ?_,
    fun z hz => ?_, ?_⟩
  · obtain ⟨bs, hbs, hlen, hval⟩ := storedAt_of_unit hi ha hn base ho
    have h := num_storeRuns (r.core s.cur).loft hbs fun q c cs hq hc => ?_
    · rwa [hlen, hval] at h
    · obtain ⟨p, hp, rfl, hcs⟩ := unit_of_storedAt hi ha hn base hc
      have := hlast q p hq hp
      dsimp only
      omega
  · refine get_storeRuns_outside _ _ fun c cs hc => ?_
    obtain ⟨q, hq⟩ := List.getElem?_of_mem hc
    obtain ⟨o, ho, rfl, hlen⟩ := unit_of_storedAt hi ha hn base hq
    rw [hlen]
    exact hz o (List.mem_of_getElem? ho)
  · rw [exec_moves_units hl hi hb ha hu, unitsMoved_store hi ha hn, storeUnits_eq, hbase]
    rfl

end Sys2Proof.Proofs
end

section
/-!
PROOFS. Whole records moved between the loft and the record registers (R155). Settles O29.
-/
namespace Sys2Proof.Proofs
open Machine Laws

theorem loftAddr_some {p n al : Nat} {v : W64} (ha : v.toNat % al = 0) (hp : v.toNat + n ≤ p) : loftAddr p v n al = some v.toNat :=
  if_pos ⟨ha, hp⟩

theorem loftAddr_none {p n al : Nat} {v : W64} (h : v.toNat % al ≠ 0 ∨ p < v.toNat + n) : loftAddr p v n al = none :=
  if_neg (by omega)

/-- A record fits the bytes that its register moves. -/
theorem getRec_lt (t : Task) (d : RecReg) : (t.getRec d).toNat < 256 ^ recBytes d := by
  rw [show 256 = 2 ^ 8 from rfl, ← Nat.pow_mul]
  by_cases h : d.val < 16
  · have hw : 256 ≤ 8 * recBytes d := by rw [recBytes, if_pos h]
    rw [Task.getRec, dif_pos h, BitVec.toNat_setWidth]
    exact (Nat.mod_le ..).trans_lt (BitVec.toNat_lt_twoPow_of_le hw)
  · have hw : 768 ≤ 8 * recBytes d := by rw [recBytes, if_neg h]
    exact BitVec.toNat_lt_twoPow_of_le hw

/-- A number read from the partition as an access finds it. -/
theorem reached_loftNum (s : State) (t : Task) (spans : List (Nat × Nat)) (write : Bool) (o n : Nat) :
    (s.reached t spans write).loftNum t o n = ((s.reached t spans write).core s.cur).loft.num ((s.cctx t).base + o) n := by
  rw [State.loftNum, State.loftRead, reached_base]; rfl

/-- A store into the partition as an access finds it. -/
theorem reached_loftWrite (s : State) (t : Task) (spans : List (Nat × Nat)) (write : Bool) (o : Nat) (bs : List Byte) :
    (s.reached t spans write).loftWrite t o bs = (s.reached t spans write).modCore s.cur fun c =>
      { c with loft := c.loft.write ((s.cctx t).base + o) bs } := by
  rw [State.loftWrite, reached_base]; rfl

section
variable {s : State} {t : Task} {d : RecReg} {a : SReg} {e : BitVec 17} {q : State × Wait}

/-- The bytes of the record that a move names. -/
def recSpans (t : Task) (d : RecReg) (a : SReg) (e : BitVec 17) : List (Nat × Nat) := [((recAt t a e).toNat, recBytes d)]

variable (hl : s.live = some t)
include hl

theorem recordMoves_refused (h : (recAt t a e).toNat % 32 ≠ 0 ∨ (s.cctx t).psize < (recAt t a e).toNat + recBytes d) :
    exec (.ldrec d a e) s = .next (s.traps t 0x09 0 (recAt t a e)) ∧ exec (.strec d a e) s = .next (s.traps t 0x09 0 (recAt t a e)) :=
  ⟨(issue_live hl _).trans (by simp only [loftAddr_none h]; rfl), (issue_live hl _).trans (by simp only [loftAddr_none h]; rfl)⟩

variable (ha : (recAt t a e).toNat % 32 = 0) (hp : (recAt t a e).toNat + recBytes d ≤ (s.cctx t).psize)
include ha hp

theorem ldrec_performs (hh : s.holdFirst t (s.cctx t) false false (recSpans t d a e) (granules (recSpans t d a e)) = none) :
    let r := s.reached t (recSpans t d a e) false
    exec (.ldrec d a e) s = .next (r.thenTask (t.setRec d
      (BitVec.ofNat 768 ((r.core s.cur).loft.num ((s.cctx t).base + (recAt t a e).toNat) (recBytes d))))) := by
  intro r
  have hr : r.live = some t := (reached_live ..).trans hl
  rw [← reached_loftNum, ← goesOn_modLive hr fun t' => t'.setRec d (BitVec.ofNat 768 (r.loftNum t (recAt t a e).toNat (recBytes d)))]
  refine issue_ok hl ?_
  simp only [loftAddr_some ha hp]
  exact access_performs hh _

theorem strec_performs (hh : s.holdFirst t (s.cctx t) true false (recSpans t d a e) (granules (recSpans t d a e)) = none) :
    let r := s.reached t (recSpans t d a e) true
    exec (.strec d a e) s = .next (State.goesOn (r.modCore s.cur fun c =>
      { c with loft := (r.core s.cur).loft.setNum ((s.cctx t).base + (recAt t a e).toNat) (recBytes d) (t.getRec d).toNat })) := by
  intro r
  refine issue_ok hl ?_
  simp only [loftAddr_some ha hp]
  refine (access_performs hh _).trans ?_
  rw [reached_loftWrite]; rfl

theorem ldrec_waits (hh : s.holdFirst t (s.cctx t) false false (recSpans t d a e) (granules (recSpans t d a e)) = some q) :
    exec (.ldrec d a e) s = .next (q.1.registerWait t q.2) :=
  issue_waits hl (by simp only [loftAddr_some ha hp]; exact access_waits hh _)

theorem strec_waits (hh : s.holdFirst t (s.cctx t) true false (recSpans t d a e) (granules (recSpans t d a e)) = some q) :
    exec (.strec d a e) s = .next (q.1.registerWait t q.2) :=
  issue_waits hl (by simp only [loftAddr_some ha hp]; exact access_waits hh _)

end

/-- Settles O29: a move of a record is an access to its bytes, at an address that is checked first. -/
theorem recordMoves : Obligations.RecordMoves := by
  unfold Obligations.RecordMoves
  intro s t d a e hl n v k at_ held
  refine ⟨recordMoves_refused hl, fun ha hp => ⟨ldrec_performs hl ha hp, fun hh => ⟨_, ?_, ?_, strec_performs hl ha hp hh⟩,
    fun q => ldrec_waits hl ha hp, fun q => strec_waits hl ha hp⟩⟩
  · exact (num_setNum ..).trans (Nat.mod_eq_of_lt (getRec_lt t d))
  · exact fun z hz => get_write_outside _ _ _ _ (by rwa [leBytes_length])

end Sys2Proof.Proofs
end

section
/-!
PROOFS. Tagged words of the loft: when a tagged instruction performs, and what it does to its word (R137, R138, R157, R158).
-/
namespace Sys2Proof.Proofs
open Machine Laws

/-! ## When a tagged instruction performs (R157) -/

/-- The place of a tagged instruction among those that wait for the same tag of the same word (R138). -/
def tagWaiter (t : Task) (o : Nat) (b : Bool) : Waiter :=
  { ctx := t.ctx, ring := false, obj := o, dir := b, owner := .task t.tid, inner := t.inHandler }

/-- The word at an offset is full, or empty, as a step finds it that first touches the word's granule. -/
def TagIs (s : State) (t : Task) (o : Nat) (b : Bool) : Prop :=
  ((s.reached t [(o, 4)] false).core s.cur).tags.get (((s.cctx t).base + o) / 4) = 1 ↔ b = true

theorem tagIs_iff (s : State) (t : Task) (o : Nat) (b : Bool) : TagIs s t o b ↔ (s.reached t [(o, 4)] false).tag t o = b := by
  rw [TagIs, State.tag, reached_base, reached_cur]
  cases b <;> simp

/-- The state in which a tagged instruction acts on its word: its granule is touched to read the tag, and then to load or to store. -/
def atWord (s : State) (t : Task) (o : Nat) (write : Bool) : State := (s.reached t [(o, 4)] false).reached t [(o, 4)] write

@[simp] theorem atWord_cur (s : State) (t : Task) (o : Nat) (write : Bool) : (atWord s t o write).cur = s.cur := rfl

theorem atWord_live (s : State) (t : Task) (o : Nat) (write : Bool) : (atWord s t o write).live = s.live := by
  rw [atWord, reached_live, reached_live]

@[simp] theorem atWord_base (s : State) (t : Task) (o : Nat) (write : Bool) : ((atWord s t o write).cctx t).base = (s.cctx t).base := by
  rw [atWord, reached_base, reached_base]

section
variable {s : State} {t : Task} {a : SReg} {i : BitVec 17} {write : Bool} {want : Option Bool} {f : Task → Nat → State → State} {o : Nat}
  (hl : s.live = some t)
include hl

theorem tagged_refused (h : loftAddr (s.cctx t).psize (t.getS a + immI i) 4 4 = none) :
    tagged a i write want f s = .next (s.traps t 0x09 0 (t.getS a + immI i)) :=
  (issue_live hl _).trans (by simp only [h]; rfl)

variable (ho : loftAddr (s.cctx t).psize (t.getS a + immI i) 4 4 = some o)
  (hh : s.holdFirst t (s.cctx t) write true [(o, 4)] (granules [(o, 4)]) = none)
include ho hh

/-- A tagged instruction that nothing holds, that awaits no tag or the tag as it stands, and before which none waits, performs. -/
theorem tagged_performs (hw : ∀ b, want = some b → TagIs s t o b ∧ (s.core s.cur).queued (tagWaiter t o b) = false) :
    tagged a i write want f s = .next (State.goesOn (f t o (atWord s t o write))) := by
  refine issue_ok hl ?_
  simp only [ho, hh]
  cases want with
  | none => rfl
  | some b =>
    obtain ⟨htag, hq⟩ := hw b rfl
    exact if_pos (by rw [Bool.and_eq_true, beq_iff_eq, Bool.not_eq_true']; exact ⟨(tagIs_iff ..).1 htag, hq⟩)

/-- A tagged instruction that awaits the other tag waits for the word (R138, R370). -/
theorem tagged_waits {b : Bool} (hb : want = some b) (htag : ¬ TagIs s t o b) :
    ∃ s' w, w.okind = 0x03 ∧ tagged a i write want f s = .next (State.registerWait s' t w) := by
  refine ⟨(s.reached t [(o, 4)] false).modCore s.cur fun c => c.enqueue (tagWaiter t o b),
    { okind := 0x03, obj := tagObj s.cur o, owner := s.tagOwner t o b }, rfl, issue_waits hl ?_⟩
  simp only [ho, hh, hb]
  refine if_neg fun h => htag ((tagIs_iff ..).2 ?_)
  rw [Bool.and_eq_true, beq_iff_eq] at h
  exact h.1

end

/-! ## What a tagged instruction does to its word -/

theorem goesOn_loft (s : State) (n : CoreId) : (s.goesOn.core n).loft = (s.core n).loft := endWait_proj (·.loft) _ n fun _ _ _ => rfl
theorem goesOn_tags (s : State) (n : CoreId) : (s.goesOn.core n).tags = (s.core n).tags := endWait_proj (·.tags) _ n fun _ _ _ => rfl

theorem setTag_live (s : State) (t : Task) (o : Nat) (v : Bool) : (s.setTag t o v).live = s.live :=
  modCore_live _ _ fun _ => ⟨rfl, rfl⟩

theorem setTag_loft (s : State) (t : Task) (o : Nat) (v : Bool) : ((s.setTag t o v).core s.cur).loft = (s.core s.cur).loft := by
  rw [State.setTag, modCore_core_self]

theorem setTag_tag (s : State) (t : Task) (o : Nat) (v : Bool) :
    ((s.setTag t o v).core s.cur).tags.get (((s.cctx t).base + o) / 4) = if v then 1 else 0 := by
  rw [State.setTag, modCore_core_self]
  simp [get_write]

theorem loftWrite_loft (s : State) (t : Task) (o : Nat) (bs : List Byte) :
    ((s.loftWrite t o bs).core s.cur).loft = (s.core s.cur).loft.write ((s.cctx t).base + o) bs := by
  rw [State.loftWrite, modCore_core_self]

theorem modLive_base (s : State) (f : Task → Task) (t : Task) : ((s.modLive f).cctx t).base = (s.cctx t).base := by
  have h : ((s.modLive f).core s.cur).cctx t.ctx = (s.core s.cur).cctx t.ctx := modLive_proj (·.cctx t.ctx) s f s.cur fun _ _ => rfl
  rw [State.cctx, modLive_cur, h]; rfl

/-- What a load of a tagged word leaves of state `r`: the word zero-extended in the destination, and a tag. -/
def WordTaken (r : State) (t : Task) (d : SReg) (o : Nat) (tag : Byte) (s' : State) : Prop :=
  ∃ t', s'.live = some t' ∧ s'.wentOn ∧
    t'.regs = (t.setS d (BitVec.ofNat 64 ((s'.core r.cur).loft.num ((r.cctx t).base + o) 4))).regs ∧
    (s'.core r.cur).tags.get (((r.cctx t).base + o) / 4) = tag

/-- What a store to a tagged word leaves of state `r`: the low half of the source in the word, every other byte, and a tag. -/
def WordPut (r : State) (t : Task) (d : SReg) (o : Nat) (tag : Byte) (s' : State) : Prop :=
  ∃ t', s'.live = some t' ∧ s'.wentOn ∧
    (t'.regs = t.regs ∧ (s'.core r.cur).loft.num ((r.cctx t).base + o) 4 = (t.getS d).toNat % 2 ^ 32 ∧
      ∀ z, z < (r.cctx t).base + o ∨ (r.cctx t).base + o + 4 ≤ z → (s'.core r.cur).loft.get z = (r.core r.cur).loft.get z) ∧
    (s'.core r.cur).tags.get (((r.cctx t).base + o) / 4) = tag

section
variable {r : State} {t : Task} (d : SReg) (o : Nat) (hr : r.live = some t)
include hr

theorem wordTaken_of {y : State} {tag : Byte} (hlive : y.live = (r.takeWord t d o).live)
    (hloft : (y.core r.cur).loft = ((r.takeWord t d o).core r.cur).loft) (htag : (y.core r.cur).tags.get (((r.cctx t).base + o) / 4) = tag) :
    WordTaken r t d o tag y.goesOn := by
  have htaken : (r.takeWord t d o).live = some (t.setS d (w64 (r.loftNum t o 4))) := (modLive_live ..).trans (by rw [hr]; rfl)
  have hkept : ((r.takeWord t d o).core r.cur).loft = (r.core r.cur).loft := modLive_proj (·.loft) _ _ _ fun _ _ => rfl
  refine ⟨_, (goesOn_live y).trans (congrArg _ (hlive.trans htaken)), trivial, ?_, ?_⟩
  · rw [goesOn_loft, hloft, hkept]; rfl
  · rw [goesOn_tags, htag]

/-- A load that keeps the tag of a full word. -/
theorem wordTaken_full (h : (r.core r.cur).tags.get (((r.cctx t).base + o) / 4) = 1) : WordTaken r t d o 1 (r.takeWord t d o).goesOn := by
  refine wordTaken_of d o hr rfl rfl ?_
  have htags : ((r.takeWord t d o).core r.cur).tags = (r.core r.cur).tags := modLive_proj (·.tags) _ _ _ fun _ _ => rfl
  rw [htags, h]

/-- A load that empties its word. -/
theorem wordTaken_emptied : WordTaken r t d o 0 ((r.takeWord t d o).setTag t o false).goesOn := by
  have hbase : ((r.takeWord t d o).cctx t).base = (r.cctx t).base := modLive_base ..
  refine wordTaken_of d o hr (setTag_live ..) (setTag_loft (r.takeWord t d o) t o false) ?_
  rw [← hbase]
  exact setTag_tag (r.takeWord t d o) t o false

/-- A store fills its word. -/
theorem wordPut_filled : WordPut r t d o 1 (r.putWord t d o).goesOn := by
  let q := r.loftWrite t o (leBytes 4 (t.getS d).toNat)
  have hq : q.live = some t := (modCore_live r _ (f := fun c => { c with loft := c.loft.write _ _ }) fun _ => ⟨rfl, rfl⟩).trans hr
  have hloft : ((q.setTag t o true).core r.cur).loft = (r.core r.cur).loft.setNum ((r.cctx t).base + o) 4 (t.getS d).toNat :=
    (setTag_loft q t o true).trans (loftWrite_loft ..)
  have hbase : (q.cctx t).base = (r.cctx t).base := congrArg _ (modCore_loft_cctx ..)
  refine ⟨_, (goesOn_live _).trans (congrArg _ ((setTag_live q t o true).trans hq)), trivial, ⟨rfl, ?_, fun z hz => ?_⟩, ?_⟩
  · rw [goesOn_loft, State.putWord, hloft, num_setNum]; rfl
  · rw [goesOn_loft, State.putWord, hloft]
    exact get_write_outside _ _ _ _ (by rwa [leBytes_length])
  · rw [goesOn_tags, ← hbase]
    exact setTag_tag q t o true
end

end Sys2Proof.Proofs
end

section
/-!
PROOFS. The tagged forms, and the forms that read and set tags (R157, R158).
-/
namespace Sys2Proof.Proofs
open Machine Laws

/-! ## Loads and stores of tagged words -/

section
variable {s : State} {t : Task} {i : Instr} {d a : SReg} {e : BitVec 17} {st : Bool} {want : Option Bool}

/-- The form that empties the word it loads. -/
def emptiesWord : Instr → Bool
  | .ldf .. => true
  | _ => false

/-- Each tagged form does one thing to its word once its conditions hold. -/
theorem exec_eq_tagged (h : taggedForm i = some (d, a, e, st, want)) : ∃ f, (∀ s, exec i s = tagged a e st want f s) ∧
    ∀ (r : State) (t : Task) (o : Nat), r.live = some t → (want = some true → (r.core r.cur).tags.get (((r.cctx t).base + o) / 4) = 1) →
      (if st then WordPut else WordTaken) r t d o (if emptiesWord i then 0 else 1) (f t o r).goesOn := by
  unfold taggedForm at h
  split at h <;> cases h
  case h_1 => exact ⟨_, fun _ => rfl, fun r t o hr _ => wordTaken_emptied d o hr⟩
  case h_2 => exact ⟨_, fun _ => rfl, fun r t o hr hf => wordTaken_full d o hr (hf rfl)⟩
  case h_3 | h_4 => exact ⟨_, fun _ => rfl, fun r t o hr _ => wordPut_filled d o hr⟩

/-- A word that is full stays full for the instruction that reads its tag. -/
theorem atWord_full {o : Nat} (h : TagIs s t o true) (write : Bool) :
    ((atWord s t o write).core s.cur).tags.get (((s.cctx t).base + o) / 4) = 1 :=
  reached_full (s := s.reached t [(o, 4)] false) (h.2 rfl) t [(o, 4)] write

end

/-! ## Tags read and set (R158) -/

theorem sum_bits_eq_foldl (f : Nat → Bool) (n : Nat) : ((List.range n).map fun j => bit (f j) * 2 ^ j).sum =
    (List.range n).foldl (fun v j => if f j then v + 2 ^ j else v) 0 := by
  induction n with
  | zero => rfl
  | succ n ih =>
    rw [List.range_succ, List.map_append, List.sum_append, ih, List.foldl_append]
    cases hn : f n <;> simp [bit, hn]

/-- The word made of 64 bits. -/
theorem getLsbD_sum_bits (f : Nat → Bool) {j : Nat} (hj : j < 64) :
    (w64 ((List.range 64).map fun j => bit (f j) * 2 ^ j).sum).getLsbD j = f j := by
  rw [w64, BitVec.getLsbD_ofNat, sum_bits_eq_foldl, (foldl_bits f 64).2]
  simp [hj]

section
variable {s : State} {t : Task} {d a : SReg} {e : BitVec 17} {o : Nat} {full : Bool} (hl : s.live = some t)
include hl

theorem tagrd_refused (h : loftAddr (s.cctx t).psize (t.getS a + immI e) 256 256 = none) :
    exec (.tagrd d a e) s = .next (s.traps t 0x09 0 (t.getS a + immI e)) :=
  (issue_live hl _).trans (by simp only [h]; rfl)

theorem tagrd_delivers (ho : loftAddr (s.cctx t).psize (t.getS a + immI e) 256 256 = some o) : ∃ w : W64,
    (∀ j < 64, w.getLsbD j = ((s.core s.cur).tags.get (((s.cctx t).base + o + 4 * j) / 4) == 1)) ∧
    exec (.tagrd d a e) s = .next (s.thenTask (t.setS d w)) := by
  refine ⟨w64 ((List.range 64).map fun j => bit (s.tag t (o + 4 * j)) * 2 ^ j).sum, fun j hj => ?_, issue_ok hl ?_⟩
  · rw [getLsbD_sum_bits _ hj, State.tag, Nat.add_assoc]
  · simp only [ho]

/-- The two forms that set tags. -/
def tagwForm (full : Bool) (d a : SReg) : Instr := if full then .tagwF d a else .tagwE d a

omit hl in
theorem exec_tagwForm (full : Bool) (d a : SReg) (s : State) : exec (tagwForm full d a) s = tagWrite full d a s := by
  cases full <;> rfl

theorem tagw_refused (h : (t.getS a).toNat % 4 ≠ 0 ∨ (s.cctx t).psize < (t.getS a).toNat + 4 * ((t.getS d).toNat % 2 ^ 32)) :
    exec (tagwForm full d a) s = .next (s.traps t 0x09 0 (t.getS a)) := by
  rw [exec_tagwForm, tagWrite, issue_live hl]
  simp only [fld_zero, if_pos h]
  rfl

theorem tagw_performs (ha : (t.getS a).toNat % 4 = 0) (hp : (t.getS a).toNat + 4 * ((t.getS d).toNat % 2 ^ 32) ≤ (s.cctx t).psize)
    {spans : List (Nat × Nat)} (hs : spans = [((t.getS a).toNat, 4 * ((t.getS d).toNat % 2 ^ 32))])
    (hh : s.holdFirst t (s.cctx t) false true spans (granules spans) = none) :
    let r := s.reached t spans false
    exec (tagwForm full d a) s = .next (State.goesOn (r.modCore s.cur fun c => { c with
      tags := (r.core s.cur).tags.write (((s.cctx t).base + (t.getS a).toNat) / 4)
        (List.replicate ((t.getS d).toNat % 2 ^ 32) (if full then 1 else 0)) })) := by
  subst hs
  rw [exec_tagwForm]
  refine issue_ok hl ?_
  simp only [fld_zero]
  rw [if_neg (by omega), access_performs hh]
  rfl

end

/-- A byte after a run of equal bytes is stored. -/
theorem get_write_replicate (m : Mem) (a n : Nat) (b : Byte) (z : Nat) :
    (m.write a (List.replicate n b)).get z = if a ≤ z ∧ z < a + n then b else m.get z := by
  rw [get_write, List.length_replicate]
  refine if_ctx_congr Iff.rfl (fun h => ?_) fun _ => rfl
  rw [List.getD_eq_getElem?_getD, List.getElem?_replicate, if_pos (by omega), Option.getD_some]

theorem taggedForms_hold : taggedForms := by
  intro s t hl k
  refine ⟨?_, fun d a e => ⟨fun h => tagrd_refused hl (loftAddr_none h), fun ha hp => tagrd_delivers hl (loftAddr_some ha hp)⟩,
    fun full d a => ⟨tagw_refused hl, fun ha hp hh => ⟨_, get_write_replicate _ _ _ _, tagw_performs hl ha hp rfl hh⟩⟩⟩
  intro i d a e st want hi v o c word
  obtain ⟨f, hx, hf⟩ := exec_eq_tagged hi
  refine ⟨fun h => (hx s).trans (tagged_refused hl (loftAddr_none h)), fun ha hp hh hw => ?_, fun ha hp hh ⟨b, hb, htag⟩ => ?_⟩
  · have hlive : (atWord s t o st).live = some t := (atWord_live ..).trans hl
    have hfull : want = some true → ((atWord s t o st).core s.cur).tags.get ((((atWord s t o st).cctx t).base + o) / 4) = 1 := fun hb => by
      rw [atWord_base]
      exact atWord_full (hw true hb).1 st
    have h := hf (atWord s t o st) t o hlive hfull
    refine ⟨_, (hx s).trans (tagged_performs hl (loftAddr_some ha hp) hh hw), ?_⟩
    cases st with
    | true =>
      simp only [if_true, WordPut, atWord_base, atWord_cur] at h
      exact h
    | false =>
      simp only [Bool.false_eq_true, if_false, WordTaken, atWord_base, atWord_cur] at h
      exact h
  · obtain ⟨s', w, hk, hxw⟩ := tagged_waits (f := f) hl (loftAddr_some ha hp) hh hb htag
    exact ⟨s', w, hk, (hx s).trans hxw⟩

end Sys2Proof.Proofs
end

section
/-!
PROOFS. Claims on the slots of a ring and their release (R141, R142, R159). Settles O30.
-/
namespace Sys2Proof.Proofs
open Machine Laws

/-! ## Rings -/

/-- A claim of a direction without a slot to take fails. -/
theorem claim_none {r : Ring} {w : Bool} (h : (if w then r.free else r.filled) = 0) (o : SbOwner) : r.claim w o = none := by
  cases w
  · exact if_neg (Nat.not_lt.2 h.le)
  · exact if_neg (Nat.not_lt.2 h.le)

/-- A claim takes the next slot of its direction. -/
theorem claim_some {r : Ring} {w : Bool} (h : 0 < if w then r.free else r.filled) (o : SbOwner) :
    ∃ r', r.claim w o = some (if w then r.wrnxt else r.rdnxt, r') ∧
      r'.free = (if w then r.free - 1 else r.free) ∧ r'.filled = (if w then r.filled else r.filled - 1) ∧
      (if w then r'.wrnxt else r'.rdnxt) = ((if w then r.wrnxt else r.rdnxt) + 1) % Max.max r.nslot 1 := by
  cases w
  · exact ⟨_, if_pos h, rfl, rfl, rfl⟩
  · exact ⟨_, if_pos h, rfl, rfl, rfl⟩

/-- The offset of a slot, by the fields of the ring's descriptor (R140). -/
theorem slotAt_eq (r : Ring) (j : Nat) : r.slotAt j = (r.desc.toNat % 65536 + j * (r.desc.toNat / 2 ^ 32 % 65536)) * 64 := by
  rw [Ring.slotAt, fld_zero]; rfl

/-- What a core holds for a context after one of its rings is changed. -/
theorem modRing_cctx {c : Core} {x : BitVec 16} {k : CoreCtx} (hk : c.cctx x = some k) (n : Fin 16) (f : Ring → Ring) :
    ∃ k', (c.modRing x n f).cctx x = some k' ∧ k'.rings[n] = f k.rings[n] := by
  have h := cctx_modCtx c x (f := fun k => { k with rings := k.rings.set n (f k.rings[n]) }) fun _ => rfl
  exact ⟨_, h.trans (congrArg _ hk), by simp⟩

/-- Changing a ring leaves the banks. -/
theorem modRing_live (s : State) (x : BitVec 16) (n : Fin 16) (f : Ring → Ring) : (s.modCore s.cur fun c => c.modRing x n f).live = s.live :=
  modCore_live _ _ fun _ => ⟨rfl, rfl⟩

theorem goesOn_cctx (s : State) (n : CoreId) (x : BitVec 16) : (s.goesOn.core n).cctx x = (s.core n).cctx x :=
  endWait_proj (·.cctx x) _ n fun _ _ _ => rfl

/-! ## Claims and releases (R142, R159) -/

/-- The place of a claim among those that wait for the same direction of the ring. -/
def ringWaiter (t : Task) (n : Fin 16) (w : Bool) : Waiter :=
  { ctx := t.ctx, ring := true, obj := n.val, dir := w, owner := .task t.tid, inner := t.inHandler }

/-- The task with a claim on a slot, and the slot's offset delivered. -/
def claimed (t : Task) (d : SReg) (n : Fin 16) (w : Bool) (r : Ring) (slot : Nat) : Task :=
  { t.setS d (w64 (r.slotAt slot)) with claims := t.claims ++ [(n, w, slot)] }

theorem claimed_regs (t : Task) (d : SReg) (n : Fin 16) (w : Bool) (r : Ring) (slot : Nat) :
    (claimed t d n w r slot).regs = (t.setS d (w64 (r.slotAt slot))).regs := rfl

/-- The forms that claim, and those that release. -/
def racqForm (w : Bool) (d : SReg) (n : Fin 16) : Instr := if w then .racqW d n else .racqR d n
def rrelForm (w : Bool) (n : Fin 16) : Instr := if w then .rrelW n else .rrelR n

theorem exec_racqForm (w : Bool) (d : SReg) (n : Fin 16) (s : State) : exec (racqForm w d n) s = ringClaim w d n s := by cases w <;> rfl
theorem exec_rrelForm (w : Bool) (n : Fin 16) (s : State) : exec (rrelForm w n) s = ringRelease w n s := by cases w <;> rfl

section
variable {s : State} {t : Task} {k : CoreCtx} {d : SReg} {n : Fin 16} {w : Bool} (hl : s.live = some t)
  (hk : (s.core s.cur).cctx t.ctx = some k)
include hl hk

theorem racq_refused (hv : k.rings[n].valid = false) : exec (racqForm w d n) s = .next (s.traps t 0x09 0 (BitVec.ofNat 64 n.val)) := by
  rw [exec_racqForm, ringClaim, issue_live hl]
  simp only [cctx_of_resident hk, hv]
  rfl

theorem racq_claims (hv : k.rings[n].valid = true) (hq : (s.core s.cur).queued (ringWaiter t n w) = false) {slot : Nat} {r' : Ring}
    (hc : k.rings[n].claim w (.task t.tid) = some (slot, r')) : exec (racqForm w d n) s =
      .next ((s.modCore s.cur fun c => c.modRing t.ctx n fun _ => r').thenTask (claimed t d n w k.rings[n] slot)) := by
  rw [exec_racqForm, ← goesOn_modLive ((modRing_live ..).trans hl) fun t' => claimed t' d n w k.rings[n] slot]
  refine issue_ok hl ?_
  rw [ringWaiter] at hq
  simp only [cctx_of_resident hk, hv, hq, hc]
  rfl

theorem racq_waits (hv : k.rings[n].valid = true)
    (hc : (s.core s.cur).queued (ringWaiter t n w) = true ∨ k.rings[n].claim w (.task t.tid) = none) :
    ∃ s' wt, wt.okind = 0x05 ∧ exec (racqForm w d n) s = .next (State.registerWait s' t wt) := by
  refine ⟨s.modCore s.cur fun c => c.enqueue (ringWaiter t n w),
    { okind := 0x05, obj := ringObj s.cur n, owner := s.ringOwner s.cur k.rings[n] w t.tid }, rfl, ?_⟩
  have hn : (if (s.core s.cur).queued (ringWaiter t n w) then none else k.rings[n].claim w (.task t.tid)) = none := by
    split
    · rfl
    next h => exact hc.resolve_left h
  rw [exec_racqForm]
  refine issue_waits hl ?_
  rw [ringWaiter] at hn
  simp only [cctx_of_resident hk, hv, hn]
  rfl

/-- A release on an invalid ring, or without a claim of the direction. -/
theorem rrel_refused (h : k.rings[n].valid = true → t.claims.find? (fun c => c.1 == n && c.2.1 == w) = none) :
    exec (rrelForm w n) s = .next (s.traps t 0x09 0 (BitVec.ofNat 64 n.val)) := by
  have hn : (if k.rings[n].valid then t.claims.find? (fun c => c.1 == n && c.2.1 == w) else none) = none := by
    split
    next hv => exact h hv
    · rfl
  rw [exec_rrelForm, ringRelease, issue_live hl]
  simp only [cctx_of_resident hk, hn]
  rfl

theorem rrel_releases (hv : k.rings[n].valid = true) {c : Fin 16 × Bool × Nat}
    (hc : t.claims.find? (fun c => c.1 == n && c.2.1 == w) = some c) : exec (rrelForm w n) s =
      .next (State.goesOn ((s.setLive { t with claims := t.claims.erase c }).modCore s.cur fun q =>
        q.modRing t.ctx n fun r => r.releaseSlot w c.2.2)) := by
  rw [exec_rrelForm]
  refine issue_ok hl ?_
  simp only [cctx_of_resident hk, hv, if_true, hc]

end

theorem ringForms_hold : ringForms := by
  intro s t k d n w hl hk r acq rel slot queued
  refine ⟨fun hv => ⟨racq_refused hl hk hv, rrel_refused hl hk fun h => absurd (hv.symm.trans h) Bool.false_ne_true⟩, fun hv hq hn => ?_,
    fun hv h => racq_waits hl hk hv (h.imp_right fun h => claim_none h _), fun hv hc => rrel_refused hl hk fun _ => hc, fun c hv hc => ?_⟩
  · obtain ⟨r', hclaim, hfree, hfilled, hnext⟩ := claim_some hn (.task t.tid)
    obtain ⟨k', hk', hr'⟩ := modRing_cctx hk n fun _ => r'
    refine ⟨_, racq_claims hl hk hv hq hclaim, _, k', thenTask_live .., trivial, ?_, ?_, rfl, ?_⟩
    · rw [thenTask_core_proj (·.cctx t.ctx) _ _ _ fun _ _ _ => rfl, modCore_core_self, hk']
    · rw [← slotAt_eq]; rfl
    · rw [hr']
      exact ⟨hfree, hfilled, hnext⟩
  · have hcore : ((s.setLive { t with claims := t.claims.erase c }).core s.cur).cctx t.ctx = some k :=
      (setLive_proj (·.cctx t.ctx) _ _ _ fun _ _ => rfl).trans hk
    obtain ⟨k', hk', hr'⟩ := modRing_cctx hcore n fun r => r.releaseSlot w c.2.2
    refine ⟨_, rrel_releases hl hk hv hc, _, k', (goesOn_live _).trans (congrArg _ ((modRing_live (s.setLive _) ..).trans (setLive_live ..))),
      trivial, ?_, rfl, rfl, hr'⟩
    rw [goesOn_cctx, modCore_core_self, hk']

/-- Settles O30: a tagged form does one thing to its word once its conditions hold, and a claim or a release one thing to its ring. -/
theorem taggedWordsAndRings : Obligations.TaggedWordsAndRings := ⟨taggedForms_hold, ringForms_hold⟩

end Sys2Proof.Proofs
end

section
/-!
PROOFS. The scalar and the mask forms: the model's operations as R164 to R168 and R176 say their values. Settles O6, O7, O8 and O9.
-/
namespace Sys2Proof.Proofs
open Machine

/-! ## Integer operations on words (R163 to R165) -/

/-- The integers that two words hold compare as the words do. -/
theorem readInt_lt_readInt (u : Bool) (a b : W64) :
    readInt u a < readInt u b ↔ (if u then a.ult b else a.slt b) = true := by
  cases u <;> simp [readInt, BitVec.ult, BitVec.slt]

theorem w64b_readInt_lt (u : Bool) (a b : W64) :
    w64b (readInt u a < readInt u b) = if (if u then a.ult b else a.slt b) then 1 else 0 :=
  if_congr (by rw [decide_eq_true_iff, readInt_lt_readInt]) rfl rfl

/-- The lesser of two. -/
theorem min_readInt (u : Bool) (a b : W64) :
    (if readInt u a ≤ readInt u b then a else b) = if (if u then b.ult a else b.slt a) then b else a := by
  rw [← ite_not]
  exact if_congr (not_le.trans (readInt_lt_readInt ..)) rfl rfl

theorem readInt_injective (u : Bool) {a b : W64} (h : readInt u a = readInt u b) : a = b := by
  cases u
  · exact BitVec.eq_of_toInt_eq h
  · exact BitVec.eq_of_toNat_eq (Int.ofNat_inj.1 h)

/-- The greater of two, which of equals is either. -/
theorem max_readInt (u : Bool) (a b : W64) :
    (if readInt u a ≤ readInt u b then b else a) = if (if u then a.ult b else a.slt b) then b else a := by
  rcases lt_trichotomy (readInt u a) (readInt u b) with h | h | h
  · rw [if_pos h.le, if_pos ((readInt_lt_readInt ..).1 h)]
  · rw [readInt_injective u h, ite_self, ite_self]
  · rw [if_neg h.not_ge, if_neg (mt (readInt_lt_readInt ..).2 h.le.not_gt)]

/-- The high half of the product (R164). -/
theorem mulhOp_eq (u : Bool) (a b : W64) :
    mulhOp u a b = if u then BitVec.ofNat 64 (a.toNat * b.toNat / 2 ^ 64) else BitVec.ofInt 64 (a.toInt * b.toInt / 2 ^ 64) := by
  cases u
  · rfl
  · exact BitVec.ofInt_natCast 64 (a.toNat * b.toNat / 2 ^ 64)

/-- The quotient of R165; that of the most negative number by -1 wraps. -/
theorem divOp_eq (u : Bool) (a b : W64) :
    divOp u a b = if b = 0 then BitVec.allOnes 64 else if u then a / b else a.sdiv b := by
  refine if_congr Iff.rfl rfl ?_
  cases u
  · refine BitVec.eq_of_toInt_eq ?_
    rw [w64i, BitVec.toInt_ofInt, if_neg Bool.false_ne_true, BitVec.toInt_sdiv]
    rfl
  · refine BitVec.eq_of_toNat_eq ?_
    have h : (readInt true a).tdiv (readInt true b) = ((a.toNat / b.toNat : Nat) : Int) := (Int.ofNat_tdiv ..).symm
    rw [w64i, h, BitVec.ofInt_natCast, BitVec.toNat_ofNat, if_pos rfl, BitVec.toNat_udiv]
    exact Nat.mod_eq_of_lt ((Nat.div_le_self ..).trans_lt a.isLt)

/-- The remainder of R165. -/
theorem remOp_eq (u : Bool) (a b : W64) : remOp u a b = if b = 0 then a else if u then a % b else a.srem b := by
  refine if_congr Iff.rfl rfl ?_
  cases u
  · refine (congrArg (BitVec.ofInt 64) (BitVec.toInt_srem a b).symm).trans ?_
    rw [BitVec.ofInt_toInt]
    rfl
  · refine BitVec.eq_of_toNat_eq ?_
    have h : (readInt true a).tmod (readInt true b) = ((a.toNat % b.toNat : Nat) : Int) := (Int.ofNat_tmod ..).symm
    rw [w64i, h, BitVec.ofInt_natCast, BitVec.toNat_ofNat, if_pos rfl, BitVec.toNat_umod]
    exact Nat.mod_eq_of_lt ((Nat.mod_le ..).trans_lt a.isLt)

/-- A shift by 64 or more leaves nothing, as the amount is not reduced (R165). -/
theorem sllOp_eq (a b : W64) : sllOp a b = a <<< b.toNat := by
  unfold sllOp
  split
  next h => exact (BitVec.shiftLeft_eq_zero h).symm
  · rfl

theorem srlOp_eq (a b : W64) : srlOp a b = a >>> b.toNat := by
  unfold srlOp
  split
  next h => exact (BitVec.ushiftRight_eq_zero h).symm
  · rfl

/-- An arithmetic shift by 64 or more leaves the sign, as one by 63 does (R165). -/
theorem sraOp_eq (a b : W64) : sraOp a b = a.sshiftRight b.toNat := by
  unfold sraOp
  split
  next h =>
    refine BitVec.eq_of_getLsbD_eq fun j _ => ?_
    rw [BitVec.getLsbD_sshiftRight, BitVec.getLsbD_sshiftRight, if_neg (show ¬ b.toNat + j < 64 by omega)]
    split
    next hj =>
      obtain rfl : j = 0 := by omega
      simp [BitVec.msb_eq_getLsbD_last]
    · rfl
  · rfl

/-- An unsigned sum, saturated (R21). -/
theorem ofInt_clamp_add (a b : W64) : BitVec.ofInt 64 (Max.max 0 (Min.min (2 ^ 64 - 1) ((a.toNat : Int) + b.toNat))) =
    if 2 ^ 64 ≤ a.toNat + b.toNat then BitVec.allOnes 64 else a + b := by
  split
  next h =>
    have hmax : Max.max 0 (Min.min (2 ^ 64 - 1) ((a.toNat : Int) + b.toNat)) = 2 ^ 64 - 1 := by omega
    rw [hmax]; rfl
  next h =>
    have hsum : Max.max 0 (Min.min (2 ^ 64 - 1) ((a.toNat : Int) + b.toNat)) = ((a.toNat + b.toNat : Nat) : Int) := by omega
    rw [hsum, BitVec.ofInt_natCast, BitVec.ofNat_add, BitVec.ofNat_toNat, BitVec.ofNat_toNat, BitVec.setWidth_eq, BitVec.setWidth_eq]

/-- An unsigned difference, saturated (R21). -/
theorem ofInt_clamp_sub (a b : W64) : BitVec.ofInt 64 (Max.max 0 (Min.min (2 ^ 64 - 1) ((a.toNat : Int) - b.toNat))) =
    if a.ult b then 0 else a - b := by
  simp only [BitVec.ult_eq_decide, decide_eq_true_eq]
  split
  next h =>
    have hmin : Max.max 0 (Min.min (2 ^ 64 - 1) ((a.toNat : Int) - b.toNat)) = 0 := by omega
    rw [hmin]; rfl
  next h =>
    have hdiff : Max.max 0 (Min.min (2 ^ 64 - 1) ((a.toNat : Int) - b.toNat)) = ((a.toNat - b.toNat : Nat) : Int) := by omega
    refine BitVec.eq_of_toNat_eq ?_
    rw [hdiff, BitVec.ofInt_natCast, BitVec.toNat_sub_of_le (BitVec.le_def.2 (Nat.le_of_not_lt h)), BitVec.toNat_ofNat]
    omega

/-- Saturation of a sum (R21, R164). -/
theorem sat64_add (u : Bool) (a b : W64) : sat64 u (readInt u a + readInt u b) =
    if u then (if 2 ^ 64 ≤ a.toNat + b.toNat then BitVec.allOnes 64 else a + b)
    else BitVec.ofInt 64 (Max.max (-2 ^ 63) (Min.min (2 ^ 63 - 1) (a.toInt + b.toInt))) := by
  cases u
  · rfl
  · exact ofInt_clamp_add a b

/-- Saturation of a difference (R21, R164). -/
theorem sat64_sub (u : Bool) (a b : W64) : sat64 u (readInt u a - readInt u b) =
    if u then (if a.ult b then 0 else a - b)
    else BitVec.ofInt 64 (Max.max (-2 ^ 63) (Min.min (2 ^ 63 - 1) (a.toInt - b.toInt))) := by
  cases u
  · rfl
  · exact ofInt_clamp_sub a b

/-- The field of `bfx` (R168). -/
theorem w64_fld (a : W64) (lo n : Nat) : w64 (a.fld lo n) = BitVec.ofNat 64 ((a >>> lo).toNat % 2 ^ n) := by
  rw [BitVec.toNat_ushiftRight, Nat.shiftRight_eq_div_pow]
  rfl

/-! ## Scalar forms -/

section
variable {i : Instr} {s : State} {t : Task} {d a b : SReg} {v : W64}

/-- A form that writes one scalar register. -/
theorem exec_of_setS (f : Task → W64) (hs : s.live = some t) (hx : exec i s = onTask s fun t => t.setS d (f t)) (hv : f t = v) :
    exec i s = .next (s.thenTask (t.setS d v)) := by
  rw [exec_of_onTask hs hx, hv]

/-- A form of two sources. -/
theorem exec_of_scalar2 (f : W64 → W64 → W64) (hs : s.live = some t) (hx : exec i s = scalar2 f d a b s)
    (hv : f (t.getS a) (t.getS b) = v) : exec i s = .next (s.thenTask (t.setS d v)) :=
  exec_of_setS _ hs hx hv

/-- A form of one source. -/
theorem exec_of_scalar1 (f : W64 → W64) (hs : s.live = some t) (hx : exec i s = scalar1 f d a s) (hv : f (t.getS a) = v) :
    exec i s = .next (s.thenTask (t.setS d v)) :=
  exec_of_setS _ hs hx hv

/-- A scalar form writes the value that its rule gives: the cases are those of `scalarValue`, in its order. -/
theorem exec_scalarValue (hs : s.live = some t) (h : scalarValue t i = some (d, v)) : exec i s = .next (s.thenTask (t.setS d v)) := by
  unfold scalarValue at h
  split at h <;> cases h
  case h_1 => exact exec_of_scalar2 (· + ·) hs rfl rfl
  case h_2 => exact exec_of_scalar2 (· - ·) hs rfl rfl
  case h_3 => exact exec_of_scalar2 (· * ·) hs rfl rfl
  case h_4 => exact exec_of_scalar2 (mulhOp _) hs rfl (mulhOp_eq ..)
  case h_5 => exact exec_of_scalar2 (divOp _) hs rfl (divOp_eq ..)
  case h_6 => exact exec_of_scalar2 (remOp _) hs rfl (remOp_eq ..)
  case h_7 => exact exec_of_scalar2 (· &&& ·) hs rfl rfl
  case h_8 => exact exec_of_scalar2 (· ||| ·) hs rfl rfl
  case h_9 => exact exec_of_scalar2 (· ^^^ ·) hs rfl rfl
  case h_10 => exact exec_of_scalar2 (fun x y => x &&& ~~~y) hs rfl rfl
  case h_11 => exact exec_of_scalar2 sllOp hs rfl (sllOp_eq ..)
  case h_12 => exact exec_of_scalar2 srlOp hs rfl (srlOp_eq ..)
  case h_13 => exact exec_of_scalar2 sraOp hs rfl (sraOp_eq ..)
  case h_14 u => exact exec_of_scalar2 (fun x y => w64b (readInt u x < readInt u y)) hs rfl (w64b_readInt_lt ..)
  case h_15 u => exact exec_of_scalar2 (fun x y => if readInt u x ≤ readInt u y then x else y) hs rfl (min_readInt ..)
  case h_16 u => exact exec_of_scalar2 (fun x y => if readInt u x ≤ readInt u y then y else x) hs rfl (max_readInt ..)
  case h_17 u => exact exec_of_scalar2 (fun x y => sat64 u (readInt u x + readInt u y)) hs rfl (sat64_add ..)
  case h_18 u => exact exec_of_scalar2 (fun x y => sat64 u (readInt u x - readInt u y)) hs rfl (sat64_sub ..)
  case h_19 k => exact exec_of_scalar2 (fun x y => (x <<< k.val) + y) hs rfl rfl
  case h_20 im => exact exec_of_scalar1 (· + immI im) hs rfl rfl
  case h_21 im => exact exec_of_scalar1 (· &&& immI im) hs rfl rfl
  case h_22 im => exact exec_of_scalar1 (· ||| immI im) hs rfl rfl
  case h_23 im => exact exec_of_scalar1 (· ^^^ immI im) hs rfl rfl
  case h_24 im => exact exec_of_scalar1 (fun x => w64b (x.toInt < (immI im).toInt)) hs rfl rfl
  case h_25 im => exact exec_of_scalar1 (fun x => w64b (x.toNat < (immI im).toNat)) hs rfl rfl
  case h_26 im => exact exec_of_scalar1 (· * immI im) hs rfl rfl
  case h_27 im => exact exec_of_scalar1 (fun x => w64b (x == immI im)) hs rfl (if_congr beq_iff_eq rfl rfl)
  case h_28 im => exact exec_of_setS (fun _ => immU im * 4096) hs rfl rfl
  case h_29 im => exact exec_of_setS (fun t => t.here + immU im * 16) hs rfl rfl
  case h_30 n => exact exec_of_scalar1 (· <<< n.val) hs rfl rfl
  case h_31 n => exact exec_of_scalar1 (· >>> n.val) hs rfl rfl
  case h_32 n => exact exec_of_scalar1 (·.sshiftRight n.val) hs rfl rfl
  case h_33 l n => exact exec_of_scalar1 (fun x => w64 (x.fld n.val (l.val + 1))) hs rfl (w64_fld ..)

end

/-- Settles O6. -/
theorem scalarFormsWriteTheirResult : Obligations.ScalarFormsWriteTheirResult := fun _ _ _ _ _ hs h => exec_scalarValue hs h

/-! ## Mask forms -/

section
variable {i : Instr} {s : State} {t : Task} {d a b : KReg}

/-- A form of two masks. -/
theorem exec_of_mask2 (f : BitVec 16384 → BitVec 16384 → BitVec 16384) {g : Nat → Bool} (hs : s.live = some t) (hx : exec i s = mask2 f d a b s)
    (hg : ∀ j < 16384, (f (t.getK a) (t.getK b)).getLsbD j = g j) :
    ∃ m : BitVec 16384, (∀ j < 16384, m.getLsbD j = g j) ∧ exec i s = .next (s.thenTask (t.setK d m)) :=
  ⟨f (t.getK a) (t.getK b), hg, (exec_of_onTask hs hx :)⟩

/-- The mask whose lowest bits are set, as `kset` computes it. -/
def lowBits (v : W64) : BitVec 16384 := BitVec.ofNat 16384 (2 ^ Min.min v.toNat 16384 - 1)

theorem getLsbD_lowBits (v : W64) {j : Nat} (hj : j < 16384) : (lowBits v).getLsbD j = decide (j < v.toNat) := by
  rw [lowBits, BitVec.getLsbD_ofNat, Nat.testBit_two_pow_sub_one]
  simp [hj]

end

/-- Settles O7: by the bits of each form's operation on whole masks. -/
theorem maskFormsWriteEveryBit : Obligations.MaskFormsWriteEveryBit := by
  intro s t i d f hs h
  unfold maskResult at h
  split at h <;> cases h
  case h_1 => exact exec_of_mask2 (· &&& ·) hs rfl fun _ _ => BitVec.getLsbD_and
  case h_2 => exact exec_of_mask2 (· ||| ·) hs rfl fun _ _ => BitVec.getLsbD_or
  case h_3 => exact exec_of_mask2 (· ^^^ ·) hs rfl fun _ _ => BitVec.getLsbD_xor
  case h_4 => exact exec_of_mask2 (fun x y => x &&& ~~~y) hs rfl fun j hj => by simp [hj]
  case h_5 a => exact ⟨lowBits (t.getS a), fun _ hj => getLsbD_lowBits _ hj, exec_of_onTask (f := fun t => t.setK d (lowBits (t.getS a))) hs rfl⟩

@[simp] theorem setS_zero (t : Task) (v : W64) : t.setS 0 v = t := if_pos rfl
@[simp] theorem setK_zero (t : Task) (m : BitVec 16384) : t.setK 0 m = t := if_pos rfl
@[simp] theorem getK_zero (t : Task) : t.getK 0 = BitVec.allOnes 16384 := if_pos rfl

/-- Settles O9: s0 and k0 read their constants, and a write to either is discarded. -/
theorem constantRegistersDiscardWrites : Obligations.ConstantRegistersDiscardWrites := by
  intro s t i hs
  refine ⟨Laws.getS_zero t, getK_zero t, fun v h => ?_, fun f h => ?_⟩
  · rw [exec_scalarValue hs h, setS_zero]
  · obtain ⟨m, -, hx⟩ := maskFormsWriteEveryBit s t i 0 f hs h
    rw [hx, setK_zero]

/-! ## Counts -/

/-- A search upward among `n` positions from `j` stops at the first that has the property, or past the last. -/
theorem search_upward {p : Nat → Bool} {g : Nat → Nat → Nat} (hzero : ∀ j, g 0 j = j)
    (hsucc : ∀ n j, g (n + 1) j = if p j then j else g n (j + 1)) : ∀ n j,
    j ≤ g n j ∧ g n j ≤ j + n ∧ (∀ k, j ≤ k → k < g n j → p k = false) ∧ (g n j < j + n → p (g n j) = true)
  | 0, j => by rw [hzero]; exact ⟨le_rfl, le_rfl, fun k h1 h2 => absurd h2 (by omega), fun h => absurd h (lt_irrefl _)⟩
  | n + 1, j => by
    rw [hsucc]
    split
    next hp => exact ⟨le_rfl, by omega, fun k h1 h2 => absurd h2 (by omega), fun _ => hp⟩
    next hp =>
      obtain ⟨hge, hle, hbelow, hat⟩ := search_upward hzero hsucc n (j + 1)
      refine ⟨by omega, by omega, fun k h1 h2 => ?_, fun h => hat (by omega)⟩
      rcases Nat.eq_or_lt_of_le h1 with rfl | h1
      · exact Bool.eq_false_iff.2 hp
      · exact hbelow k h1 h2

/-- `ctz` finds the lowest set bit (R164). -/
theorem ctzFrom_spec (a : W64) : ctzFrom a 64 0 ≤ 64 ∧ (∀ j < ctzFrom a 64 0, a.getLsbD j = false) ∧
    (ctzFrom a 64 0 < 64 → a.getLsbD (ctzFrom a 64 0) = true) := by
  obtain ⟨-, hle, hbelow, hat⟩ := search_upward (p := a.getLsbD) (g := ctzFrom a) (fun _ => rfl) (fun _ _ => rfl) 64 0
  exact ⟨hle, fun j => hbelow j (Nat.zero_le j), hat⟩

/-- `kfind` finds the lowest set bit below a bound (R176). -/
theorem maskFind_spec (m : BitVec 16384) (n : Nat) : maskFind m n 0 ≤ n ∧ (∀ j < maskFind m n 0, m.getLsbD j = false) ∧
    (maskFind m n 0 < n → m.getLsbD (maskFind m n 0) = true) := by
  obtain ⟨-, hle, hbelow, hat⟩ := search_upward (p := m.getLsbD) (g := maskFind m) (fun _ => rfl) (fun _ _ => rfl) n 0
  rw [Nat.zero_add] at hle hat
  exact ⟨hle, fun j => hbelow j (Nat.zero_le j), hat⟩

/-- The number of zeros above the highest set bit. -/
def leadingZeros (a : W64) : Nat := if a = 0 then 64 else 63 - Nat.log2 a.toNat

theorem clzOp_eq (a : W64) : clzOp a = BitVec.ofNat 64 (leadingZeros a) := by
  unfold clzOp leadingZeros
  split <;> rfl

/-- The highest set bit is the logarithm of the number (R164). -/
theorem leadingZeros_spec (a : W64) : leadingZeros a ≤ 64 ∧ (∀ j < leadingZeros a, a.getMsbD j = false) ∧
    (leadingZeros a < 64 → a.getMsbD (leadingZeros a) = true) := by
  unfold leadingZeros
  split
  next h => subst h; simp
  next h =>
    have hne : a.toNat ≠ 0 := fun e => h (BitVec.eq_of_toNat_eq e)
    have hlog : Nat.log2 a.toNat < 64 := (Nat.log2_lt hne).2 a.isLt
    refine ⟨by omega, fun j hj => ?_, fun _ => ?_⟩
    · rw [BitVec.getMsbD, BitVec.getLsbD]
      have hlt : a.toNat < 2 ^ (64 - 1 - j) := Nat.lt_log2_self.trans_le (Nat.pow_le_pow_right (by omega) (by omega))
      rw [Nat.testBit_lt_two_pow hlt, Bool.and_false]
    · have hpos : 64 - 1 - (63 - Nat.log2 a.toNat) = Nat.log2 a.toNat := by omega
      rw [BitVec.getMsbD, BitVec.getLsbD, hpos, Nat.testBit_log2 hne]
      simp; omega

theorem bitCounts_hold : bitCounts := by
  intro s t d a hs
  obtain ⟨hclz, hz⟩ := leadingZeros_spec (t.getS a)
  obtain ⟨hctz, hl⟩ := ctzFrom_spec (t.getS a)
  exact ⟨⟨_, hclz, exec_of_scalar1 clzOp hs rfl (clzOp_eq _), hz⟩, ⟨_, hctz, exec_of_scalar1 ctzOp hs rfl rfl, hl⟩,
    exec_of_scalar1 popcOp hs rfl (congrArg w64 List.countP_eq_length_filter.symm)⟩

theorem maskCounts_hold : maskCounts := by
  intro s t d a hs
  obtain ⟨hle, hfind⟩ := maskFind_spec (t.getK a) t.ctl.vl.toNat
  exact ⟨exec_of_setS (fun t => w64 (maskCount (t.getK a) t.ctl.vl.toNat)) hs rfl (congrArg w64 List.countP_eq_length_filter.symm),
    _, hle, exec_of_setS (fun t => w64 (maskFind (t.getK a) t.ctl.vl.toNat 0)) hs rfl rfl, hfind⟩

/-- Settles O8: `ctz` and `kfind` are one search upward, `clz` is a logarithm, and `popc` and `kcnt` count. -/
theorem bitAndMaskCounts : Obligations.BitAndMaskCounts := ⟨bitCounts_hold, maskCounts_hold⟩

end Sys2Proof.Proofs
end

section
/-!
PROOFS. Control flow (R170 to R173). Settles O10 and O11.
-/
namespace Sys2Proof.Proofs
open Machine Laws

section
variable {i : Instr} {s : State} {t : Task}

/-- An instruction of a slot that transfers, given the live task. -/
theorem issue_jumps {s' : State} {f : Task → Act} {p : BitVec 56} (hl : s.live = some t) (hf : f t = .jump s' p) :
    issue s f = .next (s'.jumps p) := by
  rw [issue_live hl, hf]; rfl

/-- A conditional branch, by its condition. -/
theorem exec_of_branchIf (c : W64 → W64 → Bool) {a b : SReg} {disp : BitVec 17} {taken : Bool} (hs : s.live = some t)
    (hx : exec i s = branchIf c a b disp s) (hc : c (t.getS a) (t.getS b) = taken) :
    exec i s = .next (if taken then s.jumps (bundleAt t (disp.signExtend 64)) else s.goesOn) := by
  rw [hx, branchIf]
  cases taken
  · exact issue_ok hs (if_neg (Bool.eq_false_iff.1 hc))
  · exact issue_jumps hs (if_pos hc)

/-- `≤` among signed numbers, and among unsigned ones, is the opposite of the reversed comparison. -/
theorem decide_le_toInt (x y : W64) : decide (y.toInt ≤ x.toInt) = !x.slt y := by
  rw [BitVec.slt_eq_decide, ← decide_not, decide_eq_decide, not_lt]
theorem decide_le_toNat (x y : W64) : decide (y.toNat ≤ x.toNat) = !x.ult y := by
  rw [BitVec.ult_eq_decide, ← decide_not, decide_eq_decide, not_lt]

end

/-- Settles O10: by the condition of each branch. -/
theorem conditionalBranches : Obligations.ConditionalBranches := by
  intro s t i c disp hs h
  unfold branchTaken at h
  split at h <;> cases h
  case h_1 => exact exec_of_branchIf (· == ·) hs rfl rfl
  case h_2 => exact exec_of_branchIf (· != ·) hs rfl rfl
  case h_3 => exact exec_of_branchIf (fun x y => x.toInt < y.toInt) hs rfl rfl
  case h_4 => exact exec_of_branchIf (fun x y => y.toInt ≤ x.toInt) hs rfl (decide_le_toInt ..)
  case h_5 => exact exec_of_branchIf (fun x y => x.toNat < y.toNat) hs rfl rfl
  case h_6 => exact exec_of_branchIf (fun x y => y.toNat ≤ x.toNat) hs rfl (decide_le_toNat ..)

section
variable {s : State} {t : Task} (d a : SReg)

/-- `callr` (R172, R173): the class of the target decides. -/
theorem exec_callr (c : Fin 16) (hs : s.live = some t) : exec (.callr d a c) s =
    .next (if (t.getS a).toNat % 16 = c.val then (s.setLive (t.setS d t.link)).jumps (indirect (t.getS a))
      else s.traps t 0x09 0 (BitVec.ofNat 64 ((t.getS a).toNat % 16 * 16 + c.val))) := by
  have hclass : (t.getS a).fld 0 4 = (t.getS a).toNat % 16 := fld_zero _ 4
  rw [← hclass]
  split
  next h => exact issue_jumps hs (if_pos h)
  next h => exact issue_traps hs (if_neg h)

/-- `ret` (R172): the low bits of the target decide. -/
theorem exec_ret (hs : s.live = some t) : exec (.ret a) s =
    .next (if (t.getS a).toNat % 16 = 0 then s.jumps (indirect (t.getS a)) else s.traps t 0x09 0 (t.getS a)) := by
  have hlow : (t.getS a).fld 0 4 = (t.getS a).toNat % 16 := fld_zero _ 4
  rw [← hlow]
  split
  next h => exact issue_jumps hs (if_pos h)
  next h => exact issue_traps hs (if_neg h)

/-- `loop` (R172): the counter that the write leaves decides. -/
theorem exec_loop (n : Fin 1024) (hs : s.live = some t) : exec (.loop d n) s =
    .next (if (t.setS d (t.getS d - 1)).getS d = 0 then s.thenTask (t.setS d (t.getS d - 1))
      else (s.setLive (t.setS d (t.getS d - 1))).jumps (bundleAt t (-BitVec.ofNat 64 n.val))) := by
  split
  next h => exact issue_ok hs (if_pos h)
  next h => exact issue_jumps hs (if_neg h)

/-- The counter of a `loop` is what was written to it, if it is not s0. -/
theorem exec_loop_of_ne (n : Fin 1024) (hs : s.live = some t) (hd : d ≠ 0) : exec (.loop d n) s =
    .next (if t.getS d - 1 = 0 then s.thenTask (t.setS d 0)
      else (s.setLive (t.setS d (t.getS d - 1))).jumps (bundleAt t (-BitVec.ofNat 64 n.val))) := by
  have hcount : (t.setS d (t.getS d - 1)).getS d = t.getS d - 1 := by rw [getS_setS, if_pos ⟨rfl, hd⟩]
  rw [exec_loop d n hs, hcount]
  split
  next h => rw [h]
  · rfl

end

/-- Settles O11: each transfer by the one condition it has. -/
theorem transfersAndLinks : Obligations.TransfersAndLinks := by
  intro s t i d a c n hs link v dest
  refine ⟨issue_jumps hs rfl, issue_jumps hs rfl, issue_jumps hs rfl, exec_callr d a c hs, exec_ret a hs, exec_loop_of_ne d n hs, ?_,
    exec_of_onTask (f := id) hs rfl⟩
  rw [exec_loop 0 n hs, setS_zero, getS_zero, if_pos rfl]

end Sys2Proof.Proofs
end

section
/-!
PROOFS. The control registers: every number that names a register reads, a write form reads and then performs the register's own write, and the
registers without a rule of their own read back what was written (R177, R178, R183). Settles O12 and O13.
-/
namespace Sys2Proof.Proofs
open Machine Laws

/-! ## Reading -/

/-- The numbers that name a register, in their runs (R178, R194, R283, R316, R358, R379, R420, R485). -/
theorem ctrlNamed_runs {n : Nat} (h : ctrlNamed n = true) : n ≤ 0x016 ∨ (0x020 ≤ n ∧ n ≤ 0x023) ∨ (0x030 ≤ n ∧ n ≤ 0x06F) ∨
    (0x080 ≤ n ∧ n ≤ 0x081) ∨ (0x0A0 ≤ n ∧ n ≤ 0x0A2) ∨ (0x0C0 ≤ n ∧ n ≤ 0x0C3) ∨ (0x0E0 ≤ n ∧ n ≤ 0x0E7) ∨ (0x100 ≤ n ∧ n ≤ 0x107) ∨
    (0x120 ≤ n ∧ n ≤ 0x12A) ∨ (0x140 ≤ n ∧ n ≤ 0x147) := by
  by_contra hn
  have hnone : ctrlAccess n = none := by
    unfold ctrlAccess
    iterate 26 rw [if_neg (by omega)]
  rw [ctrlNamed, hnone] at h
  cases h

/-- A number that names a register reads (R178): each of a run is a row of the model's table. -/
theorem readCtrl_isSome (s : State) (c : CoreId) (k : CoreCtx) (t : Task) {n : Nat} (h : ctrlNamed n = true) :
    (s.readCtrl c k t n).isSome = true := by
  rcases ctrlNamed_runs h with h | ⟨h, h'⟩ | ⟨h, h'⟩ | ⟨h, h'⟩ | ⟨h, h'⟩ | ⟨h, h'⟩ | ⟨h, h'⟩ | ⟨h, h'⟩ | ⟨h, h'⟩ | ⟨h, h'⟩
  all_goals interval_cases n <;> rfl

section
variable {s : State} {t : Task} {i : Instr} {d : SReg} {n : Nat}

/-- A read form delivers what its register holds (R183). -/
theorem exec_of_readForm {v : W64} (hs : s.live = some t) (hx : exec i s = ctrlForm d n (fun _ => none) s)
    (hv : s.readCtrl s.cur (s.cctx t) t n = some v) : exec i s = .next (s.thenTask (t.setS d v)) := by
  rw [hx]
  exact issue_ok hs (by rw [hv]; rfl)

/-- A write form acts on its register with the function that it writes by. -/
theorem exec_eq_ctrlForm {f : W64 → W64} (hi : writeForm t i = some (d, n, f)) : ∃ g, exec i s = ctrlForm d n g s ∧ g t = some f := by
  unfold writeForm at hi
  split at hi <;> cases hi <;> exact ⟨_, rfl, rfl⟩

/-- A write form delivers what its register held, in what the register's own write leaves (R183). -/
theorem exec_of_writeForm {f : W64 → W64} {old : W64} {s' : State} (hs : s.live = some t) (hi : writeForm t i = some (d, n, f))
    (hold : s.readCtrl s.cur (s.cctx t) t n = some old) (hw : s.writeCtrl t n (f old) = .done s') :
    exec i s = .next ((s'.modLive fun u => u.setS d old).goesOn) := by
  obtain ⟨g, hx, hg⟩ := exec_eq_ctrlForm (s := s) hi
  rw [hx]
  refine issue_ok hs ?_
  rw [hold, hg]
  simp only [State.ctrlAct, hw]

end

theorem controlReads_hold : controlReads := by
  intro s t d a n hs
  have hn : (t.getS a).fld 0 12 = (t.getS a).toNat % 4096 := fld_zero _ 12
  rw [← hn]
  exact ⟨fun _ hv => exec_of_readForm hs rfl hv, fun _ hv => issue_ok hs (by simp only [hv]), fun hv => issue_traps hs (by simp only [hv]),
    fun h => readCtrl_isSome _ _ _ _ h⟩

theorem controlWrites_hold : controlWrites := fun s t _ _ _ _ _ hs hi hold =>
  ⟨fun _ hw => exec_of_writeForm hs hi hold hw, fun ha hk => exec_of_writeForm hs hi hold (writeCtrl_discards s t _ ha hk)⟩

/-- Settles O12: the read forms by what the register reads, the write forms by what its own write leaves. -/
theorem controlRegisterForms : Obligations.ControlRegisterForms := ⟨controlReads_hold, controlWrites_hold⟩

/-! ## What a plain register reads after a write -/

/-- Widening what was narrowed clears the bits above. -/
theorem setWidth_setWidth_eq_and (v : W64) (w : Nat) : (v.setWidth w).setWidth 64 = v &&& BitVec.ofNat 64 (2 ^ w - 1) := by
  refine BitVec.eq_of_getLsbD_eq fun j hj => ?_
  rw [BitVec.getLsbD_setWidth, BitVec.getLsbD_setWidth, BitVec.getLsbD_and, BitVec.getLsbD_ofNat, Nat.testBit_two_pow_sub_one]
  simp [hj, Bool.and_comm]

/-- The write of a register that every context may write, or of any by a supervisor, is not discarded (R177). -/
theorem not_discarded_of_permitted {n : Nat} {k : CoreCtx} (h : ctrlAccess n = some .rw ∨ k.sup = true) :
    ¬ (ctrlAccess n = some .rs ∧ k.sup = false) := by
  rintro ⟨ha, hk⟩
  rcases h with h | h
  · cases ha.symm.trans h
  · cases hk.symm.trans h

/-- What `wrc` reads goes to s0, which discards it. -/
theorem modLive_setS_zero (s : State) (v : W64) : s.modLive (fun u => u.setS 0 v) = s := by
  have hcore : (s.core s.cur).banks.set (s.core s.cur).cbank ((s.core s.cur).banks[(s.core s.cur).cbank].map fun u => u.setS 0 v) =
      (s.core s.cur).banks := by
    have hid : (fun u : Task => u.setS 0 v) = id := rfl
    rw [hid, Option.map_id_apply]
    exact Vector.set_getElem_self _
  exact (congrArg (fun b => s.setCore s.cur { s.core s.cur with banks := b }) hcore).trans (setCore_self s s.cur)

/-- `wrc` to register `n` performs, and then the register reads `r`. -/
def ReadsBack (s : State) (a : SReg) (n : BitVec 12) (r : W64) : Prop :=
  Leads (.wrc a n) s fun s' => ∃ t', s'.live = some t' ∧ s'.readCtrl s'.cur (s'.cctx t') t' n.toNat = some r

section
variable {s s' : State} {t : Task} {k : CoreCtx} {a : SReg} {n : BitVec 12} {m : Nat} {r : W64}

theorem exec_wrc {old : W64} (hs : s.live = some t) (hold : s.readCtrl s.cur (s.cctx t) t n.toNat = some old)
    (hw : s.writeCtrl t n.toNat (t.getS a) = .done s') : exec (.wrc a n) s = .next s'.goesOn := by
  rw [exec_of_writeForm (f := fun _ => t.getS a) hs rfl hold hw, modLive_setS_zero]

/-- A register that is kept in the task. -/
theorem readsBack_of_ctl (g : Ctl → W64) {c : Ctl} (hs : s.live = some t) (hm : n.toNat = m)
    (hw : s.writeCtrl t m (t.getS a) = .done (s.setLive { t with ctl := c }))
    (hread : ∀ (q : State) (x : CoreId) (k : CoreCtx) (u : Task), q.readCtrl x k u m = some (g u.ctl)) (hv : g c = r) : ReadsBack s a n r := by
  subst hm
  refine ⟨_, exec_wrc hs (hread ..) hw, _, (goesOn_live _).trans (congrArg _ (setLive_live ..)), ?_⟩
  rw [hread, ← hv]
  rfl

/-- A register that is kept on the core for the task's context. -/
theorem readsBack_of_cctx (g : CoreCtx → W64) {f : CoreCtx → CoreCtx} (hs : s.live = some t) (hk : (s.core s.cur).cctx t.ctx = some k)
    (hm : n.toNat = m) (hw : s.writeCtrl t m (t.getS a) = .done (s.modCctx t f))
    (hread : ∀ (q : State) (x : CoreId) (k : CoreCtx) (u : Task), q.readCtrl x k u m = some (g k)) (hv : g (f k) = r)
    (hf : ∀ k, (f k).ctx = k.ctx) : ReadsBack s a n r := by
  subst hm
  have hlive : (s.modCctx t f).live = some t := (modCore_live s s.cur (f := fun c => c.modCtx t.ctx f) fun _ => ⟨rfl, rfl⟩).trans hs
  have hctx : (s.modCctx t f).goesOn.cctx (unwaiting t) = f k := by
    refine cctx_of_resident ?_
    rw [show (s.modCctx t f).goesOn.cur = s.cur from endWait_cur _]
    exact modCctx_goesOn_cctx hk hf
  refine ⟨_, exec_wrc hs (hread ..) hw, unwaiting t, (goesOn_live _).trans (congrArg _ hlive), ?_⟩
  rw [hread, hctx, hv]

/-- A register of the device. -/
theorem readsBack_of_dev (g : Device → W64) {f : Device → Device} (hg : ∀ (d : Device) w l, g { d with wf := w, monitors := l } = g d)
    (hs : s.live = some t) (hm : n.toNat = m) (hw : s.writeCtrl t m (t.getS a) = .done (s.modDev f))
    (hread : ∀ (q : State) (x : CoreId) (k : CoreCtx) (u : Task), q.readCtrl x k u m = some (g q.dev)) (hv : g (f s.dev) = r) :
    ReadsBack s a n r := by
  subst hm
  refine ⟨_, exec_wrc hs (hread ..) hw, unwaiting t, (goesOn_live _).trans (congrArg _ hs), ?_⟩
  have hdev : g (s.modDev f).goesOn.dev = g (f s.dev) := endWait_dev_proj g _ hg
  rw [hread, hdev, hv]

end

/-- `c.vl` clamps (R179). -/
theorem clampedVl_eq (v : W64) : (BitVec.ofNat 15 (Min.min v.toNat 16384)).setWidth 64 = if 16384 < v.toNat then 16384 else v := by
  refine BitVec.eq_of_toNat_eq ?_
  rw [BitVec.toNat_setWidth, BitVec.toNat_ofNat]
  split
  next h => rw [Nat.min_eq_right h.le]; rfl
  next h => rw [Nat.min_eq_left (Nat.le_of_not_lt h)]; omega

/-- The two halves of `c.wfcnt` hold all of it (R379). -/
theorem halves_eq (v : W64) : w64 ((BitVec.ofNat 32 (v.fld 32 32)).toNat * 2 ^ 32 + (BitVec.ofNat 32 (v.fld 0 32)).toNat) = v := by
  refine BitVec.eq_of_toNat_eq ?_
  simp only [w64, W64.fld, bits, BitVec.toNat_ofNat]
  omega

/-- An address register of 40 bits keeps what its mask, within them, keeps. -/
theorem masked_setWidth_eq (v : W64) {m : W64} (hm : m &&& BitVec.ofNat 64 (2 ^ 40 - 1) = m) :
    ((maskedW v m).setWidth 40).setWidth 64 = v &&& m := by
  rw [setWidth_setWidth_eq_and, maskedW, BitVec.and_assoc, hm]

/-- Settles O13: by the field that each register is kept in, of the task, of its context on the core, or of the device. -/
theorem plainRegistersReadBack : Obligations.PlainRegistersReadBack := by
  intro s t k a n r hs hk hp hr
  have hopen := not_discarded_of_permitted hp
  rw [← cctx_of_resident hk] at hopen
  obtain ⟨m, hn⟩ : ∃ m, n.toNat = m := ⟨_, rfl⟩
  rw [hn] at hopen hr
  change ReadsBack s a n r
  -- which register it is, in the order of `plainWritten`
  unfold plainWritten at hr
  split at hr <;> cases hr
  case h_1 => exact readsBack_of_ctl (·.vl.setWidth 64) hs hn (writeCtrl_vl ..) (fun _ _ _ _ => rfl) (clampedVl_eq _)
  case h_2 => exact readsBack_of_ctl (·.vflags.setWidth 64) hs hn rfl (fun _ _ _ _ => rfl) (setWidth_setWidth_eq_and _ 4)
  case h_3 => exact readsBack_of_ctl (·.vcsr.setWidth 64) hs hn rfl (fun _ _ _ _ => rfl) (setWidth_setWidth_eq_and _ 2)
  case h_4 => exact readsBack_of_ctl (·.mflags) hs hn rfl (fun _ _ _ _ => rfl) rfl
  case h_5 => exact readsBack_of_cctx (·.sbudget) hs hk hn (if_neg hopen) (fun _ _ _ _ => rfl) rfl fun _ => rfl
  case h_6 => exact readsBack_of_dev (·.ctxtab.setWidth 64) (fun _ _ _ => rfl) hs hn (if_neg hopen) (fun _ _ _ _ => rfl) (masked_setWidth_eq _ rfl)
  case h_7 => exact readsBack_of_dev (·.acl.setWidth 64) (fun _ _ _ => rfl) hs hn (if_neg hopen) (fun _ _ _ _ => rfl) (masked_setWidth_eq _ rfl)
  case h_8 => exact readsBack_of_cctx (·.wfcfg) hs hk hn (if_neg hopen) (fun _ _ _ _ => rfl) rfl fun _ => rfl
  case h_9 =>
    exact readsBack_of_cctx (fun k => w64 (k.unteth.toNat * 2 ^ 32 + k.deep.toNat)) hs hk hn rfl (fun _ _ _ _ => rfl) (halves_eq _)
      fun _ => rfl
  case h_10 =>
    exact readsBack_of_dev (·.wfsel.setWidth 64) (fun _ _ _ => rfl) hs hn (if_neg hopen) (fun _ _ _ _ => rfl) (setWidth_setWidth_eq_and _ 12)
  case h_11 => exact readsBack_of_ctl (·.tpc) hs hn rfl (fun _ _ _ _ => rfl) rfl
  case h_12 => exact readsBack_of_cctx (·.tvec) hs hk hn (if_neg hopen) (fun _ _ _ _ => rfl) rfl fun _ => rfl
  case h_13 => exact readsBack_of_cctx (·.fqcfg) hs hk hn (if_neg hopen) (fun _ _ _ _ => rfl) rfl fun _ => rfl
  case h_14 => exact readsBack_of_ctl (·.bkpt) hs hn rfl (fun _ _ _ _ => rfl) rfl

end Sys2Proof.Proofs
end

section
/-!
PROOFS. Reductions (R216): the fixed tree level by level, and what it comes to where the combination is associative. Settles O19.
-/
namespace Sys2Proof.Proofs
open Machine

/-! ## The fixed tree -/

section
variable {α : Type} (f : α → α → α × Cond)

/-- Combining where a side may be absent (R216). -/
theorem combOpt_fst (x y : Option α) : (combOpt f x y).1 = Option.merge (fun a b => (f a b).1) x y := by
  cases x <;> cases y <;> rfl

/-- An element of a level is that of its two neighbours below. -/
theorem getD_treeLevel : ∀ (l : List (Option α)) (k : Nat), ((treeLevel f l).map (·.1)).getD k none =
    Option.merge (fun a b => (f a b).1) (l.getD (2 * k) none) (l.getD (2 * k + 1) none)
  | [], _ => rfl
  | [x], 0 => by cases x <;> rfl
  | [_], _ + 1 => rfl
  | x :: y :: l, 0 => combOpt_fst f x y
  | _ :: _ :: l, k + 1 => getD_treeLevel l k

theorem length_treeLevel : ∀ l : List (Option α), (treeLevel f l).length = (l.length + 1) / 2
  | [] => by simp [treeLevel]
  | [_] => by simp [treeLevel]
  | _ :: _ :: l => by
    simp only [treeLevel, List.length_cons, length_treeLevel l]
    omega
end

theorem treeOf_succ (f : Nat → Nat → Nat) (p : Nat → Option Nat) (n k : Nat) :
    treeOf f p (n + 1) k = Option.merge f (treeOf f p n k) (treeOf f p n (k + 2 ^ n)) := by
  rw [treeOf]
  cases treeOf f p n k <;> cases treeOf f p n (k + 2 ^ n) <;> rfl

/-- The tree over pairs of neighbours is one level of the tree over the elements. -/
theorem treeOf_merge_neighbours (f : Nat → Nat → Nat) (p : Nat → Option Nat) : ∀ n k,
    treeOf f (fun k => Option.merge f (p (2 * k)) (p (2 * k + 1))) n k = treeOf f p (n + 1) (2 * k)
  | 0, k => (treeOf_succ f p 0 (2 * k)).symm
  | n + 1, k => by
    rw [treeOf_succ, treeOf_merge_neighbours f p n, treeOf_merge_neighbours f p n, treeOf_succ f p (n + 1), Nat.pow_succ, Nat.mul_add,
      Nat.mul_comm (2 ^ n)]

/-- The model's fold, level by level, is the tree of the statement. -/
theorem treeFold_eq_treeOf (f : Nat → Nat → Nat × Cond) : ∀ (n : Nat) (l : List (Option Nat)) (c : Cond),
    (treeFold f n l c).1 = treeOf (fun x y => (f x y).1) (fun k => l.getD k none) n 0
  | 0, [], _ => rfl
  | 0, _ :: _, _ => rfl
  | n + 1, l, c => by
    simp only [treeFold, treeFold_eq_treeOf f n, getD_treeLevel]
    exact treeOf_merge_neighbours _ (fun k => l.getD k none) n 0

/-! ## An associative combination -/

section
variable {α : Type} (op : α → α → α)

section
variable [Std.Associative op]

/-- One level of the tree keeps what the elements combine to in order. -/
theorem foldr_merge_treeLevel : ∀ l : List (Option α), ((treeLevel (fun x y => (op x y, Cond.none)) l).map (·.1)).foldr (Option.merge op) none =
    l.foldr (Option.merge op) none
  | [] => rfl
  | [_] => rfl
  | x :: y :: l => by
    simp only [treeLevel, List.map_cons, List.foldr_cons, combOpt_fst, foldr_merge_treeLevel l]
    exact Std.Associative.assoc x y _

/-- The tree over at most 2^n elements combines them in order. -/
theorem treeFold_eq_foldr_merge : ∀ (n : Nat) (l : List (Option α)) (c : Cond), l.length ≤ 2 ^ n →
    (treeFold (fun x y => (op x y, .none)) n l c).1 = l.foldr (Option.merge op) none
  | 0, [], _, _ => rfl
  | 0, [x], _, _ => by cases x <;> rfl
  | n + 1, l, c, h => by
    rw [treeFold, treeFold_eq_foldr_merge n, foldr_merge_treeLevel]
    rw [List.length_map, length_treeLevel]
    rw [Nat.pow_succ] at h
    omega
end

/-- The active elements alone are combined; the identity is delivered when there is none. -/
theorem foldr_merge_active {e : α} (on : Nat → Bool) (v : Nat → α) (he : ∀ j, op (v j) e = v j) : ∀ l : List Nat,
    ((l.map fun j => if on j then some (v j) else none).foldr (Option.merge op) none).getD e = ((l.filter on).map v).foldr op e
  | [] => rfl
  | j :: l => by
    have ih := foldr_merge_active on v he l
    rw [List.map_cons, List.foldr_cons]
    generalize (l.map fun j => if on j then some (v j) else none).foldr (Option.merge op) none = r at ih ⊢
    cases hj : on j <;> cases r <;> simp [hj, he, ← ih, Option.merge]
end

/-! ## Integer reductions -/

theorem combInt_add : combInt 0 = (· + ·) := rfl
theorem combInt_max : combInt 1 = Max.max := by funext x y; exact (max_def x y).symm
theorem combInt_min : combInt 2 = Min.min := by funext x y; exact (min_def x y).symm

theorem tyWidth_pos (ty : Fin 16) : 0 < tyWidth ty := by revert ty; decide

/-- What a field holds lies in the range of its integer format (R13). -/
theorem intOf_mem (sg : Bool) {n : Nat} (hn : 0 < n) (v : Nat) : intMin sg n ≤ intOf sg n v ∧ intOf sg n v ≤ intMax sg n := by
  have hu : v % 2 ^ n < 2 ^ n := Nat.mod_lt _ (by positivity)
  have hp : 2 ^ n = 2 * 2 ^ (n - 1) := by rw [← Nat.pow_succ', Nat.succ_eq_add_one, Nat.sub_add_cancel hn]
  have hc : ((2 ^ (n - 1) : Nat) : Int) = 2 ^ (n - 1) := by push_cast; rfl
  have hc' : ((2 ^ n : Nat) : Int) = 2 ^ n := by push_cast; rfl
  cases sg
  · simp only [intOf, intMin, intMax, Bool.false_and, Bool.false_eq_true, if_false, ← hc']
    omega
  · simp only [intOf, intMin, intMax, Bool.true_and, decide_eq_true_eq, if_true, ← hc, ← hc']
    split <;> omega

section
variable {s : State} {t : Task} {d : SReg} {a : VReg} {o : Fin 4} {k : KReg} {ty : Fin 16}

/-- An integer lane lies in the range of its type. -/
theorem laneInt_mem (t : Task) (ty : Fin 16) (a : VReg) (j : Nat) :
    intMin (tySigned ty) (8 * tyWidth ty) ≤ laneInt t ty a j ∧ laneInt t ty a j ≤ intMax (tySigned ty) (8 * tyWidth ty) :=
  intOf_mem _ (Nat.mul_pos (by decide) (tyWidth_pos ty)) _

theorem lanesOf_le (t : Task) (w : Nat) : lanesOf t w ≤ 2 ^ 14 := (Nat.min_le_right ..).trans (Nat.div_le_self ..)

/-- `vred` of an integer type whose combination is associative and commutative: its fold over the active lanes (R216). -/
theorem exec_vred_int (op : Int → Int → Int) [Std.Associative op] [Std.Commutative op] (hs : s.live = some t) (h1 : 1 ≤ ty.val)
    (h8 : ty.val ≤ 8) (hop : combInt o = op) (he : ∀ j, op (laneInt t ty a j) (identInt o (tySigned ty) (8 * tyWidth ty)) = laneInt t ty a j) :
    exec (.vred d a o k ty) s = .next (s.thenTask (t.setS d (BitVec.ofInt 64
      ((((List.range (lanesOf t (tyWidth ty))).filter fun j => (t.getK k).getLsbD j).map (laneInt t ty a)).foldl op
        (identInt o (tySigned ty) (8 * tyWidth ty)))))) := by
  refine (exec_of_onTask hs rfl).trans ?_
  have hmap : (t.activeLanes a k (tyWidth ty)).map (fun p => p.map (intOf (tySigned ty) (8 * tyWidth ty))) =
      (List.range (lanesOf t (tyWidth ty))).map fun j => if (t.getK k).getLsbD j then some (laneInt t ty a j) else none := by
    simp only [activeLanes_eq_map, List.map_map, Function.comp_def, Option.map_if]
    rfl
  simp only [elemTy_int h1 h8, hmap, hop]
  rw [treeFold_eq_foldr_merge op 14 _ _ (by simpa using lanesOf_le t _), foldr_merge_active op _ _ he, List.foldl_eq_foldr]
  rfl
end

theorem intReductions_hold : intReductions := by
  intro s t d a k ty hs h1 h8 lanes b
  have hmem := laneInt_mem t ty a
  refine ⟨?_, ?_, ?_⟩
  · rw [List.sum_eq_foldl]
    exact exec_vred_int (· + ·) hs h1 h8 combInt_add fun _ => Int.add_zero _
  · exact exec_vred_int Max.max hs h1 h8 combInt_max fun j => max_eq_left (hmem j).1
  · exact exec_vred_int Min.min hs h1 h8 combInt_min fun j => min_eq_left (hmem j).2

/-! ## Floating-point reductions -/

/-- The elements of a run of `n` by number, absent at and beyond `n`. -/
theorem getD_map_range {α : Type} (p : Nat → Option α) (n j : Nat) : ((List.range n).map p).getD j none = if j < n then p j else none := by
  by_cases h : j < n <;> simp [h]

section
variable {s : State} {t : Task} {d : SReg} {a : VReg} {o : Fin 4} {k : KReg} {ty : Fin 16}

/-- `vred` of a floating-point type: the tree over the active lanes read into FP32, with the conditions of the lanes read and of the tree's
combinations (R216). -/
theorem exec_vred_flt {f : FFmt} (hs : s.live = some t) (hty : elemTy ty = .flt f) :
    let on (j : Nat) : Bool := (t.getK k).getLsbD j
    let read (j : Nat) : Ex × Bool := f.read (t.getV a (tyWidth ty) j)
    let js := List.range (lanesOf t (tyWidth ty))
    let r := treeFold (combFlt o) 14 (js.map fun j => if on j then some (roundF (read j).1 .f32 .rne).1 else none)
      { flush := js.any fun j => on j && (read j).2 }
    exec (.vred d a o k ty) s = .next (s.thenTask ((t.setS d (BitVec.ofNat 64 (r.1.getD (identFlt o)))).raise r.2)) := by
  refine (exec_of_onTask hs rfl).trans ?_
  simp only [hty, activeLanes_eq_map, List.map_map, Function.comp_def, Option.map_if, List.any_map, any_ite_some]
  rfl
end

theorem floatReductions_hold : floatReductions := by
  intro s t d a o k ty hs h9 h11 _ f lane ident
  have hlane : ∀ j, ((List.range (lanesOf t (tyWidth ty))).map fun j =>
      if (t.getK k).getLsbD j then some (roundF (f.read (t.getV a (tyWidth ty) j)).1 .f32 .rne).1 else none).getD j none = lane j := by
    intro j
    rw [getD_map_range]
    exact (ite_and ..).symm
  have hx := exec_vred_flt (d := d) (a := a) (o := o) (k := k) hs (elemTy_flt h9 h11)
  simp only [treeFold_eq_treeOf] at hx
  rw [funext hlane] at hx
  exact ⟨_, hx⟩

/-- Settles O19: an associative combination along the tree is the fold over the active lanes; for a floating-point type the model's levels are
those of the tree. -/
theorem vectorReductions : Obligations.VectorReductions := ⟨intReductions_hold, floatReductions_hold⟩

end Sys2Proof.Proofs
end

section
/-!
PROOFS. The integer, splat, index, permute and slide forms lane by lane (R199, R215). Settles O15.
-/
namespace Sys2Proof.Proofs
open Machine

/-! ## Integer lanes -/

theorem wrapped_lt (ty : Fin 16) (i : Int) : (wrapped ty i).1 < 256 ^ tyWidth ty := bitsOfInt_lt_bytes ..

/-- Saturation changes what lies outside the range. -/
theorem satInt_ne_iff {g : Bool} {n : Nat} (hn : 0 < n) (i : Int) : satInt g n i ≠ i ↔ i < intMin g n ∨ intMax g n < i := by
  have hle := (intOf_mem g hn 0).1.trans (intOf_mem g hn 0).2
  rw [satInt]
  omega

/-- Saturation, with Overflow where it changed the value (R19, R21). -/
theorem saturated_eq (ty : Fin 16) (i : Int) : saturated ty i =
    (bitsOfInt (8 * tyWidth ty) (satInt (tySigned ty) (8 * tyWidth ty) i), { overflow := satInt (tySigned ty) (8 * tyWidth ty) i != i }) := by
  have hov : (satInt (tySigned ty) (8 * tyWidth ty) i != i) =
      decide (i < intMin (tySigned ty) (8 * tyWidth ty) ∨ intMax (tySigned ty) (8 * tyWidth ty) < i) := by
    rw [Bool.eq_iff_iff, bne_iff_ne, decide_eq_true_iff]
    exact satInt_ne_iff (Nat.mul_pos (by decide) (tyWidth_pos ty)) i
  rw [hov]
  rfl

/-- A left shift by the whole width or more leaves nothing, as the amount is not reduced (R199). -/
theorem vsllBits_eq (w x s : Nat) : vsllBits w x s = x * 2 ^ s % 2 ^ (8 * w) := by
  unfold vsllBits
  split
  next h => exact (Nat.mod_eq_zero_of_dvd ((Nat.pow_dvd_pow 2 h).mul_left x)).symm
  next => rfl

theorem bitsOfInt_natCast (n m : Nat) : bitsOfInt n m = m % 2 ^ n := by
  rw [bitsOfInt, ← Int.toNat_natCast (m % 2 ^ n)]
  push_cast
  rfl

/-- A right shift of an integer of `n + 1` bits by more than `n` leaves its sign, as one by `n` does. -/
theorem ediv_two_pow_min {i : Int} {n : Nat} (s : Nat) (hlo : -2 ^ n ≤ i) (hhi : i < 2 ^ n) : i / 2 ^ Min.min s n = i / 2 ^ s := by
  rcases Nat.le_total s n with h | h
  · rw [Nat.min_eq_left h]
  · have hp : (2 : Int) ^ n ≤ 2 ^ s := pow_le_pow_right₀ (by norm_num) h
    rw [Nat.min_eq_right h]
    rcases lt_or_ge i 0 with hi | hi
    · rw [Int.ediv_eq_neg_one_of_neg_of_le hi (by omega), Int.ediv_eq_neg_one_of_neg_of_le hi (by omega)]
    · rw [Int.ediv_eq_zero_of_lt hi hhi, Int.ediv_eq_zero_of_lt hi (by omega)]

/-- A right shift is the quotient of the lane's integer, rounded down (R199). -/
theorem vsrBits_eq (g : Bool) {w x : Nat} (s : Nat) (hw : 0 < w) (hx : x < 256 ^ w) :
    vsrBits g w x s = bitsOfInt (8 * w) (intOf g (8 * w) x / 2 ^ s) := by
  have hx : x < 2 ^ (8 * w) := by rwa [Nat.pow_mul]
  cases g
  · have hint : intOf false (8 * w) x / 2 ^ s = ((x / 2 ^ s : Nat) : Int) := by
      simp [intOf, Nat.mod_eq_of_lt hx]
    rw [hint, bitsOfInt_natCast, Nat.mod_eq_of_lt ((Nat.div_le_self ..).trans_lt hx), vsrBits, if_neg Bool.false_ne_true]
    split
    next h => exact (Nat.div_eq_of_lt (hx.trans_le (Nat.pow_le_pow_right (by decide) h))).symm
    next => rfl
  · obtain ⟨hlo, hhi⟩ := intOf_mem true (n := 8 * w) (by omega) x
    rw [vsrBits, if_pos rfl, ediv_two_pow_min]
    · exact hlo
    · exact Int.lt_of_le_sub_one hhi

theorem mod_lt_bytes (w x : Nat) : x % 2 ^ (8 * w) < 256 ^ w := by
  rw [Nat.pow_mul]
  exact Nat.mod_lt _ (by positivity)

/-- An operation that keeps the width in bits keeps it in bytes. -/
theorem fits_of_bits {w : Nat} {f : Nat → Nat → Nat} (h : ∀ {x y : Nat}, x < 2 ^ (8 * w) → y < 2 ^ (8 * w) → f x y < 2 ^ (8 * w)) :
    ∀ x < 256 ^ w, ∀ y < 256 ^ w, f x y < 256 ^ w := by
  have hw : 2 ^ (8 * w) = 256 ^ w := Nat.pow_mul 2 8 w
  rw [← hw]
  exact fun _ hx _ hy => h hx hy

/-! ## Lanes that move -/

section
variable {α : Type} (p q : Nat → α) (z : α) (n k : Nat)

/-- A lane by number, with a value for a number at or beyond `n`. -/
theorem getD_toArray_map_range : ((List.range n).map p).toArray.getD k z = if k < n then p k else z := by
  by_cases h : k < n <;> simp [h]

/-- Lanes moved up by `k`, above the first `k` of others. -/
theorem take_append_take_eq_map : ((List.range n).map p).take k ++ ((List.range n).map q).take (n - k) =
    (List.range n).map fun j => if j < k then p j else q (j - k) := by
  apply List.ext_getElem
  · simp; omega
  · intro j _ h
    have h : j < n := by simpa using h
    by_cases hj : j < k
    · simp [h, hj]
    · have hmin : Min.min k n = k := by omega
      simp [List.getElem_append, hj, hmin]

/-- Lanes moved down by `k`, below as many fillers. -/
theorem drop_append_replicate_eq_map : ((List.range n).map q).drop k ++ List.replicate (Min.min k n) z =
    (List.range n).map fun j => if j + k < n then q (j + k) else z := by
  apply List.ext_getElem
  · simp; omega
  · intro j _ _
    simp [List.getElem_append, Nat.add_comm k, Nat.lt_sub_iff_add_lt]
end

/-! ## Storing lanes -/

section
variable {i : Instr} {s : State} {t : Task} {d a b : VReg} {ty : Fin 16}

/-- A lane-wise operation of two sources whose results fit where its operands do. -/
theorem writesLanes_vec2_of_fits {w : Nat} {g : Nat → Nat → Nat × Cond} (hs : s.live = some t) (hx : exec i s = vec2 w g d a b s)
    (hb : ∀ x < 256 ^ w, ∀ y < 256 ^ w, (g x y).1 < 256 ^ w) :
    WritesLanes i s t d w (lanesOf t w) fun j => g (t.getV a w j) (t.getV b w j) := by
  refine writesLanes_of_results hs hx ?_ fun _ _ => hb _ (getV_lt ..) _ (getV_lt ..)
  simp only [elems_eq_map, List.zipWith_map, List.zipWith_self]
  rfl

/-- An instruction that stores one element for each lane and raises nothing. -/
theorem writesLanes_of_putElems {w n : Nat} {f : Task → Task} {v : Nat → Nat} {vs : List Nat} (hs : s.live = some t)
    (hx : exec i s = onTask s f) (hf : f t = t.putElems d w vs) (hvs : vs = (List.range n).map v) (hb : ∀ j < n, v j < 256 ^ w) :
    WritesLanes i s t d w n fun j => (v j, .none) :=
  writesLanes_of_elems hs hx (hf.trans (raise_none _).symm) hvs (by rw [condsOf_map, orAll_none]) hb

/-- A wrapping integer form. -/
theorem writesLanes_vint {f : Int → Int → Int} (hs : s.live = some t) (hx : exec i s = vint f d a b ty s) :
    WritesLanes i s t d (tyWidth ty) (lanesOf t (tyWidth ty)) fun j => wrapped ty (f (laneInt t ty a j) (laneInt t ty b j)) :=
  writesLanes_vec2 hs hx fun _ _ => wrapped_lt ..

/-- A saturating integer form. -/
theorem writesLanes_vsat {f : Int → Int → Int} (hs : s.live = some t) (hx : exec i s = vsat f d a b ty s) :
    WritesLanes i s t d (tyWidth ty) (lanesOf t (tyWidth ty)) fun j => saturated ty (f (laneInt t ty a j) (laneInt t ty b j)) :=
  writesLanes_congr (writesLanes_vec2 hs hx fun _ _ => bitsOfInt_lt_bytes ..) fun _ => (saturated_eq ..).symm

/-- A form on the bits of its lanes. -/
theorem writesLanes_vbits {f : Nat → Nat → Nat} (hs : s.live = some t) (hx : exec i s = vbits f d a b ty s)
    (hb : ∀ x < 256 ^ tyWidth ty, ∀ y < 256 ^ tyWidth ty, f x y < 256 ^ tyWidth ty) :
    WritesLanes i s t d (tyWidth ty) (lanesOf t (tyWidth ty)) fun j => (f (t.getV a (tyWidth ty) j) (t.getV b (tyWidth ty) j), .none) :=
  writesLanes_vec2_of_fits hs hx hb
/-- `vsll` (R199). -/
theorem writesLanes_vsll (hs : s.live = some t) : WritesLanes (.vsll d a b ty) s t d (tyWidth ty) (lanesOf t (tyWidth ty)) fun j =>
    (t.getV a (tyWidth ty) j * 2 ^ t.getV b (tyWidth ty) j % 2 ^ (8 * tyWidth ty), .none) := by
  simpa only [vsllBits_eq] using writesLanes_vbits (f := vsllBits (tyWidth ty)) hs rfl fun _ _ _ _ => by
    rw [vsllBits_eq]; exact mod_lt_bytes ..

/-- `vsr` (R199). -/
theorem writesLanes_vsr (hs : s.live = some t) : WritesLanes (.vsr d a b ty) s t d (tyWidth ty) (lanesOf t (tyWidth ty)) fun j =>
    wrapped ty (laneInt t ty a j / 2 ^ t.getV b (tyWidth ty) j) := by
  have hv : ∀ x < 256 ^ tyWidth ty, ∀ y, vsrBits (tySigned ty) (tyWidth ty) x y = (wrapped ty (intOf (tySigned ty) (8 * tyWidth ty) x / 2 ^ y)).1 :=
    fun _ hx y => vsrBits_eq _ y (tyWidth_pos ty) hx
  refine writesLanes_congr (writesLanes_vbits (f := vsrBits (tySigned ty) (tyWidth ty)) hs rfl fun x hx y _ => ?_) fun j => ?_
  · rw [hv x hx]
    exact wrapped_lt ..
  · rw [hv _ (getV_lt ..)]
    rfl

/-- `vperm` (R215). -/
theorem writesLanes_vperm (hs : s.live = some t) : WritesLanes (.vperm d a b ty) s t d (tyWidth ty) (lanesOf t (tyWidth ty)) fun j =>
    (if t.getV b 2 j < lanesOf t (tyWidth ty) then t.getV a (tyWidth ty) (t.getV b 2 j) else 0, .none) := by
  refine writesLanes_of_putElems hs rfl rfl ?_ fun j _ => ?_
  · simp only [elems_eq_map, vlen_eq_lanesOf, List.map_map, Function.comp_def, getD_toArray_map_range]
  · split
    · exact getV_lt ..
    · positivity

/-- `vslideup` (R215). -/
theorem writesLanes_vslideup {b : SReg} (hs : s.live = some t) :
    let k := (t.getS b).toNat
    WritesLanes (.vslideup d a b ty) s t d (tyWidth ty) (lanesOf t (tyWidth ty)) fun j =>
      (if j < k then t.getV d (tyWidth ty) j else t.getV a (tyWidth ty) (j - k), .none) := by
  refine writesLanes_of_putElems hs rfl rfl ?_ fun j _ => ?_
  · simp only [elems_eq_map, vlen_eq_lanesOf, take_append_take_eq_map]
  · split <;> exact getV_lt ..

/-- `vslidedn` (R215). -/
theorem writesLanes_vslidedn {b : SReg} (hs : s.live = some t) :
    let k := (t.getS b).toNat
    WritesLanes (.vslidedn d a b ty) s t d (tyWidth ty) (lanesOf t (tyWidth ty)) fun j =>
      (if j + k < lanesOf t (tyWidth ty) then t.getV a (tyWidth ty) (j + k) else 0, .none) := by
  refine writesLanes_of_putElems hs rfl rfl ?_ fun j _ => ?_
  · simp only [elems_eq_map, vlen_eq_lanesOf, drop_append_replicate_eq_map]
  · split
    · exact getV_lt ..
    · positivity

/-- `vsplat` (R199). -/
theorem writesLanes_vsplat {a : SReg} (hs : s.live = some t) : WritesLanes (.vsplat d a ty) s t d (tyWidth ty) (lanesOf t (tyWidth ty)) fun _ =>
    ((t.getS a).toNat % 2 ^ (8 * tyWidth ty), .none) :=
  writesLanes_of_putElems hs rfl rfl (by rw [List.map_const', List.length_range]; rfl) fun _ _ => mod_lt_bytes ..

/-- `vidx` (R215). -/
theorem writesLanes_vidx (hs : s.live = some t) : WritesLanes (.vidx d ty) s t d (tyWidth ty) (lanesOf t (tyWidth ty)) fun j =>
    (j % 2 ^ (8 * tyWidth ty), .none) :=
  writesLanes_of_putElems hs rfl rfl rfl fun _ _ => mod_lt_bytes ..

end
/-- Settles O15: the arithmetic forms are a `vec2` over the lane that R199 gives, the others put elements that R199 and R215 list. -/
theorem vectorIntegerLanes : Obligations.VectorIntegerLanes := by
  intro s t i d ty lane hs hw h
  unfold intLane at h
  split at h <;> cases h
  case h_1 => exact writesLanes_vint (f := (· + ·)) hs rfl
  case h_2 => exact writesLanes_vint (f := (· - ·)) hs rfl
  case h_3 => exact writesLanes_vint (f := (· * ·)) hs rfl
  case h_4 => exact writesLanes_vint (f := fun x y => x * y / 2 ^ (8 * tyWidth ty)) hs rfl
  case h_5 => exact writesLanes_vsat (f := (· + ·)) hs rfl
  case h_6 => exact writesLanes_vsat (f := (· - ·)) hs rfl
  case h_7 => exact writesLanes_vint (f := Min.min) hs rfl
  case h_8 => exact writesLanes_vint (f := Max.max) hs rfl
  case h_9 => exact writesLanes_vbits (f := (· &&& ·)) hs rfl (fits_of_bits fun _ hy => Nat.and_lt_two_pow _ hy)
  case h_10 => exact writesLanes_vbits (f := (· ||| ·)) hs rfl (fits_of_bits Nat.or_lt_two_pow)
  case h_11 => exact writesLanes_vbits (f := (· ^^^ ·)) hs rfl (fits_of_bits Nat.xor_lt_two_pow)
  case h_12 => exact writesLanes_vsll hs
  case h_13 => exact writesLanes_vsr hs
  case h_14 => exact writesLanes_vsplat hs
  case h_15 => exact writesLanes_vidx hs
  case h_16 => exact writesLanes_vperm hs
  case h_17 => exact writesLanes_vslideup hs
  case h_18 => exact writesLanes_vslidedn hs

end Sys2Proof.Proofs
end

section
/-!
PROOFS. Integer comparison, the move of one element to a scalar register, and the selection by a mask (R200, R201, R205). Settles O16.
-/
namespace Sys2Proof.Proofs
open Machine

/-- The condition of R200 on an ordering is the comparison that its code names. -/
theorem condHolds_compare (c : Fin 4) (x y : Int) : condHolds c (compare x y) = compares c x y := by
  rw [Bool.eq_iff_iff]
  unfold condHolds compares
  split <;> simp [compare_lt_iff_lt, compare_le_iff_le]

/-- The mask that is put of the bits of `n` lanes: zeros above them (R200). -/
theorem getLsbD_maskOf_lanes (p : Nat → Bool) (n : Nat) {j : Nat} (hj : j < 16384) :
    let bs := (List.range n).map p
    (maskOf bs.length fun j => bs.getD j false).getLsbD j = (decide (j < n) && p j) := by
  intro bs
  rw [getLsbD_maskOf _ _ hj]
  by_cases h : j < n <;> simp [bs, h]

/-- The word of an integer element: extended with its sign, or with zeros (R201). -/
theorem extended_eq_ofInt (g : Bool) {w v : Nat} (hv : v < 256 ^ w) :
    (if g then signExt (8 * w) v else w64 v) = BitVec.ofInt 64 (intOf g (8 * w) v) := by
  cases g
  · have hv : v % 2 ^ (8 * w) = v := Nat.mod_eq_of_lt (by rwa [Nat.pow_mul])
    rw [intOf, hv]
    exact (BitVec.ofInt_natCast 64 v).symm
  · rfl

section
variable {s : State} {t : Task}

/-- `vcmp` (R200). -/
theorem exec_vcmp (c : Fin 4) (k : KReg) (a b : VReg) (ty : Fin 16) (hs : s.live = some t) : ∃ m : BitVec 16384,
    exec (.vcmp c k a b ty) s = .next (s.thenTask (t.setK k m)) ∧
    ∀ j < 16384, m.getLsbD j = (decide (j < lanesOf t (tyWidth ty)) && compares c (laneInt t ty a j) (laneInt t ty b j)) := by
  refine ⟨_, ?_, fun j hj => getLsbD_maskOf_lanes (fun j => compares c (laneInt t ty a j) (laneInt t ty b j)) _ hj⟩
  refine (exec_of_onTask hs rfl).trans ?_
  simp only [elems_eq_map, vlen_eq_lanesOf, List.zipWith_map, List.zipWith_self, condHolds_compare]
  rfl

/-- `vmvs` (R201). -/
theorem exec_vmvs (d : SReg) (a : VReg) (b : SReg) (ty : Fin 16) (hs : s.live = some t) : exec (.vmvs d a b ty) s =
    .next (s.thenTask (t.setS d (
      if (t.getS b).toNat < lanesOf t (tyWidth ty) then BitVec.ofInt 64 (laneInt t ty a (t.getS b).toNat) else 0))) :=
  exec_of_setS _ hs rfl (if_congr Iff.rfl (extended_eq_ofInt _ (getV_lt ..)) rfl)

/-- `vsel` (R205). -/
theorem writesLanes_vsel (d a b : VReg) (w : Fin 4) (k : KReg) (hs : s.live = some t) :
    WritesLanes (.vsel d a b w k) s t d (2 ^ w.val) (lanesOf t (2 ^ w.val)) fun j =>
      (if (t.getK k).getLsbD j then t.getV a (2 ^ w.val) j else t.getV b (2 ^ w.val) j, .none) := by
  refine writesLanes_of_putElems hs rfl rfl ?_ fun j _ => ?_
  · simp only [elems_eq_map, List.zip_map', zip_range_map, List.map_map]
    rfl
  · split <;> exact getV_lt ..
end

/-- Settles O16: `vcmp` by the bits of the mask it puts, `vmvs` by the word of its element, `vsel` by the lanes it copies. -/
theorem vectorCompareMoveSelect : Obligations.VectorCompareMoveSelect := fun _ _ hs =>
  ⟨fun c k a b ty _ => exec_vcmp c k a b ty hs, fun d a b ty _ => exec_vmvs d a b ty hs, fun d a b w k => writesLanes_vsel d a b w k hs⟩

end Sys2Proof.Proofs
end

section
/-!
PROOFS. The tile instructions (R219 to R222): elements as they stand in the register bank, a tile or a row stored and read back, and the checks on
shapes.
-/
namespace Sys2Proof.Proofs
open Machine Laws

/-! ## Shapes and elements -/

/-- The type code of a shape is one of sixteen. -/
theorem shape_et_lt {t : Task} {r : TReg} {x : Shape} (h : t.shape r = some x) : x.et < 16 := by
  unfold Task.shape shapeOf at h
  split at h
  · cases h; exact bits_lt ..
  · cases h

/-- A converted element fits the width of its type, of whatever code. -/
theorem convElem_lt_width (src : ElemTy) (rm : RM) (v : Nat) {e : Nat} (h : e < 16) : (convElem src (elemTy e) rm v).1 < 256 ^ tyWidth e := by
  by_cases hr : tyReg e = true
  · exact convElem_lt src rm v (ty := ⟨e, h⟩) hr
  · have hty : elemTy e = elemTy 13 ∧ 1 ≤ tyWidth e := by
      have hall : ∀ e : Fin 16, tyReg e.val ≠ true → elemTy e = elemTy 13 ∧ 1 ≤ tyWidth e := by decide
      exact hall ⟨e, h⟩ hr
    rw [hty.1]
    exact (convElem_lt src rm v (ty := 13) rfl).trans_le (Nat.pow_le_pow_right (by decide) hty.2)

/-- An element, converted or copied, fits the width of its new type. -/
theorem cvtElem_lt {e f : Nat} (rm : RM) {v : Nat} (he : e < 16) (hv : v < 256 ^ tyWidth f) : (cvtElem e f rm v).1 < 256 ^ tyWidth e := by
  unfold cvtElem
  split
  next h => rw [h.1]; exact hv
  next => exact convElem_lt_width _ _ _ he

/-- The place of an element in the row-major order (R220). -/
theorem rowMajor_lt {r c p q : Nat} (hp : p < r) (hq : q < c) : p * c + q < r * c := by
  have := Nat.mul_le_mul_right c (Nat.succ_le_of_lt hp)
  rw [Nat.succ_mul] at this
  omega

/-- The elements of a tile as they stand in the bank. -/
theorem tileElems_eq_map (t : Task) (x : Shape) :
    t.tileElems x = (List.range (x.rows * x.cols)).map fun k => t.regs.v.num (x.base * 16384 + k * x.w) x.w := by
  refine List.map_congr_left fun k hk => ?_
  have hle : k * x.w + x.w ≤ x.size := by
    rw [← Nat.succ_mul]; exact Nat.mul_le_mul_right x.w (List.mem_range.1 hk)
  rw [Mem.num, Mem.num, read_slice _ hle]

/-- A number whose bytes are zeroed reads zero. -/
theorem num_zero_within (m : Mem) {a n x k : Nat} (h : x + k ≤ n) : (m.zero a n).num (a + x) k = 0 := by
  have hr : (m.zero a n).read (a + x) k = List.replicate k 0 := by
    refine List.eq_replicate_iff.2 ⟨read_length .., ?_⟩
    simp only [Mem.read, List.mem_map, List.mem_range]
    rintro b ⟨i, hi, rfl⟩
    rw [get_zero, if_pos (by omega)]
  rw [Mem.num, hr, leNat_replicate_zero]

/-- Elements stored one after the other, read back. -/
theorem num_write_elems (m : Mem) (a w : Nat) {vs : List Nat} {j : Nat} (hj : j < vs.length) :
    (m.write a (vs.flatMap (leBytes w))).num (a + j * w) w = vs[j] % 256 ^ w := num_write_leBytes m a w id vs hj

theorem get_write_elems_outside (m : Mem) {a w x : Nat} (vs : List Nat) (h : x < a ∨ a + vs.length * w ≤ x) :
    (m.write a (vs.flatMap (leBytes w))).get x = m.get x :=
  get_write_outside _ _ _ _ (h.imp_right (congrArg (a + ·) (length_flatMap_leBytes w id vs)).trans_le)

/-! ## How a tile instruction ends -/

section
variable {i : Instr} {s : State} {t : Task} {r : TReg} {x : Shape} {g : Task → Shape → Act}

/-- A tile with V = 0 (R221). -/
theorem exec_of_invalid_tile (hs : s.live = some t) (hx : exec i s = onTile r g s) (hr : t.shape r = none) :
    exec i s = .next (s.traps t 0x09 0 t.regs.tdim[r]) :=
  hx.trans (issue_traps hs (by rw [hr]; rfl))

/-- A tile instruction whose check fails. -/
theorem exec_of_refused_tile {v : W64} (hs : s.live = some t) (hx : exec i s = onTile r g s) (hr : t.shape r = some x)
    (hg : g t x = s.bounds t v) : exec i s = .next (s.traps t 0x09 0 v) :=
  hx.trans (issue_traps hs (by rw [hr]; exact hg))

/-- A tile instruction that completes. -/
theorem exec_of_valid_tile {t' : Task} (hs : s.live = some t) (hx : exec i s = onTile r g s) (hr : t.shape r = some x)
    (hg : g t x = .ok (s.setLive t')) : exec i s = onTask s fun _ => t' :=
  hx.trans ((issue_ok hs (by rw [hr]; exact hg)).trans (onTask_live hs fun _ => t').symm)

/-- A tile instruction that stores all the elements of its tile. -/
theorem writesTile_of_putTile {f : Nat → Nat → Nat} {c : Cond} {v : Nat → Nat} {vs : List Nat} (hs : s.live = some t)
    (hx : exec i s = onTask s fun _ => (t.putTile x vs).raise c) (hvs : vs = (List.range (x.rows * x.cols)).map v)
    (hb : ∀ k, v k < 256 ^ x.w) (hf : ∀ p < x.rows, ∀ q < x.cols, v (p * x.cols + q) = f p q) : WritesTile i s t x f c := by
  have hn : vs.length = x.rows * x.cols := by simp [hvs]
  refine ⟨t.regs.v.write (x.base * 0x4000) (vs.flatMap (leBytes x.w)), ?_, ?_, ?_⟩
  · intro p hp q hq
    have hk : p * x.cols + q < vs.length := hn ▸ rowMajor_lt hp hq
    rw [tileElem, Shape.at, num_write_elems _ _ _ hk, ← hf p hp q hq]
    simp [hvs, Nat.mod_eq_of_lt (hb _)]
  · intro a ha
    exact get_write_elems_outside _ _ (by rwa [hn])
  · rw [exec_of_onTask hs hx]
    rfl
end

/-! ## The forms (R222) -/

section
variable {s : State} {t : Task} {d a : TReg} {x y : Shape}

theorem writesTile_tzero (hs : s.live = some t) (hd : t.shape d = some x) : WritesTile (.tzero d) s t x (fun _ _ => 0) .none := by
  refine ⟨t.regs.v.zero (x.base * 0x4000) x.size, ?_, ?_, ?_⟩
  · intro p hp q hq
    refine num_zero_within _ ?_
    rw [← Nat.succ_mul]
    exact Nat.mul_le_mul_right x.w (rowMajor_lt hp hq)
  · intro z hz
    rw [get_zero, if_neg (by omega)]
  · rw [exec_of_onTask hs (exec_of_valid_tile hs rfl hd rfl), raise_none]

/-- The transposed elements, by their places. -/
theorem transpose_eq_map (r c : Nat) (v : Nat → Nat) : transpose r c ((List.range (r * c)).map v) =
    (List.range (r * c)).map fun k => if k % r * c + k / r < r * c then v (k % r * c + k / r) else 0 := by
  simp only [transpose, getD_toArray_map_range]

theorem writesTile_ttrn (hs : s.live = some t) (hd : t.shape d = some x) (ha : t.shape a = some y) (hr : x.rows = y.cols)
    (hc : x.cols = y.rows) (hw : x.w = y.w) : WritesTile (.ttrn d a) s t x (fun p q => tileElem t.regs.v y q p) .none := by
  have hvs : transpose y.rows y.cols (t.tileElems y) = (List.range (x.rows * x.cols)).map fun k =>
      if k % y.rows * y.cols + k / y.rows < y.rows * y.cols
        then t.regs.v.num (y.base * 16384 + (k % y.rows * y.cols + k / y.rows) * y.w) y.w else 0 := by
    rw [tileElems_eq_map, transpose_eq_map, hr, hc, Nat.mul_comm]
  have hg : exec (.ttrn d a) s = onTask s fun _ => (t.putTile x (transpose y.rows y.cols (t.tileElems y))).raise .none := by
    refine exec_of_valid_tile hs rfl hd ?_
    simp only [ha, raise_none]
    exact if_pos ⟨hr, hc, hw⟩
  refine writesTile_of_putTile hs hg hvs ?_ ?_
  · intro k
    split
    · rw [hw]; exact num_lt ..
    · positivity
  · intro p hp q hq
    have hq' : q < y.rows := hc ▸ hq
    have hmod : (p * x.cols + q) % y.rows = q := by rw [hc, Nat.mul_add_mod', Nat.mod_eq_of_lt hq']
    have hdiv : (p * x.cols + q) / y.rows = p := by
      rw [hc, Nat.mul_comm, Nat.mul_add_div (by omega), Nat.div_eq_of_lt hq', Nat.add_zero]
    rw [hmod, hdiv, if_pos (rowMajor_lt hq' (hr ▸ hp))]
    rfl

theorem writesTile_tcvt (hs : s.live = some t) (hd : t.shape d = some x) (ha : t.shape a = some y) (hr : x.rows = y.rows)
    (hc : x.cols = y.cols) : let cv := cvtElem x.et y.et (.ofCode t.ctl.vcsr.toNat)
    WritesTile (.tcvt d a) s t x (fun p q => (cv (tileElem t.regs.v y p q)).1)
      (condsOf ((List.range (y.rows * y.cols)).map fun k => cv (t.regs.v.num (y.base * 16384 + k * y.w) y.w))) := by
  intro cv
  have hrs : (t.tileElems y).map cv = (List.range (y.rows * y.cols)).map fun k => cv (t.regs.v.num (y.base * 16384 + k * y.w) y.w) := by
    rw [tileElems_eq_map, List.map_map]; rfl
  have hg : exec (.tcvt d a) s = onTask s fun _ => (t.putTile x (((t.tileElems y).map cv).map (·.1))).raise (condsOf ((t.tileElems y).map cv)) := by
    refine exec_of_valid_tile hs rfl hd ?_
    simp only [ha]
    exact if_pos ⟨hr, hc⟩
  rw [hrs] at hg
  refine writesTile_of_putTile (v := fun k => (cv (t.regs.v.num (y.base * 16384 + k * y.w) y.w)).1) hs hg ?_ ?_ ?_
  · rw [List.map_map, hr, hc]; rfl
  · exact fun k => cvtElem_lt _ (shape_et_lt hd) (num_lt ..)
  · intro p _ q _
    rw [hc]; rfl

variable {r : VReg} {b : SReg}

theorem writesLanes_tgetr (hs : s.live = some t) (hd : t.shape d = some x) (hb : (t.getS b).toNat < x.rows) :
    WritesLanes (.tgetr r d b) s t r x.w (Min.min x.cols (lanesOf t x.w)) fun q => (tileElem t.regs.v x (t.getS b).toNat q, .none) :=
  writesLanes_of_putElems hs (exec_of_valid_tile hs rfl hd (if_pos hb)) rfl rfl fun _ _ => num_lt ..

/-- The elements of a row stored from its first one on. -/
theorem tputr_stores (hs : s.live = some t) (hd : t.shape d = some x) (hb : (t.getS b).toNat < x.rows) :
    let n := Min.min x.cols (lanesOf t x.w)
    ∃ m : Mem, (∀ q < n, tileElem m x (t.getS b).toNat q = t.getV r x.w q) ∧
      (∀ z, z < x.at (t.getS b).toNat 0 ∨ x.at (t.getS b).toNat 0 + n * x.w ≤ z → m.get z = t.regs.v.get z) ∧
      exec (.tputr d r b) s = .next (s.thenTask { t with regs := { t.regs with v := m } }) := by
  intro n
  have hn : (t.elems r x.w n).length = n := by simp [elems_eq_map]
  have hg : exec (.tputr d r b) s = onTask s fun _ => t.putRow x (t.getS b).toNat (t.elems r x.w n) :=
    exec_of_valid_tile hs rfl hd (if_pos hb)
  refine ⟨t.regs.v.write (x.at (t.getS b).toNat 0) ((t.elems r x.w n).flatMap (leBytes x.w)), ?_, ?_, ?_⟩
  · intro q hq
    have hat : x.at (t.getS b).toNat q = x.at (t.getS b).toNat 0 + q * x.w := by simp only [Shape.at]; ring
    rw [tileElem, hat, num_write_elems _ _ _ (hn.symm ▸ hq)]
    simp [elems_eq_map, Nat.mod_eq_of_lt (getV_lt ..)]
  · intro z hz
    exact get_write_elems_outside _ _ (by rwa [hn])
  · rw [exec_of_onTask hs hg]
    rfl
end

theorem tileForms_hold : tileForms := by
  intro s t d a r b hs
  refine ⟨?_, ?_, fun x hd => ⟨writesTile_tzero hs hd, ?_, ?_, fun hb => ?_, fun hb => ?_⟩⟩
  · exact exec_of_onTask (f := fun t => t.setTdim d (t.getS b)) hs rfl
  · intro hd i hi
    simp only [List.mem_cons, List.not_mem_nil, or_false] at hi
    obtain rfl | rfl | rfl | rfl | rfl := hi <;> exact exec_of_invalid_tile hs rfl hd
  · intro ha i hi
    simp only [List.mem_cons, List.not_mem_nil, or_false] at hi
    obtain rfl | rfl := hi <;> exact exec_of_refused_tile hs rfl hd (by simp only [ha])
  · intro y ha
    refine ⟨fun h => ?_, fun h => ?_, writesTile_ttrn hs hd ha, writesTile_tcvt hs hd ha⟩
    · exact exec_of_refused_tile hs rfl hd (by simp only [ha]; exact if_neg h)
    · exact exec_of_refused_tile hs rfl hd (by simp only [ha]; exact if_neg h)
  · exact ⟨writesLanes_tgetr hs hd hb, tputr_stores hs hd hb⟩
  · have hb : ¬ (t.getS b).toNat < x.rows := Nat.not_lt.2 hb
    exact ⟨exec_of_refused_tile hs rfl hd (if_neg hb), exec_of_refused_tile hs rfl hd (if_neg hb)⟩

end Sys2Proof.Proofs
end

section
/-!
PROOFS. The manger's instructions (R223 to R231): what `mgarm` checks, waits for and queues, and what `mgdrop` takes away. With the tile
instructions, settles O21.
-/
namespace Sys2Proof.Proofs
open Machine Laws

/-- The replay that `mgarm` queues: the registers as they are, at row 0. -/
def armedReplay (s : State) (t : Task) : Replay := { nest := t.regs.nest, o := t.regs.o, row := 0, serial := s.serial }

/-- The read entry over the bytes that the replay reads (R227). -/
def armedEntry (s : State) (t : Task) : SbEntry :=
  let h := hull (nestOf t.regs.nest) t.regs.o
  let k := s.cctx t
  ⟨.loft, (k.base + h.1.toNat) / 64, (k.base + h.2.toNat - 1) / 64, false, false, t.ctx, .replay t.tid s.serial⟩

/-- The task with the replay queued and the offsets of the segments used past the bands (R226). -/
def armedTask (s : State) (t : Task) : Task :=
  let n := nestOf t.regs.nest
  { t with regs := { t.regs with o := t.regs.o.mapFinIdx fun i w _ => if i < n.nseg then offAdvance n w else w },
           replays := t.replays ++ [armedReplay s t] }

/-- What `mgarm` leaves. -/
def armed (s : State) (t : Task) : State :=
  (s.fresh.2.setLive (armedTask s t)).modCore s.cur fun c => { c with sb := c.sb ++ [armedEntry s t] }

/-- The wait for one of four replays. -/
def replayWait (s : State) (t : Task) : Wait :=
  { okind := 0x0A, obj := BitVec.ofNat 48 (s.cur.val + (s.core s.cur).cbank.val * 256), owner := s.callOwner t }

/-- What `mgdrop` leaves: no replay, and no entry of one. -/
def dropped (s : State) (t : Task) : State :=
  (s.setLive { t with replays := [] }).modCore s.cur fun c =>
    { c with sb := c.sb.filter fun e => !(t.replays.any fun r => e.owner == .replay t.tid r.serial) }

/-- A change of a core's entries leaves the live task. -/
theorem withSb_live (s : State) (n : CoreId) (g : Core → List SbEntry) : (s.modCore n fun c => { c with sb := g c }).live = s.live :=
  modCore_live s n fun _ => ⟨rfl, rfl⟩

section
variable {s : State} {t : Task}

/-- The checks of `mgarm`, in their order (R226, R227). -/
theorem exec_mgarm (hs : s.live = some t) : let h := hull (nestOf t.regs.nest) t.regs.o
    exec .mgarm s = .next (s.settle t (
      if nestOk t.regs.nest = false then s.bounds t t.regs.nest
      else if h.1 < 0 ∨ ((s.cctx t).psize : Int) < h.2 then s.bounds t (w64i h.1)
      else if 4 ≤ t.replays.length then .wait s (replayWait s t)
      else if (s.core s.cur).room t.ctx 1 = false then .wait s (s.boardWait t)
      else .ok (armed s t))) := by
  refine (issue_live hs _).trans ?_
  simp only [Bool.not_eq_true']
  rfl

theorem armed_live (s : State) (t : Task) : (armed s t).live = some (armedTask s t) := by
  rw [armed, withSb_live, setLive_live]

theorem armed_sb (s : State) (t : Task) : ((armed s t).core s.cur).sb = (s.core s.cur).sb ++ [armedEntry s t] := by
  have h : ((s.fresh.2.setLive (armedTask s t)).core s.cur).sb = (s.core s.cur).sb := setLive_proj (·.sb) _ _ _ fun _ _ => rfl
  rw [armed, modCore_core_self, ← h]

/-- An offset register after `mgarm`. -/
theorem armedTask_o (s : State) (t : Task) (i : Fin 8) : (armedTask s t).regs.o[i] =
    if i.val < (nestOf t.regs.nest).nseg then offAdvance (nestOf t.regs.nest) t.regs.o[i] else t.regs.o[i] := by
  simp [armedTask]

theorem exec_mgdrop (hs : s.live = some t) (hr : s.runsCallOf t = false) : exec .mgdrop s = .next (dropped s t).goesOn :=
  issue_ok hs (by rw [hr]; rfl)

theorem dropped_live (s : State) (t : Task) : (dropped s t).live = some { t with replays := [] } := by
  rw [dropped, withSb_live, setLive_live]

theorem mem_dropped_sb (s : State) (t : Task) (e : SbEntry) : e ∈ ((dropped s t).core s.cur).sb ↔
    e ∈ (s.core s.cur).sb ∧ ∀ r ∈ t.replays, e.owner ≠ .replay t.tid r.serial := by
  have h : ((s.setLive { t with replays := [] }).core s.cur).sb = (s.core s.cur).sb := setLive_proj (·.sb) _ _ _ fun _ _ => rfl
  rw [dropped, modCore_core_self, ← h]
  simp
end

theorem mangerForms_hold : mangerForms := by
  intro s t a o hs
  have harm := exec_mgarm hs
  dsimp only at harm ⊢
  refine ⟨?_, ?_, ?_, ?_, fun hv => ?_, fun hv hh => ?_, fun hv h0 hp h4 => ⟨replayWait s t, rfl, ?_⟩, fun hv h0 hp h4 hroom => ?_, fun hr => ?_⟩
  · exact exec_of_onTask (f := fun t => { t with regs := { t.regs with nest := t.getS a } }) hs rfl
  · exact exec_of_onTask (f := fun t => { t with regs := { t.regs with o := t.regs.o.set o (t.getS a) } }) hs rfl
  · exact exec_of_onTask (f := fun t => t.setS a t.regs.o[o]) hs rfl
  · exact exec_of_onTask (f := fun t => t.setS a t.regs.nest) hs rfl
  · rw [harm, if_pos hv]; rfl
  · rw [harm, if_neg (Bool.not_eq_false _ ▸ hv), if_pos hh]; rfl
  · rw [harm, if_neg (Bool.not_eq_false _ ▸ hv), if_neg (by omega), if_pos h4]; rfl
  · refine ⟨(armed s t).goesOn, ?_, unwaiting (armedTask s t), ?_, trivial, rfl, armedTask_o s t, ?_⟩
    · rw [harm, if_neg (Bool.not_eq_false _ ▸ hv), if_neg (by omega), if_neg (by omega), if_neg (Bool.not_eq_false _ ▸ hroom)]; rfl
    · rw [goesOn_live, armed_live]; rfl
    · exact (goesOn_board _ _).2.1.trans (armed_sb s t)
  · refine ⟨_, exec_mgdrop hs hr, unwaiting { t with replays := [] }, ?_, trivial, rfl, rfl, fun e => ?_⟩
    · rw [goesOn_live, dropped_live]; rfl
    · rw [← mem_dropped_sb, ← (goesOn_board (dropped s t) s.cur).2.1]

/-- Settles O21: a tile is a run of elements in the bank, and a replay is queued or dropped with its entry. -/
theorem tilesAndManger : Obligations.TilesAndManger := ⟨tileForms_hold, mangerForms_hold⟩

end Sys2Proof.Proofs
end

section
/-!
PROOFS. A pass over a bound memory that lists an address twice (R238, R248, R268). Settles O46.
-/
namespace Sys2Proof.Proofs
open Machine Laws

/-- A pass of the first of the macros, which is in storage mode, into row 0 from column 0 on, in a call whose footprint is that one and that row. -/
def hiddenBoundOp : MicroOp := .upass 0 1 2 0 0 true false false 0
def hiddenBoundCall : Call :=
  { handle := 1, ctx := 1, tid := 1, word := some hiddenBoundOp, m := (Vector.replicate 8 0).set 7 0x10 }

/-- A core that runs the call. Its bounds are not in canonical form (`Mem.wf`): byte 1000 is listed as 1, and behind that as 2. -/
def hiddenBoundState : State :=
  { State.reset with
    cores := State.reset.cores.set 0 { avail := true, mx := { running := some hiddenBoundCall, bnd := [(1000, 1), (1000, 2)] } },
    dev := { power := .running }, turns := [] }

/-- Byte 1000 of the bounds after an outcome. -/
def boundByte : Out → Option Byte
  | .next s => some (s.unit.bnd.get 1000)
  | _ => none

/-- The byte that the pass leaves: the one behind. It differs from what the address reads as, so the pass takes it for a bound that has widened. -/
theorem hiddenBound_byte : boundByte (exec .upass hiddenBoundState) = some 2 := by decide +kernel

/-- Refutes O46: the statement speaks of every state, also of one whose bounds are not in canonical form. There a first pass changes a byte of the
bounds outside its columns. -/
theorem not_microStorageWords : ¬ Obligations.MicroStorageWords := by
  unfold Obligations.MicroStorageWords
  rintro ⟨-, -, hpass, -⟩
  obtain ⟨-, -, -, -, -, hgo⟩ := hpass hiddenBoundState hiddenBoundCall hiddenBoundOp rfl rfl
  obtain ⟨s', hs, -, -, -, -, -, -, -, -, -, hbnd, -⟩ :=
    hgo (by decide +kernel) ⟨by decide, by decide, by decide⟩ (by decide +kernel) rfl (by decide +kernel)
  have hb := hbnd (.inl rfl) 1000 (.inr (by decide +kernel))
  have he := hiddenBound_byte
  rw [show exec .upass hiddenBoundState = .next s' from hs] at he
  exact absurd ((Option.some.inj he).symm.trans hb) (by decide +kernel)

end Sys2Proof.Proofs
end

section
/-!
PROOFS. The machine right after reset (R244, R316, R463, R489). Settles O60.
-/
namespace Sys2Proof.Proofs
open Machine Laws

/-- Every core is alike after reset. -/
theorem reset_core (n : CoreId) : State.reset.core n = {} := Vector.getElem_replicate ..

/-- No queue pair has runtime after reset. -/
theorem reset_pairsLive : State.reset.pairsLive := fun _ h => absurd h List.not_mem_nil

/-- Nothing is listed in any memory after reset. -/
theorem reset_canonical : State.reset.canonical := by
  refine ⟨rfl, fun n => ?_⟩
  rw [reset_core]
  exact ⟨rfl, rfl, rfl, rfl, rfl, rfl, rfl⟩

/-- Settles O60: the device and each core are at the default values of their fields. -/
theorem resetState : Obligations.ResetState := by
  refine ⟨rfl, rfl, rfl, rfl, rfl, rfl, rfl, reset_pairsLive, reset_canonical, fun n => ?_⟩
  rw [reset_core]
  refine ⟨rfl, rfl, rfl, rfl, rfl, rfl, fun i => ?_⟩
  have hmac : ({} : Core).mx.macros[i] = {} := Vector.getElem_replicate ..
  rw [hmac]
  exact ⟨rfl, rfl, rfl⟩

end Sys2Proof.Proofs
end

section
/-!
PROOFS. The matrix unit's owner, and the instructions on its macros: modes, calibrations and descriptors (R253, R254, R258 to R260, R262). Settles O22.
-/
namespace Sys2Proof.Proofs
open Machine Laws

/-! ## The owner (R262) -/

/-- Each form that only the owner's tasks may perform asks for the owner before anything else. -/
theorem exec_eq_onUnit {i : Instr} (h : ownerChecked i = true) (s : State) : ∃ f, exec i s = onUnit f s := by
  cases i
  case mmodeS | mmodeC | mmodeRd | mcal | mcalRd | mdescRd | mdescWr | mpw | mpr | mstat | mstatClip | mcwait | mcwaitAll | mdrainA |
    mdrainB | mdrainU | mrestA | mrestB | mrestU | mzero => exact ⟨_, rfl⟩
  all_goals cases h

section
variable {s : State} {t : Task}

theorem onUnit_other (hs : s.live = some t) (ho : (s.core s.cur).mx.owner ≠ some t.ctx) (f : Task → Act) :
    onUnit f s = .next (s.traps t 0x09 0 (s.core s.cur).mx.ownWord) := by
  rw [onUnit_live hs, if_neg (show ¬ s.unit.owner = some t.ctx from ho)]
  rfl

theorem ownerAlone_holds : ownerAlone := by
  intro s t i hs hi ho
  obtain ⟨f, hf⟩ := exec_eq_onUnit hi s
  rw [hf, onUnit_other hs ho]

variable (hs : s.live = some t) (ho : (s.core s.cur).mx.owner = some t.ctx)
include hs ho

theorem onUnit_owner (f : Task → Act) : onUnit f s = .next (s.settle t (f t)) := by
  rw [onUnit_live hs, if_pos (show s.unit.owner = some t.ctx from ho)]

/-- An instruction of the owner that performs at once. -/
theorem onUnit_ok {f : Task → Act} {r : State} (hf : f t = .ok r) : onUnit f s = .next r.goesOn := by
  rw [onUnit_owner hs ho, hf]; rfl

end

/-- An instruction that changes the current core's unit and goes on, by what it leaves in each of the macros. -/
theorem leads_macros {s : State} {i : Instr} {g : MatUnit → MatUnit} {m : Fin 64 → MacroSt} (hx : exec i s = .next (s.modUnit s.cur g).goesOn)
    (hm : ∀ j : Fin 64, (g (s.core s.cur).mx).macros[j] = m j) :
    Leads i s fun s' => s'.wentOn ∧ ∀ j : Fin 64, (s'.core s.cur).mx.macros[j] = m j := by
  refine ⟨_, hx, trivial, fun j => ?_⟩
  have hmx : ((s.modUnit s.cur g).goesOn.core s.cur).mx = ((s.modUnit s.cur g).core s.cur).mx := endWait_proj (·.mx) _ _ fun _ _ _ => rfl
  rw [hmx, modUnit_core_self, ← hm]

/-! ## Holds on the macros' storage (R145) -/

/-- An access performs when nothing holds it. -/
theorem unitAccess_free {s : State} {t : Task} {drain write : Bool} {ps : List (SbSpace × Nat × Nat)}
    (h : s.unitHold t drain write ps = none) (a : Act) : s.unitAccess t drain write ps a = a := by
  rw [State.unitAccess, h]

/-- Nothing holds an access to several intervals when nothing holds one to any of them. -/
theorem unitHold_none_of_each {s : State} {t : Task} {drain write : Bool} {ps : List (SbSpace × Nat × Nat)}
    (h : ∀ p ∈ ps, s.unitHold t drain write [p] = none) : s.unitHold t drain write ps = none := by
  simp only [State.unitHold, List.findSome?_eq_none_iff, ite_eq_left_iff, Option.map_eq_none_iff, List.find?_eq_none,
    List.mem_singleton, forall_eq] at h ⊢
  exact fun e he hc p hp => h p hp e he hc

theorem mem_maskMacros (v : W64) (i : Fin 64) : i ∈ maskMacros v ↔ v.getLsbD i.val = true := by
  simp [maskMacros]

theorem nodup_maskMacros (v : W64) : (maskMacros v).Nodup := (List.nodup_finRange 64).filter _

theorem unitHold_maskMacros {s : State} {t : Task} {v : W64} (h : macrosFree s t v) :
    s.unitHold t false true ((maskMacros v).map macroSpan) = none := by
  refine unitHold_none_of_each fun p hp => ?_
  obtain ⟨i, hi, rfl⟩ := List.mem_map.1 hp
  exact h i ((mem_maskMacros v i).1 hi)

/-! ## Named macros changed -/

/-- The named macros changed are changed once each, and the others are as before. -/
theorem modMacros_macros (f : MacroSt → MacroSt) (j : Fin 64) : ∀ {is : List (Fin 64)}, is.Nodup → ∀ m : MatUnit,
    (m.modMacros is f).macros[j] = if j ∈ is then f m.macros[j] else m.macros[j]
  | [], _, m => by simp [MatUnit.modMacros]
  | i :: is, h, m => by
    obtain ⟨hi, hnd⟩ := List.nodup_cons.1 h
    have ih := modMacros_macros f j hnd (m.modMacro i f)
    rw [show (m.modMacros (i :: is) f) = (m.modMacro i f).modMacros is f from rfl, ih]
    by_cases hj : j = i
    · subst hj
      rw [if_neg hi, if_pos List.mem_cons_self, modMacro_macros_self]
    · simp [modMacro_macros_ne m hj, hj]

/-- A change of macros leaves the running call. -/
theorem modMacros_running (f : MacroSt → MacroSt) (is : List (Fin 64)) : ∀ m : MatUnit, (m.modMacros is f).running = m.running := by
  induction is with
  | nil => exact fun _ => rfl
  | cons i is ih => exact fun m => ih (m.modMacro i f)

/-- The macros that a mask names, changed. -/
theorem modMacros_mask (m : MatUnit) (v : W64) (f : MacroSt → MacroSt) (i : Fin 64) :
    (m.modMacros (maskMacros v) f).macros[i] = if v.getLsbD i.val then f m.macros[i] else m.macros[i] := by
  rw [modMacros_macros f i (nodup_maskMacros v)]
  simp only [mem_maskMacros]

/-- The same, with the held calibrations started. -/
theorem startHeld_modMacros_mask (m : MatUnit) (v : W64) (f : MacroSt → MacroSt) (i : Fin 64) :
    (m.modMacros (maskMacros v) f).startHeld.macros[i] =
      heldStarts m.running i (if v.getLsbD i.val then f m.macros[i] else m.macros[i]) := by
  rw [startHeld_macros, modMacros_mask, modMacros_running]

/-- The word made of a bit for each of the macros. -/
theorem getLsbD_sum_finRange (f : Fin 64 → Bool) (i : Fin 64) :
    (w64 ((List.finRange 64).map fun i => bit (f i) * 2 ^ i.val).sum).getLsbD i.val = f i := by
  have hmap : ((List.finRange 64).map fun i => bit (f i) * 2 ^ i.val) = (List.range 64).map fun j => bit (f (Fin.ofNat 64 j)) * 2 ^ j := by
    rw [← List.map_coe_finRange_eq_range, List.map_map]
    exact List.map_congr_left fun k _ => by rw [Function.comp_apply, Fin.ofNat_val_eq_self]
  rw [hmap, getLsbD_sum_bits (fun j => f (Fin.ofNat 64 j)) i.isLt, Fin.ofNat_val_eq_self]

/-- The mode map, bit by bit (R258). -/
theorem modeMap_getLsbD (m : MatUnit) (i : Fin 64) : m.modeMap.getLsbD i.val = m.macros[i].compute :=
  getLsbD_sum_finRange (fun i => m.macros[i].compute) i

/-! ## The forms -/

/-- A field of one bit holds that bit. -/
theorem fld_bit (v : W64) (n : Nat) : v.fld n 1 = bit (v.getLsbD n) := by
  rw [W64.fld, bits, pow_one, ← Nat.toNat_testBit, BitVec.testBit_toNat]
  cases v.getLsbD n <;> rfl

theorem macroSel_eq (v : W64) : macroSel v = Fin.ofNat 64 (v.toNat % 64) := by rw [macroSel, fld_zero]; rfl

theorem fld_from_one (v : W64) : v.fld 1 63 = v.toNat / 2 := by
  have := v.isLt
  rw [W64.fld, bits]
  omega

/-- The half of a descriptor that a bit selects (R260). -/
theorem w64_bits_half (d : Nat) (b : Bool) : w64 (bits d (64 * bit b) 64) = BitVec.ofNat 64 (if b then d / 2 ^ 64 else d % 2 ^ 64) := by
  cases b <;> exact BitVec.eq_of_toNat_eq (by simp [w64, bits, bit])

/-- What `mcal` asks of the macros that it names, and of those that it does not (R259). -/
theorem pend_of_named (x : MacroSt) (named : Bool) :
    (if named then if x.busy then x else { x with pend := true } else x) = if named && !x.busy then { x with pend := true } else x := by
  cases named
  · rfl
  · cases x.busy <;> simp

/-- None of the named macros holds `mmode.s` when none is BUSY or in compute mode for a call (R254). -/
theorem none_holds_storage {c : Core} {v : W64} (h : ∀ i : Fin 64, v.getLsbD i.val = true → c.mx.macros[i].busy = false ∧
    ∀ k ∈ c.allCalls, k.uses i = true → k.modes.getLsbD i.val = false) :
    ¬ ((maskMacros v).any fun i => c.mx.macros[i].busy || c.allCalls.any fun k => k.uses i && k.modes.getLsbD i.val) = true := by
  rw [Bool.not_eq_true, List.any_eq_false]
  intro i hi
  obtain ⟨hbusy, hcalls⟩ := h i ((mem_maskMacros v i).1 hi)
  rw [hbusy, Bool.false_or, Bool.not_eq_true, List.any_eq_false]
  intro k hk
  simpa using hcalls k hk

/-- What `mdesc.wr` leaves: half a descriptor written, and DIRTY (R260). -/
def withDescHalf (hi : Bool) (x : W64) (m : MacroSt) : MacroSt :=
  let d := m.desc.toNat
  { m with dirty := true, desc := BitVec.ofNat 128 (if hi then d % 2 ^ 64 + x.toNat * 2 ^ 64 else d / 2 ^ 64 * 2 ^ 64 + x.toNat) }

/-- The checks of `mdesc.wr`, in their order (R260). -/
theorem exec_mdescWr {s : State} {t : Task} (hs : s.live = some t) (ho : (s.core s.cur).mx.owner = some t.ctx) (a b : SReg) :
    let v := t.getS a
    let x := t.getS b
    let j : Fin 64 := Fin.ofNat 64 (v.toNat % 64)
    exec (.mdescWr a b) s = .next (s.settle t (
      if v.getLsbD 6 = true ∧ x.toNat / 2 ≠ 0 then s.bounds t x
      else if (s.core s.cur).mx.macros[j].compute = true then s.bounds t v
      else s.unitAccess t false true [macroSpan j] (.ok (s.modUnit s.cur (·.modMacro j (withDescHalf (v.getLsbD 6) x)))))) := by
  refine (onUnit_owner hs ho _).trans ?_
  simp only [macroSel_eq, fld_from_one, Bool.and_eq_true, bne_iff_ne]
  rfl

theorem macroForms_hold : macroForms := by
  intro s t a b d hs ho
  have hwr := exec_mdescWr hs ho a b
  dsimp only at hwr ⊢
  refine ⟨fun hfree => ?_, fun hfree hidle => ?_, ⟨_, fun i => modeMap_getLsbD _ i, onUnit_ok hs ho rfl⟩, ?_, ?_, fun hfree => ?_,
    fun h6 hb => ?_, fun hb hc => ?_, fun hb hc hfree => ?_⟩
  · exact leads_macros (onUnit_ok hs ho (unitAccess_free (unitHold_maskMacros hfree) _)) fun _ => startHeld_modMacros_mask ..
  · exact leads_macros (onUnit_ok hs ho ((unitAccess_free (unitHold_maskMacros hfree) _).trans (if_neg (none_holds_storage hidle))))
      fun _ => modMacros_mask ..
  · exact leads_macros (onUnit_ok hs ho rfl) fun _ =>
      (startHeld_modMacros_mask ..).trans (congrArg _ (pend_of_named ..))
  · refine onUnit_ok hs ho ?_
    simp only [macroSel_eq]
    rfl
  · refine onUnit_ok hs ho ?_
    simp only [macroSel_eq, fld_bit, w64_bits_half]
    exact unitAccess_free hfree _
  · rw [hwr, if_pos ⟨h6, hb⟩]; rfl
  · rw [hwr, if_neg fun h => h.2 (hb h.1), if_pos hc]; rfl
  · rw [if_neg fun h => h.2 (hb h.1), if_neg (Bool.not_eq_true _ ▸ hc), unitAccess_free hfree] at hwr
    refine leads_macros hwr fun i => ?_
    split
    next hi => subst hi; exact modMacro_macros_self ..
    next hi => exact modMacro_macros_ne _ hi _

/-- Settles O22: another context's task is refused before anything else, and each form of the owner's by what it leaves in all the macros. -/
theorem macroInstructions : Obligations.MacroInstructions := ⟨ownerAlone_holds, macroForms_hold⟩

end Sys2Proof.Proofs
end

section
/-!
PROOFS. The digital partial sum of a unit of rows as a dot product of two's-complement numbers (R13, R232, R234, R235, R240). Settles O47.
-/
namespace Sys2Proof.Proofs
open Machine Laws Finset

/-! ## Two's complement as a sum over bits (R13) -/

/-- What bit `i` counts in a two's-complement number of `n` bits. -/
def place (n i : Nat) : Int := if i = n - 1 then -2 ^ i else 2 ^ i

/-- Below the top bit, a place is a power of two. -/
theorem place_of_lt {m i : Nat} (h : i < m) : place (m + 1) i = 2 ^ i := if_neg (by omega)

/-- The top bit counts negative. -/
theorem place_top (m : Nat) : place (m + 1) m = -2 ^ m := if_pos rfl

/-- The list sums of the model are sums over a range. -/
theorem sum_map_range {M : Type} [AddCommMonoid M] (f : Nat → M) (n : Nat) : ((List.range n).map f).sum = ∑ i ∈ range n, f i := rfl

/-- The low bits of a number, as the sum of the powers that they stand for. -/
theorem mod_two_pow_eq_sum (v n : Nat) : ((v % 2 ^ n : Nat) : Int) = ∑ i ∈ range n, if v.testBit i then 2 ^ i else 0 := by
  induction n with
  | zero => simp [Nat.mod_one]
  | succ n ih =>
    rw [sum_range_succ, ← ih, Nat.mod_pow_succ, ← Nat.toNat_testBit]
    cases v.testBit n <;> simp

/-- A two's-complement number is the sum of its bits, each counting at its place. -/
theorem intOf_eq_sum_places {n : Nat} (hn : 0 < n) (v : Nat) : intOf true n v = ∑ i ∈ range n, if v.testBit i then place n i else 0 := by
  obtain ⟨m, rfl⟩ := Nat.exists_eq_add_of_lt hn
  simp only [Nat.zero_add]
  have hlow : ∑ i ∈ range m, (if v.testBit i then place (m + 1) i else 0) = ((v % 2 ^ m : Nat) : Int) := by
    rw [mod_two_pow_eq_sum]
    exact sum_congr rfl fun i hi => by rw [place_of_lt (mem_range.1 hi)]
  have hlt : v % 2 ^ m < 2 ^ m := Nat.mod_lt _ (Nat.two_pow_pos m)
  rw [sum_range_succ, hlow, place_top, intOf, Nat.mod_pow_succ, ← Nat.toNat_testBit]
  cases v.testBit m
  · simp [hlt]
  · simp [pow_succ]
    ring

/-! ## Activations and weights (R232, R234) -/

theorem rowActivation_eq_sum (x : Drive) (hw : x.width = 4 ∨ x.width = 8) (r : Nat) :
    rowActivation x r = ∑ j ∈ range x.width, if x.actBit r j then place x.width j else 0 := by
  unfold rowActivation Drive.actBit
  by_cases hr : r < x.slot.driven
  · rw [if_pos hr, intOf_eq_sum_places (by omega)]
    simp [hr, BitVec.testBit_toNat]
  · simp [hr]

theorem cellWeight_eq_sum (x : Drive) (r o : Nat) :
    cellWeight x r o = ∑ i ∈ range x.st.w, if x.cell r (x.col o i) then place x.st.w i else 0 := by
  have hw : 0 < x.st.w := by unfold MacroSt.w; split <;> decide
  have hsum : ((List.range x.st.w).map fun i => if x.cell r (x.col o i) then 2 ^ i else 0).sum =
      (List.range x.st.w).foldl (fun v i => if x.cell r (x.col o i) then v + 2 ^ i else v) 0 := by
    rw [← sum_bits_eq_foldl]
    simp [bit]
  rw [cellWeight, intOf_eq_sum_places hw, hsum]
  refine sum_congr rfl fun i hi => ?_
  rw [(foldl_bits (fun i => x.cell r (x.col o i)) x.st.w).2, decide_eq_true (mem_range.1 hi), Bool.true_and]

/-! ## The digital partial sum (R240) -/

/-- The rows that a count counts, one by one. -/
theorem count_eq_sum (x : Drive) (lo n c j : Nat) :
    (x.count lo n c j : Int) = ∑ r ∈ range n, if x.actBit (lo + r) j ∧ x.cell (lo + r) c then 1 else 0 := by
  rw [Drive.count, ← List.countP_eq_length_filter]
  induction n with
  | zero => rfl
  | succ n ih =>
    rw [List.range_succ, List.countP_append, sum_range_succ, Nat.cast_add, ih]
    simp [List.countP_singleton]

/-- The sign and the power with which R240 weighs a count are the places of the two bits that it counts. -/
theorem weighed_eq_places (w n i j : Nat) (c : Int) :
    (if (i == w - 1) != (j == n - 1) then -(2 ^ (i + j) * c) else 2 ^ (i + j) * c) = place n j * place w i * c := by
  have hpow : (2 : Int) ^ (i + j) * c = 2 ^ j * 2 ^ i * c := by rw [pow_add, mul_comm (2 ^ i : Int)]
  rw [hpow, place, place]
  by_cases hi : i = w - 1 <;> by_cases hj : j = n - 1 <;> simp [hi, hj]

/-- A partial sum without analog bits, as a sum over bits of activations and of weights. -/
theorem partial_eq_sum (x : Drive) (u o : Nat) (ha : x.analog = 0) :
    x.partial_ u o = ∑ j ∈ range x.width, ∑ i ∈ range x.st.w,
      place x.width j * place x.st.w i * x.count (u * x.rows) x.rows (x.col o i) j := by
  rw [Drive.partial_, List.flatMap_def, List.sum_flatten, List.map_map, sum_map_range]
  refine sum_congr rfl fun j _ => ?_
  refine (sum_map_range ..).trans (sum_congr rfl fun i _ => ?_)
  rw [weighed_eq_places, Drive.n, if_pos (by omega)]

/-- Settles O47: both sides are the sum over rows, activation bits and weight bits of the product of the two places. -/
theorem digitalPartialSumsAreExact : Obligations.DigitalPartialSumsAreExact := by
  intro x u o ha hw
  calc x.partial_ u o
      = ∑ j ∈ range x.width, ∑ i ∈ range x.st.w, ∑ r ∈ range x.rows,
          (if x.actBit (u * x.rows + r) j then place x.width j else 0) *
            (if x.cell (u * x.rows + r) (x.col o i) then place x.st.w i else 0) := by
        rw [partial_eq_sum x u o ha]
        refine sum_congr rfl fun j _ => sum_congr rfl fun i _ => ?_
        rw [count_eq_sum, mul_sum]
        refine sum_congr rfl fun r _ => ?_
        cases x.actBit (u * x.rows + r) j <;> cases x.cell (u * x.rows + r) (x.col o i) <;> simp
    _ = ∑ r ∈ range x.rows, rowActivation x (u * x.rows + r) * cellWeight x (u * x.rows + r) o := by
        simp only [rowActivation_eq_sum x hw, cellWeight_eq_sum, sum_mul_sum]
        exact sum_comm_cycle
    _ = _ := (sum_map_range _ _).symm

end Sys2Proof.Proofs
end

section
/-!
PROOFS. Parameters, the microprogram store and the status words of calls (R262, R264, R276, R285, R286). Settles O23.
-/
namespace Sys2Proof.Proofs
open Machine Laws

/-! ## What an instruction on the unit leaves -/

/-- An instruction that goes on leaves the unit that it made. -/
theorem goesOn_mx (s : State) (n : CoreId) : (s.goesOn.core n).mx = (s.core n).mx := endWait_proj (·.mx) _ n fun _ _ _ => rfl

/-- The unit of the current core, changed by an instruction that goes on. -/
theorem modUnit_goesOn_mx (s : State) (g : MatUnit → MatUnit) : ((s.modUnit s.cur g).goesOn.core s.cur).mx = g (s.core s.cur).mx := by
  rw [goesOn_mx, modUnit_core_self]

section
variable {s : State} {t : Task} (hs : s.live = some t) (ho : (s.core s.cur).mx.owner = some t.ctx)
include hs ho

/-- An access of the owner to the unit's storage, once nothing holds it. -/
theorem onUnit_access {f : Task → Act} {drain write : Bool} {ps : List (SbSpace × Nat × Nat)} {r : State}
    (hf : f t = s.unitAccess t drain write ps (.ok r)) (hfree : s.unitHold t drain write ps = none) : onUnit f s = .next r.goesOn :=
  onUnit_ok hs ho (hf.trans (unitAccess_free hfree _))

/-- What fails a check of an instruction of the owner. -/
theorem onUnit_bounds {f : Task → Act} {v : W64} (hf : f t = s.bounds t v) : onUnit f s = .next (s.traps t 0x09 0 v) := by
  rw [onUnit_owner hs ho, hf]; rfl

/-- A wait of an instruction of the owner. -/
theorem onUnit_waits {f : Task → Act} {w : Wait} (hf : f t = .wait s w) : onUnit f s = .next (s.registerWait t w) := by
  rw [onUnit_owner hs ho, hf]; rfl
end

/-! ## Words and handles -/

/-- A word of the store after another or the same was written. -/
theorem num_setNum_word (m : Mem) (i q : Nat) (v : W64) : (m.setNum (q * 8) 8 v.toNat).num (i * 8) 8 = if i = q then v.toNat else m.num (i * 8) 8 := by
  split
  next h => rw [h, num_setNum]; exact Nat.mod_eq_of_lt v.isLt
  next h =>
    refine num_write_outside _ _ _ _ _ ?_
    rw [leBytes_length]
    omega

section
variable {t : Task} {h : BitVec 32}

/-- What a handle reads as that the unit keeps (R276). -/
theorem statusWord_kept {r : CallStatus} (hr : t.stats.find? (·.handle == h) = some r) : t.statusWord h = r.status := by
  rw [Task.statusWord, Task.statusOf, hr]

/-- What a handle reads as that the unit does not keep: 0 before it is issued, and EXP after. -/
theorem statusWord_unkept (hr : t.stats.find? (·.handle == h) = none) : t.statusWord h =
    if h = 0 ∨ (t.wrapped = false ∧ t.ctl.lasth.toNat < h.toNat) then 0 else BitVec.ofNat 64 (2 ^ 55 + h.toNat) := by
  simp only [Task.statusWord, Task.statusOf, hr, Bool.not_eq_true']
  rfl
end

/-- A word of a clip map (R286). -/
theorem clipWord_eq (x : BitVec 512) (j : Nat) : w64 (bits x.toNat (64 * j) 64) = (x >>> (64 * j)).setWidth 64 := by
  apply BitVec.eq_of_toNat_eq
  rw [word_toNat, w64, BitVec.toNat_ofNat, bits, Nat.mod_mod, digit]

/-! ## The forms -/

section
variable {s : State} {t : Task} (hs : s.live = some t)
include hs

/-- `mucw` writes its word once no call is outstanding (R285). -/
theorem mucw_performs {a b : SReg} (hk : (s.cctx t).sup = true) (hc : (s.core s.cur).callsOutstanding = false) : exec (.mucw a b) s =
    .next (s.modUnit s.cur fun m => { m with ucode := m.ucode.setNum ((t.getS a).fld 0 13 * 8) 8 (t.getS b).toNat }).goesOn :=
  issue_ok hs (by rw [hk, hc]; rfl)

theorem mucw_waits {a b : SReg} (hk : (s.cctx t).sup = true) (hc : (s.core s.cur).callsOutstanding = true) : exec (.mucw a b) s =
    .next (s.registerWait t { okind := 0x0B, obj := callObj s.cur 0 }) :=
  issue_waits hs (by rw [hk, hc]; rfl)

variable (ho : (s.core s.cur).mx.owner = some t.ctx)
include ho

theorem exec_mstat (d a : SReg) : exec (.mstat d a) s = .next (s.thenTask (t.setS d (t.statusWord ((t.getS a).setWidth 32)))) := by
  rw [← ofNat_fld_handle]
  exact onUnit_ok hs ho rfl

theorem mstatClip_kept {a : SReg} {r : CallStatus} (hr : t.stats.find? (·.handle == (t.getS a).setWidth 32) = some r) (d b : SReg) :
    exec (.mstatClip d a b) s = .next (s.thenTask (t.setS d ((r.clip >>> (64 * ((t.getS b).toNat % 8))).setWidth 64))) := by
  refine onUnit_ok hs ho ?_
  simp only [Task.statusOf, ofNat_fld_handle, hr, fld_zero (t.getS b), clipWord_eq]
  rfl

theorem mstatClip_unkept {a : SReg} (hr : t.stats.find? (·.handle == (t.getS a).setWidth 32) = none) (d b : SReg) :
    exec (.mstatClip d a b) s = .next (s.thenTask (t.setS d 0)) := by
  refine onUnit_ok hs ho ?_
  simp only [Task.statusOf, ofNat_fld_handle, hr, bits, Nat.zero_div, Nat.zero_mod]
  rfl

/-- No wait for a handle of which the unit keeps no status, or one that is DONE (R286). -/
theorem mcwait_ends {a : SReg} (h : ∀ r, t.stats.find? (·.handle == (t.getS a).setWidth 32) = some r → r.status.getLsbD 63 = true) :
    exec (.mcwait a) s = .next s.goesOn := by
  refine onUnit_ok hs ho ?_
  simp only [Task.statusOf, ofNat_fld_handle]
  cases hr : t.stats.find? (·.handle == (t.getS a).setWidth 32) with
  | none => rfl
  | some r => exact if_pos (h r hr)

theorem mcwait_waits {a : SReg} {r : CallStatus} (hr : t.stats.find? (·.handle == (t.getS a).setWidth 32) = some r)
    (hd : r.status.getLsbD 63 = false) :
    exec (.mcwait a) s = .next (s.registerWait t { okind := 0x0B, obj := callObj s.cur ((t.getS a).setWidth 32) }) := by
  refine onUnit_waits hs ho ?_
  simp only [Task.statusOf, ofNat_fld_handle, hr, hd]
  rfl

theorem mcwaitAll_ends (h : (s.core s.cur).openCalls t.tid = []) : exec .mcwaitAll s = .next s.goesOn :=
  onUnit_ok hs ho (by simp only [h])

/-- The wait is for the oldest of the calls. -/
theorem mcwaitAll_waits {k : Call} {ks : List Call} (h : (s.core s.cur).openCalls t.tid = k :: ks) :
    exec .mcwaitAll s = .next (s.registerWait t { okind := 0x0B, obj := callObj s.cur k.handle }) :=
  onUnit_waits hs ho (by simp only [h])
end

/-- Settles O23: the store by its words, and a handle by what the unit keeps of it. -/
theorem unitRegistersAndStatus : Obligations.UnitRegistersAndStatus := by
  unfold Obligations.UnitRegistersAndStatus
  intro s t a b d m hs
  dsimp only
  refine ⟨fun hk => ?_, fun hk hc => ?_, fun hk hc => ⟨_, rfl, mucw_waits hs hk hc⟩, ?_, fun ho => ⟨?_, ?_, ?_, ?_, ?_, ?_, ?_, fun hn => ?_⟩⟩
  · exact issue_ok hs (by rw [hk]; rfl)
  · refine ⟨_, mucw_performs hs hk hc, trivial, fun i => ?_⟩
    rw [modUnit_goesOn_mx, fld_zero]
    exact num_setNum_word ..
  · rw [exec_of_onTask hs (f := fun t => t.setS d (s.unit.word ((t.getS a).fld 0 13))) rfl, fld_zero]
    rfl
  · exact onUnit_ok hs ho rfl
  · exact onUnit_ok hs ho rfl
  · rw [exec_mstat hs ho]
    cases hr : t.stats.find? (·.handle == (t.getS a).setWidth 32) with
    | none => rw [statusWord_unkept hr]
    | some r => rw [statusWord_kept hr]
  · cases hr : t.stats.find? (·.handle == (t.getS a).setWidth 32) with
    | none => exact mstatClip_unkept hs ho hr d b
    | some r => exact mstatClip_kept hs ho hr d b
  · exact mcwait_ends hs ho
  · exact fun r hr hd => ⟨_, rfl, mcwait_waits hs ho hr hd⟩
  · exact mcwaitAll_ends hs ho
  · obtain ⟨k, ks, hk⟩ := List.exists_cons_of_ne_nil hn
    exact ⟨_, rfl, mcwaitAll_waits hs ho hk⟩

end Sys2Proof.Proofs
end

section
/-!
PROOFS. Matrix calls and `mtacc`: a new handle, the checks in their order, and what joins the queue (R262, R271 to R273, R276, R289). Settles O24.
-/
namespace Sys2Proof.Proofs
open Machine Laws

/-! ## A new handle (R276) -/

/-- The status that a new handle begins with. -/
def newStatus (t : Task) : CallStatus := { handle := nextHandle t.ctl.lasth, status := (nextHandle t.ctl.lasth).setWidth 64 }

/-- Of the statuses kept, the newest is that of the new handle. -/
theorem newHandle_stats (t : Task) : t.newHandle.2.stats = t.stats.drop ((t.stats ++ [newStatus t]).length - 16) ++ [newStatus t] :=
  List.drop_append_of_le_length (by rw [List.length_append, List.length_singleton]; omega)

theorem newHandle_statusOf (t : Task) : t.newHandle.2.statusOf (nextHandle t.ctl.lasth) ≠ none := by
  rw [Task.statusOf, newHandle_stats, Ne, List.find?_eq_none]
  exact fun h => h (newStatus t) (List.mem_append_right _ List.mem_cons_self) (beq_self_eq_true _)

/-! ## What a call leaves -/

/-- The call that joins the queue: the parameters, modes and shapes of the moment (R273). -/
def newCall (s : State) (t : Task) (i : Fin 256) (p : Fin 16) (w : Fin 4) (rty : Bool) : Call :=
  { handle := nextHandle t.ctl.lasth, ctx := t.ctx, tid := t.tid, m := t.regs.m, idx := i, split := p.val, win := w.val, rty := rty,
    modes := (s.core s.cur).mx.modeMap, tdim := t.regs.tdim, serial := s.serial }

/-- The task with the call in its queue and the handle in the call's register. -/
def callingTask (s : State) (t : Task) (i : Fin 256) (p : Fin 16) (w : Fin 4) (d : SReg) (rty : Bool) : Task :=
  { t.newHandle.2 with calls := t.calls ++ [newCall s t i p w rty] }.setS d ((nextHandle t.ctl.lasth).setWidth 64)

/-- The entries that a call of the task takes now. -/
def newEntries (s : State) (t : Task) : List SbEntry :=
  callEntries (s.cctx t) (.call t.tid (nextHandle t.ctl.lasth)) t.regs.m[7] t.regs.m[6]

/-- The operation that joins those of the unit (R289). -/
def newMtacc (s : State) (t : Task) (f l mask : Nat) : MtAcc :=
  { serial := s.serial, handle := nextHandle t.ctl.lasth, ctx := t.ctx, tid := t.tid, first := f, last := l, todo := t.others mask }

/-- The entries of an `mtacc` on rows `f … l`: both stores, to be written. -/
def mtaccEntries (s : State) (t : Task) (f l : Nat) : List SbEntry :=
  [accSpan f l, bndSpan f l].map fun p =>
    { space := p.1, lo := p.2.1, hi := p.2.2, write := true, soft := false, ctx := (s.cctx t).ctx, owner := .call t.tid (nextHandle t.ctl.lasth) }

/-- What an instruction leaves that takes a handle: its task, the entries that it takes, and what it changes of the unit. -/
def issuedWith (s : State) (t' : Task) (es : List SbEntry) (g : MatUnit → MatUnit) : State :=
  (s.fresh.2.setLive t').modCore s.cur fun c => { c with sb := c.sb ++ es, mx := g c.mx }

section
variable (s : State) (t' : Task) (es : List SbEntry) (g : MatUnit → MatUnit)

theorem issuedWith_goesOn_live : (issuedWith s t' es g).goesOn.live = some (unwaiting t') := by
  have h : (issuedWith s t' es g).live = (s.fresh.2.setLive t').live := modCore_live _ _ fun _ => ⟨rfl, rfl⟩
  rw [goesOn_live, h, setLive_live]; rfl

theorem issuedWith_goesOn_sb : ((issuedWith s t' es g).goesOn.core s.cur).sb = (s.core s.cur).sb ++ es := by
  have h : ((s.fresh.2.setLive t').core s.cur).sb = (s.core s.cur).sb := setLive_proj (·.sb) _ _ _ fun _ _ => rfl
  rw [(goesOn_board _ _).2.1, issuedWith, modCore_core_self, ← h]

theorem issuedWith_goesOn_mx : ((issuedWith s t' es g).goesOn.core s.cur).mx = g (s.core s.cur).mx := by
  have h : ((s.fresh.2.setLive t').core s.cur).mx = (s.core s.cur).mx := setLive_proj (·.mx) _ _ _ fun _ _ => rfl
  rw [goesOn_mx, issuedWith, modCore_core_self, ← h]
end

/-! ## The task of an instruction that took a handle -/

/-- The register that receives the handle. -/
theorem getS_handle (t : Task) (d : SReg) (v : W64) : (t.setS d v).getS d = if d = 0 then 0 else v := by
  rw [getS_setS]
  by_cases hd : d = 0
  · rw [if_neg fun h => h.2 hd, if_pos hd, hd]; rfl
  · rw [if_pos ⟨rfl, hd⟩, if_neg hd]

theorem callingTask_spec (s : State) (t : Task) (i : Fin 256) (p : Fin 16) (w : Fin 4) (d : SReg) (rty : Bool) :
    let u := unwaiting (callingTask s t i p w d rty)
    u.calls = t.calls ++ [newCall s t i p w rty] ∧ u.getS d = (if d = 0 then 0 else (nextHandle t.ctl.lasth).setWidth 64) ∧
      u.ctl.lasth = nextHandle t.ctl.lasth ∧ u.statusOf (nextHandle t.ctl.lasth) ≠ none := by
  refine ⟨setS_calls .., getS_handle .., congrArg (·.lasth) (setS_ctl ..), ?_⟩
  have h : (unwaiting (callingTask s t i p w d rty)).stats = t.newHandle.2.stats := setS_stats ..
  rw [Task.statusOf, h]
  exact newHandle_statusOf t

/-! ## The checks of a call, in their order (R262, R271, R273) -/

section
variable {s : State} {t : Task} {i : Fin 256} {p : Fin 16} {w : Fin 4} {d : SReg} {rty : Bool} (hs : s.live = some t)
include hs

theorem matrixCall_in_exchange (hx : s.dev.phase.getLsbD 0 = true) : matrixCall i p w d rty s = .next (s.traps t 0x03 0 s.dev.phase) :=
  (issue_live hs _).trans (by rw [if_pos (show s.exchange = true from hx)]; rfl)

variable (hx : s.dev.phase.getLsbD 0 = false)
include hx

theorem matrixCall_of_other (ho : (s.core s.cur).mx.owner ≠ some t.ctx) :
    matrixCall i p w d rty s = .next (s.traps t 0x09 0 (s.core s.cur).mx.ownWord) :=
  (issue_live hs _).trans (by rw [show s.exchange = false from hx]; dsimp only; rw [if_pos ho]; rfl)

variable (ho : (s.core s.cur).mx.owner = some t.ctx)
include ho

theorem matrixCall_bad_footprint {x : W64} (hf : t.footFails (s.cctx t).psize = some x) :
    matrixCall i p w d rty s = .next (s.traps t 0x09 0 x) :=
  (issue_live hs _).trans (by rw [show s.exchange = false from hx]; dsimp only; rw [if_neg (not_not_intro ho), hf]; rfl)

theorem matrixCall_performs (hf : t.footFails (s.cctx t).psize = none) (h8 : ((s.core s.cur).openCalls t.tid).length < 8)
    (hr : (s.core s.cur).room t.ctx (newEntries s t).length = true) :
    matrixCall i p w d rty s = .next (issuedWith s (callingTask s t i p w d rty) (newEntries s t) id).goesOn := by
  have hroom : ¬ (!(s.core s.cur).room t.ctx (newEntries s t).length) = true := by rw [hr]; exact Bool.false_ne_true
  refine issue_ok hs ?_
  rw [show s.exchange = false from hx]
  dsimp only
  rw [if_neg (not_not_intro ho), hf]
  exact (if_neg (Nat.not_le.2 h8)).trans (if_neg hroom)

end

/-! ## The checks of `mtacc` (R289) -/

theorem exec_mtacc {s : State} {t : Task} (hs : s.live = some t) (d a b : SReg) :
    let f := (t.getS b).toNat % 128
    let l := (t.getS b).toNat / 256 % 128
    let mask := (t.getS a).toNat % 65536
    exec (.mtacc d a b) s = .next (s.settle t (
      if s.dev.phase.getLsbD 0 = false then s.phaseIllegal t
      else if (s.core s.cur).mx.owner ≠ some t.ctx then s.bounds t (s.core s.cur).mx.ownWord
      else if l < f then s.bounds t (t.getS b)
      else if 2 ^ (t.tsz.val + 1) ≤ mask then s.bounds t (t.getS a)
      else if (s.core s.cur).room t.ctx 2 = false then .wait s (s.boardWait t)
      else .ok (issuedWith s (t.newHandle.2.setS d ((nextHandle t.ctl.lasth).setWidth 64)) (mtaccEntries s t f l)
        fun u => { u with mtaccs := u.mtaccs ++ [newMtacc s t f l mask] }))) := by
  refine (issue_live hs _).trans ?_
  have hm (x : Nat) : x / 2 ^ (t.tsz.val + 1) ≠ 0 ↔ 2 ^ (t.tsz.val + 1) ≤ x := by
    rw [Nat.div_ne_zero_iff]; exact and_iff_right (Nat.two_pow_pos _).ne'
  simp only [fld_zero, Bool.not_eq_true', hm]
  rfl

/-- Settles O24: the checks one after the other, and what an instruction that passes them leaves of its task and its core. -/
theorem matrixCalls : Obligations.MatrixCalls := by
  unfold Obligations.MatrixCalls
  intro s t i p w d a b hs
  have hm := exec_mtacc hs d a b
  dsimp only at hm ⊢
  refine ⟨fun rty call hcall => ?_, fun hx => ?_, fun hx ho => ⟨fun h => ?_, fun h h2 => ?_, fun h h2 hr => ?_⟩⟩
  · have hc : exec call s = matrixCall i p w d rty s := by subst hcall; cases rty <;> rfl
    simp only [Leads, hc]
    refine ⟨matrixCall_in_exchange hs, matrixCall_of_other hs, fun hx ho x => matrixCall_bad_footprint hs hx ho, fun hx ho hf h8 hr => ?_⟩
    obtain ⟨hq, hd, hl, hst⟩ := callingTask_spec s t i p w d rty
    exact ⟨_, matrixCall_performs hs hx ho hf h8 hr, _, issuedWith_goesOn_live .., trivial, hq, hd, hl, hst, issuedWith_goesOn_sb ..⟩
  · rw [hm, if_pos hx]; rfl
  · rw [hm, if_neg (Bool.not_eq_false _ ▸ hx), if_neg (not_not_intro ho), if_pos h]; rfl
  · rw [hm, if_neg (Bool.not_eq_false _ ▸ hx), if_neg (not_not_intro ho), if_neg (Nat.not_lt.2 h), if_pos h2]; rfl
  · rw [if_neg (Bool.not_eq_false _ ▸ hx), if_neg (not_not_intro ho), if_neg (Nat.not_lt.2 h), if_neg (Nat.not_le.2 h2),
      if_neg (Bool.not_eq_false _ ▸ hr)] at hm
    refine ⟨_, hm, _, issuedWith_goesOn_live .., trivial, getS_handle .., congrArg (·.lasth) (setS_ctl ..), ?_, ?_⟩
    · exact congrArg (·.mtaccs) (issuedWith_goesOn_mx ..)
    · exact (congrArg List.length (issuedWith_goesOn_sb ..)).trans List.length_append

end Sys2Proof.Proofs
end

section
/-!
PROOFS. Drains and restores of accumulators, of bounds and of micro-state (R281, R282, R287, R288). Settles O25.
-/
namespace Sys2Proof.Proofs
open Machine Laws

/-! ## Bytes and bounds moved -/

/-- Bytes of a memory, moved to a register. -/
theorem writesLanes_of_read {i : Instr} {s : State} {t : Task} {d : VReg} {m : Mem} {a n : Nat}
    (hx : exec i s = .next (s.thenTask (t.setVBytes d (m.read a n)))) :
    WritesLanes i s t d 1 n fun j => ((m.get (a + j)).toNat, .none) := by
  refine ⟨t.regs.v.write (d.val * 16384) (m.read a n), fun j hj => ?_, fun x hx => ?_, ?_⟩
  · have hrun : (m.read a n).length = n := read_length ..
    rw [Nat.mul_one, Mem.num, read_write_within _ _ _ (by omega), take_drop_read m (by omega)]
    simp [Mem.read, leNat]
  · exact get_write_outside _ _ _ _ (by rwa [read_length, ← Nat.mul_one n])
  · rw [hx, condsOf_map, orAll_none, raise_none]
    rfl

/-- A byte of a memory into which a run of another's was moved. -/
theorem get_write_read (m v : Mem) (a b n x : Nat) :
    (m.write a (v.read b n)).get x = if a ≤ x ∧ x < a + n then v.get (b + (x - a)) else m.get x := by
  rw [get_write, read_length]
  split
  next h => simp [Mem.read, List.getD_eq_getElem?_getD, show x - a < n by omega]
  next => rfl

theorem restBound_eq (v : Nat) : restBound v = if 0x7F80 < v % 0x8000 then 0x7F80 else v % 0x8000 := rfl

theorem restBound_lt (v : Nat) : restBound v < 256 ^ 2 := by
  rw [restBound_eq]
  split <;> omega

/-- The bounds into which a register was restored: 16 rows of them, from row `f` on. -/
theorem num_restored (m : Mem) (t : Task) (d : VReg) (f j : Nat) :
    (m.write (f * 1024) ((t.elems d 2 8192).flatMap fun v => leBytes 2 (restBound v))).num (j * 2) 2 =
      if f * 512 ≤ j ∧ j < f * 512 + 8192 then restBound (t.getV d 2 (j - f * 512)) else m.num (j * 2) 2 := by
  have hlen : (t.elems d 2 8192).length = 8192 := by rw [elems_eq_map, List.length_map, List.length_range]
  split
  next h =>
    obtain ⟨i, rfl⟩ := Nat.exists_eq_add_of_le h.1
    have hi : i < (t.elems d 2 8192).length := by omega
    have hv : (t.elems d 2 8192)[i] = t.getV d 2 i := by simp only [elems_eq_map, List.getElem_map, List.getElem_range]
    rw [show (f * 512 + i) * 2 = f * 1024 + i * 2 by omega, num_write_leBytes _ _ _ _ _ hi, hv, Nat.add_sub_cancel_left,
      Nat.mod_eq_of_lt (restBound_lt _)]
  next h =>
    refine num_write_outside _ _ _ _ _ ?_
    rw [length_flatMap_leBytes, hlen]
    omega

/-! ## The image of a micro-state (R282) -/

theorem expBytes_length (x : USlot) : x.expBytes.length = 16 := by
  simp [USlot.expBytes, zeroBytes]

/-- An image has 8 KiB. -/
theorem microImage_length (s : State) (n : CoreId) (t : Task) : (s.microImage n t).length = 8192 := by
  have hpad (m : Nat) (bs : List Byte) : ((bs ++ zeroBytes m).take m).length = m := by simp [zeroBytes]
  have hzero (m : Nat) : (zeroBytes m).length = m := List.length_replicate
  unfold State.microImage
  simp only [List.length_append, List.length_flatMap, leBytes_length, expBytes_length, hpad, hzero, List.map_const', List.sum_replicate,
    Vector.length_toList, List.length_range, smul_eq_mul]

/-! ## The forms -/

/-- The calls that `mrest.u` takes from an image (R287). -/
def imageCalls (s : State) (t : Task) (bs : List Byte) : List Call :=
  (List.range (imgNum bs 0 8 % 16)).map fun i => { imageCall bs t i with serial := s.serial + i }

/-- The task with the calls and the statuses of an image. -/
def imagedTask (s : State) (t : Task) (bs : List Byte) : Task :=
  let stats := imageStats bs t.ctl.lasth
  { t with
    calls := imageCalls s t bs, stats := stats,
    late := ((imageCalls s t bs).filter fun k => stats.all (·.handle != k.handle)).map fun k => { handle := k.handle, status := k.handle.setWidth 64 } }

/-- What `mrest.u` leaves: the image's calls hold their entries again. -/
def imaged (s : State) (t : Task) (bs : List Byte) : State :=
  let q := ({ s with serial := s.serial + 8 } : State).setLive (imagedTask s t bs)
  q.modCore s.cur fun c =>
    { c with sb := c.sb ++ (imageCalls s t bs).flatMap fun k => callEntries (q.cctx t) (.call t.tid k.handle) k.m[7] k.m[6] }

theorem imaged_live (s : State) (t : Task) (bs : List Byte) : (imaged s t bs).live = some (imagedTask s t bs) := by
  rw [imaged, withSb_live, setLive_live]

theorem imagedTask_calls_length (s : State) (t : Task) (bs : List Byte) : (imagedTask s t bs).calls.length = imgNum bs 0 8 % 16 := by
  rw [imagedTask, imageCalls, List.length_map, List.length_range]

/-- The image that a register holds is taken (R287). -/
def ImageTaken (s : State) (t : Task) (bs : List Byte) : Prop :=
  (s.core s.cur).mx.frozen = true ∧ imageOk bs = true ∧ (s.core s.cur).callsOut t = 0

/-- A task that has taken an image, once it goes on. -/
theorem imaged_goesOn (s : State) (t : Task) (bs : List Byte) : ∃ t', (imaged s t bs).goesOn.live = some t' ∧
    (imaged s t bs).goesOn.wentOn ∧ t'.regs = t.regs ∧ t'.calls.length = leNat (bs.take 8) % 16 ∧
    t'.calls = (List.range t'.calls.length).map (fun i => { imageCall bs t i with serial := s.serial + i }) ∧
    t'.stats = imageStats bs t.ctl.lasth ∧ t'.late = (t'.calls.filter fun k => t'.stats.all (·.handle != k.handle)).map fun k =>
      ({ handle := k.handle, status := k.handle.setWidth 64 } : CallStatus) := by
  refine ⟨unwaiting (imagedTask s t bs), ?_, trivial, rfl, imagedTask_calls_length s t bs, ?_, rfl, rfl⟩
  · rw [goesOn_live, imaged_live]
    rfl
  · change _ = (List.range (imagedTask s t bs).calls.length).map _
    rw [imagedTask_calls_length]
    rfl

section
variable {s : State} {t : Task} (hs : s.live = some t) (ho : (s.core s.cur).mx.owner = some t.ctx)
include hs ho

theorem mrestU_performs {d : VReg} (h : ImageTaken s t (t.getVBytes d 8192)) : exec (.mrestU d) s = .next (imaged s t (t.getVBytes d 8192)).goesOn := by
  obtain ⟨hz, hok, hout⟩ := h
  refine onUnit_ok hs ho (if_neg ?_)
  simp [hz, hok, hout]

theorem mrestU_refused {d : VReg} (h : ¬ ImageTaken s t (t.getVBytes d 8192)) :
    exec (.mrestU d) s = .next (s.traps t 0x09 0 (BitVec.ofNat 64 (leNat ((t.getVBytes d 8192).take 8)))) := by
  refine onUnit_bounds hs ho (if_pos ?_)
  by_contra hn
  simp only [Bool.or_eq_true, Bool.not_eq_true', bne_iff_ne, not_or, Bool.not_eq_false, not_not] at hn
  obtain ⟨⟨hz, hok⟩, hout⟩ := hn
  exact h ⟨hz, hok, hout⟩
end

/-- Settles O25: each form by what it moves, and the rows by where they stand in their store. -/
theorem drainsAndRestores : Obligations.DrainsAndRestores := by
  unfold Obligations.DrainsAndRestores
  intro s t d a hs ho
  have hf : (t.getS a).fld 0 7 = (t.getS a).toNat % 128 := fld_zero ..
  have hl : (t.getS a).fld 8 7 = (t.getS a).toNat / 256 % 128 := rfl
  have hrows {f l : Nat} (h : f ≤ l) : f + (l - f + 1) = l + 1 := by omega
  dsimp only
  rw [← hf, ← hl]
  refine ⟨fun h => ⟨onUnit_bounds hs ho (if_pos h), onUnit_bounds hs ho (if_pos h)⟩,
    fun h => ⟨onUnit_bounds hs ho (if_pos h), onUnit_bounds hs ho (if_pos h)⟩, fun h hfree => ?_, fun h hfree => ?_, fun h hfree => ?_,
    fun h hfree => ?_, fun h => ?_, fun h hfree => ?_, ?_, fun h => ?_, fun h => ?_⟩
  · exact writesLanes_of_read (onUnit_access hs ho (if_neg (not_not_intro h)) hfree)
  · exact writesLanes_of_read (onUnit_access hs ho (if_neg (not_not_intro h)) hfree)
  · refine ⟨_, onUnit_access hs ho (if_neg (not_not_intro h)) hfree, trivial, fun j => ?_⟩
    rw [modUnit_goesOn_mx]
    exact get_write_read ..
  · refine ⟨_, onUnit_access hs ho (if_neg (not_not_intro h)) hfree, trivial, fun j => ?_⟩
    rw [modUnit_goesOn_mx]
    exact num_restored ..
  · exact onUnit_bounds hs ho (if_pos h)
  · refine ⟨_, onUnit_access hs ho (if_neg (Nat.not_lt.2 h)) hfree, trivial, fun j => ?_, fun j => ?_⟩
    · rw [modUnit_goesOn_mx, get_zero, ← Nat.add_mul, hrows h]
    · rw [modUnit_goesOn_mx, get_zero, ← Nat.add_mul, hrows h]
  · refine ⟨_, onUnit_ok hs ho rfl, _, thenTask_live s _, trivial, ?_, rfl⟩
    exact (congrArg _ (microImage_length s s.cur t).symm).trans (read_write ..)
  · exact mrestU_refused hs ho h
  · exact ⟨_, mrestU_performs hs ho h, imaged_goesOn ..⟩

end Sys2Proof.Proofs
end

section
/-!
PROOFS. The micro-words that act on the call's own registers (R266, R267, R269; log entries 57, 58). Settles O45.
-/
namespace Sys2Proof.Proofs
open Machine Laws

/-! ## How a micro-word ends -/

/-- A change of the running call, as the call that runs then. -/
theorem modRun_eq {s : State} {k : Call} (hr : s.unit.running = some k) (f : Call → Call) :
    s.modRun f = s.modUnit s.cur fun u => { u with running := some (f k) } := by
  have hu : (s.core s.cur).mx.running = some k := hr
  simp only [State.modRun, State.modUnit, State.modCore, hu, Option.map_some]

/-- Two changes of the running call are one. -/
theorem modRun_modRun (s : State) (f g : Call → Call) : (s.modRun f).modRun g = s.modRun fun k => g (f k) := by
  simp only [State.modRun, State.modUnit, modCore_cur, modCore_modCore, Option.map_map]
  rfl

section
variable {s : State} {k : Call} {o : MicroOp} {f : Call → MicroOp → Option MAct} (hr : s.unit.running = some k) (hw : k.word = some o)
include hr hw

theorem micro_performs {q : State} (hf : f k o = some (.ok q)) : micro s f = .next (q.modRun fun k => { k with word := none }) := by
  rw [micro, hr, Option.bind_some, hw, Option.bind_some, hf]

/-- A word that changes the call, and nothing else. -/
theorem runsTo_of_modRun {g : Call → Call} (hx : exec o.instr s = micro s f) (hf : f k o = some (.ok (s.modRun g))) : RunsTo o.instr s (g k) := by
  rw [RunsTo, hx, micro_performs hr hw hf, modRun_modRun, modRun_eq hr]

/-- A word that changes nothing. -/
theorem runsTo_of_same (hx : exec o.instr s = micro s f) (hf : f k o = some (.ok s)) : RunsTo o.instr s k := by
  rw [RunsTo, hx, micro_performs hr hw hf, modRun_eq hr]

/-- A word that stops its call. -/
theorem runsTo_of_fault {c : Fin 64} (hx : exec o.instr s = micro s f) (hf : f k o = some (.fault c)) :
    RunsTo o.instr s { k with fault := some c } := by
  rw [RunsTo, hx, micro, hr, Option.bind_some, hw, Option.bind_some, hf]
  exact congrArg _ (modRun_eq hr _)
end

/-! ## Fields, branches and macros -/

/-- The field of `uldm`. -/
theorem uldmField_eq (v : W64) (h : Bool) (p g : Nat) :
    uldmField v h p g = BitVec.ofNat 32 (if g = 0 then v.toNat / 2 ^ (if h then 32 else 0) % 2 ^ 32 else v.toNat / 2 ^ p % 2 ^ g) := by
  cases h <;> rfl

/-- The loop counter that a branch leaves. -/
def branchCount (k : Call) (c : Fin 4) (n : Fin 4) : BitVec 32 := if c = 1 then k.lc[n] - 1 else k.lc[n]

/-- Whether a branch is taken. -/
def branchTaken (k : Call) (c : Fin 4) (n : Fin 4) (y : Fin 8) : Bool :=
  match c with
  | 0 => true
  | 1 => k.lc[n] - 1 != 0
  | 2 => k.a[y] == 0
  | 3 => k.a[y] != 0

theorem set_branchCount (k : Call) (c n : Fin 4) : k.lc.set n (branchCount k c n) = if c = 1 then k.lc.set n (k.lc[n] - 1) else k.lc := by
  unfold branchCount
  split
  · rfl
  · exact Vector.set_getElem_self _

/-- A branch, by whether it is taken and where it leads. -/
theorem runs_ubr {s : State} {k : Call} {c n : Fin 4} {y : Fin 8} {t : Fin 8192} (hr : s.unit.running = some k) (hw : k.word = some (.ubr c n y t)) :
    if branchTaken k c n y = true ∧ t.val < 256 then RunsTo (MicroOp.ubr c n y t).instr s { k with fault := some 3 }
    else RunsTo (MicroOp.ubr c n y t).instr s
      { k with lc := k.lc.set n (branchCount k c n), nextPc := if branchTaken k c n y then some t.val else none } := by
  split
  next h => exact runsTo_of_fault hr hw rfl (if_pos (show (branchTaken k c n y && decide (t.val < 256)) = true by simpa using h))
  next h =>
    rw [set_branchCount]
    exact runsTo_of_modRun hr hw rfl (g := fun r =>
        { r with lc := if c = 1 then r.lc.set n (k.lc[n] - 1) else r.lc, nextPc := if branchTaken k c n y then some t.val else none })
      (if_neg (show ¬ (branchTaken k c n y && decide (t.val < 256)) = true by simpa using h))

/-- Some of the macros `f … l` has a property, as `ucal` looks for it. -/
def someMacro (f l : Nat) (p : Fin 64 → Bool) : Bool := ((List.finRange 64).filter fun m => f ≤ m.val && m.val ≤ l).any p

theorem someMacro_iff (f l : Nat) (p : Fin 64 → Bool) : someMacro f l p = true ↔ ∃ m : Fin 64, f ≤ m.val ∧ m.val ≤ l ∧ p m = true := by
  simp [someMacro, and_assoc]

/-- The word of four bits that `ucal` delivers. -/
def flagWord (b0 b1 b2 b3 : Bool) : BitVec 32 := BitVec.ofNat 32 (bit b0 * 2 ^ 0 + bit b1 * 2 ^ 1 + bit b2 * 2 ^ 2 + bit b3 * 2 ^ 3)

theorem flagWord_bits (b0 b1 b2 b3 : Bool) : (flagWord b0 b1 b2 b3).toNat < 16 ∧ (flagWord b0 b1 b2 b3).getLsbD 0 = b0 ∧
    (flagWord b0 b1 b2 b3).getLsbD 1 = b1 ∧ (flagWord b0 b1 b2 b3).getLsbD 2 = b2 ∧ (flagWord b0 b1 b2 b3).getLsbD 3 = b3 := by
  revert b0 b1 b2 b3
  decide

/-- What `ucal` delivers of the macros `f … l` (R266). -/
def calFlags (s : State) (k : Call) (f l : Nat) : BitVec 32 :=
  flagWord (someMacro f l fun m => (s.unit.macros[m]).stale) (someMacro f l fun m => (s.unit.macros[m]).uncal)
    (someMacro f l fun m => (s.unit.macros[m]).busy) (someMacro f l fun m => !k.modes.getLsbD m.val)

theorem calFlags_spec (s : State) (k : Call) (f l : Nat) :
    let some_ (p : Fin 64 → Bool) : Prop := ∃ m : Fin 64, f ≤ m.val ∧ m.val ≤ l ∧ p m = true
    (calFlags s k f l).toNat < 16 ∧ ((calFlags s k f l).getLsbD 0 = true ↔ some_ fun m => (s.unit.macros[m]).stale) ∧
      ((calFlags s k f l).getLsbD 1 = true ↔ some_ fun m => (s.unit.macros[m]).uncal) ∧
      ((calFlags s k f l).getLsbD 2 = true ↔ some_ fun m => (s.unit.macros[m]).busy) ∧
      ((calFlags s k f l).getLsbD 3 = true ↔ some_ fun m => !k.modes.getLsbD m.val) := by
  unfold calFlags
  obtain ⟨h16, h0, h1, h2, h3⟩ := flagWord_bits (someMacro f l fun m => (s.unit.macros[m]).stale) (someMacro f l fun m => (s.unit.macros[m]).uncal)
    (someMacro f l fun m => (s.unit.macros[m]).busy) (someMacro f l fun m => !k.modes.getLsbD m.val)
  rw [h0, h1, h2, h3]
  exact ⟨h16, someMacro_iff .., someMacro_iff .., someMacro_iff .., someMacro_iff ..⟩

/-- A run of macros that leaves the footprint, as `ucal` checks it. -/
theorem outside_footprint (k : Call) (f l : Nat) : (f ≤ l && !k.macrosIn f l) = true ↔
    f ≤ l ∧ (f < k.m[7].toNat / 2 ^ 26 % 64 ∨ k.m[7].toNat / 2 ^ 20 % 64 < l) := by
  have hin : k.macrosIn f l = (decide (k.m[7].toNat / 2 ^ 26 % 64 ≤ f) && decide (l ≤ k.m[7].toNat / 2 ^ 20 % 64)) := rfl
  simp only [hin, Bool.and_eq_true, decide_eq_true_eq, Bool.not_eq_true', Bool.and_eq_false_iff, decide_eq_false_iff_not, not_le]

/-! ## The status that a task keeps (R275) -/

/-- The only resident task of a TID is the one that a search finds. -/
theorem find_task {c : Core} {b : Fin 4} {t : Task} {tid : BitVec 16} (hb : c.banks[b] = some t) (ht : t.tid = tid)
    (hu : ∀ d, d ≠ b → ∀ u, c.banks[d] = some u → u.tid ≠ tid) : c.tasks.find? (·.2.tid == tid) = some (b, t) := by
  have hmem : (b, t) ∈ c.tasks := by
    simp only [Core.tasks, List.mem_filterMap]
    exact ⟨b, List.mem_finRange b, by rw [hb]; rfl⟩
  have hsome : (c.tasks.find? (·.2.tid == tid)).isSome = true := List.find?_isSome.2 ⟨_, hmem, beq_iff_eq.2 ht⟩
  obtain ⟨⟨d, u⟩, hq⟩ := Option.isSome_iff_exists.1 hsome
  have hbank : c.banks[d] = some u := mem_tasks (List.mem_of_find?_eq_some hq)
  have htid : u.tid = tid := beq_iff_eq.1 (List.find?_some (p := fun p : Fin 4 × Task => p.2.tid == tid) hq)
  obtain rfl : d = b := by_contra fun h => hu d h u hbank htid
  rw [hq, Option.some.inj (hbank.symm.trans hb)]

/-- The resident tasks once the task of a TID has changed are those of before. -/
theorem tid_of_modTid_bank {c : Core} {tid : BitVec 16} {f : Task → Task} (hf : ∀ t, (f t).tid = t.tid) {d : Fin 4} {u : Task}
    (h : (c.modTid tid f).banks[d] = some u) : ∃ t, c.banks[d] = some t ∧ t.tid = u.tid := by
  have hmap : (c.modTid tid f).banks[d] = (c.banks[d]).map fun t => if t.tid == tid then f t else t := Vector.getElem_map ..
  obtain ⟨t, ht, rfl⟩ := Option.map_eq_some_iff.1 (hmap.symm.trans h)
  refine ⟨t, ht, ?_⟩
  split
  · exact (hf t).symm
  · rfl

section
variable {s : State} {k : Call} {b : Fin 4} {t : Task} (hb : s.bank s.cur b = some t) (ht : t.tid = k.tid)
include hb ht

theorem modStatus_bank (f : CallStatus → CallStatus) : (s.modStatus k f).bank s.cur b = some (t.modStat k.handle f) := by
  rw [State.modStatus, State.bank, modCore_core_self, modTid_bank hb ht]

/-- A status word once bits are set in it, as the unit finds it. -/
theorem runStatus_modStatus {r : CallStatus} (hr : t.statusOf k.handle = some r) (v : W64)
    (hu : ∀ d, d ≠ b → ∀ u, s.bank s.cur d = some u → u.tid ≠ k.tid) : (s.modStatus k (·.set v)).runStatus k = (r.set v).status := by
  have hu' : ∀ d, d ≠ b → ∀ u, (s.modStatus k (·.set v)).bank s.cur d = some u → u.tid ≠ k.tid := by
    intro d hd u h
    rw [State.bank, State.modStatus, modCore_core_self] at h
    obtain ⟨t', ht', he⟩ := tid_of_modTid_bank (f := (·.modStat k.handle (·.set v))) (fun _ => rfl) h
    exact he ▸ hu d hd t' ht'
  have hfind := find_task (modStatus_bank hb ht (·.set v)) ht hu'
  have hst : ((t.modStat k.handle (·.set v)).stats ++ (t.modStat k.handle (·.set v)).late).find? (·.handle == k.handle) = some (r.set v) := by
    rw [List.find?_append]
    exact congrArg (Option.or · _) (statusOf_modStat hr v)
  rw [State.runStatus, modStatus_cur, hfind, Option.bind_some, hst]
end

theorem modStatus_running (s : State) (k : Call) (f : CallStatus → CallStatus) : (s.modStatus k f).unit.running = s.unit.running := by
  rw [State.unit, State.modStatus, modCore_cur, modCore_core_self]; rfl

theorem modRun_bank (s : State) (f : Call → Call) (n : CoreId) (b : Fin 4) : (s.modRun f).bank n b = s.bank n b := modUnit_bank ..

/-- The upper half of a status word. -/
theorem ofNat_fld_upper (v : W64) : BitVec.ofNat 32 (v.fld 32 32) = (v >>> 32).setWidth 32 := by
  apply BitVec.eq_of_toNat_eq
  rw [BitVec.toNat_setWidth, BitVec.toNat_ushiftRight, Nat.shiftRight_eq_div_pow, BitVec.toNat_ofNat, W64.fld, bits, Nat.mod_mod]

/-- The call that runs after `ustat` has set bits: the status word as it then stands gives the call's register. -/
def ustatCall (s : State) (k : Call) (x : Fin 8) (v : W64) : Call :=
  { k.setA x (BitVec.ofNat 32 (((s.modStatus k (·.set v)).runStatus k).fld 32 32)) with word := none }

/-- What `ustat` leaves: the bits in the status word of the call's task, and the upper half of that word in the call's register. -/
theorem leads_ustat {s : State} {k : Call} {x : Fin 8} {i : BitVec 8} (hr : s.unit.running = some k) (hw : k.word = some (.ustat x i))
    {b : Fin 4} {t : Task} {r : CallStatus} (hb : s.bank s.cur b = some t) (ht : t.tid = k.tid) (hst : t.statusOf k.handle = some r) :
    let v : W64 := i.setWidth 64 <<< 32
    Leads .ustat s fun s' => s'.unit.running = some (ustatCall s k x v) ∧ ∃ t', s'.bank s.cur b = some t' ∧ t'.statusOf k.handle = some (r.set v) ∧
      ((∀ c, c ≠ b → ∀ u, s.bank s.cur c = some u → u.tid ≠ k.tid) →
        ustatCall s k x v = { k with a := k.a.set x (((r.set v).status >>> 32).setWidth 32), word := none }) := by
  intro v
  refine ⟨_, micro_performs hr hw rfl, ?_, t.modStat k.handle (·.set v), ?_, statusOf_modStat hst v, fun hu => ?_⟩
  · rw [modRun_modRun, modRun_running, modStatus_running, hr]; rfl
  · rw [modRun_bank, modRun_bank]; exact modStatus_bank hb ht _
  · rw [ustatCall, runStatus_modStatus hb ht hst v hu, ofNat_fld_upper]; rfl

/-! ## O45 -/

/-- Settles O45: each word by how it ends, and what it changes of its call. -/
theorem microWords : Obligations.MicroWords := by
  unfold Obligations.MicroWords
  intro s k o hr hw
  cases o with
  | unop => exact runsTo_of_same hr hw rfl rfl
  | uldi x i => exact runsTo_of_modRun hr hw (g := (·.setA x i)) rfl rfl
  | uldm x m h p g =>
    dsimp only
    rw [← uldmField_eq]
    exact runsTo_of_modRun hr hw (g := (·.setA x (uldmField k.m[m] h p.val g.val))) rfl rfl
  | uadd x y i => exact runsTo_of_modRun hr hw (g := (·.setA x (k.a[y] + i.signExtend 32))) rfl rfl
  | ulc n y => exact runsTo_of_modRun hr hw (g := fun r => { r with lc := r.lc.set n k.a[y] }) rfl rfl
  | ubr c n y t =>
    match c with
    | 0 => exact runs_ubr hr hw
    | 1 => exact runs_ubr hr hw
    | 2 => exact runs_ubr hr hw
    | 3 => exact runs_ubr hr hw
  | uwin y =>
    dsimp only
    split
    next h => exact runsTo_of_fault hr hw rfl (congrArg some (if_pos h))
    next h => exact runsTo_of_modRun hr hw (g := fun r => { r with curWin := (k.a[y]).toNat }) rfl (congrArg some (if_neg h))
  | uspl y =>
    dsimp only
    split
    next h => exact runsTo_of_fault hr hw rfl (congrArg some (if_pos h))
    next h => exact runsTo_of_modRun hr hw (g := fun r => { r with curSplit := (k.a[y]).toNat }) rfl (congrArg some (if_neg h))
  | ucal x y z =>
    dsimp only
    split
    next h => exact runsTo_of_fault hr hw rfl (congrArg some (if_pos ((outside_footprint ..).2 h)))
    next h =>
      refine ⟨calFlags s k k.a[y].toNat k.a[z].toNat, ?_, calFlags_spec ..⟩
      exact runsTo_of_modRun hr hw (g := (·.setA x (calFlags s k k.a[y].toNat k.a[z].toNat))) rfl
        (congrArg some (if_neg (h ∘ (outside_footprint ..).1)))
  | ustat x i =>
    dsimp only
    intro b t r hb ht hst
    obtain ⟨s', he, hk', t', ht', hst', hu⟩ := leads_ustat hr hw hb ht hst
    exact ⟨s', he, _, t', _, hk', ht', hst', rfl, hu⟩
  | _ => trivial

end Sys2Proof.Proofs
end

section
/-!
PROOFS. What the ports keep for queue pairs after every turn (R463), and the forms of the phase family (R319, R320, R332).
-/
namespace Sys2Proof.Proofs
open Machine Laws

/-! ## Queue pairs -/

/-- A state whose pairs have been settled keeps something only for live pairs. -/
theorem syncQps_pairsLive (s : State) : s.syncQps.pairsLive := by
  unfold State.syncQps
  dsimp only
  split
  next h =>
    simp only [Bool.and_eq_true, List.isEmpty_iff] at h
    intro p hp
    rw [h.1] at hp
    cases hp
  next h =>
    intro p hp
    have hq : s.qpValid p.1 = true ∧ s.qpSt p.1 ≠ 0 := by simpa using (List.mem_filter.1 hp).2
    exact hq

/-- A turn ends with the pairs settled. -/
theorem settled_pairsLive {o : Out} {s' : State} (h : settled o = .next s') : s'.pairsLive := by
  unfold settled at h
  split at h
  next r => exact Host.Outcome.next.inj h ▸ syncQps_pairsLive r
  next hn => exact absurd h (hn s')

/-- Settles O59: whatever a turn does, it ends by dropping what the ports keep for pairs that are invalid or reset. -/
theorem everyStepKeepsPairsLive : Obligations.EveryStepKeepsPairsLive := by
  intro s s' _ h
  unfold step at h
  split at h <;> unfold State.turn at h <;> split at h <;> exact settled_pairsLive h

/-! ## The phase family -/

/-- The effective budget of a context in the current phase, by its bits (R316). -/
theorem budget_eq (k : CoreCtx) (x : Bool) :
    k.budget x = Max.max (if x then k.sbudget.toNat / 2 ^ 32 % 2 ^ 31 else k.sbudget.toNat % 2 ^ 32) 4096 := by
  unfold CoreCtx.budget effBudget
  cases x <;> simp [W64.fld, bits]

/-- Settles O40: each form writes its task alone, but for the request of a supervisor. -/
theorem phaseInstructions : Obligations.PhaseInstructions := by
  unfold Obligations.PhaseInstructions
  intro s t d a hl cur arrived arrives k budget
  have hphase : exec (.phase d) s = onTask s fun t => t.arrive d (s.dev.phase + 1) := rfl
  have hphaseC : exec (.phaseC d) s = onTask s fun t => t.arrive d (s.dev.phase + if s.exchange then 1 else 2) := rfl
  have huntil : exec (.phuntil d a) s = onTask s fun t =>
      if (t.getS a).toNat ≤ s.dev.phase.toNat then t.setS d s.dev.phase else t.arrive d (t.getS a) := rfl
  have hleft : exec (.phleft d) s = onTask s fun t => t.setS d (w64i (((s.cctx t).budget s.exchange : Int) - s.elap)) := rfl
  refine ⟨(exec_of_onTask hl hphase).trans rfl, ?_, fun h => ?_, fun h => ?_, ?_, ?_⟩
  · refine (exec_of_onTask hl hphaseC).trans ?_
    unfold State.exchange
    dsimp only [arrived, cur]
    split <;> rfl
  · have hlt : ¬ (t.getS a).toNat ≤ s.dev.phase.toNat := by simpa [BitVec.ult, cur] using h
    exact (exec_of_onTask hl huntil).trans (by rw [if_neg hlt]; rfl)
  · have hle : (t.getS a).toNat ≤ s.dev.phase.toNat := by simpa [BitVec.ult, cur] using h
    exact (exec_of_onTask hl huntil).trans (by rw [if_pos hle])
  · exact (exec_of_onTask hl hleft).trans (by rw [budget_eq]; rfl)
  · refine (issue_live hl _).trans ?_
    dsimp only [k]
    cases (s.cctx t).sup <;> rfl

end Sys2Proof.Proofs
end


section
/-!
PROOFS. Taking a trap and returning from one (R417, R423, R424, R441, R442).
-/
namespace Sys2Proof.Proofs
open Machine Laws

/-! ## Loads given up -/

/-- Giving up early loads changes of the task only its requests. -/
theorem dropEarly_task_proj {α : Type} (g : Task → α) (h : ∀ t r i, g { t with remote := r, inner := i } = g t) (s : State) (t : Task) :
    g (s.dropEarly t).2 = g t := by
  obtain ⟨-, e⟩ | ⟨r, rs, -, e⟩ := dropEarly_cases s t
  · rw [e]
  · rw [e]; exact h ..

/-- It changes of a core only its banks and the commands of its map unit. -/
theorem dropEarly_core_proj {α : Type} (g : Core → α) (h : ∀ c b m, g { c with banks := b, mapCmds := m } = g c) (s : State) (t : Task)
    (n : CoreId) : g ((s.dropEarly t).1.core n) = g (s.core n) := by
  obtain ⟨-, e⟩ | ⟨r, rs, -, e⟩ := dropEarly_cases s t
  · rw [e]
  · rw [e]
    exact (modLive_proj g _ _ n fun c b => h c b c.mapCmds).trans (modCore_proj g s _ n _ fun c => h c c.banks _)

/-- It changes of the device only the packets under way and the results kept. -/
theorem dropEarly_dev_proj {α : Type} (g : Device → α) (h : ∀ d n k, g { d with net := n, kept := k } = g d) (s : State) (t : Task) :
    g (s.dropEarly t).1.dev = g s.dev := by
  obtain ⟨-, e⟩ | ⟨r, rs, -, e⟩ := dropEarly_cases s t
  · rw [e]
  · rw [e]; exact h ..

@[simp] theorem dropEarly_free (s : State) (t : Task) : (s.dropEarly t).1.free = s.free := by
  obtain ⟨-, e⟩ | ⟨r, rs, -, e⟩ := dropEarly_cases s t
  · rw [e]
  · rw [e]; rfl

/-- The live task is the one that the operation answers. -/
theorem dropEarly_live {s : State} {t : Task} (hl : s.live = some t) : (s.dropEarly t).1.live = some (s.dropEarly t).2 := by
  obtain ⟨-, e⟩ | ⟨r, rs, -, e⟩ := dropEarly_cases s t
  · rw [e]; exact hl
  · have hf : (s.forgetRequests s.cur (r :: rs)).live = s.live :=
      modCore_proj (fun c => c.banks[c.cbank]) s s.cur s.cur
        (fun c => { c with mapCmds := c.mapCmds.filter fun k => !(k.kind == .remote && (r :: rs).any (·.uid == k.uid)) }) fun _ => rfl
    rw [e, modLive_live, hf, hl]
    rfl

/-- Which flow the state shows does not matter to it. -/
theorem dropEarly_withFlow (s : State) (t : Task) (f : Flow) :
    ({ s with flow := f } : State).dropEarly t = ({ (s.dropEarly t).1 with flow := f }, (s.dropEarly t).2) := by
  unfold State.dropEarly
  split <;> rfl

/-- What the core holds for the context of the task is as it was. -/
theorem dropEarly_cctx (s : State) (t u : Task) (hu : u.ctx = t.ctx) : (s.dropEarly t).1.cctx u = s.cctx t := by
  unfold State.cctx
  rw [dropEarly_cur, hu, dropEarly_core_proj (·.cctx t.ctx) (fun _ _ _ => rfl)]

/-- The bundle that a trap records is the same without the loads given up. -/
theorem dropEarly_trapBundle (s : State) (t : Task) : (s.dropEarly t).1.trapBundle (s.dropEarly t).2 = s.trapBundle t := by
  have hcode (x : BitVec 8) (va : Nat) : (s.dropEarly t).1.codeAt s.cur x va = s.codeAt s.cur x va := by
    obtain ⟨-, e⟩ | ⟨r, rs, -, e⟩ := dropEarly_cases s t
    · rw [e]
    · unfold State.codeAt State.pageAddr State.retired
      rw [dropEarly_core_proj (·.tlb) fun _ _ _ => rfl]
      have hcap (n : CoreId) : ((s.dropEarly t).1.core n).capacity = (s.core n).capacity :=
        dropEarly_core_proj (·.capacity) (fun _ _ _ => rfl) s t n
      simp only [hcap]
  unfold State.trapBundle
  rw [dropEarly_task_proj (·.bundle) (fun _ _ _ => rfl), dropEarly_task_proj (·.pc) (fun _ _ _ => rfl), dropEarly_cur,
    dropEarly_cctx s t _ (dropEarly_ctx s t), hcode, dropEarly_free, dropEarly_dev_proj (·.dram) (fun _ _ _ => rfl)]

/-! ## Fault records -/

/-- A fault record changes no core. -/
@[simp] theorem report_core (s : State) (n m : CoreId) (x : BitVec 16) (k : Nat) (tid : BitVec 16) (tr : List W64) (im : List Byte) :
    (s.report n x k tid tr im).core m = s.core m := by
  unfold State.report
  dsimp only
  repeat' split
  all_goals rfl

@[simp] theorem report_cur (s : State) (n : CoreId) (x : BitVec 16) (k : Nat) (tid : BitVec 16) (tr : List W64) (im : List Byte) :
    (s.report n x k tid tr im).cur = s.cur := by
  unfold State.report
  dsimp only
  repeat' split
  all_goals rfl

/-- It changes of the device only DRAM and the fault queues. -/
theorem report_dev_proj {α : Type} (g : Device → α) (h : ∀ d m q k, g { d with dram := m, faultqs := q, fqSerial := k } = g d) (s : State)
    (n : CoreId) (x : BitVec 16) (k : Nat) (tid : BitVec 16) (tr : List W64) (im : List Byte) :
    g (s.report n x k tid tr im).dev = g s.dev := by
  have lost (q : FaultQ) : g (s.modDev fun d => d.setFaultq q).dev = g s.dev :=
    h s.dev s.dev.dram (s.dev.setFaultq q).faultqs s.dev.fqSerial
  unfold State.report
  dsimp only
  split_ifs
  · exact lost _
  · split
    · exact h s.dev _ (s.dev.setFaultq _).faultqs _
    · exact lost _

theorem report_live (s : State) (n : CoreId) (x : BitVec 16) (k : Nat) (tid : BitVec 16) (tr : List W64) (im : List Byte) :
    (s.report n x k tid tr im).live = s.live := by
  unfold State.live State.bank
  rw [report_cur, report_core]

section
variable {s s' : State} (hd : s'.dev = s.dev) (hc : s'.cores = s.cores)
include hd hc

/-! A record depends on the device and the cores alone. -/

omit hd in
theorem retired_congr (a : Nat) : s'.retired a = s.retired a := by
  unfold State.retired State.core
  rw [hc]

theorem probe_congr (asn : BitVec 8) (sz : Fin 4) (vpn : Nat) (ps : List Nat) : s'.probe asn sz vpn ps = s.probe asn sz vpn ps := by
  induction ps with
  | nil => simp only [State.probe]
  | cons p ps ih => simp only [State.probe, ih, retired_congr hc, State.dramW, hd]

/-- The page sizes are searched through `probe` alone. The kernel is not to compute the search, so its body is compared as it stands. -/
theorem lookupFrom_congr (asn : BitVec 8) (va : Nat) (szs : List (Fin 4)) : s'.lookupFrom asn va szs = s.lookupFrom asn va szs := by
  have hf : State.lookupFrom._f s' asn va = State.lookupFrom._f s asn va := by
    funext l r
    delta State.lookupFrom._f
    simp only [probe_congr hd hc]
  delta State.lookupFrom
  rw [hf]

theorem lookup_congr (asn : BitVec 8) (va : Nat) : s'.lookup asn va = s.lookup asn va := by
  unfold State.lookup
  rw [lookupFrom_congr hd hc]

omit hd in
theorem pageAddr_congr (e : TlbEntry) (va : Nat) (w : Bool) : s'.pageAddr e va w = s.pageAddr e va w := by
  unfold State.pageAddr
  dsimp only
  rw [retired_congr hc]

theorem translateDirect_congr (asn : BitVec 8) (va : Nat) (w : Bool) : s'.translateDirect asn va w = s.translateDirect asn va w := by
  unfold State.translateDirect
  simp only [lookup_congr hd hc, pageAddr_congr hc]

omit hc in
theorem ctxField_congr (x : BitVec 16) (i : Nat) : s'.ctxField x i = s.ctxField x i := by
  have hw (i w : Nat) : s'.ctxWord i w = s.ctxWord i w := by
    unfold State.ctxWord State.dramW
    rw [hd]
  have hr (i : Nat) : s'.ctxRestOk i = s.ctxRestOk i := by
    unfold State.ctxRestOk
    simp only [hw]
  unfold State.ctxField State.ctxEntry
  simp only [hw, hr]

theorem report_congr (n : CoreId) (x : BitVec 16) (k : Nat) (tid : BitVec 16) (tr : List W64) (im : List Byte) :
    (s'.report n x k tid tr im).dev = (s.report n x k tid tr im).dev := by
  have hn : s'.core n = s.core n := by unfold State.core; rw [hc]
  have hm (f : Device → Device) : (s'.modDev f).dev = (s.modDev f).dev := by unfold State.modDev; rw [hd]
  have hw (a : Nat) (bs : List Byte) (f : Device → Device) : ((s'.writeDram a bs).modDev f).dev = ((s.writeDram a bs).modDev f).dev := by
    unfold State.modDev State.writeDram State.modDev; rw [hd]
  unfold State.report
  rw [hn, hd, ctxField_congr hd, ctxField_congr hd]
  simp only [translateDirect_congr hd hc]
  generalize s.translateDirect _ _ _ = tr
  split
  · split_ifs
    · rw [hm]
    · cases tr with
      | ok pa => exact hw ..
      | error e => exact hm _
  · split_ifs
    · rw [hm]
    · cases tr with
      | ok pa => exact hw ..
      | error e => exact hm _

end

/-! ## Taking a trap -/

/-- A trap changes of the device only the packets under way, the results kept, DRAM and the fault queues. -/
theorem takeTrap_dev_proj {α : Type} (g : Device → α)
    (h : ∀ d n k m q i, g { d with net := n, kept := k, dram := m, faultqs := q, fqSerial := i } = g d) (s : State) (t : Task) (c : Trap) :
    g (s.takeTrap t c).dev = g s.dev := by
  have hq : g (({ s with flow := .trapped c } : State).dropEarly t).1.dev = g s.dev :=
    dropEarly_dev_proj g (fun d n k => h d n k d.dram d.faultqs d.fqSerial) _ t
  obtain ⟨-, -, e⟩ | ⟨-, -, -, e⟩ | ⟨-, -, e⟩ | ⟨-, -, e⟩ := takeTrap_cases s t c
  · rw [e]; exact hq
  · rw [e]; exact hq
  · rw [e]; exact hq
  · rw [e]
    exact (report_dev_proj g (fun d m q i => h d d.net d.kept m q i) ..).trans hq

/-- It changes of a core only its banks and the commands of its map unit. -/
theorem takeTrap_core_proj {α : Type} (g : Core → α) (h : ∀ c b m, g { c with banks := b, mapCmds := m } = g c) (s : State) (t : Task)
    (c : Trap) (n : CoreId) : g ((s.takeTrap t c).core n) = g (s.core n) := by
  have hq : g ((({ s with flow := .trapped c } : State).dropEarly t).1.core n) = g (s.core n) := dropEarly_core_proj g h _ t n
  have hb (c : Core) (b : Vector (Option Task) 4) : g { c with banks := b } = g c := h c b c.mapCmds
  obtain ⟨-, -, e⟩ | ⟨-, -, -, e⟩ | ⟨-, -, e⟩ | ⟨-, -, e⟩ := takeTrap_cases s t c
  · rw [e, setLive_proj g _ _ n hb]; exact hq
  · rw [e, setLive_proj g _ _ n hb]; exact hq
  · rw [e]; exact hq
  · rw [e, State.unhandled, modLive_proj g _ _ n hb, report_core]; exact hq

/-! ## The words of a trap -/

theorem fld_two_two (v : W64) : v.fld 2 2 = 0 ↔ v.getLsbD 2 = false ∧ v.getLsbD 3 = false := by
  simp only [W64.fld, bits, BitVec.getLsbD, Nat.testBit_eq_decide_div_mod_eq, decide_eq_false_iff_not]
  omega

theorem causeWord_eq (c : Trap) (h : Bool) : c.causeWord h =
    BitVec.ofNat 64 ((if h then 2 ^ 63 else 0) + c.cls.toNat * 2 ^ 48 + c.detail.toNat * 2 ^ 40 + c.slot.val * 2 ^ 32) := by
  cases h <;> simp [Trap.causeWord, w64, bit]

theorem bundleWords_eq (b : BitVec 128) :
    bundleWords b = (BitVec.ofNat 64 (b.toNat % 2 ^ 64), BitVec.ofNat 64 (b.toNat / 2 ^ 64)) := by
  rw [bundleWords, w64, w64, Prod.mk.injEq]
  exact ⟨BitVec.eq_of_toNat_eq (by simp), rfl⟩

theorem handlerPc_toNat (vec : W64) : (BitVec.ofNat 56 (vec.fld 4 52 * 16)).toNat = vec.toNat / 16 % 2 ^ 52 * 16 := by
  rw [BitVec.toNat_ofNat, W64.fld, bits]
  omega

/-! ## Entering a handler -/

theorem setS_regs_s (u : Task) (d : SReg) (v : W64) {x : SReg} (h : x ≠ d) : (u.setS d v).regs.s[x] = u.regs.s[x] := by
  have hne : d.val ≠ x.val := fun e => h (Fin.ext e.symm)
  unfold Task.setS
  split
  · rfl
  · simp [Vector.getElem_set_ne, hne]

section
variable (t : Task) (c : Trap) (vec : W64) (b : BitVec 128)

@[simp] theorem enter_ctl : (t.enter c vec b).ctl =
    { t.ctl with cause := c.causeWord true, tpc := c.tpcWord, tinfo := c.info, tbun0 := (bundleWords b).1, tbun1 := (bundleWords b).2 } := rfl

@[simp] theorem enter_pc : (t.enter c vec b).pc = BitVec.ofNat 56 (vec.fld 4 52 * 16) := rfl

/-- The task entered, before its scalar registers are set: all but the registers, and the registers are the task's own. -/
theorem enter_eq : ∃ u : Task, u.regs = t.regs ∧ t.enter c vec b = ((u.setS 60 (c.causeWord true)).setS 61 c.tpcWord).setS 62 c.info := by
  refine ⟨_, ?_, rfl⟩
  rfl

/-- The scalar registers of a handler. -/
theorem enter_getS (r : SReg) : (t.enter c vec b).getS r =
    if r = 62 then c.info else if r = 61 then c.tpcWord else if r = 60 then c.causeWord true else t.getS r := by
  obtain ⟨u, hu, e⟩ := enter_eq t c vec b
  have hr : u.getS r = t.getS r := by unfold Task.getS; rw [hu]
  rw [e]
  simp [getS_setS, hr]

theorem enter_regs : SameRegsBut [60, 61, 62] t.regs (t.enter c vec b).regs := by
  refine ⟨fun x hx => ?_, rfl, rfl, rfl, rfl, rfl, rfl, rfl, rfl⟩
  simp only [List.mem_cons, List.not_mem_nil, or_false, not_or] at hx
  obtain ⟨h60, h61, h62⟩ := hx
  obtain ⟨u, hu, e⟩ := enter_eq t c vec b
  rw [e, setS_regs_s _ _ _ h62, setS_regs_s _ _ _ h61, setS_regs_s _ _ _ h60, hu]

end

/-! ## The obligations -/

/-- The four outcomes of a trap, by what the task and its context were before the early loads were given up. -/
theorem takeTrap_outcomes (s : State) (t : Task) (c : Trap) :
    let q : State := { (s.dropEarly t).1 with flow := .trapped c }
    let u := (s.dropEarly t).2
    let vec := (s.cctx t).tvec
    (t.inHandler = false ∧ vec.getLsbD 63 = true ∧ s.takeTrap t c = q.setLive (u.enter c vec (s.trapBundle t))) ∨
    (t.inHandler = true ∧ c.cls = 0x08 ∧ vec.getLsbD 63 = true ∧ s.takeTrap t c = q.setLive { u with pendFreeze := some c }) ∨
    (c.cls = 0x08 ∧ vec.getLsbD 63 = false ∧ s.takeTrap t c = q) ∨
    (c.cls ≠ 0x08 ∧ (t.inHandler = true ∨ vec.getLsbD 63 = false) ∧ s.takeTrap t c = q.unhandled u c) := by
  have hcases := takeTrap_cases s t c
  have hc : ({ (s.dropEarly t).1 with flow := .trapped c } : State).cctx (s.dropEarly t).2 = s.cctx t :=
    dropEarly_cctx s t _ (dropEarly_ctx s t)
  have hb : ({ (s.dropEarly t).1 with flow := .trapped c } : State).trapBundle (s.dropEarly t).2 = s.trapBundle t :=
    dropEarly_trapBundle s t
  rw [dropEarly_withFlow] at hcases
  dsimp only at hcases
  rwa [hc, hb] at hcases

section
variable {s : State} {t : Task} {c : Trap}

theorem takeTrap_enters (hh : t.inHandler = false) (hv : (s.cctx t).tvec.getLsbD 63 = true) :
    s.takeTrap t c = ({ (s.dropEarly t).1 with flow := .trapped c } : State).setLive
      ((s.dropEarly t).2.enter c (s.cctx t).tvec (s.trapBundle t)) := by
  obtain ⟨-, -, e⟩ | ⟨h, -⟩ | ⟨-, h, -⟩ | ⟨-, h, -⟩ := takeTrap_outcomes s t c
  · exact e
  all_goals simp_all

theorem takeTrap_pends (hh : t.inHandler = true) (hc : c.cls = 0x08) (hv : (s.cctx t).tvec.getLsbD 63 = true) :
    s.takeTrap t c = ({ (s.dropEarly t).1 with flow := .trapped c } : State).setLive { (s.dropEarly t).2 with pendFreeze := some c } := by
  obtain ⟨h, -⟩ | ⟨-, -, -, e⟩ | ⟨-, h, -⟩ | ⟨h, -⟩ := takeTrap_outcomes s t c
  case inr.inl => exact e
  all_goals simp_all

theorem takeTrap_leaves (hc : c.cls = 0x08) (hv : (s.cctx t).tvec.getLsbD 63 = false) :
    s.takeTrap t c = ({ (s.dropEarly t).1 with flow := .trapped c } : State) := by
  obtain ⟨-, h, -⟩ | ⟨-, -, h, -⟩ | ⟨-, -, e⟩ | ⟨h, -⟩ := takeTrap_outcomes s t c
  case inr.inr.inl => exact e
  all_goals simp_all

theorem takeTrap_freezes (hc : c.cls ≠ 0x08) (hv : t.inHandler = true ∨ (s.cctx t).tvec.getLsbD 63 = false) :
    s.takeTrap t c = ({ (s.dropEarly t).1 with flow := .trapped c } : State).unhandled (s.dropEarly t).2 c := by
  obtain ⟨h, h', -⟩ | ⟨-, h, -⟩ | ⟨h, -⟩ | ⟨-, -, e⟩ := takeTrap_outcomes s t c
  case inr.inr.inr => exact e
  · obtain hv | hv := hv <;> simp_all
  all_goals contradiction

end

/-- A handler entered at slot 0 with the trap in its registers, the rest of the task as it was (R423). -/
theorem enters_handler {s : State} {t : Task} {c : Trap} (hh : t.inHandler = false) (hv : (s.cctx t).tvec.getLsbD 63 = true) :
    ∃ t', (s.takeTrap t c).live = some t' ∧ t' = (s.dropEarly t).2.enter c (s.cctx t).tvec (s.trapBundle t) ∧
      (s.takeTrap t c).dev = (s.dropEarly t).1.dev := by
  rw [takeTrap_enters hh hv]
  exact ⟨_, setLive_live .., rfl, rfl⟩

/-! ## The return -/

/-- The task as the return from a trap leaves it: H of `c.cause` is 0 (R442). -/
def returned (t : Task) : Task :=
  { t with ctl := { t.ctl with cause := t.ctl.cause &&& ~~~(1#64 <<< 63) }, skipBkpt := true }

/-- The bundle of a return point. -/
def returnPc (t : Task) : BitVec 56 := BitVec.ofNat 56 (t.ctl.tpc.fld 4 52 * 16)

/-- The slot of a return point. -/
def returnSlot (t : Task) : Fin 4 := Fin.ofNat 4 (t.ctl.tpc.fld 0 2)

theorem returned_cause_lsb (t : Task) (j : Nat) :
    (returned t).ctl.cause.getLsbD j = (t.ctl.cause.getLsbD j && decide (j ≠ 63)) := by
  have h : (returned t).ctl.cause = t.ctl.cause &&& ~~~(1#64 <<< 63) := rfl
  rw [h, BitVec.getLsbD_and, BitVec.getLsbD_not, BitVec.getLsbD_shiftLeft, BitVec.getLsbD_one]
  obtain hj | hj := Nat.lt_or_ge j 64
  · obtain rfl | hne := eq_or_ne j 63
    · simp
    · have hlt : j < 63 := by omega
      simp [hj, hlt, hne]
  · simp [BitVec.getLsbD_of_ge _ _ hj]

/-- The task of which a freeze is taken at the return: at its return point, held as `h` until phase `p`. -/
def refrozen (t : Task) (h : Hold) (p : Option W64) : Task :=
  { returned t with pc := returnPc t, slot := returnSlot t, bundle := none, pendFreeze := none, hold := h, startPhase := p }

/-- The return point of a trap entered at the return point of another. -/
theorem returnPoint_toNat (t : Task) : (w64 ((returnPc t).toNat / 16 * 16 + (returnSlot t).val)).toNat =
    t.ctl.tpc.toNat % 2 ^ 56 / 16 * 16 + t.ctl.tpc.toNat % 4 := by
  have hpc : (returnPc t).toNat = t.ctl.tpc.toNat / 16 % 2 ^ 52 * 16 := handlerPc_toNat _
  have hslot : (returnSlot t).val = t.ctl.tpc.toNat % 4 := by
    simp [returnSlot, W64.fld, bits]
  rw [hpc, hslot, w64, BitVec.toNat_ofNat]
  omega

/-- H is set in the cause of a trap that was entered. -/
theorem causeWord_lsb (c : Trap) : (c.causeWord true).getLsbD 63 = true := by
  have := c.cls.isLt
  have := c.detail.isLt
  have := c.slot.isLt
  rw [causeWord_eq, ← BitVec.testBit_toNat, BitVec.toNat_ofNat, Nat.testBit_eq_decide_div_mod_eq, decide_eq_true_eq, if_pos rfl]
  omega

section
variable {s : State} {t : Task}

theorem returnFromTrap_refuses (h : ¬ (t.ctl.cause.getLsbD 63 = true ∧ t.ctl.tpc.getLsbD 2 = false ∧ t.ctl.tpc.getLsbD 3 = false)) :
    s.returnFromTrap t = s.bounds t t.ctl.tpc := by
  rw [← fld_two_two] at h
  exact if_pos (by simpa [Task.inHandler, imp_iff_not_or] using h)

theorem returnFromTrap_resumes (hh : t.ctl.cause.getLsbD 63 = true) (hf : t.ctl.tpc.fld 2 2 = 0) (hp : t.pendFreeze = none) :
    s.returnFromTrap t = .resume (s.setLive (returned t)) (returnPc t) (returnSlot t) := by
  unfold State.returnFromTrap
  rw [if_neg (by simp [Task.inHandler, hh, hf])]
  dsimp only
  split
  next e => cases hp.symm.trans e
  next => rfl

/-- A freeze held pending is taken with the return point of the trap that is left, and its deadline (R430). -/
theorem returnFromTrap_freezes {c : Trap} (hh : t.ctl.cause.getLsbD 63 = true) (hf : t.ctl.tpc.fld 2 2 = 0) (hp : t.pendFreeze = some c) :
    ∃ h p, s.returnFromTrap t = .entered ((s.setLive (refrozen t h p)).takeTrap (refrozen t h p)
      { c with retPc := returnPc t, retSlot := returnSlot t }) := by
  refine ⟨if c.detail = 1 then .handler else t.hold, some (s.dev.phase + if s.dev.phase.getLsbD 0 then 1 else 2), ?_⟩
  unfold State.returnFromTrap
  rw [if_neg (by simp [Task.inHandler, hh, hf])]
  dsimp only
  split
  next e => cases hp.symm.trans e; rfl
  next e => cases hp.symm.trans e

/-- `rett` without a freeze continues at its return point; a task that was restored lets its unit go on (R434, R442). -/
theorem rett_resumes (hl : s.live = some t) (hh : t.ctl.cause.getLsbD 63 = true) (hf : t.ctl.tpc.fld 2 2 = 0) (hp : t.pendFreeze = none) :
    ∃ (r : State) (u : Task), exec .rett s = .next { r with flow := .resume (returnPc t) (returnSlot t) } ∧
      ({ r with flow := .resume (returnPc t) (returnSlot t) } : State).live = some u ∧ u.regs = t.regs ∧
      u.ctl.cause = (returned t).ctl.cause := by
  have hx : exec .rett s = .next { (if t.resumed then (s.setLive (returned t)).modLive fun t => { t with thaws := true }
      else s.setLive (returned t)) with flow := .resume (returnPc t) (returnSlot t) } := by
    refine (issue_live hl _).trans ?_
    rw [returnFromTrap_resumes hh hf hp]
    rfl
  cases hr : t.resumed <;> rw [hr] at hx
  · exact ⟨_, _, hx, setLive_live .., rfl, rfl⟩
  · have hl' : ((s.setLive (returned t)).modLive fun t => { t with thaws := true }).live = some { returned t with thaws := true } := by
      rw [modLive_live, setLive_live]
      rfl
    exact ⟨_, _, hx, hl', rfl, rfl⟩

/-- `rett` with a freeze held pending enters it, with the return point of the trap that is left (R442). -/
theorem rett_enters_freeze {c : Trap} (hl : s.live = some t) (hh : t.ctl.cause.getLsbD 63 = true)
    (h2 : t.ctl.tpc.getLsbD 2 = false) (h3 : t.ctl.tpc.getLsbD 3 = false) (hp : t.pendFreeze = some c)
    (hv : (s.cctx t).tvec.getLsbD 63 = true) :
    Leads .rett s fun r => ∃ t', r.live = some t' ∧ t'.ctl.cause = c.causeWord true ∧ t'.ctl.tinfo = c.info ∧
      t'.ctl.tpc.toNat = t.ctl.tpc.toNat % 2 ^ 56 / 16 * 16 + t.ctl.tpc.toNat % 4 ∧
      t'.pc.toNat = (s.cctx t).tvec.toNat / 16 % 2 ^ 52 * 16 ∧ t'.slot = 0 ∧ t'.pendFreeze = none := by
  obtain ⟨h, p, e⟩ := returnFromTrap_freezes (s := s) hh ((fld_two_two _).2 ⟨h2, h3⟩) hp
  generalize hr : ({ c with retPc := returnPc t, retSlot := returnSlot t } : Trap) = c' at e
  generalize hu : refrozen t h p = u at e
  have hx : exec .rett s = .next ((s.setLive u).takeTrap u c') := by
    refine (issue_live hl _).trans ?_
    rw [e]
    rfl
  have huh : u.inHandler = false := by
    have : u.inHandler = (returned t).ctl.cause.getLsbD 63 := by rw [← hu]; rfl
    rw [this, returned_cause_lsb]
    simp
  have hcc : (s.setLive u).cctx u = s.cctx t := by
    have hux : u.ctx = t.ctx := by rw [← hu]; rfl
    unfold State.cctx
    rw [hux]
    exact congrArg (Option.getD · _) (setLive_proj (·.cctx t.ctx) s u s.cur fun _ _ => rfl)
  obtain ⟨t', hl', ht', -⟩ := enters_handler (s := s.setLive u) (c := c') huh (by rw [hcc]; exact hv)
  have hcause : c'.causeWord true = c.causeWord true := by rw [← hr]; rfl
  have hinfo : c'.info = c.info := by rw [← hr]
  have htpc : c'.tpcWord.toNat = t.ctl.tpc.toNat % 2 ^ 56 / 16 * 16 + t.ctl.tpc.toNat % 4 := by
    rw [← hr]
    exact returnPoint_toNat t
  have hpend : ((s.setLive u).dropEarly u).2.pendFreeze = none :=
    (dropEarly_task_proj (·.pendFreeze) (fun _ _ _ => rfl) _ u).trans (by rw [← hu]; rfl)
  have hpc := handlerPc_toNat (s.cctx t).tvec
  rw [hcc] at ht'
  refine ⟨_, hx, t', hl', ?_⟩
  rw [ht']
  exact ⟨hcause, hinfo, htpc, hpc, rfl, hpend⟩

end

/-- Settles O42: the outcomes of a trap by cases, each beside the early loads that are given up. -/
theorem trapEntry : Obligations.TrapEntry := by
  intro s t c hl
  have hproj {α : Type} (g : Task → α) (h : ∀ t r i, g { t with remote := r, inner := i } = g t) : g (s.dropEarly t).2 = g t :=
    dropEarly_task_proj g h s t
  have hb := bundleWords_eq (s.trapBundle t)
  have hctl := hproj (·.ctl) fun _ _ _ => rfl
  have hregs := hproj (·.regs) fun _ _ _ => rfl
  refine ⟨takeTrap_flow .., takeTrap_dev_proj (·.wf) (fun _ _ _ _ _ _ => rfl) s t c,
    takeTrap_core_proj (·.sb) (fun _ _ _ => rfl) s t c, fun hh hv => ?_, fun hh hc hv => ?_, fun hc hv => ?_, fun hc hv => ?_,
    fun hh hp hv h2 h3 => ?_⟩
  · obtain ⟨t', hl', rfl, hd⟩ := enters_handler (c := c) hh hv
    have hr := enter_regs (s.dropEarly t).2 c (s.cctx t).tvec (s.trapBundle t)
    rw [hregs] at hr
    have hctl' := enter_ctl (s.dropEarly t).2 c (s.cctx t).tvec (s.trapBundle t)
    rw [hb, hctl] at hctl'
    have hcause := causeWord_eq c true
    have hs := enter_getS (s.dropEarly t).2 c (s.cctx t).tvec (s.trapBundle t)
    refine ⟨_, hl', ?_⟩
    rw [hctl', hs, hs, hs]
    exact ⟨hcause, rfl, rfl, rfl, rfl, hcause, rfl, rfl, handlerPc_toNat _, rfl, hproj (·.ctx) fun _ _ _ => rfl, rfl, rfl,
      hproj (·.startPhase) fun _ _ _ => rfl, rfl, rfl, hr, hd⟩
  · rw [takeTrap_pends hh hc hv]
    exact ⟨_, setLive_live .., rfl, hregs, hctl⟩
  · rw [takeTrap_leaves hc hv]
    exact ⟨dropEarly_live hl, rfl⟩
  · have hcause := causeWord_eq c t.inHandler
    have hq : ({ (s.dropEarly t).1 with flow := .trapped c } : State).trapBundle (s.dropEarly t).2 = s.trapBundle t :=
      dropEarly_trapBundle s t
    rw [takeTrap_freezes hc hv, State.unhandled, hq, hb]
    refine ⟨{ (s.dropEarly t).2 with hold := .unhandled }, ?_, rfl, hregs, hctl, ?_⟩
    · rw [modLive_live, report_live]
      exact congrArg (Option.map _) (dropEarly_live hl)
    · have hcongr := report_congr (s := (s.dropEarly t).1) (s' := { (s.dropEarly t).1 with flow := .trapped c }) rfl rfl
      beta_reduce
      rw [modLive_dev, hcongr]
      dsimp only
      rw [dropEarly_cur, dropEarly_inHandler, hcause, dropEarly_ctx, hproj (·.tid) fun _ _ _ => rfl, Trap.tpcWord, w64, Task.inHandler]
  · beta_reduce
    rw [← causeWord_eq c true]
    exact rett_enters_freeze hl hh h2 h3 hp hv

/-- Settles O43: `trap` enters its trap as it stands, and `rett` has the outcomes of the return. -/
theorem trapAndReturn : Obligations.TrapAndReturn := by
  intro s t n hl
  refine ⟨issue_live hl _, fun hok => ?_, fun ⟨hh, h2, h3⟩ hp => ?_, fun c ⟨hh, h2, h3⟩ hp hv => ?_⟩
  · refine (issue_live hl _).trans ?_
    rw [returnFromTrap_refuses hok]
    rfl
  · obtain ⟨r, u, hx, hl', hregs, hcause⟩ := rett_resumes hl hh ((fld_two_two _).2 ⟨h2, h3⟩) hp
    refine ⟨_, hx, u, hl', trivial, hregs, ?_, fun j hj => ?_, ?_⟩
    · rw [hcause, returned_cause_lsb]; simp
    · rw [hcause, returned_cause_lsb]; simp [hj.ne]
    · have hslot : returnSlot t = Fin.ofNat 4 (t.ctl.tpc.toNat % 4) := by simp [returnSlot, W64.fld, bits]
      rw [← hslot]
      rfl
  · obtain ⟨r, hx, t', hl', hcause, -, htpc, -, hslot, hpend⟩ := rett_enters_freeze hl hh h2 h3 hp hv
    refine ⟨r, hx, t', hl', ?_, htpc, hslot, hpend⟩
    rw [hcause, causeWord_lsb]

end Sys2Proof.Proofs
end

section
/-!
PROOFS. Reaching a word (R383): the words at hand of the synchronising steps, what they hold, and what a store to one leaves alone.
-/
namespace Sys2Proof.Proofs
open Machine Laws

/-! ## Single bytes stored one after the other -/

/-- A run of bytes from `a` as single stores. -/
theorem put_run (a : Nat) : ∀ (bs : List Byte) (m : Mem) (j x : Nat),
    (m.put (((List.range' j bs.length).zip bs).map fun p => (a + p.1, p.2))).get x = (m.write (a + j) bs).get x
  | [], m, j, x => by
    rw [get_write, List.length_nil, if_neg (by omega)]
    rfl
  | b :: bs, m, j, x => by
    rw [List.length_cons, List.range'_succ, List.zip_cons_cons, List.map_cons, Mem.put, put_run a bs, get_write, get_write, get_write]
    simp only [List.length_cons, List.length_nil]
    by_cases h1 : a + (j + 1) ≤ x ∧ x < a + (j + 1) + bs.length
    · have he : x - (a + j) = x - (a + (j + 1)) + 1 := by omega
      rw [if_pos h1, if_pos (by omega), he, List.getD_cons_succ]
    · rw [if_neg h1]
      by_cases h2 : x = a + j
      · subst h2; simp
      · rw [if_neg (by omega), if_neg (by omega)]

/-- The bytes of a word stored as single bytes. -/
theorem get_put_word (m : Mem) (a n v x : Nat) :
    (m.put (((List.range n).zip (leBytes n v)).map fun p => (a + p.1, p.2))).get x = (m.write a (leBytes n v)).get x := by
  have h := put_run a (leBytes n v) m 0 x
  rwa [leBytes_length, ← List.range_eq_range'] at h

theorem num_congr {m m' : Mem} {a n : Nat} (h : ∀ x, a ≤ x → x < a + n → m'.get x = m.get x) : m'.num a n = m.num a n :=
  congrArg leNat (List.map_congr_left fun _ hi => h _ (Nat.le_add_right ..) (Nat.add_lt_add_left (List.mem_range.1 hi) a))

theorem num_put_word (m : Mem) (a n v : Nat) :
    (m.put (((List.range n).zip (leBytes n v)).map fun p => (a + p.1, p.2))).num a n = v % 256 ^ n :=
  (num_congr fun _ _ _ => get_put_word ..).trans (num_setNum ..)

/-! ## Words at hand -/

theorem placeOf_window (n : CoreId) {o : Nat} (ho : o < 0x4000000) : placeOf (windowBase n + o) = .window n o := by
  have hn := n.isLt
  have hlo : windowBase n + o - 0x00F000000000 = n.val * 0x04000000 + o := by rw [windowBase]; omega
  have hdiv : (n.val * 0x04000000 + o) / 0x04000000 = n.val := by omega
  have hmod : (n.val * 0x04000000 + o) % 0x04000000 = o := by omega
  have hge : 0x00F000000000 ≤ windowBase n + o := by rw [windowBase]; omega
  have hlt : windowBase n + o < 0x00F200000000 := by rw [windowBase]; omega
  rw [placeOf, if_neg (by omega), if_pos ⟨hge, hlt⟩, hlo, hdiv, hmod]
  exact congrArg (Place.window · o) (Fin.ext (Nat.mod_eq_of_lt hn))

section
variable {s r : State} {t : Task} {write : Bool} {n pa : Nat} {v : W64}

/-- A word at hand lies in the slice of the core, or in its partition of the loft, where its granules are touched. -/
theorem inHand_cases (h : InHand s t write n v pa r) : (∃ o, placeOf pa = .dram s.cur o ∧ r = s) ∨
    ∃ o, placeOf pa = .window s.cur o ∧ o < 0x300000 ∧ o + n ≤ (s.cctx t).psize ∧ r = s.reached t [(o, n)] write := by
  unfold InHand at h
  split at h
  next hv =>
    obtain ⟨-, ⟨hp, -, hr⟩, rfl⟩ := h
    exact .inr ⟨_, placeOf_window _ (by omega), hv, hp, hr⟩
  next hv =>
    obtain ⟨-, -, -, -, h | ⟨o, hpl, ho, hp, -, hr⟩⟩ := h
    · exact .inl h
    · exact .inr ⟨o, hpl, ho, hp, hr⟩

theorem adopt_none (h : ∀ q ∈ t.requests, q.early = true → q.pc ≠ t.pc ∨ q.slot ≠ s.slot) : s.adopt t = s := by
  have hf : (t.requests.find? fun q => q.early && q.pc == t.pc && q.slot == s.slot) = none := by
    rw [List.find?_eq_none]
    intro q hq hp
    simp only [Bool.and_eq_true, beq_iff_eq] at hp
    obtain ⟨⟨he, hpc⟩, hslot⟩ := hp
    obtain hne | hne := h q hq he
    · exact hne hpc
    · exact hne hslot
  unfold State.adopt
  rw [hf]

/-- A step on a word at hand performs on the state that the access reaches. -/
theorem sync_inHand {op : SyncOp} (h : InHand s t op.writes n v pa r) (arg cmp : W64) (f : State → W64 → List Byte → Act) :
    s.sync t op v n arg cmp f = r.syncHere t op pa n v arg cmp f := by
  unfold InHand at h
  split at h
  next hv =>
    obtain ⟨ha, ⟨hp, hold, rfl⟩, rfl⟩ := h
    rw [State.sync, if_pos hv, loftAddr_some ha hp]
    exact access_performs hold _
  next hv =>
    obtain ⟨ha, hreq, hcar, htr, hplace⟩ := h
    have hd : s.dropCarrier t (v.toNat % 2 ^ 56) = s := by rw [State.dropCarrier, hcar]
    have hat : s.sync t op v n arg cmp f = s.syncAt t op (v.toNat % 2 ^ 56) pa n v arg cmp f := by
      rw [State.sync, if_neg hv]
      dsimp only
      rw [if_neg (by simpa using ha), adopt_none hreq, State.syncVirtual, hcar, Option.filter_none, htr]
    rw [hat, State.syncAt, hd]
    obtain ⟨o, hpl, rfl⟩ | ⟨o, hpl, ho, hp, hold, rfl⟩ := hplace
    · rw [if_pos (by simp [syncLocal, hpl]), hpl]
    · rw [if_pos (by simp [syncLocal, hpl, ho]), hpl]
      dsimp only
      rw [if_neg (by omega)]
      exact access_performs hold _

/-! ## The state that a word at hand leaves -/

theorem inHand_live (h : InHand s t write n v pa r) : r.live = s.live := by
  obtain ⟨o, -, rfl⟩ | ⟨o, -, -, -, rfl⟩ := inHand_cases h
  · rfl
  · exact reached_live ..

theorem inHand_cur (h : InHand s t write n v pa r) : r.cur = s.cur := by
  obtain ⟨o, -, rfl⟩ | ⟨o, -, -, -, rfl⟩ := inHand_cases h <;> rfl

theorem inHand_slot (h : InHand s t write n v pa r) : r.slot = s.slot := by
  obtain ⟨o, -, rfl⟩ | ⟨o, -, -, -, rfl⟩ := inHand_cases h <;> rfl

theorem inHand_dev (h : InHand s t write n v pa r) : r.dev = s.dev := by
  obtain ⟨o, -, rfl⟩ | ⟨o, -, -, -, rfl⟩ := inHand_cases h <;> rfl

theorem inHand_partition (h : InHand s t write n v pa r) (m : CoreId) (y : BitVec 16) :
    partitionOf (r.core m) y = partitionOf (s.core m) y := by
  obtain ⟨o, -, rfl⟩ | ⟨o, -, -, -, rfl⟩ := inHand_cases h
  · rfl
  · exact modCore_proj (partitionOf · y) s s.cur m _ fun c => touch_partitionOf c t.ctx y [(o, n)] write

/-! ## Words read and stored -/

/-- What a core holds of a context: its partition, if any, begins where `cctx_base_eq` says. -/
theorem wordAt_dram {q : State} {m : CoreId} {o : Nat} (hp : placeOf pa = .dram m o) : wordAt q t pa n = q.dev.dram.num pa n := by
  rw [wordAt, State.physRead, hp]
  rfl

theorem wordAt_loft {q : State} {m : CoreId} {o : Nat} (hp : placeOf pa = .window m o) (ho : o < 0x300000) :
    wordAt q t pa n = (q.core m).loft.num ((partitionOf (q.core m) t.ctx).getD 0 + o) n := by
  have hb : (((q.core m).cctx t.ctx).getD (.missing t.ctx)).base = (partitionOf (q.core m) t.ctx).getD 0 := by
    unfold partitionOf
    cases (q.core m).cctx t.ctx with
    | some k => rfl
    | none => exact Nat.zero_mul _
  rw [wordAt, State.physRead, hp]
  dsimp only
  rw [State.windowBytes, partOf, if_pos ho]
  dsimp only
  rw [hb]
  rfl

theorem putWord64_dram {q : State} {x : BitVec 16} {m : CoreId} {o w : Nat} (hp : placeOf pa = .dram m o) :
    q.putWord64 x pa n w = q.modDev fun d => { d with dram := d.dram.put (((List.range n).zip (leBytes n w)).map fun p => (pa + p.1, p.2)) } := by
  rw [State.putWord64, State.physPut, hp]

/-- A word of the loft is not a whole granule, so a store to it marks none (R86). -/
theorem putWord64_loft {q : State} {x : BitVec 16} {m : CoreId} {o w : Nat} {k : CoreCtx} (hp : placeOf pa = .window m o) (ho : o < 0x300000)
    (hk : (q.core m).cctx x = some k) (hn : n < 64) : q.putWord64 x pa n w = q.modCore m fun c =>
      { c with loft := c.loft.put (((List.range n).zip (leBytes n w)).map fun p => (k.base + o + p.1, p.2)) } := by
  have hlen : ((List.range n).zip (leBytes n w)).length ≠ 64 := by simp; omega
  rw [State.putWord64, State.physPut, hp]
  dsimp only
  rw [State.windowPut, partOf, if_pos ho]
  dsimp only
  have hc : (q.core m).windowLoft x o ((List.range n).zip (leBytes n w)) false = { q.core m with
      loft := (q.core m).loft.put (((List.range n).zip (leBytes n w)).map fun p => (k.base + o + p.1, p.2)) } := by
    unfold Core.windowLoft
    rw [hk]
    dsimp only
    split
    · rw [if_neg hlen]; rfl
    · rfl
  exact congrArg (q.setCore m) hc

/-- A word with bytes in a partition is the word of a context that the core holds. -/
theorem cctx_of_psize {q : State} (hn : 0 < n) {o : Nat} (hp : o + n ≤ (q.cctx t).psize) :
    ∃ k, (q.core q.cur).cctx t.ctx = some k := by
  cases hk : (q.core q.cur).cctx t.ctx with
  | some k => exact ⟨k, rfl⟩
  | none =>
    have : (q.cctx t).psize = 0 := by rw [State.cctx, hk]; exact Nat.zero_mul _
    omega

end

/-! ## What the machine stores -/

/-- A change of a context's part that leaves its partition. -/
theorem partitionOf_modCtx_base (c : Core) (x y : BitVec 16) {f : CoreCtx → CoreCtx} (hf : ∀ k, (f k).ctx = k.ctx ∧ (f k).base = k.base) :
    partitionOf (c.modCtx x f) y = partitionOf c y := by
  have hkeep (k : CoreCtx) : (if k.ctx == x then f k else k).ctx = k.ctx ∧ (if k.ctx == x then f k else k).base = k.base := by
    split
    · exact hf k
    · exact ⟨rfl, rfl⟩
  have hp : ((fun k : CoreCtx => k.ctx == y) ∘ fun k => if k.ctx == x then f k else k) = fun k => k.ctx == y :=
    funext fun k => congrArg (· == y) (hkeep k).1
  unfold partitionOf Core.cctx Core.modCtx
  rw [List.find?_map, hp, Option.map_map]
  exact congrArg (Option.map · _) (funext fun k => (hkeep k).2)

/-- What a core stores: its loft and tags, its matrix unit, and where the partition of each context begins. -/
def coreStorage (c : Core) : Mem × Mem × Mem × Mem × Mem × (BitVec 16 → Option Nat) :=
  (c.loft, c.tags, c.mx.array, c.mx.acc, c.mx.bnd, partitionOf c)

/-- What the machine stores: DRAM, and what each core does. -/
def storageOf (s : State) : Mem × (CoreId → Mem × Mem × Mem × Mem × Mem × (BitVec 16 → Option Nat)) :=
  (s.dev.dram, fun m => coreStorage (s.core m))

theorem storageOf_eq {q q' : State} (hd : q'.dev.dram = q.dev.dram) (hc : ∀ m, coreStorage (q'.core m) = coreStorage (q.core m)) :
    storageOf q' = storageOf q := Prod.ext hd (funext hc)

@[simp] theorem storageOf_goesOn (q : State) : storageOf q.goesOn = storageOf q :=
  storageOf_eq (endWait_dev_proj (·.dram) q fun _ _ _ => rfl) fun m => endWait_proj coreStorage q m fun _ _ _ => rfl

@[simp] theorem storageOf_modLive (q : State) (f : Task → Task) : storageOf (q.modLive f) = storageOf q :=
  storageOf_eq rfl fun m => modLive_proj coreStorage q f m fun _ _ => rfl

@[simp] theorem storageOf_setLive (q : State) (t : Task) : storageOf (q.setLive t) = storageOf q :=
  storageOf_eq rfl fun m => setLive_proj coreStorage q t m fun _ _ => rfl

@[simp] theorem storageOf_unreserve (q : State) (tid : BitVec 16) : storageOf (q.modDev (·.unreserve tid)) = storageOf q := rfl

@[simp] theorem storageOf_release (q : State) (p : WfEntry → Bool) : storageOf (q.modDev (·.release p)) = storageOf q :=
  storageOf_eq (release_proj (·.dram) _ _ fun _ _ _ => rfl) fun _ => rfl

@[simp] theorem storageOf_dropEdge (q : State) (t : Task) : storageOf (q.dropEdge t) = storageOf q := storageOf_release ..

@[simp] theorem storageOf_ownLock (q : State) (m : CoreId) (x tid : BitVec 16) (pa : Nat) : storageOf (q.ownLock m x tid pa) = storageOf q := by
  unfold State.ownLock
  split <;> rfl

@[simp] theorem storageOf_countUntethered (q : State) (t : Task) (room : Bool) : storageOf (q.countUntethered t room) = storageOf q := by
  have hp (c : Core) : partitionOf (c.modCtx t.ctx fun k => { k with unteth := sat32 k.unteth }) = partitionOf c :=
    funext fun y => partitionOf_modCtx_base c t.ctx y fun _ => ⟨rfl, rfl⟩
  unfold State.countUntethered
  split
  · rfl
  · exact storageOf_eq rfl fun m => modCore_proj coreStorage q _ m _ fun c => by
      simp only [coreStorage, hp]
      rfl

/-- A table of records alone has no edge to name an owner anew. -/
theorem rewire_records {q : State} (h : ∀ e ∈ q.dev.wf, e.record = true) : q.rewire = q := by
  have hf : q.dev.wf.filter (!·.record) = [] := List.filter_eq_nil_iff.2 fun e he => by simp [h e he]
  rw [State.rewire, hf]
  rfl

/-- A word reads the same where the same is stored. -/
theorem wordAt_of_storage {q q' : State} {t : Task} {pa n : Nat} {m : CoreId}
    (hp : (∃ o, placeOf pa = .dram m o) ∨ ∃ o, placeOf pa = .window m o ∧ o < 0x300000) (h : storageOf q' = storageOf q) :
    wordAt q' t pa n = wordAt q t pa n := by
  obtain ⟨o, hp⟩ | ⟨o, hp, ho⟩ := hp
  · have hd : q'.dev.dram = q.dev.dram := congrArg Prod.fst h
    rw [wordAt_dram hp, wordAt_dram hp, hd]
  · have hm : coreStorage (q'.core m) = coreStorage (q.core m) := congrFun (congrArg Prod.snd h) m
    have hl : (q'.core m).loft = (q.core m).loft := congrArg Prod.fst hm
    have hpart : partitionOf (q'.core m) = partitionOf (q.core m) := congrArg (·.2.2.2.2.2) hm
    rw [wordAt_loft hp ho, wordAt_loft hp ho, hl, hpart]

/-! ## A store to a word at hand -/

/-- From `q` to `q'` at most the `n` bytes at `pa` changed of what the machine stores. -/
def StoresAt (s : State) (t : Task) (pa n : Nat) (q q' : State) : Prop :=
  (∀ a, (a < pa ∨ pa + n ≤ a) → q'.dev.dram.get a = q.dev.dram.get a) ∧
  (∀ m, (coreStorage (q'.core m)).2 = (coreStorage (q.core m)).2) ∧ (∀ m, m ≠ s.cur → (q'.core m).loft = (q.core m).loft) ∧
  (match placeOf pa with
    | .window _ o => q'.dev.dram = q.dev.dram ∧
      ∀ a, (a < (s.cctx t).base + o ∨ (s.cctx t).base + o + n ≤ a) → (q'.core s.cur).loft.get a = (q.core s.cur).loft.get a
    | _ => (q'.core s.cur).loft = (q.core s.cur).loft)

section
variable {s r q : State} {t : Task} {write : Bool} {n pa w : Nat} {v : W64}

theorem storesAt_of_storage {q' : State} (h : storageOf q' = storageOf q) : StoresAt s t pa n q q' := by
  have hd : q'.dev.dram = q.dev.dram := congrArg Prod.fst h
  have hm (m : CoreId) : coreStorage (q'.core m) = coreStorage (q.core m) := congrFun (congrArg Prod.snd h) m
  have hl (m : CoreId) : (q'.core m).loft = (q.core m).loft := congrArg Prod.fst (hm m)
  refine ⟨fun a _ => by rw [hd], fun m => congrArg Prod.snd (hm m), fun m _ => hl m, ?_⟩
  split
  · exact ⟨hd, fun a _ => by rw [hl]⟩
  · exact hl _

/-- What comes after the store, and before it, stores nothing. -/
theorem storesAt_congr {q₀ q' q₁ : State} (h₀ : storageOf q = storageOf q₀) (h : StoresAt s t pa n q q') (h₁ : storageOf q₁ = storageOf q') :
    StoresAt s t pa n q₀ q₁ := by
  have hd₀ : q.dev.dram = q₀.dev.dram := congrArg Prod.fst h₀
  have hd₁ : q₁.dev.dram = q'.dev.dram := congrArg Prod.fst h₁
  have hm₀ (m : CoreId) : coreStorage (q.core m) = coreStorage (q₀.core m) := congrFun (congrArg Prod.snd h₀) m
  have hm₁ (m : CoreId) : coreStorage (q₁.core m) = coreStorage (q'.core m) := congrFun (congrArg Prod.snd h₁) m
  have hl₀ (m : CoreId) : (q.core m).loft = (q₀.core m).loft := congrArg Prod.fst (hm₀ m)
  have hl₁ (m : CoreId) : (q₁.core m).loft = (q'.core m).loft := congrArg Prod.fst (hm₁ m)
  simpa only [StoresAt, hd₀, hd₁, hm₀, hm₁, hl₀, hl₁] using h

/-- The `n` bytes at `pa` lie in the slice of the current core, or in the task's partition of its loft. -/
def Within (s : State) (t : Task) (n pa : Nat) : Prop :=
  (∃ o, placeOf pa = .dram s.cur o) ∨ ∃ o, placeOf pa = .window s.cur o ∧ o < 0x300000 ∧ o + n ≤ (s.cctx t).psize

theorem inHand_within (h : InHand s t write n v pa r) : Within s t n pa := by
  obtain ⟨o, hp, -⟩ | ⟨o, hp, ho, hps, -⟩ := inHand_cases h
  · exact .inl ⟨o, hp⟩
  · exact .inr ⟨o, hp, ho, hps⟩

/-- The context whose partition holds a word at hand. -/
theorem cctx_of_partition {k : CoreCtx} {m : CoreId} {x : BitVec 16} (hk : (s.core m).cctx x = some k)
    (hq : partitionOf (q.core m) = partitionOf (s.core m)) : ∃ k', (q.core m).cctx x = some k' ∧ k'.base = k.base := by
  have h : ((q.core m).cctx x).map (·.base) = some k.base := (congrFun hq x).trans (by rw [partitionOf, hk, Option.map_some])
  obtain ⟨k', hk', hb⟩ := Option.map_eq_some_iff.1 h
  exact ⟨k', hk', hb⟩

theorem putWord64_at (h : Within s t n pa) (h0 : 0 < n) (hn : n < 64) (hq : ∀ m, partitionOf (q.core m) = partitionOf (s.core m)) :
    wordAt (q.putWord64 t.ctx pa n w) t pa n = w % 256 ^ n ∧ StoresAt s t pa n q (q.putWord64 t.ctx pa n w) := by
  obtain ⟨o, hp⟩ | ⟨o, hp, ho, hps⟩ := h
  · rw [putWord64_dram hp]
    refine ⟨(wordAt_dram hp).trans (num_put_word ..), fun a ha => ?_, fun _ => rfl, fun _ _ => rfl, ?_⟩
    · exact (get_put_word ..).trans (get_write_outside _ _ _ _ (by rwa [leBytes_length]))
    · rw [hp]; rfl
  · obtain ⟨k, hk⟩ := cctx_of_psize h0 hps
    obtain ⟨k', hk', hb⟩ := cctx_of_partition hk (hq s.cur)
    rw [putWord64_loft hp ho hk' hn]
    have hbase : (s.cctx t).base = k'.base := by rw [hb, State.cctx, hk]; rfl
    have hpart : partitionOf (q.core s.cur) t.ctx = some k'.base := by rw [partitionOf, hk', Option.map_some]
    refine ⟨?_, fun _ _ => rfl, fun m => ?_, fun m hm => ?_, ?_⟩
    · rw [wordAt_loft hp ho, modCore_core_self]
      have hpart' (l : Mem) : partitionOf { q.core s.cur with loft := l } t.ctx = some k'.base := hpart
      rw [hpart']
      exact num_put_word ..
    · exact modCore_proj (fun c => (coreStorage c).2) q s.cur m _ fun _ => rfl
    · rw [modCore_core_ne _ _ hm]
    · rw [hp]
      refine ⟨rfl, fun a ha => ?_⟩
      rw [modCore_core_self, hbase] at *
      exact (get_put_word ..).trans (get_write_outside _ _ _ _ (by rwa [leBytes_length]))

/-- A store of a word changes DRAM or the loft of the core, and nothing else. -/
theorem putWord64_forms (h : Within s t n pa) (h0 : 0 < n) (hn : n < 64) (hq : ∀ m, partitionOf (q.core m) = partitionOf (s.core m)) :
    (∃ m, q.putWord64 t.ctx pa n w = q.modDev fun d => { d with dram := m }) ∨
    ∃ m, q.putWord64 t.ctx pa n w = q.modCore s.cur fun c => { c with loft := m } := by
  obtain ⟨o, hp⟩ | ⟨o, hp, ho, hps⟩ := h
  · exact .inl ⟨_, putWord64_dram hp⟩
  · obtain ⟨k, hk⟩ := cctx_of_psize h0 hps
    obtain ⟨k', hk', -⟩ := cctx_of_partition hk (hq s.cur)
    exact .inr ⟨_, putWord64_loft hp ho hk' hn⟩

theorem putWord64_live (h : Within s t n pa) (h0 : 0 < n) (hn : n < 64) (hq : ∀ m, partitionOf (q.core m) = partitionOf (s.core m)) :
    (q.putWord64 t.ctx pa n w).live = q.live := by
  obtain ⟨m, e⟩ | ⟨m, e⟩ := putWord64_forms (w := w) h h0 hn hq
  · rw [e]; rfl
  · rw [e]; exact modCore_live _ _ fun _ => ⟨rfl, rfl⟩

theorem inHand_partitions (h : InHand s t write n v pa r) (m : CoreId) : partitionOf (r.core m) = partitionOf (s.core m) :=
  funext (inHand_partition h m)

/-- Where such bytes lie. -/
theorem within_place (h : Within s t n pa) : (∃ o, placeOf pa = .dram s.cur o) ∨ ∃ o, placeOf pa = .window s.cur o ∧ o < 0x300000 := by
  obtain ⟨o, hp⟩ | ⟨o, hp, ho, -⟩ := h
  · exact .inl ⟨o, hp⟩
  · exact .inr ⟨o, hp, ho⟩

theorem wordAt_within_lt (h : Within s t n pa) : wordAt q t pa n < 256 ^ n := by
  obtain ⟨o, hp⟩ | ⟨o, hp, ho, -⟩ := h
  · rw [wordAt_dram hp]; exact num_lt ..
  · rw [wordAt_loft hp ho]; exact num_lt ..

end

end Sys2Proof.Proofs
end

section
/-!
PROOFS. Atomics on a word at hand, and the refusals of a word that is not (R383, R386, R390). Settles O34.
-/
namespace Sys2Proof.Proofs
open Machine Laws

/-! ## The step of an atomic -/

/-- The operations of R386, and the store of `ast`. -/
def atomicOp : SyncOp → Bool
  | .load | .add | .and | .or | .xch | .store | .max | .min | .cas => true
  | _ => false

section
variable {s r q : State} {t : Task} {op : SyncOp} {n pa : Nat} {v arg cmp : W64}

/-- An atomic answers with the old word, and stores what its rule gives. -/
theorem perform_atomic (h : atomicOp op = true) : q.perform t op pa n arg cmp =
    ((op.apply (8 * n) (q.syncWord t.ctx pa n) arg.toNat cmp.toNat).elim q (q.putWord64 t.ctx pa n), .done (w64 (q.syncWord t.ctx pa n)) []) := by
  cases op with
  | load | add | and | or | xch | store | max | min | cas =>
    simp only [State.perform]
    split
    next h => rw [h]; rfl
    next h => rw [h]; rfl
  | waitGe | waitNe | lock | lockTry | unlock | arrive | join => cases h

/-- A step that takes no lock needs no entry of the wait-for table (R393). -/
theorem syncHere_done {q' : State} {w : W64} {bs : List Byte} {f : State → W64 → List Byte → Act} (hl : op.locks = false)
    (hp : q.perform t op pa n arg cmp = (q', .done w bs)) : q.syncHere t op pa n v arg cmp f = f q' w bs := by
  have hroom : q.syncRoom t op = true := by rw [State.syncRoom, hl]; rfl
  rw [State.syncHere, hroom, if_neg (by simp [State.syncOverflows]), hp]
  rfl

end

/-- What an atomic delivers. -/
def deliver (d : SReg) (s : State) (old : W64) (_ : List Byte) : Act := .ok (s.modLive fun t => t.setS d old)

/-- The operation of an atomic form. -/
def atomicOpOf : Instr → SyncOp
  | .aadd .. => .add | .aand .. => .and | .aor .. => .or | .axch .. => .xch | .amax .. => .max | .amin .. => .min | .acas .. => .cas
  | .ast .. => .store | _ => .load

section
variable {i : Instr} {d a b : SReg} {n : Nat} {write : Bool}

theorem atomicOpOf_spec (h : atomicForm i = some (d, a, b, n, write)) : atomicOp (atomicOpOf i) = true ∧ (atomicOpOf i).writes = write ∧
    (atomicOpOf i).locks = false ∧ (n = 4 ∨ n = 8) := by
  unfold atomicForm at h
  split at h <;> cases h <;> refine ⟨rfl, rfl, rfl, ?_⟩ <;> split <;> simp

/-- Every atomic form is the step of its operation on the word at its address. -/
theorem exec_atomicForm {s : State} {t : Task} (hl : s.live = some t) (h : atomicForm i = some (d, a, b, n, write)) :
    exec i s = .next (s.settle t (s.sync t (atomicOpOf i) (t.getS a) n (t.getS b) (t.getS d) (deliver d))) := by
  unfold atomicForm at h
  split at h <;> cases h
  case h_9 =>
    have hd : deliver 0 = fun s _ _ => .ok s := funext fun q => funext fun v => funext fun _ => congrArg Act.ok (modLive_setS_zero q v)
    rw [hd]
    exact issue_live hl _
  all_goals exact issue_live hl _

end

/-! ## What an atomic stores -/

/-- The operation of a form stores what R386 gives, which fits its width. -/
theorem apply_atomicOpOf {i : Instr} {d a b : SReg} {n : Nat} {write : Bool} (h : atomicForm i = some (d, a, b, n, write)) (k old x c : Nat) :
    (atomicOpOf i).apply k old x c = atomicNew k old (x % 2 ^ k) (c % 2 ^ k) i := by
  unfold atomicForm at h
  split at h <;> cases h <;> rfl

theorem atomicNew_lt {k old x c : Nat} {i : Instr} (ho : old < 2 ^ k) (hx : x < 2 ^ k) {y : Nat} (h : atomicNew k old x c i = some y) : y < 2 ^ k := by
  unfold atomicNew at h
  split at h
  · cases h; exact Nat.mod_lt _ (Nat.two_pow_pos k)
  · cases h; exact Nat.and_lt_two_pow _ hx
  · cases h; exact Nat.or_lt_two_pow ho hx
  · cases h; exact hx
  · cases h; exact hx
  · cases h; split <;> assumption
  · cases h; split <;> assumption
  · split at h <;> cases h; exact hx
  · cases h

/-! ## The obligation -/

/-- A misaligned word, and a loft word that leaves the partition, are refused. -/
theorem sync_bounds {s : State} {t : Task} {op : SyncOp} {v arg cmp : W64} {n : Nat} {f : State → W64 → List Byte → Act}
    (h : (v.toNat < 0x300000 ∧ (v.toNat % n ≠ 0 ∨ (s.cctx t).psize < v.toNat + n)) ∨ (0x300000 ≤ v.toNat ∧ v.toNat % 2 ^ 56 % n ≠ 0)) :
    s.sync t op v n arg cmp f = s.bounds t v := by
  rw [State.sync]
  obtain ⟨hv, hb⟩ | ⟨hv, hb⟩ := h
  · rw [if_pos hv, loftAddr_none hb]
  · rw [if_neg (by omega)]
    exact if_pos hb

/-- A word of another home is refused in a compute phase. -/
theorem sync_phaseIllegal {s : State} {t : Task} {op : SyncOp} {v arg cmp : W64} {n pa : Nat} {f : State → W64 → List Byte → Act}
    (hv : 0x300000 ≤ v.toNat) (ha : v.toNat % 2 ^ 56 % n = 0) (hc : s.carrier t (v.toNat % 2 ^ 56) = none)
    (ht : s.translate s.cur (s.cctx t).asn (v.toNat % 2 ^ 56) op.writes = .pa pa) (hh : homeOf pa ≠ some s.cur)
    (hx : s.dev.phase.getLsbD 0 = false) (hr : t.requests = []) : s.sync t op v n arg cmp f = s.phaseIllegal t := by
  have hloc : syncLocal s.cur pa = false := by
    unfold homeOf at hh
    unfold syncLocal
    split <;> simp_all
  have hans : s.answered t = false := by rw [State.answered, hr]; rfl
  have hex : s.exchange = false := hx
  rw [State.sync, if_neg (by omega)]
  dsimp only
  rw [if_neg (by simpa using ha), adopt_none (by simp [hr]), State.syncVirtual, hc, Option.filter_none, ht]
  dsimp only
  rw [State.syncAt, if_neg (by simp [hloc]), if_pos (by simp [hex, hans])]

/-- Settles O34. -/
theorem atomicSteps : Obligations.AtomicSteps := by
  intro s t i d a b n write hl hi
  obtain ⟨hat, hw, hlk, hn⟩ := atomicOpOf_spec hi
  have hx := exec_atomicForm hl hi
  refine ⟨fun h => ?_, fun pa hv ha hc ht hh hph hr => ?_, fun pa r hin => ?_⟩
  · rw [hx, sync_bounds h]; rfl
  · rw [hx, sync_phaseIllegal hv ha hc (by rwa [hw]) hh hph hr]; rfl
  · have h0 : 0 < n := by omega
    have h64 : n < 64 := by omega
    have hpow : 2 ^ (8 * n) = 256 ^ n := by rw [Nat.pow_mul]
    have hpart := inHand_partitions hin
    have hlt : wordAt r t pa n < 256 ^ n := wordAt_within_lt (inHand_within hin)
    have hin' := hin
    rw [← hw] at hin'
    have hap := apply_atomicOpOf hi (8 * n) (r.syncWord t.ctx pa n) (t.getS b).toNat (t.getS d).toNat
    rw [sync_inHand hin', syncHere_done hlk (perform_atomic hat), hap] at hx
    have hold : r.syncWord t.ctx pa n = wordAt r t pa n := rfl
    rw [hold] at hx
    have hnew (y : Nat) (hy : atomicNew (8 * n) (wordAt r t pa n) ((t.getS b).toNat % 2 ^ (8 * n)) ((t.getS d).toNat % 2 ^ (8 * n)) i = some y) :
        y < 256 ^ n := by
      rw [← hpow] at hlt ⊢
      exact atomicNew_lt hlt (Nat.mod_lt _ (Nat.two_pow_pos _)) hy
    generalize hN : atomicNew (8 * n) (wordAt r t pa n) ((t.getS b).toNat % 2 ^ (8 * n)) ((t.getS d).toNat % 2 ^ (8 * n)) i = N at hx hnew ⊢
    have hQ : (N.elim r (r.putWord64 t.ctx pa n)).live = some t ∧ wordAt (N.elim r (r.putWord64 t.ctx pa n)) t pa n = N.getD (wordAt r t pa n) := by
      cases N with
      | none => exact ⟨(inHand_live hin).trans hl, rfl⟩
      | some y =>
        refine ⟨(putWord64_live (inHand_within hin) h0 h64 hpart).trans ((inHand_live hin).trans hl), ?_⟩
        exact ((putWord64_at (inHand_within hin) h0 h64 hpart).1).trans (Nat.mod_eq_of_lt (hnew y rfl))
    generalize N.elim r (r.putWord64 t.ctx pa n) = Q at hx hQ
    obtain ⟨hQl, hQw⟩ := hQ
    refine ⟨_, hx, unwaiting (t.setS d (w64 (wordAt r t pa n))), ?_, trivial, rfl, ?_⟩
    · exact (congrArg State.live (goesOn_modLive hQl _)).trans (thenTask_live ..)
    · rw [← hN] at hQw
      exact (wordAt_of_storage (within_place (inHand_within hin)) ((storageOf_goesOn _).trans (storageOf_modLive ..))).trans hQw

end Sys2Proof.Proofs
end

section
/-!
PROOFS. Barrier objects: the words of Expect and Arrive bit by bit, and the instructions on an object of the loft (R380, R381, R388).
Settles O36.
-/
namespace Sys2Proof.Proofs
open Machine Laws

/-! ## The words of an object (R380, R381) -/

theorem testBit_toNat_or (w x : W64) (i : Nat) : (w ||| x).toNat.testBit i = (w.toNat.testBit i || x.toNat.testBit i) := by
  rw [BitVec.toNat_or, Nat.testBit_or]

/-- A field is what its bits are. -/
theorem field_congr {x y lo n : Nat} (h : ∀ i, lo ≤ i → i < lo + n → x.testBit i = y.testBit i) : x / 2 ^ lo % 2 ^ n = y / 2 ^ lo % 2 ^ n := by
  apply Nat.eq_of_testBit_eq
  intro i
  rw [Nat.testBit_mod_two_pow, Nat.testBit_mod_two_pow, Nat.testBit_div_two_pow, Nat.testBit_div_two_pow]
  by_cases hi : i < n
  · rw [h (i + lo) (by omega) (by omega)]
  · simp [hi]

theorem set36_toNat (w : W64) (v : Nat) : (set36 w v).toNat = w.toNat / 2 ^ 36 * 2 ^ 36 + v % 2 ^ 36 := by
  have := w.isLt
  rw [set36, w64, BitVec.toNat_ofNat]
  omega

theorem set36_low (w : W64) (v : Nat) : (set36 w v).toNat % 2 ^ 36 = v % 2 ^ 36 := by
  rw [set36_toNat]; omega

theorem set36_high (w : W64) (v : Nat) : (set36 w v).toNat / 2 ^ 36 = w.toNat / 2 ^ 36 := by
  rw [set36_toNat]; omega

/-- The bits above PEND and CREDIT are left. -/
theorem set36_testBit (w : W64) (v : Nat) {i : Nat} (h : 36 ≤ i) : (set36 w v).toNat.testBit i = w.toNat.testBit i := by
  have e := set36_high w v
  obtain ⟨j, rfl⟩ := Nat.exists_eq_add_of_le h
  rw [Nat.add_comm, ← Nat.testBit_div_two_pow, e, Nat.testBit_div_two_pow]

theorem or_bit_testBit (w : W64) {k i : Nat} (hk : k < 64) : (w ||| (1#64 <<< k)).toNat.testBit i = (w.toNat.testBit i || decide (i = k)) := by
  rw [BitVec.toNat_or, Nat.testBit_or, BitVec.testBit_toNat (1#64 <<< k), BitVec.getLsbD_shiftLeft, BitVec.getLsbD_one]
  by_cases h : i = k
  · subst h; simp [hk]
  · have h' : decide (i - k = 0) = true → i < k := by simp; omega
    cases hd : decide (i - k = 0)
    · simp [h]
    · simp [h, h' hd]

/-- Flip inverts PH, clears ARMED and leaves the rest (R381). -/
theorem barFlip_testBit (w : W64) (i : Nat) :
    (barFlip w).toNat.testBit i = if i = 63 then false else if i = 62 then !w.toNat.testBit 62 else w.toNat.testBit i := by
  rw [barFlip, BitVec.testBit_toNat, BitVec.testBit_toNat, BitVec.testBit_toNat, BitVec.getLsbD_and, BitVec.getLsbD_xor, BitVec.getLsbD_not, BitVec.getLsbD_shiftLeft,
    BitVec.getLsbD_shiftLeft, BitVec.getLsbD_one, BitVec.getLsbD_one]
  obtain h | rfl | rfl | h : i < 62 ∨ i = 62 ∨ i = 63 ∨ 64 ≤ i := by omega
  · have h62 : i ≠ 62 := by omega
    have h63 : i ≠ 63 := by omega
    have hlt : i < 63 := by omega
    have h64 : i < 64 := by omega
    simp [h, h62, h63, hlt, h64]
  · simp
  · simp
  · have h62 : i ≠ 62 := by omega
    have h63 : i ≠ 63 := by omega
    have h64 : ¬ i < 64 := by omega
    simp [BitVec.getLsbD_of_ge w i h, h62, h63, h64]

theorem barFlip_low (w : W64) : (barFlip w).toNat % 2 ^ 36 = w.toNat % 2 ^ 36 := by
  have := field_congr (x := (barFlip w).toNat) (y := w.toNat) (lo := 0) (n := 36) fun i _ hi => by
    rw [barFlip_testBit, if_neg (by omega), if_neg (by omega)]
  simpa using this

/-- AddCredit leaves PEND, and every bit of word 0 but XS. -/
theorem barCredit_testBit (w0 w1 : W64) (x : Nat) {i : Nat} (hi : i ≠ 61) : (barCredit w0 w1 x).1.toNat.testBit i = w0.toNat.testBit i := by
  rw [barCredit]
  dsimp only
  split
  · rw [or_bit_testBit _ (by omega)]; simp [hi]
  · rfl

theorem barCredit_low (w0 w1 : W64) (x : Nat) : (barCredit w0 w1 x).1.toNat % 2 ^ 36 = w0.toNat % 2 ^ 36 := by
  have := field_congr (x := (barCredit w0 w1 x).1.toNat) (y := w0.toNat) (lo := 0) (n := 36) fun i _ hi => barCredit_testBit w0 w1 x (by omega)
  simpa using this

theorem barCredit_credit (w0 w1 : W64) (x : Nat) :
    (barCredit w0 w1 x).2.toNat % 2 ^ 36 = Min.min (2 ^ 36 - 1) (w1.toNat % 2 ^ 36 + x) := by
  rw [barCredit]
  dsimp only
  rw [set36_low, fld_zero, barMax]
  omega

/-! ## Arrive (R381) -/

section
variable {w0 w1 : W64} {b : Nat}

theorem barArrive_unarmed (ha : w0.toNat.testBit 63 = false) : barArrive w0 w1 b = barCredit w0 w1 b := by
  rw [BitVec.testBit_toNat] at ha
  rw [barArrive, ha]
  rfl

theorem barArrive_pending (ha : w0.toNat.testBit 63 = true) (hb : b < w0.toNat % 2 ^ 36) :
    barArrive w0 w1 b = (set36 w0 (w0.toNat % 2 ^ 36 - b), w1) := by
  rw [BitVec.testBit_toNat] at ha
  rw [barArrive, ha, fld_zero, if_neg (by simp), if_pos hb]

theorem barArrive_completes (ha : w0.toNat.testBit 63 = true) (hb : w0.toNat % 2 ^ 36 ≤ b) : barArrive w0 w1 b =
    (barFlip (set36 (barCredit w0 w1 (b - w0.toNat % 2 ^ 36)).1 0), (barCredit w0 w1 (b - w0.toNat % 2 ^ 36)).2) := by
  rw [BitVec.testBit_toNat] at ha
  rw [barArrive, ha, fld_zero, if_neg (by simp), if_neg (by omega)]

end

/-! ## Expect (R381) -/

section
variable {w0 w1 : W64} {n : Nat}

theorem barExpect_overflow (hc : w1.toNat % 2 ^ 36 < n) (hm : 2 ^ 36 - 1 - w0.toNat % 2 ^ 36 < n - w1.toNat % 2 ^ 36) :
    barExpect w0 w1 n = none := by
  rw [barExpect, fld_zero, fld_zero, barMax, if_pos ⟨hc, hm⟩]

/-- Word 0 with PEND = `p` and ARMED set, flipped where nothing pends. -/
def expecting (w0 : W64) (p : Nat) : W64 :=
  if p = 0 then barFlip (set36 w0 p ||| (1#64 <<< 63)) else set36 w0 p ||| (1#64 <<< 63)

theorem expecting_testBit (w0 : W64) (p : Nat) {i : Nat} (h : 36 ≤ i) : (expecting w0 p).toNat.testBit i =
    if i = 63 then decide (p ≠ 0) else if i = 62 then (if p = 0 then !w0.toNat.testBit 62 else w0.toNat.testBit 62) else w0.toNat.testBit i := by
  have hor (j : Nat) (hj : 36 ≤ j) : (set36 w0 p ||| (1#64 <<< 63)).toNat.testBit j = (w0.toNat.testBit j || decide (j = 63)) := by
    rw [or_bit_testBit _ (by omega), set36_testBit _ _ hj]
  unfold expecting
  by_cases hp : p = 0
  · rw [if_pos hp, barFlip_testBit, hor 62 (by omega), hor i h]
    by_cases h63 : i = 63
    · simp [h63, hp]
    · simp [h63, hp]
  · rw [if_neg hp, hor i h]
    by_cases h63 : i = 63
    · simp [h63, hp]
    · by_cases h62 : i = 62
      · subst h62; simp [hp]
      · simp [h63, h62]

theorem expecting_low (w0 : W64) {p : Nat} (h : p < 2 ^ 36) : (expecting w0 p).toNat % 2 ^ 36 = p := by
  have hor : (set36 w0 p ||| (1#64 <<< 63)).toNat % 2 ^ 36 = p := by
    have := field_congr (x := (set36 w0 p ||| (1#64 <<< 63)).toNat) (y := (set36 w0 p).toNat) (lo := 0) (n := 36) fun i _ hi => by
      rw [or_bit_testBit _ (by omega)]
      have : i ≠ 63 := by omega
      simp [this]
    rw [pow_zero, Nat.div_one, Nat.div_one, set36_low] at this
    omega
  unfold expecting
  split
  · rw [barFlip_low, hor]
  · exact hor

theorem expecting_field (w0 : W64) (p : Nat) : (expecting w0 p).toNat / 2 ^ 36 % 2 ^ 26 = w0.toNat / 2 ^ 36 % 2 ^ 26 :=
  field_congr fun i hlo hi => by rw [expecting_testBit _ _ hlo, if_neg (by omega), if_neg (by omega)]

theorem expecting_armed (w0 : W64) {p : Nat} (h : p < 2 ^ 36) :
    (expecting w0 p).toNat.testBit 63 = true ↔ (expecting w0 p).toNat % 2 ^ 36 ≠ 0 := by
  rw [expecting_low w0 h, expecting_testBit _ _ (by omega)]
  simp

theorem expecting_phase (w0 : W64) {p : Nat} (h : p < 2 ^ 36) :
    (expecting w0 p).toNat.testBit 62 = true ↔ (w0.toNat.testBit 62 = true ↔ (expecting w0 p).toNat % 2 ^ 36 ≠ 0) := by
  rw [expecting_low w0 h, expecting_testBit _ _ (by omega)]
  by_cases hp : p = 0 <;> simp [hp]

/-- Expect(n) within the bounds uses up the credit first, arms the barrier, and flips it where nothing pends. -/
theorem barExpect_some (h : n ≤ w1.toNat % 2 ^ 36 ∨ n - w1.toNat % 2 ^ 36 ≤ 2 ^ 36 - 1 - w0.toNat % 2 ^ 36) :
    barExpect w0 w1 n = some (expecting w0 (w0.toNat % 2 ^ 36 + (n - w1.toNat % 2 ^ 36)), set36 w1 (w1.toNat % 2 ^ 36 - n)) := by
  rw [barExpect, fld_zero, fld_zero, barMax, if_neg (by omega)]
  by_cases hc : w1.toNat % 2 ^ 36 < n
  · rw [if_pos hc, Nat.sub_eq_zero_of_le (Nat.le_of_lt hc)]
    rfl
  · have he : w0.toNat % 2 ^ 36 + (n - w1.toNat % 2 ^ 36) = w0.toNat % 2 ^ 36 := by omega
    rw [if_neg hc, he]
    rfl

end

/-- The words that Expect leaves. -/
theorem expect_words {w0 w1 : W64} {n : Nat} (h : n ≤ w1.toNat % 2 ^ 36 ∨ n - w1.toNat % 2 ^ 36 ≤ 2 ^ 36 - 1 - w0.toNat % 2 ^ 36) :
    let v0 := (expecting w0 (w0.toNat % 2 ^ 36 + (n - w1.toNat % 2 ^ 36))).toNat
    let v1 := (set36 w1 (w1.toNat % 2 ^ 36 - n)).toNat
    v1 % 2 ^ 36 = w1.toNat % 2 ^ 36 - n ∧ v0 % 2 ^ 36 = w0.toNat % 2 ^ 36 + (n - w1.toNat % 2 ^ 36) ∧
    (v0.testBit 63 = true ↔ v0 % 2 ^ 36 ≠ 0) ∧ (v0.testBit 62 = true ↔ (w0.toNat.testBit 62 = true ↔ v0 % 2 ^ 36 ≠ 0)) ∧
    v0 / 2 ^ 36 % 2 ^ 26 = w0.toNat / 2 ^ 36 % 2 ^ 26 ∧ v1 / 2 ^ 36 = w1.toNat / 2 ^ 36 := by
  have hp : w0.toNat % 2 ^ 36 + (n - w1.toNat % 2 ^ 36) < 2 ^ 36 := by omega
  refine ⟨?_, expecting_low w0 hp, expecting_armed w0 hp, expecting_phase w0 hp, expecting_field .., set36_high ..⟩
  rw [set36_low]
  omega

/-- The words that Arrive leaves. -/
theorem arrive_words (w0 w1 : W64) (n : Nat) :
    let v0 := (barArrive w0 w1 n).1.toNat
    let v1 := (barArrive w0 w1 n).2.toNat
    (w0.toNat.testBit 63 = true → n < w0.toNat % 2 ^ 36 →
      v0 % 2 ^ 36 = w0.toNat % 2 ^ 36 - n ∧ v0 / 2 ^ 36 = w0.toNat / 2 ^ 36 ∧ v1 = w1.toNat) ∧
    (w0.toNat.testBit 63 = true → w0.toNat % 2 ^ 36 ≤ n → v0 % 2 ^ 36 = 0 ∧ v0.testBit 63 = false ∧
      (v0.testBit 62 = true ↔ w0.toNat.testBit 62 = false) ∧
      v1 % 2 ^ 36 = Min.min (2 ^ 36 - 1) (w1.toNat % 2 ^ 36 + (n - w0.toNat % 2 ^ 36))) ∧
    (w0.toNat.testBit 63 = false → v0 % 2 ^ 36 = w0.toNat % 2 ^ 36 ∧ v1 % 2 ^ 36 = Min.min (2 ^ 36 - 1) (w1.toNat % 2 ^ 36 + n)) := by
  refine ⟨fun ha hn => ?_, fun ha hn => ?_, fun ha => ?_⟩
  · rw [barArrive_pending ha hn]
    refine ⟨?_, set36_high .., rfl⟩
    rw [set36_low]
    omega
  · rw [barArrive_completes ha hn]
    refine ⟨?_, ?_, ?_, barCredit_credit w0 ..⟩
    · rw [barFlip_low, set36_low, Nat.zero_mod]
    · rw [barFlip_testBit]; rfl
    · rw [barFlip_testBit, if_neg (by omega), if_pos rfl, set36_testBit _ _ (by omega), barCredit_testBit _ _ _ (by omega)]
      simp
  · rw [barArrive_unarmed ha]
    exact ⟨barCredit_low .., barCredit_credit w0 ..⟩

/-! ## The two words of an object in a memory -/

theorem w64_num_toNat (m : Mem) (a : Nat) : (w64 (m.num a 8)).toNat = m.num a 8 := by
  rw [w64, BitVec.toNat_ofNat]
  exact Nat.mod_eq_of_lt (num_lt m a 8)

theorem num_barrierBytes (m : Mem) (a : Nat) (v0 v1 : W64) :
    (m.write a (barrierBytes v0 v1)).num a 8 = v0.toNat ∧ (m.write a (barrierBytes v0 v1)).num (a + 8) 8 = v1.toNat := by
  have hb : barrierBytes v0 v1 = [v0, v1].flatMap fun v => leBytes 8 v.toNat := by simp [barrierBytes]
  have h0 := num_write_leBytes m a 8 (fun v : W64 => v.toNat) [v0, v1] (j := 0) (by simp)
  have h1 := num_write_leBytes m a 8 (fun v : W64 => v.toNat) [v0, v1] (j := 1) (by simp)
  have hlt (v : W64) : v.toNat % 256 ^ 8 = v.toNat := Nat.mod_eq_of_lt v.isLt
  rw [← hb] at h0 h1
  simp only [hlt, List.getElem_cons_zero, List.getElem_cons_succ] at h0 h1
  exact ⟨h0, h1⟩

theorem num_setNum_pair (m : Mem) (a : Nat) (v0 v1 : W64) :
    ((m.setNum a 8 v0.toNat).setNum (a + 8) 8 v1.toNat).num a 8 = v0.toNat ∧
    ((m.setNum a 8 v0.toNat).setNum (a + 8) 8 v1.toNat).num (a + 8) 8 = v1.toNat := by
  have hlt (v : W64) : v.toNat % 256 ^ 8 = v.toNat := Nat.mod_eq_of_lt v.isLt
  refine ⟨?_, (num_setNum ..).trans (hlt v1)⟩
  rw [Mem.setNum, num_write_outside _ _ _ _ _ (by omega), num_setNum, hlt]

/-! ## The instructions on an object of the loft -/

/-- The wait on an object. -/
theorem barrierWait_eq (s : State) (t : Task) (o : Nat) : ∃ w : Wait, w.okind = 0x01 ∧ s.barrierWait t o = .wait s w := ⟨_, rfl, rfl⟩

theorem exec_binit (a : SReg) (s : State) :
    exec (.binit a) s = onBarrier a true (fun t o _ _ s => .ok (s.loftWrite t o (zeroBytes 16))) s := rfl

/-- What `bexp` does with the words of its object. -/
def expectStep (b : SReg) (t : Task) (o : Nat) (w0 w1 : W64) (s : State) : Act :=
  match barExpect w0 w1 (t.getS b).toNat with
  | some (v0, v1) => .ok (s.loftWrite t o (barrierBytes v0 v1))
  | none => .trap (s.trapHere t 0x06 0 (w64 o))

theorem expectStep_overflow {b : SReg} {t : Task} {o : Nat} {w0 w1 : W64} {s : State} (hc : w1.toNat % 2 ^ 36 < (t.getS b).toNat)
    (hm : 2 ^ 36 - 1 - w0.toNat % 2 ^ 36 < (t.getS b).toNat - w1.toNat % 2 ^ 36) :
    expectStep b t o w0 w1 s = .trap (s.trapHere t 0x06 0 (w64 o)) := by
  rw [expectStep, barExpect_overflow hc hm]

theorem reached_trapHere (s : State) (t u : Task) (spans : List (Nat × Nat)) (write : Bool) (cls detail : BitVec 8) (info : W64) :
    (s.reached t spans write).trapHere u cls detail info = s.trapHere u cls detail info := by
  unfold State.trapHere
  rfl

theorem exec_bexp (a b : SReg) (s : State) : exec (.bexp a b) s = onBarrier a true (expectStep b) s := rfl

theorem exec_bwait (a : SReg) (s : State) :
    exec (.bwait a) s = onBarrier a false (fun t o w0 _ s => if w0.getLsbD 63 then s.barrierWait t o else .ok s) s := rfl

theorem exec_bwaitPh (a b : SReg) (s : State) : exec (.bwaitPh a b) s =
    onBarrier a false (fun t o w0 _ s => if w0.getLsbD 62 == (t.getS b).getLsbD 0 then s.barrierWait t o else .ok s) s := rfl

section
variable {s : State} {t : Task} {a b : SReg} {write : Bool} (hl : s.live = some t)
include hl

/-- An object that is misaligned or leaves the partition is refused. -/
theorem onBarrier_bounds (f : Task → Nat → W64 → W64 → State → Act) (h : (t.getS a).toNat % 16 ≠ 0 ∨ (s.cctx t).psize < (t.getS a).toNat + 16) :
    onBarrier a write f s = .next (s.traps t 0x09 0 (t.getS a)) := by
  rw [onBarrier, issue_live hl, loftAddr_none h]
  rfl

/-- The instruction acts on the two words of an object that nothing holds. -/
theorem onBarrier_reached (f : Task → Nat → W64 → W64 → State → Act) (ha : (t.getS a).toNat % 16 = 0)
    (hp : (t.getS a).toNat + 16 ≤ (s.cctx t).psize)
    (hf : s.holdFirst t (s.cctx t) write false [((t.getS a).toNat, 16)] (granules [((t.getS a).toNat, 16)]) = none) :
    onBarrier a write f s = .next (s.settle t (f t (t.getS a).toNat
      (w64 (((s.reached t [((t.getS a).toNat, 16)] write).core s.cur).loft.num ((s.cctx t).base + (t.getS a).toNat) 8))
      (w64 (((s.reached t [((t.getS a).toNat, 16)] write).core s.cur).loft.num ((s.cctx t).base + (t.getS a).toNat + 8) 8))
      (s.reached t [((t.getS a).toNat, 16)] write))) := by
  rw [onBarrier, issue_live hl, loftAddr_some ha hp]
  dsimp only
  rw [access_performs hf, reached_loftNum, reached_loftNum, Nat.add_assoc]

end

/-- The words of an object of the loft once both were stored. -/
theorem words_stored (s : State) (t : Task) (o : Nat) (v0 v1 : W64) :
    (((((s.reached t [(o, 16)] true).loftWrite t o (barrierBytes v0 v1)).goesOn.core s.cur).loft.num ((s.cctx t).base + o) 8) = v0.toNat) ∧
    (((((s.reached t [(o, 16)] true).loftWrite t o (barrierBytes v0 v1)).goesOn.core s.cur).loft.num ((s.cctx t).base + o + 8) 8) = v1.toNat) := by
  rw [goesOn_loft, reached_loftWrite, modCore_core_self]
  exact num_barrierBytes ..

/-! ## Arrivals -/

theorem barvAddr_loft {n : CoreId} {v : W64} (ha : v.toNat % 16 = 0) (hv : v.toNat < 0x300000) : barvAddr n v = some (windowBase n + v.toNat) := by
  rw [barvAddr, if_neg (by simpa using ha), if_pos hv]

theorem barvAddr_none {n : CoreId} {v : W64} (h : v.toNat % 16 ≠ 0 ∨
    (0x300000 ≤ v.toNat ∧ ∀ m x, placeOf (v.toNat % 2 ^ 56) = .window m x → 0x300000 ≤ x)) : barvAddr n v = none := by
  rw [barvAddr]
  by_cases ha : v.toNat % 16 = 0
  · obtain h | ⟨hv, hx⟩ := h
    · exact absurd ha h
    · rw [if_neg (by simpa using ha), if_neg (by omega)]
      split
      next m x e => exact if_neg (by have := hx m x e; omega)
      next => rfl
  · exact if_pos ha

theorem barvAddr_some {n : CoreId} {v : W64} (ha : v.toNat % 16 = 0)
    (h : v.toNat < 0x300000 ∨ ∃ m x, placeOf (v.toNat % 2 ^ 56) = .window m x ∧ x < 0x300000) : ∃ pa, barvAddr n v = some pa := by
  by_cases hv : v.toNat < 0x300000
  · exact ⟨_, barvAddr_loft ha hv⟩
  · obtain h | ⟨m, x, e, hx⟩ := h
    · exact absurd h hv
    · refine ⟨v.toNat % 2 ^ 56, ?_⟩
      rw [barvAddr, if_neg (by simpa using ha), if_neg hv, e]
      exact if_pos hx

section
variable {s r : State} {t : Task} {d a b : SReg} {z : Fin 8} (hl : s.live = some t)
include hl

theorem exec_barv_bounds (h : barvAddr s.cur (t.getS a) = none) : exec (.barv d a b z) s = .next (s.traps t 0x09 0 (t.getS a)) := by
  refine (issue_live hl _).trans ?_
  dsimp only
  rw [h]
  rfl

theorem exec_barv_tooMany {pa : Nat} (h : barvAddr s.cur (t.getS a) = some pa) (hn : 2 ^ 36 ≤ (t.getS b).toNat) :
    exec (.barv d a b z) s = .next (s.traps t 0x09 0 (t.getS b)) := by
  refine (issue_live hl _).trans ?_
  dsimp only
  rw [h]
  dsimp only
  rw [if_pos hn]
  rfl

/-- `barv` on an object of the loft is a step on its word. -/
theorem exec_barv_loft (ha : (t.getS a).toNat % 16 = 0) (hv : (t.getS a).toNat < 0x300000) (hn : (t.getS b).toNat < 2 ^ 36) :
    exec (.barv d a b z) s = .next (s.settle t (s.sync t .arrive (t.getS a) 16 (t.getS b) 0 (deliver d))) := by
  refine (issue_live hl _).trans ?_
  dsimp only
  rw [barvAddr_loft ha hv]
  dsimp only
  rw [if_neg (by omega), if_pos hv]
  rfl

end

/-- An arrival at an object at hand. -/
theorem perform_arrive {s r : State} {t : Task} {n pa o : Nat} {v arg cmp : W64} (h : InHand s t true n v pa r) (hp : placeOf pa = .window s.cur o) :
    r.perform t .arrive pa n arg cmp = (r.modCore s.cur (arriveCore ((s.cctx t).base + o) arg.toNat),
      .done (w64 ((r.core s.cur).loft.num ((s.cctx t).base + o) 8)) []) := by
  have hb : (((r.core s.cur).cctx t.ctx).getD (.missing t.ctx)).base = (s.cctx t).base := by
    have hpart := inHand_partition h s.cur t.ctx
    have hr := cctx_base_eq r t
    rw [inHand_cur h, hpart, ← cctx_base_eq s t, State.cctx, inHand_cur h] at hr
    exact hr
  rw [State.perform, State.barrierStep, hp]
  dsimp only
  rw [hb, arriveAt_eq]

theorem arrive_live (s : State) (m : CoreId) (a n : Nat) : (s.modCore m (arriveCore a n)).live = s.live :=
  modCore_live _ _ fun _ => ⟨rfl, rfl⟩

/-- The words of an object of the loft after an arrival. -/
theorem arrival_words (s : State) (t : Task) (o n : Nat) (f : Task → Task) :
    let r := s.reached t [(o, 16)] true
    let a := (s.cctx t).base + o
    let w := barArrive (w64 ((r.core s.cur).loft.num a 8)) (w64 ((r.core s.cur).loft.num (a + 8) 8)) n
    let q := ((r.modCore s.cur (arriveCore a n)).modLive f).goesOn
    (q.core s.cur).loft.num a 8 = w.1.toNat ∧ (q.core s.cur).loft.num (a + 8) 8 = w.2.toNat := by
  intro r a w q
  have hq : (q.core s.cur).loft = (arriveCore a n (r.core s.cur)).loft := by
    rw [goesOn_loft, modLive_proj (·.loft) _ f s.cur fun _ _ => rfl, modCore_core_self]
  rw [hq]
  exact num_setNum_pair ..

/-- Settles O36. -/
theorem barrierSteps : Obligations.BarrierSteps := by
  intro s t d a b z hl
  refine ⟨fun h i hi => ?_, fun ha hp hf => ⟨?_, fun hc hm => ?_, fun h => ?_, ?_⟩, ?_, ?_, fun ha hp hf => ⟨?_, ?_⟩⟩
  · simp only [List.mem_cons, List.not_mem_nil, or_false] at hi
    obtain rfl | rfl | rfl | rfl := hi
    · rw [exec_binit]; exact onBarrier_bounds hl _ h
    · rw [exec_bexp]; exact onBarrier_bounds hl _ h
    · rw [exec_bwait]; exact onBarrier_bounds hl _ h
    · rw [exec_bwaitPh]; exact onBarrier_bounds hl _ h
  · exact ⟨_, (exec_binit a s).trans (onBarrier_reached hl _ ha hp hf), trivial, words_stored s t _ 0 0⟩
  · beta_reduce at hc hm
    rw [exec_bexp, onBarrier_reached hl _ ha hp hf, expectStep_overflow, reached_trapHere]
    · rfl
    · rw [w64_num_toNat]; exact hc
    · rw [w64_num_toNat, w64_num_toNat]; exact hm
  · beta_reduce at h
    have hexec := (exec_bexp a b s).trans (onBarrier_reached hl _ ha hp hf)
    rw [expectStep, barExpect_some (by rw [w64_num_toNat, w64_num_toNat]; exact h)] at hexec
    have hw := expect_words (w0 := w64 (((s.reached t [((t.getS a).toNat, 16)] true).core s.cur).loft.num ((s.cctx t).base + (t.getS a).toNat) 8))
      (w1 := w64 (((s.reached t [((t.getS a).toNat, 16)] true).core s.cur).loft.num ((s.cctx t).base + (t.getS a).toNat + 8) 8))
      (n := (t.getS b).toNat) (by rw [w64_num_toNat, w64_num_toNat]; exact h)
    obtain ⟨h0, h1⟩ := words_stored s t (t.getS a).toNat
      (expecting (w64 (((s.reached t [((t.getS a).toNat, 16)] true).core s.cur).loft.num ((s.cctx t).base + (t.getS a).toNat) 8)) _) _
    have hs (q : State) : s.settle t (.ok q) = q.goesOn := rfl
    refine ⟨_, hexec, trivial, ?_⟩
    dsimp only
    rw [hs, h0, h1]
    simpa only [w64_num_toNat] using hw
  · intro hv hn
    have hin : InHand s t true 16 (t.getS a) (windowBase s.cur + (t.getS a).toNat) (s.reached t [((t.getS a).toNat, 16)] true) := by
      rw [InHand, if_pos hv]
      exact ⟨ha, ⟨hp, hf, rfl⟩, rfl⟩
    have hexec := exec_barv_loft (d := d) (z := z) hl ha hv hn
    rw [sync_inHand hin, syncHere_done rfl (perform_arrive hin (placeOf_window _ (by omega)))] at hexec
    have hQl : ((s.reached t [((t.getS a).toNat, 16)] true).modCore s.cur
        (arriveCore ((s.cctx t).base + (t.getS a).toNat) (t.getS b).toNat)).live = some t :=
      (arrive_live ..).trans ((inHand_live hin).trans hl)
    have hs (q : State) (x : W64) : s.settle t (deliver d q x []) = (q.modLive fun t => t.setS d x).goesOn := rfl
    have hwords (x : W64) := arrival_words s t (t.getS a).toNat (t.getS b).toNat fun t => t.setS d x
    have harr := arrive_words (w64 (((s.reached t [((t.getS a).toNat, 16)] true).core s.cur).loft.num ((s.cctx t).base + (t.getS a).toNat) 8))
      (w64 (((s.reached t [((t.getS a).toNat, 16)] true).core s.cur).loft.num ((s.cctx t).base + (t.getS a).toNat + 8) 8)) (t.getS b).toNat
    refine ⟨_, hexec, unwaiting (t.setS d _), ?_, trivial, rfl, ?_⟩
    · exact (congrArg State.live (goesOn_modLive hQl _)).trans (thenTask_live ..)
    · dsimp only
      rw [hs, (hwords _).1, (hwords _).2]
      dsimp only at harr
      rw [w64_num_toNat, w64_num_toNat] at harr
      exact harr
  · intro hn ha h
    obtain ⟨pa, e⟩ := barvAddr_some (n := s.cur) ha h
    exact exec_barv_tooMany hl e hn
  · rintro (h | h | ⟨hv, hn, hp⟩)
    · exact exec_barv_bounds hl (barvAddr_none (.inl h))
    · exact exec_barv_bounds hl (barvAddr_none (.inr h))
    · by_cases ha : (t.getS a).toNat % 16 = 0
      · rw [exec_barv_loft hl ha hv hn, sync_bounds (.inl ⟨hv, .inr hp⟩)]
        rfl
      · exact exec_barv_bounds hl (barvAddr_none (.inl ha))
  · rw [exec_bwait, onBarrier_reached hl _ ha hp hf, ← BitVec.testBit_toNat, w64_num_toNat]
    obtain ⟨w, hw, e⟩ := barrierWait_eq (s.reached t [((t.getS a).toNat, 16)] false) t (t.getS a).toNat
    beta_reduce
    split
    · exact ⟨w, hw, by rw [e]; rfl⟩
    · rfl
  · rw [exec_bwaitPh, onBarrier_reached hl _ ha hp hf]
    simp only [← BitVec.testBit_toNat, w64_num_toNat, beq_iff_eq]
    obtain ⟨w, hw, e⟩ := barrierWait_eq (s.reached t [((t.getS a).toNat, 16)] false) t (t.getS a).toNat
    split
    · exact ⟨w, hw, by rw [e]; rfl⟩
    · rfl

end Sys2Proof.Proofs
end

section
/-!
PROOFS. What the synchronising steps leave alone: at most their word is stored (R383, R386, R388, R389, R393). Settles O57.
-/
namespace Sys2Proof.Proofs
open Machine Laws

section
variable {s r q : State} {t : Task} {write : Bool} {n pa : Nat} {v arg cmp w : W64} {bs : List Byte}

/-! ## Each step stores to its word alone -/

theorem storesAt_refl : StoresAt s t pa n q q := storesAt_of_storage rfl

theorem partition_of_storage {q' : State} (h : storageOf q' = storageOf q) (m : CoreId) : partitionOf (q'.core m) = partitionOf (q.core m) :=
  congrArg (·.2.2.2.2.2) (congrFun (congrArg Prod.snd h) m)

/-- A store leaves the wait-for table. -/
theorem putWord64_wf {x : Nat} (h : Within s t n pa) (h0 : 0 < n) (hn : n < 64) (hq : ∀ m, partitionOf (q.core m) = partitionOf (s.core m)) :
    (q.putWord64 t.ctx pa n x).dev.wf = q.dev.wf := by
  obtain ⟨m, e⟩ | ⟨m, e⟩ := putWord64_forms (w := x) h h0 hn hq <;> rw [e] <;> rfl

theorem release_wf (d : Device) (p : WfEntry → Bool) : (d.release p).wf = d.wf.filter fun e => !p e := rfl

/-- An ownership record keeps a table of records one of records. -/
theorem ownLock_records {m : CoreId} {x tid : BitVec 16} (h : ∀ e ∈ q.dev.wf, e.record = true) :
    ∀ e ∈ (q.ownLock m x tid pa).dev.wf, e.record = true := by
  unfold State.ownLock
  split
  · intro e he
    obtain he | he := List.mem_append.1 (show e ∈ q.dev.wf ++ [_] from he)
    · exact h e he
    · rw [List.mem_singleton.1 he]
  · exact h

/-- A lock that is taken, with its record, or is found held (R393). -/
theorem lockStep_stores {try_ : Bool} (h : InHand s t write 8 v pa r) (hwf : r.dev.wf = []) {q' : State} (hp : r.lockStep t try_ pa = (q', .done w bs)) :
    StoresAt s t pa 8 r q' := by
  have hpart := inHand_partitions h
  unfold State.lockStep at hp
  dsimp only at hp
  split at hp
  · cases hp
    have hput := (putWord64_at (w := lockWord t.ctx t.tid) (q := r.modDev (·.unreserve t.tid)) (inHand_within h) (by omega) (by omega) hpart).2
    have hwf' : ((r.modDev (·.unreserve t.tid)).putWord64 t.ctx pa 8 (lockWord t.ctx t.tid)).dev.wf = [] :=
      (putWord64_wf (q := r.modDev (·.unreserve t.tid)) (inHand_within h) (by omega) (by omega) hpart).trans hwf
    have hwf'' : (((r.modDev (·.unreserve t.tid)).putWord64 t.ctx pa 8 (lockWord t.ctx t.tid)).dropEdge t).dev.wf = [] := by
      rw [State.dropEdge]
      exact (release_wf ..).trans (by rw [hwf']; rfl)
    rw [rewire_records (ownLock_records (by simp [hwf'']))]
    exact storesAt_congr rfl hput ((storageOf_ownLock ..).trans (storageOf_dropEdge ..))
  · split at hp
    · cases hp
      exact storesAt_of_storage rfl
    · cases hp

/-- A lock that is given back is zeroed: nobody waits for it. -/
theorem unlockStep_stores (h : InHand s t write 8 v pa r) (hwf : r.dev.wf = []) {q' : State} (hp : r.unlockStep t pa = (q', .done w bs)) :
    StoresAt s t pa 8 r q' := by
  unfold State.unlockStep at hp
  dsimp only at hp
  split at hp
  · cases hp
  · generalize hq : r.modDev (·.release _) = q₁ at hp
    have hst : storageOf q₁ = storageOf r := by rw [← hq]; exact storageOf_release ..
    have hwf₁ : q₁.dev.wf = [] := by
      rw [← hq]
      exact (release_wf ..).trans (by rw [hwf]; rfl)
    have hnone : q₁.lockWaiters t.ctx pa = [] := by rw [State.lockWaiters, hwf₁]; rfl
    have hpart (m : CoreId) : partitionOf (q₁.core m) = partitionOf (s.core m) := (partition_of_storage hst m).trans (inHand_partitions h m)
    have hwf₂ : (q₁.putWord64 t.ctx pa 8 0).dev.wf = [] := (putWord64_wf (inHand_within h) (by omega) (by omega) hpart).trans hwf₁
    rw [hnone] at hp
    rw [State.bestWaiter] at hp
    cases hp
    rw [rewire_records (by simp [hwf₂])]
    exact storesAt_congr hst (putWord64_at (inHand_within h) (by omega) (by omega) hpart).2 rfl

/-- A store of both words of an object of the loft. -/
theorem storesAt_loft {o : Nat} (hp : placeOf pa = .window s.cur o) {f : Mem → Mem}
    (hf : ∀ m a, (a < (s.cctx t).base + o ∨ (s.cctx t).base + o + n ≤ a) → (f m).get a = m.get a) :
    StoresAt s t pa n r (r.modCore s.cur fun c => { c with loft := f c.loft }) := by
  refine ⟨fun _ _ => rfl, fun m => modCore_proj (fun c => (coreStorage c).2) r s.cur m _ fun _ => rfl, fun m hm => ?_, ?_⟩
  · rw [modCore_core_ne _ _ hm]
  · rw [hp]
    refine ⟨rfl, fun a ha => ?_⟩
    rw [modCore_core_self]
    exact hf _ a ha

/-- The loft after an arrival at `a`. -/
def arrivedLoft (a x : Nat) (m : Mem) : Mem :=
  let w := barArrive (w64 (m.num a 8)) (w64 (m.num (a + 8) 8)) x
  (m.setNum a 8 w.1.toNat).setNum (a + 8) 8 w.2.toNat

theorem arrive_stores {o : Nat} (hp : placeOf pa = .window s.cur o) (x : Nat) :
    StoresAt s t pa 16 r (r.modCore s.cur (arriveCore ((s.cctx t).base + o) x)) := by
  refine storesAt_loft (f := arrivedLoft ((s.cctx t).base + o) x) hp fun m a ha => ?_
  rw [arrivedLoft, Mem.setNum, Mem.setNum, get_write_outside _ _ _ _ (by rw [leBytes_length]; omega),
    get_write_outside _ _ _ _ (by rw [leBytes_length]; omega)]

/-! ## The steps -/

/-- The width of the word of a step. -/
def stepWidth : SyncOp → Nat → Prop
  | .lock, n | .lockTry, n | .unlock, n => n = 8
  | .arrive, n => n = 16
  | .join, _ => False
  | _, n => 0 < n ∧ n < 64

/-- An operation that only reads stores nothing. -/
theorem apply_of_reads {op : SyncOp} (h : op.writes = false) (k old x c : Nat) : op.apply k old x c = none := by
  cases op with
  | load | waitGe | waitNe => rfl
  | _ => cases h

/-- The word of an atomic is not empty, and shorter than a granule. -/
theorem stepWidth_of_atomic {op : SyncOp} {n : Nat} (h : atomicOp op = true) : stepWidth op n ↔ 0 < n ∧ n < 64 := by
  cases op with
  | load | add | and | or | xch | store | max | min | cas => rfl
  | waitGe | waitNe | lock | lockTry | unlock | arrive | join => cases h

/-- A step that performs stores to its word alone, and nothing when it only reads. -/
theorem perform_stores {op : SyncOp} (h : InHand s t op.writes n v pa r) (hwf : r.dev.wf = []) (hn : stepWidth op n)
    (h16 : n = 16 → ∃ o, placeOf pa = .window s.cur o) {q' : State} (hp : r.perform t op pa n arg cmp = (q', .done w bs)) :
    StoresAt s t pa n r q' ∧ (op.writes = false → storageOf q' = storageOf r) := by
  by_cases ha : atomicOp op = true
  · rw [perform_atomic ha] at hp
    cases hp
    have h0 := (stepWidth_of_atomic ha).1 hn
    generalize hN : op.apply (8 * n) (r.syncWord t.ctx pa n) arg.toNat cmp.toNat = N
    cases N with
    | none => exact ⟨storesAt_refl, fun _ => rfl⟩
    | some y =>
      refine ⟨(putWord64_at (inHand_within h) h0.1 h0.2 (inHand_partitions h)).2, fun hw => ?_⟩
      rw [apply_of_reads hw] at hN
      cases hN
  · cases op
    case lock => cases hn; exact ⟨lockStep_stores h hwf hp, nofun⟩
    case lockTry => cases hn; exact ⟨lockStep_stores h hwf hp, nofun⟩
    case unlock => cases hn; exact ⟨unlockStep_stores h hwf hp, nofun⟩
    case arrive =>
      cases hn
      obtain ⟨o, hpl⟩ := h16 rfl
      rw [perform_arrive h hpl, Prod.mk.injEq] at hp
      exact ⟨hp.1 ▸ arrive_stores hpl _, nofun⟩
    case waitGe => cases congrArg Prod.fst hp; exact ⟨storesAt_refl, fun _ => rfl⟩
    case waitNe => cases congrArg Prod.fst hp; exact ⟨storesAt_refl, fun _ => rfl⟩
    case join => exact hn.elim
    all_goals exact absurd rfl ha

end

theorem settle_wait_not_wentOn (s q : State) (t : Task) (w : Wait) : ¬ (s.settle t (.wait q w)).wentOn := by
  obtain k | ⟨c, k⟩ := registerWait_flow q t w
  · have e : (s.settle t (.wait q w)).flow = _ := k
    simp [State.wentOn, e]
  · have e : (s.settle t (.wait q w)).flow = _ := k
    simp [State.wentOn, e]

/-- What a step on a word at hand leaves when it goes on. -/
theorem sync_stores {s r : State} {t : Task} {n pa : Nat} {v arg cmp : W64} {op : SyncOp} {f : State → W64 → List Byte → Act}
    (hf : ∀ q w bs, ∃ q', f q w bs = .ok q' ∧ storageOf q' = storageOf q) (h : InHand s t op.writes n v pa r) (hwf : r.dev.wf = [])
    (hn : stepWidth op n) (h16 : n = 16 → ∃ o, placeOf pa = .window s.cur o) (hgo : (s.settle t (s.sync t op v n arg cmp f)).wentOn) :
    StoresAt s t pa n r (s.settle t (s.sync t op v n arg cmp f)) ∧
      (op.writes = false → storageOf (s.settle t (s.sync t op v n arg cmp f)) = storageOf r) := by
  rw [sync_inHand h] at hgo ⊢
  obtain ⟨-, e⟩ | ⟨q, w, bs, hp, e⟩ | ⟨q, a, -, -, e⟩ | ⟨q, -, e⟩ := syncHere_cases r t op pa n v arg cmp f
  · rw [e] at hgo
    simp [State.settle, State.wentOn] at hgo
  · obtain ⟨q', hq', hst⟩ := hf (q.countUntethered t (r.syncRoom t op)) w bs
    have hs : storageOf (s.settle t (.ok q')) = storageOf q := (storageOf_goesOn q').trans (hst.trans (storageOf_countUntethered ..))
    obtain ⟨h1, h2⟩ := perform_stores h hwf hn h16 hp
    rw [e, hq']
    exact ⟨storesAt_congr rfl h1 hs, fun hw => hs.trans (h2 hw)⟩
  · rw [e] at hgo
    exact (settle_wait_not_wentOn _ _ _ _ hgo).elim
  · rw [e] at hgo
    simp [State.settle, State.wentOn, State.bounds] at hgo

/-! ## The forms -/

theorem deliver_stores (d : SReg) (q : State) (w : W64) (bs : List Byte) : ∃ q', deliver d q w bs = .ok q' ∧ storageOf q' = storageOf q :=
  ⟨_, rfl, storageOf_modLive ..⟩

/-- From `r` to `s'` a form that stores at most its word, and nothing when it only reads. -/
def StoresWordAlone (s : State) (t : Task) (pa n : Nat) (write : Bool) (r s' : State) : Prop :=
  StoresAt s t pa n r s' ∧ (write = false → storageOf s' = storageOf r)

section
variable {s r : State} {t : Task} {n pa : Nat} {v : W64} {i : Instr} {op : SyncOp} {write : Bool}

/-- A form that is a step on its word. -/
theorem form_stores {arg cmp : W64} {f : State → W64 → List Byte → Act}
    (hx : exec i s = .next (s.settle t (s.sync t op v n arg cmp f))) (hw : op.writes = write)
    (hf : ∀ q w bs, ∃ q', f q w bs = .ok q' ∧ storageOf q' = storageOf q) (h : InHand s t write n v pa r) (hwf : s.dev.wf = [])
    (hn : stepWidth op n) (h16 : n = 16 → v.toNat < 0x300000) {s' : State} (he : exec i s = .next s') (hgo : s'.wentOn) :
    StoresWordAlone s t pa n write r s' := by
  subst hw
  obtain rfl := Host.Outcome.next.inj (hx.symm.trans he)
  refine sync_stores hf h (by rw [inHand_dev h, hwf]) hn (fun e => ?_) hgo
  have hv := h16 e
  unfold InHand at h
  rw [if_pos hv] at h
  obtain ⟨-, -, rfl⟩ := h
  exact ⟨_, placeOf_window _ (by omega)⟩

/-- A form on a barrier object: what it does with the words is to store them, or nothing. -/
theorem barrierForm_stores {a : SReg} {g : Task → Nat → W64 → W64 → State → Act} (hl : s.live = some t)
    (hx : exec i s = onBarrier a write g s) (hv : (t.getS a).toNat < 0x300000) (h : InHand s t write 16 (t.getS a) pa r)
    (hg : ∀ o w0 w1 q, (s.settle t (g t o w0 w1 q)).wentOn →
      g t o w0 w1 q = .ok q ∨ (write = true ∧ ∃ bs, bs.length = 16 ∧ g t o w0 w1 q = .ok (q.loftWrite t o bs)))
    {s' : State} (he : exec i s = .next s') (hgo : s'.wentOn) : StoresWordAlone s t pa 16 write r s' := by
  unfold InHand at h
  rw [if_pos hv] at h
  obtain ⟨ha, ⟨hp, hf, rfl⟩, rfl⟩ := h
  obtain rfl := Host.Outcome.next.inj ((hx.trans (onBarrier_reached hl g ha hp hf)).symm.trans he)
  have hplace : placeOf (windowBase s.cur + (t.getS a).toNat) = .window s.cur (t.getS a).toNat := placeOf_window _ (by omega)
  obtain e | ⟨hw, bs, hlen, e⟩ := hg _ _ _ _ hgo
  · rw [e]
    exact ⟨storesAt_of_storage (storageOf_goesOn _), fun _ => storageOf_goesOn _⟩
  · rw [e, reached_loftWrite]
    refine ⟨storesAt_congr rfl (storesAt_loft hplace fun m a ha => get_write_outside _ _ _ _ (by omega)) (storageOf_goesOn _), fun h => ?_⟩
    rw [hw] at h
    cases h

end

/-- A lock that was not handed over is asked for. -/
theorem exec_lkacq {s : State} {t : Task} (hl : s.live = some t) (hg : t.granted = none) (d a : SReg) (z : Fin 8) :
    exec (.lkacq d a z) s = .next (s.settle t (s.sync t .lock (t.getS a) 8 0 0 (deliver d))) ∧
    exec (.lkacqTry d a z) s = .next (s.settle t (s.sync t .lockTry (t.getS a) 8 0 0 (deliver d))) := by
  have hn : ¬ (t.granted.isSome && t.granted == s.lockPlace t (t.getS a)) = true := by simp [hg]
  exact ⟨(issue_live hl _).trans (by dsimp only; rw [if_neg hn]; rfl), (issue_live hl _).trans (by dsimp only; rw [if_neg hn]; rfl)⟩

theorem exec_mwait {s : State} {t : Task} (hl : s.live = some t) (d a b : SReg) (z : Fin 8) :
    exec (.mwaitGe d a b z) s = .next (s.settle t (s.sync t .waitGe (t.getS a) 8 (t.getS b) 0 (deliver d))) ∧
    exec (.mwaitNe d a b z) s = .next (s.settle t (s.sync t .waitNe (t.getS a) 8 (t.getS b) 0 (deliver d))) :=
  ⟨issue_live hl _, issue_live hl _⟩

theorem exec_lkrel {s : State} {t : Task} (hl : s.live = some t) (a : SReg) (z : Fin 8) :
    exec (.lkrel a z) s = .next (s.settle t (s.sync t .unlock (t.getS a) 8 0 0 fun q _ _ => .ok q)) := issue_live hl _

theorem traps_not_wentOn (s : State) (t : Task) (cls detail : BitVec 8) (info : W64) : ¬ (s.traps t cls detail info).wentOn := by
  simp [State.wentOn, State.traps]

/-- `barv` on an object of the loft. -/
theorem barv_stores {s s' r : State} {t : Task} {d a b : SReg} {z : Fin 8} {pa : Nat} (hl : s.live = some t) (hwf : s.dev.wf = [])
    (h : InHand s t true 16 (t.getS a) pa r) (hv : (t.getS a).toNat < 0x300000) (he : exec (.barv d a b z) s = .next s') (hgo : s'.wentOn) :
    StoresWordAlone s t pa 16 true r s' := by
  have ha : (t.getS a).toNat % 16 = 0 := by
    unfold InHand at h
    rw [if_pos hv] at h
    exact h.1
  by_cases hn : (t.getS b).toNat < 2 ^ 36
  · exact form_stores (exec_barv_loft hl ha hv hn) rfl (deliver_stores d) h hwf rfl (fun _ => hv) he hgo
  · rw [exec_barv_tooMany hl (barvAddr_loft ha hv) (by omega)] at he
    cases he
    exact (traps_not_wentOn _ _ _ _ _ hgo).elim

/-- Every synchronising form is a step on its word, or acts on the two words of a barrier object. -/
theorem syncForm_stores {s s' r : State} {t : Task} {i : Instr} {v : W64} {n : Nat} {write : Bool} {pa : Nat} (hl : s.live = some t)
    (hg : t.granted = none) (hwf : s.dev.wf = []) (hi : syncPlace t i = some (v, n, write)) (h : InHand s t write n v pa r)
    (h16 : n = 16 → v.toNat < 0x300000) (he : exec i s = .next s') (hgo : s'.wentOn) : StoresWordAlone s t pa n write r s' := by
  have hatomic {d a b : SReg} (hf : atomicForm i = some (d, a, b, n, write)) (hv : v = t.getS a) : StoresWordAlone s t pa n write r s' := by
    subst hv
    obtain ⟨hat, hw, -, hn⟩ := atomicOpOf_spec hf
    have hstep : stepWidth (atomicOpOf i) n := (stepWidth_of_atomic hat).2 (by omega)
    exact form_stores (exec_atomicForm hl hf) hw (deliver_stores d) h hwf hstep h16 he hgo
  have hskip (q : State) (w : W64) (bs : List Byte) : ∃ q', Act.ok q = .ok q' ∧ storageOf q' = storageOf q := ⟨q, rfl, rfl⟩
  unfold syncPlace at hi
  split at hi <;> cases hi
  case h_10 => exact form_stores (exec_mwait hl _ _ _ _).1 rfl (deliver_stores _) h hwf (by simp [stepWidth]) h16 he hgo
  case h_11 => exact form_stores (exec_mwait hl _ _ _ _).2 rfl (deliver_stores _) h hwf (by simp [stepWidth]) h16 he hgo
  case h_12 => exact form_stores (exec_lkacq hl hg _ _ _).1 rfl (deliver_stores _) h hwf rfl h16 he hgo
  case h_13 => exact form_stores (exec_lkacq hl hg _ _ _).2 rfl (deliver_stores _) h hwf rfl h16 he hgo
  case h_14 => exact form_stores (exec_lkrel hl _ _) rfl hskip h hwf rfl h16 he hgo
  case h_15 => exact barv_stores hl hwf h (h16 rfl) he hgo
  case h_16 => exact barrierForm_stores hl (exec_binit ..) (h16 rfl) h (fun o _ _ q _ => .inr ⟨rfl, _, rfl, rfl⟩) he hgo
  case h_17 =>
    refine barrierForm_stores hl (exec_bexp ..) (h16 rfl) h (fun o w0 w1 q hq => ?_) he hgo
    unfold expectStep at hq ⊢
    cases hx : barExpect w0 w1 (t.getS _).toNat with
    | none =>
      rw [hx] at hq
      simp [State.settle, State.wentOn] at hq
    | some p => exact .inr ⟨rfl, barrierBytes p.1 p.2, by simp [barrierBytes], rfl⟩
  case h_18 =>
    refine barrierForm_stores hl (exec_bwait ..) (h16 rfl) h (fun o w0 w1 q hq => .inl (if_neg fun hc => ?_)) he hgo
    rw [if_pos hc] at hq
    exact (settle_wait_not_wentOn _ _ _ _ hq).elim
  case h_19 =>
    refine barrierForm_stores hl (exec_bwaitPh ..) (h16 rfl) h (fun o w0 w1 q hq => .inl (if_neg fun hc => ?_)) he hgo
    rw [if_pos hc] at hq
    exact (settle_wait_not_wentOn _ _ _ _ hq).elim
  all_goals exact hatomic rfl rfl

/-- Settles O57: a form stores at most its word, and nothing when it only reads. -/
theorem synchronisingStepsStoreTheirWordAlone : Obligations.SynchronisingStepsStoreTheirWordAlone := by
  intro s s' r t i v n write pa hl hg hwf hi h h16 he hgo
  obtain ⟨hstores, hread⟩ := syncForm_stores hl hg hwf hi h h16 he hgo
  obtain ⟨hdram, hcore, hloft, hhere⟩ := hstores
  have hsame (hw : write = false) : s'.dev.dram = r.dev.dram ∧ ∀ m, (s'.core m).loft = (r.core m).loft :=
    ⟨congrArg Prod.fst (hread hw), fun m => congrArg Prod.fst (congrFun (congrArg Prod.snd (hread hw)) m)⟩
  refine ⟨fun a ha => ?_, fun m a => ?_, hloft, ?_⟩
  · obtain hw | ha := ha
    · rw [(hsame hw).1]
    · exact hdram a ha
  · have htags : (s'.core m).tags = (r.core m).tags := congrArg (·.1) (hcore m)
    exact ⟨by rw [htags], congrArg (·.2.1) (hcore m), congrArg (·.2.2.1) (hcore m), congrArg (·.2.2.2.1) (hcore m)⟩
  · generalize placeOf pa = place at hhere ⊢
    cases place with
    | window m o =>
      refine ⟨hhere.1, fun a ha => ?_⟩
      obtain hw | ha := ha
      · rw [(hsame hw).2]
      · exact hhere.2 a ha
    | dram m o => exact hhere
    | reserved => exact hhere

end Sys2Proof.Proofs
end

section
/-!
PROOFS. Fences, drains and explicit entries of the wait-for table (R377, R390, R392). Settles O37.
-/
namespace Sys2Proof.Proofs
open Machine Laws

/-! ## What naming the owners anew keeps of the table -/

/-- Every entry of the later table stood in the earlier one, but for its owner. -/
def EntriesFrom (d d' : Device) : Prop := ∀ e ∈ d'.wf, ∃ f ∈ d.wf, { f with owner := e.owner } = e

theorem entriesFrom_sub {d d' : Device} (h : ∀ e ∈ d'.wf, e ∈ d.wf) : EntriesFrom d d' := fun e he => ⟨e, h e he, rfl⟩

theorem EntriesFrom.trans {d d' d'' : Device} (h : EntriesFrom d d') (h' : EntriesFrom d' d'') : EntriesFrom d d'' := fun e he => by
  obtain ⟨f, hf, ef⟩ := h' e he
  obtain ⟨g, hg, eg⟩ := h f hf
  refine ⟨g, hg, ?_⟩
  rw [← ef, ← eg]

theorem writeDeadlock_wf (s : State) (t : Task) (path : List WfEntry) : (s.writeDeadlock t path).1.dev.wf = s.dev.wf := by
  unfold State.writeDeadlock
  dsimp only
  split
  · split <;> rfl
  · split <;> rfl
  · rfl

theorem pendDeadlock_entries (s : State) (e : WfEntry) (path : List WfEntry) : EntriesFrom s.dev (s.pendDeadlock e path).dev := by
  refine entriesFrom_sub fun x hx => ?_
  unfold State.pendDeadlock at hx
  dsimp only at hx
  have hrel : ∀ y ∈ (s.modDev (·.release (·.idx == e.idx))).dev.wf, y ∈ s.dev.wf := fun y hy => (List.mem_filter.1 hy).1
  generalize s.modDev (·.release (·.idx == e.idx)) = q at hx hrel
  split at hx
  · exact hrel x hx
  next n t _ =>
    have hw := writeDeadlock_wf ({ q with cur := n } : State) t path
    exact hrel x (hw ▸ hx)

theorem rewireEdge_entries {s : State} {e : WfEntry} (he : e ∈ s.dev.wf) : EntriesFrom s.dev (s.rewireEdge e).dev := by
  unfold State.rewireEdge
  dsimp only
  split
  · exact entriesFrom_sub fun _ h => h
  have hmap : EntriesFrom s.dev
      (s.modDev fun d => { d with wf := d.wf.map fun x => if x.idx == e.idx then { e with owner := s.ownerOf e } else x }).dev := by
    intro x hx
    obtain ⟨y, hy, rfl⟩ := List.mem_map.1 hx
    split
    · exact ⟨e, he, rfl⟩
    · exact ⟨y, hy, rfl⟩
  generalize s.modDev _ = q at hmap ⊢
  split
  · exact hmap
  · exact hmap
  · exact hmap.trans (pendDeadlock_entries _ _ _)

/-- Naming the owners anew changes owners, and may take entries out. -/
theorem rewire_entries (s : State) : EntriesFrom s.dev s.rewire.dev := by
  unfold State.rewire
  suffices h : ∀ (l : List WfEntry) (q : State), EntriesFrom s.dev q.dev →
      EntriesFrom s.dev (l.foldl (fun s e => if s.dev.wf.contains e then s.rewireEdge e else s) q).dev from
    h _ s (entriesFrom_sub fun _ h => h)
  intro l
  induction l with
  | nil => exact fun q h => h
  | cons e l ih =>
    intro q h
    refine ih _ ?_
    dsimp only
    split
    next hc => exact h.trans (rewireEdge_entries (List.contains_iff_mem.1 hc))
    next => exact h

theorem goesOn_wf_sub (s : State) : ∀ e ∈ s.goesOn.dev.wf, e ∈ s.dev.wf := by
  intro e he
  have h : e ∈ s.endWait.dev.wf := he
  unfold State.endWait at h
  split at h
  · exact h
  · exact (List.mem_filter.1 h).1

/-- An explicit entry stays when its instruction goes on. -/
theorem goesOn_wf_expl {s : State} {e : WfEntry} (he : e ∈ s.dev.wf) (hx : e.expl = true) : e ∈ s.goesOn.dev.wf := by
  change e ∈ s.endWait.dev.wf
  unfold State.endWait
  split
  · exact he
  · exact List.mem_filter.2 ⟨he, by simp [WfEntry.implicitOf, hx]⟩

/-! ## Fences and drains -/

theorem oldestOf_nonempty {α : Type} {l : List (Nat × α)} (h : l ≠ []) : ∃ o, oldestOf l = some o := by
  obtain ⟨p, q, rfl⟩ := List.exists_cons_of_ne_nil h
  unfold oldestOf
  rw [List.foldl_cons]
  dsimp only
  suffices hs : ∀ (l : List (Nat × α)) (p : Nat × α), ∃ r,
      l.foldl (fun (o : Option (Nat × α)) p => match o with | some q => if p.1 < q.1 then some p else o | none => some p) (some p) = some r by
    obtain ⟨r, e⟩ := hs q p
    exact ⟨r.2, congrArg (Option.map (·.2)) e⟩
  intro l
  induction l with
  | nil => exact fun p => ⟨p, rfl⟩
  | cons x l ih =>
    intro p
    rw [List.foldl_cons]
    dsimp only
    split <;> exact ih _

section
variable {s : State} {t : Task}

theorem draining_none (hp : t.posting = false) (hc : ∀ c ∈ t.cmds, c.status = .building) (hy : ∀ y ∈ (s.core s.cur).syncs, y.tid ≠ t.tid) :
    s.draining t = none := by
  have hcom : t.committed = [] := List.filter_eq_nil_iff.2 fun c h => by simp [hc c h]
  have hsync : s.syncsOf t = [] := by
    have : (s.core s.cur).syncs.filter (·.tid == t.tid) = [] := List.filter_eq_nil_iff.2 fun y h => by simp [hy y h]
    unfold State.syncsOf
    dsimp only
    rw [this]
    rfl
  unfold State.draining
  rw [hcom, hsync, hp]
  rfl

theorem draining_some (h : t.posting = true ∨ (∃ c ∈ t.cmds, c.status ≠ .building) ∨ ∃ y ∈ (s.core s.cur).syncs, y.tid = t.tid) :
    ∃ w : Wait, w.okind = 0x0E ∧ s.draining t = some w := by
  unfold State.draining
  split
  next o e => exact ⟨_, rfl, rfl⟩
  next e =>
    have hnil : t.committed.map (fun k => (k.age, k.wfOwner)) ++ s.syncsOf t = [] := by
      by_contra hne
      obtain ⟨o, ho⟩ := oldestOf_nonempty hne
      rw [ho] at e
      cases e
    obtain ⟨hcom, hsync⟩ := List.append_eq_nil_iff.1 hnil
    obtain hp | ⟨c, hc, hb⟩ | ⟨y, hy, ht⟩ := h
    · exact ⟨_, rfl, if_pos hp⟩
    · exact absurd (List.filter_eq_nil_iff.1 (List.map_eq_nil_iff.1 hcom) c hc) (by simpa using hb)
    · unfold State.syncsOf at hsync
      exact absurd (List.filter_eq_nil_iff.1 (List.map_eq_nil_iff.1 hsync) y hy) (by simpa using ht)

end

/-! ## Explicit entries -/

/-- The entry of `teth` or `tethown`, before it is numbered (R392). -/
def tetherEntry (s : State) (t : Task) (record : Bool) (a : SReg) : WfEntry :=
  { idx := 0, record := record, expl := true, okind := 0x11, obj := BitVec.ofNat 48 ((t.getS a).fld 0 48), tid := t.tid, ctx := t.ctx,
    core := s.cur, owner := if record then .unknown else s.newOwner t 0x11 ((t.getS a).fld 0 48) }

theorem fld_object (v : W64) : v.fld 0 48 = (v.setWidth 48).toNat := by
  rw [fld_zero, BitVec.toNat_setWidth]

theorem object_eq (v : W64) : BitVec.ofNat 48 (v.fld 0 48) = v.setWidth 48 := by
  rw [fld_object, BitVec.ofNat_toNat, BitVec.setWidth_eq]

section
variable {s : State} {t : Task} {k : CoreCtx} {d a : SReg} {record : Bool} (hl : s.live = some t)

/-- The state with an entry inserted and its number delivered. -/
def insertedTether (s : State) (t : Task) (d : SReg) (e : WfEntry) : State :=
  (s.insertEntry e).1.setLive (t.setS d (w64 (s.insertEntry e).2.val))

/-- What `teth` and `tethown` do. -/
def tetherStep (s : State) (d : SReg) (t : Task) (record : Bool) (a : SReg) : Act :=
  if !s.wfRoom s.cur t.ctx t.tid then
    if (s.cctx t).wfcfg.getLsbD 63 then
      .ok ((s.modCctx t fun k => { k with unteth := sat32 k.unteth }).setLive (t.setS d (BitVec.allOnes 64)))
    else .trap (s.trapHere t 0x05 0 (s.dev.wfuse t.ctx))
  else if record then .ok (insertedTether s t d (tetherEntry s t record a)).rewire
  else
    match s.search (tetherEntry s t record a) with
    | .none => .ok (insertedTether s t d (tetherEntry s t record a))
    | .deep => .ok ((insertedTether s t d (tetherEntry s t record a)).countDeep t)
    | .cycle p => .entered (s.deadlock t p)

include hl in
theorem exec_tether : exec (if record then .tethown d a else .teth d a) s = .next (s.settle t (tetherStep s d t record a)) := by
  have hx : exec (if record then .tethown d a else .teth d a) s = tether record d a s := by cases record <;> rfl
  rw [hx, tether, issue_live hl]
  rfl

/-- A free entry is one that none has. -/
theorem insertEntry_fresh {e : WfEntry} (h : s.dev.wfFree ≠ []) : ∀ f ∈ s.dev.wf, f.idx ≠ (s.insertEntry e).2 := by
  have hlt : Config.pick s.free % Max.max s.dev.wfFree.length 1 < s.dev.wfFree.length := by
    have hpos := List.length_pos_of_ne_nil h
    have := Nat.mod_lt (Config.pick s.free) (show 0 < Max.max s.dev.wfFree.length 1 by omega)
    omega
  have hmem : (s.insertEntry e).2 ∈ s.dev.wfFree := by
    have e2 : (s.insertEntry e).2 = s.dev.wfFree.getD (Config.pick s.free % Max.max s.dev.wfFree.length 1) 0 := by
      simp only [State.insertEntry, State.choose]
    rw [e2, List.getD_eq_getElem _ _ hlt]
    exact List.getElem_mem _
  intro f hf he
  have hfree := (List.mem_filter.1 hmem).2
  simp only [Bool.not_eq_true', List.any_eq_false, beq_iff_eq] at hfree
  exact hfree f hf he

/-- The table with an entry inserted. -/
theorem insertedTether_wf (e : WfEntry) :
    (insertedTether s t d e).dev.wf = s.dev.wf ++ [{ e with idx := (s.insertEntry e).2, since := s.dev.now }] := by
  unfold insertedTether State.insertEntry
  dsimp only
  rfl

theorem wfFree_of_room {n : CoreId} {x tid : BitVec 16} (h : s.wfRoom n x tid = true) : s.dev.wfFree ≠ [] := by
  intro hnil
  simp [State.wfRoom, Device.wfOpen, hnil] at h

/-- An edge that would be alone in the table closes no cycle, unless its owner is its own waiter (R375). -/
theorem search_alone {e : WfEntry} (hrec : ∀ f ∈ s.dev.wf, f.record = true) (he : e.ownerTask ≠ some e.tid) : s.search e = .none := by
  have hedges (u : BitVec 16) : s.dev.edgesOf u = [] := List.filter_eq_nil_iff.2 fun f hf => by simp [hrec f hf]
  unfold State.search
  cases ho : e.ownerTask with
  | none => rfl
  | some u =>
    have hne : u ≠ e.tid := fun h => he (h ▸ ho)
    dsimp only
    rw [if_neg hne, hedges]
    simp only [State.walkFrom]

/-- The owner of an explicit object is a task that holds it, or nobody (R373). -/
theorem newOwner_explicit (t : Task) (obj : Nat) : s.newOwner t 0x11 obj = .unknown ∨ ∃ u, s.newOwner t 0x11 obj = .task u := by
  have hk : (0x11 : BitVec 5).toNat = 0x11 := rfl
  unfold State.newOwner State.ownerOf
  simp only [hk]
  split
  · exact .inr ⟨_, rfl⟩
  · exact .inl rfl

theorem tetherEntry_open (hrec : ∀ f ∈ s.dev.wf, f.record = true) (ho : s.newOwner t 0x11 ((t.getS a).fld 0 48) ≠ .task t.tid) :
    s.search (tetherEntry s t false a) = .none := by
  refine search_alone hrec fun h => ?_
  have hown : (tetherEntry s t false a).owner = s.newOwner t 0x11 ((t.getS a).fld 0 48) := rfl
  unfold WfEntry.ownerTask at h
  rw [hown] at h
  obtain e | ⟨u, e⟩ := newOwner_explicit (s := s) t ((t.getS a).fld 0 48)
  · rw [e] at h
    cases h
  · rw [e] at h ho
    exact ho (congrArg WfOwner.task (Option.some.inj h))

end

section
variable {s : State} {t : Task} {k : CoreCtx} {d a : SReg} {record : Bool} (hl : s.live = some t)
include hl

/-- What the `unteth` forms leave of the table: no explicit entry of the task that they name, whatever its owner. -/
theorem untether_leaves (p : Task → WfEntry → Bool) : ∃ q, untether p s = .next q ∧ q.wentOn ∧
    ∀ e ∈ q.dev.wf, ∃ o, ¬ (e.expl = true ∧ e.tid = t.tid ∧ p t { e with owner := o } = true) := by
  refine ⟨_, issue_ok hl rfl, trivial, fun e he => ?_⟩
  obtain ⟨f, hf, ef⟩ := rewire_entries _ e (goesOn_wf_sub _ e he)
  have hfe : { e with owner := f.owner } = f := by rw [← ef]
  refine ⟨f.owner, fun ⟨hx, ht, hp⟩ => ?_⟩
  have hxf : f.expl = true := (congrArg (·.expl) ef).trans hx
  have htf : f.tid = t.tid := (congrArg (·.tid) ef).trans ht
  have hkeep := (List.mem_filter.1 hf).2
  rw [hfe] at hp
  simp [hp, hxf, htf] at hkeep

/-- Without room an entry is refused under POL = 0. -/
theorem tether_overflows (hr : s.wfRoom s.cur t.ctx t.tid = false) (hpol : (s.cctx t).wfcfg.getLsbD 63 = false) :
    exec (if record then .tethown d a else .teth d a) s = .next (s.traps t 0x05 0 (s.dev.wfuse t.ctx)) := by
  rw [exec_tether hl, tetherStep, if_pos (by simp [hr]), if_neg (by rw [hpol]; exact Bool.false_ne_true)]
  rfl

/-- Under POL = 1 the task goes on without one, and is counted. -/
theorem tether_counts (hr : s.wfRoom s.cur t.ctx t.tid = false) (hpol : (s.cctx t).wfcfg.getLsbD 63 = true) :
    exec (if record then .tethown d a else .teth d a) s =
      .next ((s.modCctx t fun k => { k with unteth := sat32 k.unteth }).thenTask (t.setS d (BitVec.allOnes 64))) := by
  rw [exec_tether hl, tetherStep, if_pos (by simp [hr]), if_pos hpol]
  rfl

/-- With room, and no edge in the table, the entry is inserted. -/
theorem tether_inserts (hr : s.wfRoom s.cur t.ctx t.tid = true) (hrec : ∀ e ∈ s.dev.wf, e.record = true)
    (ho : s.newOwner t 0x11 ((t.getS a).fld 0 48) ≠ .task t.tid) :
    exec (if record then .tethown d a else .teth d a) s = .next (insertedTether s t d (tetherEntry s t record a)).goesOn := by
  rw [exec_tether hl, tetherStep, if_neg (by simp [hr])]
  cases record with
  | true =>
    have hall : ∀ e ∈ (insertedTether s t d (tetherEntry s t true a)).dev.wf, e.record = true := fun e he => by
      obtain he | he := List.mem_append.1 (show e ∈ s.dev.wf ++ [_] from he)
      · exact hrec e he
      · rw [List.mem_singleton.1 he]
        rfl
    rw [if_pos rfl, rewire_records hall]
    rfl
  | false =>
    rw [if_neg (by simp), tetherEntry_open hrec ho]
    rfl

end

/-- Settles O37. -/
theorem drainsAndTethers : Obligations.DrainsAndTethers := by
  intro s t k d a z hl hk
  have hcc : s.cctx t = k := by rw [State.cctx, hk]; rfl
  refine ⟨fun h => ⟨?_, ?_⟩, fun h => ⟨?_, ?_⟩, fun hp hc hy => ?_, fun h => ?_, ?_, ?_, ?_, ?_⟩
  · exact issue_ok hl (by simp [h])
  · exact issue_ok hl (by simp [h])
  · exact issue_waits hl (by simp [h]; rfl)
  · exact ⟨_, rfl, rfl, issue_waits hl (if_pos h)⟩
  · exact issue_ok hl (by simp only [draining_none hp hc hy])
  · obtain ⟨w, hw, e⟩ := draining_some h
    exact ⟨w, hw, issue_waits hl (by simp only [e])⟩
  · rintro record i rfl
    refine ⟨fun hr hpol => ?_, fun hr hpol => ?_, fun hr hrec ho => ?_⟩
    · exact tether_overflows hl hr (by rwa [hcc])
    · refine ⟨_, tether_counts hl hr (by rwa [hcc]), _, thenTask_live .., trivial, rfl, { k with unteth := sat32 k.unteth }, ?_, rfl⟩
      rw [thenTask_core_proj (·.cctx t.ctx) _ _ _ fun _ _ _ => rfl, State.modCctx, modCore_core_self, cctx_modCtx, hk]
      · rfl
      · exact fun _ => rfl
    · rw [← fld_object] at ho
      obtain ⟨e', hmem, he'⟩ : ∃ e' ∈ (insertedTether s t d (tetherEntry s t record a)).goesOn.dev.wf,
          e' = { tetherEntry s t record a with idx := (s.insertEntry (tetherEntry s t record a)).2, since := s.dev.now } :=
        ⟨_, goesOn_wf_expl (by rw [insertedTether_wf]; exact List.mem_append_right _ (List.mem_singleton_self _)) rfl, rfl⟩
      have hfresh := insertEntry_fresh (e := tetherEntry s t record a) (wfFree_of_room hr)
      have hidx : e'.idx = (s.insertEntry (tetherEntry s t record a)).2 := by rw [he']
      have hregs : (unwaiting (t.setS d (w64 (s.insertEntry (tetherEntry s t record a)).2.val))).regs =
          (t.setS d (BitVec.ofNat 64 e'.idx.val)).regs := by rw [hidx]; rfl
      have hobj : e'.obj = (t.getS a).setWidth 48 := (congrArg (·.obj) he').trans (object_eq _)
      rw [← hidx] at hfresh
      refine ⟨_, tether_inserts hl hr hrec ho, _, e', thenTask_live .., trivial, hmem, ?_, ?_, ?_, hobj, ?_, ?_, hfresh, hregs⟩
      all_goals rw [he']; rfl
  · obtain ⟨q, hx, hgo, h⟩ := untether_leaves hl fun t e => !e.record && e.obj.toNat == (t.getS a).fld 0 48
    refine ⟨q, hx, hgo, fun e he ⟨h1, h2, h3, h4⟩ => ?_⟩
    obtain ⟨o, ho⟩ := h e he
    exact ho ⟨h1, h2, by simp [h3, h4, fld_object]⟩
  · obtain ⟨q, hx, hgo, h⟩ := untether_leaves hl fun t e => e.record && e.obj.toNat == (t.getS a).fld 0 48
    refine ⟨q, hx, hgo, fun e he ⟨h1, h2, h3, h4⟩ => ?_⟩
    obtain ⟨o, ho⟩ := h e he
    exact ho ⟨h1, h2, by simp [h3, h4, fld_object]⟩
  · obtain ⟨q, hx, hgo, h⟩ := untether_leaves hl fun _ _ => true
    refine ⟨q, hx, hgo, fun e he ⟨h1, h2⟩ => ?_⟩
    obtain ⟨o, ho⟩ := h e he
    exact ho ⟨h1, h2, rfl⟩

end Sys2Proof.Proofs
end

section
/-!
PROOFS. A lock that is handed over while another task's record names the same word (R373, R376, R393): the owners of the waiters are named anew,
and the record of a deadlock found there is written over the lock word. Refutes O35.
-/
namespace Sys2Proof.Proofs
open Machine Laws

/-- Task 1 gives back the lock at 0x10000; its context's deadlock area begins there, and its table has no room. -/
def releasingTask : Task := demoTask [(8, 0x10000)]
def deadlockCtx : CoreCtx := { demoCtx with wfdl := 0x8000000000000400, wfcfg := 1 }
def otherWaiter : Task := { tid := 9, ctx := 1, pc := 0x10000 }

/-- A record of task 9 for the lock, and the edges of tasks 5 and 9, which wait for task 1. -/
def lockEdge (i : Fin 4096) (record : Bool) (tid : BitVec 16) : WfEntry :=
  ⟨i, record, false, 0x02, BitVec.ofNat 48 (windowBase 0 + 0x10000), tid, 1, 0, .task 1, 0, false⟩

/-- The state in which task 1 holds the lock. -/
def handOverState : State :=
  demoOn { demoCore releasingTask deadlockCtx with
      loft := Mem.setNum [] 0x10000 8 0x8000000000010001, banks := (demoCore releasingTask deadlockCtx).banks.set 1 (some otherWaiter) }
    { power := .running, wf := [lockEdge 0 true 9, lockEdge 1 false 5, lockEdge 2 false 9] }

theorem inHand_handOverState : InHand handOverState releasingTask true 8 0x10000 (windowBase 0 + 0x10000)
    (handOverState.reached releasingTask [(0x10000, 8)] true) := by
  unfold InHand
  exact ⟨by decide, ⟨by decide, rfl, rfl⟩, by decide⟩

/-- The lock word after an outcome. -/
def lockWordAfter : Out → Option Nat
  | .next s => some (wordAt s releasingTask (windowBase 0 + 0x10000) 8)
  | _ => none

/-- Task 9's edge names task 9 as its owner once the lock is task 5's; word 0 of the deadlock record (R376) stands in the lock word. -/
theorem lkrel_recordedWord : lockWordAfter (exec (.lkrel 8 0) handOverState) = some 0x0001010000000000 := by decide +kernel

/-- Refutes O35: the word of a lock that is handed over need not hold the new holder when the instruction is over. A record of another waiter makes
that waiter its own owner, and the record of the deadlock is written over the word. -/
theorem not_locksAndMonitorWaits : ¬ Obligations.LocksAndMonitorWaits := by
  intro h
  have hold : wordAt (handOverState.reached releasingTask [(0x10000, 8)] true) releasingTask (windowBase 0 + 0x10000) 8 = 0x8000000000010001 := by
    decide +kernel
  have hws : handOverState.lockWaiters 1 (windowBase 0 + 0x10000) = [lockEdge 1 false 5, lockEdge 2 false 9] := by decide +kernel
  obtain ⟨-, -, hrel, -⟩ := h handOverState releasingTask deadlockCtx 0 8 0 0 (windowBase 0 + 0x10000) _ rfl rfl
  obtain ⟨s', hs, -, pre, e, post, -, -, -, hword, -⟩ := hrel inHand_handOverState (by rw [hold]; decide) (by rw [hold]; decide) (by rw [hold]; decide)
    (by decide +kernel) (by decide +kernel) (by decide +kernel)
  have hrec := lkrel_recordedWord
  rw [hs, lockWordAfter, hword] at hrec
  have := Option.some.inj hrec
  omega

end Sys2Proof.Proofs
end

section
/-!
PROOFS. Register and signal commands (R302 to R307): a register command moves one row of at most 16 KB, so that its destination meets at most two
of the spaces of a core window. Settles O33.
-/
namespace Sys2Proof.Proofs
open Machine Laws

/-! ## The bytes of one row -/

/-- A run that stands for nothing of `lo … hi − 1` touches nothing there. -/
theorem leastTouched_run {len : Nat} {lo hi a step : Int} {v : Int} (hlen : 0 < len) (hs : 0 < step)
    (h : leastTouched len lo hi [[{ first := 0, count := 1, step := step }]] a = some v) : lo < a + len ∧ a < hi := by
  have hspan : termSpan [{ first := 0, count := 1, step := step }] = some (0, 0) := by simp [termSpan]
  rw [leastTouched, hspan, termsSpan] at h
  dsimp only at h
  split at h
  · omega
  · have hz : ∀ i ∈ ({ first := 0, count := 1, step := step } : Prog).between (lo - a - 0 - len) (hi - a - 0), i = 0 := by
      intro i hi
      rw [Prog.between] at hi
      dsimp only at hi
      rw [if_pos hs] at hi
      obtain ⟨j, hj, rfl⟩ := List.mem_map.1 hi
      rw [List.mem_range] at hj
      omega
    by_contra hno
    have hnone : ∀ x ∈ ([{ first := 0, count := 1, step := step }] : List Prog).flatMap (fun g =>
        (g.between (lo - a - 0 - len) (hi - a - 0)).map fun (i : Nat) => leastTouched len lo hi [] (a + g.first + i * g.step)), x = none := by
      intro x hx
      simp only [List.flatMap_cons, List.flatMap_nil, List.append_nil] at hx
      obtain ⟨i, hi, rfl⟩ := List.mem_map.1 hx
      rw [hz i hi, leastTouched]
      exact if_neg (by push_cast; omega)
    have hleast : ∀ l : List (Option Int), (∀ x ∈ l, x = none) → leastOf l = none := by
      intro l hl
      unfold leastOf
      induction l with
      | nil => rfl
      | cons x l ih =>
        rw [List.foldl_cons, hl x (List.mem_cons_self ..)]
        exact ih fun y hy => hl y (List.mem_cons_of_mem _ hy)
    rw [hleast _ hnone] at h
    cases h

/-! ## The records of a register command (R302) -/

section
variable {sp base ef n : Nat} (hsp : sp < 4) (hef : ef < 16) (hn : n ≤ 16384) (hl : n * tyWidth ef ≤ 16384)
include hsp hef hn hl

theorem rowRecord_toNat : (rowRecord sp base ef n).toNat =
    base % 2 ^ 56 + sp * 2 ^ 62 + n * tyWidth ef * 2 ^ 64 + n * 2 ^ 128 + 2 ^ 144 + ef * 2 ^ 192 := by
  rw [rowRecord, BitVec.toNat_ofNat]
  apply Nat.mod_eq_of_lt
  omega

theorem rowRecord_fields : rfld (rowRecord sp base ef n) 62 2 = sp ∧ rfld (rowRecord sp base ef n) 0 56 = base % 2 ^ 56 ∧
    rfld (rowRecord sp base ef n) 192 5 = ef ∧ rfld (rowRecord sp base ef n) 64 32 = n * tyWidth ef ∧
    rfld (rowRecord sp base ef n) 144 16 = 1 ∧ rfld (rowRecord sp base ef n) 128 16 = n ∧ rfld (rowRecord sp base ef n) 200 2 = 0 ∧
    rfld (rowRecord sp base ef n) 207 1 = 0 := by
  have h := rowRecord_toNat (base := base) hsp hef hn hl
  simp only [rfld, bits, h]
  generalize n * tyWidth ef = l at hl
  refine ⟨?_, ?_, ?_, ?_, ?_, ?_, ?_, ?_⟩ <;> omega

/-- The side of a register command: one row of `n` units, without bounds or a ring. -/
theorem side_rowRecord : let x := sideOf false (rowRecord sp base ef n)
    x.layout = false ∧ x.space = sp ∧ x.base = base % 2 ^ 56 ∧ x.ef = ef ∧ x.rs = (n * tyWidth ef : Nat) ∧ x.rows = 1 ∧ x.rowlen = n ∧
      x.bcm = 0 ∧ x.ring = none := by
  obtain ⟨h1, h2, h3, h4, h5, h6, h7, h8⟩ := rowRecord_fields (base := base) hsp hef hn hl
  refine ⟨rfl, h1, h2, h3, ?_, h5, h6, h7, ?_⟩
  · have : (sideOf false (rowRecord sp base ef n)).rs = intOf true 32 (rfld (rowRecord sp base ef n) 64 32) := rfl
    rw [this, h4, intOf, Nat.mod_eq_of_lt (by omega), if_neg]
    simp
    omega
  · have : (sideOf false (rowRecord sp base ef n)).ring = if rfld (rowRecord sp base ef n) 207 1 = 1 then _ else none := rfl
    rw [this, h8]
    rfl

end

/-! ## The spaces that a row meets -/

theorem unionRun_some {o o' : Option (Nat × Nat)} {p : Nat × Nat} (h : unionRun o o' = some p) : (∃ x, o = some x) ∨ ∃ x, o' = some x := by
  cases o with
  | some x => exact .inl ⟨x, rfl⟩
  | none => exact .inr ⟨p, h⟩

/-- Without a bound on its buffer a side touches a span only where its runs do. -/
theorem touched_least {src dst : Side} {lo hi a : Int} {len : Nat} {ts : List (List Prog)} {p : Nat × Nat}
    (hr : Side.runs src dst true = (a, len, ts)) (hb : dst.bcm = 0) (h : Side.touched src dst true lo hi = some p) :
    ∃ v, leastTouched len lo hi ts a = some v := by
  have hin : (!dst.layout && (dst.bcm == 1 || dst.bcm == 2)) = false := by rw [hb]; simp
  unfold Side.touched at h
  rw [hr] at h
  simp only [if_true, hin, Bool.false_eq_true, if_false] at h
  cases hx : leastTouched len lo hi ts a with
  | some v => exact ⟨v, rfl⟩
  | none =>
    rw [hx] at h
    cases h

/-- Of runs in one space, of runs in a second and of runs in a third, where the second and the third are not both there, at most two remain. -/
theorem three_lists {α : Type} {x y z : List α} (hx : x.length ≤ 1) (hy : y.length ≤ 1) (hz : z.length ≤ 1) (h : y = [] ∨ z = []) :
    (x ++ y ++ z).length ≤ 2 := by
  rw [List.length_append, List.length_append]
  obtain rfl | rfl := h
  · rw [List.length_nil]; omega
  · rw [List.length_nil]; omega

/-- Of two options not both are there. -/
theorem one_none {α β : Type} {o : Option α} {o' : Option β} (h : ∀ p q, o = some p → o' = some q → False) : o = none ∨ o' = none := by
  cases o with
  | none => exact .inl rfl
  | some p =>
    cases o' with
    | none => exact .inr rfl
    | some q => exact (h p q rfl rfl).elim

/-- The granules of a run of a space, as a list of at most one. -/
def granuleRun (sp : SbSpace) (at_ off : Nat) : Option (Nat × Nat) → List (SbSpace × Nat × Nat)
  | some (p, q) => [(sp, (p - at_ + off) / 64, (q - at_ + off) / 64)]
  | none => []

theorem granuleRun_length (sp : SbSpace) (at_ off : Nat) (r : Option (Nat × Nat)) : (granuleRun sp at_ off r).length ≤ 1 := by
  cases r with
  | none => exact Nat.zero_le _
  | some p => exact Nat.le_refl _

/-- What a destination touches of the bytes from `lo` on. -/
def spanOf (src dst : Side) (lo len : Nat) : Option (Nat × Nat) := Side.touched src dst true lo (lo + len : Nat)

/-- The intervals of a destination in the window space, where `w` is the window of the core. -/
def windowIntervals (src dst : Side) (x : CoreCtx) (w : Nat) : List (SbSpace × Nat × Nat) :=
  granuleRun .loft w x.base (spanOf src dst w x.psize) ++
    granuleRun .sums w 0 (unionRun (spanOf src dst (w + 0x1000000) 0x40000) (spanOf src dst (w + 0x1400000) 0x20000)) ++
    granuleRun .array (w + 0x2000000) 0 (spanOf src dst (w + 0x2000000) 0x100000)

theorem intervals_window {k : Cmd} (m : CoreId) (x : CoreCtx) (hring : ¬ (sideOf k.dl k.dst).ring.isSome = true)
    (hspace : ¬ (sideOf k.dl k.dst).space = 1) :
    k.intervals m x true = windowIntervals (sideOf k.sl k.src) (sideOf k.dl k.dst) x (windowBase m) := by
  rw [Cmd.intervals]
  generalize windowBase m = w
  generalize sideOf k.dl k.dst = dst at *
  generalize sideOf k.sl k.src = src at *
  exact (if_neg hring).trans (if_neg hspace)

section
variable {base ef n : Nat} (hef : 1 ≤ ef ∧ ef ≤ 11) (h0 : n ≠ 0) (hn : n ≤ 16384) (hl : n * tyWidth ef ≤ 16384)
include hef h0 hn hl
omit h0 in
/-- The bytes that a row may touch on its destination side. -/
theorem runs_row (b : Nat) : let dst := sideOf false (rowRecord 0 base ef n)
    Side.runs (sideOf false (rowRecord 2 b ef n)) dst true =
      ((dst.base : Int), n * tyWidth ef, [[{ first := 0, count := 1, step := (n * tyWidth ef : Nat) }]]) := by
  obtain ⟨s1, s2, s3, s4, s5, s6, s7, s8, s9⟩ := side_rowRecord (sp := 2) (base := b) (by omega) (show ef < 16 by omega) hn hl
  obtain ⟨d1, d2, d3, d4, d5, d6, d7, d8, d9⟩ := side_rowRecord (sp := 0) (base := base) (by omega) (show ef < 16 by omega) hn hl
  clear s2 s3 s5 s8 s9 d2 d3 d6 d7 d8 d9
  dsimp only at *
  generalize sideOf false (rowRecord 2 b ef n) = src at *
  generalize sideOf false (rowRecord 0 base ef n) = dst at *
  have hz : ef ≠ 0 := by omega
  have h14 : ef ≠ 14 := by omega
  have h15 : ef ≠ 15 := by omega
  rw [← d5]
  simp [Side.runs, walkerOf, walkSide, rowBytes, Side.unit, s1, s4, s6, s7, d1, d4, hz, h14, h15]

/-- What a row touches of a span overlaps it. -/
theorem touched_row {b : Nat} {lo hi : Int} {p : Nat × Nat}
    (h : Side.touched (sideOf false (rowRecord 2 b ef n)) (sideOf false (rowRecord 0 base ef n)) true lo hi = some p) :
    lo < ((sideOf false (rowRecord 0 base ef n)).base : Int) + 16384 ∧ ((sideOf false (rowRecord 0 base ef n)).base : Int) < hi := by
  obtain ⟨-, -, -, -, -, -, -, d8, -⟩ := side_rowRecord (sp := 0) (base := base) (by omega) (show ef < 16 by omega) hn hl
  have hw : 0 < tyWidth ef := by
    obtain ⟨h1, h11⟩ := hef
    interval_cases ef <;> decide
  have hlen : 0 < n * tyWidth ef := Nat.mul_pos (Nat.pos_of_ne_zero h0) hw
  obtain ⟨v, hv⟩ := touched_least (runs_row (base := base) hef hn hl b) d8 h
  have := leastTouched_run hlen (by exact_mod_cast hlen) hv
  omega

/-- The sums and the array of a window, which begins at `w`, lie further apart than a row is long. -/
theorem sums_or_array {w b : Nat} {p q : Nat × Nat}
    (h : unionRun (Side.touched (sideOf false (rowRecord 2 b ef n)) (sideOf false (rowRecord 0 base ef n)) true (w + 0x1000000 : Nat) (w + 0x1000000 + 0x40000 : Nat))
      (Side.touched (sideOf false (rowRecord 2 b ef n)) (sideOf false (rowRecord 0 base ef n)) true (w + 0x1400000 : Nat) (w + 0x1400000 + 0x20000 : Nat)) = some p)
    (h' : Side.touched (sideOf false (rowRecord 2 b ef n)) (sideOf false (rowRecord 0 base ef n)) true (w + 0x2000000 : Nat) (w + 0x2000000 + 0x100000 : Nat) = some q) :
    False := by
  have h3 := touched_row hef h0 hn hl h'
  obtain ⟨x, hx⟩ | ⟨x, hx⟩ := unionRun_some h
  · have := touched_row hef h0 hn hl hx
    omega
  · have := touched_row hef h0 hn hl hx
    omega

/-- The destination of a register command meets at most two spaces. -/
theorem intervals_row {k : Cmd} (m : CoreId) (x : CoreCtx) (b : Nat) (hsl : k.sl = false) (hdl : k.dl = false)
    (hsrc : k.src = rowRecord 2 b ef n) (hdst : k.dst = rowRecord 0 base ef n) : (k.intervals m x true).length ≤ 2 := by
  obtain ⟨-, hspace, -, -, -, -, -, -, hring⟩ := side_rowRecord (sp := 0) (base := base) (by omega) (show ef < 16 by omega) hn hl
  rw [intervals_window m x (by rw [hdl, hdst, hring]; simp) (by rw [hdl, hdst, hspace]; simp), hsl, hdl, hsrc, hdst]
  generalize windowBase m = w
  refine three_lists (granuleRun_length ..) (granuleRun_length ..) (granuleRun_length ..) ?_
  obtain h | h := one_none fun p q => sums_or_array (base := base) (w := w) (b := b) (p := p) (q := q) hef h0 hn hl
  · exact .inl (congrArg (granuleRun .sums w 0) h)
  · exact .inr (congrArg (granuleRun .array (w + 0x2000000) 0) h)

/-- A register command takes at most two entries (R144). -/
theorem entries_row {k : Cmd} (m : CoreId) (x : CoreCtx) (b : Nat) (hk : k.kind = .xfer) (hsl : k.sl = false) (hdl : k.dl = false)
    (hsrc : k.src = rowRecord 2 b ef n) (hdst : k.dst = rowRecord 0 base ef n) : (k.entries m x).length ≤ 2 := by
  have h := intervals_row hef h0 hn hl m x b hsl hdl hsrc hdst
  rw [Cmd.entries, hk]
  simpa using h

end

/-! ## The queue of an engine (R303) -/

/-- The command that takes the entries of a register command (R303). -/
def enteredCmd (s : State) (t : Task) (k : Cmd) : Cmd :=
  { k with uid := s.serial, age := s.serial, ctx := t.ctx, tid := t.tid, status := .committed, codeBank := (s.cctx t).codeBank }

/-- The command that joins the queue of its engine, with its handle (R303). -/
def queuedCmd (s : State) (t : Task) (k : Cmd) : Cmd :=
  { enteredCmd s t k with handle := ((s.core s.cur).takeHandle s.cur k.eng).1 }

/-- The handle of a command does not bear on its entries. -/
theorem entries_handle (n : CoreId) (x : CoreCtx) (k : Cmd) (h : BitVec 32) : ({ k with handle := h } : Cmd).entries n x = k.entries n x := rfl

theorem entries_queuedCmd (s : State) (t : Task) (k : Cmd) (n : CoreId) (x : CoreCtx) :
    (queuedCmd s t k).entries n x = (enteredCmd s t k).entries n x := entries_handle n x (enteredCmd s t k) _

/-- Two entries have room (R147). -/
theorem room_two {c : Core} {x : BitVec 16} {n : Nat} (hn : n ≤ 2) (h : c.sb.length + 2 ≤ 64)
    (hx : (c.sb.filter (·.ctx == x)).length + 2 ≤ 64 - 8 * (c.residents - 1)) : c.room x n = true := by
  rw [Core.room, Bool.and_eq_true, decide_eq_true_eq, decide_eq_true_eq]
  omega

section
variable {s : State} {t : Task} {k : Cmd}

/-- A full queue makes the command wait for its oldest. -/
theorem queueReg_full (h : 8 ≤ (engOf t k.eng).regs.length) : ∃ w : Wait, w.okind = 0x07 ∧ s.queueReg t k = .wait s w := by
  have hg : t.engines[engIdx k.eng] = engOf t k.eng := rfl
  rw [State.queueReg, hg]
  cases hr : (engOf t k.eng).regs with
  | nil => rw [hr] at h; simp at h
  | cons r rs =>
    rw [hr, List.length_cons] at h
    exact ⟨_, rfl, if_pos (by omega)⟩

theorem queueReg_add (h : (engOf t k.eng).regs.length < 8) :
    s.queueReg t k = State.queueReg.add s t k (s.core s.cur) (s.cctx t) (engOf t k.eng) := by
  have hg : t.engines[engIdx k.eng] = engOf t k.eng := rfl
  rw [State.queueReg, hg]
  cases hr : (engOf t k.eng).regs with
  | nil => rfl
  | cons r rs =>
    rw [hr, List.length_cons] at h
    exact if_neg (by omega)

theorem queueReg_joins (h : (engOf t k.eng).regs.length < 8)
    (hr : (s.core s.cur).room t.ctx ((enteredCmd s t k).entries s.cur (s.cctx t)).length = true) :
    s.queueReg t k = .ok ((commitCore s k.eng ((queuedCmd s t k).entries s.cur (s.cctx t))).setLive
      (t.modEng k.eng fun g => { g with regs := g.regs ++ [queuedCmd s t k] })) := by
  rw [queueReg_add h, entries_queuedCmd]
  exact (if_neg (by rw [Bool.not_eq_true', Bool.not_eq_false]; exact hr)).trans rfl

end

/-! ## The forms -/

section
variable {s : State} {t : Task} {k : Cmd} {i : Instr} {f : Task → Act} (hl : s.live = some t) (hi : exec i s = issue s f)
  (hf : f t = s.queueReg t k)
include hl hi hf

/-- An instruction that queues `k`, which takes at most two entries: it waits for its full queue, or the command joins it. -/
theorem queues_command {p : Cmd → Prop} (he : ((enteredCmd s t k).entries s.cur (s.cctx t)).length ≤ 2) (hp : p (queuedCmd s t k)) :
    (8 ≤ (engOf t k.eng).regs.length → ∃ w : Wait, w.okind = 0x07 ∧ exec i s = .next (s.registerWait t w)) ∧
    ((engOf t k.eng).regs.length < 8 → (s.core s.cur).sb.length + 2 ≤ 64 →
      ((s.core s.cur).sb.filter (·.ctx == t.ctx)).length + 2 ≤ 64 - 8 * ((s.core s.cur).residents - 1) →
      Leads i s fun s' => ∃ t' k', s'.live = some t' ∧ s'.wentOn ∧ t'.regs = t.regs ∧ (engOf t' k.eng).regs = (engOf t k.eng).regs ++ [k'] ∧
        k'.status = .committed ∧ k'.tid = t.tid ∧ k'.ctx = t.ctx ∧ k'.eng = k.eng ∧ p k' ∧
        (s'.core s.cur).sb = (s.core s.cur).sb ++ k'.entries s.cur (s.cctx t)) := by
  refine ⟨fun h => ?_, fun h hs hx => ?_⟩
  · obtain ⟨w, hw, hq⟩ := queueReg_full (s := s) h
    exact ⟨w, hw, hi.trans (issue_waits hl (hf.trans hq))⟩
  · refine ⟨_, hi.trans (issue_ok hl (hf.trans (queueReg_joins h (room_two he hs hx)))), _, queuedCmd s t k, thenTask_live .., trivial, rfl, ?_,
      rfl, rfl, rfl, rfl, hp, commitCore_thenTask_sb ..⟩
    rw [engOf_unwaiting, engOf_modEng_self]

end

/-- A signal command takes no entries (R307). -/
theorem entries_signal {k : Cmd} (n : CoreId) (x : CoreCtx) (h : k.kind = .signal) : k.entries n x = [] := by
  rw [Cmd.entries, h]; rfl

/-- How many elements a register command sends (R302). -/
theorem xferCount_eq (t : Task) (w : Nat) : t.xferCount w = Min.min t.ctl.vl.toNat (16384 / w) := by
  rw [Task.xferCount]
  split
  next h => rw [h]
  next => rfl

theorem tyWidth_cases {ef : Nat} (h : 1 ≤ ef ∧ ef ≤ 11) : tyWidth ef = 1 ∨ tyWidth ef = 2 ∨ tyWidth ef = 4 ∨ tyWidth ef = 8 := by
  obtain ⟨h1, h11⟩ := h
  interval_cases ef <;> decide

/-- The command of a register command (R305, R306). -/
def rowCmd (s : State) (t : Task) (d : VReg) (a b : SReg) (ef n : Nat) (e : Bool) (z : Fin 8) (op : Option (Fin 4)) : Cmd :=
  { kind := .xfer, eng := e, src := rowRecord 2 (windowBase s.cur + 0x800000 + d.val * 0x4000) ef n,
    dst := rowRecord 0 ((t.getS a).fld 0 56) ef n, barrier := t.getS b, scope := z, red := op.isSome, op := op.getD 0 }

/-- A register command of `i` is the shared one, of a register element type that a reduction takes (R304 to R306). -/
theorem exec_registerForm {i : Instr} {d : VReg} {a b : SReg} {e : Bool} {z : Fin 8} {ef : Nat} {op : Option (Fin 4)}
    (h : registerForm i = some (d, a, b, e, z, ef, op)) (hw : i.wellFormed = true) :
    (∀ s, exec i s = regCommand d a b ef e z op s) ∧ 1 ≤ ef ∧ ef ≤ 11 := by
  cases i
  case xfer => cases h; exact ⟨fun s => rfl, by decide, by decide⟩
  case xredAdd =>
    cases h
    have hw : tyRed _ = true := hw
    rw [tyRed, Bool.and_eq_true, decide_eq_true_eq, decide_eq_true_eq] at hw
    exact ⟨fun s => rfl, hw⟩
  case xredMax =>
    cases h
    have hw : tyRed _ = true := hw
    rw [tyRed, Bool.and_eq_true, decide_eq_true_eq, decide_eq_true_eq] at hw
    exact ⟨fun s => rfl, hw⟩
  case xredMin =>
    cases h
    have hw : tyRed _ = true := hw
    rw [tyRed, Bool.and_eq_true, decide_eq_true_eq, decide_eq_true_eq] at hw
    exact ⟨fun s => rfl, hw⟩
  all_goals cases h

theorem exchange_iff (s : State) : s.exchange = s.dev.phase.getLsbD 0 := rfl

theorem rowRecord_eq (sp ef n : Nat) {base : Nat} (h : base < 2 ^ 56) : rowRecord sp base ef n =
    BitVec.ofNat 768 (base + sp * 2 ^ 62 + n * tyWidth ef * 2 ^ 64 + n * 2 ^ 128 + 2 ^ 144 + ef * 2 ^ 192) := by
  rw [rowRecord, Nat.mod_eq_of_lt h]

/-- The address of a vector register in the window of its core (R302). -/
theorem vector_address_lt (m : CoreId) (d : VReg) : windowBase m + 0x800000 + d.val * 0x4000 < 2 ^ 56 := by
  have hm := m.isLt
  have hd := d.isLt
  rw [windowBase]
  omega

/-- What a register command of the live task does (R302, R305, R306). -/
def rowAct (s : State) (d : VReg) (a b : SReg) (ef : Nat) (e : Bool) (z : Fin 8) (op : Option (Fin 4)) (t : Task) : Act :=
  if !s.exchange then s.phaseIllegal t
  else if (t.getS a).fld 0 56 % tyWidth ef ≠ 0 then s.bounds t (t.getS a)
  else if t.xferCount (tyWidth ef) = 0 then .ok s
  else s.queueReg t (rowCmd s t d a b ef (t.xferCount (tyWidth ef)) e z op)

theorem regCommand_eq (s : State) (d : VReg) (a b : SReg) (ef : Nat) (e : Bool) (z : Fin 8) (op : Option (Fin 4)) :
    regCommand d a b ef e z op s = issue s (rowAct s d a b ef e z op) := rfl

section
variable {s : State} {t : Task} {d : VReg} {a b : SReg} {e : Bool} {z : Fin 8} {ef : Nat} {op : Option (Fin 4)}

theorem rowAct_phase (hx : s.dev.phase.getLsbD 0 = false) : rowAct s d a b ef e z op t = s.phaseIllegal t :=
  if_pos (by rw [exchange_iff, hx]; rfl)

/-- The width of an element divides 2^56. -/
theorem fld_mod_tyWidth (v : W64) (hef : 1 ≤ ef ∧ ef ≤ 11) : v.fld 0 56 % tyWidth ef = v.toNat % tyWidth ef := by
  rw [fld_zero]
  obtain h | h | h | h := tyWidth_cases hef <;> rw [h] <;> omega

variable (hx : s.dev.phase.getLsbD 0 = true)
include hx

theorem rowAct_exchange : rowAct s d a b ef e z op t =
    if (t.getS a).fld 0 56 % tyWidth ef ≠ 0 then s.bounds t (t.getS a)
    else if t.xferCount (tyWidth ef) = 0 then .ok s
    else s.queueReg t (rowCmd s t d a b ef (t.xferCount (tyWidth ef)) e z op) :=
  if_neg (by rw [exchange_iff, hx]; simp)

variable (hef : 1 ≤ ef ∧ ef ≤ 11)
include hef

theorem rowAct_misaligned (hm : (t.getS a).toNat % tyWidth ef ≠ 0) : rowAct s d a b ef e z op t = s.bounds t (t.getS a) := by
  rw [rowAct_exchange hx, fld_mod_tyWidth _ hef, if_pos hm]

theorem rowAct_aligned (hm : (t.getS a).toNat % tyWidth ef = 0) : rowAct s d a b ef e z op t =
    if t.xferCount (tyWidth ef) = 0 then .ok s else s.queueReg t (rowCmd s t d a b ef (t.xferCount (tyWidth ef)) e z op) := by
  rw [rowAct_exchange hx, fld_mod_tyWidth _ hef, if_neg (not_not.2 hm)]

end

/-- The entries of the command of a register command (R144). -/
theorem entries_rowCmd (s : State) (t : Task) (d : VReg) (a b : SReg) {ef n : Nat} (e : Bool) (z : Fin 8) (op : Option (Fin 4))
    (hef : 1 ≤ ef ∧ ef ≤ 11) (h0 : n ≠ 0) (hn : n ≤ 16384 / tyWidth ef) :
    ((enteredCmd s t (rowCmd s t d a b ef n e z op)).entries s.cur (s.cctx t)).length ≤ 2 := by
  have hcount : n ≤ 16384 ∧ n * tyWidth ef ≤ 16384 := by
    obtain h | h | h | h := tyWidth_cases hef <;> rw [h] at hn ⊢ <;> omega
  exact entries_row hef h0 hcount.1 hcount.2 s.cur (s.cctx t) _ rfl rfl rfl rfl rfl

/-- The command that a signal command queues (R307). -/
def signalCmd (t : Task) (a b : SReg) (e : Bool) (z : Fin 8) : Cmd :=
  { kind := .signal, eng := e, scope := z, stamped := true, stampAddr := w64 ((t.getS a).fld 0 56), stampVal := t.getS b }

/-- What a signal command of the live task does (R307). -/
def signalAct (s : State) (a b : SReg) (e : Bool) (z : Fin 8) (t : Task) : Act :=
  if !s.exchange then s.phaseIllegal t
  else if (t.getS a).fld 0 3 ≠ 0 then s.bounds t (t.getS a)
  else s.queueReg t (signalCmd t a b e z)

theorem exec_xsig (s : State) (a b : SReg) (e : Bool) (z : Fin 8) : exec (.xsig a b e z) s = issue s (signalAct s a b e z) := rfl

section
variable {s : State} {t : Task} {a b : SReg} {e : Bool} {z : Fin 8}

theorem signalAct_phase (hx : s.dev.phase.getLsbD 0 = false) : signalAct s a b e z t = s.phaseIllegal t :=
  if_pos (by rw [exchange_iff, hx]; rfl)

variable (hx : s.dev.phase.getLsbD 0 = true)
include hx

theorem signalAct_exchange : signalAct s a b e z t =
    if (t.getS a).toNat % 8 ≠ 0 then s.bounds t (t.getS a) else s.queueReg t (signalCmd t a b e z) := by
  rw [signalAct, if_neg (by rw [exchange_iff, hx]; simp), fld_zero]
  rfl

end

/-- Settles O33: each form by its phase, its address and its elements. -/
theorem registerCommands : Obligations.RegisterCommands := by
  unfold Obligations.RegisterCommands
  intro s t hl c queues
  refine ⟨?_, ?_⟩
  · intro i d a b e z ef op hform hw v w n row
    obtain ⟨hexec, hef⟩ := exec_registerForm hform hw
    have hi : exec i s = issue s (rowAct s d a b ef e z op) := (hexec s).trans (regCommand_eq ..)
    have hn : t.xferCount (tyWidth ef) = n := xferCount_eq t _
    refine ⟨fun hx => hi.trans (issue_traps hl (rowAct_phase hx)), fun hx hm => hi.trans (issue_traps hl (rowAct_misaligned hx hef hm)),
      fun hx hm h0 => hi.trans (issue_ok hl ((rowAct_aligned hx hef hm).trans (if_pos (hn.trans h0)))), fun hx hm h0 => ?_⟩
    have hdst : rowRecord 0 ((t.getS a).fld 0 56) ef (t.xferCount (tyWidth ef)) = row 0 (v.toNat % 2 ^ 56) := by
      rw [fld_zero, hn]
      exact rowRecord_eq 0 ef n (Nat.mod_lt _ (Nat.two_pow_pos 56))
    have hsrc : rowRecord 2 (windowBase s.cur + 0x800000 + d.val * 0x4000) ef (t.xferCount (tyWidth ef)) = row 2 (windowBase s.cur + 0x800000 + d.val * 0x4000) := by
      rw [hn]
      exact rowRecord_eq 2 ef n (vector_address_lt s.cur d)
    exact queues_command hl hi ((rowAct_aligned hx hef hm).trans (if_neg (hn.trans_ne h0)))
      (entries_rowCmd s t d a b e z op hef (hn.trans_ne h0) (xferCount_eq t _ ▸ Nat.min_le_right ..))
      ⟨rfl, rfl, rfl, rfl, rfl, hdst, hsrc⟩
  · intro a b e z v
    refine ⟨fun hx => (exec_xsig ..).trans (issue_traps hl (signalAct_phase hx)),
      fun hx hm => (exec_xsig ..).trans (issue_traps hl ((signalAct_exchange hx).trans (if_pos hm))), fun hx hm => ?_⟩
    have he := entries_signal s.cur (s.cctx t) (k := enteredCmd s t (signalCmd t a b e z)) rfl
    exact queues_command hl (exec_xsig ..) ((signalAct_exchange hx).trans (if_neg (not_not.2 hm))) (by rw [he]; exact Nat.zero_le _)
      ⟨rfl, rfl, rfl, w64_fld_address _, rfl, rfl, rfl⟩

end Sys2Proof.Proofs
end

section
/-!
PROOFS. Phase boundaries, budgets and truncations (R321 to R332): what each leaves of the phase counter and of every resident task. Settles O49.
-/
namespace Sys2Proof.Proofs
open Machine Laws

/-! ## What a fold of steps establishes -/

/-- What one step of a fold establishes, and every step keeps, holds after the fold. -/
theorem foldl_establishes {σ α : Type} {f : σ → α → σ} {P : σ → Prop} (hkeep : ∀ s a, P s → P (f s a)) {a : α} (hest : ∀ s, P (f s a)) :
    ∀ (l : List α), a ∈ l → ∀ s, P (l.foldl f s)
  | b :: l, h, s => by
    rw [List.foldl_cons]
    obtain rfl | h := List.mem_cons.1 h
    · exact l.foldlRecOn f (hest s) fun s hs b _ => hkeep s b hs
    · exact foldl_establishes hkeep hest l h _

/-! ## Changes of every core -/

theorem bank_eq (s : State) (m : CoreId) (b : Fin 4) : s.bank m b = (s.core m).banks[b] := rfl

theorem bank_of_banks {s s' : State} {m : CoreId} (h : (s'.core m).banks = (s.core m).banks) (b : Fin 4) : s'.bank m b = s.bank m b := by
  rw [bank_eq, bank_eq, h]

theorem mapTasks_core (s : State) (f : CoreId → Core → Task → Task) (m : CoreId) :
    (s.mapTasks f).core m = { s.core m with banks := (s.core m).banks.map (Option.map (f m (s.core m))) } := by
  simp [State.mapTasks, State.core]

theorem mapTasks_bank (s : State) (f : CoreId → Core → Task → Task) (m : CoreId) (b : Fin 4) :
    (s.mapTasks f).bank m b = (s.bank m b).map (f m (s.core m)) := by
  rw [bank_eq, mapTasks_core, bank_eq]
  simp

theorem mapTasks_dev (s : State) (f : CoreId → Core → Task → Task) : (s.mapTasks f).dev = s.dev := by rw [State.mapTasks]

/-! ## Meters and write-backs at a boundary (R84, R483) -/

theorem fold_dev_proj {α : Type} (g : Device → α) (h : ∀ d m, g { d with dram := m } = g d) (s : State) (n : CoreId) (x : BitVec 16) :
    g (s.fold n x).dev = g s.dev := by
  unfold State.fold
  cases (s.core n).cctx x with
  | none => rfl
  | some k =>
    dsimp only
    split
    · rfl
    · exact h _ _

theorem fold_banks (s : State) (n m : CoreId) (x : BitVec 16) : ((s.fold n x).core m).banks = (s.core m).banks := by
  unfold State.fold
  cases (s.core n).cctx x with
  | none => rfl
  | some k =>
    dsimp only
    have h := modCore_proj (·.banks) s n m (fun c => c.modCtx x fun k => { k with folded := k.meters }) fun _ => rfl
    split
    · exact h
    · exact h

theorem foldAll_dev_proj {α : Type} (g : Device → α) (h : ∀ d m, g { d with dram := m } = g d) (s : State) : g s.foldAll.dev = g s.dev := by
  rw [State.foldAll]
  exact foldl_keeps (fun s => g s.dev) (fun s n => foldl_keeps (fun s => g s.dev) (fun s k => fold_dev_proj g h s n k.ctx) (s.core n).ctxs s) _ s

theorem foldAll_banks (s : State) (m : CoreId) : (s.foldAll.core m).banks = (s.core m).banks := by
  rw [State.foldAll]
  exact foldl_keeps (fun s => (s.core m).banks) (fun s n => foldl_keeps (fun s => (s.core m).banks) (fun s k => fold_banks s n m k.ctx) (s.core n).ctxs s) _ s

theorem startSweep_dev (s : State) (n : CoreId) : (s.startSweep n).dev = s.dev :=
  foldl_keeps (·.dev) (fun s k => foldl_keeps (·.dev) (fun s i => by dsimp only; split <;> rfl) _ s) _ s

theorem startSweep_proj {α : Type} (g : Core → α) (h : ∀ c l, g { c with syncs := l } = g c) (s : State) (n m : CoreId) :
    g ((s.startSweep n).core m) = g (s.core m) :=
  foldl_keeps (fun s => g (s.core m)) (fun s k => foldl_keeps (fun s => g (s.core m)) (fun s i => by
    dsimp only
    split
    · rfl
    · exact modCore_proj g _ n m _ fun c => h c _) _ s) _ s

theorem beginExchange_dev (s : State) : s.beginExchange.dev = s.dev := by
  rw [State.beginExchange]
  exact foldl_keeps (·.dev) (fun s n => (modCore_dev ..).trans (startSweep_dev s n)) _ s

theorem beginExchange_banks (s : State) (m : CoreId) : (s.beginExchange.core m).banks = (s.core m).banks := by
  rw [State.beginExchange]
  exact foldl_keeps (fun s => (s.core m).banks) (fun s n => (modCore_proj (·.banks) (s.startSweep n) n m (fun c => { c with steals := 0 }) fun _ => rfl).trans
    (startSweep_proj (·.banks) (fun _ _ => rfl) s n m)) _ s

/-- Each core may ask to steal again (R354). -/
theorem beginExchange_steals (s : State) (m : CoreId) : (s.beginExchange.core m).steals = 0 := by
  refine foldl_establishes (P := fun s => (s.core m).steals = 0) (a := m) (fun s n h => ?_) (fun s => ?_) allCores (List.mem_finRange m) s
  · by_cases hm : m = n
    · subst hm; rw [modCore_core_self]
    · rw [modCore_core_ne _ _ hm]
      exact (startSweep_proj (·.steals) (fun _ _ => rfl) s n m).trans h
  · rw [modCore_core_self]

/-! ## The counter advances (R323) -/

/-- What the advance of the counter to `p` makes of a resident task. -/
def advanced (p : W64) (t : Task) : Task := { (t.begin_ p).proceed p with ahead := false }

theorem advance_bank (s : State) (m : CoreId) (b : Fin 4) : s.advance.bank m b = (s.bank m b).map (advanced (s.dev.phase + 1)) := by
  rw [bank_eq, State.advance]
  dsimp only
  rw [withCores_core]
  simp only [Fin.getElem_fin, Vector.getElem_map, modDev_core]
  rfl

theorem advance_phase (s : State) : s.advance.dev.phase = s.dev.phase + 1 := rfl
theorem advance_phaseStart (s : State) : s.advance.dev.phaseStart = s.dev.now := rfl
theorem advance_trunc (s : State) : s.advance.dev.trunc = s.dev.trunc := rfl

theorem begin_fields (t : Task) (p : W64) :
    (t.begin_ p).ctl = t.ctl ∧ (t.begin_ p).regs = t.regs ∧ (t.begin_ p).pc = t.pc ∧ (t.begin_ p).hold = t.hold := by
  unfold Task.begin_
  split <;> exact ⟨rfl, rfl, rfl, rfl⟩

theorem proceed_fields (t : Task) (p : W64) : (t.proceed p).regs = t.regs ∧ (t.proceed p).pc = t.pc ∧ (t.proceed p).hold = t.hold := by
  unfold Task.proceed
  split <;> exact ⟨rfl, rfl, rfl⟩

theorem proceed_reached {t : Task} {p : W64} (ha : t.ctl.arr = true) (ht : t.ctl.tgt.toNat ≤ p.toNat) : (t.proceed p).ctl.arr = false := by
  rw [Task.proceed, if_pos (by simp [ha, ht])]

theorem advanced_fields (t : Task) (p : W64) : (advanced p t).regs = t.regs ∧ (advanced p t).pc = t.pc ∧ (advanced p t).hold = t.hold := by
  obtain ⟨-, hregs, hpc, hhold⟩ := begin_fields t p
  obtain ⟨hregs', hpc', hhold'⟩ := proceed_fields (t.begin_ p) p
  exact ⟨hregs'.trans hregs, hpc'.trans hpc, hhold'.trans hhold⟩

/-- An arrived task whose target is reached proceeds. -/
theorem advanced_reached {t : Task} {p : W64} (ha : t.ctl.arr = true) (ht : t.ctl.tgt.toNat ≤ p.toNat) : (advanced p t).ctl.arr = false := by
  obtain ⟨hctl, -⟩ := begin_fields t p
  exact proceed_reached (by rw [hctl, ha]) (by rw [hctl]; exact ht)

theorem resume_fields (t : Task) (strap : Bool) :
    (t.resume strap).ctl = t.ctl ∧ (t.resume strap).regs = t.regs ∧ (t.resume strap).pc = t.pc ∧ (t.hold = .heldOver → (t.resume strap).hold = .none) := by
  unfold Task.resume
  split
  next h => exact ⟨rfl, rfl, rfl, fun _ => rfl⟩
  next h => exact ⟨rfl, rfl, rfl, fun h' => absurd h' h⟩

/-! ## A compute phase begins (R333) -/

/-- What opens a compute phase, before a truncation that was requested. -/
def openCompute (s : State) : State :=
  let s := { s with cores := s.cores.map fun (c : Core) =>
    { c with cbank := c.firstHeld.getD c.cbank, opening := true, stealing := none,
             lanes := c.lanes.map fun (l : List QRec) => l.map QRec.settle } }
  let s := s.mapTasks fun _ c t => t.resume ((c.cctx t.ctx).any (·.strap))
  { s with cores := s.cores.map fun (c : Core) => { c with mx := { c.mx with frozen := c.mx.frozen && c.keepsFrozen } } }

theorem openCompute_dev (s : State) : (openCompute s).dev = s.dev := by
  rw [openCompute]
  dsimp only
  rw [mapTasks_dev]

/-- Held-over tasks participate again. -/
theorem openCompute_bank (s : State) (m : CoreId) (b : Fin 4) :
    (openCompute s).bank m b = (s.bank m b).map fun t => t.resume (((s.core m).cctx t.ctx).any (·.strap)) := by
  rw [openCompute, bank_eq]
  dsimp only
  rw [withCores_core]
  dsimp only
  rw [← bank_eq, mapTasks_bank, bank_eq, withCores_core]
  rfl

/-- The cancelled transfers are forgotten and the meters folded. -/
def settledMeters (s : State) : State := (s.modDev fun d => { d with cancelled := [] }).foldAll

theorem settledMeters_dev_proj {α : Type} (g : Device → α) (h : ∀ d m, g { d with dram := m } = g d) (s : State) :
    g (settledMeters s).dev = g { s.dev with cancelled := [] } := foldAll_dev_proj g h _

theorem settledMeters_bank (s : State) (m : CoreId) (b : Fin 4) : (settledMeters s).bank m b = s.bank m b :=
  bank_of_banks (foldAll_banks ..) b

theorem beginCompute_eq (s : State) : s.beginCompute =
    if (openCompute (settledMeters s)).dev.trunc then (openCompute (settledMeters s)).truncate else openCompute (settledMeters s) := by
  rw [State.beginCompute, openCompute, settledMeters]

theorem beginCompute_opens {s : State} (ht : s.dev.trunc = false) : s.beginCompute = openCompute (settledMeters s) := by
  rw [beginCompute_eq, if_neg]
  rw [openCompute_dev, settledMeters_dev_proj (·.trunc) (fun _ _ => rfl), ht]
  exact Bool.false_ne_true

/-! ## The closes -/

theorem someParticipates_iff (s : State) : s.someParticipates = false ↔ ∀ p ∈ s.tasks, p.2.2.participates = false := by
  rw [State.someParticipates, List.any_eq_false]
  simp only [Bool.not_eq_true]

theorem longEnough_iff (s : State) : s.longEnough = true ↔ 64 ≤ s.dev.now - s.dev.phaseStart := by
  rw [State.longEnough, decide_eq_true_eq]

section
variable {s : State}

theorem computeClose_closes (hp : s.dev.power = .running) (hx : s.dev.phase.getLsbD 0 = false) (hl : 64 ≤ s.dev.now - s.dev.phaseStart)
    (hi : ∀ p ∈ s.tasks, p.2.2.participates = false) (hw : s.tasks ≠ [] ∨ s.transfersLive = true) (ht : s.dev.trunc = false) :
    exec .computeClose s = .next s.advance.beginExchange := by
  have hidle : (s.tasks.isEmpty && !s.transfersLive) = false := by
    obtain hw | hw := hw
    · rw [List.isEmpty_eq_false_iff.2 hw, Bool.false_and]
    · rw [hw, Bool.not_true, Bool.and_false]
  refine congrArg Host.Outcome.next ((if_neg ?_).trans (by rw [ht]; rfl))
  rw [hp, exchange_iff, hx, (longEnough_iff s).2 hl, (someParticipates_iff s).2 hi, hidle]
  decide

theorem computeClose_stays (h : ¬ (∀ p ∈ s.tasks, p.2.2.participates = false) ∨ s.dev.phase.getLsbD 0 = true ∨ s.dev.now - s.dev.phaseStart < 64) :
    exec .computeClose s = .next s := by
  refine congrArg Host.Outcome.next (if_pos ?_)
  rw [← someParticipates_iff, Bool.not_eq_false, ← Nat.not_le, ← longEnough_iff, ← exchange_iff, Bool.not_eq_true] at h
  obtain h | h | h := h <;> simp [h]

theorem exchangeClose_closes (hp : s.dev.power = .running) (hx : s.dev.phase.getLsbD 0 = true) (hl : 64 ≤ s.dev.now - s.dev.phaseStart)
    (hi : ∀ p ∈ s.tasks, p.2.2.participates = false) (hw : s.transfersLive = false) (hn : s.dev.net = []) :
    exec .exchangeClose s = .next s.advance.beginCompute := by
  refine congrArg Host.Outcome.next (if_neg ?_)
  rw [hp, exchange_iff, hx, (longEnough_iff s).2 hl, (someParticipates_iff s).2 hi, hw, hn]
  decide

theorem exchangeClose_stays (h : ¬ (∀ p ∈ s.tasks, p.2.2.participates = false) ∨ ¬ s.dev.phase.getLsbD 0 = true ∨ s.transfersLive = true ∨ s.dev.net ≠ []) :
    exec .exchangeClose s = .next s := by
  refine congrArg Host.Outcome.next (if_pos ?_)
  rw [← someParticipates_iff, Bool.not_eq_false, ← exchange_iff, Bool.not_eq_true] at h
  obtain h | h | h | h := h <;> simp [h]

end

/-- What the close of an exchange leaves of the counter and of the tasks. -/
theorem exchangeClosed_spec {s : State} (ht : s.dev.trunc = false) : let s' := s.advance.beginCompute
    s'.dev.phase = s.dev.phase + 1 ∧ s'.dev.phaseStart = s.dev.now ∧ s'.dev.cancelled = [] ∧
    ∀ m b t, s.bank m b = some t → ∃ strap, s'.bank m b = some ((advanced (s.dev.phase + 1) t).resume strap) := by
  intro s'
  have hs : s' = openCompute (settledMeters s.advance) := beginCompute_opens ht
  have hdev {α : Type} (g : Device → α) (h : ∀ d m, g { d with dram := m } = g d) : g s'.dev = g { s.advance.dev with cancelled := [] } := by
    rw [hs, openCompute_dev]
    exact settledMeters_dev_proj g h _
  refine ⟨hdev (·.phase) fun _ _ => rfl, hdev (·.phaseStart) fun _ _ => rfl, hdev (·.cancelled) fun _ _ => rfl, fun m b t hb => ?_⟩
  rw [hs, openCompute_bank, settledMeters_bank, advance_bank, hb]
  exact ⟨_, rfl⟩

/-! ## Stragglers (R329, R333) -/

/-- A resident task is held over, with STRG = 1 and TRN = 0. -/
def Straggling (s : State) (n : CoreId) (b : Fin 4) : Prop :=
  ∀ t, s.bank n b = some t → t.hold = .heldOver ∧ t.ctl.strg = true ∧ t.ctl.trn = false

/-- What a straggler keeps, and what makes it one. -/
abbrev heldState (t : Task) := (t.hold, t.ctl.strg, t.ctl.trn, t.regs, t.pc)

theorem straggling_congr {s s' : State} {n : CoreId} {b : Fin 4} (h : (s'.bank n b).map heldState = (s.bank n b).map heldState)
    (hs : Straggling s n b) : Straggling s' n b := by
  intro t' ht'
  rw [ht', Option.map_some] at h
  obtain ⟨t, ht, he⟩ := Option.map_eq_some_iff.1 h.symm
  obtain ⟨hhold, hstrg, htrn, -⟩ : t.hold = t'.hold ∧ t.ctl.strg = t'.ctl.strg ∧ t.ctl.trn = t'.ctl.trn ∧ _ := by
    simpa only [heldState, Prod.mk.injEq] using he
  rw [← hhold, ← hstrg, ← htrn]
  exact hs t ht

/-- One step of `straggleAll`. -/
def straggleStep (n : CoreId) (x : BitVec 16) (s : State) (p : Fin 4 × Task) : State :=
  if p.2.ctx == x && p.2.participates then (s.modBank n p.1 (·.straggle s.dev.phase)).report n x 0x02 p.2.tid [] [] else s

theorem straggleAll_eq (s : State) (n : CoreId) (x : BitVec 16) : s.straggleAll n x = (s.core n).tasks.foldl (straggleStep n x) s := rfl

theorem report_bank (s : State) (n m : CoreId) (x : BitVec 16) (k : Nat) (tid : BitVec 16) (tr : List W64) (im : List Byte) (b : Fin 4) :
    (s.report n x k tid tr im).bank m b = s.bank m b := by
  rw [bank_eq, report_core, bank_eq]

theorem straggleStep_phase (n : CoreId) (x : BitVec 16) (s : State) (p : Fin 4 × Task) : (straggleStep n x s p).dev.phase = s.dev.phase := by
  unfold straggleStep
  split
  · exact (report_dev_proj (·.phase) (fun _ _ _ _ => rfl) ..).trans rfl
  · rfl

theorem straggleStep_kept (n : CoreId) (x : BitVec 16) (b : Fin 4) (s : State) (p : Fin 4 × Task) :
    ((straggleStep n x s p).bank n b).map (fun t => (t.regs, t.pc)) = (s.bank n b).map fun t => (t.regs, t.pc) := by
  unfold straggleStep
  split
  · rw [report_bank]
    exact modBank_bank_map (f := (·.straggle s.dev.phase)) (fun t => (t.regs, t.pc)) (fun _ => rfl) s n n p.1 b
  · rfl

theorem straggling_modBank (s : State) (n : CoreId) (b : Fin 4) (p : W64) : Straggling (s.modBank n b (·.straggle p)) n b := by
  intro t ht
  rw [modBank_bank_self] at ht
  obtain ⟨u, -, rfl⟩ := Option.map_eq_some_iff.1 ht
  exact ⟨rfl, rfl, rfl⟩

theorem straggling_report {s : State} {n : CoreId} {b : Fin 4} {x : BitVec 16} {k : Nat} {tid : BitVec 16} {tr : List W64} {im : List Byte}
    (h : Straggling s n b) : Straggling (s.report n x k tid tr im) n b :=
  straggling_congr (by rw [report_bank]) h

theorem straggleStep_keeps (n : CoreId) (x : BitVec 16) (b : Fin 4) (s : State) (p : Fin 4 × Task) (h : Straggling s n b) :
    Straggling (straggleStep n x s p) n b := by
  unfold straggleStep
  split
  · refine straggling_report ?_
    by_cases hb : p.1 = b
    · exact hb ▸ straggling_modBank s n p.1 _
    · have hv : p.1.val ≠ b.val := fun e => hb (Fin.ext e)
      refine straggling_congr (congrArg _ ?_) h
      rw [State.modBank, bank_eq, modCore_core_self]
      simp [Vector.getElem_set_ne, hv, bank_eq]
  · exact h

theorem mem_tasks_of_bank {c : Core} {b : Fin 4} {t : Task} (h : c.banks[b] = some t) : (b, t) ∈ c.tasks :=
  List.mem_filterMap.2 ⟨b, List.mem_finRange b, by rw [h]; rfl⟩

theorem straggleAll_phase (s : State) (n : CoreId) (x : BitVec 16) : (s.straggleAll n x).dev.phase = s.dev.phase :=
  foldl_keeps (·.dev.phase) (straggleStep_phase n x) _ s

/-- A participating task of the context becomes a straggler. -/
theorem straggleAll_bank {s : State} {n : CoreId} {x : BitVec 16} {b : Fin 4} {t : Task} (hb : s.bank n b = some t) (hx : t.ctx = x)
    (hp : t.participates = true) : ∃ t', (s.straggleAll n x).bank n b = some t' ∧ t'.hold = .heldOver ∧ t'.ctl.strg = true ∧
      t'.ctl.trn = false ∧ t'.regs = t.regs ∧ t'.pc = t.pc := by
  have hkept := foldl_keeps (fun s => (s.bank n b).map fun t => (t.regs, t.pc)) (straggleStep_kept n x b) (s.core n).tasks s
  have hs : Straggling (s.straggleAll n x) n b := by
    refine foldl_establishes (straggleStep_keeps n x b) (a := (b, t)) (fun s => ?_) _ (mem_tasks_of_bank hb) s
    rw [straggleStep, if_pos (by simp [hx, hp])]
    exact straggling_report (straggling_modBank s n b s.dev.phase)
  rw [← straggleAll_eq, hb] at hkept
  obtain ⟨t', ht', he⟩ := Option.map_eq_some_iff.1 hkept
  obtain ⟨hhold, hstrg, htrn⟩ := hs t' ht'
  obtain ⟨hregs, hpc⟩ := Prod.mk.inj he
  exact ⟨t', ht', hhold, hstrg, htrn, hregs, hpc⟩

/-! ## The transfers of a context are cancelled (R331) -/

theorem finishMtacc_held (s : State) (n m : CoreId) (op : MtAcc) (v : W64) (b : Fin 4) :
    ((s.finishMtacc n op v).bank m b).map heldState = (s.bank m b).map heldState := by
  rw [State.finishMtacc]
  refine modCore_proj (fun c : Core => (c.banks[b]).map heldState) s n m _ fun c => ?_
  have hb : ∀ (c : Core) (f : Task → Task) (tid : BitVec 16), (∀ t, heldState (f t) = heldState t) →
      ((c.modTid tid f).banks[b]).map heldState = (c.banks[b]).map heldState := by
    intro c f tid hf
    simp only [Core.modTid, Fin.getElem_fin, Vector.getElem_map, Option.map_map]
    refine congrArg (fun g => Option.map g _) (funext fun t => ?_)
    simp only [Function.comp_apply]
    split
    · exact hf t
    · rfl
  exact hb _ _ _ fun _ => rfl

theorem cancelMtaccs_keeps {α : Type} (g : State → α) (h : ∀ s n m v, g (State.finishMtacc s n m v) = g s) (s : State) (x : BitVec 16) :
    g (s.cancelMtaccs x) = g s :=
  foldl_keeps g (fun s n => foldl_keeps g (fun s m => by
    split
    · exact h ..
    · rfl) (s.core n).mx.mtaccs s) allCores s

/-- The expiry of an exchange budget, after its tasks are stragglers. -/
def cancelContext (s : State) (x : BitVec 16) : State :=
  if s.dev.cancelled.contains x then s else (s.modDev fun d => { d with cancelled := d.cancelled ++ [x] }).cancelMtaccs x

theorem cancelContext_spec (s : State) (x : BitVec 16) : x ∈ (cancelContext s x).dev.cancelled ∧ (cancelContext s x).dev.phase = s.dev.phase ∧
    ∀ n b, ((cancelContext s x).bank n b).map heldState = (s.bank n b).map heldState := by
  unfold cancelContext
  split
  next h => exact ⟨List.contains_iff_mem.1 h, rfl, fun _ _ => rfl⟩
  next h =>
    have hdev := cancelMtaccs_keeps (·.dev) (fun _ _ _ _ => rfl) (s.modDev fun d => { d with cancelled := d.cancelled ++ [x] }) x
    refine ⟨?_, by rw [hdev]; rfl, fun n b => ?_⟩
    · rw [hdev]
      exact List.mem_append_right _ (List.mem_singleton_self x)
    · exact cancelMtaccs_keeps (fun s => (s.bank n b).map heldState) (fun s n' m v => finishMtacc_held s n' n m v b) _ x

theorem expired_iff (s : State) (n : CoreId) (x : BitVec 16) : s.expired n x = true ↔ ∃ k, (s.core n).cctx x = some k ∧
    Max.max (if s.dev.phase.getLsbD 0 then k.sbudget.toNat / 2 ^ 32 % 2 ^ 31 else k.sbudget.toNat % 2 ^ 32) 4096 ≤ s.elap := by
  unfold State.expired
  cases (s.core n).cctx x with
  | none => simp
  | some k =>
    simp only [Option.some.injEq, exists_eq_left', decide_eq_true_eq, CoreCtx.budget, effBudget, exchange_iff, fld_zero]
    rfl

section
variable {s : State}

theorem computeBudget_expires (hx : ¬ s.dev.phase.getLsbD 0 = true) (he : s.expired s.on.core s.on.ctx = true) :
    exec .computeBudgetExpiry s = .next (s.straggleAll s.on.core s.on.ctx) :=
  congrArg Host.Outcome.next (if_pos (by rw [exchange_iff, Bool.eq_false_of_not_eq_true hx, he]; rfl))

theorem exchangeBudget_expires (hx : s.dev.phase.getLsbD 0 = true) (he : s.expired s.on.core s.on.ctx = true) :
    exec .exchangeBudgetExpiry s = .next (cancelContext (s.straggleAll s.on.core s.on.ctx) s.on.ctx) :=
  congrArg Host.Outcome.next (if_pos (by rw [exchange_iff, hx, he]; rfl))

theorem budget_lasts (he : ¬ s.expired s.on.core s.on.ctx = true) :
    exec .computeBudgetExpiry s = .next s ∧ exec .exchangeBudgetExpiry s = .next s :=
  ⟨congrArg Host.Outcome.next (if_neg (by simp [he])), congrArg Host.Outcome.next (if_neg (by simp [he]))⟩

end

/-! ## Truncation (R332) -/

/-- What a truncation makes of a resident task: one that participates is held over, with TRN = 1. -/
def heldOver (t : Task) : Task := if t.participates then { t with hold := .heldOver, cut := true, ctl := { t.ctl with trn := true } } else t

/-- Every core freezes. -/
def frozenCores (s : State) : State :=
  let s := s.mapTasks fun _ _ => heldOver
  { s with cores := s.cores.map fun (c : Core) => { c with mx := { c.mx with frozen := true } } }

theorem frozenCores_core (s : State) (m : CoreId) : (frozenCores s).core m =
    { s.core m with banks := (s.core m).banks.map (Option.map heldOver), mx := { (s.core m).mx with frozen := true } } := by
  rw [frozenCores]
  dsimp only
  rw [withCores_core, mapTasks_core]

theorem frozenCores_dev (s : State) : (frozenCores s).dev = s.dev := by
  rw [frozenCores]
  dsimp only
  rw [mapTasks_dev]

/-- A truncation without a record to make way for. -/
theorem truncate_alone {s : State} (hv : s.dev.victims = []) :
    s.truncate = (frozenCores s).modDev fun d => { d with trunc := false, truncated := true, victims := [] } := by
  have h : s.truncate = (frozenCores s).dev.victims.foldl (fun s v => s.leaveFor v.1 v.2)
    ((frozenCores s).modDev fun d => { d with trunc := false, truncated := true, victims := [] }) := by
    rw [State.truncate, frozenCores]
    rfl
  rw [h, frozenCores_dev, hv, List.foldl_nil]

section
variable {s : State}

theorem truncation_freezes (ht : s.dev.trunc = true) (hx : ¬ s.dev.phase.getLsbD 0 = true) : exec .truncation s = .next s.truncate :=
  congrArg Host.Outcome.next (if_pos (by rw [exchange_iff, ht, Bool.eq_false_of_not_eq_true hx]; rfl))

theorem truncation_waits (h : s.dev.trunc = false ∨ s.dev.phase.getLsbD 0 = true) : exec .truncation s = .next s := by
  refine congrArg Host.Outcome.next (if_neg ?_)
  rw [exchange_iff]
  obtain h | h := h <;> simp [h]

end

/-- Settles O49: the closes by what the advance and the phase after it leave of every task, the budgets by a fold over the tasks of the core. -/
theorem phaseEvents : Obligations.PhaseEvents := by
  unfold Obligations.PhaseEvents
  intro s n x exchange idle closes straggles expired
  have hexp : expired ↔ s.expired n x = true := (expired_iff s n x).symm
  refine ⟨fun hp hx hl hi hw ht => ?_, computeClose_stays, fun hp hx hl hi hw hn ht => ?_, exchangeClose_stays,
    fun hx he => ?_, fun hx he => ?_, fun he => budget_lasts (mt hexp.2 he), fun ht hx hv => ?_, truncation_waits⟩
  · refine ⟨_, computeClose_closes hp (Bool.eq_false_of_not_eq_true hx) hl hi hw ht, ?_, ?_, beginExchange_steals _, fun m b t hb ha htgt => ?_⟩
    · rw [beginExchange_dev, advance_phase]
    · rw [beginExchange_dev, advance_phaseStart]
    · obtain ⟨hregs, hpc, -⟩ := advanced_fields t (s.dev.phase + 1)
      refine ⟨_, ?_, advanced_reached ha htgt, hregs, hpc⟩
      rw [bank_of_banks (beginExchange_banks _ m), advance_bank, hb, Option.map_some]
  · obtain ⟨hphase, hstart, hcan, hbank⟩ := exchangeClosed_spec (s := s) ht
    refine ⟨_, exchangeClose_closes hp hx hl hi hw hn, hphase, hstart, ⟨hcan, fun m b t hb hheld => ?_⟩, fun m b t hb ha htgt => ?_⟩
    · obtain ⟨strap, hb'⟩ := hbank m b t hb
      obtain ⟨-, -, hhold⟩ := advanced_fields t (s.dev.phase + 1)
      obtain ⟨-, -, -, hresume⟩ := resume_fields (advanced (s.dev.phase + 1) t) strap
      exact ⟨_, hb', hresume (hhold.trans hheld)⟩
    · obtain ⟨strap, hb'⟩ := hbank m b t hb
      obtain ⟨hregs, hpc, -⟩ := advanced_fields t (s.dev.phase + 1)
      obtain ⟨hctl, hregs', hpc', -⟩ := resume_fields (advanced (s.dev.phase + 1) t) strap
      exact ⟨_, hb', by rw [hctl, advanced_reached ha htgt], hregs'.trans hregs, hpc'.trans hpc⟩
  · exact ⟨_, computeBudget_expires hx (hexp.1 he), straggleAll_phase .., fun b t hb hc hp => straggleAll_bank hb hc hp⟩
  · obtain ⟨hc, hphase, hheld⟩ := cancelContext_spec (s.straggleAll n x) x
    refine ⟨_, exchangeBudget_expires hx (hexp.1 he), ⟨hc, hphase.trans (straggleAll_phase ..)⟩, fun b t hb hcx hp => ?_⟩
    obtain ⟨t', hb', hhold, hstrg, htrn, hregs, hpc⟩ := straggleAll_bank hb hcx hp
    have hkept := hheld n b
    rw [hb'] at hkept
    obtain ⟨u, hu, he⟩ := Option.map_eq_some_iff.1 hkept
    obtain ⟨hhold', hstrg', htrn', hregs', hpc'⟩ : u.hold = t'.hold ∧ u.ctl.strg = t'.ctl.strg ∧ u.ctl.trn = t'.ctl.trn ∧ u.regs = t'.regs ∧
        u.pc = t'.pc := by simpa only [heldState, Prod.mk.injEq] using he
    exact ⟨u, hu, hhold'.trans hhold, hstrg'.trans hstrg, htrn'.trans htrn, hregs'.trans hregs, hpc'.trans hpc⟩
  · refine ⟨_, truncation_freezes ht hx, ?_⟩
    rw [truncate_alone hv]
    refine ⟨rfl, fun m => ?_, fun m b t hb => ?_⟩
    · rw [modDev_core, frozenCores_core]
    · have hbank : (frozenCores s).bank m b = some (heldOver t) := by
        rw [bank_eq, frozenCores_core]
        simp only [Fin.getElem_fin, Vector.getElem_map]
        exact congrArg _ hb
      refine (hbank : _ = _).trans ?_
      unfold heldOver
      split <;> rfl

end Sys2Proof.Proofs
end

section
/-!
PROOFS. Placement (R342, R345, R351, R352): what a placement leaves, what the dispatcher takes, and the start of a team. Settles O50.
-/
namespace Sys2Proof.Proofs
open Machine Laws

/-! ## What a change of one core leaves -/

/-- `s'` is `s` but for core `n`, whose lanes and banks stand. -/
structure CoreChanged (s s' : State) (n : CoreId) : Prop where
  dev : s'.dev = s.dev
  other : ∀ m, m ≠ n → s'.core m = s.core m
  lanes : (s'.core n).lanes = (s.core n).lanes
  banks : (s'.core n).banks = (s.core n).banks

/-- `s'` is `s` but for core `n`, whose lanes stand, and of whose banks one has received a task. -/
structure BankPlaced (s s' : State) (n : CoreId) (b : Fin 4) (t : Task) : Prop where
  dev : s'.dev = s.dev
  other : ∀ m, m ≠ n → s'.core m = s.core m
  lanes : (s'.core n).lanes = (s.core n).lanes
  banks : (s'.core n).banks = (s.core n).banks.set b (some t)

namespace BankPlaced

variable {s s' : State} {n : CoreId} {b : Fin 4} {t : Task} (h : BankPlaced s s' n b t)
include h

theorem bank : s'.bank n b = some t := by
  rw [bank_eq, h.banks]
  simp

theorem bank_ne {d : Fin 4} (hd : d ≠ b) : s'.bank n d = s.bank n d := by
  have hv : b.val ≠ d.val := fun e => hd (Fin.ext e.symm)
  rw [bank_eq, h.banks, bank_eq]
  simp [Vector.getElem_set_ne, hv]

end BankPlaced

namespace CoreChanged

theorem refl (s : State) (n : CoreId) : CoreChanged s s n := ⟨rfl, fun _ _ => rfl, rfl, rfl⟩

theorem trans {s s' s'' : State} {n : CoreId} (h : CoreChanged s s' n) (h' : CoreChanged s' s'' n) : CoreChanged s s'' n :=
  ⟨h'.dev.trans h.dev, fun m hm => (h'.other m hm).trans (h.other m hm), h'.lanes.trans h.lanes, h'.banks.trans h.banks⟩

theorem setCore (s : State) (n : CoreId) {c : Core} (hc : c.lanes = (s.core n).lanes) (hb : c.banks = (s.core n).banks) :
    CoreChanged s (s.setCore n c) n :=
  ⟨rfl, fun _ hm => setCore_core_ne s c hm, by rw [setCore_core_self, hc], by rw [setCore_core_self, hb]⟩

end CoreChanged

theorem assignPartition_changed (s : State) (n : CoreId) (x : BitVec 16) : CoreChanged s (s.assignPartition n x) n := by
  unfold State.assignPartition
  dsimp only
  split
  · exact .refl s n
  · exact .setCore s n rfl rfl

theorem freshTid_snd (s : State) : s.freshTid.2 = (s.choose 0xFFFF).2 := by
  unfold State.freshTid
  generalize s.choose 0xFFFF = p
  obtain ⟨k, q⟩ := p
  extract_lets used
  dsimp -zeta only
  extract_lets f
  clear_value f used
  cases List.find? (fun i => !used.contains (f i)) (List.range (used.length + 1)) with
  | none => rfl
  | some i => rfl

theorem choose_changed (s : State) (k : Nat) (n : CoreId) : CoreChanged s (s.choose k).2 n := ⟨rfl, fun _ _ => rfl, rfl, rfl⟩

theorem freshTid_changed (s : State) (n : CoreId) : CoreChanged s s.freshTid.2 n := by
  rw [freshTid_snd]
  exact choose_changed s _ n

theorem mapCommand_changed (s : State) (n : CoreId) (k : Cmd) : CoreChanged s (s.mapCommand n k).2 n := by
  have h : CoreChanged s ({ s with serial := s.serial + 1 } : State) n := ⟨rfl, fun _ _ => rfl, rfl, rfl⟩
  exact h.trans (.setCore _ n rfl rfl)

theorem startImage_changed (s : State) (n : CoreId) (x : BitVec 16) (code : Nat) : CoreChanged s (s.startImage n x code).2 n := by
  unfold State.startImage
  extract_lets va
  clear_value va
  by_cases h : s.headerWord (s.asnOf n x) va = some 0
  · rw [if_pos h]
    exact .refl s n
  · rw [if_neg h]
    exact mapCommand_changed s n _

/-! ## A placement (R342) -/

/-- The placement of a record before its task is made: its partition and its unit. -/
def placeRoom (s : State) (n : CoreId) (r : QRec) : State :=
  let s := if !((s.core n).cctx r.ctx).any (fun k => 0 < k.lsize) then s.assignPartition n r.ctx else s
  if r.mx then s.modUnit n (·.take r.ctx) else s

theorem placeRoom_changed (s : State) (n : CoreId) (r : QRec) : CoreChanged s (placeRoom s n r) n := by
  have h : CoreChanged s (if !((s.core n).cctx r.ctx).any (fun k => 0 < k.lsize) then s.assignPartition n r.ctx else s) n := by
    split
    · exact assignPartition_changed s n r.ctx
    · exact .refl s n
  unfold placeRoom
  dsimp only
  split
  · exact h.trans (.setCore _ n rfl rfl)
  · exact h

/-- The copy of the loft image that a placement starts, when the context is new to the core. -/
def placeImage (s : State) (n : CoreId) (r : QRec) (code : Nat) (fresh : Bool) : Nat × State :=
  if fresh then s.startImage n r.ctx code else (0, s)

theorem placeImage_changed (s : State) (n : CoreId) (r : QRec) (code : Nat) (fresh : Bool) : CoreChanged s (placeImage s n r code fresh).2 n := by
  unfold placeImage
  split
  · exact startImage_changed s n r.ctx code
  · exact .refl s n

theorem place_eq {s q p : State} {n : CoreId} {b : Fin 4} {r : QRec} {c : Coord} {tid : BitVec 16} {img : Nat}
    (hq : (placeRoom s n r).freshTid = (tid, q))
    (hp : placeImage q n r (r.task tid (q.ceilOf r.ctx) c).pc.toNat (!((s.core n).cctx r.ctx).any fun k => 0 < k.lsize) = (img, p)) :
    s.place n b r c = (p.setBank n b (some { r.task tid (q.ceilOf r.ctx) c with image := img })).modCore n fun c => { c with ended := c.ended.set b none } := by
  rw [placeRoom] at hq
  rw [placeImage] at hp
  rw [State.place]
  dsimp only at hq ⊢
  rw [hq]
  dsimp only
  rw [hp]

/-- A bank that receives a task, which has not ended anything. -/
theorem bankPlaced_of_changed {s p : State} {n : CoreId} (h : CoreChanged s p n) (b : Fin 4) (t : Task) :
    BankPlaced s ((p.setBank n b (some t)).modCore n fun c => { c with ended := c.ended.set b none }) n b t := by
  refine ⟨h.dev, fun m hm => ?_, ?_, ?_⟩
  · rw [modCore_core_ne _ _ hm]
    exact (setCore_core_ne p _ hm).trans (h.other m hm)
  · rw [modCore_core_self, State.setBank, modCore_core_self]
    exact h.lanes
  · rw [modCore_core_self, State.setBank, modCore_core_self]
    exact congrArg (fun v : Vector (Option Task) 4 => v.set b (some t)) h.banks

/-- A placement changes its core alone, whose bank receives a new task of the record. -/
theorem place_spec (s : State) (n : CoreId) (b : Fin 4) (r : QRec) (c : Coord) :
    ∃ tid ceil img, BankPlaced s (s.place n b r c) n b { r.task tid ceil c with image := img } := by
  have hroom := (placeRoom_changed s n r).trans (freshTid_changed _ n)
  cases hq : (placeRoom s n r).freshTid with
  | mk tid q =>
    rw [hq] at hroom
    have himage := placeImage_changed q n r (r.task tid (q.ceilOf r.ctx) c).pc.toNat (!((s.core n).cctx r.ctx).any fun k => 0 < k.lsize)
    cases hp : placeImage q n r (r.task tid (q.ceilOf r.ctx) c).pc.toNat (!((s.core n).cctx r.ctx).any fun k => 0 < k.lsize) with
    | mk img p =>
      rw [hp] at himage
      rw [place_eq hq hp]
      exact ⟨tid, q.ceilOf r.ctx, img, bankPlaced_of_changed (hroom.trans himage) b _⟩

/-- The task of a record (R342). -/
theorem task_fields (r : QRec) (tid : BitVec 16) (ceil : Fin 8) (c : Coord) : let t := r.task tid ceil c
    t.ctx = r.ctx ∧ t.job = r.job ∧ t.pc = BitVec.ofNat 56 (r.code.fld 4 52 * 16) ∧ t.slot = 0 ∧ t.ctl.base = r.pri ∧ t.ctl.eff = r.pri ∧
    t.startPhase = c.start ∧ t.grid = c.grid ∧ t.gidx = c.gidx ∧ t.member = c.member ∧ t.team = c.team ∧ t.paddock = c.paddock := by
  exact ⟨rfl, rfl, rfl, rfl, rfl, rfl, rfl, rfl, rfl, rfl, rfl, rfl⟩

theorem task_getS (r : QRec) (tid : BitVec 16) (ceil : Fin 8) (c : Coord) (z : SReg) :
    (r.task tid ceil c).getS z = if z = 3 then r.frame else if z = 63 then r.tp else 0 := by
  rw [QRec.task, getS_setS, getS_setS]
  by_cases h63 : z = 63
  · rw [if_pos ⟨h63, by decide⟩, if_neg (by rw [h63]; decide), if_pos h63]
  · rw [if_neg fun h => h63 h.1, if_neg h63]
    by_cases h3 : z = 3
    · rw [if_pos ⟨h3, by decide⟩, if_pos h3]
    · rw [if_neg fun h => h3 h.1, if_neg h3]
      unfold Task.getS
      split
      · rfl
      · exact Vector.getElem_replicate ..

/-- The bundle address of a code word. -/
theorem code_toNat (v : W64) : (BitVec.ofNat 56 (v.fld 4 52 * 16)).toNat = v.toNat / 16 % 2 ^ 52 * 16 := by
  rw [W64.fld, bits, BitVec.toNat_ofNat]
  omega

theorem getS_image (t : Task) (img : Nat) (z : SReg) : ({ t with image := img } : Task).getS z = t.getS z := rfl

/-! ## The order in which a team starts -/

theorem insertBy_perm {α : Type} (le : α → α → Bool) (a : α) (l : List α) : (insertBy le a l).Perm (a :: l) := by
  induction l with
  | nil => exact .refl _
  | cons b l ih =>
    rw [insertBy]
    split
    · exact .refl _
    · exact (ih.cons b).trans (.swap a b l)

theorem sortBy_perm {α : Type} (le : α → α → Bool) (l : List α) : (sortBy le l).Perm l := by
  induction l with
  | nil => exact .refl _
  | cons a l ih => exact (insertBy_perm le a _).trans (ih.cons a)

theorem insertBy_pairwise {α : Type} {le : α → α → Bool} (ht : ∀ a b, le a b = true ∨ le b a = true)
    (htr : ∀ a b c, le a b = true → le b c = true → le a c = true) (a : α) {l : List α} (h : l.Pairwise fun a b => le a b = true) :
    (insertBy le a l).Pairwise fun a b => le a b = true := by
  induction l with
  | nil => exact List.pairwise_singleton ..
  | cons b l ih =>
    obtain ⟨hb, hl⟩ := List.pairwise_cons.1 h
    rw [insertBy]
    split
    next hab => exact List.pairwise_cons.2 ⟨fun c hc => by
      obtain rfl | hc := List.mem_cons.1 hc
      · exact hab
      · exact htr a b c hab (hb c hc), h⟩
    next hab =>
      refine List.pairwise_cons.2 ⟨fun c hc => ?_, ih hl⟩
      obtain rfl | hc := List.mem_cons.1 ((insertBy_perm le a l).mem_iff.1 hc)
      · exact (ht c b).resolve_left hab
      · exact hb c hc

theorem sortBy_pairwise {α : Type} {le : α → α → Bool} (ht : ∀ a b, le a b = true ∨ le b a = true)
    (htr : ∀ a b c, le a b = true → le b c = true → le a c = true) (l : List α) : (sortBy le l).Pairwise fun a b => le a b = true := by
  induction l with
  | nil => exact .nil
  | cons a l ih => exact insertBy_pairwise ht htr a ih

/-- The cores of a team in their order: distinct, they ascend. -/
theorem sortedCores {l : List CoreId} (h : l.Nodup) : let cores := sortBy (fun a b : CoreId => decide (a.val ≤ b.val)) l
    cores.Perm l ∧ cores.Nodup ∧ cores.Pairwise fun a b => a.val < b.val := by
  intro cores
  have hperm : cores.Perm l := sortBy_perm _ l
  have hnodup : cores.Nodup := hperm.nodup_iff.2 h
  have hsorted : cores.Pairwise fun a b => decide (a.val ≤ b.val) = true :=
    sortBy_pairwise (fun a b => by simp only [decide_eq_true_eq]; omega) (fun a b c => by simp only [decide_eq_true_eq]; omega) l
  refine ⟨hperm, hnodup, (hsorted.and hnodup).imp fun {a b} ⟨hle, hne⟩ => ?_⟩
  have hv : a.val ≠ b.val := fun e => hne (Fin.ext e)
  rw [decide_eq_true_eq] at hle
  omega

/-! ## The members of a team start (R351) -/

/-- What the member of index `k` of a team is placed with. -/
def memberCoord (s : State) (r : Reserve) (team : Nat) (cores : List CoreId) (k : Nat) : Coord :=
  { team := team, member := Fin.ofNat 16 k, paddock := cores, grid := r.grid, gidx := r.gidx, start := s.startTeam }

theorem startTeam_congr {s s' : State} (h : s'.dev = s.dev) : s'.startTeam = s.startTeam := by
  rw [State.startTeam, State.startTeam, exchange_iff, exchange_iff, h]

theorem freeBank_free {c : Core} {b : Fin 4} (h : c.freeBank = some b) : c.banks[b] = none := by
  have := List.find?_some h
  simpa using this

/-- Each member of a team is placed on its core, in a bank that was free; the device stands, and so does every other core. -/
theorem startMembers_spec (r : Reserve) (team : Nat) (cores : List CoreId) : ∀ (ms : List (CoreId × Nat)) (s : State),
    (ms.map (·.1)).Nodup → (∀ p ∈ ms, ((s.core p.1).freeBank).isSome = true) →
    (s.startMembers r team cores ms).dev = s.dev ∧ (∀ m, m ∉ ms.map (·.1) → (s.startMembers r team cores ms).core m = s.core m) ∧
    ∀ m k, (m, k) ∈ ms → ∃ b tid ceil img, (s.core m).banks[b] = none ∧
      (s.startMembers r team cores ms).bank m b = some { r.rcd.task tid ceil (memberCoord s r team cores k) with image := img }
  | [], s, _, _ => ⟨rfl, fun _ _ => rfl, fun _ _ h => absurd h List.not_mem_nil⟩
  | (n, i) :: ms, s, hn, hf => by
    obtain ⟨b, hb⟩ := Option.isSome_iff_exists.1 (hf (n, i) (List.mem_cons_self ..))
    rw [List.map_cons, List.nodup_cons] at hn
    obtain ⟨hnot, hn⟩ := hn
    obtain ⟨tid, ceil, img, hplaced⟩ := place_spec s n b r.rcd (memberCoord s r team cores i)
    have hstep : s.startMembers r team cores ((n, i) :: ms) = (s.place n b r.rcd (memberCoord s r team cores i)).startMembers r team cores ms := by
      rw [State.startMembers, hb]
      rfl
    rw [hstep]
    generalize s.place n b r.rcd (memberCoord s r team cores i) = q at hplaced ⊢
    have hne {m : CoreId} {k : Nat} (h : (m, k) ∈ ms) : m ≠ n := fun e => hnot (e ▸ List.mem_map_of_mem (f := (·.1)) h)
    obtain ⟨hdev, hother, hmem⟩ := startMembers_spec r team cores ms q hn fun p hp => by
      rw [hplaced.other p.1 (hne hp)]
      exact hf p (List.mem_cons_of_mem _ hp)
    refine ⟨hdev.trans hplaced.dev, fun m hm => ?_, fun m k hm => ?_⟩
    · rw [List.map_cons, List.mem_cons, not_or] at hm
      obtain ⟨hm, hms⟩ := hm
      exact (hother m hms).trans (hplaced.other m hm)
    · obtain he | hm := List.mem_cons.1 hm
      · obtain ⟨rfl, rfl⟩ := Prod.mk.inj he
        exact ⟨b, tid, ceil, img, freeBank_free hb, by rw [bank_eq, hother m hnot, ← bank_eq, hplaced.bank]⟩
      · obtain ⟨b', tid', ceil', img', hfree, hbank⟩ := hmem m k hm
        rw [hplaced.other m (hne hm)] at hfree
        refine ⟨b', tid', ceil', img', hfree, hbank.trans ?_⟩
        rw [memberCoord, memberCoord, startTeam_congr hplaced.dev]

/-- A complete reservation of the die of core `n`. -/
def Complete (n : CoreId) (r : Bool × Reserve) : Bool := r.1 == dieOf n && r.2.cores.length == r.2.rcd.tsz.val + 1

theorem exec_teamStart {s : State} {r : Bool × Reserve} (hr : s.dev.reserving.find? (Complete s.on.core) = some r)
    (hp : ∀ m ∈ r.2.cores, s.canPlace m r.2.rcd.ctx r.2.rcd.mx = true) :
    let cores := sortBy (fun a b : CoreId => decide (a.val ≤ b.val)) r.2.cores
    exec .teamStart s = .next (({ (s.modDev fun d => { d with reserving := d.reserving.erase r }) with serial := s.serial + 1 } : State).startMembers
      r.2 s.serial cores (cores.zip (List.range cores.length))) := by
  have hfind : s.dev.reserving.find? (fun r => r.1 == dieOf s.on.core && r.2.cores.length == r.2.rcd.tsz.val + 1) = some r := hr
  refine congrArg Host.Outcome.next ?_
  rw [hfind]
  exact if_pos (List.all_eq_true.2 hp)

theorem canPlace_freeBank {s : State} {n : CoreId} {x : BitVec 16} {mx : Bool} (h : s.canPlace n x mx = true) : (s.core n).freeBank.isSome = true := by
  rw [State.canPlace, Bool.and_eq_true] at h
  exact h.2

theorem zip_range_fst {α : Type} (l : List α) : (l.zip (List.range l.length)).map (·.1) = l :=
  List.map_fst_zip (by rw [List.length_range])

theorem mem_zip_range {α : Type} {l : List α} {k : Nat} {a : α} (h : l[k]? = some a) : (a, k) ∈ l.zip (List.range l.length) := by
  obtain ⟨hk, rfl⟩ := List.getElem?_eq_some_iff.1 h
  refine List.mem_iff_getElem.2 ⟨k, by rw [List.length_zip, List.length_range, Nat.min_self]; exact hk, ?_⟩
  rw [List.getElem_zip, List.getElem_range]

/-! ## What the dispatcher takes (R345) -/

section
variable {s : State} {n : CoreId}

/-- Nothing is promised to a core of which no record makes way. -/
theorem takePromised_none (h : ∀ v ∈ s.dev.promised, v.1 ≠ n) : s.takePromised n = none := by
  rw [State.takePromised]
  refine Option.map_eq_none_iff.2 (List.find?_eq_none.2 fun v hv => ?_)
  have hne := h v (List.mem_filter.1 hv).1
  simp [hne]

variable (hp : s.dev.power = .running) (hn : n = s.on.core) (he : s.endGrid n = none) (hr : ∀ r ∈ s.dev.reserving, n ∉ r.2.cores)
include hp hn he hr

omit hp in
theorem dispatch_full (hb : (s.core n).freeBank = none) : exec .dispatch s = .next s := by
  subst hn
  refine congrArg Host.Outcome.next ?_
  rw [he]
  exact if_pos (by rw [Option.getD_none, hb]; simp)

variable (hj : s.joinReserve n = none) (hv : ∀ v ∈ s.dev.promised, v.1 ≠ n) (hs : s.restoreFirst n = false)
include hj hv hs

theorem dispatch_takes {b : Fin 4} {q : Cand} (hb : (s.core n).freeBank = some b) (hq : (s.candidates n).find? (s.takable n) = some q) :
    exec .dispatch s = .next (s.takeCand n q) := by
  subst hn
  have hres : s.coreReserved s.on.core = false := by
    rw [State.coreReserved, List.any_eq_false]
    exact fun r hm => by simpa using hr r hm
  refine congrArg Host.Outcome.next ?_
  rw [he, Option.getD_none]
  dsimp only
  rw [hj, Option.getD_none, State.takeWork, takePromised_none hv, hs, hq]
  exact if_neg (by rw [hp, hres, hb]; simp)

end

/-- A core takes a task record for its free bank (R342). -/
theorem takeCand_task {s : State} {n : CoreId} {b : Fin 4} (r : QRec) (hb : (s.core n).freeBank = some b) : s.takeCand n (.task r) =
    (({ s with serial := s.serial + 1 } : State).unqueue n r).place n b r { team := s.serial, paddock := [n], start := s.startNow } := by
  rw [State.takeCand, hb]
  rfl

theorem takeCand_index {s : State} {n : CoreId} {b : Fin 4} (j : Fin 64) (g : Grid) (hb : (s.core n).freeBank = some b) : s.takeCand n (.index j g) =
    ({ (s.modDev (·.modGrid j fun g => { g with next := g.next + 1, running := g.running + 1 })) with serial := s.serial + 1 } : State).place n b g.team
      { team := s.serial, paddock := [n], grid := some j, gidx := BitVec.ofNat 24 g.next, start := s.startNow } := by
  rw [State.takeCand, hb]
  rfl

theorem unqueue_lanes (s : State) (n : CoreId) (r : QRec) : ((s.unqueue n r).core n).lanes[r.pri] = (s.core n).lanes[r.pri].erase r := by
  rw [State.unqueue, modCore_core_self]
  simp

theorem modGrid_grids (d : Device) (j : Fin 64) (f : Grid → Grid) :
    (d.modGrid j f).grids = d.grids.map fun e => if e.1 = j then (j, f e.2) else e := by
  simp [Device.modGrid]

/-- What a placement with this record and start leaves in its bank. -/
theorem place_bank (s : State) (n : CoreId) (b : Fin 4) (r : QRec) (c : Coord) : ∃ t, (s.place n b r c).bank n b = some t ∧ t.ctx = r.ctx ∧
    t.job = r.job ∧ t.pc.toNat = r.code.toNat / 16 % 2 ^ 52 * 16 ∧ t.slot = 0 ∧ t.ctl.base = r.pri ∧ t.ctl.eff = r.pri ∧
    (∀ z, t.getS z = if z = 3 then r.frame else if z = 63 then r.tp else 0) ∧ t.startPhase = c.start ∧ t.grid = c.grid ∧ t.gidx = c.gidx := by
  obtain ⟨tid, ceil, img, hplaced⟩ := place_spec s n b r c
  exact ⟨_, hplaced.bank, rfl, rfl, code_toNat r.code, rfl, rfl, rfl, fun z => (getS_image ..).trans (task_getS ..), rfl, rfl, rfl⟩

/-- A team that begins to reserve holds its own core and others of its die on which it can be placed (R351). -/
theorem reserve_spec (s : State) (n : CoreId) (r : QRec) (g : Option (Fin 64)) (j : BitVec 24) : ∃ v : Reserve,
    (s.reserve n r g j).dev.reserving = s.dev.reserving ++ [(dieOf n, v)] ∧ v.rcd = r ∧ v.core = n ∧ v.grid = g ∧ v.gidx = j ∧
    v.cores.head? = some n ∧ v.cores.length ≤ r.tsz.val + 1 ∧ ∀ m ∈ v.cores, dieOf m = dieOf n ∧ (m = n ∨ s.canPlace m r.ctx r.mx = true) := by
  unfold State.reserve
  generalize allCores = all
  refine ⟨{ rcd := r, core := n, cores := n :: (all.filter fun m => dieOf m == dieOf n && m != n && s.canPlace m r.ctx r.mx).take r.tsz.val,
            grid := g, gidx := j }, ?_, rfl, rfl, rfl, rfl, rfl, ?_, fun m hm => ?_⟩
  · cases g <;> rfl
  · rw [List.length_cons]
    exact Nat.succ_le_succ (List.length_take_le ..)
  · obtain rfl | hm := List.mem_cons.1 hm
    · exact ⟨rfl, .inl rfl⟩
    · have hf := (List.mem_filter.1 (List.mem_of_mem_take hm)).2
      simp only [Bool.and_eq_true, beq_iff_eq] at hf
      obtain ⟨⟨hdie, -⟩, hplace⟩ := hf
      exact ⟨hdie, .inr hplace⟩

/-- A grid record leaves its lane for an entry of the grid table (R352). -/
theorem openGridEntry_spec (s : State) (n : CoreId) (r : QRec) : ∃ j g, (s.openGridEntry n r).dev.grids = s.dev.grids ++ [(j, g)] ∧ g.rcd = r ∧
    g.next = 0 ∧ g.running = 0 ∧ g.count.toNat = r.gcount ∧ ((s.openGridEntry n r).core n).lanes[r.pri] = (s.core n).lanes[r.pri].erase r := by
  have hcount : (BitVec.ofNat 24 r.gcount).toNat = r.gcount := by
    rw [BitVec.toNat_ofNat, QRec.gcount, fld_zero, Nat.mod_mod]
  unfold State.openGridEntry
  extract_lets free
  clear_value free
  have hchanged := choose_changed s free.length n
  generalize s.choose free.length = p at hchanged ⊢
  obtain ⟨k, q⟩ := p
  have hlanes := hchanged.lanes
  have hdev := hchanged.dev
  refine ⟨_, _, congrArg (fun d : Device => d.grids ++ _) hdev, rfl, rfl, rfl, hcount, ?_⟩
  exact (unqueue_lanes q n r).trans (congrArg (fun l : Vector (List QRec) 8 => l[r.pri].erase r) hlanes)

/-- Settles O50: the dispatcher by its candidate, and a team by the fold over its members. -/
theorem placementEvents : Obligations.PlacementEvents := by
  unfold Obligations.PlacementEvents
  intro s n c later
  refine ⟨fun hp he hr hj hv hs => ⟨fun hb => dispatch_full rfl he hr hb, fun b hb => ?_⟩, fun r hr hn hc => ?_⟩
  · have htake {q : Cand} (hq : (s.candidates n).find? (s.takable n) = some q) : exec .dispatch s = .next (s.takeCand n q) :=
      dispatch_takes hp rfl he hr hj hv hs hb hq
    refine ⟨fun r hq => ?_, fun r g j hq => ?_, fun r hq => ?_, fun j g hq => ?_⟩
    · have h := htake hq
      rw [takeCand_task r hb] at h
      obtain ⟨t, ht, hctx, hjob, hpc, hslot, hbase, heff, hregs, hstart, -, -⟩ :=
        place_bank (({ s with serial := s.serial + 1 } : State).unqueue n r) n b r { team := s.serial, paddock := [n], start := s.startNow }
      obtain ⟨_, _, _, hplaced⟩ :=
        place_spec (({ s with serial := s.serial + 1 } : State).unqueue n r) n b r { team := s.serial, paddock := [n], start := s.startNow }
      refine ⟨_, h, t, ht, freeBank_free hb, hctx, hjob, hpc, hslot, hbase, heff, hregs, hstart, ?_⟩
      rw [hplaced.lanes, unqueue_lanes]
      rfl
    · exact ⟨_, htake hq, reserve_spec s n r g j⟩
    · obtain ⟨j, g, hgrids, hrcd, hnext, hrun, hcount, hlanes⟩ := openGridEntry_spec s n r
      exact ⟨_, htake hq, j, g, hgrids, hrcd, hnext, hrun, hcount, hlanes⟩
    · have h := htake hq
      rw [takeCand_index j g hb] at h
      obtain ⟨t, ht, hctx, -, hpc, -, -, -, -, hstart, hgrid, hgidx⟩ :=
        place_bank ({ (s.modDev (·.modGrid j fun g => { g with next := g.next + 1, running := g.running + 1 })) with serial := s.serial + 1 } : State) n b
          g.team { team := s.serial, paddock := [n], grid := some j, gidx := BitVec.ofNat 24 g.next, start := s.startNow }
      obtain ⟨_, _, _, hplaced⟩ :=
        place_spec ({ (s.modDev (·.modGrid j fun g => { g with next := g.next + 1, running := g.running + 1 })) with serial := s.serial + 1 } : State) n b
          g.team { team := s.serial, paddock := [n], grid := some j, gidx := BitVec.ofNat 24 g.next, start := s.startNow }
      refine ⟨_, h, t, ht, hctx, hstart, hgrid, hgidx, hpc, ?_⟩
      rw [hplaced.dev]
      exact modGrid_grids ..
  · obtain ⟨hperm, hnodup, hlt⟩ := sortedCores hn
    have hx := exec_teamStart hr hc
    generalize sortBy (fun a b : CoreId => decide (a.val ≤ b.val)) r.2.cores = cores at hperm hnodup hlt hx
    obtain ⟨hdev, -, hmem⟩ := startMembers_spec r.2 s.serial cores (cores.zip (List.range cores.length))
      ({ (s.modDev fun d => { d with reserving := d.reserving.erase r }) with serial := s.serial + 1 } : State)
      (by rw [zip_range_fst]; exact hnodup)
      (fun p hp => canPlace_freeBank (hc p.1 (hperm.mem_iff.1 (List.of_mem_zip hp).1)))
    have hlen : cores.length ≤ 16 := by
      have hcomplete := List.find?_some hr
      simp only [Bool.and_eq_true, beq_iff_eq] at hcomplete
      obtain ⟨-, hlen⟩ := hcomplete
      rw [hperm.length_eq, hlen]
      exact r.2.rcd.tsz.isLt
    refine ⟨_, hx, by rw [hdev]; rfl, s.serial, cores, hperm, hlt, fun k m hk => ?_⟩
    obtain ⟨b, tid, ceil, img, hfree, hbank⟩ := hmem m k (mem_zip_range hk)
    have hkl := (List.getElem?_eq_some_iff.1 hk).1
    exact ⟨b, _, hfree, hbank, Nat.mod_eq_of_lt (by omega), rfl, rfl, rfl, rfl, rfl⟩

end Sys2Proof.Proofs
end

section
/-!
PROOFS. The context instructions and the switch (R431, R435, R438, R443 to R446): each form by its context and its operands, and what a
switch leaves in the bank of the task. Settles O44.
-/
namespace Sys2Proof.Proofs
open Machine Laws

/-- An instruction that ends its task's stay on the issue unit. -/
theorem issue_ends {s s' : State} {t : Task} {f : Task → Act} (hl : s.live = some t) (hf : f t = .ended s') :
    issue s f = .next { s' with flow := .ended } := by
  rw [issue_live hl, hf]
  rfl

/-! ## `ckpt` (R444) -/

section
variable {s : State} {t : Task} {k : CoreCtx} {d a b : SReg} (hl : s.live = some t) (hk : (s.core s.cur).cctx t.ctx = some k)
include hl

theorem ckpt_refused (h : (t.getS a).toNat % 32 ≠ 0) : exec (.ckpt a) s = .next (s.traps t 0x09 0 (t.getS a)) :=
  issue_traps hl (if_pos h)

theorem ckpt_marks (h : (t.getS a).toNat % 32 = 0) : exec (.ckpt a) s =
    .next (s.modCctx t fun k => { k with ckpt := w64 ((t.getS a).toNat % 2 ^ 56), ckph := s.dev.phase }).goesOn :=
  issue_ok hl (if_neg (not_not.2 h))

omit hl in
theorem checkpoint_toNat (v : W64) : (w64 (v.toNat % 2 ^ 56)).toNat = v.toNat % 2 ^ 56 := by
  rw [w64, BitVec.toNat_ofNat]
  omega

/-! ## The instructions of a supervisor -/

include hk

theorem supervised_refused (hs : k.sup = false) (f : Task → Act) : supervised f s = .next (s.traps t 0x09 0 (t.ctx.setWidth 64)) := by
  rw [supervised_live hl, cctx_of_resident hk, hs]
  rfl

variable (hs : k.sup = true)
include hs

theorem supervised_acts (f : Task → Act) : supervised f s = issue s f := by
  rw [supervised_live hl, cctx_of_resident hk, hs, issue_live hl]
  rfl

theorem fqwait_delivers {f : FaultQ} (hf : s.dev.oldestFault (dieOf s.cur) = some f) : exec (.fqwait d) s =
    .next ((s.modDev (·.setFaultq (f.markReturned (dieOf s.cur)))).thenTask (t.setS d (f.ctx.setWidth 64))) :=
  (supervised_acts hl hk hs _).trans (issue_ok hl (by simp only [hf]))

theorem fqwait_waits (hf : s.dev.oldestFault (dieOf s.cur) = none) : ∃ w : Wait, w.okind = 0x13 ∧ exec (.fqwait d) s = .next (s.registerWait t w) :=
  ⟨{ okind := 0x13, obj := BitVec.ofNat 48 (bit (dieOf s.cur)) }, rfl, (supervised_acts hl hk hs _).trans (issue_waits hl (by simp only [hf]))⟩

theorem fqpop_refused (h : (t.getS a).toNat % 512 ≠ 0 ∨ k.psize < (t.getS a).toNat + 512) :
    exec (.fqpop d a b) s = .next (s.traps t 0x09 0 (t.getS a)) :=
  (supervised_acts hl hk hs _).trans (issue_traps hl (by rw [cctx_of_resident hk, loftAddr_none h]; rfl))

variable (ha : (t.getS a).toNat % 512 = 0) (hp : (t.getS a).toNat + 512 ≤ k.psize)
include ha hp

theorem fqpop_empty (hq : (s.dev.faultq ((t.getS b).setWidth 16)).dies = []) : exec (.fqpop d a b) s = .next (s.thenTask (t.setS d 0)) := by
  refine (supervised_acts hl hk hs _).trans (issue_ok hl ?_)
  rw [cctx_of_resident hk, loftAddr_some ha hp]
  exact if_pos (by rw [hq]; rfl)

/-- The record leaves its queue for the loft. -/
def poppedRecord (s : State) (t : Task) (q : FaultQ) (o : Nat) : State :=
  (({ s with free := s.free + 512 } : State).modDev (·.setFaultq { q with head := q.head + 1, dies := q.dies.drop 1 })).loftWrite t o (s.oldestRecord q)

theorem fqpop_moves (hq : (s.dev.faultq ((t.getS b).setWidth 16)).dies ≠ [])
    (hh : s.holdFirst t k true false [((t.getS a).toNat, 512)] (granules [((t.getS a).toNat, 512)]) = none) : exec (.fqpop d a b) s =
    .next ((poppedRecord (s.reached t [((t.getS a).toNat, 512)] true) t (s.dev.faultq ((t.getS b).setWidth 16)) (t.getS a).toNat).modLive
      fun t => t.setS d 1).goesOn := by
  rw [← cctx_of_resident hk] at hh
  refine (supervised_acts hl hk hs _).trans (issue_ok hl ?_)
  rw [cctx_of_resident hk, loftAddr_some ha hp]
  refine (if_neg ?_).trans (access_performs hh _)
  rw [List.isEmpty_iff]
  exact hq

end

theorem oldestRecord_length (s : State) (q : FaultQ) : (s.oldestRecord q).length = 512 := by
  unfold State.oldestRecord
  dsimp only
  split
  · rw [Mem.read, List.length_map, List.length_range]
  · rw [freeBytes, List.length_map, List.length_range]

theorem faultq_setFaultq (d : Device) (q : FaultQ) : (d.setFaultq q).faultq q.ctx = q := by
  rw [Device.faultq, Device.setFaultq, List.find?_cons_of_pos (by rw [beq_self_eq_true]), Option.getD_some]

theorem faultq_ctx (d : Device) (x : BitVec 16) : (d.faultq x).ctx = x := by
  unfold Device.faultq
  cases h : d.faultqs.find? (·.ctx == x) with
  | none => rfl
  | some q =>
    have hq := List.find?_some h
    exact beq_iff_eq.1 hq

/-- What the removal of a record leaves: 1 in the destination, the record in the loft, and its queue without it. -/
theorem poppedRecord_spec {r : State} {t : Task} (hl : r.live = some t) (q : FaultQ) (o : Nat) (d : SReg) :
    let s' := ((poppedRecord r t q o).modLive fun t => t.setS d 1).goesOn
    s'.live = some (unwaiting (t.setS d 1)) ∧ (s'.core r.cur).loft.read ((r.cctx t).base + o) 512 = r.oldestRecord q ∧
    s'.dev.faultq q.ctx = { q with head := q.head + 1, dies := q.dies.drop 1 } := by
  refine ⟨?_, ?_, ?_⟩
  · have h : (poppedRecord r t q o).live = r.live := modCore_live _ _ fun _ => ⟨rfl, rfl⟩
    rw [goesOn_live, modLive_live, h, hl]
    rfl
  · have h : (((poppedRecord r t q o).modLive fun t => t.setS d 1).goesOn.core r.cur).loft = (r.core r.cur).loft.write ((r.cctx t).base + o) (r.oldestRecord q) :=
      (endWait_proj (·.loft) _ r.cur fun _ _ _ => rfl).trans ((modLive_proj (·.loft) _ _ r.cur fun _ _ => rfl).trans (loftWrite_loft ..))
    have hread := read_write (r.core r.cur).loft ((r.cctx t).base + o) (r.oldestRecord q)
    rw [oldestRecord_length] at hread
    rw [h, hread]
  · exact (endWait_dev_proj (fun d => d.faultq q.ctx) _ fun _ _ _ => rfl).trans (faultq_setFaultq r.dev { q with head := q.head + 1, dies := q.dies.drop 1 })

/-! ## The end of a context (R438, R446) -/

theorem holdings_goesOn (s : State) (m : CoreId) : holdings (s.goesOn.core m) = holdings (s.core m) := by
  refine Prod.ext ?_ (Prod.ext (Vector.ext fun i hi => ?_) ?_)
  · exact endWait_proj (fun c => c.ctxs.map (·.ctx)) s m fun _ _ _ => rfl
  · simp only [holdings, Vector.getElem_map]
    exact endWait_bank_map (·.ctx) (fun _ => rfl) s m ⟨i, hi⟩
  · exact endWait_proj (·.lanes) s m fun _ _ _ => rfl

/-- Once a context has been destroyed nothing of it is left on any core, whatever holds the same there. -/
theorem nothing_after_destroy {s s' : State} {x : BitVec 16} (h : ∀ m, holdings (s'.core m) = holdings ((s.destroy x).core m)) (m : CoreId) :
    (s'.core m).cctx x = none ∧ ∀ p ∈ (s'.core m).tasks, p.2.ctx ≠ x := by
  have hd := congrArg (fun q => q.2.2.2 m) (standing_destroy s x)
  obtain ⟨hctx, htasks, -⟩ := nothing_of_forgotten ((h m).trans hd)
  exact ⟨hctx, htasks⟩

section
variable {s : State} {t : Task} {k : CoreCtx} {a : SReg} (hl : s.live = some t) (hk : (s.core s.cur).cctx t.ctx = some k) (hs : k.sup = true)
include hl hk hs

theorem ctxkill_inactive (hx : s.ctxEntry ((t.getS a).setWidth 16) = none) : exec (.ctxkill a) s = .next s.goesOn :=
  (supervised_acts hl hk hs _).trans (issue_ok hl (if_pos (by rw [hx]; rfl)))

theorem ctxrel_inactive (hx : s.ctxEntry ((t.getS a).setWidth 16) = none) : exec (.ctxrel a) s = .next s.goesOn :=
  (supervised_acts hl hk hs _).trans (issue_ok hl (if_pos (by rw [hx]; rfl)))

theorem ctxrel_releases (hx : s.ctxEntry ((t.getS a).setWidth 16) ≠ none) :
    exec (.ctxrel a) s = .next (s.releaseContext ((t.getS a).setWidth 16)).goesOn :=
  (supervised_acts hl hk hs _).trans (issue_ok hl (if_neg (by rwa [Option.isNone_iff_eq_none])))

theorem ctxkill_other (hx : s.ctxEntry ((t.getS a).setWidth 16) ≠ none) (hc : (t.getS a).setWidth 16 ≠ t.ctx) :
    exec (.ctxkill a) s = .next (s.destroy ((t.getS a).setWidth 16)).goesOn :=
  (supervised_acts hl hk hs _).trans (issue_ok hl ((if_neg (by rwa [Option.isNone_iff_eq_none])).trans (if_neg hc)))

theorem ctxkill_own (hx : s.ctxEntry ((t.getS a).setWidth 16) ≠ none) (hc : (t.getS a).setWidth 16 = t.ctx) :
    exec (.ctxkill a) s = .next { s.destroy ((t.getS a).setWidth 16) with flow := .ended } := by
  refine (supervised_acts hl hk hs _).trans (issue_ends hl ?_)
  exact (if_neg (by rwa [Option.isNone_iff_eq_none])).trans (if_pos hc)

end

/-- The context instructions, each by its context and its operands. -/
theorem contextForms_holds : contextForms := by
  unfold contextForms
  intro s t k d a b hl hk v x q o
  refine ⟨ckpt_refused hl, fun h => ⟨_, ckpt_marks hl h, trivial, _, modCctx_goesOn_cctx hk fun _ => rfl, ?_, rfl⟩, fun hs i hi => ?_, fun hs => ?_⟩
  · exact checkpoint_toNat (t.getS a)
  · simp only [List.mem_cons, List.not_mem_nil, or_false] at hi
    obtain rfl | rfl | rfl | rfl := hi
    · exact supervised_refused hl hk hs _
    · exact supervised_refused hl hk hs _
    · exact supervised_refused hl hk hs _
    · exact supervised_refused hl hk hs _
  · refine ⟨fun f hf => ⟨_, fqwait_delivers hl hk hs hf, _, thenTask_live .., trivial, rfl⟩, fqwait_waits hl hk hs, fqpop_refused hl hk hs,
      fqpop_empty hl hk hs, fun ha hp hq hh => ?_, fun hx => ⟨ctxkill_inactive hl hk hs hx, ctxrel_inactive hl hk hs hx⟩,
      fun hx => ⟨ctxrel_releases hl hk hs hx, ?_⟩⟩
    · obtain ⟨hregs, hloft, hqueue⟩ := poppedRecord_spec (r := s.reached t [(o, 512)] true) ((reached_live ..).trans hl) q o d
      refine ⟨_, fqpop_moves hl hk hs ha hp hq hh, _, hregs, trivial, rfl, ?_, hqueue⟩
      rw [reached_base, cctx_of_resident hk] at hloft
      exact hloft
    · by_cases hc : x = t.ctx
      · exact ⟨_, ctxkill_own hl hk hs hx hc, fun h => absurd hc h, fun _ => rfl, nothing_after_destroy fun m => congrArg holdings (flow_core _ _ m)⟩
      · exact ⟨_, ctxkill_other hl hk hs hx hc, fun _ => trivial, fun h => absurd h hc, nothing_after_destroy (holdings_goesOn _)⟩

/-! ## What a switch leaves (R431) -/

/-- What leaves a core: the task as it leaves, but for its calls, or nothing. -/
def LeftBank (t : Task) (o : Option Task) : Prop := o = none ∨ ∃ calls, o = some { t.leave with calls := calls }

theorem endInner_promised (s : State) (n : CoreId) (t : Task) : (s.endInner n t).dev.promised = s.dev.promised :=
  release_proj (·.promised) _ _ fun _ _ _ => rfl

/-- A switch leaves the bank to its task as it leaves, or to nobody; then the record for which the task leaves is placed. -/
theorem switchOut_form (s : State) (n : CoreId) (b : Fin 4) (t : Task) (rel : Bool) : ∃ q : State, q.dev.promised = s.dev.promised ∧
    LeftBank t (q.bank n b) ∧ s.switchOut n b t rel = if q.coreReserved n then q else (q.takePromised n).getD q := by
  unfold State.switchOut
  extract_lets s1 alone left
  have h1 : s1.dev.promised = s.dev.promised := endInner_promised s n t
  generalize (s1.core n).switchKind b t rel = kind
  obtain ⟨spill, release⟩ := kind
  dsimp -zeta only
  extract_lets s2 c unitState t' kept es s3 v s4
  have h2 : s2.dev.promised = s1.dev.promised := by
    unfold s2
    split
    · exact fold_dev_proj (·.promised) (fun _ _ => rfl) s1 n t.ctx
    · rfl
  have h3 : s3.dev.promised = s2.dev.promised := by
    unfold s3
    cases spill || release <;> rfl
  have ht : ∃ calls, t' = { t.leave with calls := calls } := by
    unfold t'
    split
    · exact ⟨_, rfl⟩
    · split
      · exact ⟨_, rfl⟩
      · exact ⟨t.leave.calls, rfl⟩
  refine ⟨s4, h3.trans (h2.trans h1), ?_, rfl⟩
  have hb : s4.bank n b = if spill = true then none else some t' := by
    unfold s4
    rw [bank_eq, modCore_core_self]
    simp
  rw [hb]
  split
  · exact .inl rfl
  · obtain ⟨calls, ht⟩ := ht
    exact .inr ⟨calls, congrArg some ht⟩

/-! ## The record for which a task leaves (R350) -/

theorem unqueue_bank (s : State) (n m : CoreId) (r : QRec) (b : Fin 4) : (s.unqueue n r).bank m b = s.bank m b := by
  refine bank_of_banks (modCore_proj (·.banks) s n m _ ?_) b
  exact fun _ => rfl

theorem reserve_bank (s : State) (n m : CoreId) (r : QRec) (g : Option (Fin 64)) (j : BitVec 24) (b : Fin 4) : (s.reserve n r g j).bank m b = s.bank m b := by
  unfold State.reserve
  generalize allCores = all
  cases g with
  | none => exact unqueue_bank s n m r b
  | some i => rfl

theorem openGridEntry_bank (s : State) (n m : CoreId) (r : QRec) (b : Fin 4) : (s.openGridEntry n r).bank m b = s.bank m b := by
  unfold State.openGridEntry
  extract_lets free
  clear_value free
  exact unqueue_bank (s.choose free.length).2 n m r b

theorem takeCand_nowhere {s : State} {n : CoreId} (r : QRec) (hb : (s.core n).freeBank = none) : s.takeCand n (.task r) = s := by
  rw [State.takeCand, hb]

/-- A record that is taken leaves a bank as it was, or is placed in it, when it was free. -/
theorem takeCand_bank (s : State) (n : CoreId) (r : QRec) (b : Fin 4) : (s.takeCand n r.cand).bank n b = s.bank n b ∨
    ∃ t', (s.takeCand n r.cand).bank n b = some t' ∧ t'.ctx = r.ctx ∧ t'.job = r.job := by
  unfold QRec.cand
  split
  · exact .inl (openGridEntry_bank ..)
  · split
    · cases hb : (s.core n).freeBank with
      | none =>
        rw [takeCand_nowhere r hb]
        exact .inl rfl
      | some d =>
        rw [takeCand_task r hb]
        obtain ⟨tid, ceil, img, hplaced⟩ :=
          place_spec (({ s with serial := s.serial + 1 } : State).unqueue n r) n d r { team := s.serial, paddock := [n], start := s.startNow }
        by_cases hd : b = d
        · subst hd
          exact .inr ⟨_, hplaced.bank, rfl, rfl⟩
        · exact .inl ((hplaced.bank_ne hd).trans (unqueue_bank ..))
    · exact .inl (reserve_bank ..)

theorem takePromised_bank {s q : State} {n : CoreId} (h : s.takePromised n = some q) (b : Fin 4) : q.bank n b = s.bank n b ∨ TakenFor s q n b := by
  rw [State.takePromised] at h
  obtain ⟨v, hv, rfl⟩ := Option.map_eq_some_iff.1 h
  have hmem := List.mem_filter.1 (List.mem_of_find?_eq_some hv)
  have hn := List.find?_some hv
  rw [Bool.and_eq_true, beq_iff_eq] at hn
  exact (takeCand_bank _ n v.2 b).imp id fun ht => ⟨v, hmem.1, hn.1, ht⟩

/-- What a switch leaves in the bank of its task. -/
theorem switchOut_bank (s : State) (n : CoreId) (b : Fin 4) (t : Task) (rel : Bool) :
    LeftBank t ((s.switchOut n b t rel).bank n b) ∨ TakenFor s (s.switchOut n b t rel) n b := by
  obtain ⟨q, hpromised, hleft, he⟩ := switchOut_form s n b t rel
  rw [he]
  split
  · exact .inl hleft
  · cases hq : q.takePromised n with
    | none => exact .inl hleft
    | some r =>
      obtain hb | ⟨v, hv, ht⟩ := takePromised_bank hq b
      · exact .inl (by rw [Option.getD_some, hb]; exact hleft)
      · exact .inr ⟨v, hpromised ▸ hv, ht⟩

/-! ## `ctxsw` and `ctxsw.rel` (R443) -/

/-- The task is in the handler of a pre-emption. -/
theorem preempted_iff (t : Task) : t.preempted = true ↔ t.ctl.cause.getLsbD 63 = true ∧ t.ctl.cause.toNat / 2 ^ 40 % 2 ^ 16 = 0x0801 := by
  rw [Task.preempted, Task.inHandler, causeIs]
  simp only [Bool.and_eq_true, beq_iff_eq, W64.fld, bits]
  generalize t.ctl.cause.toNat = v
  refine and_congr_right fun _ => ?_
  omega

/-- A task as it leaves the handler of a pre-emption: at its return point. -/
def leftHandler (t : Task) : Task :=
  { t with
    hold := .switched, pc := BitVec.ofNat 56 (t.ctl.tpc.fld 4 52 * 16), slot := Fin.ofNat 4 (t.ctl.tpc.fld 0 2), bundle := none,
    waiting := none, pendFreeze := none, drainedU := false, inner := t.inner.filter (·.posted), startPhase := none,
    ctl := { t.ctl with cause := t.ctl.cause &&& ~~~(1#64 <<< 63) } }

/-- A task that leaves the handler of a pre-emption stands at its return point, with H = 0. -/
theorem leave_preempted {t : Task} (hp : t.preempted = true) (hs : t.stuck = false) (calls : List Call) : let t' : Task := { t.leave with calls := calls }
    t'.hold = .switched ∧ t'.regs = t.regs ∧ t'.ctl.cause.getLsbD 63 = false ∧ t'.pc.toNat = t.ctl.tpc.toNat / 16 % 2 ^ 52 * 16 ∧
    t'.slot.val = t.ctl.tpc.toNat % 4 := by
  have h : t.leave = leftHandler t := by
    rw [Task.leave, if_neg (by rw [hs]; decide), hp]
    rfl
  rw [h]
  refine ⟨rfl, rfl, ?_, handlerPc_toNat t.ctl.tpc, ?_⟩
  · exact (returned_cause_lsb t 63).trans (by simp)
  · exact (congrArg (· % 4) (fld_zero t.ctl.tpc 2)).trans (Nat.mod_mod ..)

section
variable {s : State} {t : Task} {rel : Bool} {i : Instr} (hl : s.live = some t) (hi : i = if rel then .ctxswRel else .ctxsw)
include hl hi

theorem exec_contextSwitch : exec i s = .next (s.settle t (
    if !t.preempted then s.bounds t t.ctl.cause
    else if rel && s.unit.owner != some t.ctx then s.bounds t s.unit.ownWord
    else if rel && !t.drainedU then s.bounds t t.ctl.cause
    else if !s.saveReady s.cur (s.core s.cur).cbank t rel then Act.hold s
    else .ended (s.switchOut s.cur (s.core s.cur).cbank t rel))) := by
  subst hi
  cases rel with
  | false => exact issue_live hl _
  | true => exact issue_live hl _

theorem switch_refused (hp : t.preempted ≠ true) : exec i s = .next (s.traps t 0x09 0 t.ctl.cause) := by
  rw [exec_contextSwitch hl hi, if_pos (by simpa using hp)]
  rfl

variable (hp : t.preempted = true)
include hp

theorem switch_unowned (hr : rel = true) (ho : s.unit.owner ≠ some t.ctx) : exec i s = .next (s.traps t 0x09 0 s.unit.ownWord) := by
  rw [exec_contextSwitch hl hi, if_neg (by simp [hp]), if_pos (by simp [hr, ho])]
  rfl

theorem switch_undrained (hr : rel = true) (ho : s.unit.owner = some t.ctx) (hd : t.drainedU = false) : exec i s = .next (s.traps t 0x09 0 t.ctl.cause) := by
  rw [exec_contextSwitch hl hi, if_neg (by simp [hp]), if_neg (by simp [ho]), if_pos (by simp [hr, hd])]
  rfl

variable (hr : rel = true → s.unit.owner = some t.ctx ∧ t.drainedU = true)
include hr

theorem exec_switch_ready : exec i s = .next (s.settle t (if !s.saveReady s.cur (s.core s.cur).cbank t rel then Act.hold s
    else .ended (s.switchOut s.cur (s.core s.cur).cbank t rel))) := by
  rw [exec_contextSwitch hl hi, if_neg (by simp [hp])]
  cases rel with
  | false => rfl
  | true =>
    obtain ⟨ho, hd⟩ := hr rfl
    rw [if_neg (by simp [ho]), if_neg (by simp [hd])]

theorem switch_waits (hs : s.saveReady s.cur (s.core s.cur).cbank t rel = false) : ∃ w : Wait, w.edge = false ∧ exec i s = .next (s.registerWait t w) := by
  refine ⟨{ okind := 0, obj := 0, edge := false }, rfl, ?_⟩
  rw [exec_switch_ready hl hi hp hr, if_pos (by rw [hs]; rfl)]
  rfl

theorem switch_leaves (hs : s.saveReady s.cur (s.core s.cur).cbank t rel = true) :
    exec i s = .next { s.switchOut s.cur (s.core s.cur).cbank t rel with flow := .ended } := by
  rw [exec_switch_ready hl hi hp hr, if_neg (by rw [hs]; decide)]
  rfl

end

/-- The switch, by the checks that it makes first. -/
theorem switchForms_holds : switchForms := by
  unfold switchForms
  intro s t rel i hl hi c frozen
  have hf : t.preempted = true ↔ frozen := preempted_iff t
  refine ⟨fun h => switch_refused hl hi (mt hf.1 h), fun h => switch_unowned hl hi (hf.2 h), fun h => switch_undrained hl hi (hf.2 h),
    fun h hr => ⟨switch_waits hl hi (hf.2 h) hr, fun hs hst => ⟨_, switch_leaves hl hi (hf.2 h) hr hs, rfl, ?_⟩⟩⟩
  obtain (hnone | ⟨calls, hsome⟩) | htaken := switchOut_bank s s.cur c.cbank t rel
  · exact .inl hnone
  · exact .inr (.inr ⟨_, hsome, leave_preempted (hf.2 h) hst calls⟩)
  · exact .inr (.inl htaken)

/-- Settles O44: the forms of the supervisor and of the switch. -/
theorem contextInstructions : Obligations.ContextInstructions := ⟨contextForms_holds, switchForms_holds⟩

end Sys2Proof.Proofs
end

section
/-!
PROOFS. Task records at hand (R361): where the count of a record lies, and what the record reads once it has been counted down.
-/
namespace Sys2Proof.Proofs
open Machine Laws

/-! ## Aligned addresses -/

theorem placeOf_dram_add {pa k o : Nat} {m : CoreId} (ha : pa % 32 = 0) (hk : k < 32) (h : placeOf pa = .dram m o) :
    placeOf (pa + k) = .dram m (o + k) := by
  unfold placeOf at h
  split at h
  next hlt =>
    injection h with hm ho
    have hd : (pa + k) / 0x60000000 = pa / 0x60000000 := by omega
    rw [placeOf, if_pos (by omega), hd, hm]
    exact congrArg (Place.dram m) (by omega)
  · split at h <;> cases h

theorem placeOf_window_add {pa k o : Nat} {m : CoreId} (ha : pa % 32 = 0) (hk : k < 32) (h : placeOf pa = .window m o) :
    placeOf (pa + k) = .window m (o + k) ∧ o % 32 = 0 := by
  unfold placeOf at h
  split at h
  · cases h
  next hge =>
    split at h
    next hw =>
      injection h with hm ho
      have hsub : pa + k - 0x00F000000000 = pa - 0x00F000000000 + k := by omega
      have hx : (pa - 0x00F000000000) % 32 = 0 := by omega
      rw [placeOf, if_neg (by omega), if_pos (by omega), hsub]
      generalize pa - 0x00F000000000 = x at hm ho hx
      have hd : (x + k) / 0x04000000 = x / 0x04000000 := by omega
      have hmod : (x + k) % 0x04000000 = o + k := by omega
      rw [hd, hm, hmod]
      exact ⟨rfl, by omega⟩
    · cases h

/-- Pages are aligned, so a translation keeps the place in a granule (R74). -/
theorem pageAddr_aligned {s : State} {e : TlbEntry} {va pa : Nat} {w : Bool} (h : s.pageAddr e va w = .ok pa) (ha : va % 32 = 0) :
    pa % 32 = 0 := by
  have hpa : pa = e.frame * 4096 + va % 2 ^ pageShift e.sz := by
    unfold State.pageAddr at h
    dsimp only at h
    split at h
    · cases h
    split at h
    · cases h
    split at h
    · cases h
    split at h
    · cases h
    exact (Except.ok.inj h).symm
  have hmod : va % 2 ^ pageShift e.sz % 32 = va % 32 :=
    Nat.mod_mod_of_dvd _ (Nat.pow_dvd_pow 2 (show 5 ≤ pageShift e.sz by unfold pageShift; split <;> decide))
  omega

theorem translate_aligned {s : State} {n : CoreId} {asn : BitVec 8} {va pa : Nat} {w : Bool} (h : s.translate n asn va w = .pa pa)
    (ha : va % 32 = 0) : pa % 32 = 0 := by
  have hva : va % 2 ^ 56 % 32 = 0 := by omega
  have hok {e : TlbEntry} (he : (match s.pageAddr e (va % 2 ^ 56) w with | .ok a => Xlate.pa a | .error c => .fail c) = .pa pa) : pa % 32 = 0 := by
    split at he
    next a hp => cases he; exact pageAddr_aligned hp hva
    · cases he
  unfold State.translate at h
  dsimp only at h
  split at h
  · cases h; exact hva
  · split at h
    · exact hok h
    · split at h
      · exact hok h
      · cases h

/-! ## The record at hand -/

section
variable {s r : State} {t : Task} {write : Bool} {pa : Nat} {v : W64}

theorem inHand_aligned (h : InHand s t write 32 v pa r) : pa % 32 = 0 := by
  unfold InHand at h
  split at h
  · obtain ⟨ha, -, rfl⟩ := h
    rw [windowBase]
    omega
  · obtain ⟨ha, -, -, ht, -⟩ := h
    exact translate_aligned ht ha

/-- COUNT lies where the record does. -/
theorem inHand_count (h : InHand s t write 32 v pa r) : Within s t 4 (pa + 16) := by
  have ha := inHand_aligned h
  obtain ⟨o, hp⟩ | ⟨o, hp, ho, hps⟩ := inHand_within h
  · exact .inl ⟨_, placeOf_dram_add ha (by omega) hp⟩
  · obtain ⟨hp', ho'⟩ := placeOf_window_add ha (k := 16) (by omega) hp
    exact .inr ⟨_, hp', by omega, by omega⟩

end

/-! ## The record counted down -/

/-- A record of 32 bytes after its COUNT is cleared. -/
theorem read_clearedCount (m : Mem) (a : Nat) :
    (m.put (((List.range 4).zip (leBytes 4 0)).map fun p => (a + 16 + p.1, p.2))).read a 32 =
      (m.read a 32).take 16 ++ zeroBytes 4 ++ (m.read a 32).drop 20 := by
  apply List.ext_getElem
  · simp [zeroBytes]
  · intro i hi _
    rw [read_length] at hi
    simp only [Mem.read, List.getElem_map, List.getElem_range, get_put_word, get_write, leBytes_length, List.getElem_append,
      List.length_append, List.length_take, List.length_map, List.length_range, zeroBytes, List.length_replicate, List.getElem_take,
      List.getElem_drop, List.getElem_replicate]
    by_cases h1 : i < 16
    · rw [if_neg (by omega), dif_pos (by omega), dif_pos (by omega)]
    · by_cases h2 : i < 20
      · rw [if_pos (by omega), dif_pos (by omega), dif_neg (by omega)]
        have hz : leBytes 4 0 = List.replicate 4 0 := by decide
        rw [hz, List.getD_eq_getElem?_getD, List.getElem?_replicate, if_pos (by omega), Option.getD_some]
      · rw [if_neg (by omega), dif_neg (by omega)]
        congr 1
        omega

section
variable {s r q : State} {t : Task} {write : Bool} {pa : Nat} {v : W64}

/-- The copy that the last join pushes is the record as it stood, with COUNT 0 (R361). -/
theorem physRead_clearedCount (h : InHand s t write 32 v pa r) (hq : ∀ m, partitionOf (q.core m) = partitionOf (s.core m)) :
    (q.putWord64 t.ctx (pa + 16) 4 0).physRead t.ctx pa 32 =
      (q.physRead t.ctx pa 32).take 16 ++ zeroBytes 4 ++ (q.physRead t.ctx pa 32).drop 20 := by
  have ha := inHand_aligned h
  obtain ⟨o, hp⟩ | ⟨o, hp, ho, hps⟩ := inHand_within h
  · rw [putWord64_dram (placeOf_dram_add ha (by omega) hp), State.physRead, State.physRead, hp]
    exact read_clearedCount ..
  · obtain ⟨hp', ho'⟩ := placeOf_window_add ha (k := 16) (by omega) hp
    obtain ⟨k, hk⟩ := cctx_of_psize (by omega) hps
    obtain ⟨k', hk', -⟩ := cctx_of_partition hk (hq s.cur)
    have hread (q' : State) (hc : (q'.core s.cur).cctx t.ctx = some k') :
        q'.physRead t.ctx pa 32 = (q'.core s.cur).loft.read (k'.base + o) 32 := by
      rw [State.physRead, hp]
      dsimp only
      rw [State.windowBytes, partOf, if_pos ho]
      dsimp only
      rw [hc, Option.getD_some]
    have hlt : o + 16 < 0x300000 := by omega
    rw [putWord64_loft hp' hlt hk' (by omega), hread _ (by rw [modCore_core_self]; exact hk'), hread q hk', modCore_core_self,
      ← Nat.add_assoc]
    exact read_clearedCount ..

end

end Sys2Proof.Proofs
end

section
/-!
PROOFS. Spawns, launches, joins and the end of a task (R360 to R365). Settles O41.
-/
namespace Sys2Proof.Proofs
open Machine Laws

/-! ## Queues -/

theorem push_dev_proj {α : Type} (g : Device → α) (h : ∀ d m, g { d with dram := m } = g d) (s : State) (n : CoreId) (r : QRec) :
    g (s.push n r).dev = g s.dev := by
  show g (s.writeBackRec n r).dev = g s.dev
  unfold State.writeBackRec
  dsimp only
  split
  · rfl
  · exact h ..

theorem push_core (s : State) (n m : CoreId) (r : QRec) : (s.push n r).core m = if m = n then { s.core n with
    lanes := (s.core n).lanes.set r.pri ({ r with entered := s.dev.now } :: (s.core n).lanes[r.pri]) } else s.core m := by
  rw [State.push]
  split
  next h => rw [h, modCore_core_self, writeBackRec_core]
  next h => rw [modCore_core_ne _ _ h, writeBackRec_core]

/-- A record that enters a queue is the head of its lane (R343). -/
theorem push_lanes (s : State) (n m : CoreId) (r : QRec) (l : Fin 8) : ((s.push n r).core m).lanes[l] =
    if m = n ∧ l = r.pri then { r with entered := s.dev.now } :: (s.core m).lanes[l] else (s.core m).lanes[l] := by
  rw [push_core]
  by_cases hm : m = n
  · subst hm
    by_cases hl : l = r.pri
    · subst hl; simp
    · have hv : r.pri.val ≠ l.val := fun e => hl (Fin.ext e.symm)
      simp [Vector.getElem_set_ne, hl, hv]
  · simp [hm]

theorem push_core_proj {α : Type} (g : Core → α) (h : ∀ c l, g { c with lanes := l } = g c) (s : State) (n m : CoreId) (r : QRec) :
    g ((s.push n r).core m) = g (s.core m) := by
  rw [push_core]
  split
  next hm => rw [hm]; exact h ..
  · rfl

theorem push_cur (s : State) (n : CoreId) (r : QRec) : (s.push n r).cur = s.cur := by
  show (s.writeBackRec n r).cur = s.cur
  unfold State.writeBackRec
  dsimp only
  split <;> rfl

theorem push_live (s : State) (n : CoreId) (r : QRec) : (s.push n r).live = s.live := by
  unfold State.live State.bank
  rw [push_cur]
  exact push_core_proj (fun c => c.banks[c.cbank]) (fun _ _ => rfl) s n s.cur r

theorem goesOn_core_proj {α : Type} (g : Core → α) (h : ∀ (c : Core) b q, g { c with banks := b, waitq := q } = g c) (s : State) (m : CoreId) :
    g (s.goesOn.core m) = g (s.core m) := endWait_proj g s m h

theorem goesOn_dev_proj {α : Type} (g : Device → α) (h : ∀ (d : Device) w m, g { d with wf := w, monitors := m } = g d) (s : State) :
    g s.goesOn.dev = g s.dev := endWait_dev_proj g s h

/-! ## Records -/

section
variable {s s' : State} (hd : s'.dev = s.dev)
include hd

theorem runnable_congr (x : BitVec 16) (r : QRec) : s'.runnable x r = s.runnable x r := by
  unfold State.runnable
  rw [ctxField_congr hd]

theorem ceilOf_congr (x : BitVec 16) : s'.ceilOf x = s.ceilOf x := by
  unfold State.ceilOf
  rw [ctxField_congr hd]

end

/-- The fields of a word that is put together as FLAGS is. -/
theorem flags_fields {x j m p f : Nat} (hx : x < 2 ^ 16) (hj : j < 2 ^ 8) (hm : m < 2) (hp : p < 8) (hf : f < 2 ^ 36) :
    (w64 (x * 2 ^ 48 + j * 2 ^ 40 + m * 2 ^ 39 + p * 2 ^ 36 + f)).fld 48 16 = x ∧
    (w64 (x * 2 ^ 48 + j * 2 ^ 40 + m * 2 ^ 39 + p * 2 ^ 36 + f)).fld 40 8 = j := by
  unfold W64.fld bits w64
  rw [BitVec.toNat_ofNat, Nat.mod_eq_of_lt (by omega)]
  constructor <;> omega

theorem fld_lt (w : W64) (lo n : Nat) : w.fld lo n < 2 ^ n := Nat.mod_lt _ (Nat.two_pow_pos n)

/-- FLAGS of a record that enters a queue (R360). -/
theorem enterAs_fields (r : QRec) (x : BitVec 16) (job : Nat) (ceil : Fin 8) :
    (r.enterAs x job ceil).ctx = x ∧ (r.enterAs x job ceil).job = job % 256 := by
  have hp : (if r.pri.val < ceil.val then r.pri.val else ceil.val) < 8 := by split <;> omega
  obtain ⟨hx, hj⟩ := flags_fields x.isLt (Nat.mod_lt job (by decide : 0 < 2 ^ 8)) (fld_lt r.flags 39 1) hp (fld_lt r.flags 0 36)
  unfold QRec.enterAs QRec.ctx QRec.job
  dsimp only
  exact ⟨(congrArg (BitVec.ofNat 16) hx).trans (BitVec.ofNat_toNat ..), hj⟩

/-! ## The state that an access reaches -/

/-- A touch of granules changes of a core its loft, its tags and its contexts. -/
theorem touch_proj {α : Type} (g : Core → α) (h : ∀ c l t k, g { c with loft := l, tags := t, ctxs := k } = g c) (c : Core) (x : BitVec 16)
    (spans : List (Nat × Nat)) (write : Bool) : g (c.touch x spans write) = g c :=
  touch_induction (P := fun d => g d = g c) (fun d _ _ _ he => (h d _ _ _).trans he) (fun d _ _ _ he => (h d _ _ _).trans he) rfl ..

theorem reached_core_proj {α : Type} (g : Core → α) (h : ∀ c l t k, g { c with loft := l, tags := t, ctxs := k } = g c) (s : State) (t : Task)
    (spans : List (Nat × Nat)) (write : Bool) (m : CoreId) : g ((s.reached t spans write).core m) = g (s.core m) :=
  modCore_proj g s s.cur m _ fun c => touch_proj g h c t.ctx spans write

/-! ## `spawn` and `spawnt` -/

section
variable {s : State} {t : Task} {a b : SReg} {v : W64} {n : CoreId}

/-- The record that a spawn reads at offset `o`. -/
def spawnRec (s : State) (t : Task) (o : Nat) : QRec :=
  recOf ((s.reached t [(o, 32)] false).loftRead t o 32) (BitVec.ofNat 64 (windowBase s.cur + o))

theorem farCore_eq (v : W64) : (Fin.ofNat 128 (v.fld 0 7) : CoreId) = Fin.ofNat 128 (v.toNat % 128) :=
  congrArg (Fin.ofNat 128) (fld_zero v 7)

theorem spawnTo_bounds (h : v.toNat % 32 ≠ 0 ∨ (s.cctx t).psize < v.toNat + 32) : s.spawnTo t v n = s.bounds t v := by
  rw [State.spawnTo, loftAddr_none h]

theorem spawnTo_unavailable (ha : v.toNat % 32 = 0) (hp : v.toNat + 32 ≤ (s.cctx t).psize) (hav : (s.core n).avail = false) :
    s.spawnTo t v n = s.bounds t (w64 n.val) := by
  rw [State.spawnTo, loftAddr_some ha hp]
  dsimp only
  rw [hav]
  rfl

/-- A spawn whose record is at hand (R360). -/
theorem spawnTo_reached (ha : v.toNat % 32 = 0) (hp : v.toNat + 32 ≤ (s.cctx t).psize) (hav : (s.core n).avail = true)
    (hf : s.holdFirst t (s.cctx t) false false [(v.toNat, 32)] (granules [(v.toNat, 32)]) = none) :
    s.spawnTo t v n = (if !s.runnable t.ctx (spawnRec s t v.toNat) then s.bounds t v
      else if (s.core n).queueFull then .wait (s.reached t [(v.toNat, 32)] false) (queueWait n)
      else .ok ((s.reached t [(v.toNat, 32)] false).push n ((spawnRec s t v.toNat).enterAs t.ctx t.job (s.ceilOf t.ctx)))) := by
  have hq : ((s.reached t [(v.toNat, 32)] false).core n).queueFull = (s.core n).queueFull :=
    reached_core_proj (·.queueFull) (fun _ _ _ _ => rfl) s t _ _ n
  rw [State.spawnTo, loftAddr_some ha hp]
  dsimp only
  rw [hav, if_neg (by decide), access_performs hf, runnable_congr (s := s) rfl, ceilOf_congr (s := s) rfl, hq]
  rfl

theorem exec_spawn (hl : s.live = some t) : exec (.spawn a) s = .next (s.settle t (s.spawnTo t (t.getS a) s.cur)) := issue_live hl _

theorem exec_spawnt (hl : s.live = some t) : exec (.spawnt a b) s = .next (s.settle t (
    if (Fin.ofNat 128 ((t.getS b).toNat % 128) : CoreId) ≠ s.cur ∧ !s.exchange then s.phaseIllegal t
    else s.spawnTo t (t.getS a) (Fin.ofNat 128 ((t.getS b).toNat % 128)))) := by
  rw [← farCore_eq]
  exact issue_live hl _

/-- What a spawn leads to once its phase admits it. -/
theorem spawn_leads {i : Instr} (hx : exec i s = .next (s.settle t (s.spawnTo t v n))) :
    let ready := v.toNat % 32 = 0 ∧ v.toNat + 32 ≤ (s.cctx t).psize
    (¬ ready → exec i s = .next (s.traps t 0x09 0 v)) ∧
    (ready → (s.core n).avail = false → exec i s = .next (s.traps t 0x09 0 (BitVec.ofNat 64 n.val))) ∧
    (ready → (s.core n).avail = true → s.holdFirst t (s.cctx t) false false [(v.toNat, 32)] (granules [(v.toNat, 32)]) = none →
      (s.runnable t.ctx (spawnRec s t v.toNat) = false → exec i s = .next (s.traps t 0x09 0 v)) ∧
      (s.runnable t.ctx (spawnRec s t v.toNat) = true → (s.core n).queueFull = true →
        ∃ w : Wait, w.okind = 0x0C ∧ exec i s = .next ((s.reached t [(v.toNat, 32)] false).registerWait t w)) ∧
      (s.runnable t.ctx (spawnRec s t v.toNat) = true → (s.core n).queueFull = false →
        exec i s = .next ((s.reached t [(v.toNat, 32)] false).push n
          ((spawnRec s t v.toNat).enterAs t.ctx t.job (s.ceilOf t.ctx))).goesOn)) := by
  refine ⟨fun h => ?_, fun ⟨ha, hp⟩ hav => ?_, fun ⟨ha, hp⟩ hav hf => ⟨fun hr => ?_, fun hr hq => ⟨queueWait n, rfl, ?_⟩, fun hr hq => ?_⟩⟩
  · rw [hx, spawnTo_bounds (by omega)]; rfl
  · rw [hx, spawnTo_unavailable ha hp hav]; rfl
  · rw [hx, spawnTo_reached ha hp hav hf, hr]; rfl
  · rw [hx, spawnTo_reached ha hp hav hf, hr, hq]; rfl
  · rw [hx, spawnTo_reached ha hp hav hf, hr, hq]; rfl

/-- A record that is spawned is at the head of its lane (R343, R360). -/
theorem spawned_lanes (r : QRec) (spans : List (Nat × Nat)) (m : CoreId) (l : Fin 8) : (((s.reached t spans false).push n r).goesOn.core m).lanes[l] =
    if m = n ∧ l = r.pri then { r with entered := s.dev.now } :: (s.core m).lanes[l] else (s.core m).lanes[l] := by
  have hl : ((s.reached t spans false).core m).lanes = (s.core m).lanes := reached_core_proj (·.lanes) (fun _ _ _ _ => rfl) s t _ _ m
  rw [goesOn_core_proj (·.lanes) (fun _ _ _ => rfl), push_lanes, hl]
  rfl

/-! ## `launch` -/

/-- A touch of granules changes of a context which granules are absent and which dirty. -/
theorem touch_cctx_proj {α : Type} (g : CoreCtx → α) (h : ∀ k a d, g { k with absent := a, dirty := d } = g k) (c : Core) (x y : BitVec 16)
    (spans : List (Nat × Nat)) (write : Bool) : ((c.touch x spans write).cctx y).map g = (c.cctx y).map g := by
  have hmod (c : Core) (x : BitVec 16) {f : CoreCtx → CoreCtx} (hf : MarksGranules f) : ((c.modCtx x f).cctx y).map g = (c.cctx y).map g := by
    have hkeep (k : CoreCtx) : (if k.ctx == x then f k else k).ctx = k.ctx ∧ g (if k.ctx == x then f k else k) = g k := by
      obtain ⟨a, d, e⟩ := hf k
      split
      · rw [e]; exact ⟨rfl, h ..⟩
      · exact ⟨rfl, rfl⟩
    have hp : ((fun k : CoreCtx => k.ctx == y) ∘ fun k => if k.ctx == x then f k else k) = fun k => k.ctx == y :=
      funext fun k => congrArg (· == y) (hkeep k).1
    unfold Core.cctx Core.modCtx
    rw [List.find?_map, hp, Option.map_map]
    exact congrArg (Option.map · _) (funext fun k => (hkeep k).2)
  exact touch_induction (P := fun d => (d.cctx y).map g = (c.cctx y).map g)
    (fun d k _ i he => (hmod { d with loft := _, tags := _ } k.ctx (marksGranules_arrive i)).trans he)
    (fun d x _ hf he => (hmod d x hf).trans he) rfl ..

theorem reached_sup (spans : List (Nat × Nat)) (write : Bool) (u : Task) : ((s.reached t spans write).cctx u).sup = (s.cctx u).sup := by
  have h := touch_cctx_proj (·.sup) (fun _ _ _ => rfl) (s.core s.cur) t.ctx u.ctx spans write
  unfold State.cctx
  rw [State.reached, modCore_cur, modCore_core_self]
  cases hk : (s.core s.cur).cctx u.ctx <;> cases hk' : ((s.core s.cur).touch t.ctx spans write).cctx u.ctx <;> simp_all

/-- The bytes of a packet at offset `o`. -/
def launchBytes (s : State) (t : Task) (o : Nat) : List Byte := (s.reached t [(o, 64)] false).loftRead t o 64

/-- Why a launch is refused, if it is (R365). -/
def launchRefusal (s : State) (t : Task) (n : CoreId) (o : Nat) : Option (BitVec 8) :=
  if (packetRec (launchBytes s t o)).ctx ≠ t.ctx ∧ (s.cctx t).sup = false then some 0x01
  else (s.reached t [(o, 64)] false).launchFails n (launchBytes s t o)

/-- With an entry of the job table free, a free one is found (R357). -/
theorem freeJob_exists {l : List (Nat × Job)} (h : l.length < 256) : (List.range 256).filter (fun j => (l.lookup j).isNone) ≠ [] := by
  intro hn
  have hsub : List.range 256 ⊆ l.map (·.1) := by
    intro j hj
    by_contra hno
    have hnone : l.lookup j = none := by
      rw [List.lookup_eq_none_iff]
      exact fun p hp => bne_iff_ne.2 fun e => hno (List.mem_map.2 ⟨p, hp, e.symm⟩)
    exact List.filter_eq_nil_iff.1 hn j hj (by rw [hnone]; rfl)
  have hle := (List.nodup_range (n := 256)).subperm hsub |>.length_le
  rw [List.length_range, List.length_map] at hle
  omega

/-- A launch that is accepted adds its job under a free number, and pushes its record (R355, R365). -/
theorem launchAt_spec {q : State} (bs : List Byte) (pmax : Nat) (h : q.dev.jobs.length < 256) : ∃ (k j : Nat) (b : Job) (r : QRec),
    q.launchAt n bs pmax = (j, ((q.choose k).2.modDev fun d => { d with jobs := d.jobs ++ [(j, b)] }).push n r) ∧ q.dev.jobs.lookup j = none := by
  unfold State.launchAt
  extract_lets r ctl free
  have hne : free ≠ [] := freeJob_exists h
  have hpos := List.length_pos_iff.2 hne
  cases hc : q.choose free.length with
  | mk k p =>
    have hk : k < free.length := by
      have e : k = (q.choose free.length).1 := by rw [hc]
      have hlt : (q.choose free.length).1 < Max.max free.length 1 := Nat.mod_lt _ (by omega)
      omega
    have hp : p = (q.choose free.length).2 := by rw [hc]
    have hmem : free.getD k 0 ∈ free := by
      rw [List.getD_eq_getElem _ _ hk]
      exact List.getElem_mem hk
    refine ⟨free.length, free.getD k 0, _, _, by rw [← hp], ?_⟩
    exact Option.isNone_iff_eq_none.1 (List.mem_filter.1 hmem).2

/-- A launch is refused for its packet, or accepted. -/
theorem launchFails_jobs {q : State} {bs : List Byte} (h : q.launchFails n bs = none) : q.dev.jobs.length < 256 := by
  unfold State.launchFails at h
  dsimp only at h
  split at h
  · cases h
  split at h
  · cases h
  split at h
  · cases h
  split at h
  · cases h
  next hj => omega

theorem exchanges_or_here (hx : n = s.cur ∨ s.dev.phase.getLsbD 0 = true) : ¬ (n ≠ s.cur ∧ (!s.exchange) = true) := by
  have he : s.exchange = s.dev.phase.getLsbD 0 := rfl
  rw [he]
  rintro ⟨h, h'⟩
  obtain hx | hx := hx
  · exact h hx
  · rw [hx] at h'; cases h'

theorem launchRefusal_jobs {o : Nat} (h : launchRefusal s t n o = none) : (s.reached t [(o, 64)] false).dev.jobs.length < 256 := by
  unfold launchRefusal at h
  split at h
  · cases h
  · exact launchFails_jobs h

theorem exec_launch (hl : s.live = some t) (d : SReg) (hn : n = Fin.ofNat 128 ((t.getS b).toNat % 128)) : exec (.launch d a b) s = .next (s.settle t (
    if n ≠ s.cur ∧ !s.exchange then s.phaseIllegal t
    else
      match loftAddr (s.cctx t).psize (t.getS a) 64 64 with
      | none => s.bounds t (t.getS a)
      | some o =>
        s.access t [(o, 64)] false false fun s =>
          let bs := s.loftRead t o 64
          let refused (c : BitVec 8) : Act :=
            .ok ((s.refuseLaunch c).modLive fun t => t.setS d (BitVec.allOnes 64))
          if (packetRec bs).ctx ≠ t.ctx ∧ !(s.cctx t).sup then refused 0x01
          else
            match s.launchFails n bs with
            | some c => refused c
            | none =>
              let (j, s) := s.launchAt n bs 7
              .ok (s.modLive fun t => t.setS d (w64 j)))) := by
  subst hn
  rw [← farCore_eq]
  exact issue_live hl _

section
variable (hl : s.live = some t) (d : SReg) (hn : n = Fin.ofNat 128 ((t.getS b).toNat % 128)) (hx : n = s.cur ∨ s.dev.phase.getLsbD 0 = true)
include hl hn hx

theorem launch_bounds (h : ¬ ((t.getS a).toNat % 64 = 0 ∧ (t.getS a).toNat + 64 ≤ (s.cctx t).psize)) :
    exec (.launch d a b) s = .next (s.traps t 0x09 0 (t.getS a)) := by
  rw [exec_launch hl d hn, if_neg (exchanges_or_here hx), loftAddr_none (by omega)]
  rfl

variable (ha : (t.getS a).toNat % 64 = 0) (hp : (t.getS a).toNat + 64 ≤ (s.cctx t).psize)
  (hf : s.holdFirst t (s.cctx t) false false [((t.getS a).toNat, 64)] (granules [((t.getS a).toNat, 64)]) = none)
include ha hp hf

theorem launch_refused {c : BitVec 8} (hr : launchRefusal s t n (t.getS a).toNat = some c) : exec (.launch d a b) s =
    .next (((s.reached t [((t.getS a).toNat, 64)] false).refuseLaunch c).modLive fun t => t.setS d (BitVec.allOnes 64)).goesOn := by
  rw [exec_launch hl d hn, if_neg (exchanges_or_here hx), loftAddr_some ha hp]
  dsimp only
  rw [access_performs hf, reached_sup]
  unfold launchRefusal launchBytes at hr
  by_cases hc : (packetRec ((s.reached t [((t.getS a).toNat, 64)] false).loftRead t (t.getS a).toNat 64)).ctx ≠ t.ctx ∧ (s.cctx t).sup = false
  · rw [if_pos hc] at hr
    cases hr
    rw [if_pos ⟨hc.1, by rw [hc.2]; rfl⟩]
    rfl
  · rw [if_neg hc] at hr
    rw [if_neg (by simpa using hc), hr]
    rfl

theorem launch_accepted (hr : launchRefusal s t n (t.getS a).toNat = none) : exec (.launch d a b) s =
    .next (((s.reached t [((t.getS a).toNat, 64)] false).launchAt n (launchBytes s t (t.getS a).toNat) 7).2.modLive fun u =>
      u.setS d (w64 ((s.reached t [((t.getS a).toNat, 64)] false).launchAt n (launchBytes s t (t.getS a).toNat) 7).1)).goesOn := by
  rw [exec_launch hl d hn, if_neg (exchanges_or_here hx), loftAddr_some ha hp]
  dsimp only
  rw [access_performs hf, reached_sup]
  unfold launchRefusal launchBytes at hr
  split at hr
  · cases hr
  next hc =>
    rw [if_neg (by simpa using hc), hr]
    rfl

end

end

/-- Settles the spawns and launches of O41. -/
theorem spawnForms_holds : spawnForms := by
  intro s t d a b hl v o far p ready free r32 r64
  refine ⟨fun i n hi => ?_, fun hn hx => ?_, fun hn => ⟨fun hr => ?_, fun ⟨ha, hp⟩ hf => ?_⟩⟩
  · have hexec (hx : n = s.cur ∨ s.dev.phase.getLsbD 0 = true) : exec i s = .next (s.settle t (s.spawnTo t (t.getS a) n)) := by
      obtain ⟨rfl, rfl⟩ | ⟨rfl, rfl⟩ := hi
      · exact exec_spawn hl
      · rw [exec_spawnt hl, if_neg (exchanges_or_here hx)]
    refine ⟨fun hn hx => ?_, fun hx => ?_⟩
    · obtain ⟨rfl, rfl⟩ | ⟨rfl, rfl⟩ := hi
      · exact absurd rfl hn
      · have he : s.exchange = false := hx
        rw [exec_spawnt hl, if_pos ⟨hn, by rw [he]; rfl⟩]
        rfl
    · obtain ⟨hbounds, havail, hreach⟩ := spawn_leads (hexec hx)
      refine ⟨hbounds, havail, fun hr ha hf => ?_⟩
      obtain ⟨hbad, hfull, hgo⟩ := hreach hr ha hf
      refine ⟨hbad, hfull, fun hrun hq => ⟨_, hgo hrun hq, trivial, ?_⟩⟩
      obtain ⟨hctx, hjob⟩ := enterAs_fields (spawnRec s t o) t.ctx t.job (s.ceilOf t.ctx)
      refine ⟨hctx, hjob, fun l => ?_⟩
      rw [spawned_lanes]
      simp only [true_and]
      rfl
  · have he : s.exchange = false := hx
    rw [exec_launch hl d rfl, if_pos ⟨hn, by rw [he]; rfl⟩]
    rfl
  · exact launch_bounds hl d rfl hn hr
  · intro bs fails
    refine ⟨fun c hc => ⟨_, launch_refused hl d rfl hn ha hp hf hc, ?_⟩, fun hc => ⟨_, launch_accepted hl d rfl hn ha hp hf hc, ?_⟩⟩
    · have hrl : (r64.refuseLaunch c).live = some t := (reached_live ..).trans hl
      refine ⟨_, (congrArg State.live (goesOn_modLive hrl _)).trans (thenTask_live ..), trivial, rfl, ?_, ?_⟩
      · exact goesOn_dev_proj (·.lrejCause) (fun _ _ _ => rfl) _
      · exact goesOn_dev_proj (·.jobs) (fun _ _ _ => rfl) _
    · obtain ⟨k, j, job, r, he, hfree⟩ := launchAt_spec (n := far) bs 7 (launchRefusal_jobs hc)
      have hql : (r64.launchAt far bs 7).2.live = some t := by
        rw [he]
        exact (push_live ..).trans ((reached_live ..).trans hl)
      have hj : (r64.launchAt far bs 7).1 = j := by rw [he]
      refine ⟨_, j, job, (congrArg State.live (goesOn_modLive hql _)).trans (thenTask_live ..), trivial, ?_, ?_, hfree⟩
      · rw [← hj]; rfl
      · refine (goesOn_dev_proj (·.jobs) (fun _ _ _ => rfl) _).trans ?_
        exact (congrArg (fun p => p.2.dev.jobs) he).trans (push_dev_proj (·.jobs) (fun _ _ => rfl) _ far r)

/-! ## What refuses a join before any wait (R419) -/

section
variable {s r : State} {t : Task} {write : Bool} {n pa : Nat} {v : W64}

theorem syncRefuses_inHand (h : InHand s t write n v pa r) : s.syncRefuses t v n write = none := by
  unfold InHand at h
  unfold State.syncRefuses
  split at h
  next hv =>
    obtain ⟨ha, ⟨hp, -⟩, -⟩ := h
    rw [if_pos hv, loftAddr_some ha hp]
  next hv =>
    obtain ⟨ha, -, -, ht, hplace⟩ := h
    have hloc : syncLocal s.cur pa = true := by
      obtain ⟨o, hp, -⟩ | ⟨o, hp, ho, -⟩ := hplace <;> simp [syncLocal, *]
    rw [if_neg hv, if_neg (by simpa using ha), ht]
    dsimp only
    rw [hloc]
    rfl

theorem syncRefuses_bounds (h : (v.toNat < 0x300000 ∧ (v.toNat % n ≠ 0 ∨ (s.cctx t).psize < v.toNat + n)) ∨
    (0x300000 ≤ v.toNat ∧ v.toNat % 2 ^ 56 % n ≠ 0)) : s.syncRefuses t v n write = some (s.bounds t v) := by
  unfold State.syncRefuses
  obtain ⟨hv, hb⟩ | ⟨hv, hb⟩ := h
  · rw [if_pos hv, loftAddr_none hb]
  · rw [if_neg (by omega), if_pos hb]

theorem syncRefuses_phaseIllegal (hv : 0x300000 ≤ v.toNat) (ha : v.toNat % 2 ^ 56 % n = 0)
    (ht : s.translate s.cur (s.cctx t).asn (v.toNat % 2 ^ 56) write = .pa pa) (hh : homeOf pa ≠ some s.cur)
    (hx : s.dev.phase.getLsbD 0 = false) (hr : t.requests = []) : s.syncRefuses t v n write = some (s.phaseIllegal t) := by
  have hloc : syncLocal s.cur pa = false := by
    unfold homeOf at hh
    unfold syncLocal
    split <;> simp_all
  have hans : s.answered t = false := by rw [State.answered, hr]; rfl
  have hex : s.exchange = false := hx
  unfold State.syncRefuses
  rw [if_neg (by omega), if_neg (by simpa using ha), ht]
  dsimp only
  rw [hloc, hans, hex]
  rfl

end

/-! ## The step of a join (R361) -/

/-- The count of the record at `pa`. -/
def countAt (r : State) (t : Task) (pa : Nat) : Nat := wordAt r t (pa + 16) 4

/-- The state after the record at `pa` is counted down. -/
def counted (r : State) (t : Task) (pa : Nat) : State :=
  if countAt r t pa = 0 then r else r.putWord64 t.ctx (pa + 16) 4 (countAt r t pa - 1)

/-- The state after a join on the record at `pa`, of which the last pushes a copy. -/
def afterJoin (r : State) (t : Task) (pa : Nat) (v : W64) : State :=
  if countAt r t pa = 1 then (counted r t pa).pushJoined t v ((counted r t pa).physRead t.ctx pa 32) else counted r t pa

section
variable {s r : State} {t : Task} {pa : Nat} {v : W64}

/-- A join delivers the old count. -/
theorem perform_join (arg cmp : W64) : ∃ bs, r.perform t .join pa 32 arg cmp = (counted r t pa, .done (w64 (countAt r t pa)) bs) ∧
    (countAt r t pa = 1 → bs = (counted r t pa).physRead t.ctx pa 32) := by
  unfold State.perform State.joinStep counted
  dsimp only
  have hw : r.syncWord t.ctx (pa + 16) 4 = countAt r t pa := rfl
  rw [hw]
  by_cases h0 : countAt r t pa = 0
  · rw [if_pos h0, if_pos h0]
    exact ⟨[], by rw [h0]; rfl, fun h => absurd h (by omega)⟩
  · rw [if_neg h0, if_neg h0]
    exact ⟨_, rfl, fun _ => rfl⟩

/-- A join on a record at hand, once the queue has an entry to reserve. -/
theorem joinAt_inHand (h : InHand s t true 32 v pa r) (hq : (s.core s.cur).queueFull (some t.tid) = false) (f : State → W64 → Act) :
    s.joinAt t v f = f (afterJoin r t pa v) (w64 (countAt r t pa)) := by
  obtain ⟨bs, hp, hbs⟩ := perform_join (r := r) (t := t) (pa := pa) 0 0
  have hlt : countAt r t pa < 256 ^ 4 := wordAt_within_lt (inHand_count h)
  rw [State.joinAt, syncRefuses_inHand h]
  dsimp only
  rw [if_neg (by rw [hq]; decide), sync_inHand (op := .join) h, syncHere_done rfl hp]
  unfold afterJoin
  by_cases h1 : countAt r t pa = 1
  · rw [if_pos h1, if_pos (by rw [h1]; rfl), ← hbs h1]
  · have hne : ¬ w64 (countAt r t pa) = 1 := fun e => h1 (by
      have := congrArg BitVec.toNat e
      rw [w64, BitVec.toNat_ofNat, Nat.mod_eq_of_lt (by omega)] at this
      exact this)
    rw [if_neg h1, if_neg hne]

/-- A join with no entry to reserve waits. -/
theorem joinAt_full (h : InHand s t true 32 v pa r) (hq : (s.core s.cur).queueFull (some t.tid) = true) (f : State → W64 → Act) :
    s.joinAt t v f = .wait s (queueWait s.cur) := by
  rw [State.joinAt, syncRefuses_inHand h]
  exact if_pos hq

theorem joinAt_refused {act : Act} (h : s.syncRefuses t v 32 true = some act) (f : State → W64 → Act) : s.joinAt t v f = act := by
  rw [State.joinAt, h]

/-! ### What a join leaves -/

theorem inHand_core_proj {α : Type} (g : Core → α) (hg : ∀ c l u k, g { c with loft := l, tags := u, ctxs := k } = g c)
    (h : InHand s t true 32 v pa r) (m : CoreId) : g (r.core m) = g (s.core m) := by
  obtain ⟨o, -, rfl⟩ | ⟨o, -, -, -, rfl⟩ := inHand_cases h
  · rfl
  · exact reached_core_proj g hg s t _ _ m

theorem counted_forms (h : InHand s t true 32 v pa r) : counted r t pa = r ∨ (∃ m, counted r t pa = r.modDev fun d => { d with dram := m }) ∨
    ∃ m, counted r t pa = r.modCore s.cur fun c => { c with loft := m } := by
  unfold counted
  split
  · exact .inl rfl
  · exact .inr (putWord64_forms (inHand_count h) (by omega) (by omega) (inHand_partitions h))

theorem counted_core_proj {α : Type} (g : Core → α) (hg : ∀ c l u k, g { c with loft := l, tags := u, ctxs := k } = g c)
    (h : InHand s t true 32 v pa r) (m : CoreId) : g ((counted r t pa).core m) = g (s.core m) := by
  rw [← inHand_core_proj g hg h m]
  obtain e | ⟨x, e⟩ | ⟨x, e⟩ := counted_forms h <;> rw [e]
  · rfl
  · exact modCore_proj g r s.cur m _ fun c => hg c x c.tags c.ctxs

theorem counted_dev_proj {α : Type} (g : Device → α) (hg : ∀ d m, g { d with dram := m } = g d) (h : InHand s t true 32 v pa r) :
    g (counted r t pa).dev = g s.dev := by
  rw [← inHand_dev h]
  obtain e | ⟨x, e⟩ | ⟨x, e⟩ := counted_forms h <;> rw [e]
  · exact hg r.dev x
  · rfl

theorem counted_cur (h : InHand s t true 32 v pa r) : (counted r t pa).cur = s.cur := by
  rw [← inHand_cur h]
  obtain e | ⟨x, e⟩ | ⟨x, e⟩ := counted_forms h <;> rw [e] <;> rfl

/-- The record that a last join pushes. -/
def joinRec (n : CoreId) (v : W64) (bs : List Byte) : QRec :=
  recOf bs (if v.toNat < 0x300000 then BitVec.ofNat 64 (windowBase n + v.toNat) else v)

theorem pushJoined_runnable {q : State} {bs : List Byte} (h : q.runnable t.ctx (joinRec q.cur v bs) = true) :
    q.pushJoined t v bs = q.push q.cur ((joinRec q.cur v bs).enterAs t.ctx t.job (q.ceilOf t.ctx)) := by
  unfold joinRec at h ⊢
  exact if_pos h

theorem pushJoined_fails {q : State} {bs : List Byte} (h : q.runnable t.ctx (joinRec q.cur v bs) = false) :
    q.pushJoined t v bs = q.report q.cur t.ctx 0x04 t.tid [] bs := by
  unfold joinRec at h
  exact if_neg (by rw [w64, h]; decide)

theorem pushJoined_cases (q : State) (t : Task) (v : W64) (bs : List Byte) :
    (∃ p, q.pushJoined t v bs = q.push q.cur p) ∨ q.pushJoined t v bs = q.report q.cur t.ctx 0x04 t.tid [] bs := by
  cases h : q.runnable t.ctx (joinRec q.cur v bs) with
  | true => exact .inl ⟨_, pushJoined_runnable h⟩
  | false => exact .inr (pushJoined_fails h)

theorem pushJoined_cur (q : State) (bs : List Byte) : (q.pushJoined t v bs).cur = q.cur := by
  obtain ⟨p, e⟩ | e := pushJoined_cases q t v bs <;> rw [e]
  · exact push_cur ..
  · exact report_cur ..

theorem pushJoined_core_proj {α : Type} (g : Core → α) (hg : ∀ c l, g { c with lanes := l } = g c) (q : State) (bs : List Byte) (m : CoreId) :
    g ((q.pushJoined t v bs).core m) = g (q.core m) := by
  obtain ⟨p, e⟩ | e := pushJoined_cases q t v bs <;> rw [e]
  · exact push_core_proj g hg ..
  · rw [report_core]

theorem afterJoin_cur (h : InHand s t true 32 v pa r) : (afterJoin r t pa v).cur = s.cur := by
  unfold afterJoin
  split
  · rw [pushJoined_cur, counted_cur h]
  · exact counted_cur h

/-- A join leaves of a core all but its loft, its tags, what it marks of its contexts, and its lanes. -/
theorem afterJoin_core_proj {α : Type} (g : Core → α) (hg : ∀ c l u k x, g { c with loft := l, tags := u, ctxs := k, lanes := x } = g c)
    (h : InHand s t true 32 v pa r) (m : CoreId) : g ((afterJoin r t pa v).core m) = g (s.core m) := by
  have hc := counted_core_proj g (fun c l u k => hg c l u k c.lanes) h m
  unfold afterJoin
  split
  · exact (pushJoined_core_proj g (fun c x => hg c c.loft c.tags c.ctxs x) _ _ m).trans hc
  · exact hc

theorem afterJoin_live (h : InHand s t true 32 v pa r) : (afterJoin r t pa v).live = s.live := by
  unfold State.live State.bank
  rw [afterJoin_cur h]
  exact afterJoin_core_proj (fun c => c.banks[c.cbank]) (fun _ _ _ _ _ => rfl) h s.cur

end

/-! ## `join` -/

section
variable {s r : State} {t : Task} {pa : Nat} {v : W64} {d a : SReg}

theorem settle_ok (s q : State) (t : Task) : s.settle t (.ok q) = q.goesOn := rfl

theorem exec_join (hl : s.live = some t) : exec (.join d a) s =
    .next (s.settle t (s.joinAt t (t.getS a) fun s old => .ok (s.modLive fun t => t.setS d old))) := issue_live hl _

/-- Of a record that is not counted down for the last time nothing is pushed, and COUNT is what it was, less one unless it was 0. -/
theorem afterJoin_more (h : InHand s t true 32 v pa r) (h1 : countAt r t pa ≠ 1) :
    countAt (afterJoin r t pa v) t pa = countAt r t pa - 1 ∧ ∀ m, ((afterJoin r t pa v).core m).lanes = (s.core m).lanes := by
  have hlt : countAt r t pa < 256 ^ 4 := wordAt_within_lt (inHand_count h)
  rw [afterJoin, if_neg h1]
  refine ⟨?_, counted_core_proj (·.lanes) (fun _ _ _ _ => rfl) h⟩
  unfold counted
  split
  · omega
  · exact ((putWord64_at (inHand_count h) (by omega) (by omega) (inHand_partitions h)).1).trans (Nat.mod_eq_of_lt (by omega))

/-- The copy of the record that the last join makes (R361). -/
def joinCopy (r : State) (t : Task) (pa : Nat) : List Byte :=
  (r.physRead t.ctx pa 32).take 16 ++ zeroBytes 4 ++ (r.physRead t.ctx pa 32).drop 20

theorem afterJoin_last (h : InHand s t true 32 v pa r) (h1 : countAt r t pa = 1) : counted r t pa = r.putWord64 t.ctx (pa + 16) 4 0 ∧
    afterJoin r t pa v = (counted r t pa).pushJoined t v (joinCopy r t pa) := by
  have hc : counted r t pa = r.putWord64 t.ctx (pa + 16) 4 0 := by rw [counted, if_neg (by omega), h1]
  refine ⟨hc, ?_⟩
  rw [afterJoin, if_pos h1, hc, physRead_clearedCount h (inHand_partitions h)]
  rfl

/-- The last join of a runnable record puts its copy at the head of a lane. -/
theorem afterJoin_pushed (h : InHand s t true 32 v pa r) (h1 : countAt r t pa = 1)
    (hrun : (counted r t pa).runnable t.ctx (joinRec s.cur v (joinCopy r t pa)) = true) (m : CoreId) (l : Fin 8) :
    let p := (joinRec s.cur v (joinCopy r t pa)).enterAs t.ctx t.job ((counted r t pa).ceilOf t.ctx)
    ((afterJoin r t pa v).core m).lanes[l] =
      if m = s.cur ∧ l = p.pri then { p with entered := s.dev.now } :: (s.core m).lanes[l] else (s.core m).lanes[l] := by
  intro p
  have hcur := counted_cur h
  have hnow : (counted r t pa).dev.now = s.dev.now := counted_dev_proj (·.now) (fun _ _ => rfl) h
  have hlanes : ((counted r t pa).core m).lanes = (s.core m).lanes := counted_core_proj (·.lanes) (fun _ _ _ _ => rfl) h m
  rw [(afterJoin_last h h1).2, pushJoined_runnable (by rw [hcur]; exact hrun), push_lanes, hcur, hnow, hlanes]

/-- The last join of a record that is not runnable reports it. -/
theorem afterJoin_reported (h : InHand s t true 32 v pa r) (h1 : countAt r t pa = 1)
    (hrun : (counted r t pa).runnable t.ctx (joinRec s.cur v (joinCopy r t pa)) = false) :
    afterJoin r t pa v = (counted r t pa).report s.cur t.ctx 0x04 t.tid [] (joinCopy r t pa) ∧
      ∀ m, ((afterJoin r t pa v).core m).lanes = (s.core m).lanes := by
  have hcur := counted_cur h
  have he : afterJoin r t pa v = (counted r t pa).report s.cur t.ctx 0x04 t.tid [] (joinCopy r t pa) := by
    rw [(afterJoin_last h h1).2, pushJoined_fails (by rw [hcur]; exact hrun), hcur]
  refine ⟨he, fun m => ?_⟩
  rw [he, report_core]
  exact counted_core_proj (·.lanes) (fun _ _ _ _ => rfl) h m

theorem join_counts (hl : s.live = some t) (h : InHand s t true 32 (t.getS a) pa r) (hq : (s.core s.cur).queueFull (some t.tid) = false) :
    exec (.join d a) s = .next ((afterJoin r t pa (t.getS a)).modLive fun u => u.setS d (w64 (countAt r t pa))).goesOn := by
  rw [exec_join hl, joinAt_inHand h hq, settle_ok]

end

/-! ## The end of a task (R364) -/

theorem freePartition_banks (s : State) (n m : CoreId) (x : BitVec 16) : ((s.freePartition n x).core m).banks = (s.core m).banks := by
  rw [← fold_banks s n m x]
  refine modCore_proj (·.banks) (s.fold n x) n m _ ?_
  exact fun _ => rfl

theorem freeIdle_banks (s : State) (n m : CoreId) : ((s.freeIdle n).core m).banks = (s.core m).banks := by
  rw [State.freeIdle]
  exact foldl_keeps (f := fun (q : State) (k : CoreCtx) => q.freePartition n k.ctx) (fun q : State => (q.core m).banks)
    (fun q k => freePartition_banks q n m k.ctx) _ s

theorem completeJob_banks (s : State) (j : Nat) (b : Job) (m : CoreId) : ((s.completeJob j b).core m).banks = (s.core m).banks := by
  unfold State.completeJob
  split
  · rfl
  · have h {q : State} {k : Cmd} : ((q.mapCommand b.core k).2.core m).banks = (q.core m).banks := by
      have hc := mapCommand_changed q b.core k
      by_cases hm : m = b.core
      · subst hm; exact hc.banks
      · rw [hc.other m hm]
    exact h

theorem settleJobs_banks (s : State) (m : CoreId) : ((s.settleJobs).core m).banks = (s.core m).banks := by
  rw [State.settleJobs]
  refine foldl_keeps (fun q : State => (q.core m).banks) (fun q p => ?_) _ s
  split
  · exact completeJob_banks ..
  · rfl

/-- A task that ends leaves its bank free. -/
theorem endTask_bank (s : State) (n : CoreId) (b : Fin 4) (t : Task) : (s.endTask n b t).bank n b = none := by
  rw [bank_eq]
  unfold State.endTask
  extract_lets s₁ s₂ s₃ last s₄ here s₅
  have h₃ : (s₃.core n).banks[b] = none := by
    rw [modCore_core_self]
    simp
  have h₄ : s₄.core n = s₃.core n := by
    dsimp only [s₄]
    split
    · split <;> rfl
    · rfl
  have h₅ : (s₅.core n).banks = (s₄.core n).banks := by
    dsimp only [s₅]
    split
    · rfl
    · rw [freeIdle_banks, modCore_core_self]
  rw [settleJobs_banks, h₅, h₄, h₃]

/-! ## `tend` and `tendj` -/

section
variable {s r : State} {t : Task} {pa : Nat} {a d : SReg} {w : W64}

theorem tend_refused (h : s.endRefused t = some w) (f : (State → Act) → State → Act) : s.tend t f = s.bounds t w := by
  rw [State.tend, h]

theorem tend_waits {x : Wait} (h : s.endRefused t = none) (hw : s.endWaits t = some x) (f : (State → Act) → State → Act) :
    s.tend t f = .wait s x := by
  rw [State.tend, h, hw]

theorem tend_ends (h : s.endRefused t = none) (hw : s.endWaits t = none) (f : (State → Act) → State → Act) :
    s.tend t f = f (fun s => .ended (s.endTask s.cur (s.core s.cur).cbank t)) s := by
  rw [State.tend, h, hw]

theorem exec_tend (hl : s.live = some t) : exec .tend s = .next (s.settle t (s.tend t fun done s => done s)) := issue_live hl _

/-- `tendj` on a record at hand. -/
theorem exec_tendj (hl : s.live = some t) (h : InHand s t true 32 (t.getS a) pa r) : exec (.tendj a) s =
    .next (s.settle t (s.tend t fun done s => s.joinAt t (t.getS a) fun s _ => done s)) := by
  have hx : exec (.tendj a) s = .next (s.settle t (match s.syncRefuses t (t.getS a) 32 true with
    | some act => act
    | none => s.tend t fun done s => s.joinAt t (t.getS a) fun s _ => done s)) := issue_live hl _
  rw [hx, syncRefuses_inHand h]

/-- What refuses the join refuses both forms before any wait (R419). -/
theorem join_refused {act : Act} (hl : s.live = some t) (h : s.syncRefuses t (t.getS a) 32 true = some act) :
    ∀ i ∈ ([.join d a, .tendj a] : List Instr), exec i s = .next (s.settle t act) := by
  have hx : exec (.tendj a) s = .next (s.settle t (match s.syncRefuses t (t.getS a) 32 true with
    | some act => act
    | none => s.tend t fun done s => s.joinAt t (t.getS a) fun s _ => done s)) := issue_live hl _
  simp only [List.forall_mem_cons, List.not_mem_nil, false_implies, implies_true, and_true]
  exact ⟨by rw [exec_join hl, joinAt_refused h], by rw [hx, h]⟩

theorem tend_gone (hl : s.live = some t) (h : s.endRefused t = none) (hw : s.endWaits t = none) :
    Leads .tend s fun s' => s'.flow = .ended ∧ s'.bank s.cur (s.core s.cur).cbank = none :=
  ⟨_, issue_ends hl (tend_ends h hw _), rfl, endTask_bank ..⟩

/-- `tendj` ends its task after its join. -/
theorem tendj_gone (hl : s.live = some t) (h : s.endRefused t = none) (hw : s.endWaits t = none) (hin : InHand s t true 32 (t.getS a) pa r)
    (hq : (s.core s.cur).queueFull (some t.tid) = false) :
    Leads (.tendj a) s fun s' => s'.flow = .ended ∧ s'.bank s.cur (s.core s.cur).cbank = none := by
  have hcur := afterJoin_cur (v := t.getS a) hin
  have hcb : ((afterJoin r t pa (t.getS a)).core s.cur).cbank = (s.core s.cur).cbank := afterJoin_core_proj (·.cbank) (fun _ _ _ _ _ => rfl) hin s.cur
  have hx := exec_tendj hl hin
  rw [tend_ends h hw, joinAt_inHand hin hq] at hx
  dsimp only at hx
  rw [hcur, hcb] at hx
  exact ⟨_, hx, rfl, endTask_bank ..⟩

/-! ## `grow` and `park` -/

theorem grow_refused (hl : s.live = some t) (h : (t.grid.bind fun g => s.dev.grids.lookup g) = none) :
    exec (.grow d a) s = .next (s.traps t 0x09 0 (t.getS a)) := by
  refine issue_traps hl ?_
  have hn : (t.grid.bind fun i => (s.dev.grids.lookup i).map fun g => (i, g)) = none := by
    cases hg : t.grid with
    | none => rfl
    | some g =>
      rw [hg] at h
      have hg' : s.dev.grids.lookup g = none := h
      simp [hg']
  dsimp only
  rw [hn]
  rfl

/-- The count of a grid that grows by `v`, up to the greatest (R362). -/
def grownCount (x : Grid) (v : W64) : BitVec 24 := BitVec.ofNat 24 (Min.min (x.count.toNat + v.toNat) (2 ^ 24 - 1))

theorem grownCount_toNat (x : Grid) (v : W64) : (grownCount x v).toNat = Min.min (x.count.toNat + v.toNat) (2 ^ 24 - 1) := by
  rw [grownCount, BitVec.toNat_ofNat, Nat.mod_eq_of_lt (by omega)]

/-- The grid `g` grown. -/
def grown (s : State) (g : Fin 64) (x : Grid) (v : W64) : State := s.modDev (·.modGrid g fun y => { y with count := grownCount x v })

theorem grow_grows {g : Fin 64} {x : Grid} (hl : s.live = some t) (hg : t.grid = some g) (hx : s.dev.grids.lookup g = some x) :
    exec (.grow d a) s = .next ((grown s g x (t.getS a)).thenTask (t.setS d (x.count.setWidth 64))) := by
  refine issue_ok hl ?_
  have hs : (t.grid.bind fun i => (s.dev.grids.lookup i).map fun g => (i, g)) = some (g, x) := by
    rw [hg]
    simp [hx]
  dsimp only
  rw [hs]
  rfl

theorem lookup_modGrid (d : Device) (g : Fin 64) (f : Grid → Grid) : (d.modGrid g f).grids.lookup g = (d.grids.lookup g).map f := by
  rw [modGrid_grids]
  induction d.grids with
  | nil => rfl
  | cons e l ih =>
    obtain ⟨j, y⟩ := e
    rw [List.map_cons]
    by_cases he : j = g
    · subst he
      rw [if_pos rfl, List.lookup_cons_self, List.lookup_cons_self]
      rfl
    · have hne : (g == j) = false := beq_eq_false_iff_ne.2 fun h => he h.symm
      rw [if_neg he, List.lookup_cons, List.lookup_cons, hne]
      exact ih

theorem grown_lookup {g : Fin 64} {x : Grid} (v : W64) (h : s.dev.grids.lookup g = some x) :
    (grown s g x v).dev.grids.lookup g = some { x with count := grownCount x v } := by
  rw [grown, modDev_dev, lookup_modGrid, h, Option.map_some]

/-- The core looks for another task after this group. -/
def yielding (s : State) : State := s.modCore s.cur fun c => { c with yield := true }

theorem yielding_live (hl : s.live = some t) : (yielding s).goesOn.live = some (unwaiting t) := by
  have h : (yielding s).live = s.live := modCore_live s s.cur fun _ => ⟨rfl, rfl⟩
  rw [goesOn_live, h, hl, Option.map_some]

theorem park_yields (hl : s.live = some t) : exec .park s = .next (yielding s).goesOn := issue_ok hl rfl

end

/-- Settles the joins and task ends of O41. -/
theorem endingForms_holds : endingForms := by
  intro s t d a hl v here gone full va
  refine ⟨fun h => join_refused hl (syncRefuses_bounds h), fun pa hv ha ht hh hx hr => join_refused hl (syncRefuses_phaseIllegal hv ha ht hh hx hr),
    fun pa r hin hq => ?_, fun pa r hin hq => ⟨queueWait s.cur, rfl, ?_⟩, grow_refused hl, fun g x hg hx => ?_, ?_, fun w hw => ⟨?_, fun pa r hin => ?_⟩,
    fun w h hw => ⟨?_, fun pa r hin => ?_⟩, fun h hw => ⟨tend_gone hl h hw, fun pa r hin => ⟨tendj_gone hl h hw hin, fun hq => ⟨queueWait s.cur, rfl, ?_⟩⟩⟩⟩
  · have hjl : (afterJoin r t pa v).live = some t := (afterJoin_live hin).trans hl
    have hlanes (m : CoreId) : ((((afterJoin r t pa v).modLive fun u => u.setS d (w64 (countAt r t pa))).goesOn).core m).lanes =
        ((afterJoin r t pa v).core m).lanes :=
      (goesOn_core_proj (·.lanes) (fun _ _ _ => rfl) _ m).trans (modLive_proj (·.lanes) _ _ m fun _ _ => rfl)
    refine ⟨_, join_counts hl hin hq, _, (congrArg State.live (goesOn_modLive hjl _)).trans (thenTask_live ..), trivial, rfl, fun h1 => ?_, fun h1 => ?_⟩
    · obtain ⟨hcount, hl'⟩ := afterJoin_more (v := v) hin h1
      refine ⟨?_, fun m => (hlanes m).trans (hl' m)⟩
      exact (wordAt_of_storage (within_place (inHand_count hin)) ((storageOf_goesOn _).trans (storageOf_modLive ..))).trans hcount
    · intro bs q rcd p
      have hc : counted r t pa = q := (afterJoin_last (v := v) hin h1).1
      refine ⟨fun hrun m l => ?_, fun hrun => ?_⟩
      · rw [hlanes, afterJoin_pushed hin h1 (by rw [hc]; exact hrun), hc]
        rfl
      · obtain ⟨he, hl'⟩ := afterJoin_reported hin h1 (by rw [hc]; exact hrun)
        refine ⟨fun m => (hlanes m).trans (hl' m), ?_⟩
        intro f
        have hf : afterJoin r t pa v = f := by rw [he, hc]; rfl
        rw [hf]
        exact ⟨goesOn_dev_proj (·.dram) (fun _ _ _ => rfl) _, goesOn_dev_proj (·.faultq t.ctx) (fun _ _ _ => rfl) _⟩
  · rw [exec_join hl, joinAt_full hin hq]
    rfl
  · refine ⟨_, grow_grows hl hg hx, _, { x with count := grownCount x v }, thenTask_live .., trivial, rfl, ?_, ?_⟩
    · exact (goesOn_dev_proj (·.grids.lookup g) (fun _ _ _ => rfl) _).trans (grown_lookup v hx)
    · exact grownCount_toNat x v
  · refine ⟨_, park_yields hl, trivial, ?_, _, yielding_live hl, rfl⟩
    rw [goesOn_core_proj (·.yield) (fun _ _ _ => rfl), yielding, modCore_core_self]
  · rw [exec_tend hl, tend_refused hw]; rfl
  · rw [exec_tendj hl hin, tend_refused hw]; rfl
  · rw [exec_tend hl, tend_waits h hw]; rfl
  · rw [exec_tendj hl hin, tend_waits h hw]; rfl
  · rw [exec_tendj hl hin, tend_ends h hw, joinAt_full hin hq]
    rfl

/-- Settles O41. -/
theorem spawnsAndTaskEndings : Obligations.SpawnsAndTaskEndings := ⟨spawnForms_holds, endingForms_holds⟩

end Sys2Proof.Proofs
end

section
/-!
PROOFS. The phase counter through the operations that the instructions are made of (R321, R323): what each step of the machine keeps of it. Settles O58.
-/
namespace Sys2Proof.Proofs
open Machine Laws

/-- A fold keeps the phase when its every step does. -/
theorem foldl_phase {α : Type} {f : State → α → State} (l : List α) (s : State) (h : ∀ s a, (f s a).dev.phase = s.dev.phase) :
    (l.foldl f s).dev.phase = s.dev.phase := foldl_keeps (·.dev.phase) h l s

/-! ## Answers in a phase -/

/-- The step has gone well, and `Q` holds of what it answers, or it is held in phase `p`, or faults. -/
def EndsAt {α : Type} (p : W64) (Q : α → Prop) : Except Stop α → Prop
  | .ok a => Q a
  | .error (.held s) => s.dev.phase = p
  | .error (.fault ..) => True

/-- The act leaves the machine in phase `p`; a trap is still to be taken. -/
def ActAt (p : W64) : Act → Prop
  | .ok s | .jump s _ | .resume s .. | .ended s | .entered s | .wait s _ => s.dev.phase = p
  | .trap _ => True

/-- The write of a control register leaves `g` of the machine at `a`. -/
def WroteAs {α : Type} (g : State → α) (a : α) : Wrote → Prop
  | .done s => g s = a
  | _ => True

/-- `g` of a machine depends on no core, on neither the current core nor DRAM, and on no field of the device that a control register writes. -/
def ApartFromWrites {α : Type} (g : State → α) : Prop :=
  ∀ (s : State) cores cur dram ptbase ptlog ctxtab acl wfsel, g { s with
    cores := cores, cur := cur
    dev := { s.dev with dram := dram, ptbase := ptbase, ptlog := ptlog, ctxtab := ctxtab, acl := acl, wfsel := wfsel } } = g s

theorem phase_apart : ApartFromWrites fun s => s.dev.phase := fun _ _ _ _ _ _ _ _ _ => rfl

/-- The micro-word leaves the machine in phase `p`. -/
def MActAt (p : W64) : MAct → Prop
  | .ok s | .hold s => s.dev.phase = p
  | .fault _ => True

/-- The machine goes on in phase `p`, if it goes on. -/
def OutAt (p : W64) (o : Out) : Prop := ∀ s, o = .next s → s.dev.phase = p

section
variable {α β : Type} {p : W64} {Q : α → Prop} {R : β → Prop} {s : State}

@[simp] theorem endsAt_ok (a : α) : EndsAt p Q (.ok a) ↔ Q a := .rfl
@[simp] theorem endsAt_pure (a : α) : EndsAt p Q (pure a) ↔ Q a := .rfl
@[simp] theorem endsAt_held : EndsAt p Q (.error (.held s)) ↔ s.dev.phase = p := .rfl
@[simp] theorem endsAt_throw_held : EndsAt p Q (throw (.held s)) ↔ s.dev.phase = p := .rfl
@[simp] theorem endsAt_fault (c : Cause) (a : Int) : EndsAt p Q (.error (.fault c a)) ↔ True := .rfl
@[simp] theorem endsAt_throw_fault (c : Cause) (a : Int) : EndsAt p Q (throw (.fault c a)) ↔ True := .rfl

@[simp] theorem endsAt_bind (x : Except Stop α) (k : α → Except Stop β) : EndsAt p R (x >>= k) ↔ EndsAt p (fun a => EndsAt p R (k a)) x := by
  obtain (s | ⟨c, a⟩) | a := x <;> exact .rfl

@[simp] theorem endsAt_map (x : Except Stop α) (f : α → β) : EndsAt p R (x.map f) ↔ EndsAt p (fun a => R (f a)) x := by
  obtain (s | ⟨c, a⟩) | a := x <;> exact .rfl

theorem EndsAt.imp {Q' : α → Prop} {x : Except Stop α} (h : EndsAt p Q x) (hQ : ∀ a, Q a → Q' a) : EndsAt p Q' x := by
  obtain (s | ⟨c, a⟩) | a := x
  · exact h
  · trivial
  · exact hQ a h

@[simp] theorem actAt_ok : ActAt p (.ok s) ↔ s.dev.phase = p := .rfl
@[simp] theorem actAt_jump (a : BitVec 56) : ActAt p (.jump s a) ↔ s.dev.phase = p := .rfl
@[simp] theorem actAt_resume (a : BitVec 56) (k : Fin 4) : ActAt p (.resume s a k) ↔ s.dev.phase = p := .rfl
@[simp] theorem actAt_ended : ActAt p (.ended s) ↔ s.dev.phase = p := .rfl
@[simp] theorem actAt_entered : ActAt p (.entered s) ↔ s.dev.phase = p := .rfl
@[simp] theorem actAt_wait (w : Wait) : ActAt p (.wait s w) ↔ s.dev.phase = p := .rfl
@[simp] theorem actAt_trap (c : Trap) : ActAt p (.trap c) ↔ True := .rfl
@[simp] theorem actAt_bounds (t : Task) (v : W64) : ActAt p (s.bounds t v) ↔ True := .rfl
@[simp] theorem actAt_phaseIllegal (t : Task) : ActAt p (s.phaseIllegal t) ↔ True := .rfl
@[simp] theorem mActAt_ok : MActAt p (.ok s) ↔ s.dev.phase = p := .rfl
@[simp] theorem mActAt_hold : MActAt p (.hold s) ↔ s.dev.phase = p := .rfl
@[simp] theorem mActAt_fault (c : Fin 64) : MActAt p (.fault c) ↔ True := .rfl
@[simp] theorem outAt_next : OutAt p (.next s) ↔ s.dev.phase = p := ⟨fun h => h s rfl, fun h _ e => Host.Outcome.next.inj e ▸ h⟩
@[simp] theorem outAt_fault (f : Fault) : OutAt p (.fault f) := fun _ h => nomatch h
@[simp] theorem outAt_refused (r : Refusal) : OutAt p (.refused r) := fun _ h => nomatch h

end

end Sys2Proof.Proofs
end

section
namespace Sys2Proof.Proofs
open Machine Laws

@[simp] theorem sample_phase (d : Device) (die : Bool) (m : Fin 4) (x : Nat) : (d.sample die m x).phase = d.phase := rfl

@[simp] theorem release_phase (d : Device) (p : WfEntry → Bool) : (d.release p).phase = d.phase := release_proj (·.phase) d p fun _ _ _ => rfl

@[simp] theorem forgetRequests_phase (s : State) (n : CoreId) (rs : List Remote) : (s.forgetRequests n rs).dev.phase = s.dev.phase := rfl

@[simp] theorem dropEarly_phase (s : State) (t : Task) : (s.dropEarly t).1.dev.phase = s.dev.phase := by
  unfold State.dropEarly
  split <;> rfl

@[simp] theorem setFaultq_phase (d : Device) (q : FaultQ) : (d.setFaultq q).phase = d.phase := rfl

@[simp] theorem writeDram_phase (s : State) (pa : Nat) (bs : List Byte) : (s.writeDram pa bs).dev.phase = s.dev.phase := rfl

@[simp] theorem report_phase (s : State) (n : CoreId) (x : BitVec 16) (kind : Nat) (tid : BitVec 16) (tr : List W64) (image : List Byte) :
    (s.report n x kind tid tr image).dev.phase = s.dev.phase := report_dev_proj (·.phase) (fun _ _ _ _ => rfl) ..

@[simp] theorem unhandled_phase (s : State) (t : Task) (c : Trap) : (s.unhandled t c).dev.phase = s.dev.phase := by
  unfold State.unhandled
  simp

@[simp] theorem takeTrap_phase (s : State) (t : Task) (c : Trap) : (s.takeTrap t c).dev.phase = s.dev.phase :=
  takeTrap_dev_proj (·.phase) (fun _ _ _ _ _ _ => rfl) ..

@[simp] theorem countDeep_phase (s : State) (t : Task) : (s.countDeep t).dev.phase = s.dev.phase := rfl

@[simp] theorem unreserve_phase (d : Device) (tid : BitVec 16) : (d.unreserve tid).phase = d.phase := rfl

@[simp] theorem writeDeadlock_phase (s : State) (t : Task) (path : List WfEntry) : (s.writeDeadlock t path).1.dev.phase = s.dev.phase := by
  unfold State.writeDeadlock
  repeat' split
  all_goals simp

@[simp] theorem deadlock_phase (s : State) (t : Task) (path : List WfEntry) : (s.deadlock t path).dev.phase = s.dev.phase := by
  unfold State.deadlock
  simp

theorem overflow_phase (s : State) (t : Task) (c : CoreCtx) {mark : Bool → State → State} (h : ∀ u q, (mark u q).dev.phase = q.dev.phase) :
    (s.overflow t c mark).dev.phase = s.dev.phase := by
  unfold State.overflow
  split
  · rw [h]
    split <;> rfl
  · exact takeTrap_phase ..

@[simp] theorem registerWait_phase (s : State) (t : Task) (w : Wait) : (s.registerWait t w).dev.phase = s.dev.phase := by
  unfold State.registerWait
  extract_lets s₁ w' mark
  have hmark (u : Bool) (q : State) : (mark u q).dev.phase = q.dev.phase := rfl
  clear_value mark
  split
  · exact (hmark ..).trans (dropEdge_phase ..)
  split
  · extract_lets e s'
    have hs' : s'.dev.phase = s.dev.phase := rfl
    split
    · exact (hmark ..).trans hs'
    split
    · exact (hmark ..).trans hs'
    · exact (hmark ..).trans ((countDeep_phase ..).trans hs')
    · exact deadlock_phase ..
  · split
    · exact overflow_phase _ _ _ hmark
    · split
      · exact overflow_phase _ _ _ hmark
      next i is _ _ =>
        cases hq : s₁.choose (i :: is).length with
        | mk k q =>
        have hqd : q.dev.phase = s.dev.phase := congrArg (·.2.dev.phase) hq.symm
        dsimp -zeta only
        extract_lets e s'
        have hs' : s'.dev.phase = s.dev.phase := hqd
        split
        · exact (hmark ..).trans hs'
        · exact (hmark ..).trans ((countDeep_phase ..).trans hs')
        · exact (deadlock_phase ..).trans hqd

/-- An act that leaves the machine in phase `p` is settled in it. -/
theorem settle_phase {p : W64} {s : State} {a : Act} (hs : s.dev.phase = p) (h : ActAt p a) (t : Task) : (s.settle t a).dev.phase = p := by
  cases a with
  | ok s' | jump s' => exact (endWait_phase s').trans h
  | resume | ended | entered => exact h
  | trap c => exact (takeTrap_phase ..).trans hs
  | wait s' w => exact (registerWait_phase ..).trans h

@[simp] theorem fresh_phase (s : State) : s.fresh.2.dev.phase = s.dev.phase := rfl

@[simp] theorem dropTlbs_phase (s : State) (p : TlbEntry → Bool) : (s.dropTlbs p).dev.phase = s.dev.phase := rfl

@[simp] theorem invalidate_phase (s : State) (t : Task) (asn : Option (BitVec 8)) (p : TlbEntry → Bool) :
    (s.invalidate t asn p).dev.phase = s.dev.phase := rfl

@[simp] theorem mapCommand_phase (s : State) (n : CoreId) (k : Cmd) : (s.mapCommand n k).2.dev.phase = s.dev.phase := rfl

@[simp] theorem startFill_phase (s : State) (n : CoreId) (k : CoreCtx) (g : Nat) (tid : BitVec 16) :
    (s.startFill n k g tid).2.dev.phase = s.dev.phase := rfl

@[simp] theorem arriveAt_phase (s : State) (n : CoreId) (a b : Nat) : (s.arriveAt n a b).dev.phase = s.dev.phase := rfl

@[simp] theorem arrival_phase (s : State) (n : CoreId) (x : BitVec 16) (b : W64) (bytes : Nat) : (s.arrival n x b bytes).dev.phase = s.dev.phase := by
  unfold State.arrival
  split <;> rfl

theorem loftReady_at {p : W64} {Q : State → Prop} {s : State} (h : s.dev.phase = p) (hQ : ∀ q, q.dev.phase = p → Q q) (a : Agent) (write whole : Bool)
    (g : Nat) : EndsAt p Q (s.loftReady a write whole g) := by
  have hfill (k : CoreCtx) (m : Nat) : (s.startFill a.core k m a.tid).2.dev.phase = p := (startFill_phase ..).trans h
  unfold State.loftReady
  dsimp only
  split
  · exact h
  split
  · exact hQ s h
  split
  · exact hQ s h
  split
  · exact hQ _ h
  split
  · exact hQ s h
  split
  · exact h
  split
  · exact h
  · exact hfill ..

@[simp] theorem syncArrive_phase (s : State) (n : CoreId) (r : RgSync) : (s.syncArrive n r).dev.phase = s.dev.phase := by
  unfold State.syncArrive
  split
  · rfl
  extract_lets paid
  have hpaid (q : State) : (paid q).dev.phase = q.dev.phase := rfl
  clear_value paid
  split
  · exact hpaid s
  have hready := loftReady_at (Q := fun q => q.dev.phase = s.dev.phase) rfl (fun _ h => h)
    { core := n, ctx := r.ctx, tid := r.tid, uid := r.uid, owner := .cmd r.uid } true false (r.barrier.toNat / 64)
  split
  next q hq =>
    rw [hq] at hready
    exact (hpaid _).trans ((foldl_phase _ _ fun _ _ => arrival_phase ..).trans hready)
  next q hq =>
    rw [hq] at hready
    exact hready
  · rfl

@[simp] theorem syncSettle_phase (s : State) (n : CoreId) (uid : Nat) : (s.syncSettle n uid).dev.phase = s.dev.phase := by
  unfold State.syncSettle
  split <;> simp

@[simp] theorem shareFill_phase (s : State) (tid : BitVec 16) (f : Cmd) : (s.shareFill tid f).dev.phase = s.dev.phase := by
  unfold State.shareFill
  split <;> rfl

@[simp] theorem push_phase (s : State) (n : CoreId) (r : QRec) : (s.push n r).dev.phase = s.dev.phase := writeBackRec_phase ..

/-! ### What writes of control registers and windows leave alone -/

section
variable {α : Type} {g : State → α} (hg : ApartFromWrites g)
include hg

theorem modCore_apart (s : State) (n : CoreId) (f : Core → Core) : g (s.modCore n f) = g s := hg s ..

theorem setLive_apart (s : State) (t : Task) : g (s.setLive t) = g s := hg s ..

theorem writeCtrl_apart (s : State) (t : Task) (n : Nat) (v : W64) : WroteAs g (g s) (s.writeCtrl t n v) := by
  unfold State.writeCtrl
  extract_lets k c i16 ctl ctx dev
  have hctx (f : CoreCtx → CoreCtx) : WroteAs g (g s) (ctx f) := modCore_apart hg s ..
  have hcore (f : Core → Core) : WroteAs g (g s) (.done (s.modCore s.cur f)) := modCore_apart hg s ..
  have hrefl : WroteAs g (g s) (.done s) := rfl
  split
  · exact hrefl
  split
  · exact setLive_apart hg s _
  split
  · split
    · trivial
    · exact hctx _
  split
  · split
    · trivial
    · exact hctx _
  split
  · split
    · trivial
    · exact (modCore_apart hg ..).trans (modCore_apart hg s ..)
  · split
    · exact setLive_apart hg s _
    · exact setLive_apart hg s _
    · split
      · exact hcore _
      · exact hrefl
    · split
      · exact hg s ..
      · exact hrefl
    · split
      · exact hg s ..
      · exact hrefl
    · exact setLive_apart hg s _
    · exact setLive_apart hg s _
    · exact setLive_apart hg s _
    · exact hctx _
    · exact setLive_apart hg s _
    · exact hg s ..
    · split
      · exact hcore _
      · exact hrefl
    · exact hg s ..
    · exact hctx _
    · exact hctx _
    · exact hctx _
    · exact hg s ..
    · exact setLive_apart hg s _
    · exact hctx _
    · exact hctx _
    · exact setLive_apart hg s _
    · exact hrefl

theorem writeCtrlPage_apart (s : State) (n : CoreId) (x : BitVec 16) (sup : Bool) (a : Nat) (ws : List (List Byte)) :
    g (s.writeCtrlPage n x sup a ws) = g s := by
  induction ws generalizing s a with
  | nil => rfl
  | cons w ws ih =>
    unfold State.writeCtrlPage
    refine (ih _ _).trans ?_
    split
    · split
      · split
        next t _ _ r hr =>
          have hw := writeCtrl_apart hg { s with cur := n } t (a / 8) (w64 (leNat w))
          rw [hr] at hw
          exact (hg r ..).trans (hw.trans (hg s ..))
        · rfl
      · rfl
    · rfl

theorem windowPut_apart (s : State) (n : CoreId) (x : BitVec 16) (sup : Bool) (o : Nat) (cells : List (Nat × Byte)) (tags : Bool) :
    g (s.windowPut n x sup o cells tags) = g s := by
  unfold State.windowPut
  split
  · rfl
  dsimp only
  split
  · exact modCore_apart hg ..
  · split
    · exact modCore_apart hg ..
    · exact hg s ..
    · rfl
  · exact writeCtrlPage_apart hg ..
  · exact modCore_apart hg ..
  · exact modCore_apart hg ..
  · exact modCore_apart hg ..
  · exact modCore_apart hg ..

theorem physPut_apart (s : State) (x : BitVec 16) (sup : Bool) (pa : Nat) (cells : List (Nat × Byte)) (tags : Bool) :
    g (s.physPut x sup pa cells tags) = g s := by
  unfold State.physPut
  split
  · exact windowPut_apart hg ..
  · exact hg s ..

end

@[simp] theorem physPut_phase (s : State) (x : BitVec 16) (sup : Bool) (pa : Nat) (cells : List (Nat × Byte)) (tags : Bool) :
    (s.physPut x sup pa cells tags).dev.phase = s.dev.phase := physPut_apart phase_apart ..

@[simp] theorem windowPut_phase (s : State) (n : CoreId) (x : BitVec 16) (sup : Bool) (o : Nat) (cells : List (Nat × Byte)) (tags : Bool) :
    (s.windowPut n x sup o cells tags).dev.phase = s.dev.phase := windowPut_apart phase_apart ..

@[simp] theorem putWord64_phase (s : State) (x : BitVec 16) (pa n v : Nat) : (s.putWord64 x pa n v).dev.phase = s.dev.phase := by
  unfold State.putWord64
  simp

@[simp] theorem modAnywhere_phase (s : State) (tid : BitVec 16) (f : Task → Task) : (s.modAnywhere tid f).dev.phase = s.dev.phase := rfl

@[simp] theorem pendDeadlock_phase (s : State) (e : WfEntry) (path : List WfEntry) : (s.pendDeadlock e path).dev.phase = s.dev.phase := by
  unfold State.pendDeadlock
  dsimp only
  split <;> simp

@[simp] theorem rewireEdge_phase (s : State) (e : WfEntry) : (s.rewireEdge e).dev.phase = s.dev.phase := by
  unfold State.rewireEdge
  dsimp only
  repeat' split
  all_goals simp

@[simp] theorem rewire_phase (s : State) : s.rewire.dev.phase = s.dev.phase :=
  foldl_phase _ _ fun s e => by split; exacts [rewireEdge_phase .., rfl]

@[simp] theorem insertEntry_phase (s : State) (e : WfEntry) : (s.insertEntry e).1.dev.phase = s.dev.phase := rfl

@[simp] theorem ownLock_phase (s : State) (n : CoreId) (x tid : BitVec 16) (pa : Nat) : (s.ownLock n x tid pa).dev.phase = s.dev.phase := by
  unfold State.ownLock
  split <;> rfl

@[simp] theorem lockStep_phase (s : State) (t : Task) (try_ : Bool) (pa : Nat) : (s.lockStep t try_ pa).1.dev.phase = s.dev.phase := by
  unfold State.lockStep
  dsimp only
  repeat' split
  all_goals simp

@[simp] theorem unlockStep_phase (s : State) (t : Task) (pa : Nat) : (s.unlockStep t pa).1.dev.phase = s.dev.phase := by
  unfold State.unlockStep
  dsimp only
  repeat' split
  all_goals simp

@[simp] theorem barrierStep_phase (s : State) (x : BitVec 16) (pa b : Nat) : (s.barrierStep x pa b).1.dev.phase = s.dev.phase := by
  unfold State.barrierStep
  split <;> rfl

@[simp] theorem joinStep_phase (s : State) (x : BitVec 16) (pa : Nat) : (s.joinStep x pa).1.dev.phase = s.dev.phase := by
  unfold State.joinStep
  dsimp only
  split <;> simp

@[simp] theorem perform_phase (s : State) (t : Task) (op : SyncOp) (pa n : Nat) (arg cmp : W64) :
    (s.perform t op pa n arg cmp).1.dev.phase = s.dev.phase := by
  unfold State.perform
  dsimp only
  repeat' split
  all_goals simp

@[simp] theorem countUntethered_phase (s : State) (t : Task) (room : Bool) : (s.countUntethered t room).dev.phase = s.dev.phase := by
  unfold State.countUntethered
  split <;> rfl

@[simp] theorem withdraw_phase (d : Device) (uid : Nat) : (d.withdraw uid).phase = d.phase := rfl

@[simp] theorem refill_phase (s : State) (k : Cmd) : (s.refill k).dev.phase = s.dev.phase := by
  unfold State.refill
  split
  · exact foldl_phase _ _ fun _ _ => rfl
  · rfl

@[simp] theorem modCmd_phase (s : State) (n : CoreId) (uid : Nat) (f : Cmd → Cmd) : (s.modCmd n uid f).dev.phase = s.dev.phase := rfl

@[simp] theorem faultAt_retake_phase (uid : Nat) (s : State) (n : CoreId) (k : Cmd) : (State.faultAt.retake uid s n k).dev.phase = s.dev.phase := by
  unfold State.faultAt.retake
  split <;> rfl

@[simp] theorem faultAt_phase (s : State) (n : CoreId) (uid : Nat) (cause : Cause) (a : BitVec 56) :
    (s.faultAt n uid cause a).dev.phase = s.dev.phase := by
  unfold State.faultAt
  dsimp only
  repeat' split
  all_goals simp

@[simp] theorem faultCmd_phase (s : State) (n : CoreId) (uid : Nat) (cause : Cause) (a : Int) :
    (s.faultCmd n uid cause a).dev.phase = s.dev.phase := by
  unfold State.faultCmd
  simp

@[simp] theorem needWalk_phase (s : State) (a : Agent) (va : Nat) : (s.needWalk a va).dev.phase = s.dev.phase := by
  unfold State.needWalk
  dsimp only
  split <;> rfl

@[simp] theorem newCarrier_phase (s : State) (t : Task) (va key : Nat) : (s.newCarrier t va key).2.dev.phase = s.dev.phase := rfl

@[simp] theorem carry_phase (s : State) (t : Task) (va : Nat) : (s.carry t va).2.dev.phase = s.dev.phase := by
  unfold State.carry
  split <;> rfl

@[simp] theorem removeCmd_phase (s : State) (n : CoreId) (uid : Nat) : (s.removeCmd n uid).dev.phase = s.dev.phase := by
  unfold State.removeCmd
  simp

@[simp] theorem mapDone_phase (s : State) (n : CoreId) (k : Cmd) : (s.mapDone n k).dev.phase = s.dev.phase := by
  unfold State.mapDone
  split <;> simp

@[simp] theorem dropCarrier_phase (s : State) (t : Task) (va : Nat) : (s.dropCarrier t va).dev.phase = s.dev.phase := by
  unfold State.dropCarrier
  split <;> simp

@[simp] theorem sendPacket_phase (s : State) (p : Packet) : (s.sendPacket p).dev.phase = s.dev.phase := rfl

@[simp] theorem syncPacket_phase (s : State) (t : Task) (r : Remote) : (s.syncPacket t r).dev.phase = s.dev.phase := rfl

@[simp] theorem rekey_phase (s : State) (uid key : Nat) : (s.rekey uid key).dev.phase = s.dev.phase := rfl

@[simp] theorem acknowledge_phase (s : State) (t : Task) (uid va : Nat) : (s.acknowledge t uid va).dev.phase = s.dev.phase := by
  unfold State.acknowledge
  simp

@[simp] theorem adopt_phase (s : State) (t : Task) : (s.adopt t).dev.phase = s.dev.phase := by
  unfold State.adopt
  split <;> rfl

@[simp] theorem pushJoined_phase (s : State) (t : Task) (a : W64) (bs : List Byte) : (s.pushJoined t a bs).dev.phase = s.dev.phase := by
  unfold State.pushJoined
  dsimp only
  repeat' split
  all_goals simp

@[simp] theorem modGrid_phase (d : Device) (i : Fin 64) (f : Grid → Grid) : (d.modGrid i f).phase = d.phase := rfl

@[simp] theorem disown_phase (s : State) (tid : BitVec 16) : (s.disown tid).dev.phase = s.dev.phase := rfl

@[simp] theorem fold_phase (s : State) (n : CoreId) (x : BitVec 16) : (s.fold n x).dev.phase = s.dev.phase := by
  unfold State.fold
  dsimp only
  repeat' split
  all_goals simp

@[simp] theorem freePartition_phase (s : State) (n : CoreId) (x : BitVec 16) : (s.freePartition n x).dev.phase = s.dev.phase := by
  unfold State.freePartition
  simp

@[simp] theorem freeIdle_phase (s : State) (n : CoreId) : (s.freeIdle n).dev.phase = s.dev.phase := by
  rw [State.freeIdle]
  exact foldl_phase _ _ fun _ _ => freePartition_phase ..

@[simp] theorem completeJob_phase (s : State) (j : Nat) (b : Job) : (s.completeJob j b).dev.phase = s.dev.phase := by
  unfold State.completeJob
  split <;> rfl

@[simp] theorem settleJobs_phase (s : State) : s.settleJobs.dev.phase = s.dev.phase :=
  foldl_phase _ _ fun s p => by split; exacts [completeJob_phase .., rfl]

@[simp] theorem endTask_phase (s : State) (n : CoreId) (b : Fin 4) (t : Task) : (s.endTask n b t).dev.phase = s.dev.phase := by
  unfold State.endTask
  extract_lets s₁ s₂ s₃ last s₄ here s₅
  have h₁ : s₁.dev.phase = s.dev.phase := release_phase ..
  have h₄ : s₄.dev.phase = s₁.dev.phase := by
    dsimp only [s₄]
    split
    · split <;> rfl
    · rfl
  have h₅ : s₅.dev.phase = s₄.dev.phase := by
    dsimp only [s₅]
    split
    · rfl
    · exact freeIdle_phase ..
  rw [settleJobs_phase, h₅, h₄, h₁]

@[simp] theorem refuseLaunch_phase (s : State) (c : BitVec 8) : (s.refuseLaunch c).dev.phase = s.dev.phase := rfl

@[simp] theorem launchAt_phase (s : State) (n : CoreId) (bs : List Byte) (pmax : Nat) : (s.launchAt n bs pmax).2.dev.phase = s.dev.phase := by
  unfold State.launchAt
  simp

@[simp] theorem loftWrite_phase (s : State) (t : Task) (a : Nat) (bs : List Byte) : (s.loftWrite t a bs).dev.phase = s.dev.phase := rfl

@[simp] theorem destroy_phase (s : State) (x : BitVec 16) : (s.destroy x).dev.phase = s.dev.phase := by
  have hfold := foldl_phase allCores s fun s n => fold_phase s n x
  unfold State.destroy
  dsimp only
  rw [rewire_phase, foldl_phase _ _ disown_phase]
  generalize allCores.foldl (fun s n => s.fold n x) s = q at hfold ⊢
  exact (release_phase ..).trans hfold

@[simp] theorem endInner_phase (s : State) (n : CoreId) (t : Task) : (s.endInner n t).dev.phase = s.dev.phase := by
  unfold State.endInner
  simp

@[simp] theorem releaseContext_phase (s : State) (x : BitVec 16) : (s.releaseContext x).dev.phase = s.dev.phase :=
  foldl_phase _ _ fun s p => endInner_phase s p.1 p.2

end Sys2Proof.Proofs
end

section
namespace Sys2Proof.Proofs
open Machine Laws

/-! ## Accesses of a task -/

section
variable {p : W64} {s : State}

theorem holdGranule_at {t : Task} {k : CoreCtx} {whole : Bool} {g : Nat} {q : State × Wait} (h : s.dev.phase = p)
    (hq : s.holdGranule t k whole g = some q) : q.1.dev.phase = p := by
  have hf := (startFill_phase s s.cur k g t.tid).trans h
  unfold State.holdGranule at hq
  generalize s.startFill s.cur k g t.tid = r at hf hq
  dsimp only at hq
  split at hq
  · cases hq
  split at hq
  · cases hq
  split at hq
  · cases hq
    exact (shareFill_phase ..).trans h
  split at hq
  · cases hq
    exact h
  split at hq <;> cases hq
  · exact hf
  · exact h

theorem holdFirst_at {t : Task} {k : CoreCtx} {write tagged : Bool} {spans : List (Nat × Nat)} {gs : List Nat} {q : State × Wait}
    (h : s.dev.phase = p) (hq : s.holdFirst t k write tagged spans gs = some q) : q.1.dev.phase = p := by
  unfold State.holdFirst at hq
  split at hq
  · cases hq; exact h
  · obtain ⟨g, -, hg⟩ := List.exists_of_findSome?_eq_some hq
    exact holdGranule_at h hg

theorem access_at (h : s.dev.phase = p) (t : Task) (spans : List (Nat × Nat)) (write tagged : Bool) {f : State → Act}
    (hf : ∀ q, q.dev.phase = p → ActAt p (f q)) : ActAt p (s.access t spans write tagged f) := by
  unfold State.access
  split
  next q hq => exact holdFirst_at h hq
  · exact hf _ h

theorem spawnTo_at (h : s.dev.phase = p) (t : Task) (a : W64) (n : CoreId) : ActAt p (s.spawnTo t a n) := by
  unfold State.spawnTo
  split
  · trivial
  split
  · trivial
  refine access_at h _ _ _ _ fun q hq => ?_
  dsimp only
  split
  · trivial
  split
  · exact hq
  · exact (push_phase ..).trans hq

/-! ## Words (R383) -/

theorem resolve_at {Q : Nat → Prop} (h : s.dev.phase = p) (hQ : ∀ a, Q a) (a : Agent) (space : Nat) (adr : Int) (write : Bool) :
    EndsAt p Q (s.resolve a space adr write) := by
  have hw (va : Nat) : (s.needWalk a va).dev.phase = p := (needWalk_phase ..).trans h
  unfold State.resolve
  dsimp only
  split
  · exact hQ _
  split
  · exact hQ _
  · trivial
  · split
    · split
      · trivial
      · exact hw _
    · exact hw _

theorem recordAddr_at {Q : Nat → Prop} (h : s.dev.phase = p) (hQ : ∀ a, Q a) (n : CoreId) (k : Cmd) (off : Nat) (write : Bool) :
    EndsAt p Q (s.recordAddr n k off write) := by
  unfold State.recordAddr
  dsimp only
  split
  · exact hQ _
  · exact resolve_at h hQ ..

theorem syncRefuses_at {t : Task} {v : W64} {n : Nat} {write : Bool} {a : Act} (h : s.syncRefuses t v n write = some a) : ActAt p a := by
  unfold State.syncRefuses at h
  split at h
  · split at h <;> cases h
    trivial
  split at h
  · cases h; trivial
  split at h
  · split at h <;> cases h
    trivial
  · cases h

section
variable (h : s.dev.phase = p) {f : State → W64 → List Byte → Act} (hf : ∀ q w bs, q.dev.phase = p → ActAt p (f q w bs))
include h

theorem syncWait_at (t : Task) (op : SyncOp) (pa : Nat) : ActAt p (s.syncWait t op pa) := h

theorem carrierWait_at (k : Cmd) (va : Nat) : ActAt p (carrierWait s k va) := h

theorem carrierFault_at (t : Task) (va : Nat) (c : Cause) : ActAt p (s.carrierFault t va c) := by
  unfold State.carrierFault
  have hc := carry_phase s t va
  generalize s.carry t va = q at hc
  obtain ⟨k, q⟩ := q
  exact carrierWait_at ((faultCmd_phase ..).trans (hc.trans h)) ..

theorem syncHold_at (t : Task) (op : SyncOp) (pa : Nat) : ActAt p (s.syncHold t op pa) := by
  unfold State.syncHold
  split <;> exact h

theorem syncSend_at (t : Task) (r : Remote) : ActAt p (s.syncSend t r) := syncHold_at ((syncPacket_phase ..).trans h) ..

include hf

theorem syncHere_at (t : Task) (op : SyncOp) (pa n : Nat) (v arg cmp : W64) : ActAt p (s.syncHere t op pa n v arg cmp f) := by
  have hp := perform_phase s t op pa n arg cmp
  unfold State.syncHere
  dsimp only
  split
  · trivial
  generalize s.perform t op pa n arg cmp = q at hp ⊢
  split
  · exact hf _ _ _ ((countUntethered_phase ..).trans (hp.trans h))
  · trivial
  · exact hp.trans h

theorem syncPost_at (t : Task) (r : Remote) : ActAt p (s.syncPost t r f) := hf _ _ _ ((syncPacket_phase ..).trans h)

theorem syncThere_at (t : Task) (r : Remote) (va n : Nat) (v : W64) : ActAt p (s.syncThere t r va n v f) := by
  have hp := perform_phase s t r.op r.addr n r.arg r.cmp
  unfold State.syncThere
  split
  · exact syncHold_at h ..
  · exact carrierFault_at (by exact h) ..
  · generalize s.perform t r.op r.addr n r.arg r.cmp = q at hp ⊢
    split
    · exact hf _ _ _ ((countUntethered_phase ..).trans ((acknowledge_phase ..).trans (hp.trans h)))
    · trivial
    · exact hp.trans h

theorem syncAway_at (t : Task) (op : SyncOp) (va pa n : Nat) (v arg cmp : W64) : ActAt p (s.syncAway t op va pa n v arg cmp f) := by
  have hc := (carry_phase s t va).trans h
  unfold State.syncAway
  generalize s.carry t va = q at hc ⊢
  obtain ⟨k, q⟩ := q
  dsimp only at hc ⊢
  split
  · split
    · trivial
    split
    · exact syncPost_at hc hf ..
    · exact syncSend_at hc ..
  · split
    · exact hf _ _ _ ((countUntethered_phase ..).trans ((acknowledge_phase ..).trans hc))
    · exact syncThere_at hc hf ..
    · exact (takeTrap_phase ..).trans ((acknowledge_phase ..).trans hc)
    · split
      · exact hc
      · exact syncSend_at hc ..
    · split
      · exact syncHold_at hc ..
      · exact syncSend_at hc ..

theorem syncAt_at (t : Task) (op : SyncOp) (va pa n : Nat) (v arg cmp : W64) : ActAt p (s.syncAt t op va pa n v arg cmp f) := by
  have hd := (dropCarrier_phase s t va).trans h
  unfold State.syncAt
  split
  · split
    · split
      · exact carrierFault_at h ..
      · exact access_at hd _ _ _ _ fun q hq => syncHere_at hq hf ..
    · exact syncHere_at hd hf ..
  split
  · trivial
  · exact syncAway_at h hf ..

theorem syncVirtual_at (t : Task) (op : SyncOp) (va n : Nat) (v arg cmp : W64) : ActAt p (s.syncVirtual t op va n v arg cmp f) := by
  have hc := (carry_phase s t va).trans h
  unfold State.syncVirtual
  extract_lets stopped
  have hstop {q : State} (k : Cmd) (e : Stop) (hq : q.dev.phase = p) (he : EndsAt p (fun _ : Nat => True) (.error e)) : ActAt p (stopped q k e) := by
    cases e with
    | held s' => exact he
    | fault c a => exact (faultCmd_phase ..).trans hq
  clear_value stopped
  split
  next k _ =>
    split
    · exact h
    have hr := recordAddr_at (Q := fun _ => True) h (fun _ => trivial) s.cur k (va % 64) op.writes
    split
    · exact syncAt_at h hf ..
    next e he =>
      rw [he] at hr
      exact hstop _ _ h hr
  · split
    · exact syncAt_at h hf ..
    · exact carrierFault_at h ..
    · generalize s.carry t va = q at hc ⊢
      obtain ⟨k, q⟩ := q
      dsimp only at hc ⊢
      have hr := resolve_at (Q := fun _ => True) hc (fun _ => trivial) (k.agent q.cur) 0 va op.writes
      split
      next e he =>
        rw [he] at hr
        exact hstop _ _ hc hr
      · exact hc

/-- A synchronising step keeps the phase if what follows it does. -/
theorem sync_at (t : Task) (op : SyncOp) (v : W64) (n : Nat) (arg cmp : W64) : ActAt p (s.sync t op v n arg cmp f) := by
  unfold State.sync
  split
  · split
    · trivial
    · exact access_at h _ _ _ _ fun q hq => syncHere_at hq hf ..
  · dsimp only
    split
    · trivial
    · exact syncVirtual_at ((adopt_phase ..).trans h) hf ..

end

/-! ## Joins and task ends -/

theorem joinAt_at (h : s.dev.phase = p) (t : Task) (a : W64) {f : State → W64 → Act} (hf : ∀ q w, q.dev.phase = p → ActAt p (f q w)) :
    ActAt p (s.joinAt t a f) := by
  unfold State.joinAt
  split
  next act ha => exact syncRefuses_at ha
  split
  · exact h
  · refine sync_at h (fun q w bs hq => hf _ _ ?_) ..
    split
    · exact (pushJoined_phase ..).trans hq
    · exact hq

theorem tend_at (h : s.dev.phase = p) (t : Task) {f : (State → Act) → State → Act}
    (hf : ∀ g q, (∀ r, r.dev.phase = p → ActAt p (g r)) → q.dev.phase = p → ActAt p (f g q)) : ActAt p (s.tend t f) := by
  unfold State.tend
  split
  · trivial
  split
  · exact h
  · exact hf _ _ (fun r hr => (endTask_phase ..).trans hr) h

end

/-! ## Instructions of a slot -/

section
variable {s : State}

theorem issue_at {f : Task → Act} (hf : ∀ t, ActAt s.dev.phase (f t)) : OutAt s.dev.phase (issue s f) := by
  unfold issue
  split
  · exact outAt_fault _
  · rw [outAt_next]
    exact settle_phase rfl (hf _) _

theorem onTask_at (f : Task → Task) : OutAt s.dev.phase (onTask s f) := issue_at fun _ => rfl

theorem supervised_at {f : Task → Act} (hf : ∀ t, ActAt s.dev.phase (f t)) : OutAt s.dev.phase (supervised f s) := by
  refine issue_at fun t => ?_
  split
  · exact hf t
  · trivial

theorem onUnit_at {f : Task → Act} (hf : ∀ t, ActAt s.dev.phase (f t)) : OutAt s.dev.phase (onUnit f s) := by
  refine issue_at fun t => ?_
  split
  · exact hf t
  · trivial

end

end Sys2Proof.Proofs
end

section
namespace Sys2Proof.Proofs
open Machine Laws

@[simp] theorem modUnit_phase (s : State) (n : CoreId) (f : MatUnit → MatUnit) : (s.modUnit n f).dev.phase = s.dev.phase := rfl

@[simp] theorem storeUnits_phase (s : State) (t : Task) (u : Nat) (l : List (Option Nat × List Byte)) :
    (s.storeUnits t u l).dev.phase = s.dev.phase := by
  induction l generalizing s with
  | nil => rfl
  | cons x l ih =>
    obtain ⟨_ | a, bs⟩ := x
    · exact ih s
    · exact (ih _).trans (loftWrite_phase ..)

@[simp] theorem setTag_phase (s : State) (t : Task) (a : Nat) (v : Bool) : (s.setTag t a v).dev.phase = s.dev.phase := rfl

@[simp] theorem takeWord_phase (s : State) (t : Task) (d : SReg) (o : Nat) : (s.takeWord t d o).dev.phase = s.dev.phase := rfl

@[simp] theorem putWord_phase (s : State) (t : Task) (d : SReg) (o : Nat) : (s.putWord t d o).dev.phase = s.dev.phase := rfl

@[simp] theorem arrivals_phase (s : State) (n : CoreId) (uid : Nat) (bytes : List Nat) : (s.arrivals n uid bytes).dev.phase = s.dev.phase := by
  unfold State.arrivals
  split
  · rfl
  · exact (modCmd_phase ..).trans (foldl_phase _ _ fun _ _ => arrival_phase ..)

@[simp] theorem completeCmd_phase (s : State) (n : CoreId) (uid : Nat) : (s.completeCmd n uid).dev.phase = s.dev.phase := by
  unfold State.completeCmd
  simp

theorem barrierReady_at {p : W64} {Q : State → Prop} {s : State} (h : s.dev.phase = p) (hQ : ∀ q, q.dev.phase = p → Q q) (n : CoreId) (k : Cmd) :
    EndsAt p Q (s.barrierReady n k) := by
  unfold State.barrierReady
  split
  · exact hQ s h
  dsimp only
  split
  · exact loftReady_at h hQ ..
  split
  · exact hQ s h
  · exact h

theorem arriveOwed_at {p : W64} {Q : State → Prop} {s : State} (h : s.dev.phase = p) (hQ : ∀ q, q.dev.phase = p → Q q) (n : CoreId) (uid : Nat) :
    EndsAt p Q (s.arriveOwed n uid) := by
  unfold State.arriveOwed
  split
  · exact hQ s h
  split
  · exact hQ s h
  rw [endsAt_bind]
  refine barrierReady_at h (fun q hq => ?_) ..
  split
  · trivial
  · exact hQ _ ((arrivals_phase ..).trans hq)

theorem arriveFaulted_at {p : W64} {Q : State → Prop} {s : State} (h : s.dev.phase = p) (hQ : ∀ q, q.dev.phase = p → Q q) (n : CoreId) (uid : Nat) :
    EndsAt p Q (s.arriveFaulted n uid) := by
  unfold State.arriveFaulted
  split
  · exact h
  · exact arriveOwed_at h hQ n uid

@[simp] theorem arriveNow_phase (s : State) (n : CoreId) (uid : Nat) : (s.arriveNow n uid).dev.phase = s.dev.phase := by
  have h := arriveOwed_at (Q := fun q => q.dev.phase = s.dev.phase) rfl (fun _ hq => hq) n uid
  unfold State.arriveNow
  split
  next q hq =>
    rw [hq] at h
    exact h
  · rfl

@[simp] theorem giveSlots_phase (s : State) (j : Job1) (next : Nat) : (s.giveSlots j next).dev.phase = s.dev.phase := by
  unfold State.giveSlots
  dsimp only
  repeat' split
  all_goals simp

@[simp] theorem unitDone_phase (s : State) (n : CoreId) (uid : Nat) : (s.unitDone n uid).dev.phase = s.dev.phase := by
  unfold State.unitDone
  dsimp only
  repeat' split
  all_goals simp

@[simp] theorem countEarly_phase (s : State) (n : CoreId) (uid : Nat) (e : Nat × Nat × List Nat) :
    (s.countEarly n uid e).dev.phase = s.dev.phase := by
  unfold State.countEarly
  simp

@[simp] theorem readBeat_phase (s : State) (pa : Nat) : (s.readBeat pa).dev.phase = s.dev.phase := by
  unfold State.readBeat
  split <;> rfl

@[simp] theorem charge_phase (s : State) (n : CoreId) (x : BitVec 16) (i : Fin 8) (amount tenths : Nat) :
    (s.charge n x i amount tenths).dev.phase = s.dev.phase := rfl

@[simp] theorem chargeDram_phase (s : State) (n : CoreId) (x : BitVec 16) (bytes : Nat) : (s.chargeDram n x bytes).dev.phase = s.dev.phase := rfl

@[simp] theorem putRow_phase (s : State) (n : CoreId) (a : Nat) (bs : List Byte) (w4 : Bool) (e : Int) (soils : Bool) :
    (s.putRow n a bs w4 e soils).dev.phase = s.dev.phase := rfl

@[simp] theorem performRows_phase (s : State) (j : Job1) (w4 : Bool) (e : Int) (l : List (Dest × List (Nat × Byte))) (sent : Nat) :
    (s.performRows j w4 e l sent).1.dev.phase = s.dev.phase := by
  induction l generalizing s sent with
  | nil => rfl
  | cons x l ih =>
    obtain ⟨o | pa | pa, cells⟩ := x
    · exact ih ..
    · exact (ih ..).trans (putRow_phase ..)
    · exact (ih ..).trans (sendPacket_phase ..)

@[simp] theorem chargeCopy_phase (s : State) (n : CoreId) (x : BitVec 16) (isLocal : Bool) (bytes : Nat) :
    (s.chargeCopy n x isLocal bytes).dev.phase = s.dev.phase := by
  unfold State.chargeCopy
  split <;> rfl

@[simp] theorem cmdFlags_phase (s : State) (n : CoreId) (k : Cmd) (bits : BitVec 6) : (s.cmdFlags n k bits).dev.phase = s.dev.phase := rfl

@[simp] theorem putLoft_phase (s : State) (a : Agent) (tags : Bool) (o : Nat) (cells : List (Nat × Byte)) :
    (s.putLoft a tags o cells).dev.phase = s.dev.phase := rfl

@[simp] theorem putDest_phase (s : State) (j : Job1) (cs : List (Nat × Byte)) (y3 : Dest) : (s.putDest j cs y3).dev.phase = s.dev.phase := by
  unfold State.putDest
  split <;> simp

@[simp] theorem performGranule_phase (s : State) (j : Job1) (far : Bool) (g : Granule) (seq : Nat) :
    (s.performGranule j far g seq).1.dev.phase = s.dev.phase := by
  unfold State.performGranule
  repeat' split
  all_goals simp

@[simp] theorem performAll_phase (s : State) (j : Job1) (far : Bool) (gs : List Granule) (sent : Nat) :
    (s.performAll j far gs sent).1.dev.phase = s.dev.phase := by
  induction gs generalizing s sent with
  | nil => rfl
  | cons g gs ih => exact (ih ..).trans (performGranule_phase ..)

@[simp] theorem failCheck_phase (s : State) (n : CoreId) (uid : Nat) (c : Cause) : (s.failCheck n uid c).dev.phase = s.dev.phase := by
  unfold State.failCheck
  simp

@[simp] theorem resumeCmd_phase (s : State) (n : CoreId) (k : Cmd) (image : Option (List Byte)) :
    (s.resumeCmd n k image).dev.phase = s.dev.phase := by
  unfold State.resumeCmd
  dsimp only
  split <;> simp

@[simp] theorem abortCmd_phase (s : State) (n : CoreId) (uid : Nat) : (s.abortCmd n uid).dev.phase = s.dev.phase := by
  unfold State.abortCmd
  exact foldl_phase _ _ fun s u => (completeCmd_phase ..).trans (withdraw_phase ..)

end Sys2Proof.Proofs
end

section
namespace Sys2Proof.Proofs
open Machine Laws

/-! ## Units delivered -/

section
variable {α β : Type} {p : W64} {s : State}

theorem endsAt_foldlM {f : State → α → Except Stop State} {Q : State → Prop} (hf : ∀ q a, q.dev.phase = p → EndsAt p (·.dev.phase = p) (f q a))
    (hQ : ∀ q, q.dev.phase = p → Q q) (l : List α) (h : s.dev.phase = p) : EndsAt p Q (l.foldlM f s) := by
  induction l generalizing s with
  | nil => exact hQ s h
  | cons a l ih =>
    rw [List.foldlM_cons, endsAt_bind]
    exact (hf s a h).imp fun q hq => ih hq

theorem endsAt_mapM {f : α → Except Stop β} {Q : List β → Prop} (hf : ∀ a, EndsAt p (fun _ => True) (f a)) (hQ : ∀ l, Q l) (l : List α) :
    EndsAt p Q (l.mapM f) := by
  induction l generalizing Q with
  | nil => exact hQ []
  | cons a l ih =>
    rw [List.mapM_cons, endsAt_bind]
    refine (hf a).imp fun b _ => ?_
    rw [endsAt_bind]
    exact ih fun l => hQ (b :: l)

theorem claimSlot_at {Q : State × Nat → Prop} (h : s.dev.phase = p) (hQ : ∀ q k, q.dev.phase = p → Q (q, k)) (a : Agent) (i : Fin 16) (write : Bool) :
    EndsAt p Q (s.claimSlot a i write) := by
  unfold State.claimSlot
  dsimp only
  split
  · exact hQ _ _ h
  · exact h

theorem takeSlots_at {Q : State → Prop} (h : s.dev.phase = p) (hQ : ∀ q, q.dev.phase = p → Q q) (j : Job1) : EndsAt p Q (s.takeSlots j) := by
  have hdst {q : State} (hq : q.dev.phase = p) : EndsAt p Q (match j.dst.ring, j.cmd.dstSlot with
      | some i, none => do
        let (s, k) ← q.claimSlot j.agent i true
        .ok (s.modCmd j.agent.core j.cmd.uid fun c => { c with dstSlot := some k })
      | _, _ => .ok q) := by
    split
    · rw [endsAt_bind]
      exact claimSlot_at hq (fun r k hr => hQ _ ((modCmd_phase ..).trans hr)) ..
    · exact hQ q hq
  unfold State.takeSlots
  rw [endsAt_bind]
  refine EndsAt.imp (Q := fun q : State => q.dev.phase = p) ?_ fun q hq => hdst hq
  split
  · rw [endsAt_bind]
    exact claimSlot_at h (fun q k hq => (modCmd_phase ..).trans hq) ..
  · exact h

theorem destUnit_at {Q : Option Int → Prop} (hQ : ∀ a, Q a) (k : CoreCtx) (x : Side) (slot : Option Nat) (adr : Int) (len : Nat) :
    EndsAt p Q (destUnit k x slot adr len) := by
  unfold destUnit
  split
  · dsimp only
    split
    · trivial
    · exact hQ _
  · dsimp only
    split
    · trivial
    split
    · exact hQ _
    · exact hQ _

theorem tagsReady_at {Q : Unit → Prop} (h : s.dev.phase = p) (hQ : Q ()) (a : Agent) (m : CoreId) (base o : Nat) (l : List Nat) :
    EndsAt p Q (s.tagsReady a m base o l) := by
  induction l with
  | nil => exact hQ
  | cons i is ih =>
    unfold State.tagsReady
    dsimp only
    split
    · exact ih
    · exact h

theorem takeTags_at {Q : State → Prop} (h : s.dev.phase = p) (hQ : ∀ q, q.dev.phase = p → Q q) (a : Agent) (r : TagRead) (m : CoreId) (base o : Nat)
    (adr : Int) (len : Nat) : EndsAt p Q (s.takeTags a r m base o adr len) := by
  unfold State.takeTags
  split
  · exact hQ s h
  rw [endsAt_bind]
  refine tagsReady_at h ?_ ..
  exact hQ _ h

theorem readLoft_at {Q : State × List Byte → Prop} (h : s.dev.phase = p) (hQ : ∀ q bs, q.dev.phase = p → Q (q, bs)) (a : Agent) (r : TagRead) (adr : Int)
    (len : Nat) : EndsAt p Q (s.readLoft a r adr len) := by
  unfold State.readLoft
  dsimp only
  split
  · trivial
  rw [endsAt_bind]
  refine endsAt_foldlM (fun q g hq => loftReady_at hq (fun _ h => h) ..) (fun q hq => ?_) _ h
  rw [endsAt_bind]
  exact takeTags_at hq (fun r hr => hQ _ _ hr) ..

theorem physReady_at {Q : Unit → Prop} (h : s.dev.phase = p) (hQ : Q ()) (a : Agent) (pa len : Nat) (write : Bool) (adr : Int) :
    EndsAt p Q (s.physReady a pa len write adr) := by
  unfold State.physReady
  split
  · trivial
  · exact h
  split
  · exact h
  split
  · split
    · exact h
    · exact hQ
  · exact hQ

theorem readPhys_at {Q : State × List Byte → Prop} (h : s.dev.phase = p) (hQ : ∀ q bs, q.dev.phase = p → Q (q, bs)) (a : Agent) (space : Nat)
    (covers : Int → Bool) (t : TagRead) (l : List (Int × Nat)) : EndsAt p Q (s.readPhys a space covers t l) := by
  induction l generalizing s Q with
  | nil => exact hQ s [] h
  | cons x l ih =>
    obtain ⟨adr, len⟩ := x
    have hrest {q : State} (bs : List Byte) (hq : q.dev.phase = p) :
        EndsAt p Q (do let (s, rest) ← q.readPhys a space covers t l; return (s, bs ++ rest)) := by
      rw [endsAt_bind]
      exact ih hq fun r rest hr => hQ _ _ hr
    unfold State.readPhys
    rw [endsAt_bind]
    refine resolve_at h (fun pa => ?_) ..
    dsimp only
    rw [endsAt_bind]
    refine physReady_at h ?_ ..
    rw [endsAt_bind]
    split
    · split
      · exact takeTags_at h (fun q hq => hrest _ hq) ..
      · exact hrest _ h
    · exact hrest _ ((readBeat_phase ..).trans h)

theorem readUnit_at {Q : State × Option (List Byte) → Prop} (h : s.dev.phase = p) (hQ : ∀ q bs, q.dev.phase = p → Q (q, bs)) (a : Agent) (x : Side)
    (covers : Int → Bool) (t : TagRead) (adr : Int) (len : Nat) : EndsAt p Q (s.readUnit a x covers t adr len) := by
  unfold State.readUnit
  dsimp only
  split
  · trivial
  split
  · exact hQ _ _ h
  split
  · rw [endsAt_bind]
    exact readLoft_at h (fun q bs hq => hQ _ _ hq) ..
  · rw [endsAt_bind]
    exact readPhys_at h (fun q bs hq => hQ _ _ ((chargeDram_phase ..).trans hq)) ..

theorem sourceUnit_at {Q : State × List Byte × Bool → Prop} (h : s.dev.phase = p) (hQ : ∀ q bs c, q.dev.phase = p → Q (q, bs, c)) (j : Job1) (u : Nat)
    (fill : List Byte) : EndsAt p Q (s.sourceUnit j u fill) := by
  unfold State.sourceUnit
  split
  · exact hQ _ _ _ h
  split
  · exact hQ _ _ _ h
  have hread (x : Side) (w : Nat) (covers : Int → Bool) (t : TagRead) (a : Int) :
      EndsAt p Q (do let (s, bs) ← s.readUnit j.agent x covers t a w; .ok (s, bs.getD (zeroBytes w), bs.isNone)) := by
    rw [endsAt_bind]
    exact readUnit_at h (fun q bs hq => hQ _ _ _ hq) ..
  dsimp only
  rw [endsAt_bind]
  refine EndsAt.imp (Q := fun _ => True) ?_ fun _ _ => hread ..
  split
  · exact destUnit_at (fun _ => trivial) ..
  · trivial

end

end Sys2Proof.Proofs
end

section
namespace Sys2Proof.Proofs
open Machine Laws

/-! ## Conversion units in a phase -/

section
variable {p : W64} {s : State}

theorem weightsOf_at {Q : State × List Weight × Nat × Cond × Bool → Prop} (h : s.dev.phase = p) (hQ : ∀ q x, q.dev.phase = p → Q (q, x)) (j : Job1)
    (u prev : Nat) : EndsAt p Q (s.weightsOf j u prev) := by
  unfold State.weightsOf
  dsimp only
  split
  · rw [endsAt_bind]
    exact sourceUnit_at h (fun q bs c hq => hQ _ _ hq) ..
  split
  · exact hQ _ _ h
  rw [endsAt_bind]
  refine sourceUnit_at h (fun q bs c hq => ?_) ..
  dsimp only
  split
  · trivial
  split
  · exact hQ _ _ hq
  · split
    · trivial
    · exact hQ _ _ hq
  · split
    · trivial
    · exact hQ _ _ hq
  · split
    · trivial
    · exact hQ _ _ hq
  · trivial

theorem gatherWeights_at {Q : State × Gathered → Prop} (h : s.dev.phase = p) (hQ : ∀ q k, q.dev.phase = p → Q (q, k)) (j : Job1) (need : Nat)
    (k : Gathered) (n : Nat) : EndsAt p Q (s.gatherWeights j need k n) := by
  induction n generalizing s k with
  | zero => exact hQ _ _ h
  | succ n ih =>
    unfold State.gatherWeights
    split
    · exact hQ _ _ h
    dsimp only
    rw [endsAt_bind]
    exact weightsOf_at h (fun q x hq => ih hq ..) ..

theorem weightUnit_at {Q : State × UnitOut → Prop} (h : s.dev.phase = p) (hQ : ∀ q o, q.dev.phase = p → Q (q, o)) (j : Job1) :
    EndsAt p Q (s.weightUnit j) := by
  unfold State.weightUnit
  extract_lets mc8 per width
  rw [endsAt_bind]
  refine gatherWeights_at h (fun q k hq => ?_) ..
  dsimp only
  clear_value per
  split
  · exact hQ _ _ hq
  rw [endsAt_bind]
  exact endsAt_mapM (fun _ => destUnit_at (fun _ => trivial) ..) (fun _ => hQ _ _ hq) _

theorem blockRead_at {Q : State × BlockRead → Prop} (h : s.dev.phase = p) (hQ : ∀ q b, q.dev.phase = p → Q (q, b)) (j : Job1) (u prev : Nat)
    (hand : Option (List Byte)) : EndsAt p Q (s.blockRead j u prev hand) := by
  unfold State.blockRead
  split
  · exact hQ _ _ h
  rw [endsAt_bind]
  refine EndsAt.imp (Q := fun x : State × List Byte × Bool => x.1.dev.phase = p) ?_ fun x hx => ?_
  · split
    · exact h
    · exact sourceUnit_at h (fun q bs c hq => hq) ..
  dsimp only
  split
  · trivial
  · exact hQ _ _ hx

theorem decodeRun_at {Q : State × UnitOut → Prop} (h : s.dev.phase = p) (hQ : ∀ q o, q.dev.phase = p → Q (q, o)) (j : Job1) (u skip off prev : Nat)
    (hand : Option (List Byte)) (g : Option Int) (out : UnitOut) (n : Nat) : EndsAt p Q (s.decodeRun j u skip off prev hand g out n) := by
  induction n generalizing s u skip off prev hand g out with
  | zero => exact hQ _ _ h
  | succ n ih =>
    have hread (off prev : Nat) (here start : Int) (out : UnitOut) : EndsAt p Q (do
        let (s, b) ← s.blockRead j u prev hand
        let vs := b.values
        let spots := (List.range (vs.length - skip)).map fun i => start + ((off + i) * j.dst.unit : Nat)
        let spots := spots.takeWhile fun a => a / 64 == here / 64
        let off := off + spots.length
        match j.rowBound with
        | some most => if most < off * j.dst.unit then throw (.fault 0x0F here)
        | none => pure ()
        let tos ← spots.mapM fun a => destUnit j.ctx j.dst j.cmd.dstSlot a j.dst.unit
        let out := out.addDecoded j b.clamped ((vs.drop skip).zip tos)
        if skip + spots.length < vs.length then
          return (s, { out with next := u, skip := skip + spots.length, rowElems := off, prevCount := prev, hand := some b.bytes })
        else
          s.decodeRun j (u + 1) 0 off vs.length none (some (here / 64))
            { out with next := u + 1, skip := 0, rowElems := off, prevCount := vs.length, hand := none } n) := by
      rw [endsAt_bind]
      refine blockRead_at h (fun q b hq => ?_) ..
      dsimp only
      have hput (spots : List Int) (off : Nat) : EndsAt p Q (do
          let tos ← spots.mapM fun a => destUnit j.ctx j.dst j.cmd.dstSlot a j.dst.unit
          let out := out.addDecoded j b.clamped ((b.values.drop skip).zip tos)
          if skip + spots.length < b.values.length then
            return (q, { out with next := u, skip := skip + spots.length, rowElems := off, prevCount := prev, hand := some b.bytes })
          else
            q.decodeRun j (u + 1) 0 off b.values.length none (some (here / 64))
              { out with next := u + 1, skip := 0, rowElems := off, prevCount := b.values.length, hand := none } n) := by
        rw [endsAt_bind]
        refine endsAt_mapM (fun _ => destUnit_at (fun _ => trivial) ..) (fun tos => ?_) _
        dsimp only
        split
        · exact hQ _ _ hq
        · exact ih hq ..
      split
      · split
        · trivial
        · exact hput ..
      · exact hput ..
    unfold State.decodeRun
    extract_lets w first off' prev'
    clear_value off' prev'
    dsimp only
    split
    · split
      · exact hQ _ _ h
      · exact hread ..
    · exact hread ..

theorem quantValues_at {Q : State × List (Ex × Bool × Bool) → Prop} (h : s.dev.phase = p) (hQ : ∀ q l, q.dev.phase = p → Q (q, l)) (j : Job1)
    (u n : Nat) : EndsAt p Q (s.quantValues j u n) := by
  induction n generalizing s u Q with
  | zero => exact hQ _ _ h
  | succ n ih =>
    unfold State.quantValues
    dsimp only
    rw [endsAt_bind]
    refine sourceUnit_at h (fun q bs c hq => ?_) ..
    dsimp only
    rw [endsAt_bind]
    refine ih hq ?_ _
    exact fun r l hr => hQ _ _ hr

theorem quantUnit_at {Q : State × UnitOut → Prop} (h : s.dev.phase = p) (hQ : ∀ q o, q.dev.phase = p → Q (q, o)) (j : Job1) :
    EndsAt p Q (s.quantUnit j) := by
  unfold State.quantUnit
  dsimp only
  rw [endsAt_bind]
  refine quantValues_at h (fun q l hq => ?_) ..
  dsimp only
  rw [endsAt_bind]
  exact destUnit_at (fun _ => hQ _ _ hq) ..

theorem plainRun_at {Q : State × UnitOut → Prop} (h : s.dev.phase = p) (hQ : ∀ q o, q.dev.phase = p → Q (q, o)) (j : Job1) (u : Nat) (g : Option Int)
    (out : UnitOut) (n : Nat) : EndsAt p Q (s.plainRun j u g out n) := by
  induction n generalizing s u g out with
  | zero => exact hQ _ _ h
  | succ n ih =>
    have hread (g : Option Int) (fill : List Byte) (here : Option Int) (blk : Prop) [Decidable blk] : EndsAt p Q (
        match here with
        | none => s.plainRun j (u + 1) g { out with next := u + 1 } n
        | some a => do
          let (s, bs, cl) ← s.sourceUnit j u fill
          if blk then
            if (j.srcAt u).isSome ∧ blkMalformed bs = true ∧ cl = false then throw (.fault 0x05 ((j.srcAt u).getD 0))
            let to_ ← destUnit j.ctx j.dst j.cmd.dstSlot a j.dst.unit
            let fl : Cond := { flush := (j.srcAt u).isNone && (fillEx j.src).2 }
            let out := { out with next := u + 1, flags := out.flags ||| flagBits fl (cl || to_.isNone) }
            s.plainRun j (u + 1) g { out with runs := out.runs ++ (to_.map fun x => (x, bs)).toList } n
          else
            let to_ ← destUnit j.ctx j.dst j.cmd.dstSlot a j.dst.unit
            let (v, c) := convElem (elemTy j.src.ef) (elemTy j.dst.ef) .rne (leNat bs)
            let (pv, fl) := if j.cmd.red then redSource j.dst.ef v else (v, false)
            let c := c.or { flush := fl }
            let out := { out with next := u + 1, flags := out.flags ||| flagBits c (cl || to_.isNone) }
            let out := match to_ with
              | none => out
              | some x => if j.cmd.red then { out with parts := out.parts ++ [(x, pv)] }
                          else { out with runs := out.runs ++ [(x, leBytes j.dst.unit v)] }
            s.plainRun j (u + 1) g out n) := by
      cases here with
      | none => exact ih h ..
      | some a =>
        dsimp only
        rw [endsAt_bind]
        refine sourceUnit_at h (fun q bs c hq => ?_) ..
        dsimp only
        split
        · split
          · trivial
          rw [endsAt_bind]
          exact destUnit_at (fun _ => ih hq ..) ..
        · rw [endsAt_bind]
          exact destUnit_at (fun _ => ih hq ..) ..
    unfold State.plainRun
    dsimp only
    split
    · split
      · exact hQ _ _ h
      · exact hread ..
    · split
      · exact hQ _ _ h
      · exact hread ..
    · exact hread ..

theorem nextUnit_at {Q : State × UnitOut → Prop} (h : s.dev.phase = p) (hQ : ∀ q o, q.dev.phase = p → Q (q, o)) (j : Job1) :
    EndsAt p Q (s.nextUnit j) := by
  unfold State.nextUnit
  split
  · exact weightUnit_at h hQ j
  split
  · exact decodeRun_at h hQ ..
  split
  · exact quantUnit_at h hQ j
  · exact plainRun_at h hQ ..

theorem destReady_at {Q : State × Dest → Prop} (h : s.dev.phase = p) (hQ : ∀ q d, q.dev.phase = p → Q (q, d)) (a : Agent) (space : Nat) (red : Bool)
    (g : Int) (os : List Nat) : EndsAt p Q (s.destReady a space red g os) := by
  unfold State.destReady
  dsimp only
  split
  · split
    · trivial
    rw [endsAt_bind]
    exact loftReady_at h (fun q hq => hQ _ _ hq) ..
  rw [endsAt_bind]
  refine resolve_at h (fun pa => ?_) ..
  have hwrite (x y : Nat) (z : Int) : EndsAt p Q (do
      s.physReady a x y true z
      .ok (s, if localTo a.core pa then .near pa else .far pa)) := by
    rw [endsAt_bind]
    exact physReady_at h (hQ _ _ h) ..
  split
  · rw [endsAt_bind]
    exact physReady_at h (hwrite ..) ..
  · exact hwrite ..

theorem destsReady_at {Q : State × List (Dest × Option Dest) → Prop} (h : s.dev.phase = p) (hQ : ∀ q l, q.dev.phase = p → Q (q, l)) (j : Job1)
    (space : Nat) (l : List (Int × List (Nat × Byte))) : EndsAt p Q (s.destsReady j space l) := by
  induction l generalizing s Q with
  | nil => exact hQ _ _ h
  | cons x l ih =>
    obtain ⟨g, cells⟩ := x
    unfold State.destsReady
    dsimp only
    rw [endsAt_bind]
    refine destReady_at h (fun q d hq => ?_) ..
    dsimp only
    rw [endsAt_bind]
    refine EndsAt.imp (Q := fun x : State × Option Dest => x.1.dev.phase = p) ?_ fun x hx => ?_
    · split
      · exact hq
      · rw [endsAt_map]
        exact destReady_at hq (fun _ _ hr => hr) ..
    rw [endsAt_bind]
    exact ih hx fun r ds hr => hQ _ _ hr

theorem deliverOut_at {Q : State × Delivered → Prop} (h : s.dev.phase = p) (hQ : ∀ q d, q.dev.phase = p → Q (q, d)) (j : Job1) (out : UnitOut) :
    EndsAt p Q (s.deliverOut j out) := by
  unfold State.deliverOut
  dsimp only
  rw [endsAt_bind]
  refine destsReady_at h (fun q ds hq => ?_) ..
  dsimp only
  cases out.group with
  | none => exact hQ _ _ ((performAll_phase ..).trans hq)
  | some g =>
    refine hQ _ _ ?_
    rw [apply_ite fun q : State => q.dev.phase]
    simp only [chargeCopy_phase, performRows_phase, hq, ite_self]

theorem deliverClaimed_at {Q : State → Prop} (h : s.dev.phase = p) (hQ : ∀ q, q.dev.phase = p → Q q) (n : CoreId) (uid : Nat) :
    EndsAt p Q (s.deliverClaimed n uid) := by
  unfold State.deliverClaimed
  split
  · exact hQ s h
  dsimp only
  split
  · trivial
  rw [endsAt_bind]
  refine nextUnit_at h (fun q out hq => ?_) ..
  dsimp only
  rw [endsAt_bind]
  refine deliverOut_at hq (fun r d hr => ?_) ..
  dsimp only
  refine hQ _ ?_
  split
  · exact (arriveNow_phase ..).trans ((unitDone_phase ..).trans ((modCmd_phase ..).trans ((cmdFlags_phase ..).trans hr)))
  · exact (modCmd_phase ..).trans ((cmdFlags_phase ..).trans hr)

/-- What an attempt that was held leaves is in the phase of the attempt. -/
@[simp] theorem begun_phase (s s' : State) (n : CoreId) (uid : Nat) : (s.begun s' n uid).dev.phase = s.dev.phase :=
  (modCmd_phase ..).trans (foldl_phase _ _ fun _ _ => rfl)

theorem deliverUnit_at {Q : State → Prop} (h : s.dev.phase = p) (hQ : ∀ q, q.dev.phase = p → Q q) (n : CoreId) (uid : Nat) :
    EndsAt p Q (s.deliverUnit n uid) := by
  unfold State.deliverUnit
  split
  · exact hQ s h
  rw [endsAt_bind]
  refine takeSlots_at h (fun q hq => ?_) _
  have hclaim := deliverClaimed_at hq hQ n uid
  split
  · exact (begun_phase ..).trans hq
  · exact hclaim

theorem stampCmd_at {Q : State → Prop} (h : s.dev.phase = p) (hQ : ∀ q, q.dev.phase = p → Q q) (n : CoreId) (c : Cmd) : EndsAt p Q (s.stampCmd n c) := by
  unfold State.stampCmd
  split
  · exact hQ _ ((completeCmd_phase ..).trans h)
  dsimp only
  rw [endsAt_bind]
  refine resolve_at h (fun pa => ?_) ..
  rw [endsAt_bind]
  refine physReady_at h ?_ ..
  split
  · exact hQ _ ((completeCmd_phase ..).trans ((chargeDram_phase ..).trans ((physPut_phase ..).trans h)))
  · exact hQ _ ((modCmd_phase ..).trans ((sendPacket_phase ..).trans h))

theorem stepCmd_at {Q : State → Prop} (h : s.dev.phase = p) (hQ : ∀ q, q.dev.phase = p → Q q) (n : CoreId) (c : Cmd) : EndsAt p Q (s.stepCmd n c) := by
  unfold State.stepCmd
  dsimp only
  split
  · exact h
  split
  · exact arriveFaulted_at h hQ ..
  split
  · exact hQ _ ((completeCmd_phase ..).trans h)
  split
  · exact arriveOwed_at h hQ ..
  split
  · split
    · exact hQ _ ((countEarly_phase ..).trans h)
    · exact deliverUnit_at h hQ ..
  · exact stampCmd_at h hQ ..

end

end Sys2Proof.Proofs
end

section
namespace Sys2Proof.Proofs
open Machine Laws

/-! ## Cores, commands and tasks in a phase -/

/-- The machine, if there is one, is in phase `p`. -/
def SomeAt (p : W64) : Option State → Prop
  | some s => s.dev.phase = p
  | none => True

@[simp] theorem someAt_some {p : W64} {s : State} : SomeAt p (some s) ↔ s.dev.phase = p := .rfl
@[simp] theorem someAt_none {p : W64} : SomeAt p none ↔ True := .rfl

theorem SomeAt.getD {p : W64} {o : Option State} {s : State} (h : SomeAt p o) (hs : s.dev.phase = p) : (o.getD s).dev.phase = p := by
  cases o with
  | none => exact hs
  | some q => exact h

theorem EndsAt.of_ok {α : Type} {p : W64} {Q : α → Prop} {x : Except Stop α} {a : α} (h : EndsAt p Q x) (hx : x = .ok a) : Q a := by
  rw [hx] at h
  exact h

theorem EndsAt.of_held {α : Type} {p : W64} {Q : α → Prop} {x : Except Stop α} {s : State} (h : EndsAt p Q x) (hx : x = .error (.held s)) :
    s.dev.phase = p := by
  rw [hx] at h
  exact h

@[simp] theorem freeSlot_phase (s : State) (n : CoreId) : (s.freeSlot n).2.dev.phase = s.dev.phase := rfl

@[simp] theorem writeSlot_phase (s : State) (base : Nat) (rs : List (Nat × Nat × Mem)) : (s.writeSlot base rs).dev.phase = s.dev.phase := rfl

@[simp] theorem assignPartition_phase (s : State) (n : CoreId) (x : BitVec 16) : (s.assignPartition n x).dev.phase = s.dev.phase := by
  unfold State.assignPartition
  dsimp only
  split <;> rfl

@[simp] theorem freshTid_phase (s : State) : s.freshTid.2.dev.phase = s.dev.phase := congrArg (·.phase) (freshTid_changed s 0).dev

@[simp] theorem startImage_phase (s : State) (n : CoreId) (x : BitVec 16) (code : Nat) : (s.startImage n x code).2.dev.phase = s.dev.phase :=
  congrArg (·.phase) (startImage_changed s n x code).dev

@[simp] theorem place_phase (s : State) (n : CoreId) (b : Fin 4) (r : QRec) (c : Coord) : (s.place n b r c).dev.phase = s.dev.phase := by
  obtain ⟨tid, ceil, img, h⟩ := place_spec s n b r c
  exact congrArg (·.phase) h.dev

@[simp] theorem unqueue_phase (s : State) (n : CoreId) (r : QRec) : (s.unqueue n r).dev.phase = s.dev.phase := rfl

@[simp] theorem reserve_phase (s : State) (n : CoreId) (r : QRec) (grid : Option (Fin 64)) (gidx : BitVec 24) :
    (s.reserve n r grid gidx).dev.phase = s.dev.phase := by
  unfold State.reserve
  split <;> rfl

@[simp] theorem openGridEntry_phase (s : State) (n : CoreId) (r : QRec) : (s.openGridEntry n r).dev.phase = s.dev.phase := rfl

@[simp] theorem takeCand_phase (s : State) (n : CoreId) (c : Cand) : (s.takeCand n c).dev.phase = s.dev.phase := by
  unfold State.takeCand
  split
  · split
    · exact (place_phase ..).trans (unqueue_phase ..)
    · rfl
  · exact reserve_phase ..
  · exact openGridEntry_phase ..
  · split
    · exact place_phase ..
    · rfl

theorem takePromised_at {s : State} {p : W64} (h : s.dev.phase = p) (n : CoreId) : SomeAt p (s.takePromised n) := by
  unfold State.takePromised
  extract_lets kept q
  have hq : q.dev.phase = p := h
  clear_value q
  cases q.dev.promised.find? fun v => v.1 == n && q.takable n v.2.cand with
  | none => trivial
  | some v => exact (takeCand_phase ..).trans hq

@[simp] theorem switchOut_phase (s : State) (n : CoreId) (b : Fin 4) (t : Task) (rel : Bool) : (s.switchOut n b t rel).dev.phase = s.dev.phase := by
  unfold State.switchOut
  extract_lets s1 alone left
  have h1 : s1.dev.phase = s.dev.phase := endInner_phase s n t
  generalize (s1.core n).switchKind b t rel = kind
  obtain ⟨spill, release⟩ := kind
  dsimp -zeta only
  extract_lets s2 c unitState t' kept es s3 v s4
  have h2 : s2.dev.phase = s1.dev.phase := by
    unfold s2
    split
    · exact fold_phase ..
    · rfl
  have h3 : s3.dev.phase = s2.dev.phase := by
    unfold s3
    cases spill || release <;> rfl
  have h4 : s4.dev.phase = s.dev.phase := h3.trans (h2.trans h1)
  clear_value s4
  split
  · exact h4
  · exact (takePromised_at h4 n).getD h4

@[simp] theorem modRun_phase (s : State) (f : Call → Call) : (s.modRun f).dev.phase = s.dev.phase := rfl

@[simp] theorem fillSlot_phase (s : State) (i : Fin 8) (acts : List Byte) (driven : Nat) (exp : Byte) :
    (s.fillSlot i acts driven exp).dev.phase = s.dev.phase := rfl

@[simp] theorem modStatus_phase (s : State) (k : Call) (f : CallStatus → CallStatus) : (s.modStatus k f).dev.phase = s.dev.phase := rfl

@[simp] theorem pass_phase (s : State) (k : Call) (k0 n fan row col : Nat) (set retry : Bool) :
    (s.pass k k0 n fan row col set retry).dev.phase = s.dev.phase := rfl

section
variable {p : W64} {s : State}

theorem settleStep_at {x : Except Stop State} (h : s.dev.phase = p) (hx : EndsAt p (·.dev.phase = p) x) (n : CoreId) (uid : Nat) :
    (s.settleStep n uid x).1.dev.phase = p := by
  unfold State.settleStep
  split
  · exact hx
  · exact hx
  · exact (faultCmd_phase ..).trans h

theorem deliverAhead_at (h : s.dev.phase = p) (n : CoreId) (k : Cmd) (u : Nat) : SomeAt p (s.deliverAhead n k u) := by
  unfold State.deliverAhead
  dsimp only
  split
  · trivial
  split
  next q hq =>
    refine EndsAt.of_ok (Q := fun q : State => q.dev.phase = p) (p := p) ?_ hq
    rw [endsAt_bind]
    refine plainRun_at h (fun q out hq => ?_) ..
    dsimp only
    rw [endsAt_bind]
    exact deliverOut_at hq (fun r d hr => (modCmd_phase ..).trans ((cmdFlags_phase ..).trans hr)) ..
  · trivial

theorem stepEngine_at {Q : State → Prop} (h : s.dev.phase = p) (hQ : ∀ q, q.dev.phase = p → Q q) (n : CoreId) (c : Cmd) :
    EndsAt p Q (s.stepEngine n c) := by
  unfold State.stepEngine
  split
  · cases hc : s.choose (c.total - c.pos) with
    | mk r q =>
      have hq : q.dev.phase = p := (congrArg (·.2.dev.phase) hc.symm).trans h
      have hahead : SomeAt p (if r = 0 then none else q.deliverAhead n c (c.pos + r)) := by
        split
        · trivial
        · exact deliverAhead_at hq ..
      dsimp only
      split
      next q' hq' =>
        rw [hq'] at hahead
        exact hQ _ hahead
      · exact stepCmd_at hq hQ ..
  · exact stepCmd_at h hQ ..

end

/-- One store of a task that is tried anew leaves the phase alone. -/
theorem repost_phase (s : State) (t : Task) : (s.repost t).1.dev.phase = s.dev.phase := by
  unfold State.repost
  refine foldl_keeps (fun q : State × Task => q.1.dev.phase) (fun q r => ?_) t.posts (s, t)
  obtain ⟨q, u⟩ := q
  dsimp only
  split
  · rfl
  split
  · rfl
  split
  · rfl
  next k hk _ _ =>
    have hr := recordAddr_at (Q := fun _ => True) (p := q.dev.phase) rfl (fun _ => trivial) q.cur k (r.addr % 64) true
    split
    · rfl
    next q' hq' => exact hr.of_held hq'
    · exact faultCmd_phase ..

@[simp] theorem moveFetch_phase (s : State) (t : Task) (pa : Nat) : (s.moveFetch t pa).dev.phase = s.dev.phase := by
  unfold State.moveFetch
  split <;> simp

@[simp] theorem countFetch_phase (s : State) (t : Task) : (s.countFetch t).dev.phase = s.dev.phase := by
  unfold State.countFetch
  split <;> rfl

@[simp] theorem startFetch_phase (s : State) (n : CoreId) (t : Task) (va : Nat) : (s.startFetch n t va).2.dev.phase = s.dev.phase := rfl

@[simp] theorem endInvalidation_phase (s : State) (v : Invalidation) : (s.endInvalidation v).dev.phase = s.dev.phase := by
  unfold State.endInvalidation
  split <;> rfl

@[simp] theorem closeInvs_phase (s : State) : s.closeInvs.dev.phase = s.dev.phase := foldl_phase _ _ endInvalidation_phase

@[simp] theorem recomputeEff_phase (s : State) : s.recomputeEff.dev.phase = s.dev.phase := by
  unfold State.recomputeEff
  extract_lets ps
  clear_value ps
  exact foldl_phase _ _ fun _ _ => modAnywhere_phase ..

@[simp] theorem retest_phase (s : State) (p : Task → Bool) : (s.retest p).dev.phase = s.dev.phase := by
  unfold State.retest
  split <;> rfl

@[simp] theorem tryCmds_phase (s : State) (n : CoreId) (us : List Nat) : (s.tryCmds n us).dev.phase = s.dev.phase := by
  induction us generalizing s with
  | nil => rfl
  | cons u us ih =>
    unfold State.tryCmds
    split
    · exact ih s
    next k hk =>
      have hstep := settleStep_at rfl (stepEngine_at (s := s) rfl (fun _ h => h) n k) n u
      split
      next q hq =>
        rw [hq] at hstep
        exact hstep
      next q hq =>
        rw [hq] at hstep
        exact (ih q).trans hstep

@[simp] theorem fillTlb2_phase (d : Device) (die : Bool) (t : TlbEntry) : (d.fillTlb2 die t).phase = d.phase := rfl

/-- The lookup stands behind a variable here: the kernel would work it out, bucket by bucket, to find which branch the end of a walk takes. -/
@[simp] theorem endWalk_phase (s : State) (w : Walk) : (s.endWalk w).dev.phase = s.dev.phase := by
  obtain ⟨look, hlook⟩ : ∃ l, l = @State.lookup := ⟨_, rfl⟩
  have he := Eq.refl @State.endWalk
  conv at he => rhs; delta State.endWalk
  rw [← hlook] at he
  rw [he]
  dsimp only
  generalize allCores.filter _ = cores
  split
  · exact foldl_phase _ _ fun _ _ => rfl
  · exact foldl_phase _ _ fun _ _ => rfl
  · refine foldl_phase _ _ fun q n => ?_
    split <;> rfl

@[simp] theorem syncDone_phase (s : State) (n : CoreId) (r : RgSync) (g : Nat) : (s.syncDone n r g).dev.phase = s.dev.phase := by
  unfold State.syncDone
  split <;> simp

@[simp] theorem startWriteBack_phase (s : State) (n : CoreId) (x : CoreCtx) (g : Nat) (tid : BitVec 16) :
    (s.startWriteBack n x g tid).2.dev.phase = s.dev.phase := rfl

section
variable {p : W64} {s : State}

theorem sweepStep_at (h : s.dev.phase = p) (n : CoreId) (r : RgSync) (k : CoreCtx) (g : Nat) : SomeAt p (s.sweepStep n r k g) := by
  unfold State.sweepStep
  dsimp only
  split
  · exact h
  split
  · trivial
  · exact h

theorem syncStep_at (h : s.dev.phase = p) (n : CoreId) (r : RgSync) : SomeAt p (s.syncStep n r) := by
  have hdone (q : State) (g : Nat) (hq : q.dev.phase = p) : SomeAt p (some (q.syncDone n r g)) := (syncDone_phase ..).trans hq
  unfold State.syncStep
  dsimp only
  split
  · exact (syncSettle_phase ..).trans h
  · split
    · trivial
    · exact hdone _ _ h
  split
  · exact sweepStep_at h ..
  split
  · trivial
  split
  · exact hdone _ _ h
  split
  · exact hdone _ _ h
  split
  · split
    · exact h
    split
    · exact hdone _ _ h
    split
    · trivial
    · exact h
  · split
    · trivial
    · exact h

end

@[simp] theorem syncAll_phase (s : State) (n : CoreId) : (s.syncAll n).dev.phase = s.dev.phase :=
  foldl_phase _ _ fun q r => (syncStep_at (s := q) rfl n r).getD rfl

@[simp] theorem refuseCmd_phase (s : State) (n : CoreId) (uid : Nat) (cause : Cause) (a : Int) :
    (s.refuseCmd n uid cause a).dev.phase = s.dev.phase := by
  unfold State.refuseCmd
  split <;> simp

@[simp] theorem refusePacket_phase (s : State) (p : Packet) (c : Cause) : (s.refusePacket p c).dev.phase = s.dev.phase :=
  foldl_phase _ _ fun _ _ => refuseCmd_phase ..

@[simp] theorem performed_phase (s : State) (n : CoreId) (uid : Nat) : (s.performed n uid).dev.phase = s.dev.phase := by
  unfold State.performed
  repeat' split
  all_goals simp

@[simp] theorem donePacket_phase (s : State) (p : Packet) : (s.donePacket p).dev.phase = s.dev.phase :=
  foldl_phase _ _ fun _ _ => performed_phase ..

@[simp] theorem putPacket_phase (s : State) (p : Packet) : (s.putPacket p).dev.phase = s.dev.phase := by
  unfold State.putPacket
  split <;> simp

@[simp] theorem meetGroup_phase (s : State) (p : Packet) : (s.meetGroup p).dev.phase = s.dev.phase := by
  unfold State.meetGroup
  dsimp only
  split
  · rfl
  split
  · exact refusePacket_phase ..
  · exact foldl_phase _ _ putPacket_phase

/-- The flags of a reduction reach the commands that it acts for, in the phase. -/
theorem foldl_cmdFlags_phase (f : BitVec 6) (l : List (CoreId × Nat × Nat)) (s : State) : (l.foldl (fun s i =>
    match (s.core i.1).cmd i.2.1 with
    | some k => s.cmdFlags i.1 k f
    | none => s) s).dev.phase = s.dev.phase := by
  refine foldl_phase _ _ fun q i => ?_
  split
  · exact cmdFlags_phase ..
  · rfl

@[simp] theorem applyPacket_phase (s : State) (p : Packet) : (s.applyPacket p).dev.phase = s.dev.phase := by
  unfold State.applyPacket
  extract_lets die keys
  clear_value die
  split
  · exact donePacket_phase ..
  split
  · rfl
  dsimp only
  refine (donePacket_phase ..).trans ((chargeDram_phase ..).trans ((foldl_cmdFlags_phase ..).trans ?_))
  split
  · exact (physPut_phase ..).trans (physPut_phase ..)
  · exact physPut_phase ..

@[simp] theorem meetPacket_phase (s : State) (p : Packet) : (s.meetPacket p).dev.phase = s.dev.phase := by
  unfold State.meetPacket
  repeat' split
  all_goals simp

@[simp] theorem keepReply_phase (s : State) (p : Packet) (r : Remote) (a : SyncReply) : (s.keepReply p r a).dev.phase = s.dev.phase := by
  unfold State.keepReply
  repeat' split
  all_goals simp

@[simp] theorem answerPacket_phase (s : State) (p : Packet) (r : Remote) : (s.answerPacket p r).dev.phase = s.dev.phase := by
  unfold State.answerPacket
  dsimp only
  split
  · rfl
  split
  · rfl
  · exact (foldl_phase _ _ fun _ _ => faultCmd_phase ..).trans (faultCmd_phase ..)
  split
  · rfl
  split
  · exact keepReply_phase ..
  · exact (keepReply_phase ..).trans (perform_phase ..)

@[simp] theorem finishCall_phase (s : State) (k : Call) (errc : Option (Fin 64)) : (s.finishCall k errc).dev.phase = s.dev.phase := rfl

@[simp] theorem finishMtacc_phase (s : State) (n : CoreId) (op : MtAcc) (v : W64) : (s.finishMtacc n op v).dev.phase = s.dev.phase := rfl

@[simp] theorem mapTasks_phase (s : State) (f : CoreId → Core → Task → Task) : (s.mapTasks f).dev.phase = s.dev.phase := rfl

@[simp] theorem trapAt_phase (s : State) (n : CoreId) (b : Fin 4) (c : Trap) : (s.trapAt n b c).dev.phase = s.dev.phase := by
  unfold State.trapAt
  split <;> simp

@[simp] theorem freezeOut_phase (s : State) (n : CoreId) (b : Fin 4) (t : Task) (r : QRec) : (s.freezeOut n b t r).dev.phase = s.dev.phase := by
  unfold State.freezeOut
  dsimp only
  repeat' split
  all_goals simp

@[simp] theorem leaveFor_phase (s : State) (n : CoreId) (r : QRec) : (s.leaveFor n r).dev.phase = s.dev.phase := by
  unfold State.leaveFor
  split
  · rfl
  · exact foldl_phase _ _ fun _ _ => freezeOut_phase ..

@[simp] theorem truncate_phase (s : State) : s.truncate.dev.phase = s.dev.phase := by
  unfold State.truncate
  exact foldl_phase _ _ fun _ _ => leaveFor_phase ..

@[simp] theorem trip_phase (s : State) : s.trip.dev.phase = s.dev.phase := by
  unfold State.trip
  simp

@[simp] theorem startSweep_phase (s : State) (n : CoreId) : (s.startSweep n).dev.phase = s.dev.phase := congrArg (·.phase) (startSweep_dev s n)

@[simp] theorem foldAll_phase (s : State) : s.foldAll.dev.phase = s.dev.phase := foldAll_dev_proj (·.phase) (fun _ _ => rfl) s

@[simp] theorem cancelMtaccs_phase (s : State) (x : BitVec 16) : (s.cancelMtaccs x).dev.phase = s.dev.phase :=
  cancelMtaccs_keeps (fun q => q.dev.phase) finishMtacc_phase s x

@[simp] theorem gridCarrier_phase (s : State) (i : Fin 64) (g : Grid) : (s.gridCarrier i g).2.dev.phase = s.dev.phase := by
  unfold State.gridCarrier
  split <;> rfl

section
variable {p : W64} {s : State}

/-- A grid's join at an address that is found. -/
theorem gridAt_at {Q : State × Nat → Prop} (h : s.dev.phase = p) (hQ : ∀ q pa, q.dev.phase = p → Q (q, pa)) (k : Cmd) (g : Grid) (n : CoreId)
    (a pa : Nat) (x : CoreCtx) : EndsAt p Q (do
      match syncLocal n pa, placeOf pa with
      | true, .window _ o =>
        if x.psize < o + 32 then throw (.fault 0x04 a)
        let p := (x.base + o) / 64
        if (s.core n).sb.any (·.meets .loft p p) then throw (.held s)
        return (← s.loftReady (k.agent n) true false (o / 64), pa)
      | near, _ =>
        if !near && !s.exchange then throw (.held s)
        match s.physMeets g.ctx x.sup true pa 32 with
        | .ok => return (s, pa)
        | .held => throw (.held s)
        | .fail c => throw (.fault c a)) := by
  dsimp only
  split
  · split
    · trivial
    split
    · exact h
    rw [endsAt_bind]
    exact loftReady_at h (fun q hq => hQ _ _ hq) ..
  · split
    · exact h
    split
    · exact hQ _ _ h
    · exact h
    · trivial

theorem gridPlace_at {Q : State × Nat → Prop} (h : s.dev.phase = p) (hQ : ∀ q pa, q.dev.phase = p → Q (q, pa)) (k : Cmd) (g : Grid) :
    EndsAt p Q (s.gridPlace k g) := by
  unfold State.gridPlace
  obtain ⟨a, ha⟩ : ∃ a, a = g.rcd.join.fld 0 56 := ⟨_, rfl⟩
  obtain ⟨w, hw⟩ : ∃ w, w = windowBase g.core + a := ⟨_, rfl⟩
  dsimp only
  rw [← ha, ← hw]
  split
  · trivial
  split
  · rw [endsAt_bind]
    exact recordAddr_at h (fun _ => gridAt_at h hQ ..) ..
  split
  · exact gridAt_at h hQ ..
  · rw [endsAt_bind]
    exact resolve_at h (fun _ => gridAt_at h hQ ..) ..

end

@[simp] theorem gridJoin_phase (s : State) (i : Fin 64) (g : Grid) : (s.gridJoin i g).1.dev.phase = s.dev.phase := by
  unfold State.gridJoin
  cases hc : s.gridCarrier i g with
  | mk k q =>
    have hq : q.dev.phase = s.dev.phase := (congrArg (·.2.dev.phase) hc.symm).trans (gridCarrier_phase ..)
    have hplace := gridPlace_at (Q := fun x => x.1.dev.phase = s.dev.phase) hq (fun _ _ h => h) k g
    dsimp only
    split
    · exact hq
    split
    next q' hq' => exact hplace.of_held hq'
    · exact (faultCmd_phase ..).trans hq
    next q' pa hq' =>
      have hq'' := hplace.of_ok hq'
      split
      next s' old bs hs' =>
        have hs : s'.dev.phase = s.dev.phase := by
          rw [← hq'', ← mapDone_phase q' g.core k]
          exact (congrArg (·.1.dev.phase) hs'.symm).trans (joinStep_phase ..)
        dsimp only
        split
        · generalize (if g.rcd.join.fld 0 56 < 0x300000 then _ else _ : QRec) = r
          split
          · exact (push_phase ..).trans hs
          · exact (report_phase ..).trans hs
        · exact hs
      · exact hq''

theorem endGrid_at {s : State} {p : W64} (h : s.dev.phase = p) (n : CoreId) : SomeAt p (s.endGrid n) := by
  unfold State.endGrid
  cases s.dev.grids.find? fun g => g.2.core == n && g.2.ended with
  | none => trivial
  | some g =>
    rw [Option.map_some, someAt_some]
    dsimp only
    split
    · exact (settleJobs_phase ..).trans h
    · have hj := (gridJoin_phase s g.1 g.2).trans h
      split
      next q hq =>
        rw [hq] at hj
        exact (settleJobs_phase ..).trans hj
      next q hq =>
        rw [hq] at hj
        exact hj

theorem joinReserve_at {s : State} {p : W64} (h : s.dev.phase = p) (n : CoreId) : SomeAt p (s.joinReserve n) := by
  unfold State.joinReserve
  cases s.dev.reserving.find? fun r => r.1 == dieOf n && r.2.cores.length ≤ r.2.rcd.tsz.val with
  | none => trivial
  | some r =>
    rw [Option.bind_some]
    split
    · exact h
    · trivial

@[simp] theorem takeWork_phase (s : State) (n : CoreId) : (s.takeWork n).dev.phase = s.dev.phase := by
  have hp := takePromised_at (s := s) rfl n
  unfold State.takeWork
  split
  next q hq =>
    rw [hq] at hp
    exact hp
  split
  · rfl
  split
  · exact takeCand_phase ..
  · rfl

@[simp] theorem startMembers_phase (s : State) (r : Reserve) (team : Nat) (cores : List CoreId) (ms : List (CoreId × Nat)) :
    (s.startMembers r team cores ms).dev.phase = s.dev.phase := by
  induction ms generalizing s with
  | nil => rfl
  | cons m ms ih =>
    obtain ⟨n, i⟩ := m
    unfold State.startMembers
    split
    · exact ih s
    · exact (ih _).trans (place_phase ..)

end Sys2Proof.Proofs
end

section
namespace Sys2Proof.Proofs
open Machine Laws

/-! ## Ports in a phase -/

@[simp] theorem emit_phase (s : State) (x : Sent) : (s.emit x).dev.phase = s.dev.phase := rfl

@[simp] theorem refuse_phase (s : State) (q : Fin 4096) (code : Nat) : (s.refuse q code).dev.phase = s.dev.phase := rfl

@[simp] theorem beginPeer_phase (d : Device) (r : HostReq) : (d.beginPeer r).phase = d.phase := by
  unfold Device.beginPeer
  split <;> rfl

section
variable {α : Type} {g : State → α} (hg : ApartFromWrites g)
include hg

theorem chargePort_apart (s : State) (x : BitVec 16) (pa n : Nat) : g (s.chargePort x pa n) = g s := by
  unfold State.chargePort
  split
  · exact (modCore_apart hg ..).trans (modCore_apart hg ..)
  · exact modCore_apart hg ..
  · rfl

theorem portWrite_apart (s : State) (x : BitVec 16) (ps : List (Nat × Nat)) (bs : List Byte) : g (s.portWrite x ps bs) = g s := by
  induction ps generalizing s bs with
  | nil => rfl
  | cons q ps ih =>
    obtain ⟨pa, n⟩ := q
    exact (ih ..).trans ((chargePort_apart hg ..).trans (physPut_apart hg ..))

end

@[simp] theorem chargePort_phase (s : State) (x : BitVec 16) (pa n : Nat) : (s.chargePort x pa n).dev.phase = s.dev.phase :=
  chargePort_apart phase_apart ..

@[simp] theorem portWrite_phase (s : State) (x : BitVec 16) (ps : List (Nat × Nat)) (bs : List Byte) : (s.portWrite x ps bs).dev.phase = s.dev.phase :=
  portWrite_apart phase_apart ..

@[simp] theorem portReduce_phase (s : State) (x : BitVec 16) (op : Fin 4) (ty : Nat) (i : PeerId) (ps : List (Nat × Nat)) (bs : List Byte) :
    (s.portReduce x op ty i ps bs).dev.phase = s.dev.phase := by
  induction ps generalizing s i bs with
  | nil => rfl
  | cons q ps ih =>
    obtain ⟨pa, n⟩ := q
    unfold State.portReduce
    dsimp only
    split
    · exact ih ..
    · exact (ih ..).trans ((chargePort_phase ..).trans (physPut_phase ..))

@[simp] theorem portRead_phase (s : State) (x : BitVec 16) (ps : List (Nat × Nat)) : (s.portRead x ps).2.dev.phase = s.dev.phase :=
  foldl_phase _ _ fun _ _ => (chargePort_phase ..).trans (readBeat_phase ..)

@[simp] theorem packetArrives_phase (s : State) (n : CoreId) (peer : Bool) (src : Nat) (bs : List Byte) :
    (s.packetArrives n peer src bs).1.dev.phase = s.dev.phase := by
  unfold State.packetArrives
  dsimp only
  repeat' split
  all_goals simp

@[simp] theorem qpError_phase (s : State) (q : Fin 4096) : (s.qpError q).dev.phase = s.dev.phase := rfl

@[simp] theorem answerLaunch_phase (s : State) (q : Fin 4096) (c : BitVec 8) : (s.answerLaunch q c).dev.phase = s.dev.phase := by
  unfold State.answerLaunch
  repeat' split
  all_goals simp

@[simp] theorem modQp_phase (s : State) (q : Fin 4096) (f : Qp → Qp) : (s.modQp q f).dev.phase = s.dev.phase := rfl

section
variable {p : W64} {s : State}

theorem performReq_at (h : s.dev.phase = p) (r : HostReq) : SomeAt p (s.performReq r) := by
  unfold State.performReq
  extract_lets s1 x touch admitted
  have h1 : s1.dev.phase = p := (beginPeer_phase ..).trans h
  have htouch {q : State} {write : Bool} {f : State → List (Nat × Nat) → State} (hq : q.dev.phase = p)
      (hf : ∀ u ps, u.dev.phase = p → (f u ps).dev.phase = p) : SomeAt p (touch q write f) := by
    unfold touch
    split
    · exact hq
    extract_lets hr q1
    have hq1 : q1.dev.phase = p := by
      unfold q1
      split
      · exact hf _ _ hq
      · exact hq
    clear_value q1
    split
    · trivial
    · rw [someAt_some]
      split
      · exact hq1
      · split <;> exact hq1
  clear_value s1 admitted touch
  split
  · split
    · exact htouch h1 fun u ps hu => (portWrite_phase ..).trans hu
    · exact h1
  · dsimp only
    split
    · exact h1
    split
    · trivial
    · exact htouch h1 fun u ps hu => (portReduce_phase ..).trans hu
  · exact htouch h1 fun u ps hu => (portRead_phase ..).trans hu
  · rw [someAt_some]
    split
    · exact (packetArrives_phase ..).trans h1
    · exact (answerLaunch_phase ..).trans ((packetArrives_phase ..).trans h1)
  · split
    · trivial
    split
    · exact h1
    split
    · exact h1
    · exact (portWrite_phase ..).trans ((portWrite_phase ..).trans h1)

end

@[simp] theorem performHeld_phase (s : State) (q : Fin 4096) (p : HostOp → Bool) : (s.performHeld q p).dev.phase = s.dev.phase := by
  unfold State.performHeld
  split
  · rfl
  split
  · rfl
  split
  · rfl
  next before r _ _ _ =>
    have hr := performReq_at (s := s) rfl r
    split
    next q hq =>
      rw [hq] at hr
      exact hr
    · rfl

@[simp] theorem arriveReq_phase (s : State) (r : HostReq) : (s.arriveReq r).1.dev.phase = s.dev.phase := by
  have hr := performReq_at (s := s) rfl r
  unfold State.arriveReq
  extract_lets hold
  have hhold : hold.1.dev.phase = s.dev.phase := by
    unfold hold
    split <;> rfl
  clear_value hold
  split
  · split
    next q hq =>
      rw [hq] at hr
      exact hr
    · exact hhold
  · exact hhold

@[simp] theorem setPsn_phase (s : State) (q : Fin 4096) (recv : Bool) (v : BitVec 24) : (s.setPsn q recv v).dev.phase = s.dev.phase := rfl

@[simp] theorem hostRequest_phase (s : State) (r : HostReq) (ok : State → Option Nat) : (s.hostRequest r ok).dev.phase = s.dev.phase := by
  have hr := arriveReq_phase s r
  unfold State.hostRequest
  split
  · rfl
  split
  · rfl
  split
  · rfl
  split
  next q hq =>
    rw [hq] at hr
    split
    · exact hr
    · exact (setPsn_phase ..).trans hr
  next q hq =>
    rw [hq] at hr
    exact hr

@[simp] theorem launchArrives_phase (s : State) : s.launchArrives.dev.phase = s.dev.phase := by
  unfold State.launchArrives
  dsimp only
  split
  · exact (answerLaunch_phase ..).trans (refuseLaunch_phase ..)
  · exact hostRequest_phase ..

@[simp] theorem restorePart_phase (s : State) (n : CoreId) (x : BitVec 16) : (s.restorePart n x).dev.phase = s.dev.phase := by
  unfold State.restorePart
  dsimp only
  split <;> rfl

@[simp] theorem resumeTask_phase (s : State) (n : CoreId) (b : Fin 4) (t : Task) (released : Bool) :
    (s.resumeTask n b t released).dev.phase = s.dev.phase := by
  unfold State.resumeTask
  extract_lets handled t' s1
  have h1 : s1.dev.phase = s.dev.phase := rfl
  clear_value handled s1
  split
  · exact (takeTrap_phase ..).trans h1
  · exact h1

@[simp] theorem restoreTask_phase (s : State) (n : CoreId) (t : Task) : (s.restoreTask n t).dev.phase = s.dev.phase := by
  unfold State.restoreTask
  dsimp only
  repeat' split
  all_goals simp

/-- The place in a bank stands behind a variable here: the kernel would work it out to find whether it is one. -/
@[simp] theorem correctAt_phase (s : State) (pa : Nat) : (s.correctAt pa).dev.phase = s.dev.phase := by
  obtain ⟨place, hplace⟩ : ∃ f, f = @Core.bankPlace := ⟨_, rfl⟩
  unfold State.correctAt
  rw [← hplace]
  split
  · split <;> rfl
  · rfl

@[simp] theorem badRequest_phase (s : State) (q : Fin 4096) : (s.badRequest q).dev.phase = s.dev.phase := by
  unfold State.badRequest
  repeat' split
  all_goals simp

@[simp] theorem endsWith_phase (s : State) (q : Fin 4096) (c : BitVec 8) : (s.endsWith q c).dev.phase = s.dev.phase := rfl

@[simp] theorem progress_phase (s : State) (q : Fin 4096) (r : WorkReq) (n : Nat) : (s.progress q r n).dev.phase = s.dev.phase := rfl

section
variable {s : State}

theorem takeRequest_phase (op : Nat) {f : State → WorkReq → Qp → State} (hf : ∀ r k, (f s r k).dev.phase = s.dev.phase) :
    (s.takeRequest op f).dev.phase = s.dev.phase := by
  unfold State.takeRequest
  dsimp only
  split
  · rfl
  split
  · split
    · rfl
    · exact qpError_phase ..
  split
  · rfl
  split
  · rfl
  · exact hf ..

theorem localBytes_phase (q : Fin 4096) (a n : Nat) {f : List Byte → State → State} (hf : ∀ bs u, (f bs u).dev.phase = u.dev.phase) :
    (s.localBytes q a n f).dev.phase = s.dev.phase := by
  unfold State.localBytes
  dsimp only
  split
  · rfl
  split
  · rfl
  · exact (hf ..).trans (portRead_phase ..)

end

@[simp] theorem sendBytes_phase (s : State) (op : Nat) : (s.sendBytes op).dev.phase = s.dev.phase :=
  takeRequest_phase _ fun _ _ => localBytes_phase _ _ _ fun _ _ => rfl

@[simp] theorem modLink_phase (s : State) (p : Fin 12) (f : Link → Link) : (s.modLink p f).dev.phase = s.dev.phase := rfl

@[simp] theorem sendData_phase (s : State) (p : Fin 12) (payload : List Byte) : (s.sendData p payload).dev.phase = s.dev.phase := rfl

@[simp] theorem sendPeer_phase (s : State) (op : Nat) : (s.sendPeer op).dev.phase = s.dev.phase := by
  refine takeRequest_phase _ fun r k => ?_
  dsimp only
  split
  · rfl
  split
  · rfl
  · exact localBytes_phase _ _ _ fun _ _ => rfl

@[simp] theorem endRequest_phase (s : State) (q : Fin 4096) (st : BitVec 8) : (s.endRequest q st).dev.phase = s.dev.phase := by
  unfold State.endRequest
  extract_lets x r stamp st' s1 s2 s3 s4
  clear_value r
  have h1 : s1.dev.phase = s.dev.phase := by
    unfold s1
    split
    · exact portWrite_phase ..
    · rfl
  clear_value s1 stamp st'
  have h2 : s2.dev.phase = s1.dev.phase := by
    unfold s2
    split
    · split
      · exact portWrite_phase ..
      · rfl
    · rfl
  have h4 : s4.dev.phase = s.dev.phase := h2.trans h1
  clear_value s4
  split
  · exact h4
  · exact h4

@[simp] theorem sendControl_phase (s : State) (p : Fin 12) (type : Nat) : (s.sendControl p type).dev.phase = s.dev.phase := rfl

@[simp] theorem loseLink_phase (s : State) (p : Fin 12) : (s.loseLink p).dev.phase = s.dev.phase := by
  unfold State.loseLink
  refine foldl_phase _ _ fun q e => ?_
  split <;> rfl

theorem onFrame_phase {s : State} (type : Nat) {f : State → Fin 12 → W64 → State} (hf : ∀ q p h, (f q p h).dev.phase = q.dev.phase) :
    (s.onFrame type f).dev.phase = s.dev.phase := by
  unfold State.onFrame
  dsimp only
  split
  · rfl
  split
  · rfl
  split
  · rfl
  · exact (hf ..).trans (modLink_phase ..)

@[simp] theorem dropRequest_phase (s : State) : s.dropRequest.dev.phase = s.dev.phase := rfl

end Sys2Proof.Proofs
end

section
namespace Sys2Proof.Proofs
open Machine Laws

/-! ## Instructions of slots, form by form -/

section
variable {s : State} {p : W64}

theorem writeRow_at (n : Nat) (v : Task → W64) : OutAt s.dev.phase (writeRow n v s) := by
  refine issue_at fun t => ?_
  have h := writeCtrl_apart phase_apart s t n (v t)
  split
  next q hq =>
    rw [hq] at h
    exact h
  · rfl
  · rfl

theorem ctrlAct_at (t : Task) (d : SReg) (n : Nat) (f : Option (W64 → W64)) (o : Option W64) : ActAt s.dev.phase (s.ctrlAct t d n f o) := by
  unfold State.ctrlAct
  split
  · trivial
  split
  · rfl
  next old _ g =>
    have h := writeCtrl_apart phase_apart s t n (g old)
    split
    next q hq =>
      rw [hq] at h
      exact h
    · rfl
    · rfl

theorem ctrlForm_at (d : SReg) (n : Nat) (f : Task → Option (W64 → W64)) : OutAt s.dev.phase (ctrlForm d n f s) := issue_at fun _ => ctrlAct_at ..

theorem ctrlRun_at (i : Instr) : OutAt s.dev.phase (ctrlRun i s) := by
  unfold ctrlRun
  split
  · exact ctrlForm_at _ _ _
  · exact outAt_next.2 rfl

theorem rdcr_at (d a : SReg) : OutAt s.dev.phase (execRdcr d a s) := by
  refine issue_at fun t => ?_
  split
  · rfl
  · trivial

theorem branchIf_at (c : W64 → W64 → Bool) (a b : SReg) (i : BitVec 17) : OutAt s.dev.phase (branchIf c a b i s) := by
  refine issue_at fun t => ?_
  split <;> rfl

theorem callr_at (d a : SReg) (c : Fin 16) : OutAt s.dev.phase (execCallr d a c s) := by
  refine issue_at fun t => ?_
  dsimp only
  split
  · rfl
  · trivial

theorem loop_at (d : SReg) (i : Fin 1024) : OutAt s.dev.phase (execLoop d i s) := by
  refine issue_at fun t => ?_
  dsimp only
  split <;> rfl

theorem ret_at (a : SReg) : OutAt s.dev.phase (execRet a s) := by
  refine issue_at fun t => ?_
  dsimp only
  split
  · rfl
  · trivial

theorem tlbinvPage_at (a b : SReg) (z : Fin 4) : OutAt s.dev.phase (execTlbinvPage a b z s) := by
  refine issue_at fun t => ?_
  dsimp only
  split
  · rfl
  split
  · rfl
  · exact invalidate_phase ..

theorem tlbinvCtx_at (b : SReg) : OutAt s.dev.phase (execTlbinvCtx b s) := by
  refine issue_at fun t => ?_
  split
  · rfl
  · exact invalidate_phase ..

theorem tlbinvAll_at : OutAt s.dev.phase (execTlbinvAll s) := by
  refine issue_at fun t => ?_
  dsimp only
  split <;> exact invalidate_phase ..

theorem rgsync_at (form : Fin 4) (a b : SReg) : OutAt s.dev.phase (rgsync form a b s) := by
  refine issue_at fun t => ?_
  extract_lets k i v all older todo
  clear_value all older todo
  split
  · trivial
  split
  · rfl
  · exact syncSettle_phase ..

theorem spawnt_at (a b : SReg) : OutAt s.dev.phase (execSpawnt a b s) := by
  refine issue_at fun t => ?_
  dsimp only
  split
  · trivial
  · exact spawnTo_at rfl ..

theorem grow_at (d a : SReg) : OutAt s.dev.phase (execGrow d a s) := by
  refine issue_at fun t => ?_
  split
  · trivial
  · rfl

theorem tendj_at (a : SReg) : OutAt s.dev.phase (execTendj a s) := by
  refine issue_at fun t => ?_
  split
  next act ha => exact syncRefuses_at ha
  · exact tend_at rfl _ fun g q hg hq => joinAt_at hq _ _ fun r _ hr => hg r hr

theorem launch_at (d a b : SReg) : OutAt s.dev.phase (execLaunch d a b s) := by
  refine issue_at fun t => ?_
  dsimp only
  split
  · trivial
  split
  · trivial
  refine access_at rfl _ _ _ _ fun q hq => ?_
  split
  · exact (refuseLaunch_phase ..).trans hq
  split
  · exact (refuseLaunch_phase ..).trans hq
  · exact (launchAt_phase ..).trans hq

theorem trap_at (n : Fin 16) : OutAt s.dev.phase (execTrap n s) := issue_at fun _ => takeTrap_phase ..

theorem returnFromTrap_at (t : Task) : ActAt s.dev.phase (s.returnFromTrap t) := by
  unfold State.returnFromTrap
  split
  · trivial
  dsimp only
  split
  · exact takeTrap_phase ..
  · rfl

theorem rett_at : OutAt s.dev.phase (execRett s) := by
  refine issue_at fun t => ?_
  have h := returnFromTrap_at (s := s) t
  split
  next q pc k hq =>
    rw [hq] at h
    rw [actAt_resume]
    split <;> exact h
  · exact h

theorem ckpt_at (a : SReg) : OutAt s.dev.phase (execCkpt a s) := by
  refine issue_at fun t => ?_
  dsimp only
  split
  · trivial
  · rfl

theorem fqwait_at (d : SReg) : OutAt s.dev.phase (execFqwait d s) := by
  refine supervised_at fun t => ?_
  split <;> rfl

theorem fqpop_at (d a b : SReg) : OutAt s.dev.phase (execFqpop d a b s) := by
  refine supervised_at fun t => ?_
  split
  · trivial
  dsimp only
  split
  · rfl
  · exact access_at rfl _ _ _ _ fun q hq => hq

theorem ctxkill_at (a : SReg) : OutAt s.dev.phase (execCtxkill a s) := by
  refine supervised_at fun t => ?_
  dsimp only
  split
  · rfl
  split <;> exact destroy_phase ..

theorem ctxrel_at (a : SReg) : OutAt s.dev.phase (execCtxrel a s) := by
  refine supervised_at fun t => ?_
  dsimp only
  split
  · rfl
  · exact releaseContext_phase ..

theorem contextSwitch_at (rel : Bool) : OutAt s.dev.phase (contextSwitch rel s) := by
  refine issue_at fun t => ?_
  dsimp only
  split
  · trivial
  split
  · trivial
  split
  · trivial
  split
  · rfl
  · exact switchOut_phase ..

theorem phreq_at : OutAt s.dev.phase (execPhreq s) := by
  refine issue_at fun t => ?_
  split <;> rfl

/-! ## Tiles, the manger and the matrix unit -/

theorem onTile_at (r : TReg) {f : Task → Shape → Act} (hf : ∀ t x, ActAt s.dev.phase (f t x)) : OutAt s.dev.phase (onTile r f s) := by
  refine issue_at fun t => ?_
  split
  · exact hf ..
  · trivial

theorem ttrn_at (d a : TReg) : OutAt s.dev.phase (execTtrn d a s) := by
  refine onTile_at _ fun t x => ?_
  split
  · trivial
  split
  · rfl
  · trivial

theorem tcvt_at (d a : TReg) : OutAt s.dev.phase (execTcvt d a s) := by
  refine onTile_at _ fun t x => ?_
  split
  · trivial
  split
  · rfl
  · trivial

theorem tgetr_at (d : VReg) (a : TReg) (b : SReg) : OutAt s.dev.phase (execTgetr d a b s) := by
  refine onTile_at _ fun t x => ?_
  dsimp only
  split
  · rfl
  · trivial

theorem tputr_at (d : TReg) (a : VReg) (b : SReg) : OutAt s.dev.phase (execTputr d a b s) := by
  refine onTile_at _ fun t x => ?_
  dsimp only
  split
  · rfl
  · trivial

theorem mgarm_at : OutAt s.dev.phase (execMgarm s) := by
  refine issue_at fun t => ?_
  dsimp only
  split
  · trivial
  split
  · trivial
  split
  · rfl
  split <;> rfl

theorem mgdrop_at : OutAt s.dev.phase (execMgdrop s) := by
  refine issue_at fun t => ?_
  split <;> rfl

theorem matrixCall_at (i : Fin 256) (k : Fin 16) (w : Fin 4) (d : SReg) (rty : Bool) : OutAt s.dev.phase (matrixCall i k w d rty s) := by
  refine issue_at fun t => ?_
  dsimp only
  split
  · trivial
  split
  · trivial
  split
  · trivial
  split
  · rfl
  split <;> rfl

theorem mtacc_at (d a b : SReg) : OutAt s.dev.phase (execMtacc d a b s) := by
  refine issue_at fun t => ?_
  dsimp only
  split
  · trivial
  split
  · trivial
  split
  · trivial
  split
  · trivial
  split <;> rfl

theorem unitAccess_at (t : Task) (drain write : Bool) (ps : List (SbSpace × Nat × Nat)) {f : Act} (h : s.dev.phase = p) (hf : ActAt p f) :
    ActAt p (s.unitAccess t drain write ps f) := by
  unfold State.unitAccess
  split
  · exact h
  · exact hf

theorem mmodeS_at (a : SReg) : OutAt s.dev.phase (execMmodeS a s) := by
  refine onUnit_at fun t => unitAccess_at _ _ _ _ rfl ?_
  split <;> rfl

theorem mmodeC_at (a : SReg) : OutAt s.dev.phase (execMmodeC a s) := onUnit_at fun _ => unitAccess_at _ _ _ _ rfl rfl

theorem mdescRd_at (d a : SReg) : OutAt s.dev.phase (execMdescRd d a s) := onUnit_at fun _ => unitAccess_at _ _ _ _ rfl rfl

theorem mdescWr_at (a b : SReg) : OutAt s.dev.phase (execMdescWr a b s) := by
  refine onUnit_at fun t => ?_
  dsimp only
  split
  · trivial
  split
  · trivial
  · exact unitAccess_at _ _ _ _ rfl rfl

theorem mucw_at (a b : SReg) : OutAt s.dev.phase (execMucw a b s) := by
  refine issue_at fun t => ?_
  split
  · rfl
  split <;> rfl

theorem mcwait_at (a : SReg) : OutAt s.dev.phase (execMcwait a s) := by
  refine onUnit_at fun t => ?_
  dsimp only
  split
  · split <;> rfl
  · rfl

theorem mcwaitAll_at : OutAt s.dev.phase (execMcwaitAll s) := by
  refine onUnit_at fun t => ?_
  split <;> rfl

theorem mdrainA_at (d : VReg) (a : SReg) : OutAt s.dev.phase (execMdrainA d a s) := by
  refine onUnit_at fun t => ?_
  dsimp only
  split
  · trivial
  · exact unitAccess_at _ _ _ _ rfl rfl

theorem mdrainB_at (d : VReg) (a : SReg) : OutAt s.dev.phase (execMdrainB d a s) := by
  refine onUnit_at fun t => ?_
  dsimp only
  split
  · trivial
  · exact unitAccess_at _ _ _ _ rfl rfl

theorem mrestA_at (d : VReg) (a : SReg) : OutAt s.dev.phase (execMrestA d a s) := by
  refine onUnit_at fun t => ?_
  dsimp only
  split
  · trivial
  · exact unitAccess_at _ _ _ _ rfl rfl

theorem mrestB_at (d : VReg) (a : SReg) : OutAt s.dev.phase (execMrestB d a s) := by
  refine onUnit_at fun t => ?_
  dsimp only
  split
  · trivial
  · exact unitAccess_at _ _ _ _ rfl rfl

theorem mrestU_at (d : VReg) : OutAt s.dev.phase (execMrestU d s) := by
  refine onUnit_at fun t => ?_
  dsimp only
  split
  · trivial
  · rfl

theorem mzero_at (a : SReg) : OutAt s.dev.phase (execMzero a s) := by
  refine onUnit_at fun t => ?_
  dsimp only
  split
  · trivial
  · exact unitAccess_at _ _ _ _ rfl rfl

/-! ## The loft, tags and rings -/

theorem recAccess_at (a : BReg) (adr : Task → BufOp → Option (List Int)) (write : Bool) {f : Task → BufOp → List (Option Nat) → State → Act}
    (hf : ∀ t b us q, q.dev.phase = s.dev.phase → ActAt s.dev.phase (f t b us q)) : OutAt s.dev.phase (recAccess a adr write f s) := by
  refine issue_at fun t => ?_
  split
  · trivial
  split
  · trivial
  split
  · trivial
  · exact access_at rfl _ _ _ _ fun q hq => hf _ _ _ q hq

theorem loadScalar_at (d : SReg) (a : BReg) (adr : Task → BufOp → Int) : OutAt s.dev.phase (loadScalar d a adr s) :=
  recAccess_at _ _ _ fun _ _ _ _ hq => hq

theorem storeScalar_at (d : SReg) (a : BReg) (adr : Task → BufOp → Int) : OutAt s.dev.phase (storeScalar d a adr s) :=
  recAccess_at _ _ _ fun _ _ _ _ hq => (storeUnits_phase ..).trans hq

theorem loadVector_at (d : VReg) (a : BReg) (adr : Task → BufOp → Option (List Int)) : OutAt s.dev.phase (loadVector d a adr s) :=
  recAccess_at _ _ _ fun _ _ _ _ hq => hq

theorem storeVector_at (d : VReg) (a : BReg) (adr : Task → BufOp → Option (List Int)) : OutAt s.dev.phase (storeVector d a adr s) :=
  recAccess_at _ _ _ fun _ _ _ _ hq => (storeUnits_phase ..).trans hq

theorem ldrec_at (d : RecReg) (a : SReg) (i : BitVec 17) : OutAt s.dev.phase (execLdrec d a i s) := by
  refine issue_at fun t => ?_
  dsimp only
  split
  · trivial
  · exact access_at rfl _ _ _ _ fun _ hq => hq

theorem strec_at (d : RecReg) (a : SReg) (i : BitVec 17) : OutAt s.dev.phase (execStrec d a i s) := by
  refine issue_at fun t => ?_
  dsimp only
  split
  · trivial
  · exact access_at rfl _ _ _ _ fun _ hq => (loftWrite_phase ..).trans hq

theorem tagrd_at (d a : SReg) (i : BitVec 17) : OutAt s.dev.phase (execTagrd d a i s) := by
  refine issue_at fun t => ?_
  dsimp only
  split
  · trivial
  · rfl

theorem tagWrite_at (full : Bool) (d a : SReg) : OutAt s.dev.phase (tagWrite full d a s) := by
  refine issue_at fun t => ?_
  dsimp only
  split
  · trivial
  · exact access_at rfl _ _ _ _ fun _ hq => hq

theorem tagged_at (a : SReg) (i : BitVec 17) (write : Bool) (want : Option Bool) {f : Task → Nat → State → State}
    (hf : ∀ t o q, (f t o q).dev.phase = q.dev.phase) : OutAt s.dev.phase (tagged a i write want f s) := by
  refine issue_at fun t => ?_
  dsimp only
  split
  · trivial
  split
  next q hq => exact holdFirst_at rfl hq
  split
  · exact hf ..
  split
  · exact hf ..
  · rfl

theorem ringClaim_at (write : Bool) (d : SReg) (n : Fin 16) : OutAt s.dev.phase (ringClaim write d n s) := by
  refine issue_at fun t => ?_
  dsimp only
  split
  · trivial
  split <;> rfl

theorem ringRelease_at (write : Bool) (n : Fin 16) : OutAt s.dev.phase (ringRelease write n s) := by
  refine issue_at fun t => ?_
  split
  · trivial
  · rfl

/-! ## The commands of the copy engines -/

theorem cpy_at (d a : RecReg) (b : SReg) (e : Bool) : OutAt s.dev.phase (execCpy d a b e s) := by
  refine issue_at fun t => ?_
  dsimp only
  split <;> rfl

theorem cpyg_at (d : SReg) (e : Bool) : OutAt s.dev.phase (execCpyg d e s) := by
  refine issue_at fun t => ?_
  split
  · rfl
  dsimp only
  split <;> rfl

theorem cpyc_at (e : Bool) : OutAt s.dev.phase (execCpyc e s) := by
  refine issue_at fun t => ?_
  split <;> rfl

theorem cpyxResume_at (a b : SReg) : OutAt s.dev.phase (execCpyxResume a b s) := by
  refine issue_at fun t => ?_
  extract_lets h go
  have hgo (q : State) (image : Option (List Byte)) (hq : q.dev.phase = s.dev.phase) : ActAt s.dev.phase (go q image) := by
    unfold go
    split
    · split
      · exact (resumeCmd_phase ..).trans hq
      · exact hq
    · exact hq
  clear_value go
  split
  · rfl
  split
  · exact hgo _ _ rfl
  split
  · trivial
  · exact access_at rfl _ _ _ _ fun _ hq => hgo _ _ hq

theorem cpyxAbort_at (a : SReg) : OutAt s.dev.phase (execCpyxAbort a s) := by
  refine issue_at fun t => ?_
  split
  · rfl
  split
  · exact abortCmd_phase ..
  · rfl

theorem ctabc_at : OutAt s.dev.phase (execCtabc s) := by
  refine issue_at fun t => ?_
  dsimp only
  split <;> rfl

theorem queueReg_at (t : Task) (k : Cmd) : ActAt s.dev.phase (s.queueReg t k) := by
  have hadd (c : Core) (x : CoreCtx) (g : EngSlot) : ActAt s.dev.phase (State.queueReg.add s t k c x g) := by
    unfold State.queueReg.add
    dsimp only
    split <;> rfl
  unfold State.queueReg
  dsimp only
  split
  · split
    · rfl
    · exact hadd ..
  · exact hadd ..

theorem regCommand_at (d : VReg) (a b : SReg) (ef : Nat) (e : Bool) (z : Fin 8) (red : Option (Fin 4)) :
    OutAt s.dev.phase (regCommand d a b ef e z red s) := by
  refine issue_at fun t => ?_
  dsimp only
  split
  · trivial
  split
  · trivial
  split
  · rfl
  · exact queueReg_at ..

theorem xsig_at (a b : SReg) (e : Bool) (z : Fin 8) : OutAt s.dev.phase (execXsig a b e z s) := by
  refine issue_at fun t => ?_
  dsimp only
  split
  · trivial
  split
  · trivial
  · exact queueReg_at ..

/-! ## Waits and synchronisation -/

theorem atomic_at (op : SyncOp) (d a b : SReg) (w : Bool) : OutAt s.dev.phase (atomic op d a b w s) :=
  issue_at fun _ => sync_at rfl (by exact fun _ _ _ hq => hq) ..

theorem monitorWait_at (op : SyncOp) (d a b : SReg) : OutAt s.dev.phase (monitorWait op d a b s) :=
  issue_at fun _ => sync_at rfl (by exact fun _ _ _ hq => hq) ..

theorem ast_at (a b : SReg) (w : Bool) (z : Fin 8) : OutAt s.dev.phase (execAst a b w z s) := issue_at fun _ => sync_at rfl (by exact fun _ _ _ hq => hq) ..

theorem lkrel_at (a : SReg) (z : Fin 8) : OutAt s.dev.phase (execLkrel a z s) := issue_at fun _ => sync_at rfl (by exact fun _ _ _ hq => hq) ..

theorem lockAcquire_at (op : SyncOp) (d a : SReg) : OutAt s.dev.phase (lockAcquire op d a s) := by
  refine issue_at fun t => ?_
  split
  · exact forgetRequests_phase ..
  · exact sync_at rfl (by exact fun _ _ _ hq => hq) ..

theorem barv_at (d a b : SReg) (z : Fin 8) : OutAt s.dev.phase (execBarv d a b z s) := by
  refine issue_at fun t => ?_
  dsimp only
  split
  · trivial
  split
  · trivial
  split
  · exact sync_at rfl (by exact fun _ _ _ hq => hq) ..
  · exact syncVirtual_at rfl (by exact fun _ _ _ hq => hq) ..

theorem onBarrier_at (a : SReg) (write : Bool) {f : Task → Nat → W64 → W64 → State → Act}
    (hf : ∀ t o v w q, q.dev.phase = s.dev.phase → ActAt s.dev.phase (f t o v w q)) : OutAt s.dev.phase (onBarrier a write f s) := by
  refine issue_at fun t => ?_
  split
  · trivial
  · exact access_at rfl _ _ _ _ fun q hq => hf _ _ _ _ q hq

theorem binit_at (a : SReg) : OutAt s.dev.phase (execBinit a s) := onBarrier_at _ _ fun _ _ _ _ _ hq => (loftWrite_phase ..).trans hq

theorem bexp_at (a b : SReg) : OutAt s.dev.phase (execBexp a b s) := by
  refine onBarrier_at _ _ fun t o v w q hq => ?_
  split
  · exact (loftWrite_phase ..).trans hq
  · trivial

theorem bwait_at (a : SReg) : OutAt s.dev.phase (execBwait a s) := by
  refine onBarrier_at _ _ fun t o v w q hq => ?_
  split <;> exact hq

theorem bwaitPh_at (a b : SReg) : OutAt s.dev.phase (execBwaitPh a b s) := by
  refine onBarrier_at _ _ fun t o v w q hq => ?_
  split <;> exact hq

theorem drain_at (z : Fin 8) : OutAt s.dev.phase (execDrain z s) := by
  refine issue_at fun t => ?_
  split <;> rfl

theorem drainE_at (z : Fin 8) : OutAt s.dev.phase (execDrainE z s) := by
  refine issue_at fun t => ?_
  split <;> rfl

theorem fence_at (z : Fin 8) : OutAt s.dev.phase (execFence z s) := by
  refine issue_at fun t => ?_
  split <;> rfl

theorem tether_at (record : Bool) (d a : SReg) : OutAt s.dev.phase (tether record d a s) := by
  refine issue_at fun t => ?_
  extract_lets obj k e add
  have hadd : (add s).dev.phase = s.dev.phase := insertEntry_phase ..
  clear_value add
  split
  · split
    · rfl
    · trivial
  split
  · exact (rewire_phase ..).trans hadd
  split
  · exact hadd
  · exact (countDeep_phase ..).trans hadd
  · exact deadlock_phase ..

theorem untether_at (f : Task → WfEntry → Bool) : OutAt s.dev.phase (untether f s) :=
  issue_at fun _ => (rewire_phase ..).trans (release_phase ..)

end

end Sys2Proof.Proofs
end

section
namespace Sys2Proof.Proofs
open Machine Laws

/-! ## Micro-words -/

/-- The micro-word, if it is one of the operation's, leaves the machine in phase `p`. -/
def WordAt (p : W64) : Option MAct → Prop
  | some a => MActAt p a
  | none => True

section
variable {s : State} {p : W64}

@[simp] theorem wordAt_some (a : MAct) : WordAt p (some a) ↔ MActAt p a := .rfl
@[simp] theorem wordAt_none : WordAt p none ↔ True := .rfl

theorem micro_at {f : Call → MicroOp → Option MAct} (hf : ∀ k o, WordAt s.dev.phase (f k o)) : OutAt s.dev.phase (micro s f) := by
  have hall : WordAt s.dev.phase (s.unit.running.bind fun k => k.word.bind fun w => f k w) := by
    cases s.unit.running with
    | none => trivial
    | some k =>
      rw [Option.bind_some]
      cases k.word with
      | none => trivial
      | some o => exact hf k o
  unfold micro
  split
  · exact outAt_fault _
  next q hq =>
    rw [hq] at hall
    exact outAt_next.2 hall
  · exact outAt_next.2 (modRun_phase ..)
  next q hq =>
    rw [hq] at hall
    exact outAt_next.2 hall

theorem unop_at : OutAt s.dev.phase (execUnop s) := by
  refine micro_at fun k o => ?_
  split <;> trivial

theorem uldi_at : OutAt s.dev.phase (execUldi s) := by
  refine micro_at fun k o => ?_
  split <;> trivial

theorem uldm_at : OutAt s.dev.phase (execUldm s) := by
  refine micro_at fun k o => ?_
  split <;> trivial

theorem uadd_at : OutAt s.dev.phase (execUadd s) := by
  refine micro_at fun k o => ?_
  split <;> trivial

theorem ulc_at : OutAt s.dev.phase (execUlc s) := by
  refine micro_at fun k o => ?_
  split <;> trivial

theorem ubr_at : OutAt s.dev.phase (execUbr s) := by
  refine micro_at fun k o => ?_
  split
  · extract_lets v taken
    clear_value taken
    split <;> trivial
  · trivial

theorem feedTile_at (k : Call) (i : Fin 8) (tile : Fin 16) (row : Nat) (exp : Byte) : MActAt s.dev.phase (s.feedTile k i tile row exp) := by
  unfold State.feedTile
  split <;> trivial

theorem feedManger_at (k : Call) (i : Fin 8) : MActAt s.dev.phase (s.feedManger k i) := by
  unfold State.feedManger
  split
  · trivial
  split
  · rfl
  next r rs _ =>
    extract_lets a
    have h := endsAt_foldlM (Q := fun q : State => q.dev.phase = s.dev.phase) (fun q g hq =>
      loftReady_at (Q := fun q => q.dev.phase = s.dev.phase) hq (fun _ h => h) a false false g)
      (fun _ h => h) (granules (feedSpans r)) (s := s) rfl
    split
    next q hq => exact h.of_held hq
    · rfl
    next q hq =>
      have hq' := h.of_ok hq
      dsimp only
      rw [mActAt_ok, fillSlot_phase]
      split <;> exact hq'

theorem feedLoft_at (k : Call) (i : Fin 8) (g : Nat) (exp : Byte) : MActAt s.dev.phase (s.feedLoft k i g exp) := by
  unfold State.feedLoft
  extract_lets a4 n a
  clear_value a4 n
  have h := endsAt_foldlM (Q := fun q : State => q.dev.phase = s.dev.phase) (fun q g hq =>
      loftReady_at (Q := fun q => q.dev.phase = s.dev.phase) hq (fun _ h => h) a false false g)
    (fun _ h => h) ((List.range n).map (g + ·)) (s := s) rfl
  split
  next q hq => exact h.of_held hq
  · rfl
  next q hq =>
    have hq' := h.of_ok hq
    exact hq'

theorem ufeed_at : OutAt s.dev.phase (execUfeed s) := by
  refine micro_at fun k o => ?_
  split
  · dsimp only
    rw [wordAt_some]
    split
    · trivial
    split
    · exact feedTile_at ..
    · exact feedManger_at ..
    · exact feedLoft_at ..
  · trivial

theorem passChecked_at (k : Call) (k0 row col nm fan : Nat) (set nort : Bool) : MActAt s.dev.phase (s.passChecked k k0 row col nm fan set nort) := by
  unfold State.passChecked
  dsimp only
  split
  · trivial
  split
  · trivial
  split
  · trivial
  split
  · trivial
  split
  · rfl
  · exact pass_phase ..

theorem upass_at : OutAt s.dev.phase (execUpass s) := by
  refine micro_at fun k o => ?_
  split
  · dsimp only
    rw [wordAt_some]
    split <;> exact passChecked_at ..
  · trivial

theorem uzero_at : OutAt s.dev.phase (execUzero s) := by
  refine micro_at fun k o => ?_
  split
  · dsimp only
    rw [wordAt_some]
    split
    · rfl
    split
    · trivial
    split <;> rfl
  · trivial

theorem outRow_at (k : Call) (row trow col : Nat) (tile : Fin 16) (b : Bool) : MActAt s.dev.phase (s.outRow k row trow col tile b) := by
  unfold State.outRow
  split
  · trivial
  split
  · trivial
  split
  · trivial
  split
  · trivial
  split
  · trivial
  split <;> rfl

theorem uout_at : OutAt s.dev.phase (execUout s) := by
  refine micro_at fun k o => ?_
  split
  · dsimp only
    rw [wordAt_some]
    split <;> exact outRow_at ..
  · trivial

theorem uwin_at : OutAt s.dev.phase (execUwin s) := by
  refine micro_at fun k o => ?_
  split
  · dsimp only
    rw [wordAt_some]
    split
    · trivial
    · rfl
  · trivial

theorem uspl_at : OutAt s.dev.phase (execUspl s) := by
  refine micro_at fun k o => ?_
  split
  · dsimp only
    rw [wordAt_some]
    split
    · trivial
    · rfl
  · trivial

theorem ucal_at : OutAt s.dev.phase (execUcal s) := by
  refine micro_at fun k o => ?_
  split
  · extract_lets f l ms any v
    clear_value v
    rw [wordAt_some]
    split
    · trivial
    · rfl
  · trivial

theorem ustat_at : OutAt s.dev.phase (execUstat s) := by
  refine micro_at fun k o => ?_
  split <;> trivial

end

end Sys2Proof.Proofs
end

section
namespace Sys2Proof.Proofs
open Machine Laws

/-! ## The map unit -/

section
variable {p : W64} {s : State} {Q : State → Prop}

theorem tryMap_phase (n : CoreId) {step : State → Cmd → Except Stop State}
    (hstep : ∀ (q : State) k, EndsAt q.dev.phase (fun r : State => r.dev.phase = q.dev.phase) (step q k)) (ks : List Cmd) :
    (s.tryMap n step ks).dev.phase = s.dev.phase := by
  induction ks generalizing s with
  | nil => rfl
  | cons k ks ih =>
    have h := settleStep_at (s := s) rfl (hstep s k) n k.uid
    unfold State.tryMap
    split
    next q hq =>
      rw [hq] at h
      exact h
    next q hq =>
      rw [hq] at h
      exact ih.trans h

theorem recordBytes_at {Q : State × List Byte → Prop} (h : s.dev.phase = p) (hQ : ∀ q bs, q.dev.phase = p → Q (q, bs)) (n : CoreId) (k : Cmd) :
    EndsAt p Q (s.recordBytes n k) := by
  unfold State.recordBytes
  rw [endsAt_bind]
  exact readUnit_at h (fun q bs hq => hQ q _ hq) ..

theorem fetchRecord_at (h : s.dev.phase = p) (hQ : ∀ q, q.dev.phase = p → Q q) (n : CoreId) (k : Cmd) : EndsAt p Q (s.fetchRecord n k) := by
  unfold State.fetchRecord
  rw [endsAt_bind]
  refine recordBytes_at h (fun q bs hq => ?_) ..
  exact hQ _ ((mapDone_phase ..).trans hq)

theorem fetchStep_at (h : s.dev.phase = p) (hQ : ∀ q, q.dev.phase = p → Q q) (n : CoreId) (k : Cmd) : EndsAt p Q (s.fetchStep n k) := by
  unfold State.fetchStep
  split
  · exact fetchRecord_at h hQ ..
  dsimp only
  split
  · trivial
  rw [endsAt_bind]
  refine resolve_at h (fun pa => hQ _ ((removeCmd_phase ..).trans ((chargeDram_phase ..).trans ((readBeat_phase ..).trans ?_)))) ..
  split
  · exact h
  split <;> exact h

theorem imagedStep_at (h : s.dev.phase = p) (hQ : ∀ q, q.dev.phase = p → Q q) (n : CoreId) (k : Cmd) : EndsAt p Q (s.imagedStep n k) := by
  unfold State.imagedStep
  rw [endsAt_bind]
  refine stepCmd_at h (fun q hq => ?_) ..
  dsimp only
  split
  · exact hQ _ hq
  · exact hQ _ hq

/-- The header of an image, once its bytes are read. -/
theorem imageHead_at (h : s.dev.phase = p) (hQ : ∀ q, q.dev.phase = p → Q q) (n : CoreId) (k : Cmd) (x : CoreCtx) (va adr len : Nat) :
    EndsAt p Q (if adr = 0 ∨ len = 0 then return s.mapDone n k
      else if len % 64 ≠ 0 ∨ x.psize < len then throw (.fault 0x02 va)
      else return s.modCmd n k.uid fun k => { k with gran := 1, src := granuleRecord 0 adr len, dst := granuleRecord 1 0 len }) := by
  split
  · exact hQ _ ((mapDone_phase ..).trans h)
  split
  · trivial
  · exact hQ _ ((modCmd_phase ..).trans h)

theorem imageStep_at (h : s.dev.phase = p) (hQ : ∀ q, q.dev.phase = p → Q q) (n : CoreId) (k : Cmd) : EndsAt p Q (s.imageStep n k) := by
  unfold State.imageStep
  dsimp only
  split
  · split
    · trivial
    split
    · rw [endsAt_bind]
      exact recordBytes_at h (fun q bs hq => imageHead_at hq hQ ..) ..
    · rw [endsAt_bind, endsAt_map]
      exact resolve_at h (fun pa => imageHead_at h hQ ..) ..
  split
  · exact imagedStep_at h hQ ..
  rw [endsAt_bind]
  refine resolve_at h (fun pa => ?_) ..
  rw [endsAt_bind]
  refine physReady_at h ?_ ..
  split
  · exact hQ _ ((removeCmd_phase ..).trans ((chargeCopy_phase ..).trans ((chargeDram_phase ..).trans ((readBeat_phase ..).trans h))))
  · exact hQ _ ((modCmd_phase ..).trans ((chargeCopy_phase ..).trans ((chargeDram_phase ..).trans ((readBeat_phase ..).trans h))))

theorem fillStep_at (h : s.dev.phase = p) (hQ : ∀ q, q.dev.phase = p → Q q) (n : CoreId) (k : Cmd) : EndsAt p Q (s.fillStep n k) := by
  unfold State.fillStep
  split
  · exact imagedStep_at h hQ ..
  dsimp only
  rw [endsAt_bind]
  refine resolve_at h (fun pa => ?_) ..
  split
  · exact h
  split
  · trivial
  · exact h
  · refine hQ _ ((removeCmd_phase ..).trans ((chargeCopy_phase ..).trans ((chargeDram_phase ..).trans ((readBeat_phase ..).trans ?_))))
    split <;> exact h

theorem writeBackStep_at (h : s.dev.phase = p) (hQ : ∀ q, q.dev.phase = p → Q q) (n : CoreId) (k : Cmd) : EndsAt p Q (s.writeBackStep n k) := by
  unfold State.writeBackStep
  dsimp only
  split
  · exact imagedStep_at h hQ ..
  split
  · exact h
  split
  · exact hQ _ ((removeCmd_phase ..).trans h)
  split
  · exact h
  rw [endsAt_bind]
  refine resolve_at h (fun pa => ?_) ..
  split
  · exact h
  split
  · trivial
  · exact h
  · split
    · exact hQ _ ((removeCmd_phase ..).trans ((chargeCopy_phase ..).trans ((chargeDram_phase ..).trans ((physPut_phase ..).trans h))))
    · exact hQ _ ((modCmd_phase ..).trans ((sendPacket_phase ..).trans h))

theorem stampStep_at (h : s.dev.phase = p) (hQ : ∀ q, q.dev.phase = p → Q q) (n : CoreId) (k : Cmd) : EndsAt p Q (s.stampStep n k) := by
  unfold State.stampStep
  split
  · exact h
  split
  · exact hQ _ ((removeCmd_phase ..).trans h)
  split
  · exact h
  split
  · trivial
  rw [endsAt_bind]
  refine resolve_at h (fun pa => ?_) ..
  dsimp only
  split
  · trivial
  · exact h
  · split
    · exact hQ _ ((removeCmd_phase ..).trans ((chargeDram_phase ..).trans ((physPut_phase ..).trans h)))
    · exact hQ _ ((modCmd_phase ..).trans ((sendPacket_phase ..).trans h))

end

/-! ## Before a group -/

/-- What comes before a group leaves the machine in phase `p`. -/
def PrepAt (p : W64) : Prep → Prop
  | .stop s | .go s _ _ => s.dev.phase = p

section
variable {p : W64} {s : State}

theorem decodeAt_at (h : s.dev.phase = p) (t : Task) (bun : BitVec 128) (held : Bool) : PrepAt p (s.decodeAt t bun held) := by
  unfold State.decodeAt
  dsimp only
  split
  · exact (takeTrap_phase ..).trans h
  split
  · exact (takeTrap_phase ..).trans h
  · exact h

theorem fetchAt_at (h : s.dev.phase = p) (t : Task) : PrepAt p (s.fetchAt t) := by
  unfold State.fetchAt
  split
  · exact decodeAt_at h ..
  dsimp only
  split
  · exact (registerWait_phase ..).trans h
  split
  · refine decodeAt_at ?_ ..
    rw [setLive_dev, moveFetch_phase, countFetch_phase, h]
  · exact (registerWait_phase ..).trans ((startFetch_phase ..).trans h)

theorem prepare_at (h : s.dev.phase = p) (t : Task) : PrepAt p (s.prepare t) := by
  unfold State.prepare
  extract_lets s0
  have h0 := (repost_phase s0 t).trans h
  generalize s0.repost t = q at h0
  obtain ⟨q, u⟩ := q
  dsimp only at h0 ⊢
  split
  · exact (takeTrap_phase ..).trans h0
  split
  · exact (registerWait_phase ..).trans h0
  split
  · exact fetchAt_at h0 ..
  split
  · exact fetchAt_at ((closeInvs_phase ..).trans h0) ..
  · exact (registerWait_phase ..).trans h0

end

end Sys2Proof.Proofs
end

section
namespace Sys2Proof.Proofs
open Machine Laws

/-! ## Events -/

section
variable {s : State}

theorem instructionFetch_at : OutAt s.dev.phase (execInstructionFetch s) :=
  outAt_next.2 (tryMap_phase _ (fun _ _ => fetchStep_at rfl (fun _ h => h) ..) _)

theorem bundleDecode_at : OutAt s.dev.phase (execBundleDecode s) := by
  unfold execBundleDecode
  extract_lets s'
  have h' : s'.dev.phase = s.dev.phase := rfl
  clear_value s'
  rw [outAt_next]
  split
  · rfl
  split
  · rfl
  next t _ _ =>
    have h := prepare_at h' t
    split
    next r hr =>
      rw [hr] at h
      exact h
    next r _ _ hr =>
      rw [hr] at h
      exact h

theorem effRecompute_at : OutAt s.dev.phase (execEffRecompute s) := outAt_next.2 ((recomputeEff_phase ..).trans (rewire_phase ..))

theorem commandActivate_at : OutAt s.dev.phase (execCommandActivate s) := by
  refine outAt_next.2 ?_
  split
  · rfl
  split
  · rfl
  dsimp only
  split
  · exact failCheck_phase ..
  · rfl

theorem granuleDeliver_at : OutAt s.dev.phase (execGranuleDeliver s) := by
  refine outAt_next.2 ?_
  dsimp only
  split
  · exact tryMap_phase _ (fun _ _ => imageStep_at rfl (fun _ h => h) ..) _
  · exact tryCmds_phase ..

theorem pageWalk_at : OutAt s.dev.phase (execPageWalk s) := by
  refine outAt_next.2 ?_
  split
  · exact closeInvs_phase ..
  · exact (endWalk_phase ..).trans (closeInvs_phase ..)

theorem regionFill_at : OutAt s.dev.phase (execRegionFill s) :=
  outAt_next.2 ((tryMap_phase _ (fun _ _ => fillStep_at rfl (fun _ h => h) ..) _).trans (syncAll_phase ..))

theorem writeBack_at : OutAt s.dev.phase (execWriteBack s) :=
  outAt_next.2 ((freeIdle_phase ..).trans ((tryMap_phase _ (fun _ _ => writeBackStep_at rfl (fun _ h => h) ..) _).trans (syncAll_phase ..)))

theorem ready_at (p : Packet → Bool) : (match s.ready p with | some q => s.meetPacket q | none => s).dev.phase = s.dev.phase := by
  split
  · exact meetPacket_phase ..
  · rfl

theorem routerMerge_at : OutAt s.dev.phase (execRouterMerge s) := by
  unfold execRouterMerge
  extract_lets put
  have hput (a b : Packet) (o : Option Packet) : (put a b o).dev.phase = s.dev.phase := rfl
  clear_value put
  rw [outAt_next]
  split
  · split
    · exact hput ..
    split
    · exact hput ..
    split
    · split
      · exact hput ..
      · rfl
    · rfl
  · split
    · exact hput ..
    · rfl
  · rfl

theorem remoteAtomic_at : OutAt s.dev.phase (execRemoteAtomic s) := by
  refine outAt_next.2 ?_
  split
  · split
    · exact answerPacket_phase ..
    · rfl
  · rfl

theorem jobCompletionStamp_at : OutAt s.dev.phase (execJobCompletionStamp s) :=
  outAt_next.2 (tryMap_phase _ (fun _ _ => stampStep_at rfl (fun _ h => h) ..) _)

theorem callStart_at : OutAt s.dev.phase (execCallStart s) := by
  refine outAt_next.2 ?_
  dsimp only
  split
  · rfl
  split
  · rfl
  split
  · rfl
  split
  · rfl
  split
  · exact finishCall_phase ..
  · rfl

theorem mtaccMember_at : OutAt s.dev.phase (execMtaccMember s) := by
  refine outAt_next.2 ?_
  dsimp only
  split
  · rfl
  split
  · rfl
  split
  · exact finishMtacc_phase ..
  split
  · exact finishMtacc_phase ..
  split
  · rfl
  split
  · exact finishMtacc_phase ..
  · rfl

theorem calibrationEnd_at : OutAt s.dev.phase (execCalibrationEnd s) := by
  refine outAt_next.2 ?_
  split <;> rfl

theorem temperatureSample_at : OutAt s.dev.phase (execTemperatureSample s) := by
  unfold execTemperatureSample
  extract_lets die t sampled s1 s2
  have h2 : s2.dev.phase = s.dev.phase := sample_phase ..
  clear_value s2
  rw [outAt_next]
  split
  · exact (trip_phase ..).trans h2
  · exact h2

theorem computeBudgetExpiry_at : OutAt s.dev.phase (execComputeBudgetExpiry s) := by
  refine outAt_next.2 ?_
  split
  · exact straggleAll_phase ..
  · rfl

theorem exchangeBudgetExpiry_at : OutAt s.dev.phase (execExchangeBudgetExpiry s) := by
  refine outAt_next.2 ?_
  dsimp only
  split
  · split
    · exact straggleAll_phase ..
    · exact (cancelMtaccs_phase ..).trans (straggleAll_phase ..)
  · rfl

theorem truncation_at : OutAt s.dev.phase (execTruncation s) := by
  refine outAt_next.2 ?_
  split
  · exact truncate_phase ..
  · rfl

theorem dispatch_at : OutAt s.dev.phase (execDispatch s) := by
  unfold execDispatch
  extract_lets n q
  rw [outAt_next]
  have he : q.dev.phase = s.dev.phase := (endGrid_at rfl n).getD rfl
  clear_value q
  split
  · exact he
  · exact (joinReserve_at he n).getD ((takeWork_phase ..).trans he)

theorem preemptionRequest_at : OutAt s.dev.phase (execPreemptionRequest s) := by
  refine outAt_next.2 ?_
  split
  · rfl
  split <;> rfl

theorem teamStart_at : OutAt s.dev.phase (execTeamStart s) := by
  refine outAt_next.2 ?_
  split
  · rfl
  split
  · exact startMembers_phase ..
  · rfl

theorem stealRequest_at : OutAt s.dev.phase (execStealRequest s) := by
  refine outAt_next.2 ?_
  split
  · rfl
  · generalize s.drawVictim _ _ _ = d
    rfl

theorem stealAnswer_at : OutAt s.dev.phase (execStealAnswer s) := by
  refine outAt_next.2 ?_
  split
  · rfl
  dsimp only
  split
  · rfl
  split
  · exact push_phase ..
  · rfl

theorem deviceCtxsw_at : OutAt s.dev.phase (execDeviceCtxsw s) := by
  refine outAt_next.2 ?_
  split
  · rfl
  dsimp only
  split
  · exact switchOut_phase ..
  · rfl

theorem contextRestore_at : OutAt s.dev.phase (execContextRestore s) := by
  unfold execContextRestore
  extract_lets c mine
  clear_value mine
  rw [outAt_next]
  split
  · rfl
  next t _ =>
    have hteam (l : List (CoreId × Task)) (b : Bool) : (if b = true then l.foldl (fun s p => s.restoreTask p.1 p.2) s else s).dev.phase = s.dev.phase := by
      split
      · exact foldl_phase _ _ fun _ _ => restoreTask_phase ..
      · rfl
    split
    · rfl
    · exact hteam _ _

theorem uncorrectableError_at : OutAt s.dev.phase (execUncorrectableError s) := by
  refine outAt_next.2 ?_
  split
  · exact correctAt_phase ..
  split
  · rfl
  split
  · have h := destroy_phase s s.on.ctx
    generalize s.destroy s.on.ctx = q at h ⊢
    exact h
  · rfl

/-! ## Events at the ports -/

theorem launchPacket_at : OutAt s.dev.phase (execLaunchPacket s) := by
  refine outAt_next.2 ?_
  split
  · exact performHeld_phase ..
  · exact launchArrives_phase ..

theorem rdmaWrite_at : OutAt s.dev.phase (execRdmaWrite s) := by
  refine outAt_next.2 ?_
  split
  · exact performHeld_phase ..
  split
  · exact launchArrives_phase ..
  · exact hostRequest_phase ..

theorem rdmaRead_at : OutAt s.dev.phase (execRdmaRead s) := by
  refine outAt_next.2 ?_
  split
  · exact performHeld_phase ..
  · exact hostRequest_phase ..

theorem send_at : OutAt s.dev.phase (execSend s) := by
  refine outAt_next.2 ?_
  split
  · exact performHeld_phase ..
  split
  · exact badRequest_phase ..
  · exact hostRequest_phase ..

theorem ceMarkedPacket_at : OutAt s.dev.phase (execCeMarkedPacket s) := by
  refine outAt_next.2 ?_
  split <;> rfl

theorem cnp_at : OutAt s.dev.phase (execCnp s) := by
  refine outAt_next.2 ?_
  split <;> rfl

theorem rateRecovery_at : OutAt s.dev.phase (execRateRecovery s) := by
  refine outAt_next.2 ?_
  split <;> rfl

theorem doorbell_at : OutAt s.dev.phase (execDoorbell s) := by
  refine outAt_next.2 ?_
  split
  · rfl
  split
  · rfl
  dsimp only
  split <;> rfl

theorem workRequestRead_at : OutAt s.dev.phase (execWorkRequestRead s) := by
  refine outAt_next.2 (takeRequest_phase _ fun r k => ?_)
  split
  · split <;> rfl
  dsimp only
  split
  · rfl
  split
  · rfl
  · exact portWrite_phase ..

theorem workRequestEnd_at : OutAt s.dev.phase (execWorkRequestEnd s) := by
  refine outAt_next.2 ?_
  split
  · rfl
  split
  · exact endRequest_phase ..
  · rfl

theorem dataFrame_at : OutAt s.dev.phase (execDataFrame s) := by
  refine outAt_next.2 (onFrame_phase _ fun q i h => ?_)
  extract_lets r l take
  have htake (u : State) : (take u).dev.phase = u.dev.phase := rfl
  clear_value take
  have hr := arriveReq_phase q r
  split
  · rfl
  split
  · exact htake ..
  split
  · exact (htake ..).trans ((answerLaunch_phase ..).trans (refuseLaunch_phase ..))
  split
  next u hu =>
    rw [hu] at hr
    exact (htake ..).trans hr
  next u hu =>
    rw [hu] at hr
    exact hr

theorem acknowledgementFrame_at : OutAt s.dev.phase (execAcknowledgementFrame s) := by
  refine outAt_next.2 ?_
  split
  · exact performHeld_phase ..
  · exact onFrame_phase _ fun _ _ _ => rfl

theorem replayRequest_at : OutAt s.dev.phase (execReplayRequest s) := by
  refine outAt_next.2 (onFrame_phase _ fun q i _ => ?_)
  dsimp only
  split
  · rfl
  split
  · exact loseLink_phase ..
  · exact foldl_phase _ _ fun _ _ => rfl

theorem corruptFrame_at : OutAt s.dev.phase (execCorruptFrame s) := by
  unfold execCorruptFrame
  extract_lets p bad
  clear_value bad
  rw [outAt_next]
  split <;> rfl

/-! ## The management port -/

theorem hello_at : OutAt s.dev.phase (execHello s) := by
  refine outAt_next.2 ?_
  split
  · rfl
  split
  · rfl
  split <;> rfl

/-- A request after which the device does not start keeps the phase if what it does keeps it. -/
theorem mgmtRequest_phase (mine : Nat → Bool) (minimal : Bool) {f : State → Datagram → Reply}
    (hf : ∀ d, (f s d).state.dev.phase = s.dev.phase ∧ (f s d).after = none) : (s.mgmtRequest mine minimal f).dev.phase = s.dev.phase := by
  have hanswer (d : Datagram) {r : Reply} (hr : r.state.dev.phase = s.dev.phase ∧ r.after = none) : (s.answer d r).dev.phase = s.dev.phase := by
    unfold State.answer
    rw [hr.2]
    exact hr.1
  unfold State.mgmtRequest
  split
  · rfl
  split
  · rfl
  dsimp only
  split
  · rfl
  split
  · rfl
  split
  · rfl
  split
  · rfl
  split
  · exact hanswer _ ⟨rfl, rfl⟩
  · exact hanswer _ (hf _)

theorem readStartUpReport_at : OutAt s.dev.phase (execReadStartUpReport s) := by
  refine outAt_next.2 (mgmtRequest_phase _ _ fun d => ?_)
  split <;> exact ⟨rfl, rfl⟩

theorem setModuleNumber_at : OutAt s.dev.phase (execSetModuleNumber s) := by
  refine outAt_next.2 (mgmtRequest_phase _ _ fun d => ?_)
  split <;> exact ⟨rfl, rfl⟩

theorem setQueuePairTableBase_at : OutAt s.dev.phase (execSetQueuePairTableBase s) := by
  refine outAt_next.2 (mgmtRequest_phase _ _ fun d => ?_)
  split <;> exact ⟨rfl, rfl⟩

theorem requestBankRetirement_at : OutAt s.dev.phase (execRequestBankRetirement s) := by
  refine outAt_next.2 (mgmtRequest_phase _ _ fun d => ?_)
  split <;> exact ⟨rfl, rfl⟩

theorem readMeterPage_at : OutAt s.dev.phase (execReadMeterPage s) := by
  refine outAt_next.2 (mgmtRequest_phase _ _ fun d => ?_)
  dsimp only
  split <;> exact ⟨rfl, rfl⟩

theorem readMonitor_at : OutAt s.dev.phase (execReadMonitor s) := by
  refine outAt_next.2 (mgmtRequest_phase _ _ fun d => ?_)
  dsimp only
  split
  · exact ⟨rfl, rfl⟩
  · refine ⟨?_, rfl⟩
    dsimp only
    split <;> rfl

theorem writeFlashImage_at : OutAt s.dev.phase (execWriteFlashImage s) := outAt_next.2 (mgmtRequest_phase _ _ fun _ => ⟨rfl, rfl⟩)

theorem opNotKnown_at : OutAt s.dev.phase (execOpNotKnown s) := outAt_next.2 (mgmtRequest_phase _ _ fun _ => ⟨rfl, rfl⟩)

end

end Sys2Proof.Proofs
end

section
namespace Sys2Proof.Proofs
open Machine Laws

/-! ## Closes and starts (R323, R489) -/

section
variable {s : State}

theorem openCompute_phase (s : State) : (openCompute s).dev.phase = s.dev.phase := congrArg (·.phase) (openCompute_dev s)

theorem settledMeters_phase (s : State) : (settledMeters s).dev.phase = s.dev.phase := settledMeters_dev_proj (·.phase) (fun _ _ => rfl) s

theorem beginCompute_phase (s : State) : s.beginCompute.dev.phase = s.dev.phase := by
  have ho := (openCompute_phase (settledMeters s)).trans (settledMeters_phase s)
  rw [beginCompute_eq]
  split
  · exact (truncate_phase ..).trans ho
  · exact ho

theorem beginExchange_phase (s : State) : s.beginExchange.dev.phase = s.dev.phase := congrArg (·.phase) (beginExchange_dev s)

theorem computeClose_moves {s' : State} (h : exec .computeClose s = .next s') : s'.dev.phase = s.dev.phase ∨ s'.dev.phase = s.dev.phase + 1 := by
  obtain rfl := Host.Outcome.next.inj h
  split
  · exact .inl rfl
  · refine .inr ((beginExchange_phase _).trans ((advance_phase _).trans (congrArg (· + 1) ?_)))
    split
    · exact truncate_phase s
    · rfl

theorem exchangeClose_moves {s' : State} (h : exec .exchangeClose s = .next s') : s'.dev.phase = s.dev.phase ∨ s'.dev.phase = s.dev.phase + 1 := by
  obtain rfl := Host.Outcome.next.inj h
  split
  · exact .inl rfl
  · exact .inr ((beginCompute_phase _).trans (advance_phase s))

theorem stopsStart_phase {k : State} (seed step : Nat) (v : Findings) (hs : s.dev.phase = 0) (hk : k.dev.phase = 0) :
    (s.stopsStart seed step v k).dev.phase = 0 := by
  unfold State.stopsStart
  split
  · split
    · exact hs
    · exact hk
  · exact hk

/-- A device that starts is in phase 0, however the start ends. -/
theorem start_phase (s : State) : s.start.dev.phase = 0 := by
  have hc : s.cleared.dev.phase = 0 := rfl
  unfold State.start
  dsimp only
  generalize s.cleared = q at hc
  split
  · exact hc
  refine stopsStart_phase _ _ _ hc ?_
  split
  · exact hc
  split
  · exact hc
  refine stopsStart_phase _ _ _ hc (stopsStart_phase _ _ _ hc ?_)
  split
  · exact hc
  · exact (boot_keeps ..).1.trans hc

/-- A request after which the device may start. -/
theorem mgmtRequest_starts (mine : Nat → Bool) (minimal : Bool) {f : State → Datagram → Reply} (hf : ∀ d, (f s d).state.dev.phase = s.dev.phase) :
    (s.mgmtRequest mine minimal f).dev.phase = s.dev.phase ∨ (s.mgmtRequest mine minimal f).dev.phase = 0 := by
  have hanswer (d : Datagram) {r : Reply} (hr : r.state.dev.phase = s.dev.phase) :
      (s.answer d r).dev.phase = s.dev.phase ∨ (s.answer d r).dev.phase = 0 := by
    unfold State.answer
    dsimp only
    split
    · exact .inr (start_phase _)
    · exact .inl hr
  unfold State.mgmtRequest
  split
  · exact .inl rfl
  split
  · exact .inl rfl
  dsimp only
  split
  · exact .inl rfl
  split
  · exact .inl rfl
  split
  · exact .inl rfl
  split
  · exact .inl rfl
  split
  · exact hanswer _ rfl
  · exact hanswer _ (hf _)

theorem retryStart_moves {s' : State} (h : exec .retryStart s = .next s') : s'.dev.phase = s.dev.phase ∨ s'.dev.phase = 0 := by
  obtain rfl := Host.Outcome.next.inj h
  refine mgmtRequest_starts _ _ fun d => ?_
  split <;> rfl

theorem resetRequest_moves {s' : State} (h : exec .resetRequest s = .next s') : s'.dev.phase = s.dev.phase ∨ s'.dev.phase = 0 := by
  obtain rfl := Host.Outcome.next.inj h
  exact mgmtRequest_starts _ _ fun _ => rfl

theorem commitFlashImage_moves {s' : State} (h : exec .commitFlashImage s = .next s') : s'.dev.phase = s.dev.phase ∨ s'.dev.phase = 0 := by
  obtain rfl := Host.Outcome.next.inj h
  refine mgmtRequest_starts _ _ fun d => ?_
  dsimp only
  split <;> rfl

theorem powerOn_moves {s' : State} (h : exec .powerOn s = .next s') : s'.dev.phase = s.dev.phase ∨ s'.dev.phase = 0 := by
  obtain rfl := Host.Outcome.next.inj h
  split
  · exact .inl rfl
  · exact .inr (start_phase s)

end

end Sys2Proof.Proofs
end

section
namespace Sys2Proof.Proofs
open Machine Laws

/-! ## Every instruction, micro-word and event -/

theorem exec_at {i : Instr} {s : State} (h : movesPhase i = false) : OutAt s.dev.phase (exec i s) := by
  cases i with
  | add | sub | mul | mulh | div | rem | and | or | xor | andn | sll | srl | sra | slt | min | max | adds | subs | clz | ctz | popc | shadd | addi |
    andi | ori | xori | slti | sltiu | muli | seqi | lui | adrb | slli | srli | srai | bfx | kand | kor | kxor | kandn | kset | kcnt | kfind | phase |
    phaseC | phleft | phuntil | vadd | vadds | vsub | vsubs | vmul | vmulh | vmin | vmax | vand | vor | vxor | vsll | vsr | vcmp | vsplat | vmvs |
    vfadd | vfsub | vfmul | vfdiv | vfsqrt | vfrsqrt | vfmin | vfmax | vfabs | vfneg | vfcmp | vfsplat | vfscl | vfsgnj | vfmaF32 | vfnmaF32 |
    vfmaBf16 | vfmaF16 | vfmawBf16 | vsel | vcvt | vbmax | vqnt | vdqnt | vhad | vfrnd | vbhdr | vfexp2 | vperm | vslideup | vslidedn | vred | vscan |
    vidx | tdef | mgset | mgoff | mgget | mggetN | mucr | cpyr | cpys | recw | recr | cpyxStat | nop =>
    exact onTask_at _
  | beq | bne | blt | bge | bltu | bgeu => unfold exec; exact branchIf_at _ _ _ _
  | br | call | jr | ctabw | park => exact issue_at fun _ => rfl
  | callr => exact callr_at _ _ _
  | loop => exact loop_at _ _
  | ret => exact ret_at _
  | rdc | wrc => exact ctrlForm_at _ _ _
  | setc d a n => exact ctrlRun_at (.setc d a n)
  | clrc d a n => exact ctrlRun_at (.clrc d a n)
  | xchc d a n => exact ctrlRun_at (.xchc d a n)
  | addc d a n => exact ctrlRun_at (.addc d a n)
  | rdcz d n => exact ctrlRun_at (.rdcz d n)
  | rdcr => exact rdcr_at _ _
  | writeCVl | writeCPri | writeCTdim | writeCRgva | writeCRgloc | writeCRngd | writeCPtbase | writeCPtlog | writeCNsave | writeCQueue | writeCWfdl
    | writeCPstat =>
    unfold exec; exact writeRow_at _ _
  | tlbinvPage => exact tlbinvPage_at _ _ _
  | tlbinvCtx => exact tlbinvCtx_at _
  | rgsyncWb | rgsyncFill | rgsyncEvict | rgsyncDiscard => exact rgsync_at _ _ _
  | spawn => exact issue_at fun _ => spawnTo_at rfl ..
  | spawnt => exact spawnt_at _ _
  | join => exact issue_at fun _ => joinAt_at rfl _ _ fun _ _ hq => hq
  | grow => exact grow_at _ _
  | tendj => exact tendj_at _
  | launch => exact launch_at _ _ _
  | trap => exact trap_at _
  | ckpt => exact ckpt_at _
  | fqwait => exact fqwait_at _
  | fqpop => exact fqpop_at _ _ _
  | ctxkill => exact ctxkill_at _
  | ctxrel => exact ctxrel_at _
  | tzero => exact onTile_at _ fun _ _ => rfl
  | ttrn => exact ttrn_at _ _
  | tcvt => exact tcvt_at _ _
  | tgetr => exact tgetr_at _ _ _
  | tputr => exact tputr_at _ _ _
  | mcall | mcallRty => exact matrixCall_at _ _ _ _ _
  | mmodeS => exact mmodeS_at _
  | mmodeC => exact mmodeC_at _
  | mmodeRd | mcal | mcalRd | mpw | mpr | mstat | mstatClip | mdrainU => exact onUnit_at fun _ => rfl
  | mdescRd => exact mdescRd_at _ _
  | mdescWr => exact mdescWr_at _ _
  | mucw => exact mucw_at _ _
  | mcwait => exact mcwait_at _
  | mdrainA => exact mdrainA_at _ _
  | mdrainB => exact mdrainB_at _ _
  | mrestA => exact mrestA_at _ _
  | mrestB => exact mrestB_at _ _
  | mrestU => exact mrestU_at _
  | mzero => exact mzero_at _
  | mtacc => exact mtacc_at _ _ _
  | ldScalar | ldScalarX => exact loadScalar_at _ _ _
  | stScalar | stScalarX => exact storeScalar_at _ _ _
  | ldVector | ldw | ldVectorX | ldwX => unfold exec; exact loadVector_at _ _ _
  | stVector | stw | stVectorX | stwX => unfold exec; exact storeVector_at _ _ _
  | ldrec => exact ldrec_at _ _ _
  | strec => exact strec_at _ _ _
  | ldg => unfold exec; exact recAccess_at _ _ _ fun _ _ _ _ hq => hq
  | stg => unfold exec; exact recAccess_at _ _ _ fun _ _ _ _ hq => (storeUnits_phase ..).trans hq
  | ldf => unfold exec; exact tagged_at _ _ _ _ (by exact fun _ _ _ => (setTag_phase ..).trans (takeWord_phase ..))
  | ldfp => unfold exec; exact tagged_at _ _ _ _ (by exact fun _ _ _ => takeWord_phase ..)
  | stf | stfx => unfold exec; exact tagged_at _ _ _ _ (by exact fun _ _ _ => putWord_phase ..)
  | tagrd => exact tagrd_at _ _ _
  | tagwF | tagwE => exact tagWrite_at _ _ _
  | racqW | racqR => exact ringClaim_at _ _ _
  | rrelW | rrelR => exact ringRelease_at _ _
  | cpy => exact cpy_at _ _ _ _
  | cpyg => exact cpyg_at _ _
  | cpyc => exact cpyc_at _
  | cpyxResume => exact cpyxResume_at _ _
  | cpyxAbort => exact cpyxAbort_at _
  | xfer | xredAdd | xredMax | xredMin => exact regCommand_at _ _ _ _ _ _ _
  | xsig => exact xsig_at _ _ _ _
  | aadd | aand | aor | axch | amax | amin | acas | ald => exact atomic_at _ _ _ _ _
  | binit => exact binit_at _
  | bexp => exact bexp_at _ _
  | barv d a b z => exact barv_at d a b z
  | bwait => exact bwait_at _
  | bwaitPh => exact bwaitPh_at _ _
  | mwaitGe | mwaitNe => exact monitorWait_at _ _ _ _
  | drain z => exact drain_at z
  | drainE z => exact drainE_at z
  | fence z => exact fence_at z
  | ast a b w z => exact ast_at a b w z
  | teth | tethown => exact tether_at _ _ _
  | unteth | untethO | untethA => exact untether_at _
  | lkacq | lkacqTry => exact lockAcquire_at _ _ _
  | lkrel a z => exact lkrel_at a z
  | tlbinvAll => exact tlbinvAll_at
  | phreq => exact phreq_at
  | tend => exact issue_at fun _ => tend_at rfl _ fun _ q hg hq => hg q hq
  | rett => exact rett_at
  | ctxsw | ctxswRel => exact contextSwitch_at _
  | mgarm => exact mgarm_at
  | mgdrop => exact mgdrop_at
  | mcwaitAll => exact mcwaitAll_at
  | ctabc => exact ctabc_at
  | unop => exact unop_at
  | uldi => exact uldi_at
  | uldm => exact uldm_at
  | uadd => exact uadd_at
  | ulc => exact ulc_at
  | ubr => exact ubr_at
  | ufeed => exact ufeed_at
  | upass => exact upass_at
  | uzero => exact uzero_at
  | uout => exact uout_at
  | uwin => exact uwin_at
  | uspl => exact uspl_at
  | ucal => exact ucal_at
  | ustat => exact ustat_at
  | instructionFetch => exact instructionFetch_at
  | bundleDecode => exact bundleDecode_at
  | effRecompute => exact effRecompute_at
  | untetheredRetest | monitorNotify => exact outAt_next.2 (retest_phase ..)
  | commandActivate => exact commandActivate_at
  | granuleDeliver => exact granuleDeliver_at
  | pageWalk => exact pageWalk_at
  | regionFill => exact regionFill_at
  | writeBack => exact writeBack_at
  | windowAccess | sliceAccess | reductionApply => exact outAt_next.2 (ready_at _)
  | routerMerge => exact routerMerge_at
  | remoteAtomic => exact remoteAtomic_at
  | jobCompletionStamp => exact jobCompletionStamp_at
  | callStart => exact callStart_at
  | mtaccMember => exact mtaccMember_at
  | calibrationStart | ageStep | powerLimitExceeded | modulePowerWithinLimit => exact outAt_next.2 rfl
  | calibrationEnd => exact calibrationEnd_at
  | temperatureSample => exact temperatureSample_at
  | computeBudgetExpiry => exact computeBudgetExpiry_at
  | exchangeBudgetExpiry => exact exchangeBudgetExpiry_at
  | truncation => exact truncation_at
  | dispatch => exact dispatch_at
  | preemptionRequest => exact preemptionRequest_at
  | teamStart => exact teamStart_at
  | stealRequest => exact stealRequest_at
  | stealAnswer => exact stealAnswer_at
  | launchPacket => exact launchPacket_at
  | deviceCtxsw => exact deviceCtxsw_at
  | contextRestore => exact contextRestore_at
  | uncorrectableError => exact uncorrectableError_at
  | rdmaWrite => exact rdmaWrite_at
  | rdmaRead => exact rdmaRead_at
  | send => exact send_at
  | invalidRequest => exact outAt_next.2 (badRequest_phase ..)
  | ceMarkedPacket => exact ceMarkedPacket_at
  | cnp => exact cnp_at
  | rateRecovery => exact rateRecovery_at
  | doorbell => exact doorbell_at
  | workRequestWrite | workRequestSend => exact outAt_next.2 (sendBytes_phase ..)
  | workRequestRead => exact workRequestRead_at
  | peerWrite | peerReduce | peerLaunch => exact outAt_next.2 (sendPeer_phase ..)
  | workRequestEnd => exact workRequestEnd_at
  | dataFrame => exact dataFrame_at
  | acknowledgementFrame => exact acknowledgementFrame_at
  | replayRequest => exact replayRequest_at
  | idleFrame => exact outAt_next.2 (onFrame_phase _ fun _ _ _ => rfl)
  | hello => exact hello_at
  | readStartUpReport => exact readStartUpReport_at
  | setModuleNumber => exact setModuleNumber_at
  | setQueuePairTableBase => exact setQueuePairTableBase_at
  | requestBankRetirement => exact requestBankRetirement_at
  | readMeterPage => exact readMeterPage_at
  | readMonitor => exact readMonitor_at
  | writeFlashImage => exact writeFlashImage_at
  | opNotKnown => exact opNotKnown_at
  | corruptFrame => exact corruptFrame_at
  | computeClose | exchangeClose | powerOn | retryStart | resetRequest | commitFlashImage => cases h

/-- What the instructions and events that move the phase counter do to it. -/
theorem exec_moves {i : Instr} {s s' : State} (h : exec i s = .next s') (hm : movesPhase i = true) :
    (s'.dev.phase = s.dev.phase ∨ s'.dev.phase = s.dev.phase + 1 ∨ s'.dev.phase = 0) ∧
    (i = .computeClose ∨ i = .exchangeClose → s'.dev.phase = s.dev.phase ∨ s'.dev.phase = s.dev.phase + 1) := by
  cases i with
  | computeClose => exact ⟨(computeClose_moves h).imp_right .inl, fun _ => computeClose_moves h⟩
  | exchangeClose => exact ⟨(exchangeClose_moves h).imp_right .inl, fun _ => exchangeClose_moves h⟩
  | powerOn => exact ⟨(powerOn_moves h).imp_right .inr, nofun⟩
  | retryStart => exact ⟨(retryStart_moves h).imp_right .inr, nofun⟩
  | resetRequest => exact ⟨(resetRequest_moves h).imp_right .inr, nofun⟩
  | commitFlashImage => exact ⟨(commitFlashImage_moves h).imp_right .inr, nofun⟩
  | _ => cases hm

/-- Settles O58: of the operations that the machine's steps are made of, only the close of a phase and the start of the device write the phase
counter. -/
theorem onlyClosesAndStartsMoveThePhase : Obligations.OnlyClosesAndStartsMoveThePhase := by
  unfold Obligations.OnlyClosesAndStartsMoveThePhase
  intro s s' i h
  cases hm : movesPhase i with
  | true =>
    obtain ⟨hall, hclose⟩ := exec_moves h hm
    exact ⟨nofun, hclose, hall⟩
  | false =>
    have hp := exec_at hm s' h
    exact ⟨fun _ => hp, fun _ => .inl hp, .inl hp⟩

end Sys2Proof.Proofs
end

section
/-!
PROOFS. Link frames and the management port (R464 to R467, R484, R488, R492). Settles O54.
-/
namespace Sys2Proof.Proofs
open Machine Laws

/-! ## Links -/

theorem modLink_get (s : State) (p : Fin 12) (f : Link → Link) : (s.modLink p f).dev.links[p] = f s.dev.links[p] := Vector.getElem_set_self ..

theorem expect_advanced (s : State) (p : Fin 12) :
    (s.modLink p fun l => { l with expect := l.expect + 1 }).dev.links[p].expect = s.dev.links[p].expect + 1 := congrArg Link.expect (modLink_get ..)

/-- The type of a frame (R464). -/
theorem frame_type (h : W64) : h.fld 60 4 = h.toNat / 2 ^ 60 := Nat.mod_eq_of_lt (by have := h.isLt; omega)

/-- The machine once a frame of header `h` has arrived on the link of the event: what the frame acknowledges is no longer kept. -/
def frameTaken (s : State) (h : W64) : State := s.modLink s.link (·.acked (BitVec.ofNat 16 (h.toNat / 2 ^ 28 % 65536)))

theorem frameTaken_link (s : State) (h : W64) :
    (frameTaken s h).dev.links[s.link] = s.dev.links[s.link].acked (BitVec.ofNat 16 (h.toNat / 2 ^ 28 % 65536)) := modLink_get ..

section
variable {s : State} {h : W64} (hp : s.dev.power = .running) (hd : s.dev.links[s.link].down = false) (hh : frameHead s.on.data = some h)
include hp hd

/-- The device runs and the link of the event is up. -/
theorem link_works : (s.dev.power != .running || s.dev.links[s.link].down) = false := by
  rw [hp, hd]
  rfl

theorem corruptFrame_none (hh : frameHead s.on.data = none) : exec .corruptFrame s = .next (s.sendControl s.link 2) := by
  refine congrArg Host.Outcome.next (if_neg ?_)
  rw [link_works hp hd, hh]
  exact Bool.false_ne_true

include hh

theorem corruptFrame_reserved (ht : 4 ≤ h.toNat / 2 ^ 60) : exec .corruptFrame s = .next (s.sendControl s.link 2) := by
  refine congrArg Host.Outcome.next (if_neg ?_)
  have hb : decide (4 ≤ h.fld 60 4) = true := decide_eq_true (ht.trans_eq (frame_type h).symm)
  rw [link_works hp hd, hh]
  simp [hb]

/-- A frame of its type is handed to its handler, once what it acknowledges is dropped. -/
theorem onFrame_eq (f : State → Fin 12 → W64 → State) {type : Nat} (ht : h.toNat / 2 ^ 60 = type) :
    s.onFrame type f = f (frameTaken s h) s.link h := by
  unfold State.onFrame
  dsimp only
  rw [if_neg (by rw [link_works hp hd]; exact Bool.false_ne_true), hh]
  exact if_neg (not_not_intro ((frame_type h).trans ht))

theorem idleFrame_spec (ht : h.toNat / 2 ^ 60 = 3) : exec .idleFrame s = .next (frameTaken s h) :=
  congrArg Host.Outcome.next (onFrame_eq hp hd hh _ ht)

theorem acknowledgementFrame_spec (ht : h.toNat / 2 ^ 60 = 1) (hf : s.on.flag = false) : exec .acknowledgementFrame s = .next (frameTaken s h) := by
  change execAcknowledgementFrame s = _
  unfold execAcknowledgementFrame
  rw [hf, if_neg Bool.false_ne_true]
  exact congrArg Host.Outcome.next (onFrame_eq hp hd hh _ ht)

/-! ### Data frames -/

theorem dataFrame_late (ht : h.toNat / 2 ^ 60 = 0) (hq : BitVec.ofNat 16 (h.toNat / 2 ^ 44 % 65536) ≠ s.dev.links[s.link].expect) :
    exec .dataFrame s = .next ((frameTaken s h).sendControl s.link 2) := by
  refine congrArg Host.Outcome.next ((onFrame_eq hp hd hh _ ht).trans (if_pos ?_))
  rw [frameTaken_link]
  exact hq

section
variable (ht : h.toNat / 2 ^ 60 = 0) (hq : BitVec.ofNat 16 (h.toNat / 2 ^ 44 % 65536) = s.dev.links[s.link].expect)
include ht hq

/-- A data frame of a pair that does not serve it is refused, and acknowledged all the same. -/
theorem dataFrame_refused (hs : s.qpServes (s.peerReq s.link h).q true = false) : exec .dataFrame s = .next
    ((((frameTaken s h).refuse (s.peerReq s.link h).q nakInvalid).modLink s.link fun l => { l with expect := l.expect + 1 }).sendControl s.link 1) := by
  refine congrArg Host.Outcome.next ((onFrame_eq hp hd hh _ ht).trans ((if_neg ?_).trans (if_pos ?_)))
  · rw [frameTaken_link]
    exact not_not_intro hq
  · rw [show (frameTaken s h).qpServes ((frameTaken s h).peerReq s.link h).q true = false from hs]
    rfl

/-- A data frame of a pair that serves it, whose request is taken, is acknowledged. -/
theorem dataFrame_taken {s2 : State} (hs : (frameTaken s h).qpServes (s.peerReq s.link h).q true = true)
    (hport : (frameTaken s h).qpPort (s.peerReq s.link h).q = s.link.val)
    (hmod : ((frameTaken s h).qpWord (s.peerReq s.link h).q 8).setWidth 16 = (s.peerReq s.link h).smod) (hop : (s.peerReq s.link h).op ≠ .launch)
    (ha : (frameTaken s h).arriveReq (s.peerReq s.link h) = (s2, true)) :
    exec .dataFrame s = .next ((s2.modLink s.link fun l => { l with expect := l.expect + 1 }).sendControl s.link 1) := by
  refine congrArg Host.Outcome.next ((onFrame_eq hp hd hh _ ht).trans ((if_neg ?_).trans ((if_neg ?_).trans ((if_neg ?_).trans ?_))))
  · rw [frameTaken_link]
    exact not_not_intro hq
  · rw [show (frameTaken s h).peerReq s.link h = s.peerReq s.link h from rfl, hs, hport, hmod]
    simp
  · exact fun hl => hop hl.1
  · rw [show (frameTaken s h).peerReq s.link h = s.peerReq s.link h from rfl, ha]

end

/-! ### Replay requests -/

theorem replayRequest_none (ht : h.toNat / 2 ^ 60 = 2) (hr : (frameTaken s h).dev.links[s.link].replay = []) :
    exec .replayRequest s = .next (frameTaken s h) :=
  congrArg Host.Outcome.next ((onFrame_eq hp hd hh _ ht).trans (if_pos (by rw [hr]; rfl)))

theorem replayRequest_again (ht : h.toNat / 2 ^ 60 = 2) (hr : (frameTaken s h).dev.links[s.link].replay ≠ [])
    (hf : (frameTaken s h).dev.links[s.link].fails < 8) : exec .replayRequest s = .next
      ((frameTaken s h).dev.links[s.link].replay.foldl (fun q e => q.emit (.frame s.link.val e.2))
        ((frameTaken s h).modLink s.link fun l => { l with fails := l.fails + 1 })) := by
  refine congrArg Host.Outcome.next ((onFrame_eq hp hd hh _ ht).trans ((if_neg ?_).trans (if_neg (Nat.not_le.2 hf))))
  rwa [List.isEmpty_iff]

theorem replayRequest_lost (ht : h.toNat / 2 ^ 60 = 2) (hr : (frameTaken s h).dev.links[s.link].replay ≠ [])
    (hf : 8 ≤ (frameTaken s h).dev.links[s.link].fails) : exec .replayRequest s = .next ((frameTaken s h).loseLink s.link) := by
  refine congrArg Host.Outcome.next ((onFrame_eq hp hd hh _ ht).trans ((if_neg ?_).trans (if_pos hf)))
  rwa [List.isEmpty_iff]

end

theorem emits_outbox {α : Type} (l : List α) (f : α → Sent) (s : State) : (l.foldl (fun q a => q.emit (f a)) s).outbox = s.outbox ++ l.map f := by
  induction l generalizing s with
  | nil => simp
  | cons a l ih => exact (ih (s.emit (f a))).trans (List.append_assoc ..)

theorem emits_dev {α : Type} (l : List α) (f : α → Sent) (s : State) : (l.foldl (fun q a => q.emit (f a)) s).dev = s.dev := by
  refine foldl_keeps (·.dev) ?_ l s
  exact fun _ _ => rfl

/-- The requests in progress on a lost link end; nothing leaves, and no link changes but the lost one. -/
theorem loseLink_keeps (s : State) (p : Fin 12) :
    (s.loseLink p).outbox = s.outbox ∧ (s.loseLink p).dev.links = (s.modLink p fun l => { l with down := true, replay := [] }).dev.links := by
  refine ⟨foldl_keeps State.outbox ?_ _ _, foldl_keeps (fun q : State => q.dev.links) ?_ _ _⟩
  all_goals
    intro q e
    split <;> rfl

theorem linkFrames_holds : linkFrames := by
  intro s p l hp hd
  refine ⟨corruptFrame_none hp hd, fun h hh => ?_⟩
  intro type r l1 s1
  refine ⟨corruptFrame_reserved hp hd hh, idleFrame_spec hp hd hh, acknowledgementFrame_spec hp hd hh, dataFrame_late hp hd hh, fun ht hq hs => ?_,
    fun s2 ht hq hs hport hmod hop ha => dataFrame_taken hp hd hh ht hq hs hport hmod hop ha, fun ht hr => ?_, fun ht hr hf => ?_, fun ht hr hf => ?_⟩
  · refine ⟨_, dataFrame_refused hp hd hh ht hq hs, ?_, _, List.append_assoc ..⟩
    have hk : ((frameTaken s h).refuse (s.peerReq s.link h).q nakInvalid).dev.links[s.link].expect = l.expect :=
      (congrArg Link.expect (frameTaken_link s h) :)
    exact (expect_advanced _ s.link).trans (by rw [hk])
  · exact replayRequest_none hp hd hh ht ((congrArg Link.replay (frameTaken_link s h)).trans hr)
  · have hk : (frameTaken s h).dev.links[s.link] = l1 := frameTaken_link s h
    refine ⟨_, replayRequest_again hp hd hh ht (by rwa [hk]) (by rwa [hk]), ?_, ?_⟩
    · rw [emits_dev, modLink_get, hk]
    · rw [emits_outbox, hk]
      rfl
  · have hk : (frameTaken s h).dev.links[s.link] = l1 := frameTaken_link s h
    obtain ⟨hout, hlinks⟩ := loseLink_keeps (frameTaken s h) s.link
    refine ⟨_, replayRequest_lost hp hd hh ht (by rwa [hk]) (by rwa [hk]), ?_, hout⟩
    rw [hlinks, modLink_get, hk]

end Sys2Proof.Proofs
end

section
namespace Sys2Proof.Proofs
open Machine Laws

/-! ## The management port -/

/-- The requests of the management protocol that the statement speaks of, with their OPs (R467). -/
def managementOps : List (Instr × Nat) := [(.readStartUpReport, 1), (.retryStart, 2), (.resetRequest, 3), (.setModuleNumber, 4),
  (.setQueuePairTableBase, 5), (.requestBankRetirement, 6), (.readMeterPage, 7), (.readMonitor, 8), (.writeFlashImage, 9), (.commitFlashImage, 10)]

/-- Each is a request of its OP; those from 4 to 8 need a running device. -/
theorem managementOps_request (p : Instr × Nat) (hp : p ∈ managementOps) :
    ∃ minimal f, (∀ s, exec p.1 s = .next (s.mgmtRequest (· == p.2) minimal f)) ∧ (4 ≤ p.2 → p.2 ≤ 8 → minimal = false) := by
  simp only [managementOps, List.mem_cons, List.not_mem_nil, or_false] at hp
  rcases hp with rfl | rfl | rfl | rfl | rfl | rfl | rfl | rfl | rfl | rfl
  all_goals exact ⟨_, _, fun _ => rfl, by decide⟩

section
variable {s : State} (ho : s.dev.power ≠ .off)
include ho

theorem mgmtRequest_malformed (hd : datagramOf s.on.data = none) (mine : Nat → Bool) (minimal : Bool) (f : State → Datagram → Reply) :
    s.mgmtRequest mine minimal f = s.dropRequest := by
  unfold State.mgmtRequest
  rw [if_neg ho, hd]

section
variable {d : Datagram} (hd : datagramOf s.on.data = some d) {mine : Nat → Bool} (hm : mine d.op = true) {minimal : Bool} {f : State → Datagram → Reply}
include hd hm

/-- A request of the row's own OP, as it fares. -/
theorem mgmtRequest_mine : s.mgmtRequest mine minimal f =
    if d.tag ≠ s.mgmtTag d.signed then s.dropRequest
    else if s.dev.mgmt.accepted && d.seq == s.dev.mgmt.lastSeq && d.tag == s.dev.mgmt.lastTag then s.emit (.datagram s.dev.mgmt.lastReply)
    else if s.dev.mgmt.accepted && d.seq.toNat ≤ s.dev.mgmt.lastSeq.toNat then s.dropRequest
    else if s.dev.power != .running && !minimal then s.answer d { state := s, arg0 := 3 }
    else s.answer d (f s d) := by
  unfold State.mgmtRequest
  rw [if_neg ho, hd]
  exact if_neg (by rw [hm]; exact Bool.false_ne_true)

theorem mgmtRequest_unsigned (ht : ¬ d.tag = s.mgmtTag d.signed) : s.mgmtRequest mine minimal f = s.dropRequest :=
  (mgmtRequest_mine ho hd hm).trans (if_pos ht)

variable (ht : d.tag = s.mgmtTag d.signed)
include ht

theorem mgmtRequest_repeated (ha : s.dev.mgmt.accepted = true) (hq : d.seq = s.dev.mgmt.lastSeq) (hl : d.tag = s.dev.mgmt.lastTag) :
    s.mgmtRequest mine minimal f = s.emit (.datagram s.dev.mgmt.lastReply) := by
  rw [mgmtRequest_mine ho hd hm, if_neg (not_not_intro ht), if_pos (by simp [ha, hq, hl])]

theorem mgmtRequest_old (ha : s.dev.mgmt.accepted = true) (hq : d.seq.toNat ≤ s.dev.mgmt.lastSeq.toNat)
    (hl : d.seq ≠ s.dev.mgmt.lastSeq ∨ d.tag ≠ s.dev.mgmt.lastTag) : s.mgmtRequest mine minimal f = s.dropRequest := by
  have hnot : ¬(s.dev.mgmt.accepted && d.seq == s.dev.mgmt.lastSeq && d.tag == s.dev.mgmt.lastTag) = true := by
    simp only [Bool.and_eq_true, beq_iff_eq]
    exact fun ⟨⟨_, hs⟩, h⟩ => hl.elim (· hs) (· h)
  rw [mgmtRequest_mine ho hd hm, if_neg (not_not_intro ht), if_neg hnot, if_pos (by simp [ha, hq])]

variable (hf : s.dev.mgmt.accepted = true → s.dev.mgmt.lastSeq.toNat < d.seq.toNat)
include hf

/-- A signed request with a new number. -/
theorem mgmtRequest_fresh : s.mgmtRequest mine minimal f =
    if s.dev.power != .running && !minimal then s.answer d { state := s, arg0 := 3 } else s.answer d (f s d) := by
  have hold : ¬(s.dev.mgmt.accepted && decide (d.seq.toNat ≤ s.dev.mgmt.lastSeq.toNat)) = true := by
    simp only [Bool.and_eq_true, decide_eq_true_eq]
    exact fun ⟨ha, h⟩ => absurd (hf ha) (Nat.not_lt.2 h)
  have hrep : ¬(s.dev.mgmt.accepted && d.seq == s.dev.mgmt.lastSeq && d.tag == s.dev.mgmt.lastTag) = true := by
    simp only [Bool.and_eq_true, beq_iff_eq]
    exact fun ⟨⟨ha, hs⟩, _⟩ => absurd (hf ha) (by rw [hs]; exact Nat.lt_irrefl _)
  rw [mgmtRequest_mine ho hd hm, if_neg (not_not_intro ht), if_neg hrep, if_neg hold]

theorem mgmtRequest_performs (hr : s.dev.power = .running ∨ minimal = true) : s.mgmtRequest mine minimal f = s.answer d (f s d) := by
  refine (mgmtRequest_fresh ho hd hm ht hf).trans (if_neg ?_)
  rcases hr with hr | hr <;> simp [hr]

theorem mgmtRequest_stopped (hr : s.dev.power ≠ .running) (hn : minimal = false) : s.mgmtRequest mine minimal f = s.answer d { state := s, arg0 := 3 } :=
  (mgmtRequest_fresh ho hd hm ht hf).trans (if_pos (by simp [hr, hn]))

end

end

end Sys2Proof.Proofs
end

section
namespace Sys2Proof.Proofs
open Machine Laws

/-! ### The requests of the protocol -/

/-- The upper bits of a word are zero when the word is small. -/
theorem fld_upper_zero {v : W64} {lo n : Nat} (h : lo + n = 64) : v.fld lo n = 0 ↔ v.toNat < 2 ^ lo := by
  have hlt : v.toNat / 2 ^ lo < 2 ^ n := Nat.div_lt_of_lt_mul (by rw [← pow_add, h]; exact v.isLt)
  rw [W64.fld, bits, Nat.mod_eq_of_lt hlt, Nat.div_eq_zero_iff]
  exact or_iff_right (Nat.two_pow_pos lo).ne'

/-- PEND of the bank that a request names is set, when the bank is live (R63). -/
theorem pend_requested (c : Core) (b i : Nat) (hi : i < 32) :
    ((if c.live.getLsbD b then { c with pend := c.pend ||| (1#32 <<< b) } else c).pend.getLsbD i) =
      (c.pend.getLsbD i || (decide (i = b) && c.live.getLsbD i)) := by
  rcases Nat.decEq i b with hb | rfl
  · have h0 : (1#32 <<< b).getLsbD i = false := by
      rw [show 1#32 <<< b = BitVec.twoPow 32 b from rfl, BitVec.getLsbD_twoPow]
      simp [Ne.symm hb]
    split <;> simp [hb, h0, BitVec.getLsbD_or]
  · have h1 : (1#32 <<< i).getLsbD i = true := by
      rw [show 1#32 <<< i = BitVec.twoPow 32 i from rfl, BitVec.getLsbD_twoPow]
      simp [hi]
    cases hl : c.live.getLsbD i <;> simp [h1, BitVec.getLsbD_or]

section
variable {s : State} {d : Datagram} (ho : s.dev.power ≠ .off) (hd : datagramOf s.on.data = some d) (ht : d.tag = s.mgmtTag d.signed)
  (hf : s.dev.mgmt.accepted = true → s.dev.mgmt.lastSeq.toNat < d.seq.toNat)
include ho hd ht hf

/-- A signed request with a new number, of the row of its OP, performs on a running device, and in any state of the device
when its row is of the minimal set. -/
theorem exec_request {i : Instr} {mine : Nat → Bool} {minimal : Bool} {f : State → Datagram → Reply}
    (hx : exec i s = .next (s.mgmtRequest mine minimal f))
    (hm : mine d.op = true) (hr : s.dev.power = .running ∨ minimal = true) : exec i s = .next (s.answer d (f s d)) :=
  hx.trans (congrArg Host.Outcome.next (mgmtRequest_performs ho hd hm ht hf hr))

theorem readStartUpReport_answers (h : d.op = 1) : exec .readStartUpReport s = .next (s.answer d (if 1216 < d.arg0.toNat then ⟨s, 2, 0, [], none⟩
    else ⟨s, 0, 0, s.dev.mgmt.report.read d.arg0.toNat (Min.min 1024 (1216 - d.arg0.toNat)), none⟩)) := by
  rw [exec_request ho hd ht hf (i := .readStartUpReport) rfl (by exact beq_iff_eq.2 h) (.inr rfl)]

theorem retryStart_answers_start (h : d.op = 2) (hr : s.dev.power ≠ .running) : exec .retryStart s = .next (s.answer d ⟨s, 0, 0, [], some ()⟩) := by
  rw [exec_request ho hd ht hf (i := .retryStart) rfl (by exact beq_iff_eq.2 h) (.inr rfl)]
  exact congrArg (fun r => Host.Outcome.next (s.answer d r)) (if_neg hr)

theorem retryStart_answers_running (h : d.op = 2) (hr : s.dev.power = .running) : exec .retryStart s =
    .next (s.answer d ⟨{ s with free := s.free + 1 }, w64 (Config.value s.free % 6), 0, [], none⟩) := by
  rw [exec_request ho hd ht hf (i := .retryStart) rfl (by exact beq_iff_eq.2 h) (.inr rfl)]
  exact congrArg (fun r => Host.Outcome.next (s.answer d r)) (if_pos hr)

theorem commitFlashImage_answers (h : d.op = 10) : exec .commitFlashImage s = .next (s.answer d
    (if Config.flashGood (s.dev.flash.staged.slice 0 d.arg0.toNat) d.arg0.toNat then
      ⟨s.modDev fun v => { v with flash := { v.flash with image := s.dev.flash.staged.slice 0 d.arg0.toNat, length := d.arg0.toNat } }, 0, 0, [],
        if s.dev.power = .running then none else some ()⟩
    else ⟨s, 5, 0, [], none⟩)) := by
  rw [exec_request ho hd ht hf (i := .commitFlashImage) rfl (by exact beq_iff_eq.2 h) (.inr rfl)]
  refine congrArg (fun r => Host.Outcome.next (s.answer d r)) ?_
  cases hg : Config.flashGood (s.dev.flash.staged.slice 0 d.arg0.toNat) d.arg0.toNat with
  | true => exact if_neg (by rw [hg]; exact Bool.false_ne_true)
  | false => exact if_pos (by rw [hg]; rfl)

section
variable (hr : s.dev.power = .running)
include hr

theorem setModuleNumber_answers (h : d.op = 4) : exec .setModuleNumber s = .next (s.answer d (if d.arg0.toNat < 65536 then
    ⟨s.modDev fun v => { v with mgmt := { v.mgmt with modno := BitVec.ofNat 16 d.arg0.toNat } }, 0, 0, [], none⟩ else ⟨s, 2, 0, [], none⟩)) := by
  rw [exec_request ho hd ht hf (i := .setModuleNumber) rfl (by exact beq_iff_eq.2 h) (.inl hr)]
  refine congrArg (fun r => Host.Outcome.next (s.answer d r)) ?_
  have hz : d.arg0.fld 16 48 = 0 ↔ d.arg0.toNat < 65536 := fld_upper_zero rfl
  by_cases ha : d.arg0.toNat < 65536
  · rw [if_pos ha]
    exact if_neg (not_not_intro (hz.2 ha))
  · rw [if_neg ha]
    exact if_pos (mt hz.1 ha)

theorem setQueuePairTableBase_answers (h : d.op = 5) : exec .setQueuePairTableBase s = .next (s.answer d
    (if d.arg0.toNat % 128 = 0 ∧ d.arg0.toNat < 0x003000000000 then
      ⟨s.modDev fun v => { v with mgmt := { v.mgmt with qpbase := BitVec.ofNat 40 d.arg0.toNat } }, 0, 0, [], none⟩ else ⟨s, 2, 0, [], none⟩)) := by
  rw [exec_request ho hd ht hf (i := .setQueuePairTableBase) rfl (by exact beq_iff_eq.2 h) (.inl hr)]
  refine congrArg (fun r => Host.Outcome.next (s.answer d r)) ?_
  by_cases ha : d.arg0.toNat % 128 = 0 ∧ d.arg0.toNat < 0x003000000000
  · rw [if_pos ha]
    exact if_neg (by omega)
  · rw [if_neg ha]
    exact if_pos (by omega)

theorem requestBankRetirement_answers (h : d.op = 6) (h1 : d.arg0.toNat < 8192) (h2 : d.arg0.toNat / 128 % 2 = 0) :
    ∃ r : Reply, exec .requestBankRetirement s = .next (s.answer d r) ∧ r.arg0 = 0 ∧ r.state.dev = s.dev ∧
      ∀ (n : CoreId) (b : Nat), b < 32 → (r.state.core n).pend.getLsbD b = ((s.core n).pend.getLsbD b ||
        (decide (n.val = d.arg0.toNat % 128 ∧ b = d.arg0.toNat / 256) && (s.core n).live.getLsbD b)) := by
  have hb : d.arg0.fld 8 5 = d.arg0.toNat / 256 := Nat.mod_eq_of_lt (by omega)
  have hn : d.arg0.fld 0 7 = d.arg0.toNat % 128 := fld_zero ..
  have hk : ¬ (d.arg0.fld 7 1 ≠ 0 ∨ d.arg0.fld 13 51 ≠ 0) := by
    rw [fld_upper_zero (lo := 13) rfl |>.2 h1, show d.arg0.fld 7 1 = 0 from h2]
    simp
  refine ⟨_, (exec_request ho hd ht hf (i := .requestBankRetirement) rfl (by exact beq_iff_eq.2 h) (.inl hr)).trans
    (congrArg (fun r => Host.Outcome.next (s.answer d r)) (if_neg hk)), rfl, rfl, fun n b hb32 => ?_⟩
  dsimp only
  rw [hb, hn]
  by_cases he : n.val = d.arg0.toNat % 128
  · have hne : Fin.ofNat 128 (d.arg0.toNat % 128) = n := Fin.ext (by rw [he]; exact Nat.mod_mod ..)
    rw [hne, modCore_core_self, pend_requested _ _ _ hb32]
    simp [he]
  · rw [modCore_core_ne _ _ fun hc => he (by rw [hc]; exact Nat.mod_mod ..)]
    simp [he]

theorem readMeterPage_answers (h : d.op = 7) : exec .readMeterPage s = .next (s.answer d
    (if d.arg0.toNat < 65536 ∧ (s.ctxField (d.arg0.setWidth 16) 6).toNat ≠ 0 then
      ⟨s, 0, 0, s.dev.dram.read (s.ctxField (d.arg0.setWidth 16) 6).toNat 256, none⟩ else ⟨s, 2, 0, [], none⟩)) := by
  rw [exec_request ho hd ht hf (i := .readMeterPage) rfl (by exact beq_iff_eq.2 h) (.inl hr)]
  refine congrArg (fun r => Host.Outcome.next (s.answer d r)) ?_
  have hz : d.arg0.fld 16 48 = 0 ↔ d.arg0.toNat < 65536 := fld_upper_zero rfl
  by_cases ha : d.arg0.toNat < 65536 ∧ (s.ctxField (d.arg0.setWidth 16) 6).toNat ≠ 0
  · rw [if_pos ha]
    exact if_neg (not_or.2 ⟨not_not_intro (hz.2 ha.1), ha.2⟩)
  · rw [if_neg ha]
    exact if_pos ((not_and_or.1 ha).imp (mt hz.1) of_not_not)

theorem readMonitor_answers (h : d.op = 8) (h0 : d.arg1 = 0) (h1 : d.arg0.toNat < 1024) (h2 : d.arg0.toNat / 2 % 128 = 0) :
    exec .readMonitor s = .next (s.answer d
      ⟨s, 0, 0, (s.dev.monitors[monitorIdx (d.arg0.getLsbD 0) (Fin.ofNat 4 (d.arg0.toNat / 256))]).bytes, none⟩) := by
  have hk : ¬ (d.arg0.fld 1 7 ≠ 0 ∨ d.arg0.fld 10 54 ≠ 0 ∨ d.arg1.fld 1 63 ≠ 0) := by
    rw [fld_upper_zero (lo := 10) rfl |>.2 h1, show d.arg0.fld 1 7 = 0 from h2, h0]
    decide
  have hi : Fin.ofNat 4 (d.arg0.fld 8 2) = Fin.ofNat 4 (d.arg0.toNat / 256) := Fin.ext (Nat.mod_mod ..)
  rw [exec_request ho hd ht hf (i := .readMonitor) rfl (by exact beq_iff_eq.2 h) (.inl hr)]
  refine congrArg (fun r => Host.Outcome.next (s.answer d r)) ((if_neg hk).trans ?_)
  rw [h0]
  exact congrArg (fun i => (⟨s, 0, 0, (s.dev.monitors[monitorIdx (d.arg0.getLsbD 0) i]).bytes, none⟩ : Reply)) hi

end

end

theorem managementRequests_holds : managementRequests := by
  intro s ho m drop ops
  refine ⟨fun hd => ⟨?_, fun p hp => ?_⟩, fun d hd => ?_⟩
  · change execHello s = _
    unfold execHello
    rw [if_neg ho, hd]
    rfl
  · obtain ⟨minimal, f, hx, -⟩ := managementOps_request p hp
    exact (hx s).trans (congrArg Host.Outcome.next (mgmtRequest_malformed ho hd ..))
  intro signed fresh a answers bad
  refine ⟨fun h => ?_, fun p hp h ht => ?_, fun p hp h ht ha hq hl => ?_, fun p hp h ht ha hq hl => ?_, fun ht hf => ?_⟩
  · change execHello s = _
    unfold execHello
    rw [if_neg ho, hd]
    exact congrArg Host.Outcome.next (if_neg (not_not_intro h))
  · obtain ⟨minimal, f, hx, -⟩ := managementOps_request p hp
    exact (hx s).trans (congrArg Host.Outcome.next (mgmtRequest_unsigned ho hd (by exact beq_iff_eq.2 h) ht))
  · obtain ⟨minimal, f, hx, -⟩ := managementOps_request p hp
    exact (hx s).trans (congrArg Host.Outcome.next (mgmtRequest_repeated ho hd (by exact beq_iff_eq.2 h) ht ha hq hl))
  · obtain ⟨minimal, f, hx, -⟩ := managementOps_request p hp
    exact (hx s).trans (congrArg Host.Outcome.next (mgmtRequest_old ho hd (by exact beq_iff_eq.2 h) ht ha hq hl))
  · refine ⟨readStartUpReport_answers ho hd ht hf, retryStart_answers_start ho hd ht hf, fun h hr => ?_, fun h => ?_, fun h => ?_,
      commitFlashImage_answers ho hd ht hf, fun h hr => ?_, fun hr p hp h h4 h8 => ?_, fun hr => ?_⟩
    · refine ⟨_, ?_, retryStart_answers_running ho hd ht hf h hr⟩
      exact (BitVec.toNat_ofNat ..).trans_lt ((Nat.mod_le ..).trans_lt (Nat.mod_lt _ (by decide)))
    · exact (exec_request ho hd ht hf (i := .resetRequest) rfl (by exact beq_iff_eq.2 h) (.inr rfl) :)
    · exact (exec_request ho hd ht hf (i := .writeFlashImage) rfl (by exact beq_iff_eq.2 h) (.inr rfl) :)
    · exact (exec_request ho hd ht hf (i := .opNotKnown) rfl (by exact decide_eq_true h) (.inr rfl) :)
    · obtain ⟨minimal, f, hx, hn⟩ := managementOps_request p hp
      exact (hx s).trans (congrArg Host.Outcome.next
        (mgmtRequest_stopped ho hd (by exact beq_iff_eq.2 h) ht hf hr (hn (h4.trans_eq h) (h.symm.trans_le h8))))
    · exact ⟨setModuleNumber_answers ho hd ht hf hr, setQueuePairTableBase_answers ho hd ht hf hr, requestBankRetirement_answers ho hd ht hf hr,
        readMeterPage_answers ho hd ht hf hr, readMonitor_answers ho hd ht hf hr⟩

/-- Settles O54: a frame is followed through the test of its type to its handler, a datagram through the checks of its form, tag and number to its row. -/
theorem linkAndManagement : Obligations.LinkAndManagement := ⟨linkFrames_holds, managementRequests_holds⟩

end Sys2Proof.Proofs
end

section
/-!
PROOFS. Queue pairs: what a host asks of one, and what its send ring asks (R456 to R463, R465). Settles O53.
-/
namespace Sys2Proof.Proofs
open Machine Laws

/-! ## What the accesses of a port leave alone -/

theorem outbox_apart : ApartFromWrites State.outbox := fun _ _ _ _ _ _ _ _ _ => rfl

/-- `g` of a machine depends on no core, on no latency monitor and on none of the open choices. -/
def ApartFromReads {α : Type} (g : State → α) : Prop :=
  ∀ (s : State) cores free monitors, g { s with cores := cores, free := free, dev := { s.dev with monitors := monitors } } = g s

section
variable {α : Type} {g : State → α} (hg : ApartFromReads g)
include hg

theorem charge_apart (s : State) (n : CoreId) (x : BitVec 16) (i : Fin 8) (amount tenths : Nat) : g (s.charge n x i amount tenths) = g s := hg s ..

theorem chargePort_read (s : State) (x : BitVec 16) (pa n : Nat) : g (s.chargePort x pa n) = g s := by
  unfold State.chargePort
  split
  · exact (charge_apart hg ..).trans (charge_apart hg ..)
  · exact charge_apart hg ..
  · rfl

theorem readBeat_apart (s : State) (pa : Nat) : g (s.readBeat pa) = g s := by
  unfold State.readBeat
  split
  · exact hg s ..
  · rfl

theorem portRead_apart (s : State) (x : BitVec 16) (ps : List (Nat × Nat)) : g (s.portRead x ps).2 = g s :=
  foldl_keeps g (fun _ _ => (chargePort_read hg ..).trans (readBeat_apart hg ..)) ps s

end

theorem packetArrives_outbox (s : State) (n : CoreId) (peer : Bool) (src : Nat) (bs : List Byte) : (s.packetArrives n peer src bs).1.outbox = s.outbox := by
  have hpush (q : State) (r : QRec) : (q.push n r).outbox = q.outbox := by
    unfold State.push State.writeBackRec
    dsimp only
    split <;> rfl
  unfold State.packetArrives
  dsimp only
  split
  · rfl
  · rfl
  · split
    · rfl
    · exact hpush ..

/-- A refused launch packet is answered by a negative answer (R460). -/
theorem answerLaunch_outbox (s : State) (q : Fin 4096) (c : BitVec 8) : ∃ code, (s.answerLaunch q c).outbox = s.outbox ++ [.nak q.val code] := by
  unfold State.answerLaunch
  split
  · exact ⟨_, rfl⟩
  split
  · exact ⟨_, rfl⟩
  split
  · exact ⟨_, rfl⟩
  · exact ⟨_, rfl⟩

/-! ## What a port keeps for a pair -/

@[simp] theorem qp_modQp_self (s : State) (q : Fin 4096) (f : Qp → Qp) : (s.modQp q f).qp q = f (s.qp q) := by
  simp [State.qp, State.modQp]

theorem qp_modQp_ne (s : State) {q p : Fin 4096} (f : Qp → Qp) (h : p ≠ q) : (s.modQp q f).qp p = s.qp p := by
  have hl (l : List (Fin 4096 × Qp)) : (l.filter (·.1 != q)).lookup p = l.lookup p := by
    induction l with
    | nil => rfl
    | cons a l ih =>
      obtain ⟨r, v⟩ := a
      by_cases hr : r = q
      · rw [List.filter_cons_of_neg (by simp [hr]), ih, List.lookup_cons, hr, beq_false_of_ne h]
      · rw [List.filter_cons_of_pos (by simp [hr]), List.lookup_cons, List.lookup_cons, ih]
  simp [State.qp, State.modQp, List.lookup_cons, beq_false_of_ne h, hl]

end Sys2Proof.Proofs
end

section
namespace Sys2Proof.Proofs
open Machine Laws

/-! ## Requests of a host -/

/-- The requests of a host's port are not those of a peer, and the filters forget nothing when one begins. -/
theorem modDev_beginPeer {r : HostReq} (s : State) (h : r.port < 2) : s.modDev (·.beginPeer r) = s := by
  have hd : s.dev.beginPeer r = s.dev := if_pos h
  exact congrArg (fun d => ({ s with dev := d } : State)) hd

/-- What one thing more in the outbox says of the answer. -/
theorem refuses_of_outbox {s s' : State} {x : Sent} (h : s'.outbox = s.outbox ++ [x]) :
    (s'.outbox.drop s.outbox.length).any Sent.refuses = x.refuses := by
  rw [h, List.drop_left]
  simp

section
variable {s : State} {op : HostOp} {n : Nat} {ok : State → Option Nat} (hp : s.dev.power = .running)
include hp

theorem hostRequest_unserved (hs : s.qpServes s.pair false = false) : s.hostRequest (s.subjectReq op n) ok = s.refuse s.pair nakInvalid :=
  (if_neg (by simp [hp])).trans (if_pos (by simpa [State.subjectReq] using hs))

section
variable (hs : s.qpServes s.pair false = true)
include hs

theorem hostRequest_forbidden {code : Nat} (hk : ok s = some code) : s.hostRequest (s.subjectReq op n) ok = s.refuse s.pair code := by
  unfold State.hostRequest
  rw [if_neg (by simp [hp]), if_neg (by simpa [State.subjectReq] using hs), hk]
  rfl

variable (hk : ok s = none)
include hk

theorem hostRequest_putOff {s' : State} (ha : s.arriveReq (s.subjectReq op n) = (s', false)) :
    s.hostRequest (s.subjectReq op n) ok = s'.refuse s.pair nakRnr := by
  unfold State.hostRequest
  rw [if_neg (by simp [hp]), if_neg (by simpa [State.subjectReq] using hs), hk]
  dsimp only
  rw [ha]
  rfl

/-- A request that is taken, as it fares. -/
theorem hostRequest_taken {s' : State} (ha : s.arriveReq (s.subjectReq op n) = (s', true)) : s.hostRequest (s.subjectReq op n) ok =
    if (s'.outbox.drop s.outbox.length).any Sent.refuses then s'
    else s'.setPsn s.pair true (s.on.value.setWidth 24 + BitVec.ofNat 24 (s'.packets s.pair n)) := by
  unfold State.hostRequest
  rw [if_neg (by simp [hp]), if_neg (by simpa [State.subjectReq] using hs), hk]
  dsimp only
  rw [ha]
  rfl

theorem hostRequest_refused {s' : State} {p code : Nat} (ha : s.arriveReq (s.subjectReq op n) = (s', true)) (ho : s'.outbox = s.outbox ++ [.nak p code]) :
    s.hostRequest (s.subjectReq op n) ok = s' :=
  (hostRequest_taken hp hs hk ha).trans (if_pos (refuses_of_outbox ho))

theorem hostRequest_answered {s' : State} {x : Sent} (ha : s.arriveReq (s.subjectReq op n) = (s', true)) (ho : s'.outbox = s.outbox ++ [x])
    (hx : x.refuses = false) :
    s.hostRequest (s.subjectReq op n) ok = s'.setPsn s.pair true (s.on.value.setWidth 24 + BitVec.ofNat 24 (s'.packets s.pair n)) :=
  (hostRequest_taken hp hs hk ha).trans (if_neg (by rw [refuses_of_outbox ho, hx]; exact Bool.false_ne_true))

end

end

/-! ### Arrivals -/

section
variable {s : State} {op : HostOp} {n : Nat}

theorem arriveReq_performed {r : HostReq} {s' : State} (hm : s.mayPerform r s.dev.held = true) (hp : s.performReq r = some s') :
    s.arriveReq r = (s', true) := by
  unfold State.arriveReq
  dsimp only
  rw [if_pos hm, hp]

section
variable (hm : s.mayPerform (s.subjectReq op n) s.dev.held = false)
include hm

theorem arriveReq_held (hl : heldBytes s.dev.held (s.qpPort s.pair) + n ≤ 65536) :
    s.arriveReq (s.subjectReq op n) = (s.modDev fun d => { d with held := d.held ++ [s.subjectReq op n] }, true) := by
  unfold State.arriveReq
  dsimp only
  rw [hm, if_neg Bool.false_ne_true]
  exact if_pos (.inr hl)

theorem arriveReq_putOff (ho : op ≠ .launch) (hl : 65536 < heldBytes s.dev.held (s.qpPort s.pair) + n) :
    s.arriveReq (s.subjectReq op n) = (s, false) := by
  unfold State.arriveReq
  dsimp only
  rw [hm, if_neg Bool.false_ne_true]
  exact if_neg (not_or.2 ⟨ho, Nat.not_le.2 hl⟩)

end

theorem mayPerform_exchange (ho : op ≠ .launch) (hx : s.dev.phase.getLsbD 0 = true) (hh : ∀ e ∈ s.dev.held, e.q ≠ s.pair) :
    s.mayPerform (s.subjectReq op n) s.dev.held = true := by
  have hn : s.dev.held.filter (·.q == (s.subjectReq op n).q) = [] := List.filter_eq_nil_iff.2 fun e he => by
    simpa [State.subjectReq] using hh e he
  unfold State.mayPerform
  dsimp only
  rw [if_neg (by exact ho), hn, show s.exchange = true from hx]
  rfl

theorem mayPerform_compute (ho : op ≠ .launch) (hx : s.dev.phase.getLsbD 0 = false) (l : List HostReq) :
    s.mayPerform (s.subjectReq op n) l = false := by
  unfold State.mayPerform
  dsimp only
  rw [if_neg (by exact ho), show s.exchange = false from hx]
  rfl

theorem mayPerform_launch (hh : ∀ e ∈ s.dev.held, e.q = s.pair → e.op = .launch ∨ e.op = .read) :
    s.mayPerform (s.subjectReq .launch n) s.dev.held = true := by
  unfold State.mayPerform
  dsimp only
  rw [if_pos (by rfl)]
  refine List.all_eq_true.2 fun e he => ?_
  obtain ⟨hmem, hq⟩ := List.mem_filter.1 he
  simpa using hh e hmem (beq_iff_eq.1 hq)

end

/-! ### What the requests of the event's pair perform -/

section
variable {s : State} {n : Nat} (hport : s.qpPort s.pair < 2)
include hport

theorem performReq_write_outside (hw : s.inWindow s.pair s.on.addr n true = none) :
    s.performReq (s.subjectReq .write n) = some (s.refuse s.pair nakAccess) := by
  unfold State.performReq
  dsimp only
  rw [modDev_beginPeer s (r := s.subjectReq .write n) hport]
  simp only [State.subjectReq, hport, decide_true, Bool.true_or, if_true, hw]

theorem performReq_write {a : Nat} {ps : List (Nat × Nat)} (hw : s.inWindow s.pair s.on.addr n true = some a)
    (hr : s.reach (s.qpCtx s.pair) true (runParts a n) = ⟨ps, true, false⟩) :
    s.performReq (s.subjectReq .write n) = some ((s.portWrite (s.qpCtx s.pair) ps s.on.data).emit (.ack s.pair.val)) := by
  unfold State.performReq
  dsimp only
  rw [modDev_beginPeer s (r := s.subjectReq .write n) hport]
  simp only [State.subjectReq, hport, decide_true, Bool.true_or, if_true, hw, hr]
  rfl

theorem performReq_read_outside (hw : s.inWindow s.pair s.on.addr n false = none) :
    s.performReq (s.subjectReq .read n) = some (s.refuse s.pair nakAccess) := by
  unfold State.performReq
  dsimp only
  rw [modDev_beginPeer s (r := s.subjectReq .read n) hport]
  simp only [State.subjectReq, hw]

theorem performReq_read {a : Nat} {ps : List (Nat × Nat)} (hw : s.inWindow s.pair s.on.addr n false = some a)
    (hr : s.reach (s.qpCtx s.pair) false (runParts a n) = ⟨ps, true, false⟩) :
    s.performReq (s.subjectReq .read n) = some ((s.portRead (s.qpCtx s.pair) ps).2.emit
      (.readData s.pair.val (ps.flatMap fun p => s.physRead (s.qpCtx s.pair) p.1 p.2))) := by
  unfold State.performReq
  dsimp only
  rw [modDev_beginPeer s (r := s.subjectReq .read n) hport]
  simp only [State.subjectReq, hw, hr]
  rfl

/-- The first free slot of the pair's receive ring (R463). -/
def recvSlot (s : State) : Nat := s.qpRing s.pair + s.qpSize s.pair * 64 + (s.qp s.pair).recv % s.qpSize s.pair * 4096

/-- The header of a received message: full, its length, and its first packet's number. -/
def recvHeader (s : State) (n : Nat) : List Byte := leBytes 8 (2 ^ 56 + n) ++ leBytes 8 (s.on.value.setWidth 24 : BitVec 24).toNat ++ zeroBytes 48

section
variable {pa m : Nat} {ps : List (Nat × Nat)} (hr : s.reach (s.qpCtx s.pair) true (runParts (recvSlot s) 4096) = ⟨(pa, m) :: ps, true, false⟩)
include hr

theorem performReq_send_full (hf : leNat (s.physRead (s.qpCtx s.pair) pa m |>.take 8) / 2 ^ 56 ≠ 0) :
    s.performReq (s.subjectReq .send n) = some (s.refuse s.pair nakRnr) := by
  unfold State.performReq
  dsimp only
  rw [modDev_beginPeer s (r := s.subjectReq .send n) hport]
  have hs : s.reach (s.qpCtx s.pair) true (runParts (s.qpRing s.pair + s.qpSize s.pair * 64 + (s.qp s.pair).recv % s.qpSize s.pair * 4096) 4096) =
    ⟨(pa, m) :: ps, true, false⟩ := hr
  simp only [State.subjectReq, hs]
  refine (if_neg Bool.false_ne_true).trans ((if_neg Bool.false_ne_true).trans (if_pos ?_))
  simpa [State.portRead] using hf

theorem performReq_send (hf : leNat (s.physRead (s.qpCtx s.pair) pa m |>.take 8) / 2 ^ 56 = 0) : s.performReq (s.subjectReq .send n) =
    some ((((s.portWrite (s.qpCtx s.pair) (s.reach (s.qpCtx s.pair) true (runParts (recvSlot s + 64) n)).parts s.on.data).portWrite (s.qpCtx s.pair)
      [(pa, m)] (recvHeader s n)).modQp s.pair fun k => { k with recv := k.recv + 1 }).emit (.ack s.pair.val)) := by
  unfold State.performReq
  dsimp only
  rw [modDev_beginPeer s (r := s.subjectReq .send n) hport]
  have hs : s.reach (s.qpCtx s.pair) true (runParts (s.qpRing s.pair + s.qpSize s.pair * 64 + (s.qp s.pair).recv % s.qpSize s.pair * 4096) 4096) =
    ⟨(pa, m) :: ps, true, false⟩ := hr
  simp only [State.subjectReq, hs]
  refine (if_neg Bool.false_ne_true).trans ((if_neg Bool.false_ne_true).trans (if_neg ?_))
  simpa [State.portRead] using hf

end

theorem performReq_launch_admitted {s1 : State} (ha : s.packetArrives (Fin.ofNat 128 (s.on.addr.toNat / 64)) false s.pair.val s.on.data = (s1, none)) :
    s.performReq (s.subjectReq .launch n) = some (s1.emit (.ack s.pair.val)) := by
  unfold State.performReq
  dsimp only
  rw [modDev_beginPeer s (r := s.subjectReq .launch n) hport]
  simp only [State.subjectReq, hport, Nat.not_le.2 hport, decide_false, if_true, ha]

theorem performReq_launch_refused {s1 : State} {c : BitVec 8}
    (ha : s.packetArrives (Fin.ofNat 128 (s.on.addr.toNat / 64)) false s.pair.val s.on.data = (s1, some c)) :
    s.performReq (s.subjectReq .launch n) = some (s1.answerLaunch s.pair c) := by
  unfold State.performReq
  dsimp only
  rw [modDev_beginPeer s (r := s.subjectReq .launch n) hport]
  simp only [State.subjectReq, hport, Nat.not_le.2 hport, decide_false, if_true, ha]

end

end Sys2Proof.Proofs
end

section
namespace Sys2Proof.Proofs
open Machine Laws

/-! ### The requests themselves -/

/-- The check of the R_Key of a request (R459). -/
def keyCheck (q : Fin 4096) (s : State) : Option Nat := if s.on.key = (s.qpWord q 1).setWidth 32 then none else some nakAccess

section
variable {s : State} (hf : s.on.flag = false)
include hf

theorem rdmaWrite_eq (hk : s.on.key ≠ 0) : exec .rdmaWrite s = .next (s.hostRequest (s.subjectReq .write s.on.data.length) (keyCheck s.pair)) :=
  congrArg Host.Outcome.next ((if_neg (by rw [hf]; exact Bool.false_ne_true)).trans (if_neg hk))

theorem rdmaRead_eq : exec .rdmaRead s = .next (s.hostRequest (s.subjectReq .read s.on.index) (keyCheck s.pair)) :=
  congrArg Host.Outcome.next (if_neg (by rw [hf]; exact Bool.false_ne_true))

theorem send_eq (hl : s.on.data.length ≤ 4032) : exec .send s = .next (s.hostRequest (s.subjectReq .send s.on.data.length) fun _ => none) :=
  congrArg Host.Outcome.next ((if_neg (by rw [hf]; exact Bool.false_ne_true)).trans (if_neg (Nat.not_lt.2 hl)))

theorem send_long (hl : 4032 < s.on.data.length) : exec .send s = .next (s.badRequest s.pair) :=
  congrArg Host.Outcome.next ((if_neg (by rw [hf]; exact Bool.false_ne_true)).trans (if_pos hl))

theorem launchPacket_eq (h64 : s.on.data.length = 64) (ha : s.on.addr.toNat % 64 = 0) (hn : s.on.addr.toNat < 8192) :
    exec .launchPacket s = .next (s.hostRequest (s.subjectReq .launch 64) fun _ => none) := by
  refine congrArg Host.Outcome.next ((if_neg (by rw [hf]; exact Bool.false_ne_true)).trans ((if_neg ?_).trans (by rw [h64])))
  simp [h64, ha, Nat.not_le.2 hn]

end

section
variable {s : State} (hp : s.dev.power = .running)
include hp

theorem badRequest_served (hs : s.qpServes s.pair false = true) : s.badRequest s.pair = (s.refuse s.pair nakInvalid).qpError s.pair :=
  (if_neg (by simp [hp])).trans (if_pos hs)

theorem badRequest_unserved (hs : s.qpServes s.pair false = false) : s.badRequest s.pair = s.refuse s.pair nakInvalid :=
  (if_neg (by simp [hp])).trans (if_neg (by rw [hs]; exact Bool.false_ne_true))

end

section
variable {s : State} (hp : s.dev.power = .running) (hf : s.on.flag = false)
include hp hf

/-- A request that the pair does not serve is refused as invalid (R457). -/
theorem unserved_refused (hs : s.qpServes s.pair false = false) : (s.on.key ≠ 0 → exec .rdmaWrite s = .next (s.refuse s.pair nakInvalid)) ∧
    exec .rdmaRead s = .next (s.refuse s.pair nakInvalid) ∧ (s.on.data.length ≤ 4032 → exec .send s = .next (s.refuse s.pair nakInvalid)) ∧
    exec .invalidRequest s = .next (s.refuse s.pair nakInvalid) :=
  ⟨fun hk => (rdmaWrite_eq hf hk).trans (congrArg _ (hostRequest_unserved hp hs)), (rdmaRead_eq hf).trans (congrArg _ (hostRequest_unserved hp hs)),
    fun hl => (send_eq hf hl).trans (congrArg _ (hostRequest_unserved hp hs)), congrArg Host.Outcome.next (badRequest_unserved hp hs)⟩

/-- A wrong R_Key is an access error (R459). -/
theorem unkeyed_refused (hs : s.qpServes s.pair false = true) (hk : ¬ s.on.key = (s.qpWord s.pair 1).setWidth 32) :
    (s.on.key ≠ 0 → exec .rdmaWrite s = .next (s.refuse s.pair nakAccess)) ∧ exec .rdmaRead s = .next (s.refuse s.pair nakAccess) :=
  ⟨fun h0 => (rdmaWrite_eq hf h0).trans (congrArg _ (hostRequest_forbidden hp hs (if_neg hk))),
    (rdmaRead_eq hf).trans (congrArg _ (hostRequest_forbidden hp hs (if_neg hk)))⟩

section
variable (hx : s.dev.phase.getLsbD 0 = true) (hs : s.qpServes s.pair false = true) (hport : s.qpPort s.pair < 2) (hh : ∀ r ∈ s.dev.held, r.q ≠ s.pair)
include hx hs hport hh

section
variable (hk : s.on.key = (s.qpWord s.pair 1).setWidth 32)
include hk

theorem rdmaWrite_outside (h0 : s.on.key ≠ 0) (hw : s.inWindow s.pair s.on.addr s.on.data.length true = none) :
    exec .rdmaWrite s = .next (s.refuse s.pair nakAccess) :=
  (rdmaWrite_eq hf h0).trans (congrArg Host.Outcome.next (hostRequest_refused hp hs (if_pos hk)
    (arriveReq_performed (mayPerform_exchange nofun hx hh) (performReq_write_outside hport hw)) rfl))

theorem rdmaRead_outside (hw : s.inWindow s.pair s.on.addr s.on.index false = none) : exec .rdmaRead s = .next (s.refuse s.pair nakAccess) :=
  (rdmaRead_eq hf).trans (congrArg Host.Outcome.next (hostRequest_refused hp hs (if_pos hk)
    (arriveReq_performed (mayPerform_exchange nofun hx hh) (performReq_read_outside hport hw)) rfl))

theorem rdmaWrite_performs (h0 : s.on.key ≠ 0) {a : Nat} {ps : List (Nat × Nat)} (hw : s.inWindow s.pair s.on.addr s.on.data.length true = some a)
    (hr : s.reach (s.qpCtx s.pair) true (runParts a s.on.data.length) = ⟨ps, true, false⟩) : exec .rdmaWrite s =
      .next (((s.portWrite (s.qpCtx s.pair) ps s.on.data).emit (.ack s.pair.val)).setPsn s.pair true (s.on.value.setWidth 24 +
        BitVec.ofNat 24 (((s.portWrite (s.qpCtx s.pair) ps s.on.data).emit (.ack s.pair.val)).packets s.pair s.on.data.length))) :=
  (rdmaWrite_eq hf h0).trans (congrArg Host.Outcome.next (hostRequest_answered hp hs (if_pos hk)
    (arriveReq_performed (mayPerform_exchange nofun hx hh) (performReq_write hport hw hr))
    (congrArg (· ++ [Sent.ack s.pair.val]) (portWrite_apart outbox_apart ..)) rfl))

theorem rdmaRead_performs {a : Nat} {ps : List (Nat × Nat)} (hw : s.inWindow s.pair s.on.addr s.on.index false = some a)
    (hr : s.reach (s.qpCtx s.pair) false (runParts a s.on.index) = ⟨ps, true, false⟩) :
    let r := (s.portRead (s.qpCtx s.pair) ps).2.emit (.readData s.pair.val (ps.flatMap fun p => s.physRead (s.qpCtx s.pair) p.1 p.2))
    exec .rdmaRead s = .next (r.setPsn s.pair true (s.on.value.setWidth 24 + BitVec.ofNat 24 (r.packets s.pair s.on.index))) :=
  (rdmaRead_eq hf).trans (congrArg Host.Outcome.next (hostRequest_answered hp hs (if_pos hk)
    (arriveReq_performed (mayPerform_exchange nofun hx hh) (performReq_read hport hw hr))
    (congrArg (· ++ [_]) (portRead_apart (g := State.outbox) (fun _ _ _ _ => rfl) ..)) rfl))

end

section
variable (hl : s.on.data.length ≤ 4032) {pa m : Nat} {ps : List (Nat × Nat)}
  (hr : s.reach (s.qpCtx s.pair) true (runParts (recvSlot s) 4096) = ⟨(pa, m) :: ps, true, false⟩)
include hl hr

theorem send_full (he : leNat (s.physRead (s.qpCtx s.pair) pa m |>.take 8) / 2 ^ 56 ≠ 0) : exec .send s = .next (s.refuse s.pair nakRnr) :=
  (send_eq hf hl).trans (congrArg Host.Outcome.next (hostRequest_refused hp hs rfl
    (arriveReq_performed (mayPerform_exchange nofun hx hh) (performReq_send_full hport hr he)) rfl))

theorem send_performs (he : leNat (s.physRead (s.qpCtx s.pair) pa m |>.take 8) / 2 ^ 56 = 0) :
    let r := (((s.portWrite (s.qpCtx s.pair) (s.reach (s.qpCtx s.pair) true (runParts (recvSlot s + 64) s.on.data.length)).parts s.on.data).portWrite
      (s.qpCtx s.pair) [(pa, m)] (recvHeader s s.on.data.length)).modQp s.pair fun k => { k with recv := k.recv + 1 }).emit (.ack s.pair.val)
    exec .send s = .next (r.setPsn s.pair true (s.on.value.setWidth 24 + BitVec.ofNat 24 (r.packets s.pair s.on.data.length))) :=
  (send_eq hf hl).trans (congrArg Host.Outcome.next (hostRequest_answered hp hs rfl
    (arriveReq_performed (mayPerform_exchange nofun hx hh) (performReq_send hport hr he))
    (congrArg (· ++ [_]) ((portWrite_apart outbox_apart ..).trans (portWrite_apart outbox_apart ..))) rfl))

end

end

/-- In a compute phase a write is held while there is room, and put off otherwise (R460). -/
theorem rdmaWrite_computes (hx : s.dev.phase.getLsbD 0 = false) (hs : s.qpServes s.pair false = true)
    (hk : s.on.key = (s.qpWord s.pair 1).setWidth 32) (h0 : s.on.key ≠ 0) :
    (heldBytes s.dev.held (s.qpPort s.pair) + s.on.data.length ≤ 65536 → Leads .rdmaWrite s fun s' => s'.outbox = s.outbox ∧ ∃ r : HostReq,
      s'.dev.held = s.dev.held ++ [r] ∧ r.op = .write ∧ r.q = s.pair ∧ r.addr = s.on.addr ∧ r.data = s.on.data) ∧
    (65536 < heldBytes s.dev.held (s.qpPort s.pair) + s.on.data.length → exec .rdmaWrite s = .next (s.refuse s.pair nakRnr)) := by
  have hm : s.mayPerform (s.subjectReq .write s.on.data.length) s.dev.held = false := mayPerform_compute (op := .write) nofun hx _
  refine ⟨fun hl => ?_, fun hl => ?_⟩
  · refine ⟨_, (rdmaWrite_eq hf h0).trans (congrArg Host.Outcome.next (hostRequest_taken hp hs (if_pos hk) (arriveReq_held hm hl))), ?_⟩
    have hnone : ¬((s.modDev fun d => { d with held := d.held ++ [s.subjectReq .write s.on.data.length] }).outbox.drop s.outbox.length).any
        Sent.refuses = true := by
      rw [modDev_outbox, List.drop_length]
      exact Bool.false_ne_true
    rw [if_neg hnone]
    exact ⟨rfl, _, rfl, rfl, rfl, rfl, rfl⟩
  · exact (rdmaWrite_eq hf h0).trans (congrArg Host.Outcome.next (hostRequest_putOff hp hs (if_pos hk) (arriveReq_putOff hm nofun hl)))

section
variable (hs : s.qpServes s.pair false = true) (hport : s.qpPort s.pair < 2) (h64 : s.on.data.length = 64)
  (ha : s.on.addr.toNat % 64 = 0) (hn : s.on.addr.toNat < 8192) (hh : ∀ r ∈ s.dev.held, r.q = s.pair → r.op = .launch ∨ r.op = .read) {s1 : State}
include hs hport h64 ha hn hh

/-- A launch packet that passes the checks of R357, in any phase. -/
theorem launchPacket_admitted (hw : s.packetArrives (Fin.ofNat 128 (s.on.addr.toNat / 64)) false s.pair.val s.on.data = (s1, none)) :
    exec .launchPacket s = .next ((s1.emit (.ack s.pair.val)).setPsn s.pair true
      (s.on.value.setWidth 24 + BitVec.ofNat 24 ((s1.emit (.ack s.pair.val)).packets s.pair 64))) := by
  have ho : s1.outbox = s.outbox := (congrArg (·.1.outbox) hw).symm.trans (packetArrives_outbox ..)
  rw [launchPacket_eq hf h64 ha hn, hostRequest_answered hp hs rfl (arriveReq_performed (mayPerform_launch hh) (performReq_launch_admitted hport hw))
    (congrArg (· ++ [Sent.ack s.pair.val]) ho) rfl]

/-- A launch packet that the checks of R357 refuse. -/
theorem launchPacket_refused {c : BitVec 8} (hw : s.packetArrives (Fin.ofNat 128 (s.on.addr.toNat / 64)) false s.pair.val s.on.data = (s1, some c)) :
    exec .launchPacket s = .next (s1.answerLaunch s.pair c) := by
  have ho : s1.outbox = s.outbox := (congrArg (·.1.outbox) hw).symm.trans (packetArrives_outbox ..)
  obtain ⟨code, hc⟩ := answerLaunch_outbox s1 s.pair c
  rw [launchPacket_eq hf h64 ha hn, hostRequest_refused hp hs rfl (arriveReq_performed (mayPerform_launch hh) (performReq_launch_refused hport hw))
    (hc.trans (congrArg (· ++ _) ho))]

end

end

theorem hostRequests_holds : hostRequests := by
  intro s hp hf q x bs nak ready reached keyed psn taken
  refine ⟨unserved_refused hp hf, unkeyed_refused hp hf, fun ⟨hx, hs, hport, hh⟩ hk => ⟨?_, ?_, ?_, ?_⟩, fun hx hs hk h0 => ?_, ?_, ?_, ?_, ?_, ?_,
    ?_, ?_⟩
  · exact rdmaWrite_outside hp hf hx hs hport hh hk
  · exact rdmaRead_outside hp hf hx hs hport hh hk
  · exact fun a ps h0 hw hr => rdmaWrite_performs hp hf hx hs hport hh hk h0 hw hr
  · exact fun a ps hw hr => rdmaRead_performs hp hf hx hs hport hh hk hw hr
  · exact rdmaWrite_computes hp hf hx hs hk h0
  · intro slot words ⟨hx, hs, hport, hh⟩ hl pa n ps hr
    exact ⟨send_full hp hf hx hs hport hh hl hr, send_performs hp hf hx hs hport hh hl hr⟩
  · exact fun hl hs => (send_long hf hl).trans (congrArg _ (badRequest_served hp hs))
  · exact fun hs => congrArg Host.Outcome.next (badRequest_served hp hs)
  · intro hs hport h64 ha hn hh s1 w hw
    cases w with
    | none => exact launchPacket_admitted hp hf hs hport h64 ha hn hh hw
    | some c => exact launchPacket_refused hp hf hs hport h64 ha hn hh hw
  · exact congrArg Host.Outcome.next (if_pos hp)
  · exact ⟨_, congrArg Host.Outcome.next (if_pos hp), qp_modQp_self .., fun p h => qp_modQp_ne _ _ h⟩
  · exact ⟨_, congrArg Host.Outcome.next (if_pos hp), qp_modQp_self .., fun p h => qp_modQp_ne _ _ h⟩

end Sys2Proof.Proofs
end

section
namespace Sys2Proof.Proofs
open Machine Laws

/-! ## The send ring -/

/-! ### Words of an entry -/

/-- The number of two runs of bytes, one after the other. -/
theorem leNat_append (a b : List Byte) : leNat (a ++ b) = leNat a + 256 ^ a.length * leNat b := by
  induction a with
  | nil => simp [leNat]
  | cons x a ih => rw [List.cons_append, leNat, leNat, ih, List.length_cons, pow_succ]; ring

/-- The low bytes of a number in memory. -/
theorem num_mod (m : Mem) (a n k : Nat) : m.num a (n + k) % 256 ^ n = m.num a n % 256 ^ n := by
  have h : m.read a (n + k) = m.read a n ++ m.read (a + n) k := by
    rw [Mem.read, List.range_add, List.map_append, List.map_map]
    exact congrArg (m.read a n ++ ·) (List.map_congr_left fun i _ => by simp [Nat.add_assoc])
  rw [Mem.num, h, leNat_append, read_length, Nat.add_mul_mod_self_left]
  rfl

/-- A word of an entry that is written in full. -/
theorem qpWord_written (s : State) (q : Fin 4096) (w v : Nat) : (s.writeDram (s.qpAt q + w * 8) (leBytes 8 v)).qpWord q w = BitVec.ofNat 64 v := by
  have h : (s.dev.dram.write (s.qpAt q + w * 8) (leBytes 8 v)).num (s.qpAt q + w * 8) 8 = v % 256 ^ 8 := num_setNum ..
  refine (congrArg w64 h).trans (BitVec.eq_of_toNat_eq ?_)
  rw [w64, BitVec.toNat_ofNat, BitVec.toNat_ofNat]
  exact Nat.mod_mod ..

/-- A word of an entry of which nothing is written. -/
theorem qpWord_outside (s : State) (q : Fin 4096) {a : Nat} {bs : List Byte} {w : Nat}
    (h : s.qpAt q + w * 8 + 8 ≤ a ∨ a + bs.length ≤ s.qpAt q + w * 8) : (s.writeDram a bs).qpWord q w = s.qpWord q w :=
  congrArg w64 (num_write_outside _ _ _ _ _ h)

@[simp] theorem qpWord_modQp (s : State) (q p : Fin 4096) (f : Qp → Qp) (w : Nat) : (s.modQp p f).qpWord q w = s.qpWord q w := rfl

/-- A number with its low bits replaced is a word like the old one, of the new low bits. -/
theorem replaced_low {w v : Nat} (hw : w < 2 ^ 64) (hv : v < 2 ^ 24) : (w - w % 2 ^ 24 + v) % 2 ^ 64 % 2 ^ 24 = v := by omega

/-- The sender's PSN reads back as it is written (R458). -/
theorem qpPsn_setPsn (s : State) (q : Fin 4096) (v : BitVec 24) : (s.setPsn q false v).qpPsn q false = v := by
  have h : (s.setPsn q false v).qpWord q 9 =
      BitVec.ofNat 64 ((s.qpWord q 9).toNat - bits (s.qpWord q 9).toNat 0 24 * 2 ^ 0 + v.toNat * 2 ^ 0) := qpWord_written s q 9 _
  refine BitVec.eq_of_toNat_eq ?_
  rw [State.qpPsn, h, show 24 * bit false = 0 from rfl, fld_zero, BitVec.toNat_ofNat, BitVec.toNat_ofNat]
  simp only [bits, pow_zero, Nat.div_one, mul_one]
  rw [replaced_low (s.qpWord q 9).isLt v.isLt, Nat.mod_eq_of_lt v.isLt]

theorem qpPsn_sender (s : State) (q : Fin 4096) : s.qpPsn q false = (s.qpWord q 9).setWidth 24 := by
  refine BitVec.eq_of_toNat_eq ?_
  rw [State.qpPsn, show 24 * bit false = 0 from rfl, fld_zero, BitVec.toNat_ofNat, BitVec.toNat_setWidth]
  exact Nat.mod_mod ..

/-- A field of a word, as a vector. -/
theorem fld_eq_extract (v : W64) (lo n : Nat) : v.fld lo n = (v.extractLsb' lo n).toNat := by
  rw [BitVec.extractLsb'_toNat, Nat.shiftRight_eq_div_pow]
  rfl

/-- The error state reads back from the entry (R457). -/
theorem qpSt_qpError (s : State) (q : Fin 4096) : (s.qpError q).qpSt q = 2 := by
  have h : (s.qpError q).qpWord q 0 = BitVec.ofNat 64 ((s.qpWord q 0 &&& ~~~(3#64 <<< 60)) ||| (2#64 <<< 60)).toNat := qpWord_written s q 0 _
  rw [State.qpSt, h, BitVec.ofNat_toNat, BitVec.setWidth_eq, fld_eq_extract, BitVec.extractLsb'_or, BitVec.extractLsb'_and]
  rw [show (~~~(3#64 <<< 60)).extractLsb' 60 2 = 0#2 from by decide, show (2#64 <<< 60).extractLsb' 60 2 = 2#2 from by decide, BitVec.and_zero]
  decide

theorem qpCons_qpError (s : State) (q : Fin 4096) : (s.qpError q).qpCons q = s.qpCons q :=
  congrArg (BitVec.setWidth 32) (qpWord_outside (w := 10) s q (.inr (by rw [leBytes_length]; omega)))

/-- The consumer count reads back as it is written (R463). -/
theorem qpCons_written (s : State) (q : Fin 4096) (v : BitVec 32) : (s.writeDram (s.qpAt q + 0x50) (leBytes 4 v.toNat)).qpCons q = v := by
  have h : (s.dev.dram.write (s.qpAt q + 0x50) (leBytes 4 v.toNat)).num (s.qpAt q + 0x50) 4 = v.toNat % 256 ^ 4 := num_setNum ..
  have hm : (s.dev.dram.write (s.qpAt q + 0x50) (leBytes 4 v.toNat)).num (s.qpAt q + 0x50) 8 % 256 ^ 4 = _ := num_mod _ _ 4 4
  refine BitVec.eq_of_toNat_eq ?_
  change (BitVec.setWidth 32 (w64 ((s.dev.dram.write (s.qpAt q + 0x50) (leBytes 4 v.toNat)).num (s.qpAt q + 0x50) 8))).toNat = _
  rw [h] at hm
  rw [BitVec.toNat_setWidth, w64, BitVec.toNat_ofNat]
  have := v.isLt
  omega

/-! ### Requests in progress -/

section
variable {s : State} (hp : s.dev.power = .running) (hx : s.dev.phase.getLsbD 0 = true) (hv : s.qpValid s.pair = true) (hst : s.qpSt s.pair = 1)
include hp hx hv hst

theorem doorbell_spec {pa : Nat} (hpa : s.portPa (s.qpCtx s.pair) (s.qpWord s.pair 5).toNat false = some pa) :
    exec .doorbell s = .next
      (if s.qpSize s.pair < ((BitVec.ofNat 32 (leNat (s.physRead (s.qpCtx s.pair) pa 8)) : BitVec 32) - s.qpCons s.pair).toNat then s.qpError s.pair
       else s.modQp s.pair fun k => { k with producer := some (BitVec.ofNat 32 (leNat (s.physRead (s.qpCtx s.pair) pa 8))) }) := by
  refine congrArg Host.Outcome.next ((if_neg ?_).trans (by rw [hpa]))
  simp [hp, hv, hst, show s.exchange = true from hx]

section
variable (ht : (s.qp s.pair).taken = none) {r : WorkReq} (hw : s.workReq s.pair = some r)
include ht hw

theorem takeRequest_malformed (hok : r.ok (s.qpPeer s.pair) = false) (op : Nat) (f : State → WorkReq → Qp → State) :
    s.takeRequest op f = s.endsWith s.pair 0x83 := by
  unfold State.takeRequest
  dsimp only
  rw [if_neg (by simp [hp, hv, hst, ht, show s.exchange = true from hx]), hw]
  exact if_pos (by rw [hok]; rfl)

/-- A valid request of the operation goes on. -/
theorem takeRequest_eq (hok : r.ok (s.qpPeer s.pair) = true) (f : State → WorkReq → Qp → State) : s.takeRequest r.op f = f s r (s.qp s.pair) := by
  unfold State.takeRequest
  dsimp only
  rw [if_neg (by simp [hp, hv, hst, ht, show s.exchange = true from hx]), hw]
  exact (if_neg (by rw [hok]; exact Bool.false_ne_true)).trans (if_neg (not_not_intro rfl))

end

end

theorem localBytes_reached {s : State} {q : Fin 4096} {a n : Nat} {ps : List (Nat × Nat)} (f : List Byte → State → State)
    (hr : s.reach (s.qpCtx q) false (runParts a n) = ⟨ps, true, false⟩) :
    s.localBytes q a n f = f (ps.flatMap fun p => s.physRead (s.qpCtx q) p.1 p.2) (s.portRead (s.qpCtx q) ps).2 := by
  unfold State.localBytes
  dsimp only
  rw [hr]
  rfl

end Sys2Proof.Proofs
end

section
namespace Sys2Proof.Proofs
open Machine Laws

/-! ### Parts of requests -/

/-- A part of `n` bytes more is done. -/
theorem progress_qp (s : State) (q : Fin 4096) (r : WorkReq) (n : Nat) : (s.progress q r n).qp q =
    { s.qp q with pos := (s.qp q).pos + n, taken := if r.len ≤ (s.qp q).pos + n then some 0 else none } := qp_modQp_self ..

/-- What leaves of a request does not turn on what its local bytes were read with. -/
theorem sentReq_reads (q : Fin 4096) (r : WorkReq) (a : W64) (bs : List Byte) : ApartFromReads fun s => s.sentReq q r a bs := fun _ _ _ _ => rfl

/-- The part of a request that is sent to the host, from the state after its bytes were read. -/
def sentPacket (s : State) (q : Fin 4096) (r : WorkReq) (a : W64) (n : Nat) (bs : List Byte) : State :=
  ((s.emit (.request q.val (s.sentReq q r a bs))).setPsn q false (s.qpPsn q false + 1)).progress q r n

/-- The frame that carries a part of a request to a peer. -/
def sentFrame (s : State) (q : Fin 4096) (r : WorkReq) (p : Fin 12) (a : W64) (n : Nat) (bs : List Byte) (last : BitVec 16) : State :=
  (((s.emit (.request q.val (s.sentReq q r a bs))).sendData p bs).progress q r n).modQp q fun k => { k with last := some last }

theorem sentPacket_spec (s : State) (q : Fin 4096) (r : WorkReq) (a : W64) (n : Nat) (bs : List Byte) :
    (sentPacket s q r a n bs).qp q = { s.qp q with pos := (s.qp q).pos + n, taken := if r.len ≤ (s.qp q).pos + n then some 0 else none } ∧
      (sentPacket s q r a n bs).qpPsn q false = s.qpPsn q false + 1 ∧
      (sentPacket s q r a n bs).outbox = s.outbox ++ [.request q.val (s.sentReq q r a bs)] :=
  ⟨progress_qp .., qpPsn_setPsn .., rfl⟩

/-- A data frame leaves, and is kept with its number for replay (R465). -/
theorem sendData_spec (s : State) (p : Fin 12) (bs : List Byte) : ∃ f, (s.sendData p bs).dev.links[p] =
    { s.dev.links[p] with sendSeq := s.dev.links[p].sendSeq + 1, replay := s.dev.links[p].replay ++ [(s.dev.links[p].sendSeq, f)] } ∧
    (s.sendData p bs).outbox = s.outbox ++ [.frame p.val f] := by
  refine ⟨_, ?_, rfl⟩
  unfold State.sendData
  dsimp only
  rw [modLink_get]
  rfl

theorem sentFrame_spec (s : State) (q : Fin 4096) (r : WorkReq) (p : Fin 12) (a : W64) (n : Nat) (bs : List Byte) (last : BitVec 16) :
    (sentFrame s q r p a n bs last).qp q =
      { s.qp q with pos := (s.qp q).pos + n, taken := if r.len ≤ (s.qp q).pos + n then some 0 else none, last := some last } ∧
      ∃ f, (sentFrame s q r p a n bs last).dev.links[p] =
          { s.dev.links[p] with sendSeq := s.dev.links[p].sendSeq + 1, replay := s.dev.links[p].replay ++ [(s.dev.links[p].sendSeq, f)] } ∧
        (sentFrame s q r p a n bs last).outbox = s.outbox ++ [.request q.val (s.sentReq q r a bs), .frame p.val f] := by
  obtain ⟨f, hlink, hout⟩ := sendData_spec (s.emit (.request q.val (s.sentReq q r a bs))) p bs
  refine ⟨?_, f, hlink, hout.trans (List.append_assoc ..)⟩
  rw [sentFrame, qp_modQp_self, progress_qp]
  rfl

section
variable {s : State} (hp : s.dev.power = .running) (hx : s.dev.phase.getLsbD 0 = true) (hv : s.qpValid s.pair = true) (hst : s.qpSt s.pair = 1)
  (ht : (s.qp s.pair).taken = none) {r : WorkReq} (hw : s.workReq s.pair = some r)
include hp hx hv hst ht hw

/-- Whatever the operation, a request whose fields are wrong ends with 0x83. -/
theorem malformed_ends (hok : r.ok (s.qpPeer s.pair) = false) :
    ∀ i ∈ ([.workRequestWrite, .workRequestRead, .workRequestSend, .peerWrite, .peerReduce, .peerLaunch] : List Instr),
      exec i s = .next (s.endsWith s.pair 0x83) := by
  have hsend (op : Nat) : s.sendBytes op = s.endsWith s.pair 0x83 := by
    unfold State.sendBytes
    exact takeRequest_malformed hp hx hv hst ht hw hok op _
  have hpeer (op : Nat) : s.sendPeer op = s.endsWith s.pair 0x83 := by
    unfold State.sendPeer
    exact takeRequest_malformed hp hx hv hst ht hw hok op _
  have hread := takeRequest_malformed hp hx hv hst ht hw hok 0x02
  intro i hi
  simp only [List.mem_cons, List.not_mem_nil, or_false] at hi
  rcases hi with rfl | rfl | rfl | rfl | rfl | rfl
  · exact congrArg Host.Outcome.next (hsend 0x01)
  · exact congrArg Host.Outcome.next (hread _)
  · exact congrArg Host.Outcome.next (hsend 0x03)
  · exact congrArg Host.Outcome.next (hpeer 0x11)
  · exact congrArg Host.Outcome.next (hpeer 0x12)
  · exact congrArg Host.Outcome.next (hpeer 0x13)

variable (hok : r.ok (s.qpPeer s.pair) = true)
include hok

/-- A packet of a request to the host, whose bytes are reached. -/
theorem sendBytes_sent {n : Nat} (hn : n = Min.min (s.qpMtu s.pair) (r.len - (s.qp s.pair).pos)) {ps : List (Nat × Nat)}
    (hr : s.reach (s.qpCtx s.pair) false (runParts (r.loc + (s.qp s.pair).pos) n) = ⟨ps, true, false⟩) :
    s.sendBytes r.op = sentPacket (s.portRead (s.qpCtx s.pair) ps).2 s.pair r (r.remote + w64 (s.qp s.pair).pos) n
      (ps.flatMap fun p => s.physRead (s.qpCtx s.pair) p.1 p.2) := by
  subst hn
  unfold State.sendBytes
  dsimp only
  rw [takeRequest_eq hp hx hv hst ht hw hok, localBytes_reached _ hr]
  rfl

theorem sendPeer_down (hd : (s.dev.links[linkOf (s.qpPort s.pair)]).down = true) : s.sendPeer r.op = s.endsWith s.pair 0x85 := by
  unfold State.sendPeer
  dsimp only
  rw [takeRequest_eq hp hx hv hst ht hw hok]
  exact if_pos hd

/-- A frame of a request to a peer, whose bytes are reached. -/
theorem sendPeer_sent (hd : (s.dev.links[linkOf (s.qpPort s.pair)]).down = false) (hl : (s.dev.links[linkOf (s.qpPort s.pair)]).replay.length < 1024)
    {n : Nat} (hn : n = Min.min (256 - (r.remote.toNat + (s.qp s.pair).pos) % 64) (r.len - (s.qp s.pair).pos)) {ps : List (Nat × Nat)}
    (hr : s.reach (s.qpCtx s.pair) false (runParts (r.loc + (s.qp s.pair).pos) n) = ⟨ps, true, false⟩) :
    s.sendPeer r.op = sentFrame (s.portRead (s.qpCtx s.pair) ps).2 s.pair r (linkOf (s.qpPort s.pair)) (w64 (r.remote.toNat + (s.qp s.pair).pos)) n
      (ps.flatMap fun p => s.physRead (s.qpCtx s.pair) p.1 p.2) (s.dev.links[linkOf (s.qpPort s.pair)]).sendSeq := by
  subst hn
  unfold State.sendPeer
  dsimp only
  rw [takeRequest_eq hp hx hv hst ht hw hok]
  refine (if_neg (by rw [hd]; exact Bool.false_ne_true)).trans ((if_neg (Nat.not_le.2 hl)).trans ?_)
  rw [localBytes_reached _ hr]
  rfl

section
variable (ho : r.op = 0x02)
include ho

theorem workRequestRead_asks (hf : s.on.flag = false) (ha : (s.qp s.pair).asked = false) : exec .workRequestRead s = .next
    (((s.emit (.request s.pair.val (s.sentReq s.pair r r.remote (leBytes 4 r.len)))).setPsn s.pair false
      (s.qpPsn s.pair false + BitVec.ofNat 24 (s.packets s.pair r.len))).modQp s.pair fun k => { k with asked := true }) := by
  refine congrArg Host.Outcome.next ((ho ▸ takeRequest_eq hp hx hv hst ht hw hok _ :).trans ((if_pos ?_).trans (if_neg ?_)))
  · rw [hf]
    rfl
  · rw [ha]
    exact Bool.false_ne_true

theorem workRequestRead_asked (hf : s.on.flag = false) (ha : (s.qp s.pair).asked = true) : exec .workRequestRead s = .next s := by
  refine congrArg Host.Outcome.next ((ho ▸ takeRequest_eq hp hx hv hst ht hw hok _ :).trans ((if_pos ?_).trans (if_pos ha)))
  rw [hf]
  rfl

theorem workRequestRead_answered (hf : s.on.flag = true) {ps : List (Nat × Nat)} (hr : s.reach (s.qpCtx s.pair) true
    (runParts (r.loc + (s.qp s.pair).pos) (Min.min s.on.data.length (r.len - (s.qp s.pair).pos))) = ⟨ps, true, false⟩) :
    exec .workRequestRead s = .next ((s.portWrite (s.qpCtx s.pair) ps s.on.data).progress s.pair r
      (Min.min s.on.data.length (r.len - (s.qp s.pair).pos))) := by
  refine congrArg Host.Outcome.next ((ho ▸ takeRequest_eq hp hx hv hst ht hw hok _ :).trans ((if_neg ?_).trans ?_))
  · rw [hf]
    exact Bool.false_ne_true
  · dsimp only
    rw [hr]
    rfl

end

end

end Sys2Proof.Proofs
end

section
namespace Sys2Proof.Proofs
open Machine Laws

/-! ### The end of a request -/

theorem qpAt_apart (q : Fin 4096) : ApartFromWrites fun s => s.qpAt q := fun _ _ _ _ _ _ _ _ _ => rfl

/-- The address that a port finds keeps the place in the granule. -/
theorem portPa_aligned {s : State} {x : BitVec 16} {va pa : Nat} {write : Bool} (h : s.portPa x va write = some pa) (ha : va % 32 = 0) : pa % 32 = 0 := by
  have hv : va % 2 ^ 56 % 32 = 0 := by omega
  unfold State.portPa at h
  split at h
  · cases h
  have ht : s.translateDirect (BitVec.ofNat 8 ((s.ctxField x 0).fld 16 8)) va write = .ok pa := by
    cases he : s.translateDirect (BitVec.ofNat 8 ((s.ctxField x 0).fld 16 8)) va write with
    | ok a =>
      rw [he] at h
      exact congrArg Except.ok (Option.some.inj h)
    | error c =>
      rw [he] at h
      cases h
  unfold State.translateDirect at ht
  dsimp only at ht
  split at ht
  · injection ht with ht
    rwa [← ht]
  split at ht
  · exact pageAddr_aligned ht hv
  · cases ht
  · cases ht

theorem reqVa_aligned (s : State) (q : Fin 4096) : s.reqVa q % 32 = 0 := by
  unfold State.reqVa State.qpRing
  omega

/-- One byte of DRAM written through a port. -/
theorem portWrite_byte {s : State} {x : BitVec 16} {a : Nat} {b : Byte} {m : CoreId} {o : Nat} (h : placeOf a = .dram m o) :
    (s.portWrite x [(a, 1)] [b]).dev.dram.get a = b := by
  have hd : (s.portWrite x [(a, 1)] [b]).dev.dram = s.dev.dram.write a [b] := by
    have hput : s.physPut x (s.portSup x) a ((List.range 1).zip ([b].take 1)) false = s.modDev fun d => { d with dram := d.dram.write a [b] } := by
      unfold State.physPut
      rw [h]
      rfl
    refine (chargePort_read (g := fun s => s.dev.dram) (fun _ _ _ _ => rfl) _ x a 1).trans ?_
    rw [hput]
    rfl
  rw [hd, get_write]
  simp

/-- The ring of a pair moves on to the next request, of which nothing is done. -/
def ringAdvanced (s : State) (q : Fin 4096) (v : BitVec 32) : State :=
  (s.writeDram (s.qpAt q + 0x50) (leBytes 4 v.toNat)).modQp q fun k => { k with pos := 0, taken := none, last := none, asked := false }

/-- How a request ends: its status is written, then the consumer count; and a request that fails puts its pair in the error state. -/
theorem endRequest_form (s : State) (q : Fin 4096) (st : BitVec 8) : ∃ (r : State) (c : BitVec 8), r.qpAt q = s.qpAt q ∧ (st ≠ 0x01 → c = st) ∧
    (s.endRequest q st = if c = 0x01 then ringAdvanced r q (s.qpCons q + 1) else (ringAdvanced r q (s.qpCons q + 1)).qpError q) ∧
    ∀ pa m o w, s.portPa (s.qpCtx q) (s.reqVa q) true = some pa → placeOf pa = .dram m o → s.workReq q = some w → w.stamp = 0 →
      r.dev.dram.get (pa + 7) = st := by
  generalize hE : s.endRequest q st = e
  unfold State.endRequest at hE
  extract_lets x w stamp c s1 s2 s3 s4 at hE
  have h1 : s1.qpAt q = s.qpAt q := by
    simp only [s1]
    split
    · exact portWrite_apart (qpAt_apart q) ..
    · rfl
  have h2 : s2.qpAt q = s.qpAt q := by
    simp only [s2]
    generalize stamp = a
    generalize w = b
    split
    · split
      · exact (portWrite_apart (qpAt_apart q) ..).trans h1
      · exact h1
    · exact h1
  refine ⟨s2, c, h2, fun hst => if_neg fun hc => hst hc.1, ?_, fun pa m o w' hpa hplace hw hz => ?_⟩
  · rw [← hE, ringAdvanced, h2]
  · have hw' : w = some w' := hw
    have hstamp : stamp = none := by
      simp only [stamp, hw', Option.bind_some]
      exact if_pos hz
    have hc : c = st := if_neg fun hc => by simp [hw', hz] at hc
    have hs2 : s2 = s1 := by
      simp only [s2, hstamp]
    have hs1 : s1 = s.portWrite x [(pa + 7, 1)] [st] := by
      simp only [s1, hc]
      rw [show s.portPa x (s.reqVa q) true = some pa from hpa]
    rw [hs2, hs1]
    exact portWrite_byte (placeOf_dram_add (portPa_aligned hpa (reqVa_aligned s q)) (by decide) hplace)

theorem endRequest_spec (s : State) (q : Fin 4096) (st : BitVec 8) : (s.endRequest q st).qpCons q = s.qpCons q + 1 ∧
    ((s.endRequest q st).qp q).pos = 0 ∧ ((s.endRequest q st).qp q).taken = none ∧ ((s.endRequest q st).qp q).asked = false ∧
    (st ≠ 0x01 → (s.endRequest q st).qpSt q = 2) ∧
    ∀ pa m o w, s.portPa (s.qpCtx q) (s.reqVa q) true = some pa → placeOf pa = .dram m o → s.workReq q = some w → w.stamp = 0 →
      (pa + 7 < s.qpAt q ∨ s.qpAt q + 128 ≤ pa + 7) → (s.endRequest q st).dev.dram.get (pa + 7) = st := by
  obtain ⟨r, c, hat, hc, he, hbyte⟩ := endRequest_form s q st
  have hqp (e : State) : (if c = 0x01 then e else e.qpError q).qp q = e.qp q := by
    split <;> rfl
  have hcons (e : State) : (if c = 0x01 then e else e.qpError q).qpCons q = e.qpCons q := by
    split
    · rfl
    · exact qpCons_qpError e q
  rw [he]
  refine ⟨(hcons _).trans (qpCons_written r q _), ?_, ?_, ?_, fun hst => ?_, fun pa m o w hpa hplace hw hz hout => ?_⟩
  · rw [hqp, ringAdvanced, qp_modQp_self]
  · rw [hqp, ringAdvanced, qp_modQp_self]
  · rw [hqp, ringAdvanced, qp_modQp_self]
  · rw [if_neg (by rw [hc hst]; exact hst)]
    exact qpSt_qpError _ q
  · have hold := hbyte pa m o w hpa hplace hw hz
    have hwritten : (r.writeDram (r.qpAt q + 0x50) (leBytes 4 (s.qpCons q + 1).toNat)).dev.dram.get (pa + 7) = st :=
      (get_write_outside _ _ _ _ (by rw [hat, leBytes_length]; omega)).trans hold
    split
    · exact hwritten
    · refine (get_write_outside _ _ _ _ ?_).trans hwritten
      rw [leBytes_length]
      change pa + 7 < r.qpAt q ∨ r.qpAt q + 8 ≤ pa + 7
      omega

theorem workRequestEnd_spec {s : State} (hp : s.dev.power = .running) (hx : s.dev.phase.getLsbD 0 = true) (hv : s.qpValid s.pair = true)
    (hst : s.qpSt s.pair = 1) (hi : s.qpIdle s.pair = false) {st : BitVec 8} (he : s.endStatus s.pair = some st) :
    exec .workRequestEnd s = .next (s.endRequest s.pair st) := by
  refine congrArg Host.Outcome.next ((if_neg ?_).trans (by rw [he]))
  simp [hp, hv, hst, hi, show s.exchange = true from hx]

theorem sendRing_holds : sendRing := by
  intro s q x hp hx hv hst
  refine ⟨fun pa hpa => ?_, fun r ht hw => ?_, fun st hi he => ⟨_, workRequestEnd_spec hp hx hv hst hi he, endRequest_spec s q st⟩⟩
  · intro v
    have hd := doorbell_spec hp hx hv hst hpa
    split
    next hlt => exact hd.trans (congrArg _ (if_pos hlt))
    next hlt => exact hd.trans (congrArg _ (if_neg hlt))
  intro k at_ asks sent
  have hasks (t : State) (ht : ∀ a bs, t.sentReq q r a bs = s.sentReq q r a bs) (a : W64) (bs : List Byte) :
      Sent.request q.val (t.sentReq q r a bs) = asks a bs := by
    rw [ht, State.sentReq, qpPsn_sender]
  refine ⟨malformed_ends hp hx hv hst ht hw, fun hok => ⟨?_, fun ho hf ha => ?_, workRequestRead_asked hp hx hv hst ht hw hok, ?_, ?_⟩⟩
  · intro i op hi hop n ps hr
    have hexec : exec i s = .next (s.sendBytes r.op) := by
      rcases hi with ⟨rfl, rfl⟩ | ⟨rfl, rfl⟩ <;> exact congrArg (fun o => Host.Outcome.next (s.sendBytes o)) hop.symm
    obtain ⟨hqp, hpsn, hout⟩ := sentPacket_spec (s.portRead x ps).2 q r (r.remote + w64 k.pos) n (ps.flatMap fun p => s.physRead x p.1 p.2)
    have hk : (s.portRead x ps).2.qp q = k := portRead_apart (g := fun s => s.qp q) (fun _ _ _ _ => rfl) ..
    refine ⟨_, hexec.trans (congrArg _ (sendBytes_sent hp hx hv hst ht hw hok rfl hr)), ⟨?_, ?_⟩, ?_, ?_⟩
    · rw [hqp, hk]
    · rw [hqp, hk]
    · rw [hpsn, portRead_apart (g := fun s => s.qpPsn q false) fun _ _ _ _ => rfl]
    · rw [hout, portRead_apart (g := State.outbox) fun _ _ _ _ => rfl, hasks _ fun a bs => portRead_apart (sentReq_reads q r a bs) ..]
      rfl
  · rw [workRequestRead_asks hp hx hv hst ht hw hok ho hf ha, hasks s fun _ _ => rfl]
  · intro ho hf n ps hr
    exact workRequestRead_answered hp hx hv hst ht hw hok ho hf hr
  · intro i op hi hop p l n
    have hexec : exec i s = .next (s.sendPeer r.op) := by
      rcases hi with ⟨rfl, rfl⟩ | ⟨rfl, rfl⟩ | ⟨rfl, rfl⟩ <;> exact congrArg (fun o => Host.Outcome.next (s.sendPeer o)) hop.symm
    refine ⟨fun hd => hexec.trans (congrArg _ (sendPeer_down hp hx hv hst ht hw hok hd)), fun ps hd hl hr => ?_⟩
    obtain ⟨hqp, f, hlink, hout⟩ := sentFrame_spec (s.portRead x ps).2 q r p (w64 (r.remote.toNat + k.pos)) n
      (ps.flatMap fun p => s.physRead x p.1 p.2) l.sendSeq
    have hk : (s.portRead x ps).2.qp q = k := portRead_apart (g := fun s => s.qp q) (fun _ _ _ _ => rfl) ..
    have hlinks : (s.portRead x ps).2.dev.links[p] = l := portRead_apart (g := fun s => s.dev.links[p]) (fun _ _ _ _ => rfl) ..
    refine ⟨_, hexec.trans (congrArg _ (sendPeer_sent hp hx hv hst ht hw hok hd hl rfl hr)), ⟨?_, ?_⟩, ?_, ?_, f, ?_, ?_⟩
    · rw [hqp, hk]
    · rw [hqp, hk]
    · rw [hqp]
    · rw [hlink, hlinks]
    · rw [hlink, hlinks]
    · rw [hout, portRead_apart (g := State.outbox) fun _ _ _ _ => rfl, hasks _ fun a bs => portRead_apart (sentReq_reads q r a bs) ..]
      rfl

/-- Settles O53: a host's request is followed through its checks and its arrival to what it performs, the send ring's through its fields to the packet or frame
that leaves, and its end through what it writes. -/
theorem queuePairPorts : Obligations.QueuePairPorts := ⟨hostRequests_holds, sendRing_holds⟩

end Sys2Proof.Proofs
end
